-- ==== Sys2Proof/Word.lean ====
section
/-!
DEFINITION. The word types of the PG-940 and their plainest arithmetic (spec/00_scope.md R1, R4).
-/

namespace Sys2Proof

/-- A 64-bit register value (04_registers.md R82). -/
abbrev Word := BitVec 64
/-- One byte of any memory. -/
abbrev Byte := BitVec 8
/-- A v register (06_vector.md R126). -/
abbrev VWord := BitVec 512

/-- R4 `SignExtend(v, 64)`. -/
abbrev sext64 {n : Nat} (v : BitVec n) : Word := v.signExtend 64
/-- R4 `ZeroExtend(v, 64)`. -/
abbrev zext64 {n : Nat} (v : BitVec n) : Word := v.zeroExtend 64

/-- The bit `i` of `v` as a Bool, false beyond the width. -/
abbrev bitAt {n : Nat} (v : BitVec n) (i : Nat) : Bool := v.getLsbD i

/-- The field `[lo + len - 1 : lo]` of `v` as a number (R1). -/
abbrev fld {n : Nat} (v : BitVec n) (lo len : Nat) : Nat := (v.extractLsb' lo len).toNat

/-- A Bool as a one-bit number. -/
abbrev b2n (b : Bool) : Nat := if b then 1 else 0

end Sys2Proof
end

