-- ==== Sys2Proof/Syntax.lean ====
section
/-!
DEFINITION. The instructions and events of the PG-940: one constructor of `Instr` per row of
spec/opcode_table.json. Instructions carry their operands by kind (03_encoding.md R58 to R68 and the
entry of each); events carry what their row names: the strand, unit, queue or window concerned, the
message that arrived, and the choices that the manual leaves to the agent that acts.
-/

namespace Sys2Proof

abbrev XReg := Fin 32
abbrev VReg := Fin 16
abbrev PReg := Fin 8
abbrev KReg := Fin 8
abbrev SReg := Fin 8

/-- R65: the guard predicate and its negation. -/
structure Guard where
  neg : Bool
  p   : PReg
  deriving DecidableEq, Repr

/-- R65: the guard "always". -/
def Guard.always : Guard := ⟨false, 7⟩

/-- R67: the memory-side cache policy. It changes only timing. -/
inductive Hint where
  | normal | stream | keep
  deriving DecidableEq, Repr

/-- R99: a slot that reads an x register or an input port. -/
inductive Src where
  | x (r : XReg)
  | iq (n : Fin 2)
  deriving DecidableEq, Repr

/-- R99: a slot that writes an x register or an output port. -/
inductive Dst where
  | x (r : XReg)
  | oq (n : Fin 2)
  deriving DecidableEq, Repr

/-- R62: the B operand of classes 2 to 4, a slot or the 40-bit immediate of the I form. -/
inductive Opnd where
  | src (s : Src)
  | imm (v : BitVec 40)
  deriving DecidableEq, Repr

/-- R62: a B operand that accepts no port. -/
inductive XOpnd where
  | x (r : XReg)
  | imm (v : BitVec 40)
  deriving DecidableEq, Repr

/-- R130: the B operand of a vector instruction. -/
inductive VOpnd where
  | v (r : VReg)
  | imm (v : BitVec 40)
  deriving DecidableEq, Repr

/-- A slot that names an x or a v register (R293, R294). -/
inductive XV where
  | x (r : XReg)
  | v (r : VReg)
  deriving DecidableEq, Repr

/-- R288, R296: QMARK's A slot, a handle register or an output port. -/
inductive HPort where
  | x (r : XReg)
  | oq (n : Fin 2)
  deriving DecidableEq, Repr

/-- R63: a memory operand. -/
structure MemOp where
  seg  : SReg
  idx  : XReg
  disp : BitVec 32
  deriving DecidableEq, Repr

/-- R35: the format codes. -/
inductive Fmt where
  | f32 | bf16 | f16 | e4 | e5 | i32 | i16 | i8 | u8 | n4
  deriving DecidableEq, Repr

/-- R44: the rounding modes. -/
inductive Rnd where
  | rne | rze | rpi | rni | rst
  deriving DecidableEq, Repr

/-- R68: the ordering annotation. -/
inductive Ordn where
  | plain | acq | rel | ar
  deriving DecidableEq, Repr

/-- R68: access sizes. -/
inductive Size where
  | b | h | w | d
  deriving DecidableEq, Repr

/-- R68: the conditions of CMP. -/
inductive Cond where
  | eq | ne | lt | le | ltu | leu
  deriving DecidableEq, Repr

/-- R111, R138: the conditions of FCMP and VCMP. -/
inductive FCond where
  | eq | ne | lt | le | un | or
  deriving DecidableEq, Repr

/-- R145, R146: the operation of VRED and VSCAN. -/
inductive RedOp where
  | sum | min | max
  deriving DecidableEq, Repr

/-- R41: the N4 code types. -/
inductive NType where
  | uni | e2m1 | pow2 | hyb
  deriving DecidableEq, Repr

/-- R87: the system registers. -/
inductive SysReg where
  | status | trapbase | utrapbase | trapcause | trapaddr | trappc | routemask
  | quantum | cycle | devtime | tileid | logid | jobid | segtab
  | tolbf16 | tolfp16 | tole4 | tole5 | toln4 | rngsta | rngstb | sema
  deriving DecidableEq, Repr

/-- R114: the three forms of PMOV. -/
inductive PMovForm where
  | pp (pd pa : PReg)
  | px (pd : PReg) (a : Src)
  | xp (d : Dst) (pa : PReg)
  deriving DecidableEq, Repr

/-- R140: the four forms of VMOV. -/
inductive VMovForm where
  | vv (fmt : Fmt) (mk : KReg) (d a : VReg)
  | kx (kd : KReg) (a : XReg)
  | xk (d : XReg) (ka : KReg)
  | kk (kd ka : KReg)
  deriving DecidableEq, Repr

/-- R269, R263: the kinds of a queue entry. -/
inductive QKind where
  | data | bell | shutter | stop
  deriving DecidableEq, Repr

/-- R297: the selections of QSTAT. -/
inductive QSel where
  | ent | depth | space | cnt | cmt | headk
  deriving DecidableEq, Repr

/-- R359: the trap causes. -/
inductive Cause where
  | illegal | priv | seg | align | straddle | addr | window | assay | uncorr
  | queue | handle | fstate | timer | wake | break_
  deriving DecidableEq, Repr

/-- A strand, by its site number (1,024 die + 32 y + x) and its number in the tile. -/
structure SRef where
  site : Nat
  k    : Nat
  deriving DecidableEq, Repr

/-- One of the engines that stall on a translation fault (R175): the loom queue of tile `t` of a yard,
or a carter by 2 yard + c. -/
inductive Engine where
  | loom (yard t : Nat)
  | carter (n : Nat)
  deriving DecidableEq, Repr

/-- R329: a sender of window stores: a strand, or a carter by 2 yard + c. -/
inductive Sender where
  | strand (e : SRef)
  | carter (n : Nat)
  deriving DecidableEq, Repr

/-- R330, R179: one reflection path at its sender. -/
structure PathId where
  sender : Sender
  win    : Nat
  branch : Nat
  deriving DecidableEq, Repr

/-- R327 to R331: a reflected write as it travels. `from_` is the sending device, `path` its path,
`seed` is the JobSeed of the sender's job, by which the jobs
of one domain job count as one (R409); `bytes` pairs an offset in the window with each byte that is written, and
`poison` carries R178. -/
structure RWrite where
  from_  : Nat
  path   : PathId
  job    : BitVec 16
  seed   : BitVec 64
  rxwin  : Nat
  seq    : Nat
  epoch  : Nat
  open_  : Bool
  offset : Nat
  bytes  : List (Nat × BitVec 8)
  size   : Nat
  poison : Bool
  deriving DecidableEq, Repr

/-- R330: what a receiver answers. -/
inductive RAnswer where
  | ack | refuse
  deriving DecidableEq, Repr

/-- R384: a steward request of a host queue; `port` is the port of the host queue it came through, or 2 for a freeze
request of the link steward (R372). -/
structure HostReq where
  port  : Nat
  op    : BitVec 8
  hcq   : Nat
  hport : Nat
  job   : BitVec 16
  tag   : BitVec 32
  arg0  : BitVec 64
  arg1  : BitVec 64
  arg2  : BitVec 64
  rsv   : Bool
  deriving DecidableEq, Repr

/-- The allocator's and the pager's choices for one page (R30, R402). -/
structure PageGrant where
  va    : Nat
  size  : Nat
  frame : Nat
  deriving DecidableEq, Repr

/-- What the stewards grant one booth of a start request (R30): its sites in logical order, the keys
of the queues that its QUEUE records define, each with the branches of a multicast head, the numbers of its
windows in the order of its WINDOW records, further entries of its tiles' segment tables (R340), the VA of the task spill
area of each site (R22), and the HBM frame that backs each of its context slots (R341). -/
structure BoothGrant where
  sites   : List Nat
  queues  : List (List Nat)
  windows : List Nat
  segs    : List (BitVec 128)
  tasks   : List Nat
  backing : List Nat
  deriving DecidableEq, Repr

/-- R409: a booth of the domain job that the link stewards know from another device, with the names of its receive windows. -/
structure RemoteBooth where
  dev  : Nat
  name : List (BitVec 8)
  rx   : List (List (BitVec 8))
  deriving DecidableEq, Repr

/-- What the stewards grant a start request (R30). `ok = false` is the allocator's rejection; `tables` are the frames
for the job's page tables, `roots` the root of each die, `futures` (cluster and index) and `qidx` (queue keys) what the
job may define later, `spills` the VA of the spill area of a queue key, `twins` the pairs of images that run as
twins (R286; log entry 75), `remote` the booths of the domain job on other devices (R409; log entry 103). -/
structure Grants where
  ok      : Bool
  job     : BitVec 16
  booths  : List BoothGrant
  pages   : List PageGrant
  roots   : List (Nat × Nat)
  tables  : List Nat
  futures : List (Nat × Nat)
  qidx    : List Nat
  spills  : List (Nat × Nat)
  twins   : List (Nat × Nat)
  remote  : List RemoteBooth
  deriving DecidableEq, Repr

/-- What the first-stage loader of a die brings up in phase STEWARDS (R389): the frames of the tile map's three pages,
the bytes of each steward by logical tile and local-store offset, where each steward starts, the idle code of the
reserve strands, which starts at 0x3_C000, and where the die's log lies in HBM (R367). -/
structure BootLoad where
  frames  : List Nat
  log     : Nat
  images  : List (Nat × Nat × List (BitVec 8))
  entries : List (Nat × Nat)
  idle    : List (BitVec 8)
  deriving DecidableEq, Repr

/-- One constructor per row of spec/opcode_table.json. -/
inductive Instr where
  -- class 0: system and strand (05_scalar.md)
  | nop (g : Guard)
  | fork (g : Guard) (n : Fin 8) (d a : XReg) (tgt : BitVec 48)
  | stop (g : Guard)
  | yield (g : Guard) (b : XOpnd)
  | yieldPauseEnd (e : SRef)
  | wake (g : Guard) (a b : XReg)
  | wakeEventDelivery (e : SRef) (start : Word)
  | trap (g : Guard) (n : BitVec 32)
  | eret (g : Guard)
  | sysrd (g : Guard) (d : XReg) (r : SysReg)
  | syswr (g : Guard) (r : SysReg) (a : XReg)
  | segld (g : Guard) (sd : SReg) (b : XOpnd)
  | halt (g : Guard)
  -- class 1: control
  | br (g : Guard) (tgt : BitVec 48)
  | brl (g : Guard) (tgt : BitVec 48)
  | brx (g : Guard) (a : XReg)
  | brxl (g : Guard) (a : XReg)
  | ret (g : Guard)
  | loop (g : Guard) (a : XReg) (tgt : BitVec 48)
  -- class 2: integer
  | add (g : Guard) (d : Dst) (a : Src) (b : Opnd)
  | sub (g : Guard) (d : Dst) (a : Src) (b : Opnd)
  | mul (g : Guard) (d : Dst) (a : Src) (b : Opnd)
  | mulh (g : Guard) (d : Dst) (a : Src) (b : Opnd)
  | mulhu (g : Guard) (d : Dst) (a : Src) (b : Opnd)
  | div (g : Guard) (d : Dst) (a : Src) (b : Opnd)
  | divu (g : Guard) (d : Dst) (a : Src) (b : Opnd)
  | rem (g : Guard) (d : Dst) (a : Src) (b : Opnd)
  | remu (g : Guard) (d : Dst) (a : Src) (b : Opnd)
  | and (g : Guard) (d : Dst) (a : Src) (b : Opnd)
  | or (g : Guard) (d : Dst) (a : Src) (b : Opnd)
  | xor (g : Guard) (d : Dst) (a : Src) (b : Opnd)
  | andn (g : Guard) (d : Dst) (a : Src) (b : Opnd)
  | shl (g : Guard) (d : Dst) (a : Src) (b : Opnd)
  | shr (g : Guard) (d : Dst) (a : Src) (b : Opnd)
  | sar (g : Guard) (d : Dst) (a : Src) (b : Opnd)
  | rol (g : Guard) (d : Dst) (a : Src) (b : Opnd)
  | min (g : Guard) (d : Dst) (a : Src) (b : Opnd)
  | max (g : Guard) (d : Dst) (a : Src) (b : Opnd)
  | minu (g : Guard) (d : Dst) (a : Src) (b : Opnd)
  | maxu (g : Guard) (d : Dst) (a : Src) (b : Opnd)
  | clz (g : Guard) (d : Dst) (a : Src)
  | ctz (g : Guard) (d : Dst) (a : Src)
  | popc (g : Guard) (d : Dst) (a : Src)
  | brev (g : Guard) (d : Dst) (a : Src)
  | mov (g : Guard) (d : Dst) (a : Src)
  | movi (g : Guard) (d : Dst) (v : BitVec 48)
  | ext (g : Guard) (d : Dst) (a : Src) (b : Opnd)
  | extu (g : Guard) (d : Dst) (a : Src) (b : Opnd)
  | ins (g : Guard) (d : XReg) (a : Src) (b : Opnd)
  | sel (g : Guard) (pn : PReg) (d : Dst) (a : Src) (b : Opnd)
  | lea (g : Guard) (d : Dst) (m : MemOp)
  | caddr (g : Guard) (d : Dst) (a : Src)
  | crel (g : Guard) (d : Dst) (a : Src)
  -- class 3: scalar floating point
  | fadd (g : Guard) (f : Fmt) (r : Rnd) (sat : Bool) (d : Dst) (a : Src) (b : Opnd)
  | fsub (g : Guard) (f : Fmt) (r : Rnd) (sat : Bool) (d : Dst) (a : Src) (b : Opnd)
  | fmul (g : Guard) (f : Fmt) (r : Rnd) (sat : Bool) (d : Dst) (a : Src) (b : Opnd)
  | ffma (g : Guard) (f : Fmt) (r : Rnd) (sat : Bool) (d : Dst) (a b c : Src)
  | fmin (g : Guard) (f : Fmt) (d : Dst) (a : Src) (b : Opnd)
  | fmax (g : Guard) (f : Fmt) (d : Dst) (a : Src) (b : Opnd)
  | fcmp (g : Guard) (f : Fmt) (cc : FCond) (pd : PReg) (a : Src) (b : Opnd)
  | fcvt (g : Guard) (t s : Fmt) (r : Rnd) (sat l : Bool) (d : Dst) (a : Src)
  | fdiv (g : Guard) (f : Fmt) (r : Rnd) (sat : Bool) (d : Dst) (a : Src) (b : Opnd)
  -- class 4: compare and predicate
  | cmp (g : Guard) (cc : Cond) (pd : PReg) (a : Src) (b : Opnd)
  | pand (g : Guard) (na nb : Bool) (pd pa pb : PReg)
  | por (g : Guard) (na nb : Bool) (pd pa pb : PReg)
  | pxor (g : Guard) (na nb : Bool) (pd pa pb : PReg)
  | pnot (g : Guard) (pd pa : PReg)
  | pmov (g : Guard) (f : PMovForm)
  -- class 5: memory (09_memory_instr.md)
  | ld (g : Guard) (h : Hint) (sz : Size) (sgn : Bool) (o : Ordn) (d : XReg) (m : MemOp)
  | st (g : Guard) (h : Hint) (sz : Size) (o : Ordn) (d : XReg) (m : MemOp)
  | ldv (g : Guard) (h : Hint) (sz : Size) (o : Ordn) (mk : KReg) (d : VReg) (m : MemOp)
  | stv (g : Guard) (h : Hint) (sz : Size) (o : Ordn) (mk : KReg) (d : VReg) (m : MemOp)
  | gath (g : Guard) (h : Hint) (sz : Size) (scl : Bool) (o : Ordn) (mk : KReg) (d : VReg) (m : MemOp) (b : VReg)
  | scat (g : Guard) (h : Hint) (sz : Size) (scl : Bool) (o : Ordn) (mk : KReg) (d : VReg) (m : MemOp) (b : VReg)
  | stn (g : Guard) (h : Hint) (hi : Bool) (o : Ordn) (d : XReg) (m : MemOp)
  -- class 6: atomics and fences; `d = none` is the .NR form
  | aadd (g : Guard) (h : Hint) (sz : Size) (o : Ordn) (d : Option XReg) (m : MemOp) (b : XReg)
  | aand (g : Guard) (h : Hint) (sz : Size) (o : Ordn) (d : Option XReg) (m : MemOp) (b : XReg)
  | aor (g : Guard) (h : Hint) (sz : Size) (o : Ordn) (d : Option XReg) (m : MemOp) (b : XReg)
  | axor (g : Guard) (h : Hint) (sz : Size) (o : Ordn) (d : Option XReg) (m : MemOp) (b : XReg)
  | amin (g : Guard) (h : Hint) (sz : Size) (o : Ordn) (d : Option XReg) (m : MemOp) (b : XReg)
  | amax (g : Guard) (h : Hint) (sz : Size) (o : Ordn) (d : Option XReg) (m : MemOp) (b : XReg)
  | aminu (g : Guard) (h : Hint) (sz : Size) (o : Ordn) (d : Option XReg) (m : MemOp) (b : XReg)
  | amaxu (g : Guard) (h : Hint) (sz : Size) (o : Ordn) (d : Option XReg) (m : MemOp) (b : XReg)
  | axch (g : Guard) (h : Hint) (sz : Size) (o : Ordn) (d : Option XReg) (m : MemOp) (b : XReg)
  | acas (g : Guard) (h : Hint) (sz : Size) (o : Ordn) (d : XReg) (m : MemOp) (b : XReg)
  | afadd (g : Guard) (h : Hint) (f : Fmt) (o : Ordn) (d : Option XReg) (m : MemOp) (b : XReg)
  | afmin (g : Guard) (h : Hint) (f : Fmt) (o : Ordn) (d : Option XReg) (m : MemOp) (b : XReg)
  | afmax (g : Guard) (h : Hint) (f : Fmt) (o : Ordn) (d : Option XReg) (m : MemOp) (b : XReg)
  | fence (g : Guard) (o : Ordn) (mask : BitVec 6) (scope : BitVec 3)
  | fenceComplete (e : SRef)
  | memoryReply (e : SRef) (n : Option Nat)
  | poisonReport (e : SRef) (addr : Nat)
  -- class E: cellar commands
  | nsum (g : Guard) (h : Hint) (d : XReg) (m : MemOp)
  | nmax (g : Guard) (h : Hint) (d : XReg) (m : MemOp)
  | naxpy (g : Guard) (h : Hint) (d : XReg) (m : MemOp) (b : XReg)
  | nscale (g : Guard) (h : Hint) (d : XReg) (m : MemOp) (b : XReg)
  | ncvt (g : Guard) (h : Hint) (d : XReg) (m : MemOp)
  | ndot (g : Guard) (h : Hint) (d : XReg) (m : MemOp)
  | cellarCommandComplete (u : Nat)
  -- class 7: counters (14_counters.md)
  | landset (g : Guard) (d : XReg) (m : MemOp) (b : XReg)
  | landadd (g : Guard) (o : Ordn) (d : Option XReg) (m : MemOp) (b : XReg)
  | marm (g : Guard) (slot : Fin 4) (m : MemOp)
  | mwait (g : Guard) (d : XReg) (b : XOpnd)
  | mwaitWake (e : SRef)
  | mwaitLimitExpiry (e : SRef)
  | mclr (g : Guard) (b : XOpnd)
  | rng (g : Guard) (d : XReg)
  | vrng (g : Guard) (mk : KReg) (d : VReg)
  -- class 8: queues (12_queue_instr.md)
  | qdef (g : Guard) (d : XReg) (m : MemOp)
  | qkill (g : Guard) (a : XReg)
  | qbind (g : Guard) (port : Fin 4) (a : XReg) (b : XOpnd)
  | qpush (g : Guard) (try_ : Option PReg) (rel : Bool) (a : XReg) (b : XV)
  | qpop (g : Guard) (try_ : Option PReg) (acq : Bool) (d : XV) (a b : XReg)
  | qpeek (g : Guard) (try_ : Option PReg) (acq : Bool) (d : XV) (a b : XReg)
  | qmark (g : Guard) (kind : QKind) (a : HPort) (b : XOpnd)
  | qstat (g : Guard) (sel : QSel) (d a : XReg)
  | queueWaitResume (q : Nat)
  | queueHeldEnd (q : Nat)
  | roundEdge (job booth : Nat)
  | twinCompare (q : Nat)
  -- class 9: tasks and futures
  | tspawn (g : Guard) (prio : Fin 4) (a b c : XReg)
  | tend (g : Guard)
  | readyQueueHeldEnd (site : Nat) (kib : Nat)
  | tnext (g : Guard) (try_ : Option PReg)
  | readyRecordArrival (site : Nat)
  | tjoin (g : Guard) (m : MemOp)
  | balanceTick (site : Nat)
  | balanceSnapshotArrival (site : Nat) (dir : Fin 4) (n : Nat)
  | recordMigrationArrival (site sender : Nat) (prio : Fin 4) (r : BitVec 128)
  | fnew (g : Guard) (d : XReg)
  | fset (g : Guard) (a : XReg) (b : XOpnd)
  | fget (g : Guard) (try_ : Bool) (d a b : XReg)
  | waiterNodeFree (cluster : Nat)
  | ffree (g : Guard) (a : XReg)
  | fpoison (g : Guard) (a : XReg) (b : XOpnd)
  -- class A: vector arithmetic (06_vector.md)
  | vadd (g : Guard) (f : Fmt) (r : Rnd) (sat : Bool) (mk : KReg) (d a : VReg) (b : VOpnd)
  | vsub (g : Guard) (f : Fmt) (r : Rnd) (sat : Bool) (mk : KReg) (d a : VReg) (b : VOpnd)
  | vmul (g : Guard) (f : Fmt) (r : Rnd) (sat : Bool) (mk : KReg) (d a : VReg) (b : VOpnd)
  | vfma (g : Guard) (f : Fmt) (r : Rnd) (sat : Bool) (mk : KReg) (d a b c : VReg)
  | vfms (g : Guard) (f : Fmt) (r : Rnd) (sat : Bool) (mk : KReg) (d a b c : VReg)
  | vmin (g : Guard) (f : Fmt) (mk : KReg) (d a : VReg) (b : VOpnd)
  | vmax (g : Guard) (f : Fmt) (mk : KReg) (d a : VReg) (b : VOpnd)
  | vabs (g : Guard) (f : Fmt) (sat : Bool) (mk : KReg) (d a : VReg)
  | vneg (g : Guard) (f : Fmt) (sat : Bool) (mk : KReg) (d a : VReg)
  | vdiv (g : Guard) (f : Fmt) (r : Rnd) (sat : Bool) (mk : KReg) (d a : VReg) (b : VOpnd)
  | vsqrt (g : Guard) (f : Fmt) (r : Rnd) (sat : Bool) (mk : KReg) (d a : VReg)
  | vrcp (g : Guard) (f : Fmt) (r : Rnd) (sat : Bool) (mk : KReg) (d a : VReg)
  | vrsq (g : Guard) (f : Fmt) (r : Rnd) (sat : Bool) (mk : KReg) (d a : VReg)
  | vexp2 (g : Guard) (f : Fmt) (r : Rnd) (sat : Bool) (mk : KReg) (d a : VReg)
  | vlog2 (g : Guard) (f : Fmt) (r : Rnd) (sat : Bool) (mk : KReg) (d a : VReg)
  | vdot (g : Guard) (f : Fmt) (r : Rnd) (sat : Bool) (mk : KReg) (d a b : VReg)
  | vcmp (g : Guard) (f : Fmt) (cc : FCond) (mk : KReg) (kd : KReg) (a : VReg) (b : VOpnd)
  | vand (g : Guard) (f : Fmt) (mk : KReg) (d a : VReg) (b : VOpnd)
  | vor (g : Guard) (f : Fmt) (mk : KReg) (d a : VReg) (b : VOpnd)
  | vxor (g : Guard) (f : Fmt) (mk : KReg) (d a : VReg) (b : VOpnd)
  | vshl (g : Guard) (f : Fmt) (mk : KReg) (d a : VReg) (b : VOpnd)
  | vshr (g : Guard) (f : Fmt) (mk : KReg) (d a : VReg) (b : VOpnd)
  | vsar (g : Guard) (f : Fmt) (mk : KReg) (d a : VReg) (b : VOpnd)
  -- class B: vector data
  | vmov (g : Guard) (f : VMovForm)
  | vbcast (g : Guard) (f : Fmt) (mk : KReg) (d : VReg) (a : Option VReg) (b : XOpnd)
  | vperm (g : Guard) (f : Fmt) (mk : KReg) (d a b : VReg)
  | vsel (g : Guard) (f : Fmt) (mk : KReg) (d a b : VReg)
  | vred (g : Guard) (f : Fmt) (op : RedOp) (r : Rnd) (mk : KReg) (d : XReg) (a : VReg)
  | vscan (g : Guard) (f : Fmt) (op : RedOp) (r : Rnd) (sat : Bool) (mk : KReg) (d a : VReg)
  | vcvt (g : Guard) (t s : Fmt) (r : Rnd) (sat : Bool) (part : Fin 4) (mk : KReg) (d a : VReg)
  | vpack (g : Guard) (s : Fmt) (r : Rnd) (ty : NType) (part : Fin 4) (d a : VReg) (b : Option VReg) (c : XReg)
  | vunpk (g : Guard) (t : Fmt) (r : Rnd) (sat : Bool) (part : Fin 4) (hi : Bool) (mk : KReg) (d a : VReg) (b : XReg)
  | vextr (g : Guard) (f : Fmt) (d : XReg) (a : VReg) (b : XOpnd)
  | vins (g : Guard) (f : Fmt) (d : VReg) (a : XReg) (b : XOpnd)
  | vcomp (g : Guard) (f : Fmt) (mk : KReg) (d a : VReg)
  | vprune (g : Guard) (f : Fmt) (n : Fin 3) (d a : VReg) (c : XReg)
  -- class C: loom (10_loom.md)
  | mcfg (g : Guard) (b : XOpnd)
  | mzero (g : Guard) (int : Bool) (nort : Bool) (b : XOpnd)
  | mmul (g : Guard) (d : XReg) (m : MemOp)
  | mmuls (g : Guard) (d : XReg) (m : MemOp)
  | mloada (g : Guard) (d : XReg) (m : MemOp)
  | mdrain (g : Guard) (d : XReg) (m : MemOp)
  | mchk (g : Guard) (d : XReg) (b : XOpnd)
  | mloc (g : Guard) (d : XReg) (m : MemOp) (b : XReg)
  | mcorr (g : Guard) (d : XReg) (b : XOpnd)
  | mretry (g : Guard) (d : XReg) (b : XOpnd)
  | minj (g : Guard) (a : XReg)
  | mstat (g : Guard) (sel : Fin 3) (d : XReg) (b : XOpnd)
  | engineAcceptance (e : SRef)
  | loomTurn (yard : Nat)
  | loomCommandComplete (yard t : Nat)
  -- class D: carter
  | ccopy (g : Guard) (h : Hint) (c stripe m : Bool) (d : XReg) (mm : MemOp)
  | cfill (g : Guard) (h : Hint) (c : Bool) (d : XReg) (mm : MemOp)
  | cconv (g : Guard) (h : Hint) (c stripe m : Bool) (d : XReg) (mm : MemOp)
  | cgath (g : Guard) (h : Hint) (c m : Bool) (d : XReg) (mm : MemOp)
  | cstat (g : Guard) (h : Hint) (c : Bool) (d : XReg)
  | carterChunk (n : Nat)
  | carterCommandComplete (n : Nat)
  -- class E: windows and contexts (13_tables.md)
  | wmap (g : Guard) (rx : Bool) (d : XReg) (m : MemOp) (b : XReg)
  | wunmap (g : Guard) (rx : Bool) (b : XOpnd)
  | wstat (g : Guard) (sel : Fin 3) (d : XReg) (b : XOpnd)
  | rfence (g : Guard) (d : XReg) (w : Option XOpnd)
  | rfenceComplete (e : SRef)
  | ctxsv (g : Guard) (n : Fin 8) (d : XReg) (b : XOpnd)
  | ctxld (g : Guard) (n : Fin 8) (d : XReg) (b : XOpnd)
  -- events of strands, pager, walker, detector and watchdog
  | quantumExpiry (e : SRef)
  | pagerReissue (e : SRef)
  | pagerDeliver (e : SRef) (c : Cause)
  | pagerResume (e : Engine)
  | pagerAbort (e : Engine)
  | faultRecordSend (die : Nat)
  | tlbInvalidate (die : Nat)
  | deadlockSample (job booth : Nat)
  | watchdogExpiry (job booth : Nat)
  -- events of reflection
  | reflectedWriteArrival (w : RWrite)
  | reflectionAck (p : PathId) (epoch seq : Nat) (a : RAnswer) (rtt : Option Nat)
  | retransmitRequest (p : PathId) (expected : Nat)
  | retransmitTimeout (p : PathId)
  | spaheLinkDown (link : Nat) (paths : List PathId)
  | pendingWindowValid (w : Nat) (peers : Option (List (Nat × Nat × Nat)))
  -- events of the host ports
  | hostLinkUp (port : Nat)
  | hostLinkDown (port : Nat)
  | functionLevelReset (port : Nat)
  | hostAccessTimeout
  | completionHoldTimeout (port m : Nat)
  | hqkick (port q : Nat) (pos : BitVec 32)
  | hostEntryReread (port q : Nat)
  | hqctlWrite (port q : Nat) (v : Word)
  | hcrel (port m : Nat) (v : BitVec 32)
  | devctlFwact (port : Nat)
  | barRegisterWrite (port : Nat) (off : Nat) (v : Word)
  -- host requests
  | startJob (r : HostReq) (gr : Grants)
  | killJob (r : HostReq)
  | urgentFreeze (r : HostReq)
  | resumeJobs (r : HostReq)
  | checkpoint (r : HostReq)
  | grantHostQueue (r : HostReq)
  | readLog (r : HostReq)
  | stageFirmware (r : HostReq)
  | stageVersion (r : HostReq) (place : Bool)
  | readLogCount (r : HostReq)
  | urgentRun (site : Nat)
  | boothRecovery (job booth : Nat) -- with job 0, 65,536 + a steward's site (R28)
  -- boot and power
  | bootEnd (die : Nat)
  | stewardStart (die : Nat) (load : BootLoad)
  | setFrequency (die : Nat) (cmd : BitVec 128)
  | frequencyPauseEnd (yard : Nat)
  | powerDown (die : Nat) (cmd : BitVec 128)
  | powerUp (die : Nat) (cmd : BitVec 128)
  -- attestation
  | getVersion (port : Nat)
  | getCapabilities (port : Nat)
  | negotiateAlgorithms (port : Nat)
  | getDigests (port : Nat)
  | getCertificate (port : Nat) (slot : Nat) (off len : Nat)
  | challenge (port : Nat) (nonce : List (BitVec 8))
  | getMeasurements (port : Nat) (index : Nat) (sign : Bool)
  | spdmUnsupportedRequest (port : Nat) (code : BitVec 8)
  -- events that only ever come from outside the device
  | deviceReset
  | hsemaRead (port : Nat)
  | hsemaWrite (port : Nat) (v : Word)
  | devctlReset (port : Nat)
  | powerCheck (watts : Nat)
  | thermalLimit (die : Nat)
  | futureQuarantineEnd (cluster index : Nat)
  | junctionCooled (die : Nat)
  | deviceFailure (dev spare : Nat)
  deriving DecidableEq, Repr

end Sys2Proof
end

