-- ==== Sys2Proof/WellFormed.lean ====
section
/-!
DEFINITION. Which instructions are legal: the operand and modifier rules of 03_encoding.md R59 to R68 and
of each instruction's entry that the types of `Instr` do not already enforce. An instruction word that
breaks one of them raises ILLEGAL at step 2 of R66. An event is well-formed as it stands.
-/

namespace Sys2Proof

/-- R35, R129: the scalar and vector "Float" formats. -/
def Fmt.isFloat3 : Fmt → Bool
  | .f32 | .bf16 | .f16 => true
  | _ => false

/-- R36: a floating-point format. -/
def Fmt.isFloat : Fmt → Bool
  | .f32 | .bf16 | .f16 | .e4 | .e5 => true
  | _ => false

/-- R39: an integer format. -/
def Fmt.isInt : Fmt → Bool
  | .i32 | .i16 | .i8 | .u8 => true
  | _ => false

/-- R35: the width of one element in bits. -/
def Fmt.width : Fmt → Nat
  | .f32 | .i32 => 32
  | .bf16 | .f16 | .i16 => 16
  | .e4 | .e5 | .i8 | .u8 => 8
  | .n4 => 4

/-- R65: the pair GP = 7, GN = 1 is illegal. -/
def Guard.ok (g : Guard) : Bool := !(g.neg && g.p == 7)

/-- R61: two slots name the same input port. -/
def Src.clash : Src → Src → Bool
  | .iq m, .iq n => m == n
  | _, _ => false

/-- R61, with an immediate naming no port. -/
def Opnd.clash (a : Src) : Opnd → Bool
  | .src b => a.clash b
  | .imm _ => false

/-- R47, R112, R147: RND and SAT are zero between two integer formats and for one and the same format. -/
def cvtOk (t s : Fmt) (r : Rnd) (sat : Bool) : Bool :=
  t != .n4 && s != .n4 && (if (t.isInt && s.isInt) || t == s then r == .rne && !sat else true)

/-- R112: .L is legal only between INT32 and a floating-point format. -/
def longOk (t s : Fmt) (l : Bool) : Bool :=
  !l || (t == .i32 && s.isFloat) || (s == .i32 && t.isFloat)

/-- R129: a Float or Int lane format; RND is zero with an integer one. -/
def laneOk (f : Fmt) (r : Rnd) : Bool := f.isFloat3 || (f.isInt && r == .rne)

/-- R147: the parts that a vector conversion admits. -/
def partOk (t s : Fmt) (p : Fin 4) : Bool :=
  if s.width < t.width then p.val < t.width / s.width
  else if t.width < s.width then p.val < s.width / t.width
  else p.val == 0

/-- R206: the annotations of a load and of a store. -/
def Ordn.forLoad : Ordn → Bool
  | .plain | .acq => true
  | _ => false

def Ordn.forStore : Ordn → Bool
  | .plain | .rel => true
  | _ => false

/-- R213: the sizes of an integer atomic. -/
def Size.forAtomic : Size → Bool
  | .w | .d => true
  | _ => false

/-- R87: the registers that SYSWR may write. -/
def SysReg.writable : SysReg → Bool
  | .status | .trapcause | .cycle | .devtime | .tileid | .logid | .jobid => false
  | _ => true

/-- R87: the registers that only steward code may write. -/
def SysReg.steward : SysReg → Bool
  | .trapbase | .routemask | .segtab | .sema => true
  | _ => false

/-- R252: the C slot holds 0x00, in the I form too: bits [39:32] of the immediate. -/
def XOpnd.cZero : XOpnd → Bool
  | .x _ => true
  | .imm v => v.extractLsb' 32 8 == 0

/-- Legality of an instruction (R59 to R68 and the entries), its guard included. -/
def Instr.wf : Instr → Bool
  | .nop g | .stop g | .eret g | .halt g | .ret g | .tend g => g.ok
  | .fork g _ _ _ _ => g.ok
  | .yield g _ | .mclr g _ => g.ok
  | .mcfg g b => g.ok && b.cZero
  | .wake g _ _ => g.ok
  | .trap g _ => g.ok
  | .sysrd g _ _ => g.ok
  | .syswr g r _ => g.ok && r.writable
  | .segld g _ _ => g.ok
  | .br g _ | .brl g _ => g.ok
  | .brx g _ | .brxl g _ => g.ok
  | .loop g _ _ => g.ok
  | .add g _ a b | .sub g _ a b | .mul g _ a b | .mulh g _ a b | .mulhu g _ a b
  | .div g _ a b | .divu g _ a b | .rem g _ a b | .remu g _ a b
  | .and g _ a b | .or g _ a b | .xor g _ a b | .andn g _ a b
  | .shl g _ a b | .shr g _ a b | .sar g _ a b | .rol g _ a b
  | .min g _ a b | .max g _ a b | .minu g _ a b | .maxu g _ a b
  | .ext g _ a b | .extu g _ a b => g.ok && !b.clash a
  | .ins g _ a b => g.ok && !b.clash a
  | .clz g _ _ | .ctz g _ _ | .popc g _ _ | .brev g _ _ | .mov g _ _ | .caddr g _ _ | .crel g _ _ => g.ok
  | .movi g _ _ => g.ok
  | .sel g _ _ a b => g.ok && !b.clash a
  | .lea g _ _ => g.ok
  | .fadd g f _ _ _ a b | .fsub g f _ _ _ a b | .fmul g f _ _ _ a b | .fdiv g f _ _ _ a b =>
    g.ok && f.isFloat3 && !b.clash a
  | .ffma g f _ _ _ a b c => g.ok && f.isFloat3 && !a.clash b && !a.clash c && !b.clash c
  | .fmin g f _ a b | .fmax g f _ a b => g.ok && f.isFloat3 && !b.clash a
  | .fcmp g f _ _ a b => g.ok && f.isFloat3 && !b.clash a
  | .fcvt g t s r sat l _ _ => g.ok && cvtOk t s r sat && longOk t s l
  | .cmp g _ _ a b => g.ok && !b.clash a
  | .pand g _ _ _ _ _ | .por g _ _ _ _ _ | .pxor g _ _ _ _ _ => g.ok
  | .pnot g _ _ => g.ok
  | .pmov g _ => g.ok
  | .ld g _ sz sgn o _ _ => g.ok && o.forLoad && !(sgn && sz == .d)
  | .st g _ _ o _ _ => g.ok && o.forStore
  | .ldv g _ _ o _ _ _ => g.ok && o.forLoad
  | .stv g _ _ o _ _ _ => g.ok && o.forStore
  | .gath g _ sz _ o _ _ _ _ => g.ok && sz.forAtomic && o.forLoad
  | .scat g _ sz _ o _ _ _ _ => g.ok && sz.forAtomic && o.forStore
  | .stn g _ _ o _ _ => g.ok && o.forStore
  | .aadd g _ sz _ _ _ _ | .aand g _ sz _ _ _ _ | .aor g _ sz _ _ _ _ | .axor g _ sz _ _ _ _
  | .amin g _ sz _ _ _ _ | .amax g _ sz _ _ _ _ | .aminu g _ sz _ _ _ _ | .amaxu g _ sz _ _ _ _
  | .axch g _ sz _ _ _ _ => g.ok && sz.forAtomic
  | .acas g _ sz _ _ _ _ => g.ok && sz.forAtomic
  | .afadd g _ f _ _ _ _ | .afmin g _ f _ _ _ _ | .afmax g _ f _ _ _ _ => g.ok && f.isFloat3
  | .fence g o mask scope => g.ok && o != .ar && mask != 0 && decide (scope.toNat < 5)
  | .nsum g _ _ _ | .nmax g _ _ _ | .ncvt g _ _ _ | .ndot g _ _ _ => g.ok
  | .naxpy g _ _ _ _ | .nscale g _ _ _ _ => g.ok
  | .landset g _ _ _ => g.ok
  | .landadd g o _ _ _ => g.ok && o.forStore
  | .marm g _ _ => g.ok
  | .mwait g _ _ => g.ok
  | .rng g _ => g.ok
  | .vrng g _ _ => g.ok
  | .qdef g _ _ => g.ok
  | .qkill g _ => g.ok
  | .qbind g port _ b => g.ok && (port.val < 2 || b == .x 0)
  | .qpush g _ _ _ _ => g.ok
  | .qpop g _ _ _ _ _ | .qpeek g _ _ _ _ _ => g.ok
  | .qmark g kind _ b => g.ok && kind != .data && (kind != .bell || b == .x 0)
  | .qstat g _ _ _ => g.ok
  | .tspawn g _ _ _ _ => g.ok
  | .tnext g _ => g.ok
  | .tjoin g _ => g.ok
  | .fnew g _ | .ffree g _ => g.ok
  | .fset g _ _ | .fpoison g _ _ => g.ok
  | .fget g _ _ _ _ => g.ok
  | .vadd g f r _ _ _ _ _ | .vsub g f r _ _ _ _ _ | .vmul g f r _ _ _ _ _ => g.ok && laneOk f r
  | .vfma g f r _ _ _ _ _ _ | .vfms g f r _ _ _ _ _ _ => g.ok && laneOk f r
  | .vmin g f _ _ _ _ | .vmax g f _ _ _ _ => g.ok && laneOk f .rne
  | .vabs g f sat _ _ _ | .vneg g f sat _ _ _ => g.ok && laneOk f .rne && (f.isInt || !sat)
  | .vdiv g f _ _ _ _ _ _ => g.ok && f.isFloat3
  | .vsqrt g f _ _ _ _ _ | .vrcp g f _ _ _ _ _ | .vrsq g f _ _ _ _ _
  | .vexp2 g f _ _ _ _ _ | .vlog2 g f _ _ _ _ _ => g.ok && f.isFloat3
  | .vdot g f r _ _ _ _ _ =>
    g.ok && f != .f32 && f != .i32 && f != .n4 && (f.isFloat || r == .rne)
  | .vcmp g f cc _ _ _ _ => g.ok && laneOk f .rne && (f.isFloat3 || (cc != .un && cc != .or))
  | .vand g f _ _ _ _ | .vor g f _ _ _ _ | .vxor g f _ _ _ _ => g.ok && f != .n4
  | .vshl g f _ _ _ _ | .vshr g f _ _ _ _ => g.ok && f.isInt
  | .vsar g f _ _ _ _ => g.ok && f.isInt && f != .u8
  | .vmov g (.vv f _ _ _) => g.ok && f != .n4
  | .vmov g _ => g.ok
  | .vbcast g f _ _ _ _ => g.ok && f != .n4
  | .vperm g f _ _ _ _ | .vsel g f _ _ _ _ => g.ok && f != .n4
  | .vred g f op r _ _ _ => g.ok && laneOk f r && (op == .sum || r == .rne)
  | .vscan g f op r sat _ _ _ =>
    g.ok && laneOk f r && (op == .sum || r == .rne) && (!sat || (f.isInt && op == .sum))
  | .vcvt g t s r sat part _ _ _ => g.ok && cvtOk t s r sat && partOk t s part
  | .vpack g s _ _ _ _ _ b _ => g.ok && s.isFloat3 && (b.isSome == (s == .f32))
  | .vunpk g t _ _ _ hi _ _ _ _ => g.ok && t.isFloat3 && (!hi || t == .f32)
  | .vextr g f _ _ _ => g.ok && f != .n4
  | .vins g f _ _ _ => g.ok && f != .n4
  | .vcomp g f _ _ _ => g.ok && f != .n4
  | .vprune g f _ _ _ _ => g.ok && f != .f32 && f != .i32 && f != .i16 && f != .n4
  | .mzero g _ _ b => g.ok && b.cZero
  | .mmul g _ _ | .mmuls g _ _ | .mloada g _ _ | .mdrain g _ _ => g.ok
  | .mchk g _ b | .mcorr g _ b | .mretry g _ b => g.ok && b.cZero
  | .mloc g _ _ _ => g.ok
  | .minj g _ => g.ok
  | .mstat g _ _ b => g.ok && b.cZero
  | .ccopy g _ _ _ _ _ _ | .cconv g _ _ _ _ _ _ => g.ok
  | .cfill g _ _ _ _ => g.ok
  | .cgath g _ _ _ _ _ => g.ok
  | .cstat g _ _ _ => g.ok
  | .wmap g _ _ _ _ => g.ok
  | .wunmap g _ _ => g.ok
  | .wstat g _ _ _ => g.ok
  | .rfence g _ _ => g.ok
  | .ctxsv g n _ _ | .ctxld g n _ _ => g.ok && n != 7
  | .yieldPauseEnd _ | .wakeEventDelivery _ _ | .fenceComplete _ | .memoryReply _ _ | .poisonReport _ _
  | .cellarCommandComplete _ | .mwaitWake _ | .mwaitLimitExpiry _ | .queueWaitResume _ | .queueHeldEnd _
  | .roundEdge _ _ | .twinCompare _ | .readyQueueHeldEnd _ _ | .readyRecordArrival _ | .balanceTick _
  | .balanceSnapshotArrival _ _ _ | .recordMigrationArrival _ _ _ _ | .waiterNodeFree _
  | .engineAcceptance _ | .loomTurn _ | .loomCommandComplete _ _ | .carterChunk _ | .carterCommandComplete _
  | .rfenceComplete _ | .quantumExpiry _ | .pagerReissue _ | .pagerDeliver _ _ | .pagerResume _ | .pagerAbort _
  | .faultRecordSend _ | .tlbInvalidate _ | .deadlockSample _ _ | .watchdogExpiry _ _
  | .reflectedWriteArrival _ | .reflectionAck _ _ _ _ _ | .retransmitRequest _ _ | .retransmitTimeout _
  | .spaheLinkDown _ _ | .pendingWindowValid _ _ | .hostLinkUp _ | .hostLinkDown _ | .functionLevelReset _
  | .hostAccessTimeout | .completionHoldTimeout _ _ | .hqkick _ _ _ | .hostEntryReread _ _ | .hqctlWrite _ _ _
  | .hcrel _ _ _ | .hsemaRead _ | .hsemaWrite _ _ | .devctlReset _ | .devctlFwact _ | .barRegisterWrite _ _ _
  | .startJob _ _ | .killJob _ | .urgentFreeze _ | .resumeJobs _ | .checkpoint _ | .grantHostQueue _
  | .readLog _ | .stageFirmware _ | .stageVersion _ _ | .readLogCount _ | .urgentRun _ | .boothRecovery _ _
  | .deviceReset | .bootEnd _ | .stewardStart _ _ | .setFrequency _ _ | .frequencyPauseEnd _ | .powerDown _ _
  | .powerUp _ _ | .powerCheck _ | .thermalLimit _ | .getVersion _ | .getCapabilities _
  | .negotiateAlgorithms _ | .getDigests _ | .getCertificate _ _ _ _ | .challenge _ _
  | .getMeasurements _ _ _ | .spdmUnsupportedRequest _ _ | .futureQuarantineEnd _ _ | .junctionCooled _
  | .deviceFailure _ _ => true

/-- The rows of the table that are events: they have no instruction word (R58 gives words to the opcodes of
R69 only). -/
def Instr.isEvent : Instr → Bool
  | .yieldPauseEnd _ | .wakeEventDelivery _ _ | .fenceComplete _ | .memoryReply _ _ | .poisonReport _ _
  | .cellarCommandComplete _ | .mwaitWake _ | .mwaitLimitExpiry _ | .queueWaitResume _ | .queueHeldEnd _
  | .roundEdge _ _ | .twinCompare _ | .readyQueueHeldEnd _ _ | .readyRecordArrival _ | .balanceTick _
  | .balanceSnapshotArrival _ _ _ | .recordMigrationArrival _ _ _ _ | .waiterNodeFree _
  | .engineAcceptance _ | .loomTurn _ | .loomCommandComplete _ _ | .carterChunk _ | .carterCommandComplete _
  | .rfenceComplete _ | .quantumExpiry _ | .pagerReissue _ | .pagerDeliver _ _ | .pagerResume _ | .pagerAbort _
  | .faultRecordSend _ | .tlbInvalidate _ | .deadlockSample _ _ | .watchdogExpiry _ _
  | .reflectedWriteArrival _ | .reflectionAck _ _ _ _ _ | .retransmitRequest _ _ | .retransmitTimeout _
  | .spaheLinkDown _ _ | .pendingWindowValid _ _ | .hostLinkUp _ | .hostLinkDown _ | .functionLevelReset _
  | .hostAccessTimeout | .completionHoldTimeout _ _ | .hqkick _ _ _ | .hostEntryReread _ _ | .hqctlWrite _ _ _
  | .hcrel _ _ _ | .hsemaRead _ | .hsemaWrite _ _ | .devctlReset _ | .devctlFwact _ | .barRegisterWrite _ _ _
  | .startJob _ _ | .killJob _ | .urgentFreeze _ | .resumeJobs _ | .checkpoint _ | .grantHostQueue _
  | .readLog _ | .stageFirmware _ | .stageVersion _ _ | .readLogCount _ | .urgentRun _ | .boothRecovery _ _
  | .deviceReset | .bootEnd _ | .stewardStart _ _ | .setFrequency _ _ | .frequencyPauseEnd _ | .powerDown _ _
  | .powerUp _ _ | .powerCheck _ | .thermalLimit _ | .getVersion _ | .getCapabilities _
  | .negotiateAlgorithms _ | .getDigests _ | .getCertificate _ _ _ _ | .challenge _ _
  | .getMeasurements _ _ _ | .spdmUnsupportedRequest _ _ | .futureQuarantineEnd _ _ | .junctionCooled _
  | .deviceFailure _ _ => true
  | _ => false

end Sys2Proof
end

