-- ==== Sys2Proof/Machine/Fmt.lean ====
section
/-!
DEFINITION. The number formats and their arithmetic (02_formats.md R35 to R57): exact values, decoding,
the one rounding procedure, minimum and maximum, the stochastic-rounding generator.
-/

namespace Sys2Proof.Machine

/-- An exact value of R4: a NaN, an infinity, or a number whose magnitude is `m * 2^e`. With `st` the
magnitude lies strictly between `m * 2^e` and `(m + 1) * 2^e`; the operations that set `st` keep at least
64 bits in `m`, so no grid point and no midpoint of a format of R35 lies strictly between. -/
inductive Ex where
  | nan
  | inf (neg : Bool)
  | num (neg : Bool) (m : Nat) (e : Int) (st : Bool)
  deriving DecidableEq, Repr

/-- R36: fraction bits. -/
def fracBits : Fmt → Nat
  | .f32 => 23 | .bf16 => 7 | .f16 => 10 | .e4 => 3 | .e5 => 2
  | _ => 0

/-- R36: exponent bits. -/
def expBits : Fmt → Nat
  | .f32 => 8 | .bf16 => 8 | .f16 => 5 | .e4 => 4 | .e5 => 5
  | _ => 0

/-- R36: the bias. -/
def fmtBias (f : Fmt) : Nat := 2 ^ (expBits f - 1) - 1

/-- R38: the canonical NaN. -/
def canonNaN : Fmt → Nat
  | .f32 => 0x7FC00000 | .bf16 => 0x7FC0 | .f16 => 0x7E00 | .e4 => 0x7F | .e5 => 0x7E
  | _ => 0

/-- R36: the pattern of the largest finite magnitude. -/
def maxFinPat : Fmt → Nat
  | .f32 => 0x7F7FFFFF | .bf16 => 0x7F7F | .f16 => 0x7BFF | .e4 => 0x7E | .e5 => 0x7B
  | _ => 0

/-- R36: the pattern of +∞ (E4 has none: its NaN stands there, R46). -/
def infPat : Fmt → Nat
  | .f32 => 0x7F800000 | .bf16 => 0x7F80 | .f16 => 0x7C00 | .e4 => 0x7F | .e5 => 0x7C
  | _ => 0

/-- The sign bit of a pattern of format `f`. -/
def signPat (f : Fmt) (neg : Bool) : Nat := if neg then 2 ^ (f.width - 1) else 0

/-- R36: the value of a bit pattern of a floating-point format. -/
def decFloat (f : Fmt) (p : Nat) : Ex :=
  let fb := fracBits f
  let neg := p.testBit (f.width - 1)
  let e := (p / 2 ^ fb) % 2 ^ expBits f
  let fr := p % 2 ^ fb
  let top := 2 ^ expBits f - 1
  if f = .e4 then
    if e = top ∧ fr = 7 then .nan
    else if e = 0 then .num neg fr (1 - (fmtBias f : Int) - fb) false
    else .num neg (2 ^ fb + fr) ((e : Int) - fmtBias f - fb) false
  else if e = top then (if fr = 0 then .inf neg else .nan)
  else if e = 0 then .num neg fr (1 - (fmtBias f : Int) - fb) false
  else .num neg (2 ^ fb + fr) ((e : Int) - fmtBias f - fb) false

/-- An integer as an exact value. -/
def intEx (v : Int) : Ex := .num (decide (v < 0)) v.natAbs 0 false

/-- R39: the integer that a pattern of an integer format holds. -/
def decInt (f : Fmt) (p : Nat) : Int :=
  let q := p % 2 ^ f.width
  if f ≠ .u8 ∧ q.testBit (f.width - 1) then (q : Int) - 2 ^ f.width else q

/-- The value of a pattern of any format but N4. -/
def decFmt (f : Fmt) (p : Nat) : Ex := if f.isFloat then decFloat f p else intEx (decInt f p)

/-- R39: the range of an integer format. -/
def intMin (f : Fmt) : Int := if f = .u8 then 0 else -(2 ^ (f.width - 1))
def intMax (f : Fmt) : Int := if f = .u8 then 255 else 2 ^ (f.width - 1) - 1

/-- R39: saturation to an integer format. -/
def clampInt (f : Fmt) (v : Int) : Int := max (intMin f) (min (intMax f) v)

/-- The pattern of an integer in a format, wrapping. -/
def encInt (f : Fmt) (v : Int) : Nat := (v % 2 ^ f.width).toNat

/-- R134 `Fit`: wrap, or clamp with SAT; the pattern of the lane. -/
def fitInt (f : Fmt) (sat : Bool) (v : Int) : Nat := encInt f (if sat then clampInt f v else v)

/-! ### Rounding (R44 to R46) -/

/-- R45, the choice between `lo` and `hi`: `rem / den` is how far the value lies from `lo` in units of the
gap, with `st` a little further; `even` says that the last code bit of `lo` is 0; `g` is the draw. True for
`hi`. An exact magnitude (`rem = 0` without `st`) stays. -/
def roundUp (r : Rnd) (neg : Bool) (even : Bool) (g rem den : Nat) (st : Bool) : Bool :=
  if rem = 0 ∧ st = false then false
  else match r with
    | .rne => decide (den < 2 * rem) || (decide (2 * rem = den) && (st || !even))
    | .rze => false
    | .rpi => !neg
    | .rni => neg
    | .rst => decide (2 ^ 16 ≤ rem * 2 ^ 16 / den + g)

/-- R45 onto the grid of multiples of 2^q: the multiple chosen. -/
def roundGrid (r : Rnd) (neg : Bool) (g : Nat) (q : Int) (m : Nat) (e : Int) (st : Bool) : Nat :=
  if q ≤ e then
    let lo := m * 2 ^ (e - q).toNat
    if roundUp r neg (lo % 2 = 0) g 0 1 st then lo + 1 else lo
  else
    let den := 2 ^ (q - e).toNat
    let lo := m / den
    if roundUp r neg (lo % 2 = 0) g (m % den) den st then lo + 1 else lo

/-- R45, R46, R48: an exact value in a floating-point format, as a bit pattern. An infinite value stays
infinite. -/
def roundFloat (f : Fmt) (r : Rnd) (sat : Bool) (g : Nat) : Ex → Nat
  | .nan => canonNaN f
  | .inf neg => if f = .e4 then canonNaN f else signPat f neg + infPat f
  | .num neg m e st =>
    if m = 0 ∧ st = false then signPat f neg
    else
      let fb := fracBits f
      let emin : Int := 1 - (fmtBias f : Int) - fb
      let emax : Int := ((maxFinPat f / 2 ^ fb : Nat) : Int) - fmtBias f - fb
      let maxm : Nat := 2 ^ fb + maxFinPat f % 2 ^ fb
      -- the grid of the value's binade, no finer than the subnormal one and no coarser than the last
      let q : Int := min emax (max emin (e + (Nat.log2 m : Int) - fb))
      let n :=
        -- above MaxMag the lower neighbour is MaxMag itself
        if q = emax ∧ (maxm : Int) < (if q ≤ e then (m * 2 ^ (e - q).toNat : Nat) else (m / 2 ^ (q - e).toNat : Nat) : Int) then
          let m' := if q ≤ e then m * 2 ^ (e - q).toNat else m
          let den := if q ≤ e then 1 else 2 ^ (q - e).toNat
          if roundUp r neg (maxm % 2 = 0) g (m' - maxm * den) den st then maxm + 1 else maxm
        else roundGrid r neg g q m e st
      if q = emax ∧ maxm < n then
        signPat f neg + (if f = .e4 ∨ sat then maxFinPat f else infPat f)
      else if n < 2 ^ fb then signPat f neg + n
      else if n = 2 ^ (fb + 1) then signPat f neg + ((q - emin).toNat + 2) * 2 ^ fb
      else signPat f neg + ((q - emin).toNat + 1) * 2 ^ fb + (n - 2 ^ fb)

/-- R45, R46: an exact value in an integer format. -/
def roundInt (f : Fmt) (r : Rnd) (g : Nat) : Ex → Int
  | .nan => 0
  | .inf neg => if neg then intMin f else intMax f
  | .num neg m e st =>
    let n : Int := roundGrid r neg g 0 m e st
    clampInt f (if neg then -n else n)

/-- R46: an infinite input of a conversion with sat. -/
def convSpecial (f : Fmt) (sat : Bool) (x : Ex) : Ex :=
  match x with
  | .inf neg => if sat then decFloat f (signPat f neg + maxFinPat f) else x
  | _ => x

/-- R45 to R47: a conversion into format `f` (not N4), as a bit pattern. -/
def convTo (f : Fmt) (r : Rnd) (sat : Bool) (g : Nat) (x : Ex) : Nat :=
  if f.isFloat then roundFloat f r sat g (convSpecial f sat x) else encInt f (roundInt f r g x)

/-- R47: one element from format `s` to format `t`; two integer formats saturate. -/
def convFmt (t s : Fmt) (r : Rnd) (sat : Bool) (g : Nat) (p : Nat) : Nat :=
  if t.isInt && s.isInt then encInt t (clampInt t (decInt s p))
  else if t = s then (match decFmt s p with | .nan => canonNaN t | _ => p)
  else convTo t r sat g (decFmt s p)

/-- R47, R51: does a conversion round, and so take draws under RST? -/
def convDraws (t s : Fmt) (r : Rnd) : Bool := r == .rst && !(t.isInt && s.isInt) && t != s

/-! ### Exact arithmetic (R48) -/

/-- R48: the exact sum; `rni` says that the rounding mode is RNI, which decides the sign of an exact zero. -/
def addEx (rni : Bool) : Ex → Ex → Ex
  | .nan, _ => .nan
  | _, .nan => .nan
  | .inf a, .inf b => if a = b then .inf a else .nan
  | .inf a, _ => .inf a
  | _, .inf b => .inf b
  | .num a ma ea sa, .num b mb eb sb =>
    let e := min ea eb
    let x : Int := ma * 2 ^ (ea - e).toNat
    let y : Int := mb * 2 ^ (eb - e).toNat
    let v := (if a then -x else x) + (if b then -y else y)
    if v = 0 then .num (if a = b then a else rni) 0 e (sa || sb)
    else .num (decide (v < 0)) v.natAbs e (sa || sb)

/-- The exact negation. -/
def negEx : Ex → Ex
  | .nan => .nan
  | .inf a => .inf (!a)
  | .num a m e st => .num (!a) m e st

/-- R48: the exact product. -/
def mulEx : Ex → Ex → Ex
  | .nan, _ => .nan
  | _, .nan => .nan
  | .inf a, .inf b => .inf (a != b)
  | .inf a, .num b m _ _ => if m = 0 then .nan else .inf (a != b)
  | .num a m _ _, .inf b => if m = 0 then .nan else .inf (a != b)
  | .num a ma ea _, .num b mb eb _ => .num (a != b) (ma * mb) (ea + eb) false

/-- R48: the quotient, to 128 bits below the operands' own. -/
def divEx : Ex → Ex → Ex
  | .nan, _ => .nan
  | _, .nan => .nan
  | .inf _, .inf _ => .nan
  | .inf a, .num b _ _ _ => .inf (a != b)
  | .num a _ _ _, .inf b => .num (a != b) 0 0 false
  | .num a ma ea _, .num b mb eb _ =>
    if mb = 0 then (if ma = 0 then .nan else .inf (a != b))
    else .num (a != b) (ma * 2 ^ 128 / mb) (ea - eb - 128) (decide (ma * 2 ^ 128 % mb ≠ 0))

/-- The integer square root of `n < 4^k`, one bit at a time. -/
def isqrt (k n : Nat) : Nat :=
  (List.range k).foldl (fun r i => if (r + 2 ^ (k - 1 - i)) ^ 2 ≤ n then r + 2 ^ (k - 1 - i) else r) 0

/-- `m * 2^e` as `m' * 2^(2h)`. -/
def evenExp (m : Nat) (e : Int) : Nat × Int := if e % 2 = 0 then (m, e / 2) else (m * 2, (e - 1) / 2)

/-- R48, R136: the square root. -/
def sqrtEx : Ex → Ex
  | .nan => .nan
  | .inf neg => if neg then .nan else .inf false
  | .num neg m e _ =>
    if m = 0 then .num neg 0 0 false
    else if neg then .nan
    else
      let (m', h) := evenExp m e
      let n := m' * 4 ^ 96
      let s := isqrt 128 n
      .num false s (h - 96) (decide (s * s ≠ n))

/-- R136: the reciprocal square root. -/
def rsqEx : Ex → Ex
  | .nan => .nan
  | .inf neg => if neg then .nan else .num false 0 0 false
  | .num neg m e _ =>
    if m = 0 then .inf neg
    else if neg then .nan
    else
      let (m', h) := evenExp m e
      let q := 4 ^ 128 / m'
      let s := isqrt 130 q
      .num false s (-h - 128) (decide (s * s ≠ q) || decide (4 ^ 128 % m' ≠ 0))

/-- The fraction bits that the elementary functions are evaluated to. -/
def elemBits : Nat := 320

/-- 2^elemBits times atanh(num/den) = z + z^3/3 + z^5/5 + ..., `n` terms. -/
def atanhSeries (n num den : Nat) : Nat :=
  ((List.range n).foldl (fun (acc : Nat × Nat) k =>
    (acc.1 + acc.2 / (2 * k + 1), acc.2 * num * num / (den * den))) (0, 2 ^ elemBits * num / den)).1

/-- 2^elemBits times ln 2 = 2 atanh(1/3). -/
def ln2Fix : Nat := 2 * atanhSeries 102 1 3

/-- 2^elemBits times exp(y / 2^elemBits), `n` terms. -/
def expSeries (n y : Nat) : Nat :=
  ((List.range n).foldl (fun (acc : Nat × Nat) k =>
    (acc.1 + acc.2, acc.2 * y / 2 ^ elemBits / (k + 1))) (0, 2 ^ elemBits)).1

/-- An exponent brought into -1000 to 1000: powers of two beyond lie outside every format's range on the
same side and round alike in every mode. -/
def clampExp (v : Int) : Int := max (-1000) (min 1000 v)

/-- R136: 2^a. -/
def exp2Ex : Ex → Ex
  | .nan => .nan
  | .inf neg => if neg then .num false 0 0 false else .inf false
  | .num neg m e _ =>
    if m = 0 then .num false 1 0 false
    else if 0 ≤ e then
      let n : Nat := if 10 < e then 1000 else m * 2 ^ e.toNat
      .num false 1 (clampExp (if neg then -(n : Int) else n)) false
    else
      let k := (-e).toNat
      let v : Int := if neg then -(m : Int) else m
      let ip := clampExp (v / 2 ^ k)
      let fr := (v % 2 ^ k).toNat
      if fr = 0 then .num false 1 ip false
      else .num false (expSeries 90 (fr * ln2Fix / 2 ^ k)) (ip - elemBits) true

/-- R136: log2 a. -/
def log2Ex : Ex → Ex
  | .nan => .nan
  | .inf neg => if neg then .nan else .inf false
  | .num neg m e _ =>
    if m = 0 then .inf true
    else if neg then .nan
    else
      let l := Nat.log2 m
      let ip : Int := e + l
      if m = 2 ^ l then intEx ip
      else
        let ln := 2 * atanhSeries 102 (m - 2 ^ l) (m + 2 ^ l)
        let v : Int := ip * 2 ^ elemBits + (ln * 2 ^ elemBits / ln2Fix : Nat)
        .num (decide (v < 0)) v.natAbs (-(elemBits : Int)) true

/-! ### Order, minimum and maximum (R54, R111) -/

/-- The order of two exact values that are not NaN, zeros of either sign equal; none with a NaN. -/
def cmpEx : Ex → Ex → Option Ordering
  | .nan, _ => none
  | _, .nan => none
  | .inf a, .inf b => some (if a = b then .eq else if a then .lt else .gt)
  | .inf a, .num .. => some (if a then .lt else .gt)
  | .num .., .inf b => some (if b then .gt else .lt)
  | .num a ma ea _, .num b mb eb _ =>
    let e := min ea eb
    let x : Int := ma * 2 ^ (ea - e).toNat
    let y : Int := mb * 2 ^ (eb - e).toNat
    some (compare (if a then -x else x) (if b then -y else y))

/-- The sign of a value. -/
def signEx : Ex → Bool
  | .nan => false
  | .inf a => a
  | .num a .. => a

/-- R54: is `a` the lesser of two values that are not NaN? -0 is less than +0. -/
def lessEx (a b : Ex) : Bool :=
  match cmpEx a b with
  | some .lt => true
  | some .eq => signEx a && !signEx b
  | _ => false

/-- R54: minimum (`mx = false`) or maximum of two patterns of a floating-point format. -/
def fminmax (f : Fmt) (mx : Bool) (a b : Nat) : Nat :=
  match decFloat f a, decFloat f b with
  | .nan, .nan => canonNaN f
  | .nan, _ => b
  | _, .nan => a
  | x, y => if mx then (if lessEx x y then b else a) else (if lessEx y x then b else a)

/-- R111: the conditions of FCMP and VCMP on two values. -/
def fcond (c : FCond) (a b : Ex) : Bool :=
  match c, cmpEx a b with
  | .eq, o => o == some .eq
  | .ne, o => o != some .eq
  | .lt, o => o == some .lt
  | .le, o => o == some .lt || o == some .eq
  | .un, o => o.isNone
  | .or, o => o.isSome

/-! ### The N4 family (R40 to R43) -/

/-- R42: twice the magnitudes of a code type, in the order of the codes 0 to 7 (and 8 for −8). -/
def n4Mags : NType → List Nat
  | .uni => [0, 2, 4, 6, 8, 10, 12, 14, 16]
  | .e2m1 => [0, 1, 2, 3, 4, 6, 8, 12]
  | .pow2 => [0, 2, 4, 8, 16, 32, 64, 128]
  | .hyb => [0, 2, 4, 6, 8, 12, 16, 24]

/-- R41: the code type of a scale byte. -/
def n4TypeOf (scale : Nat) : NType :=
  match (scale / 64) % 4 with
  | 0 => .uni
  | 1 => .e2m1
  | 2 => .pow2
  | _ => .hyb

def n4TypeCode : NType → Nat
  | .uni => 0 | .e2m1 => 1 | .pow2 => 2 | .hyb => 3

/-- R41, R42: the exact value of a code under a scale byte. -/
def decN4 (scale code : Nat) : Ex :=
  let e : Int := ((scale % 64 : Nat) : Int) - 32
  let c := code % 16
  match n4TypeOf scale with
  | .uni => if c < 8 then .num false c e false else .num true (16 - c) e false
  | t => .num (decide (8 ≤ c)) ((n4Mags t).getD (c % 8) 0) (e - 1) false

/-- R43, R45, R46: the code of a value under a code type and scale exponent `se`. -/
def encN4 (t : NType) (se : Nat) (r : Rnd) (g : Nat) (x : Ex) : Nat :=
  let top (neg : Bool) : Nat := if t = .uni ∧ neg then 8 else 7
  let code (neg : Bool) (i : Nat) : Nat := if i = 0 then 0 else match t with
    | .uni => if neg then 16 - i else i
    | _ => if neg then 8 + i else i
  match x with
  | .nan => 0
  | .inf neg => code neg (top neg)
  | .num neg m e st =>
    -- the magnitude over half the scale: m * 2^(e - (se - 32) + 1)
    let q : Int := e - ((se : Int) - 32) + 1
    let den := 2 ^ (-q).toNat
    let num := m * 2 ^ q.toNat
    let mags := (n4Mags t).take (top neg + 1)
    let i := (mags.filter fun k => decide (k * den ≤ num)).length - 1
    if i = top neg then code neg i
    else
      let lo := mags.getD i 0
      let gap := mags.getD (i + 1) 0 - lo
      code neg (if roundUp r neg (i % 2 = 0) g (num - lo * den) (gap * den) st then i + 1 else i)

/-- R148: the scale exponent that VPACK chooses for the largest finite magnitude among `xs`. -/
def packExp (t : NType) (xs : List Ex) : Nat :=
  let top2 : Nat := match t with | .uni => 14 | .e2m1 => 12 | .pow2 => 128 | .hyb => 24
  let fits (e : Nat) : Ex → Bool
    | .num _ m x _ =>
      -- m * 2^x <= (top2 / 2) * 2^(e - 32)
      let d : Int := x - ((e : Int) - 33)
      decide (m * 2 ^ d.toNat ≤ top2 * 2 ^ (-d).toNat)
    | _ => true
  ((List.range 64).find? fun e => xs.all (fits e)).getD 63

/-! ### The generator (R49, R50, R52) -/

/-- R49: the state of a generator after one Step, and the value returned. Both words zero step as (0, 1)
by R50. -/
def rngStep (a b : Word) : Word × Word × Word :=
  let b := if a = 0 ∧ b = 0 then 1 else b
  let s1 := a ^^^ (a <<< 23)
  let b' := s1 ^^^ b ^^^ (s1 >>> 17) ^^^ (b >>> 26)
  (b, b', b' + b)

/-- R49 `Draw16` of a Step value. -/
def draw16 (v : Word) : Nat := fld v 48 16

/-- The first `n` Step values and the state after them. -/
def rngSteps : Nat → Word → Word → List Word × Word × Word
  | 0, a, b => ([], a, b)
  | n + 1, a, b =>
    let (a', b', v) := rngStep a b
    let (vs, a'', b'') := rngSteps n a' b'
    (v :: vs, a'', b'')

/-- R50 `Mix`. -/
def mix (z : Word) : Word :=
  let z := z + 0x9E3779B97F4A7C15
  let z := (z ^^^ (z >>> 30)) * 0xBF58476D1CE4E5B9
  let z := (z ^^^ (z >>> 27)) * 0x94D049BB133111EB
  z ^^^ (z >>> 31)

/-- R50 `Seed`: the two state words. -/
def seedOf (jobSeed : Word) (eid : BitVec 32) (round : Nat) : Word × Word :=
  let a := mix (jobSeed ^^^ eid.zeroExtend 64)
  let b := mix (a ^^^ BitVec.ofNat 64 round)
  (a, if a = 0 ∧ b = 0 then 1 else b)

/-- R52: the private generator of an engine command. -/
def seedEngine (v : Word) : Word × Word :=
  let a := mix v
  let b := mix (a ^^^ 1)
  (a, if a = 0 ∧ b = 0 then 1 else b)

/-- The 16-bit draws of a list of Step values. -/
def draws16 (vs : List Word) : List Nat := vs.map draw16

/-! ### Reductions (R57) -/

/-- R57 `Combine` on optional (inactive) lanes. -/
def combine {α : Type} (op : α → α → α) : Option α → Option α → Option α
  | some a, some b => some (op a b)
  | some a, none => some a
  | none, b => b

/-- One level of the tree, each pair with its draw; the draws left over. -/
def treeLevel {α : Type} (op : Nat → α → α → α) : List (Option α) → List Nat → List (Option α) × List Nat
  | a :: b :: rest, gs =>
    let (r, gs') := treeLevel op rest gs.tail
    (combine (op (gs.headD 0)) a b :: r, gs')
  | l, gs => (l, gs)

/-- R57 `ReduceTree` over 2^k lanes, with one draw for each pair in order. -/
def reduceTree {α : Type} (op : Nat → α → α → α) : Nat → List (Option α) → List Nat → Option α
  | 0, l, _ => l.headD none
  | k + 1, l, gs =>
    let (l', gs') := treeLevel op l gs
    reduceTree op k l' gs'

end Sys2Proof.Machine
end

