-- ==== Sys2Proof/Decode.lean ====
section
/-!
DEFINITION. The decoder and the encoder of instruction words (03_encoding.md R58 to R69 and the slot tables
of the entries: R252, R288, R302, R321, R335, R345). `decode` is total and names what it rejects; every
rejection raises ILLEGAL at step 2 of R66.
-/

namespace Sys2Proof

/-- Why a word is rejected (R59, R60, R65 to R70). -/
inductive Reject where
  | shortWord            -- fewer than 12 bytes
  | unassignedOpcode     -- R69, R70
  | hint                 -- R60, R67
  | modBits              -- R60, R68: a MOD bit or sub-field value that the entry does not define
  | operandCode          -- R59: a code of a kind that the slot does not accept
  | unusedSlot           -- R60: an unused slot or IMM32 is not zero
  | illegalForm          -- a combination that WellFormed refuses
  deriving DecidableEq, Repr

/-- R58: the fields of an instruction word. -/
structure Fields where
  opc  : BitVec 12 := 0
  gn   : Bool := false
  gp   : PReg := 7
  hint : BitVec 4 := 0
  mod  : BitVec 12 := 0
  d    : BitVec 8 := 0
  a    : BitVec 8 := 0
  b    : BitVec 8 := 0
  c    : BitVec 8 := 0
  imm  : BitVec 32 := 0
  deriving DecidableEq, Repr

/-- R58: the 96 bits of a word, w0 in bits 31 to 0. -/
def Fields.toBits (f : Fields) : BitVec 96 :=
  f.imm ++ (f.d ++ f.a ++ f.b ++ f.c) ++
    (f.opc ++ BitVec.ofBool f.gn ++ BitVec.ofNat 3 f.gp.val ++ f.hint ++ f.mod)

/-- R58: the fields of 96 bits. -/
def Fields.ofBits (w : BitVec 96) : Fields where
  opc  := w.extractLsb' 20 12
  gn   := w.getLsbD 19
  gp   := ⟨(w.extractLsb' 16 3).toNat, (w.extractLsb' 16 3).isLt⟩
  hint := w.extractLsb' 12 4
  mod  := w.extractLsb' 0 12
  d    := w.extractLsb' 56 8
  a    := w.extractLsb' 48 8
  b    := w.extractLsb' 40 8
  c    := w.extractLsb' 32 8
  imm  := w.extractLsb' 64 32

/-- R1: the bytes of a value, lowest address first. -/
def bytesLE (n : Nat) {w : Nat} (v : BitVec w) : List Byte :=
  (List.range n).map fun i => v.extractLsb' (8 * i) 8

/-- R1: the number that a list of bytes holds, lowest address first. -/
def natLE : List Byte → Nat
  | [] => 0
  | b :: bs => b.toNat + 256 * natLE bs

/-- The 12 bytes of an instruction word as they lie in local store (R1, R58). -/
def wordBytes (w : BitVec 96) : List Byte := bytesLE 12 w

/-- The instruction word that 12 bytes hold. -/
def wordOfBytes (bs : List Byte) : BitVec 96 := BitVec.ofNat 96 (natLE bs)

/-! ### Codes of the enumerations -/

def Fmt.code : Fmt → Nat
  | .f32 => 0 | .bf16 => 1 | .f16 => 2 | .e4 => 3 | .e5 => 4
  | .i32 => 5 | .i16 => 6 | .i8 => 7 | .u8 => 8 | .n4 => 9

/-- R35; codes 0xA to 0xF are reserved. -/
def Fmt.ofCode : Nat → Option Fmt
  | 0 => some .f32 | 1 => some .bf16 | 2 => some .f16 | 3 => some .e4 | 4 => some .e5
  | 5 => some .i32 | 6 => some .i16 | 7 => some .i8 | 8 => some .u8 | 9 => some .n4
  | _ => none

def Rnd.code : Rnd → Nat
  | .rne => 0 | .rze => 1 | .rpi => 2 | .rni => 3 | .rst => 4

/-- R44; codes 5 to 7 are reserved. -/
def Rnd.ofCode : Nat → Option Rnd
  | 0 => some .rne | 1 => some .rze | 2 => some .rpi | 3 => some .rni | 4 => some .rst
  | _ => none

def Ordn.code : Ordn → Nat
  | .plain => 0 | .acq => 1 | .rel => 2 | .ar => 3

def Ordn.ofCode : Nat → Option Ordn
  | 0 => some .plain | 1 => some .acq | 2 => some .rel | 3 => some .ar
  | _ => none

def Size.code : Size → Nat
  | .b => 0 | .h => 1 | .w => 2 | .d => 3

def Size.ofCode : Nat → Option Size
  | 0 => some .b | 1 => some .h | 2 => some .w | 3 => some .d
  | _ => none

def Cond.code : Cond → Nat
  | .eq => 0 | .ne => 1 | .lt => 2 | .le => 3 | .ltu => 4 | .leu => 5

def Cond.ofCode : Nat → Option Cond
  | 0 => some .eq | 1 => some .ne | 2 => some .lt | 3 => some .le | 4 => some .ltu | 5 => some .leu
  | _ => none

def FCond.code : FCond → Nat
  | .eq => 0 | .ne => 1 | .lt => 2 | .le => 3 | .un => 4 | .or => 5

def FCond.ofCode : Nat → Option FCond
  | 0 => some .eq | 1 => some .ne | 2 => some .lt | 3 => some .le | 4 => some .un | 5 => some .or
  | _ => none

def RedOp.code : RedOp → Nat
  | .sum => 0 | .min => 1 | .max => 2

def RedOp.ofCode : Nat → Option RedOp
  | 0 => some .sum | 1 => some .min | 2 => some .max
  | _ => none

def NType.code : NType → Nat
  | .uni => 0 | .e2m1 => 1 | .pow2 => 2 | .hyb => 3

def NType.ofCode : Nat → Option NType
  | 0 => some .uni | 1 => some .e2m1 | 2 => some .pow2 | 3 => some .hyb
  | _ => none

def Hint.code : Hint → Nat
  | .normal => 0 | .stream => 1 | .keep => 2

/-- R67; 3 is reserved, and HINT[15:14] are zero. -/
def Hint.ofCode : Nat → Option Hint
  | 0 => some .normal | 1 => some .stream | 2 => some .keep
  | _ => none

def QKind.code : QKind → Nat
  | .data => 0 | .bell => 1 | .shutter => 2 | .stop => 3

def QKind.ofCode : Nat → Option QKind
  | 0 => some .data | 1 => some .bell | 2 => some .shutter | 3 => some .stop
  | _ => none

def QSel.code : QSel → Nat
  | .ent => 0 | .depth => 1 | .space => 2 | .cnt => 3 | .cmt => 4 | .headk => 5

def QSel.ofCode : Nat → Option QSel
  | 0 => some .ent | 1 => some .depth | 2 => some .space | 3 => some .cnt | 4 => some .cmt | 5 => some .headk
  | _ => none

/-- R87: the number of a system register. -/
def SysReg.code : SysReg → Nat
  | .status => 0x000 | .trapbase => 0x001 | .utrapbase => 0x002 | .trapcause => 0x003
  | .trapaddr => 0x004 | .trappc => 0x005 | .routemask => 0x006
  | .quantum => 0x010 | .cycle => 0x011 | .devtime => 0x012
  | .tileid => 0x020 | .logid => 0x021 | .jobid => 0x022 | .segtab => 0x023
  | .tolbf16 => 0x030 | .tolfp16 => 0x031 | .tole4 => 0x032 | .tole5 => 0x033 | .toln4 => 0x034
  | .rngsta => 0x040 | .rngstb => 0x041 | .sema => 0x050

def SysReg.ofCode : Nat → Option SysReg
  | 0x000 => some .status | 0x001 => some .trapbase | 0x002 => some .utrapbase | 0x003 => some .trapcause
  | 0x004 => some .trapaddr | 0x005 => some .trappc | 0x006 => some .routemask
  | 0x010 => some .quantum | 0x011 => some .cycle | 0x012 => some .devtime
  | 0x020 => some .tileid | 0x021 => some .logid | 0x022 => some .jobid | 0x023 => some .segtab
  | 0x030 => some .tolbf16 | 0x031 => some .tolfp16 | 0x032 => some .tole4 | 0x033 => some .tole5
  | 0x034 => some .toln4
  | 0x040 => some .rngsta | 0x041 => some .rngstb | 0x050 => some .sema
  | _ => none

/-! ### Operand codes (R59) -/

def xCode (r : XReg) : BitVec 8 := BitVec.ofNat 8 r.val
def vCode (r : VReg) : BitVec 8 := BitVec.ofNat 8 (0x20 + r.val)
def pCode (r : PReg) : BitVec 8 := BitVec.ofNat 8 (0x30 + r.val)
def kCode (r : KReg) : BitVec 8 := BitVec.ofNat 8 (0x38 + r.val)
def sCode (r : SReg) : BitVec 8 := BitVec.ofNat 8 (0x40 + r.val)

def Src.code : Src → BitVec 8
  | .x r => xCode r
  | .iq n => BitVec.ofNat 8 (0x48 + n.val)

def Dst.code : Dst → BitVec 8
  | .x r => xCode r
  | .oq n => BitVec.ofNat 8 (0x4A + n.val)

def XV.code : XV → BitVec 8
  | .x r => xCode r
  | .v r => vCode r

def HPort.code : HPort → BitVec 8
  | .x r => xCode r
  | .oq n => BitVec.ofNat 8 (0x4A + n.val)

/-- A code of a register kind of `n` registers from `base` on. -/
def regOf (base n : Nat) [NeZero n] (c : BitVec 8) : Except Reject (Fin n) :=
  if base ≤ c.toNat ∧ c.toNat < base + n then .ok (Fin.ofNat n (c.toNat - base)) else .error .operandCode

def xOf (c : BitVec 8) : Except Reject XReg := regOf 0x00 32 c
def vOf (c : BitVec 8) : Except Reject VReg := regOf 0x20 16 c
def pOf (c : BitVec 8) : Except Reject PReg := regOf 0x30 8 c
def kOf (c : BitVec 8) : Except Reject KReg := regOf 0x38 8 c
def sOf (c : BitVec 8) : Except Reject SReg := regOf 0x40 8 c

def srcOf (c : BitVec 8) : Except Reject Src :=
  if c.toNat < 0x20 then (xOf c).map .x else (regOf 0x48 2 c).map .iq

def dstOf (c : BitVec 8) : Except Reject Dst :=
  if c.toNat < 0x20 then (xOf c).map .x else (regOf 0x4A 2 c).map .oq

def xvOf (c : BitVec 8) : Except Reject XV :=
  if c.toNat < 0x20 then (xOf c).map .x else (vOf c).map .v

def hportOf (c : BitVec 8) : Except Reject HPort :=
  if c.toNat < 0x20 then (xOf c).map .x else (regOf 0x4A 2 c).map .oq

/-! ### Checks and encodings shared by the entries -/

def need (c : Bool) (r : Reject) : Except Reject Unit := if c then .ok () else .error r

def opt {α : Type} (o : Option α) : Except Reject α :=
  match o with
  | some a => .ok a
  | none => .error .modBits

namespace Fields

/-- MOD bits outside `mask` are zero (R60). -/
def modOnly (f : Fields) (mask : Nat) : Except Reject Unit :=
  need (f.mod &&& ~~~(BitVec.ofNat 12 mask) == 0) .modBits

def noHint (f : Fields) : Except Reject Unit := need (f.hint == 0) .hint
def dZero (f : Fields) : Except Reject Unit := need (f.d == 0) .unusedSlot
def aZero (f : Fields) : Except Reject Unit := need (f.a == 0) .unusedSlot
def bZero (f : Fields) : Except Reject Unit := need (f.b == 0) .unusedSlot
def cZero (f : Fields) : Except Reject Unit := need (f.c == 0) .unusedSlot
def immZero (f : Fields) : Except Reject Unit := need (f.imm == 0) .unusedSlot

/-- The field [lo + len - 1 : lo] of MOD. -/
def modF (f : Fields) (lo len : Nat) : Nat := fld f.mod lo len
def modB (f : Fields) (i : Nat) : Bool := f.mod.getLsbD i
def iForm (f : Fields) : Bool := f.mod.getLsbD 11

/-- R67: HINT[13:12], with HINT[15:14] zero. -/
def hintOf (f : Fields) : Except Reject Hint :=
  match Hint.ofCode f.hint.toNat with
  | some h => .ok h
  | none => .error .hint

/-- R62: the 40-bit immediate {C, IMM32}, with B zero. -/
def imm40 (f : Fields) : Except Reject (BitVec 40) := do
  f.bZero
  return f.c ++ f.imm

/-- The B operand of classes 2 to 4 with the I form; C and IMM32 are otherwise zero. -/
def opnd (f : Fields) : Except Reject Opnd :=
  if f.iForm then (f.imm40).map .imm
  else do
    f.cZero
    f.immZero
    (srcOf f.b).map .src

/-- A B operand that accepts no port, with the I form. -/
def xopnd (f : Fields) : Except Reject XOpnd :=
  if f.iForm then (f.imm40).map .imm
  else do
    f.cZero
    f.immZero
    (xOf f.b).map .x

def vopnd (f : Fields) : Except Reject VOpnd :=
  if f.iForm then (f.imm40).map .imm
  else do
    f.cZero
    f.immZero
    (vOf f.b).map .v

/-- R63: the memory form; C[7:3] are zero. -/
def memOp (f : Fields) : Except Reject MemOp := do
  need (f.c.toNat < 8) .operandCode
  let x ← xOf f.a
  return { seg := Fin.ofNat 8 f.c.toNat, idx := x, disp := f.imm }

/-- R64: the 48-bit immediate {B, C, IMM32}. -/
def imm48 (f : Fields) : BitVec 48 := f.b ++ f.c ++ f.imm

def guard (f : Fields) : Guard := ⟨f.gn, f.gp⟩

def setB (f : Fields) : Opnd → Fields
  | .src s => { f with b := s.code }
  | .imm v => { f with mod := f.mod ||| 0x800, c := v.extractLsb' 32 8, imm := v.extractLsb' 0 32 }

def setX (f : Fields) : XOpnd → Fields
  | .x r => { f with b := xCode r }
  | .imm v => { f with mod := f.mod ||| 0x800, c := v.extractLsb' 32 8, imm := v.extractLsb' 0 32 }

def setV (f : Fields) : VOpnd → Fields
  | .v r => { f with b := vCode r }
  | .imm v => { f with mod := f.mod ||| 0x800, c := v.extractLsb' 32 8, imm := v.extractLsb' 0 32 }

def setM (f : Fields) (m : MemOp) : Fields :=
  { f with a := xCode m.idx, c := BitVec.ofNat 8 m.seg.val, imm := m.disp }

def set48 (f : Fields) (v : BitVec 48) : Fields :=
  { f with b := v.extractLsb' 40 8, c := v.extractLsb' 32 8, imm := v.extractLsb' 0 32 }

end Fields

/-- The fields of an instruction before its operands: opcode, guard and MOD. -/
def base (opc : Nat) (g : Guard) (mod : Nat := 0) : Fields :=
  { opc := BitVec.ofNat 12 opc, gn := g.neg, gp := g.p, mod := BitVec.ofNat 12 mod }

/-- The same with a HINT policy. -/
def baseH (opc : Nat) (g : Guard) (h : Hint) (mod : Nat) : Fields :=
  { base opc g mod with hint := BitVec.ofNat 4 h.code }

/-! ### The encoder -/

def encAlu (opc : Nat) (g : Guard) (d : Dst) (a : Src) (b : Opnd) : Fields :=
  { base opc g with d := d.code, a := a.code }.setB b

def encUn (opc : Nat) (g : Guard) (d : Dst) (a : Src) : Fields :=
  { base opc g with d := d.code, a := a.code }

def encFp (opc : Nat) (g : Guard) (f : Fmt) (r : Rnd) (sat : Bool) (d : Dst) (a : Src) (b : Opnd) : Fields :=
  { base opc g (f.code + 16 * r.code + 128 * b2n sat) with d := d.code, a := a.code }.setB b

def encAtom (opc : Nat) (g : Guard) (h : Hint) (lo : Nat) (o : Ordn) (d : Option XReg) (m : MemOp) (b : XReg) :
    Fields :=
  { baseH opc g h (lo + 256 * o.code + 1024 * b2n d.isNone) with
      d := xCode (d.getD 0), b := xCode b }.setM m

/-- R214: the SIZE and FMT of a floating-point atomic. -/
def afLo (f : Fmt) : Nat := (if f == .f32 then 2 else 1) + 16 * f.code

def encV (opc : Nat) (g : Guard) (f : Fmt) (r : Rnd) (sat : Bool) (mk : KReg) (d a : VReg) : Fields :=
  { base opc g (f.code + 16 * r.code + 128 * b2n sat + 256 * mk.val) with d := vCode d, a := vCode a }

def encPred (opc : Nat) (g : Guard) (na nb : Bool) (pd pa pb : PReg) : Fields :=
  { base opc g (b2n na + 2 * b2n nb) with d := pCode pd, a := pCode pa, b := pCode pb }

def encMem (opc : Nat) (g : Guard) (h : Hint) (mod : Nat) (d : BitVec 8) (m : MemOp) : Fields :=
  { baseH opc g h mod with d := d }.setM m

def encXB (opc : Nat) (g : Guard) (mod : Nat) (d : XReg) (b : XOpnd) : Fields :=
  { base opc g mod with d := xCode d }.setX b

def tryMod (t : Option PReg) : Nat := b2n t.isSome
def tryCode (t : Option PReg) : BitVec 8 :=
  match t with
  | some p => pCode p
  | none => 0

/-- The fields of an instruction; `none` for an event. -/
def encodeFields : Instr → Option Fields
  | .nop g => some (base 0x000 g)
  | .fork g n d a t => some ({ base 0x001 g n.val with d := xCode d, a := xCode a }.set48 t)
  | .stop g => some (base 0x002 g)
  | .yield g b => some ((base 0x003 g).setX b)
  | .wake g a b => some { base 0x004 g with a := xCode a, b := xCode b }
  | .trap g n => some { base 0x005 g with imm := n }
  | .eret g => some (base 0x006 g)
  | .sysrd g d r => some { base 0x007 g with d := xCode d, imm := BitVec.ofNat 32 r.code }
  | .syswr g r a => some { base 0x008 g with a := xCode a, imm := BitVec.ofNat 32 r.code }
  | .segld g sd b => some ({ base 0x009 g with d := sCode sd }.setX b)
  | .halt g => some (base 0x00A g)
  | .br g t => some ((base 0x100 g).set48 t)
  | .brl g t => some ((base 0x101 g).set48 t)
  | .brx g a => some { base 0x102 g with a := xCode a }
  | .brxl g a => some { base 0x103 g with a := xCode a }
  | .ret g => some (base 0x104 g)
  | .loop g a t => some ({ base 0x105 g with a := xCode a }.set48 t)
  | .add g d a b => some (encAlu 0x200 g d a b)
  | .sub g d a b => some (encAlu 0x201 g d a b)
  | .mul g d a b => some (encAlu 0x202 g d a b)
  | .mulh g d a b => some (encAlu 0x203 g d a b)
  | .mulhu g d a b => some (encAlu 0x204 g d a b)
  | .div g d a b => some (encAlu 0x205 g d a b)
  | .divu g d a b => some (encAlu 0x206 g d a b)
  | .rem g d a b => some (encAlu 0x207 g d a b)
  | .remu g d a b => some (encAlu 0x208 g d a b)
  | .and g d a b => some (encAlu 0x209 g d a b)
  | .or g d a b => some (encAlu 0x20A g d a b)
  | .xor g d a b => some (encAlu 0x20B g d a b)
  | .andn g d a b => some (encAlu 0x20C g d a b)
  | .shl g d a b => some (encAlu 0x20D g d a b)
  | .shr g d a b => some (encAlu 0x20E g d a b)
  | .sar g d a b => some (encAlu 0x20F g d a b)
  | .rol g d a b => some (encAlu 0x210 g d a b)
  | .min g d a b => some (encAlu 0x211 g d a b)
  | .max g d a b => some (encAlu 0x212 g d a b)
  | .minu g d a b => some (encAlu 0x213 g d a b)
  | .maxu g d a b => some (encAlu 0x214 g d a b)
  | .clz g d a => some (encUn 0x215 g d a)
  | .ctz g d a => some (encUn 0x216 g d a)
  | .popc g d a => some (encUn 0x217 g d a)
  | .brev g d a => some (encUn 0x218 g d a)
  | .ext g d a b => some (encAlu 0x219 g d a b)
  | .extu g d a b => some (encAlu 0x21A g d a b)
  | .ins g d a b => some (encAlu 0x21B g (.x d) a b)
  | .sel g pn d a b => some ({ base 0x21C g pn.val with d := d.code, a := a.code }.setB b)
  | .mov g d a => some (encUn 0x21D g d a)
  | .movi g d v => some ({ base 0x21E g with d := d.code }.set48 v)
  | .lea g d m => some ({ base 0x21F g with d := d.code }.setM m)
  | .caddr g d a => some (encUn 0x220 g d a)
  | .crel g d a => some (encUn 0x221 g d a)
  | .fadd g f r s d a b => some (encFp 0x300 g f r s d a b)
  | .fsub g f r s d a b => some (encFp 0x301 g f r s d a b)
  | .fmul g f r s d a b => some (encFp 0x302 g f r s d a b)
  | .ffma g f r s d a b c =>
    some { base 0x303 g (f.code + 16 * r.code + 128 * b2n s) with
      d := d.code, a := a.code, b := b.code, c := c.code }
  | .fmin g f d a b => some (encFp 0x304 g f .rne false d a b)
  | .fmax g f d a b => some (encFp 0x305 g f .rne false d a b)
  | .fcmp g f cc pd a b =>
    some ({ base 0x306 g (f.code + 256 * cc.code) with d := pCode pd, a := a.code }.setB b)
  | .fcvt g t s r sat l d a =>
    some { base 0x307 g (t.code + 16 * r.code + 128 * b2n sat + 256 * b2n l) with
      d := d.code, a := a.code, imm := BitVec.ofNat 32 s.code }
  | .fdiv g f r s d a b => some (encFp 0x308 g f r s d a b)
  | .cmp g cc pd a b => some ({ base 0x400 g cc.code with d := pCode pd, a := a.code }.setB b)
  | .pand g na nb pd pa pb => some (encPred 0x401 g na nb pd pa pb)
  | .por g na nb pd pa pb => some (encPred 0x402 g na nb pd pa pb)
  | .pxor g na nb pd pa pb => some (encPred 0x403 g na nb pd pa pb)
  | .pnot g pd pa => some { base 0x404 g with d := pCode pd, a := pCode pa }
  | .pmov g (.pp pd pa) => some { base 0x405 g with d := pCode pd, a := pCode pa }
  | .pmov g (.px pd a) => some { base 0x405 g with d := pCode pd, a := a.code }
  | .pmov g (.xp d pa) => some { base 0x405 g with d := d.code, a := pCode pa }
  | .ld g h sz sgn o d m => some (encMem 0x500 g h (sz.code + 4 * b2n sgn + 256 * o.code) (xCode d) m)
  | .st g h sz o d m => some (encMem 0x501 g h (sz.code + 256 * o.code) (xCode d) m)
  | .ldv g h sz o mk d m => some (encMem 0x502 g h (sz.code + 16 * mk.val + 256 * o.code) (vCode d) m)
  | .stv g h sz o mk d m => some (encMem 0x503 g h (sz.code + 16 * mk.val + 256 * o.code) (vCode d) m)
  | .gath g h sz scl o mk d m b =>
    some { encMem 0x504 g h (sz.code + 16 * mk.val + 128 * b2n scl + 256 * o.code) (vCode d) m with b := vCode b }
  | .scat g h sz scl o mk d m b =>
    some { encMem 0x505 g h (sz.code + 16 * mk.val + 128 * b2n scl + 256 * o.code) (vCode d) m with b := vCode b }
  | .stn g h hi o d m => some (encMem 0x506 g h (b2n hi + 256 * o.code) (xCode d) m)
  | .aadd g h sz o d m b => some (encAtom 0x600 g h sz.code o d m b)
  | .aand g h sz o d m b => some (encAtom 0x601 g h sz.code o d m b)
  | .aor g h sz o d m b => some (encAtom 0x602 g h sz.code o d m b)
  | .axor g h sz o d m b => some (encAtom 0x603 g h sz.code o d m b)
  | .amin g h sz o d m b => some (encAtom 0x604 g h sz.code o d m b)
  | .amax g h sz o d m b => some (encAtom 0x605 g h sz.code o d m b)
  | .aminu g h sz o d m b => some (encAtom 0x606 g h sz.code o d m b)
  | .amaxu g h sz o d m b => some (encAtom 0x607 g h sz.code o d m b)
  | .axch g h sz o d m b => some (encAtom 0x608 g h sz.code o d m b)
  | .acas g h sz o d m b => some (encAtom 0x609 g h sz.code o (some d) m b)
  | .afadd g h f o d m b => some (encAtom 0x60A g h (afLo f) o d m b)
  | .afmin g h f o d m b => some (encAtom 0x60B g h (afLo f) o d m b)
  | .afmax g h f o d m b => some (encAtom 0x60C g h (afLo f) o d m b)
  | .fence g o mask scope =>
    some { base 0x60D g (256 * o.code) with imm := BitVec.ofNat 32 (mask.toNat + 256 * scope.toNat) }
  | .landset g d m b => some { encMem 0x700 g .normal 0 (xCode d) m with b := xCode b }
  | .landadd g o d m b => some (encAtom 0x701 g .normal 0 o d m b)
  | .marm g slot m => some (encMem 0x702 g .normal slot.val 0 m)
  | .mwait g d b => some (encXB 0x703 g 0 d b)
  | .mclr g b => some ((base 0x704 g).setX b)
  | .rng g d => some { base 0x705 g with d := xCode d }
  | .vrng g mk d => some { base 0x706 g (256 * mk.val) with d := vCode d }
  | .qdef g d m => some (encMem 0x800 g .normal 0 (xCode d) m)
  | .qkill g a => some { base 0x801 g with a := xCode a }
  | .qbind g port a b => some ({ base 0x802 g port.val with a := xCode a }.setX b)
  | .qpush g t rel a b =>
    some { base 0x803 g (tryMod t + 512 * b2n rel) with a := xCode a, b := b.code, c := tryCode t }
  | .qpop g t acq d a b =>
    some { base 0x804 g (tryMod t + 256 * b2n acq) with d := d.code, a := xCode a, b := xCode b, c := tryCode t }
  | .qpeek g t acq d a b =>
    some { base 0x805 g (tryMod t + 256 * b2n acq) with d := d.code, a := xCode a, b := xCode b, c := tryCode t }
  | .qmark g kind a b => some ({ base 0x806 g kind.code with a := a.code }.setX b)
  | .qstat g sel d a => some { base 0x807 g sel.code with d := xCode d, a := xCode a }
  | .tspawn g n a b c => some { base 0x900 g n.val with a := xCode a, b := xCode b, c := xCode c }
  | .tend g => some (base 0x901 g)
  | .tnext g t => some { base 0x902 g (tryMod t) with d := tryCode t }
  | .tjoin g m => some (encMem 0x903 g .normal 0 0 m)
  | .fnew g d => some { base 0x904 g with d := xCode d }
  | .fset g a b => some ({ base 0x905 g with a := xCode a }.setX b)
  | .fget g t d a b => some { base 0x906 g (b2n t) with d := xCode d, a := xCode a, b := xCode b }
  | .ffree g a => some { base 0x907 g with a := xCode a }
  | .fpoison g a b => some ({ base 0x908 g with a := xCode a }.setX b)
  | .vadd g f r s mk d a b => some ((encV 0xA00 g f r s mk d a).setV b)
  | .vsub g f r s mk d a b => some ((encV 0xA01 g f r s mk d a).setV b)
  | .vmul g f r s mk d a b => some ((encV 0xA02 g f r s mk d a).setV b)
  | .vfma g f r s mk d a b c => some { encV 0xA03 g f r s mk d a with b := vCode b, c := vCode c }
  | .vfms g f r s mk d a b c => some { encV 0xA04 g f r s mk d a with b := vCode b, c := vCode c }
  | .vmin g f mk d a b => some ((encV 0xA05 g f .rne false mk d a).setV b)
  | .vmax g f mk d a b => some ((encV 0xA06 g f .rne false mk d a).setV b)
  | .vabs g f s mk d a => some (encV 0xA07 g f .rne s mk d a)
  | .vneg g f s mk d a => some (encV 0xA08 g f .rne s mk d a)
  | .vdiv g f r s mk d a b => some ((encV 0xA09 g f r s mk d a).setV b)
  | .vsqrt g f r s mk d a => some (encV 0xA0A g f r s mk d a)
  | .vrcp g f r s mk d a => some (encV 0xA0B g f r s mk d a)
  | .vrsq g f r s mk d a => some (encV 0xA0C g f r s mk d a)
  | .vexp2 g f r s mk d a => some (encV 0xA0D g f r s mk d a)
  | .vlog2 g f r s mk d a => some (encV 0xA0E g f r s mk d a)
  | .vdot g f r s mk d a b => some { encV 0xA0F g f r s mk d a with b := vCode b }
  | .vcmp g f cc mk kd a b =>
    some ({ base 0xA10 g (f.code + 16 * cc.code + 256 * mk.val) with d := kCode kd, a := vCode a }.setV b)
  | .vand g f mk d a b => some ((encV 0xA11 g f .rne false mk d a).setV b)
  | .vor g f mk d a b => some ((encV 0xA12 g f .rne false mk d a).setV b)
  | .vxor g f mk d a b => some ((encV 0xA13 g f .rne false mk d a).setV b)
  | .vshl g f mk d a b => some ((encV 0xA14 g f .rne false mk d a).setV b)
  | .vshr g f mk d a b => some ((encV 0xA15 g f .rne false mk d a).setV b)
  | .vsar g f mk d a b => some ((encV 0xA16 g f .rne false mk d a).setV b)
  | .vmov g (.vv f mk d a) => some (encV 0xB00 g f .rne false mk d a)
  | .vmov g (.kx kd a) => some { base 0xB00 g with d := kCode kd, a := xCode a }
  | .vmov g (.xk d ka) => some { base 0xB00 g with d := xCode d, a := kCode ka }
  | .vmov g (.kk kd ka) => some { base 0xB00 g with d := kCode kd, a := kCode ka }
  | .vbcast g f mk d a b =>
    some ({ base 0xB01 g (f.code + 256 * mk.val) with
      d := vCode d, a := (match a with | some r => vCode r | none => 0) }.setX b)
  | .vperm g f mk d a b => some { encV 0xB02 g f .rne false mk d a with b := vCode b }
  | .vsel g f mk d a b => some { encV 0xB03 g f .rne false mk d a with b := vCode b }
  | .vred g f op r mk d a =>
    some { base 0xB04 g (f.code + 16 * r.code + 256 * mk.val) with
      d := xCode d, a := vCode a, imm := BitVec.ofNat 32 op.code }
  | .vscan g f op r s mk d a => some { encV 0xB05 g f r s mk d a with imm := BitVec.ofNat 32 op.code }
  | .vcvt g t s r sat part mk d a =>
    some { encV 0xB06 g t r sat mk d a with imm := BitVec.ofNat 32 (s.code + 16 * part.val) }
  | .vpack g s r ty part d a b c =>
    some { base 0xB07 g (s.code + 16 * r.code) with
      d := vCode d, a := vCode a, b := (match b with | some v => vCode v | none => 0), c := xCode c,
      imm := BitVec.ofNat 32 (part.val + 4 * ty.code) }
  | .vunpk g t r s part hi mk d a b =>
    some { encV 0xB08 g t r s mk d a with b := xCode b, imm := BitVec.ofNat 32 (part.val + 4 * b2n hi) }
  | .vextr g f d a b => some ({ base 0xB09 g f.code with d := xCode d, a := vCode a }.setX b)
  | .vins g f d a b => some ({ base 0xB0A g f.code with d := vCode d, a := xCode a }.setX b)
  | .vcomp g f mk d a => some (encV 0xB0B g f .rne false mk d a)
  | .vprune g f n d a c =>
    some { base 0xB0C g f.code with d := vCode d, a := vCode a, c := xCode c, imm := BitVec.ofNat 32 n.val }
  | .mcfg g b => some ((base 0xC00 g).setX b)
  | .mzero g int nort b => some ((base 0xC01 g ((if int then 5 else 0) + 16 * b2n nort)).setX b)
  | .mmul g d m => some (encMem 0xC02 g .normal 0 (xCode d) m)
  | .mmuls g d m => some (encMem 0xC03 g .normal 0 (xCode d) m)
  | .mloada g d m => some (encMem 0xC04 g .normal 0 (xCode d) m)
  | .mdrain g d m => some (encMem 0xC05 g .normal 0 (xCode d) m)
  | .mchk g d b => some (encXB 0xC06 g 0 d b)
  | .mloc g d m b => some { encMem 0xC07 g .normal 0 (xCode d) m with b := xCode b }
  | .mcorr g d b => some (encXB 0xC08 g 0 d b)
  | .mretry g d b => some (encXB 0xC09 g 0 d b)
  | .minj g a => some { base 0xC0A g with a := xCode a }
  | .mstat g sel d b => some (encXB 0xC0B g sel.val d b)
  | .ccopy g h c stripe m d mm =>
    some (encMem 0xD00 g h (b2n c + 2 * b2n stripe + 4 * b2n m) (xCode d) mm)
  | .cfill g h c d mm => some (encMem 0xD01 g h (b2n c) (xCode d) mm)
  | .cconv g h c stripe m d mm =>
    some (encMem 0xD02 g h (b2n c + 2 * b2n stripe + 4 * b2n m) (xCode d) mm)
  | .cgath g h c m d mm => some (encMem 0xD03 g h (b2n c + 4 * b2n m) (xCode d) mm)
  | .cstat g h c d => some { baseH 0xD04 g h (b2n c) with d := xCode d }
  | .nsum g h d m => some (encMem 0xE00 g h 0 (xCode d) m)
  | .nmax g h d m => some (encMem 0xE01 g h 0 (xCode d) m)
  | .naxpy g h d m b => some { encMem 0xE02 g h 0 (xCode d) m with b := xCode b }
  | .nscale g h d m b => some { encMem 0xE03 g h 0 (xCode d) m with b := xCode b }
  | .ncvt g h d m => some (encMem 0xE04 g h 0 (xCode d) m)
  | .ndot g h d m => some (encMem 0xE05 g h 0 (xCode d) m)
  | .wmap g rx d m b => some { encMem 0xE06 g .normal (b2n rx) (xCode d) m with b := xCode b }
  | .wunmap g rx b => some ((base 0xE07 g (b2n rx)).setX b)
  | .wstat g sel d b => some (encXB 0xE08 g (2 * sel.val) d b)
  | .rfence g d none => some { base 0xE09 g with d := xCode d }
  | .rfence g d (some b) => some (encXB 0xE09 g 1 d b)
  | .ctxsv g n d b => some (encXB 0xE0A g n.val d b)
  | .ctxld g n d b => some (encXB 0xE0B g n.val d b)
  | _ => none

/-- The 96-bit word of an instruction; `none` for an event. -/
def encode (i : Instr) : Option (BitVec 96) := (encodeFields i).map Fields.toBits

/-! ### The decoder -/

open Fields in
def decAlu (f : Fields) (mk : Guard → Dst → Src → Opnd → Instr) : Except Reject Instr := do
  noHint f; modOnly f 0x800
  let d ← dstOf f.d; let a ← srcOf f.a; let b ← opnd f
  return mk f.guard d a b

open Fields in
def decUn (f : Fields) (mk : Guard → Dst → Src → Instr) : Except Reject Instr := do
  noHint f; modOnly f 0; bZero f; cZero f; immZero f
  let d ← dstOf f.d; let a ← srcOf f.a
  return mk f.guard d a

open Fields in
def decFp (f : Fields) (mk : Guard → Fmt → Rnd → Bool → Dst → Src → Opnd → Instr) : Except Reject Instr := do
  noHint f; modOnly f 0x8FF
  let t ← opt (Fmt.ofCode (modF f 0 4)); let r ← opt (Rnd.ofCode (modF f 4 3))
  let d ← dstOf f.d; let a ← srcOf f.a; let b ← opnd f
  return mk f.guard t r (modB f 7) d a b

open Fields in
def decFm (f : Fields) (mk : Guard → Fmt → Dst → Src → Opnd → Instr) : Except Reject Instr := do
  noHint f; modOnly f 0x80F
  let t ← opt (Fmt.ofCode (modF f 0 4))
  let d ← dstOf f.d; let a ← srcOf f.a; let b ← opnd f
  return mk f.guard t d a b

open Fields in
/-- Class 0 and 1 instructions with no operand. -/
def decNone (f : Fields) (mk : Guard → Instr) : Except Reject Instr := do
  noHint f; modOnly f 0; dZero f; aZero f; bZero f; cZero f; immZero f
  return mk f.guard

open Fields in
/-- An instruction whose only operand is an x register in A. -/
def decA (f : Fields) (mk : Guard → XReg → Instr) : Except Reject Instr := do
  noHint f; modOnly f 0; dZero f; bZero f; cZero f; immZero f
  let a ← xOf f.a
  return mk f.guard a

open Fields in
/-- An instruction whose only operand is an x register in D. -/
def decD (f : Fields) (mk : Guard → XReg → Instr) : Except Reject Instr := do
  noHint f; modOnly f 0; aZero f; bZero f; cZero f; immZero f
  let d ← xOf f.d
  return mk f.guard d

open Fields in
/-- An instruction with a B operand alone. -/
def decB (f : Fields) (mk : Guard → XOpnd → Instr) : Except Reject Instr := do
  noHint f; modOnly f 0x800; dZero f; aZero f
  let b ← xopnd f
  return mk f.guard b

open Fields in
/-- An instruction with D and B, and the MOD bits `mask` beside I. -/
def decDB (f : Fields) (mask : Nat) (mk : Guard → XReg → XOpnd → Instr) : Except Reject Instr := do
  noHint f; modOnly f (0x800 + mask); aZero f
  let d ← xOf f.d; let b ← xopnd f
  return mk f.guard d b

open Fields in
/-- An instruction with A and B, and the MOD bits `mask` beside I. -/
def decAB (f : Fields) (mask : Nat) (mk : Guard → XReg → XOpnd → Instr) : Except Reject Instr := do
  noHint f; modOnly f (0x800 + mask); dZero f
  let a ← xOf f.a; let b ← xopnd f
  return mk f.guard a b

open Fields in
def decBr (f : Fields) (mk : Guard → BitVec 48 → Instr) : Except Reject Instr := do
  noHint f; modOnly f 0; dZero f; aZero f
  return mk f.guard f.imm48

open Fields in
def decPred (f : Fields) (mk : Guard → Bool → Bool → PReg → PReg → PReg → Instr) : Except Reject Instr := do
  noHint f; modOnly f 3; cZero f; immZero f
  let d ← pOf f.d; let a ← pOf f.a; let b ← pOf f.b
  return mk f.guard (modB f 0) (modB f 1) d a b

open Fields in
/-- A memory form with an x register in D and HINT (R205). -/
def decMemX (f : Fields) (mask : Nat) (mk : Guard → Hint → XReg → MemOp → Except Reject Instr) :
    Except Reject Instr := do
  let h ← hintOf f; modOnly f mask; bZero f
  let d ← xOf f.d; let m ← memOp f
  mk f.guard h d m

open Fields in
def decMemV (f : Fields) (mask : Nat) (mk : Guard → Hint → VReg → MemOp → Except Reject Instr) :
    Except Reject Instr := do
  let h ← hintOf f; modOnly f mask
  let d ← vOf f.d; let m ← memOp f
  mk f.guard h d m

open Fields in
/-- A memory form without HINT, with D and no B. -/
def decMem (f : Fields) (mk : Guard → XReg → MemOp → Instr) : Except Reject Instr := do
  noHint f; modOnly f 0; bZero f
  let d ← xOf f.d; let m ← memOp f
  return mk f.guard d m

open Fields in
/-- D of an instruction with .NR, which holds 0x00 then (R213). -/
def nrD (f : Fields) : Except Reject (Option XReg) :=
  if modB f 10 then do
    dZero f
    return none
  else (xOf f.d).map some

open Fields in
def decAtom (f : Fields) (mk : Guard → Hint → Size → Ordn → Option XReg → MemOp → XReg → Instr) :
    Except Reject Instr := do
  let h ← hintOf f; modOnly f 0x703
  let sz ← opt (Size.ofCode (modF f 0 2)); let o ← opt (Ordn.ofCode (modF f 8 2))
  let d ← nrD f; let m ← memOp f; let b ← xOf f.b
  return mk f.guard h sz o d m b

open Fields in
/-- R214: the float atomics; .W goes with FP32 and .H with BF16 or FP16. -/
def decAf (f : Fields) (mk : Guard → Hint → Fmt → Ordn → Option XReg → MemOp → XReg → Instr) :
    Except Reject Instr := do
  let h ← hintOf f; modOnly f 0x7F3
  let t ← opt (Fmt.ofCode (modF f 4 4)); let o ← opt (Ordn.ofCode (modF f 8 2))
  need (modF f 0 2 == (if t == .f32 then 2 else 1)) .modBits
  let d ← nrD f; let m ← memOp f; let b ← xOf f.b
  return mk f.guard h t o d m b

open Fields in
/-- R127: FMT, RND, SAT and MK with the D and A slots of a vector instruction. -/
def decV (f : Fields) (mk : Guard → Fmt → Rnd → Bool → KReg → VReg → VReg → Except Reject Instr) :
    Except Reject Instr := do
  noHint f
  let t ← opt (Fmt.ofCode (modF f 0 4)); let r ← opt (Rnd.ofCode (modF f 4 3))
  let d ← vOf f.d; let a ← vOf f.a
  mk f.guard t r (modB f 7) (Fin.ofNat 8 (modF f 8 3)) d a

open Fields in
/-- The three-operand form with an immediate. -/
def decVB (f : Fields) (mk : Guard → Fmt → Rnd → Bool → KReg → VReg → VReg → VOpnd → Instr) :
    Except Reject Instr :=
  decV f fun g t r s k d a => do
    let b ← vopnd f
    return mk g t r s k d a b

open Fields in
/-- The three-operand form of an instruction that uses neither RND nor SAT. -/
def decVB0 (f : Fields) (mk : Guard → Fmt → KReg → VReg → VReg → VOpnd → Instr) : Except Reject Instr :=
  decV f fun g t _ _ k d a => do
    modOnly f 0xF0F
    let b ← vopnd f
    return mk g t k d a b

open Fields in
/-- The two-operand form. -/
def decVU (f : Fields) (mk : Guard → Fmt → Rnd → Bool → KReg → VReg → VReg → Instr) : Except Reject Instr :=
  decV f fun g t r s k d a => do
    modOnly f 0x7FF; bZero f; cZero f; immZero f
    return mk g t r s k d a

open Fields in
/-- VABS and VNEG: no RND. -/
def decVU0 (f : Fields) (mk : Guard → Fmt → Bool → KReg → VReg → VReg → Instr) : Except Reject Instr :=
  decV f fun g t _ s k d a => do
    modOnly f 0x78F; bZero f; cZero f; immZero f
    return mk g t s k d a

open Fields in
def decVFma (f : Fields) (mk : Guard → Fmt → Rnd → Bool → KReg → VReg → VReg → VReg → VReg → Instr) :
    Except Reject Instr :=
  decV f fun g t r s k d a => do
    modOnly f 0x7FF; immZero f
    let b ← vOf f.b; let c ← vOf f.c
    return mk g t r s k d a b c

open Fields in
/-- A B register and neither RND nor SAT: VPERM and VSEL. -/
def decVPerm (f : Fields) (mk : Guard → Fmt → KReg → VReg → VReg → VReg → Instr) : Except Reject Instr :=
  decV f fun g t _ _ k d a => do
    modOnly f 0x70F; cZero f; immZero f
    let b ← vOf f.b
    return mk g t k d a b

open Fields in
/-- The predicate of a .TRY form in C, or 0x00 without .TRY (R288). -/
def tryC (f : Fields) : Except Reject (Option PReg) :=
  if modB f 0 then (pOf f.c).map some
  else do
    cZero f
    return none

open Fields in
def decClass0 (op : Nat) (f : Fields) : Except Reject Instr :=
  match op with
  | 0x00 => decNone f .nop
  | 0x01 => do
    noHint f; modOnly f 7
    let d ← xOf f.d; let a ← xOf f.a
    return .fork f.guard (Fin.ofNat 8 (modF f 0 3)) d a f.imm48
  | 0x02 => decNone f .stop
  | 0x03 => decB f .yield
  | 0x04 => do
    noHint f; modOnly f 0; dZero f; cZero f; immZero f
    let a ← xOf f.a; let b ← xOf f.b
    return .wake f.guard a b
  | 0x05 => do
    noHint f; modOnly f 0; dZero f; aZero f; bZero f; cZero f
    return .trap f.guard f.imm
  | 0x06 => decNone f .eret
  | 0x07 => do
    noHint f; modOnly f 0; aZero f; bZero f; cZero f
    let d ← xOf f.d; let r ← opt (SysReg.ofCode f.imm.toNat)
    return .sysrd f.guard d r
  | 0x08 => do
    noHint f; modOnly f 0; dZero f; bZero f; cZero f
    let a ← xOf f.a; let r ← opt (SysReg.ofCode f.imm.toNat)
    return .syswr f.guard r a
  | 0x09 => do
    noHint f; modOnly f 0x800; aZero f
    let d ← sOf f.d; let b ← xopnd f
    return .segld f.guard d b
  | 0x0A => decNone f .halt
  | _ => .error .unassignedOpcode

open Fields in
def decClass1 (op : Nat) (f : Fields) : Except Reject Instr :=
  match op with
  | 0x00 => decBr f .br
  | 0x01 => decBr f .brl
  | 0x02 => decA f .brx
  | 0x03 => decA f .brxl
  | 0x04 => decNone f .ret
  | 0x05 => do
    noHint f; modOnly f 0; dZero f
    let a ← xOf f.a
    return .loop f.guard a f.imm48
  | _ => .error .unassignedOpcode

open Fields in
def decClass2 (op : Nat) (f : Fields) : Except Reject Instr :=
  match op with
  | 0x00 => decAlu f .add
  | 0x01 => decAlu f .sub
  | 0x02 => decAlu f .mul
  | 0x03 => decAlu f .mulh
  | 0x04 => decAlu f .mulhu
  | 0x05 => decAlu f .div
  | 0x06 => decAlu f .divu
  | 0x07 => decAlu f .rem
  | 0x08 => decAlu f .remu
  | 0x09 => decAlu f .and
  | 0x0A => decAlu f .or
  | 0x0B => decAlu f .xor
  | 0x0C => decAlu f .andn
  | 0x0D => decAlu f .shl
  | 0x0E => decAlu f .shr
  | 0x0F => decAlu f .sar
  | 0x10 => decAlu f .rol
  | 0x11 => decAlu f .min
  | 0x12 => decAlu f .max
  | 0x13 => decAlu f .minu
  | 0x14 => decAlu f .maxu
  | 0x15 => decUn f .clz
  | 0x16 => decUn f .ctz
  | 0x17 => decUn f .popc
  | 0x18 => decUn f .brev
  | 0x19 => decAlu f .ext
  | 0x1A => decAlu f .extu
  | 0x1B => do
    noHint f; modOnly f 0x800
    let d ← xOf f.d; let a ← srcOf f.a; let b ← opnd f
    return .ins f.guard d a b
  | 0x1C => do
    noHint f; modOnly f 0x807
    let d ← dstOf f.d; let a ← srcOf f.a; let b ← opnd f
    return .sel f.guard (Fin.ofNat 8 (modF f 0 3)) d a b
  | 0x1D => decUn f .mov
  | 0x1E => do
    noHint f; modOnly f 0; aZero f
    let d ← dstOf f.d
    return .movi f.guard d f.imm48
  | 0x1F => do
    noHint f; modOnly f 0; bZero f
    let d ← dstOf f.d; let m ← memOp f
    return .lea f.guard d m
  | 0x20 => decUn f .caddr
  | 0x21 => decUn f .crel
  | _ => .error .unassignedOpcode

open Fields in
def decClass3 (op : Nat) (f : Fields) : Except Reject Instr :=
  match op with
  | 0x00 => decFp f .fadd
  | 0x01 => decFp f .fsub
  | 0x02 => decFp f .fmul
  | 0x03 => do
    noHint f; modOnly f 0xFF; immZero f
    let t ← opt (Fmt.ofCode (modF f 0 4)); let r ← opt (Rnd.ofCode (modF f 4 3))
    let d ← dstOf f.d; let a ← srcOf f.a; let b ← srcOf f.b; let c ← srcOf f.c
    return .ffma f.guard t r (modB f 7) d a b c
  | 0x04 => decFm f .fmin
  | 0x05 => decFm f .fmax
  | 0x06 => do
    noHint f; modOnly f 0xF0F
    let t ← opt (Fmt.ofCode (modF f 0 4)); let cc ← opt (FCond.ofCode (modF f 8 3))
    let d ← pOf f.d; let a ← srcOf f.a; let b ← opnd f
    return .fcmp f.guard t cc d a b
  | 0x07 => do
    noHint f; modOnly f 0x1FF; bZero f; cZero f
    let t ← opt (Fmt.ofCode (modF f 0 4)); let r ← opt (Rnd.ofCode (modF f 4 3))
    let s ← opt (Fmt.ofCode f.imm.toNat)
    let d ← dstOf f.d; let a ← srcOf f.a
    return .fcvt f.guard t s r (modB f 7) (modB f 8) d a
  | 0x08 => decFp f .fdiv
  | _ => .error .unassignedOpcode

open Fields in
/-- R114: the kinds of PMOV's D and A slots select its form. -/
def decPMov (f : Fields) : Except Reject Instr := do
  noHint f; modOnly f 0; bZero f; cZero f; immZero f
  match pOf f.d, pOf f.a with
  | .ok d, .ok a => return .pmov f.guard (.pp d a)
  | .ok d, .error _ => do
    let a ← srcOf f.a
    return .pmov f.guard (.px d a)
  | .error _, .ok a => do
    let d ← dstOf f.d
    return .pmov f.guard (.xp d a)
  | .error r, .error _ => .error r

open Fields in
def decClass4 (op : Nat) (f : Fields) : Except Reject Instr :=
  match op with
  | 0x00 => do
    noHint f; modOnly f 0x807
    let cc ← opt (Cond.ofCode (modF f 0 3))
    let d ← pOf f.d; let a ← srcOf f.a; let b ← opnd f
    return .cmp f.guard cc d a b
  | 0x01 => decPred f .pand
  | 0x02 => decPred f .por
  | 0x03 => decPred f .pxor
  | 0x04 => do
    noHint f; modOnly f 0; bZero f; cZero f; immZero f
    let d ← pOf f.d; let a ← pOf f.a
    return .pnot f.guard d a
  | 0x05 => decPMov f
  | _ => .error .unassignedOpcode

open Fields in
def decClass5 (op : Nat) (f : Fields) : Except Reject Instr :=
  let sz := opt (Size.ofCode (modF f 0 2))
  let o := opt (Ordn.ofCode (modF f 8 2))
  let mk : KReg := Fin.ofNat 8 (modF f 4 3)
  match op with
  | 0x00 => decMemX f 0x307 fun g h d m => do return .ld g h (← sz) (modB f 2) (← o) d m
  | 0x01 => decMemX f 0x303 fun g h d m => do return .st g h (← sz) (← o) d m
  | 0x02 => decMemV f 0x373 fun g h d m => do bZero f; return .ldv g h (← sz) (← o) mk d m
  | 0x03 => decMemV f 0x373 fun g h d m => do bZero f; return .stv g h (← sz) (← o) mk d m
  | 0x04 => decMemV f 0x3F3 fun g h d m => do
    let b ← vOf f.b
    return .gath g h (← sz) (modB f 7) (← o) mk d m b
  | 0x05 => decMemV f 0x3F3 fun g h d m => do
    let b ← vOf f.b
    return .scat g h (← sz) (modB f 7) (← o) mk d m b
  | 0x06 => decMemX f 0x301 fun g h d m => do return .stn g h (modB f 0) (← o) d m
  | _ => .error .unassignedOpcode

open Fields in
def decClass6 (op : Nat) (f : Fields) : Except Reject Instr :=
  match op with
  | 0x00 => decAtom f .aadd
  | 0x01 => decAtom f .aand
  | 0x02 => decAtom f .aor
  | 0x03 => decAtom f .axor
  | 0x04 => decAtom f .amin
  | 0x05 => decAtom f .amax
  | 0x06 => decAtom f .aminu
  | 0x07 => decAtom f .amaxu
  | 0x08 => decAtom f .axch
  | 0x09 => do
    let h ← hintOf f; modOnly f 0x303
    let sz ← opt (Size.ofCode (modF f 0 2)); let o ← opt (Ordn.ofCode (modF f 8 2))
    let d ← xOf f.d; let m ← memOp f; let b ← xOf f.b
    return .acas f.guard h sz o d m b
  | 0x0A => decAf f .afadd
  | 0x0B => decAf f .afmin
  | 0x0C => decAf f .afmax
  | 0x0D => do
    noHint f; modOnly f 0x300; dZero f; aZero f; bZero f; cZero f
    let o ← opt (Ordn.ofCode (modF f 8 2))
    need (f.imm.extractLsb' 11 21 == 0 && f.imm.extractLsb' 6 2 == 0) .unusedSlot
    return .fence f.guard o (f.imm.extractLsb' 0 6) (f.imm.extractLsb' 8 3)
  | _ => .error .unassignedOpcode

open Fields in
def decClass7 (op : Nat) (f : Fields) : Except Reject Instr :=
  match op with
  | 0x00 => do
    noHint f; modOnly f 0
    let d ← xOf f.d; let m ← memOp f; let b ← xOf f.b
    return .landset f.guard d m b
  | 0x01 => do
    noHint f; modOnly f 0x700
    let o ← opt (Ordn.ofCode (modF f 8 2))
    let d ← nrD f; let m ← memOp f; let b ← xOf f.b
    return .landadd f.guard o d m b
  | 0x02 => do
    noHint f; modOnly f 3; dZero f; bZero f
    let m ← memOp f
    return .marm f.guard (Fin.ofNat 4 (modF f 0 2)) m
  | 0x03 => decDB f 0 .mwait
  | 0x04 => decB f .mclr
  | 0x05 => decD f .rng
  | 0x06 => do
    noHint f; modOnly f 0x700; aZero f; bZero f; cZero f; immZero f
    let d ← vOf f.d
    return .vrng f.guard (Fin.ofNat 8 (modF f 8 3)) d
  | _ => .error .unassignedOpcode

open Fields in
def decClass8 (op : Nat) (f : Fields) : Except Reject Instr :=
  match op with
  | 0x00 => decMem f .qdef
  | 0x01 => decA f .qkill
  | 0x02 => decAB f 3 fun g a b => .qbind g (Fin.ofNat 4 (modF f 0 2)) a b
  | 0x03 => do
    noHint f; modOnly f 0x201; dZero f; immZero f
    let t ← tryC f; let a ← xOf f.a; let b ← xvOf f.b
    return .qpush f.guard t (modB f 9) a b
  | 0x04 => do
    noHint f; modOnly f 0x101; immZero f
    let t ← tryC f; let d ← xvOf f.d; let a ← xOf f.a; let b ← xOf f.b
    return .qpop f.guard t (modB f 8) d a b
  | 0x05 => do
    noHint f; modOnly f 0x101; immZero f
    let t ← tryC f; let d ← xvOf f.d; let a ← xOf f.a; let b ← xOf f.b
    return .qpeek f.guard t (modB f 8) d a b
  | 0x06 => do
    noHint f; modOnly f 0x803; dZero f
    let k ← opt (QKind.ofCode (modF f 0 2)); let a ← hportOf f.a; let b ← xopnd f
    return .qmark f.guard k a b
  | 0x07 => do
    noHint f; modOnly f 7; bZero f; cZero f; immZero f
    let s ← opt (QSel.ofCode (modF f 0 3)); let d ← xOf f.d; let a ← xOf f.a
    return .qstat f.guard s d a
  | _ => .error .unassignedOpcode

open Fields in
def decClass9 (op : Nat) (f : Fields) : Except Reject Instr :=
  match op with
  | 0x00 => do
    noHint f; modOnly f 3; dZero f; immZero f
    let a ← xOf f.a; let b ← xOf f.b; let c ← xOf f.c
    return .tspawn f.guard (Fin.ofNat 4 (modF f 0 2)) a b c
  | 0x01 => decNone f .tend
  | 0x02 => do
    noHint f; modOnly f 1; aZero f; bZero f; cZero f; immZero f
    if modB f 0 then do
      let p ← pOf f.d
      return .tnext f.guard (some p)
    else do
      dZero f
      return .tnext f.guard none
  | 0x03 => do
    noHint f; modOnly f 0; dZero f; bZero f
    let m ← memOp f
    return .tjoin f.guard m
  | 0x04 => decD f .fnew
  | 0x05 => decAB f 0 .fset
  | 0x06 => do
    noHint f; modOnly f 1; cZero f; immZero f
    let d ← xOf f.d; let a ← xOf f.a; let b ← xOf f.b
    return .fget f.guard (modB f 0) d a b
  | 0x07 => decA f .ffree
  | 0x08 => decAB f 0 .fpoison
  | _ => .error .unassignedOpcode

open Fields in
def decClassA (op : Nat) (f : Fields) : Except Reject Instr :=
  match op with
  | 0x00 => decVB f .vadd
  | 0x01 => decVB f .vsub
  | 0x02 => decVB f .vmul
  | 0x03 => decVFma f .vfma
  | 0x04 => decVFma f .vfms
  | 0x05 => decVB0 f .vmin
  | 0x06 => decVB0 f .vmax
  | 0x07 => decVU0 f .vabs
  | 0x08 => decVU0 f .vneg
  | 0x09 => decVB f .vdiv
  | 0x0A => decVU f .vsqrt
  | 0x0B => decVU f .vrcp
  | 0x0C => decVU f .vrsq
  | 0x0D => decVU f .vexp2
  | 0x0E => decVU f .vlog2
  | 0x0F => decV f fun g t r s k d a => do
    modOnly f 0x7FF; cZero f; immZero f
    let b ← vOf f.b
    return .vdot g t r s k d a b
  | 0x10 => do
    noHint f; modOnly f 0xF7F
    let t ← opt (Fmt.ofCode (modF f 0 4)); let cc ← opt (FCond.ofCode (modF f 4 3))
    let d ← kOf f.d; let a ← vOf f.a; let b ← vopnd f
    return .vcmp f.guard t cc (Fin.ofNat 8 (modF f 8 3)) d a b
  | 0x11 => decVB0 f .vand
  | 0x12 => decVB0 f .vor
  | 0x13 => decVB0 f .vxor
  | 0x14 => decVB0 f .vshl
  | 0x15 => decVB0 f .vshr
  | 0x16 => decVB0 f .vsar
  | _ => .error .unassignedOpcode

open Fields in
/-- R140: the kinds of VMOV's D and A slots select its form. -/
def decVMov (f : Fields) : Except Reject Instr := do
  noHint f; bZero f; cZero f; immZero f
  match vOf f.d, kOf f.d with
  | .ok d, _ => do
    modOnly f 0x70F
    let t ← opt (Fmt.ofCode (modF f 0 4)); let a ← vOf f.a
    return .vmov f.guard (.vv t (Fin.ofNat 8 (modF f 8 3)) d a)
  | .error _, .ok d => do
    modOnly f 0
    match kOf f.a with
    | .ok a => return .vmov f.guard (.kk d a)
    | .error _ => do
      let a ← xOf f.a
      return .vmov f.guard (.kx d a)
  | .error _, .error _ => do
    modOnly f 0
    let d ← xOf f.d; let a ← kOf f.a
    return .vmov f.guard (.xk d a)

open Fields in
def decClassB (op : Nat) (f : Fields) : Except Reject Instr :=
  match op with
  | 0x00 => decVMov f
  | 0x01 => do
    noHint f; modOnly f 0xF0F
    let t ← opt (Fmt.ofCode (modF f 0 4)); let d ← vOf f.d; let b ← xopnd f
    let a ← if f.a == 0 then pure none else (vOf f.a).map some
    return .vbcast f.guard t (Fin.ofNat 8 (modF f 8 3)) d a b
  | 0x02 => decVPerm f .vperm
  | 0x03 => decVPerm f .vsel
  | 0x04 => do
    noHint f; modOnly f 0x77F; bZero f; cZero f
    let t ← opt (Fmt.ofCode (modF f 0 4)); let r ← opt (Rnd.ofCode (modF f 4 3))
    let op ← opt (RedOp.ofCode f.imm.toNat)
    let d ← xOf f.d; let a ← vOf f.a
    return .vred f.guard t op r (Fin.ofNat 8 (modF f 8 3)) d a
  | 0x05 => decV f fun g t r s k d a => do
    modOnly f 0x7FF; bZero f; cZero f
    let op ← opt (RedOp.ofCode f.imm.toNat)
    return .vscan g t op r s k d a
  | 0x06 => decV f fun g t r s k d a => do
    modOnly f 0x7FF; bZero f; cZero f
    need (f.imm.toNat < 64) .unusedSlot
    let src ← opt (Fmt.ofCode (fld f.imm 0 4))
    return .vcvt g t src r s (Fin.ofNat 4 (fld f.imm 4 2)) k d a
  | 0x07 => do
    noHint f; modOnly f 0x07F
    let s ← opt (Fmt.ofCode (modF f 0 4)); let r ← opt (Rnd.ofCode (modF f 4 3))
    need (f.imm.toNat < 16) .unusedSlot
    let ty ← opt (NType.ofCode (fld f.imm 2 2))
    let d ← vOf f.d; let a ← vOf f.a; let c ← xOf f.c
    let b ← if f.b == 0 then pure none else (vOf f.b).map some
    return .vpack f.guard s r ty (Fin.ofNat 4 (fld f.imm 0 2)) d a b c
  | 0x08 => decV f fun g t r s k d a => do
    modOnly f 0x7FF; cZero f
    need (f.imm.toNat < 8) .unusedSlot
    let b ← xOf f.b
    return .vunpk g t r s (Fin.ofNat 4 (fld f.imm 0 2)) (f.imm.getLsbD 2) k d a b
  | 0x09 => do
    noHint f; modOnly f 0x80F
    let t ← opt (Fmt.ofCode (modF f 0 4)); let d ← xOf f.d; let a ← vOf f.a; let b ← xopnd f
    return .vextr f.guard t d a b
  | 0x0A => do
    noHint f; modOnly f 0x80F
    let t ← opt (Fmt.ofCode (modF f 0 4)); let d ← vOf f.d; let a ← xOf f.a; let b ← xopnd f
    return .vins f.guard t d a b
  | 0x0B => decV f fun g t _ _ k d a => do
    modOnly f 0x70F; bZero f; cZero f; immZero f
    return .vcomp g t k d a
  | 0x0C => do
    noHint f; modOnly f 0x00F; bZero f
    let t ← opt (Fmt.ofCode (modF f 0 4))
    need (f.imm.toNat < 3) .unusedSlot
    let d ← vOf f.d; let a ← vOf f.a; let c ← xOf f.c
    return .vprune f.guard t (Fin.ofNat 3 f.imm.toNat) d a c
  | _ => .error .unassignedOpcode

open Fields in
def decClassC (op : Nat) (f : Fields) : Except Reject Instr :=
  match op with
  | 0x00 => decB f .mcfg
  | 0x01 => do
    noHint f; modOnly f 0x81F; dZero f; aZero f
    need (modF f 0 4 == 0 || modF f 0 4 == 5) .modBits
    let b ← xopnd f
    return .mzero f.guard (modF f 0 4 == 5) (modB f 4) b
  | 0x02 => decMem f .mmul
  | 0x03 => decMem f .mmuls
  | 0x04 => decMem f .mloada
  | 0x05 => decMem f .mdrain
  | 0x06 => decDB f 0 .mchk
  | 0x07 => do
    noHint f; modOnly f 0
    let d ← xOf f.d; let m ← memOp f; let b ← xOf f.b
    return .mloc f.guard d m b
  | 0x08 => decDB f 0 .mcorr
  | 0x09 => decDB f 0 .mretry
  | 0x0A => decA f .minj
  | 0x0B => decDB f 3 fun g d b => .mstat g (Fin.ofNat 3 (modF f 0 2)) d b
  | _ => .error .unassignedOpcode

open Fields in
def decClassD (op : Nat) (f : Fields) : Except Reject Instr :=
  match op with
  | 0x00 => decMemX f 7 fun g h d m => return .ccopy g h (modB f 0) (modB f 1) (modB f 2) d m
  | 0x01 => decMemX f 1 fun g h d m => return .cfill g h (modB f 0) d m
  | 0x02 => decMemX f 7 fun g h d m => return .cconv g h (modB f 0) (modB f 1) (modB f 2) d m
  | 0x03 => decMemX f 5 fun g h d m => return .cgath g h (modB f 0) (modB f 2) d m
  | 0x04 => do
    let h ← hintOf f; modOnly f 1; aZero f; bZero f; cZero f; immZero f
    let d ← xOf f.d
    return .cstat f.guard h (modB f 0) d
  | _ => .error .unassignedOpcode

open Fields in
/-- A cellar command with a scalar register in B. -/
def decCellarB (f : Fields) (mk : Guard → Hint → XReg → MemOp → XReg → Instr) : Except Reject Instr := do
  let h ← hintOf f; modOnly f 0
  let d ← xOf f.d; let m ← memOp f; let b ← xOf f.b
  return mk f.guard h d m b

open Fields in
def decClassE (op : Nat) (f : Fields) : Except Reject Instr :=
  match op with
  | 0x00 => decMemX f 0 fun g h d m => return .nsum g h d m
  | 0x01 => decMemX f 0 fun g h d m => return .nmax g h d m
  | 0x02 => decCellarB f .naxpy
  | 0x03 => decCellarB f .nscale
  | 0x04 => decMemX f 0 fun g h d m => return .ncvt g h d m
  | 0x05 => decMemX f 0 fun g h d m => return .ndot g h d m
  | 0x06 => do
    noHint f; modOnly f 1
    let d ← xOf f.d; let m ← memOp f; let b ← xOf f.b
    return .wmap f.guard (modB f 0) d m b
  | 0x07 => do
    noHint f; modOnly f 0x801; dZero f; aZero f
    let b ← xopnd f
    return .wunmap f.guard (modB f 0) b
  | 0x08 => do
    need (modF f 1 2 != 3) .modBits
    decDB f 6 fun g d b => .wstat g (Fin.ofNat 3 (modF f 1 2)) d b
  | 0x09 =>
    if modB f 0 then decDB f 1 fun g d b => .rfence g d (some b)
    else decD f fun g d => .rfence g d none
  | 0x0A => decDB f 7 fun g d b => .ctxsv g (Fin.ofNat 8 (modF f 0 3)) d b
  | 0x0B => decDB f 7 fun g d b => .ctxld g (Fin.ofNat 8 (modF f 0 3)) d b
  | _ => .error .unassignedOpcode

/-- R69: dispatch on the class OPC[11:8]; class 0xF is unassigned. -/
def decodeFields (f : Fields) : Except Reject Instr :=
  let op := fld f.opc 0 8
  match fld f.opc 8 4 with
  | 0x0 => decClass0 op f
  | 0x1 => decClass1 op f
  | 0x2 => decClass2 op f
  | 0x3 => decClass3 op f
  | 0x4 => decClass4 op f
  | 0x5 => decClass5 op f
  | 0x6 => decClass6 op f
  | 0x7 => decClass7 op f
  | 0x8 => decClass8 op f
  | 0x9 => decClass9 op f
  | 0xA => decClassA op f
  | 0xB => decClassB op f
  | 0xC => if op == 0x0B && f.modF 0 2 == 3 then .error .modBits else decClassC op f
  | 0xD => decClassD op f
  | 0xE => decClassE op f
  | _ => .error .unassignedOpcode

/-- The instruction of a 96-bit word, if it is legal (R66 step 2). -/
def decodeWord (w : BitVec 96) : Except Reject Instr := do
  let i ← decodeFields (Fields.ofBits w)
  if i.wf then .ok i else .error .illegalForm

/-- The instruction that the first 12 bytes hold, with the bytes after it. -/
def decode (bs : List Byte) : Except Reject (Instr × List Byte) := do
  if bs.length < 12 then .error .shortWord
  else do
    let i ← decodeWord (wordOfBytes (bs.take 12))
    return (i, bs.drop 12)

/-- The bytes of an instruction of `nbits` bits `w`, numbered from the first word's bit 0, as the hardware
stores them: each 32-bit word little-endian, the first at the lowest address, and zeros above `nbits`. -/
def tableBytes (nbits w : Nat) : List Byte := wordBytes (BitVec.ofNat 96 (w % 2 ^ nbits))

/-- The decoder's reading of an opcode-table word. -/
def decodeTableWord (nbits w : Nat) : Option Instr :=
  match decode (tableBytes nbits w) with
  | .ok (i, _) => some i
  | .error _ => none

end Sys2Proof
end

