-- ==== Sys2Proof/Machine/Rom.lean ====
section
/-!
DEFINITION. The boot ROM: the discovery program of 16_edges.md R396, one instruction a line in the order of the
listing, and its bytes at 0x3_C000 (R394).
-/

namespace Sys2Proof.Machine

def romPart0 : List Instr := [
  .movi .always (.x 3) 0x4848,  -- start
  .landset .always 0 ⟨0, 0, 0x3d040⟩ 3,
  .cmp .always .eq 1 (.x 1) (.imm 0x0),
  .br ⟨false, 1⟩ 0xc,
  .landset .always 0 ⟨0, 0, 0x3d080⟩ 2,
  .movi .always (.x 10) 0x1,
  .br .always 0x27,
  .marm .always 0 ⟨0, 0, 0x3d000⟩,  -- wait
  .ld .always .normal .d false .plain 5 ⟨0, 0, 0x3d000⟩,
  .ld .always .normal .d false .plain 6 ⟨0, 0, 0x3d008⟩,
  .or .always (.x 5) (.x 5) (.src (.x 6)),
  .ld .always .normal .d false .plain 6 ⟨0, 0, 0x3d010⟩,
  .or .always (.x 5) (.x 5) (.src (.x 6)),
  .ld .always .normal .d false .plain 6 ⟨0, 0, 0x3d018⟩,
  .or .always (.x 10) (.x 5) (.src (.x 6)),
  .cmp .always .ne 1 (.x 10) (.imm 0x0),
  .br ⟨false, 1⟩ 0x9,
  .mwait .always 0 (.x 0),
  .br .always 0xffffffffffdf,
  .st .always .normal .d .plain 10 ⟨0, 0, 0x3d058⟩,  -- found
  .sub .always (.x 13) (.x 10) (.imm 0x10000),
  .movi .always (.x 12) 0x3f0003d000,
  .st .always .normal .w .plain 13 ⟨1, 12, 0x0⟩,
  .add .always (.x 13) (.x 10) (.imm 0x100),
  .movi .always (.x 12) 0x403d008,
  .st .always .normal .w .plain 13 ⟨1, 12, 0x0⟩,
  .add .always (.x 13) (.x 10) (.imm 0x10000),
  .movi .always (.x 12) 0x10003d010]

def romPart1 : List Instr := [
  .st .always .normal .w .plain 13 ⟨1, 12, 0x0⟩,
  .sub .always (.x 13) (.x 10) (.imm 0x100),
  .movi .always (.x 12) 0xfc03d018,
  .st .always .normal .w .plain 13 ⟨1, 12, 0x0⟩,
  .extu .always (.x 11) (.x 10) (.imm 0x1c8),
  .extu .always (.x 14) (.x 10) (.imm 0x1d0),
  .sub .always (.x 15) (.x 0) (.src (.x 14)),
  .and .always (.x 15) (.x 15) (.imm 0x3f),
  .shl .always (.x 15) (.x 15) (.imm 0x20),
  .sub .always (.x 16) (.x 0) (.src (.x 11)),
  .and .always (.x 16) (.x 16) (.imm 0x3f),
  .shl .always (.x 16) (.x 16) (.imm 0x1a),
  .or .always (.x 15) (.x 15) (.src (.x 16)),
  .shl .always (.x 16) (.x 14) (.imm 0x5),
  .add .always (.x 16) (.x 16) (.src (.x 11)),
  .add .always (.x 16) (.x 16) (.src (.x 15)),
  .movi .always (.x 17) 0x1,
  .st .always .normal .b .plain 17 ⟨1, 16, 0x3d400⟩,
  .landadd .always .rel none ⟨1, 15, 0x3d080⟩ 17,
  .cmp .always .eq 1 (.x 1) (.imm 0x0),
  .br ⟨false, 1⟩ 0x42,
  .marm .always 0 ⟨0, 0, 0x3d080⟩,  -- cwait
  .ld .always .normal .w false .acq 5 ⟨0, 0, 0x3d088⟩,
  .cmp .always .ne 1 (.x 5) (.imm 0x0),
  .br ⟨false, 1⟩ 0x9,
  .mwait .always 0 (.x 0),
  .br .always 0xfffffffffff1,
  .movi .always (.x 20) 0x0  -- build
  ]

def romPart2 : List Instr := [
  .movi .always (.x 21) 0x0,
  .ld .always .normal .b false .plain 5 ⟨0, 20, 0x3d400⟩,  -- bloop
  .cmp .always .eq 1 (.x 5) (.imm 0x0),
  .br ⟨false, 1⟩ 0xc,
  .shl .always (.x 6) (.x 21) (.imm 0x1),
  .st .always .normal .h .plain 20 ⟨0, 6, 0x4000⟩,
  .add .always (.x 21) (.x 21) (.imm 0x1),
  .add .always (.x 20) (.x 20) (.imm 0x1),  -- bnext
  .cmp .always .ltu 1 (.x 20) (.imm 0x400),
  .br ⟨false, 1⟩ 0xffffffffffe8,
  .st .always .normal .d .plain 21 ⟨0, 0, 0x4800⟩,
  .movi .always (.x 22) 0x0,
  .st .always .normal .d .plain 22 ⟨0, 0, 0x3d050⟩,
  .br .always 0x18,
  .marm .always 0 ⟨0, 0, 0x3d040⟩,  -- await
  .ld .always .normal .w false .acq 5 ⟨0, 0, 0x3d048⟩,
  .cmp .always .ne 1 (.x 5) (.imm 0x0),
  .br ⟨false, 1⟩ 0x9,
  .mwait .always 0 (.x 0),
  .br .always 0xfffffffffff1,
  .ld .always .normal .d false .plain 22 ⟨0, 0, 0x3d050⟩,  -- got
  .ld .always .normal .d false .plain 23 ⟨0, 0, 0x4800⟩,  -- tree
  .shl .always (.x 24) (.x 22) (.imm 0x1),
  .add .always (.x 24) (.x 24) (.imm 0x1),
  .movi .always (.x 25) 0x2,
  .cmp .always .ltu 1 (.x 24) (.src (.x 23)),  -- child
  .br ⟨true, 1⟩ 0x48,
  .shl .always (.x 6) (.x 24) (.imm 0x1)]

def romPart3 : List Instr := [
  .ld .always .normal .h false .plain 7 ⟨0, 6, 0x4000⟩,
  .shr .always (.x 8) (.x 7) (.imm 0x5),
  .and .always (.x 9) (.x 7) (.imm 0x1f),
  .sub .always (.x 8) (.x 8) (.src (.x 14)),
  .and .always (.x 8) (.x 8) (.imm 0x3f),
  .shl .always (.x 8) (.x 8) (.imm 0x20),
  .sub .always (.x 9) (.x 9) (.src (.x 11)),
  .and .always (.x 9) (.x 9) (.imm 0x3f),
  .shl .always (.x 9) (.x 9) (.imm 0x1a),
  .or .always (.x 8) (.x 8) (.src (.x 9)),
  .movi .always (.x 26) 0x0,
  .movi .always (.x 27) 0x121,
  .ldv .always .normal .d .plain 0 0 ⟨0, 26, 0x0⟩,  -- copy
  .add .always (.x 9) (.x 8) (.src (.x 26)),
  .stv .always .normal .d .plain 0 0 ⟨1, 9, 0x0⟩,
  .add .always (.x 26) (.x 26) (.imm 0x40),
  .loop .always 27 0xfffffffffff4,
  .st .always .normal .d .plain 24 ⟨1, 8, 0x3d050⟩,
  .movi .always (.x 9) 0x4848,
  .landadd .always .rel none ⟨1, 8, 0x3d040⟩ 9,
  .add .always (.x 24) (.x 24) (.imm 0x1),
  .loop .always 25 0xffffffffffb8,
  .landadd .always .rel none ⟨1, 15, 0x3d080⟩ 17,  -- done
  .cmp .always .eq 1 (.x 1) (.imm 0x0),
  .stop ⟨false, 1⟩,
  .marm .always 0 ⟨0, 0, 0x3d080⟩,  -- fwait
  .ld .always .normal .w false .acq 5 ⟨0, 0, 0x3d088⟩,
  .cmp .always .ltu 1 (.x 5) (.imm 0x2)]

def romPart4 : List Instr := [
  .br ⟨true, 1⟩ 0x9,
  .mwait .always 0 (.x 0),
  .br .always 0xfffffffffff1,
  .st .always .normal .d .plain 2 ⟨0, 0, 0x3d0c0⟩,  -- fin
  .stop .always]

/-- The instructions of the boot ROM. -/
def romInstrs : List Instr := romPart0 ++ romPart1 ++ romPart2 ++ romPart3 ++ romPart4

/-- One byte of the boot ROM, at an offset from 0x3_C000; it is padded with zeros (R394). -/
def romByte (n : Nat) : Byte :=
  match romInstrs[n / 12]? with
  | some i => ((encode i).getD 0).extractLsb' (8 * (n % 12)) 8
  | none => 0

end Sys2Proof.Machine
end

