-- ==== Sys2Proof/Config.lean ====
section
/-!
DEFINITION. What an implementation fixes, and the free values: what the manual leaves open. An opaque
constant has no body, so a statement that mentions it holds whatever it is.
-/

namespace Sys2Proof.Config

/-- R161: the capacity of one HBM channel, "reported at boot (nominal 1.5 GB)"; the nominal figure
(log entry 17). -/
def channelBytes : Nat := 1500000000

/-- R380: the silicon revision in DEVID, not stated (log entry 12). -/
opaque siliconRevision : BitVec 8

/-- R380: mean module power, R393: the figure of the moment `n` (log entry 12). -/
opaque powerNow : Nat → BitVec 12

/-- R388: the 512-bit root hash fused at manufacture, as 64 bytes (log entry 12). -/
opaque rootHash : List (BitVec 8)

/-- R388: where the five fields of a firmware header stand: version, image length, image digest, key and signature. R388 orders
them and gives no offset (log entry 12). -/
opaque headerAt : Fin 5 → Nat

/-- R388: the bytes of the header's image length, and whether its numbers stand with the most significant byte first (log
entry 12). -/
opaque headerLengthBytes : Nat
opaque headerBigEndian : Bool

/-- R388: the fused minimum version at manufacture (log entry 12). -/
opaque fusedMinimum : BitVec 64

/-- R391: the bytes of the fuse configuration that are measured, of the fused minimum and the fused sites (log entry 12). -/
opaque fuseBytes : BitVec 64 → List Nat → List (BitVec 8)

/-- R390: the certificate chain of slot 0 (log entry 12). -/
opaque certificateChain : List (BitVec 8)

/-- R390: the signature over a transcript, fresh for the moment `n` (log entry 12). -/
opaque signature : Nat → List (BitVec 8) → List (BitVec 8)

/-- R390: a responder's random nonce at the moment `n` (log entry 12). -/
opaque nonce : Nat → List (BitVec 8)

/-- R89: the steward vector of a job, a local-store offset (log entry 11). -/
opaque stewardVector : BitVec 16 → BitVec 64

/-- R368: ARG "request kind" of an ACCESS record, whose numbers the manual does not give; by the opcode, the BAR0
offset, 2^16 and the OP of the request, or 2^17 and the OP of a power command (log entry 20). -/
opaque requestKind : Nat → BitVec 64

/-- R368: ADDR of a record where the manual names no address, by the KIND and the request (log entry 20). -/
opaque recordAddr : Nat → Nat → BitVec 64

/-- R278, R368: UNIT of a record about a memory that has no unit id, by the memory's number in R368 (log entry 20). -/
opaque recordUnit : Nat → BitVec 12

/-- R28, R382: the handle of the request queue of a steward: role 0 allocator, 1 pager, 3 scribe, 4 loader, of a die, fixed
at boot (log entry 12). -/
opaque requestQueue : Nat → Nat → BitVec 32

/-- R278: AUX, and ADDR of a refused request, of a steward's completion entry where the manual gives none, by OP
(log entry 20). -/
opaque requestAux : BitVec 8 → BitVec 64
opaque refusedAddr : BitVec 8 → BitVec 64

/-- R368: ARG "queue handle" of the record of an entry dropped at a host completion queue, which has no handle, by port
and queue (log entry 20). -/
opaque hostQueueHandle : Nat → Nat → BitVec 64

/-- R372, R384: the bytes of the saved image that freeze `n` writes to the freeze area in host memory, whose layout the manual
does not give (log entry 15). -/
opaque freezeImage : Nat → List (BitVec 8)

/-- R30: how far HBM channel `c` (96 die + 32 stack + channel) lies from a place: the port of cluster `n` for n < 32, the
gateway that serves receive window n - 32 otherwise (log entry 84). -/
opaque channelDistance : Nat → Nat → Nat

/-- R91, R361, R364: the instructions that the loader's trap code issues before its ERET, for the cause or call `n` (log
entry 18). -/
opaque trapCodeIssues : Nat → Nat

/-- R184, R185: the number of the first write that plain load `n` does not yet find, among those that it need not find
(log entry 87). -/
opaque readsTo : Nat → Nat

/-- R380: trained width and data rate of a port, PORTSTAT[11:4] (log entry 12). -/
opaque portTraining : Nat → BitVec 8

/-- R388: the class other than OK that refuses firmware which does not verify, from 1 to 13 (log entry 20). -/
opaque firmwareClass : Fin 13

/-- R30: the class other than OK, less 1, with which the allocator rejects a start request (log entry 20). -/
opaque grantClass : Fin 13

/-- R393: KIND less 1, CLASS, ARG and DATA of the record of a die that reaches 105 C, for which R368 lists no kind
(log entry 20). -/
opaque thermalKind : Fin 16
opaque thermalClass : Fin 14
opaque thermalArg : BitVec 64
opaque thermalData : BitVec 192

end Sys2Proof.Config
end

