-- ==== Sys2Proof/Machine/State.lean ====
section
/-!
DEFINITION. The state of one PG-940 as plain data, and the state after device reset (R394). INVENTORY.md
lists every field with the rule that names it and its reset value.
-/

namespace Sys2Proof.Machine

/-- A table with a default: (key, value) pairs, the first pair of a key standing. -/
abbrev Tab (α : Type) := List (Nat × α)

/-- R13: the states of a strand. -/
inductive Run where
  | run | waitm | waitq | waitf | paged | parked | off
  deriving DecidableEq, Repr

/-- R244, R245: one entry of a retry record. -/
structure RetryEntry where
  doff : Nat
  tile : Nat
  s    : Bool
  ctx  : Word
  deriving DecidableEq, Repr

/-- R244, R245: a retry record. -/
structure Retry where
  base    : Bool
  bdoff   : Nat
  btile   : Nat
  owner   : SRef
  gen     : BitVec 32
  entries : List RetryEntry
  rpos    : Option Nat
  deriving DecidableEq, Repr

/-- R226: a command in a tile queue of a loom, with what the issuing strand fixed: descriptor bytes and
address, completion handle, privilege, and the captured tolerance registers. `serial` is the acceptance
order; `group` the next K-group or row, `sub` the phase; `recd` says that a product takes a place in the retry
record (R244); `replay` is the record that an MRETRY replays; `fclass` ends the command with a class at its next
turn; `skind` and `va` are the kind and the address of the translation fault at which the command stalled; `got` are the
bytes that its turn has read before that access, each read with its poison (R175). -/
structure LoomCmd where
  instr   : Instr
  e       : SRef
  desc    : Option (BitVec 512)
  daddr   : Word
  handle  : BitVec 32
  priv    : Bool
  job     : BitVec 16
  booth   : Nat
  tol     : List Word
  value   : Word
  step    : Word
  serial  : Nat
  started : Bool
  checked : Bool
  group   : Nat
  sub     : Nat
  recd    : Bool
  stalled : Bool
  skind   : Nat
  va      : Nat
  got     : List (List Byte × Bool)
  replay  : Option Retry
  fclass  : Option Nat
  deriving DecidableEq, Repr

/-- R303, R304: a carter command. -/
structure CarterCmd where
  instr  : Instr
  e      : SRef
  desc   : BitVec 512
  daddr  : Word
  handle : BitVec 32
  job    : BitVec 16
  booth  : Nat
  priv   : Bool
  rnga   : Word
  rngb   : Word
  id     : Nat
  deriving DecidableEq, Repr

/-- R218: a cellar command. -/
structure CellarCmd where
  instr  : Instr
  e      : SRef
  desc   : BitVec 256
  daddr  : Word
  handle : BitVec 32
  alpha  : BitVec 32
  job    : BitVec 16
  step   : Word
  deriving DecidableEq, Repr

/-- R366: what a strand waits for: a queue, with the other queues that the instruction names (R61); `record` is the record
wait of R300; a fence covers what the strand that issued it has issued, wherever its context is loaded since (R96); `accept`
holds a cellar command that its unit has not accepted (R218). -/
inductive WaitObj where
  | queue (q : Nat) (others : List Nat)
  | ready
  | record
  | node (handle : BitVec 32)
  | fence (of_ : SRef)
  | rfence (of_ : SRef)
  | cap
  | page (va : Nat) (kind : Nat)
  | mons
  | accept (u : Nat) (c : CellarCmd)
  deriving DecidableEq, Repr

/-- R14: a waiting instruction, what it waits for, its place in the order of arrival (R264), and a number: the next
unsent element of a SCAT into window space (R211), the cycle of an MWAIT limit, the number of stores that an RFENCE
covers at most. -/
structure Wait where
  obj    : WaitObj
  instr  : Instr
  ticket : Nat
  next   : Nat
  deriving DecidableEq, Repr

/-- One lane of a memory access: its lane number, its address and the keys of its bytes, ascending. -/
structure Lane where
  lane : Nat
  addr : Word
  keys : List Nat
  deriving DecidableEq, Repr

/-- R14: an instruction in flight after its issue. -/
inductive Flight where
  | pause                                                   -- YIELD (R121)
  | stop                                                    -- STOP, which acts when it completes (R119)
  | mem (i : Instr) (lanes : List Lane) (drain : Bool) (ord : Nat) -- a memory request and its reply (R207)
  | held (i : Instr)                                        -- a release that waits for earlier accesses (R185, R190)
  | acceptC (n : Nat) (c : CarterCmd) (ticket : Nat)        -- a carter's queue is full (R280)
  | acceptL (c : LoomCmd) (ticket : Nat)                    -- a loom's tile queue is full (R226)
  | loom (i : Instr)                                        -- a synchronous loom command (R252)
  | push (n : Fin 2) (v : Word)                             -- a result for an output port, pushed at completion (R98, R267)
  | sys (r : SysReg) (v : Word) (n : Nat) (due : Bool)      -- SYSWR of a register that others see, the n-th issued (R124)
  | mwait (i : Instr) (bits : Nat)                          -- MWAIT that a touch has ended, with D's value (R353)
  | unmap (w n : Nat)                                       -- WUNMAP.TX, for the first n stores (R337)
  | ctx (i : Instr)                                         -- CTXSV waiting for its target (R342)
  deriving DecidableEq, Repr

/-- R351: one monitor slot. `line` is the key of the line's first byte. -/
structure Mon where
  line    : Option Nat
  touched : Bool
  deriving DecidableEq, Repr

/-- R266: a port binding, none when unbound. -/
structure Bind where
  handle : BitVec 32
  vec    : BitVec 32
  deriving DecidableEq, Repr

/-- R82: one strand. `slot` is the key of the context slot that holds the context of a PARKED strand (R342). -/
structure Strand where
  run       : Run
  pc        : Word
  x         : Vector Word 32
  v         : Vector VWord 16
  p         : Vector Bool 8
  k         : Vector Word 8
  seg       : Vector (BitVec 128) 8
  ports     : Vector (Option Bind) 4
  priv      : Bool
  handler   : Bool
  uvec      : Bool
  task      : Bool
  reserve   : Bool
  cause     : BitVec 4
  pending   : BitVec 16
  trapaddr  : Word
  trappc    : Word
  trapbase  : Word
  utrapbase : Word
  quantum   : Word
  rnga      : Word
  rngb      : Word
  mons      : Vector Mon 4
  wait      : Option Wait
  flight    : Option Flight
  readyAt   : Nat
  timerDue  : Bool
  wakeDue   : Bool
  halting   : Bool
  home      : Nat
  hprio     : Nat
  lostMons  : BitVec 4
  slot      : Nat
  deriving DecidableEq, Repr

/-- R5, R82: one tile. `rq` are the ring slots of the ready queue's records by priority, `rqSpill` the counts of the records
read from and written to the four rings of its spill area, which lies at `rqVa` and holds `rqSpillKib` KiB (R21, R22). -/
structure Tile where
  last       : Nat
  cycle      : Nat
  tx         : Nat
  ty         : Nat
  logical    : Nat
  tol        : Vector Word 5
  segtab     : Word
  job        : BitVec 16
  booth      : Nat
  rq         : Vector (List Nat) 4
  rqSpill    : Vector (Nat × Nat) 4
  rqVa       : Option Nat
  rqSpillKib : Nat
  rqHeld     : Bool
  rqKept     : List (Nat × BitVec 128 × List Bool)
  guard      : Nat
  snaps      : Vector (Option Nat) 4
  heldFaults : List (BitVec 256)
  deriving DecidableEq, Repr

/-- R83, R386: how one strand of a booth starts; with `on` false only FORK or WAKE starts it. -/
structure Start where
  site  : Nat
  k     : Nat
  pc    : Nat
  task  : Bool
  on    : Bool
  segs  : List (Nat × BitVec 128)
  binds : List (Nat × BitVec 32 × BitVec 32)
  deriving DecidableEq, Repr

/-- R403: a booth version that the loader keeps: its tag, its bytes, starts and ROUTEMASK, and the completion queue and
TAG of its request. -/
structure Staged where
  tag    : Nat
  image  : List (Nat × List Byte)
  starts : List Start
  route  : Word
  hport  : Nat
  hcq    : Nat
  rtag   : BitVec 32
  deriving DecidableEq, Repr

/-- R26, R33, R34, R50, R90, R272, R284: a booth. `decl` are the records of its image that a new version must repeat
(R403), `syms` the values of the image's symbols (R386), `rxwins` its receive windows by name (R409), `slots` its
context slots (R406), `haltTag` the version tag of the last SHUTTER that named it (R404). `byTwin` says that a
disagreement of twins, and no UNCORR, has started the recovery under way (R286). `watch` is the watchdog counter;
`moved` says that a queue which the booth consumes has moved since the detector's last sample. -/
structure Booth where
  name      : List Byte
  tiles     : List Nat
  round     : Nat
  routemask : Word
  version   : Nat
  decl      : List (Nat × List Byte)
  syms      : List Word
  rxwins    : List (List Byte × Nat)
  slots     : List Nat
  staged    : List Staged
  haltTag   : Nat
  image     : List (Nat × List Byte)
  starts    : List Start
  halted    : Bool
  finished  : Bool
  reported  : Bool
  recovered : Bool
  recovering : Bool
  byTwin    : Bool
  period    : Nat
  watch     : Nat
  lastQuiet : Bool
  declared  : Bool
  moved     : Bool
  deriving DecidableEq, Repr

/-- R270: the state of an input. -/
inductive InState where
  | open_ | belled | shut | ended
  deriving DecidableEq, Repr

/-- R262: the state of a queue table entry. -/
inductive QState where
  | free | open_ | held | killed
  deriving DecidableEq, Repr

/-- R264, R279, R282, R287: who pushes an entry: a strand by its key, an engine at its completion entry, a host queue by
port and number, a gateway for a path of a sending device, or the loader with an owed SHUTTER. -/
inductive Pusher where
  | strand (key : Nat)
  | carter (n : Nat)
  | cellar (u : Nat)
  | loom (y t : Nat)
  | host (p q : Nat)
  | path (dev : Nat) (p : PathId)
  | loader
  deriving DecidableEq, Repr

/-- R262 to R264, R270, R271, R286: a queue. HEAD, TAIL, COMMIT and KEEP are counts from QDEF, which the table shows modulo
2^32. `pushers` names the strand that pushed each entry from HEAD to
TAIL; `marks` the kinds of the markers pushed since the last edge (`marksB` those of twin B); `twinA`, `twinB` the unpaired
entries with their pushers; `edgeA`, `edgeB` the edges that the
twins have passed beyond the last common one; `heldAt` is the cycle at which a HELD queue became so (R276) and `late` says
that its SPILL entry is posted; `owed` are the SHUTTERs that the loader still has to place, in order (R285): the target
booth, the tag, and whether the producer's edge has passed. -/
structure Queue where
  st      : QState
  prio    : Nat
  type    : Nat
  esize   : Nat
  mcast   : Bool
  twin    : Bool
  branch  : Bool
  stage   : Bool
  gen     : Nat
  job     : BitVec 16
  cap     : Nat
  flow    : Nat
  replay  : Nat
  slots   : Nat
  ring    : Nat
  spill   : Nat
  spsize  : Nat
  pbooth  : Nat
  cbooth  : Nat
  head    : Nat
  tail    : Nat
  commit  : Nat
  keep    : Nat
  spilled : Nat
  twinb   : Nat
  brs     : List (BitVec 32)
  inSt    : InState
  edgeSt  : InState
  marks   : List QKind
  pushers : List (Nat × Nat)
  twinA   : List (QKind × Nat × List Byte)
  twinB   : List (QKind × Nat × List Byte)
  marksB  : List QKind
  edgeA   : Nat
  edgeB   : Nat
  differ  : Nat
  owed    : List (Nat × Nat × Bool)
  heldAt  : Nat
  late    : Bool
  deriving DecidableEq, Repr

/-- R316: the state of a future. -/
inductive FState where
  | free | empty | full | poison
  deriving DecidableEq, Repr

/-- R317: a waiter node; `home` is the site that HDIE and HTILE name, `next` and `nv` are NEXT and NV. -/
structure Node where
  record : BitVec 128
  home   : Nat
  prio   : Nat
  next   : Nat
  nv     : Bool
  deriving DecidableEq, Repr

/-- R316: a future; `since` is DEVTIME when the quarantine began (R320). -/
structure Future where
  value   : Word
  st      : FState
  gen     : Nat
  job     : BitVec 16
  whead   : Nat
  wtail   : Nat
  wany    : Bool
  quar    : Bool
  since   : Nat
  deriving DecidableEq, Repr

/-- R207: an access handed off and not yet performed. `run` is the instruction, `data` its store data. -/
structure Pend where
  e     : SRef
  instr : Instr
  lanes : List Lane
  data  : Word
  vdata : VWord
  mask  : Word
  so    : Bool
  deriving DecidableEq, Repr

/-- R184 to R186: the value that a byte had before the newest write to it, while plain loads of some strands may still find
it (log entry 87). `when_` numbers the write; `cls` is its path class by the bit of a fence's mask (0 S, 1 C, 2 L, 3 N, 4 W,
5 H), `at_` the site of a strand that wrote or the yard of a carter or loom, `writer` that strand. `seen` are the strands
that find only the newer value, and `known` says that some strand has it ordered before its own later accesses. -/
structure Old where
  key    : Nat
  value  : Byte
  when_  : Nat
  cls    : Nat
  at_    : Nat
  writer : Option SRef
  seen   : List SRef
  known  : Bool
  deriving DecidableEq, Repr

/-- R25: a task record in transit from one tile to another. -/
structure Transit where
  dest   : Nat
  sender : Nat
  prio   : Nat
  rec_   : BitVec 128
  deriving DecidableEq, Repr

/-- R118: a wake event that leaves once the sender's earlier accesses are performed. -/
structure WakeOut where
  from_ : SRef
  dest  : SRef
  start : Word
  deriving DecidableEq, Repr

/-- R169: a TLB entry: job, page-aligned VA, log2 of the page size, and the leaf with its address. -/
structure TlbEntry where
  job  : BitVec 16
  va   : Nat
  lg   : Nat
  leaf : Word
  pte  : Nat
  deriving DecidableEq, Repr

/-- R200, R332, R339: one window store on one branch: 0 unsettled, 1 performed, 2 refused or dropped,
3 indeterminate; which RFENCEs have covered it. `off` is its offset in the window (R278). -/
structure WStore where
  sender : Sender
  win    : Nat
  off    : Nat
  branch : Nat
  st     : Nat
  plain  : Bool
  byWin  : List SRef
  cmd    : Nat
  deriving DecidableEq, Repr

/-- R330: a store that its gateway holds: its retransmissions, its number among the window stores, and DEVTIME when it last
left. -/
structure HeldStore where
  w    : RWrite
  n    : Nat
  id   : Nat
  sent : Nat
  deriving DecidableEq, Repr

/-- R330 to R332: a path at its sender: next sequence, epoch, the stores held, closed. -/
structure PathS where
  next   : Nat
  epoch  : Nat
  opened : Bool
  held   : List HeldStore
  queued : List (RWrite × Nat)
  closed : Bool
  deriving DecidableEq, Repr

/-- R314: what names a path at its receiver: its sending device, the path there, with its sender, and the receive window. -/
structure RPath where
  dev   : Nat
  path  : PathId
  rxwin : Nat
  deriving DecidableEq, Repr

/-- R330, R331: a path at its receiver; `refused` are the sequences refused in this epoch. -/
structure PathR where
  expected : Nat
  epoch    : Nat
  refused  : List Nat
  deriving DecidableEq, Repr

/-- R334: a peer's congestion entry, times in ns. `timing` is the store that the gateway times: its path, epoch, sequence and
the time when it left. -/
structure Peer where
  cap    : Nat
  out    : Nat
  base   : Option Nat
  timing : Option (PathId × Nat × Nat × Nat)
  deriving DecidableEq, Repr

/-- R230: the states of a block. -/
inductive BState where
  | empty | open_ | clean | mismatch | failed | poisoned
  deriving DecidableEq, Repr

/-- R224, R229: an accumulator block; a cell or lane that its list does not reach is zero. -/
structure Block where
  st        : BState
  int       : Bool
  noretry   : Bool
  corrected : Bool
  uncorr    : Bool
  nonfinite : Bool
  replaying : Bool
  tsel      : Nat
  fclass    : Nat
  rowmask   : Word
  colmask   : Word
  cells     : List (BitVec 32)
  pc        : List (BitVec 32)
  pr        : List (BitVec 32)
  mc        : List (BitVec 32)
  mr        : List (BitVec 32)
  record    : Option Retry
  booth     : Option (BitVec 16 × Nat)
  deriving DecidableEq, Repr

/-- R204: a byte that an engine has formed and not yet written: where, its VA in a virtual destination, its value, and whether
it is poisoned. -/
structure LineByte where
  key   : Nat
  va    : Nat
  value : Byte
  bad   : Bool
  deriving DecidableEq, Repr

/-- R224: a loom. `lines` are the bytes that drains of a tile have still to write, a line at a time (R204). -/
structure Loom where
  blocks  : Tab Block
  queues  : Tab (List LoomCmd)
  ctxs    : Tab Word
  gen     : BitVec 32
  rr      : Nat
  serial  : Nat
  pushing : List (Nat × BitVec 32 × BitVec 256)
  lines   : Tab (List LineByte)
  deriving DecidableEq, Repr

/-- R280, R307, R312: a carter: its queue with the running command first; the destination byte reached and the source
bytes read of the row; source bytes not converted and destination bytes not written, each with its poison; the bytes
performed; the bytes of the current landing chunk (for a striped destination those of the lower and the upper 4 KiB of
its stripe row) and its address range; the first failing address; the VA at which it is stalled and the kind of the
fault; the class decided; whether the follow-on has been handed on; an entry that stalls; the index array of CGATH. `lines`
are the bytes of a stripe row that are formed and not yet written, a line at a time (R204). -/
structure Carter where
  queue   : List CarterCmd
  started : Bool
  pos     : Nat
  rpos    : Nat
  inb     : List (Byte × Bool)
  outb    : List (Byte × Bool)
  bytes   : Nat
  chunk   : Nat
  chunk2  : Nat
  range   : Nat
  poison  : Bool
  drop    : Bool
  bad     : Option Word
  va      : Word
  stalled : Bool
  skind   : Nat
  cls     : Option (Nat × Word)
  handed  : Bool
  entry   : Option (BitVec 32 × BitVec 256)
  idx     : List Int
  lines   : List LineByte
  done    : BitVec 32
  deriving DecidableEq, Repr

/-- R218, R223: a cellar unit. Of the running command: the first bytes of its operands once its checks have passed, the
elements of SRC0 and SRC1 that the reductions have read, each with its poison, in place of their exact sums; the number
of elements done, the private generator, the address of the first poisoned operand, and the result bytes still to be
written, each with its poison, a line at a time. -/
structure Cellar where
  queue : List CellarCmd
  entry : Option (BitVec 32 × BitVec 256)
  pas   : Option (List Nat)
  got   : List (Nat × Nat × Bool)
  pos   : Nat
  rnga  : Word
  rngb  : Word
  bad   : Option Word
  lines : List LineByte
  deriving DecidableEq, Repr

/-- R341: a context slot. `ctx` is the image of R95 with the strand's open loom records (R247); `backing` the HBM frame that
backs the slot. -/
structure Slot where
  full  : Bool
  grant : Bool
  job   : BitVec 16
  from_ : BitVec 32
  ctx   : Option (Strand × List (Nat × Retry))
  backing : Option Nat
  deriving DecidableEq, Repr

/-- R392: an island. -/
structure Island where
  code    : Nat
  setCode : Nat
  powered : Bool
  paused  : Bool
  deriving DecidableEq, Repr

/-- R281, R282, R382: a host queue: the position that the carter expects and the kicked position, counted from the
queue's definition and shown modulo 2^32, the mismatched reads of the entry and the time of the last, and the entries
accepted since the kick. -/
structure HostQueue where
  base    : Word
  logsize : Nat
  en      : Bool
  target  : BitVec 32
  pos     : Nat
  kick    : Nat
  rereads : Nat
  since   : Nat
  accepted : Nat
  deriving DecidableEq, Repr

/-- R383, R387: a host completion queue; `pos` counts the entries written from its definition; `held` are the entries at which
their writing units stall, in order (R283, R385); `lost` says that a link or reset cleared EN. -/
structure HostCq where
  base    : Word
  logsize : Nat
  en      : Bool
  vector  : Nat
  ien     : Bool
  rel     : BitVec 32
  pos     : Nat
  held    : List (BitVec 256)
  lost    : Bool
  deriving DecidableEq, Repr

/-- R390: the state of an SPDM responder. -/
structure Spdm where
  version    : Bool
  caps       : Bool
  algs       : Bool
  deriving DecidableEq, Repr

/-- R379, R380, R387: a host port. `msix` are the 8-byte words of the MSI-X table, `pba` is its pending array. -/
structure Port where
  up   : Bool
  hqs  : Tab HostQueue
  hcqs : Tab HostCq
  msix : Tab Word
  pba  : Word
  spdm : Spdm
  deriving DecidableEq, Repr

/-- R27, R30: a job and what the allocator has granted it. -/
structure Job where
  seed    : Word
  hport   : Nat
  hcq     : Nat
  tag     : BitVec 32
  fcode   : Nat
  booths  : List Nat
  tiles   : List Nat
  queues  : List (Nat × Nat)
  futures : List (Nat × Nat)
  pages   : List PageGrant
  hostq   : List (BitVec 32)
  frozen  : Bool
  killing : Bool
  devices : List Nat
  deriving DecidableEq, Repr

/-- R380, R389: boot phases. -/
inductive Phase where
  | reset | verify | flood | stewards | ready | failed
  deriving DecidableEq, Repr

/-- R5: what each die holds. `ended` says that its boot mode has ended (R394). `logAt` is where its log lies in HBM (R367). `roles` are the logical tiles on which
allocator, pager, link steward, scribe and loader run, `images` and `entries` the stewards' bytes and starts, by which
one that meets an uncorrectable error starts on a spare tile (R28). -/
structure Die where
  phase  : Phase
  fail   : Nat
  nd     : Nat
  ended  : Bool
  logAt  : Option Nat
  faultQ : List (BitVec 256)
  transQ : List (BitVec 128)
  ltlb   : List TlbEntry
  errs   : Tab Nat
  log    : List (BitVec 512)
  logged : Nat
  hot    : Bool
  roles  : List Nat
  images : List (Nat × Nat × List Byte)
  entries : List (Nat × Nat)
  deriving DecidableEq, Repr

/-- R390, R391: what the responder answers, in the terms of SPDM; DMTF gives the encoding (log entry 12). -/
inductive SpdmReply where
  | version (versions : List Nat)
  | capabilities (cert chal measSig measFresh keyEx psk encrypt : Bool)
  | algorithms (asym hash : List String)
  | digests (slot0 : List Byte)
  | certificate (portion : List Byte) (remainder : Nat)
  | challengeAuth (certHash nonce signature : List Byte)
  | measurements (blocks : List (Nat × List Byte)) (count : Nat) (signature : Option (List Byte))
  | unsupportedRequest (code : BitVec 8)
  | unexpectedRequest
  | invalidRequest
  deriving DecidableEq, Repr

/-- What leaves the device: messages to peers, to the host and to the SPDM requester. `counts` are the eight error counts as
the scribe of a die has read them (R358), `forward` a freeze or checkpoint request that the link steward passes on
to another device of a domain job (R372). -/
inductive OutMsg where
  | write (dev : Nat) (w : RWrite)
  | answer (dev : Nat) (p : PathId) (epoch seq : Nat) (a : RAnswer)
  | resend (dev : Nat) (p : PathId) (expected : Nat)
  | report (dev : Nat) (p : PathId) (seq cls : Nat)
  | msix (port vector : Nat)
  | read (port : Nat) (v : Word)
  | spdm (port : Nat) (r : SpdmReply)
  | counts (die : Nat) (v : List Nat)
  | forward (dev : Nat) (seed : Word) (op : BitVec 8)
  deriving DecidableEq, Repr

/-- R373: what a freeze saves of one job; `device` is the device that saved it, `ctxs` the context images of its strands (R95),
`regions` the ranges of HBM that hold its pages, its page tables and the backing of its context slots, `bytes` the number of bytes that the freeze wrote to host memory for its request (R384), `entry` the
job's own record. -/
structure Saved where
  job     : BitVec 16
  device  : Nat
  entry   : Job
  regions : List (Nat × Nat)
  roots   : Tab Nat
  pool    : Tab Node
  pathS   : List (PathId × PathS)
  pathR   : List (RPath × PathR)
  wstores : List WStore
  strands : Tab Strand
  ctxs    : Tab (List Byte)
  tiles   : Tab Tile
  mem     : List Host.Cell
  poison  : List Nat
  looms   : Tab Loom
  carters : Tab Carter
  cellars : Tab Cellar
  queues  : Tab Queue
  futures : Tab Future
  slots   : Tab Slot
  tx      : Tab (BitVec 640)
  rx      : Tab (BitVec 256)
  booths  : Tab Booth
  free    : Tab (List Nat)
  bytes   : Nat
  deriving DecidableEq, Repr

/-- Log entry 2: what the model's environment gives next: an event of the opcode table, the cycle of a tile,
a pending internal event taken out of turn, the passage of time, a change
of page-table entries by a pager, with the invalidation that it pushes to its die's translation queue (R170), a host read
of a BAR0 register (R380), a soft error (R178; memories numbered as in R368), the scribe's reading of a die's error
counts (R358), the failure of a die's flood or of its stewards' start (R380), the stewards' setting of a booth's watchdog
period (R34), a write of a host port into host memory (R202), a host-port completion error for the access of a strand or of
an engine (R173), the pager's copy of the page of a COPY fault into a frame and its taking of an EXEC record (R412), the start of a domain
job on another device, as the link stewards tell it (R409), more space for the spill area of a HELD queue (R276), or an image of another device's job, which the link
steward has moved here (R374). -/
inductive Input where
  | event (i : Instr)
  | issue (site : Nat)
  | take (n : Nat)
  | elapse (ns : Nat)
  | pager (die : Nat) (writes : List (Nat × Word)) (inval : Option (BitVec 128))
  | barRead (port off : Nat)
  | softError (die mem : Nat) (corrected : Bool) (target : Nat)
  | readErrors (die : Nat)
  | bootFail (die code : Nat)
  | setPeriod (job booth cycles : Nat)
  | hostWrite (port addr : Nat) (bytes : List Byte)
  | hostError (e : SRef)
  | engineError (e : Engine) (va : Nat)
  | copyPage (die job va frame : Nat)
  | takeExec (die : Nat)
  | joined (seed : Word) (dev : Nat)
  | enlarge (queue size : Nat)
  | image (v : Saved)
  deriving DecidableEq, Repr

/-- The machine. `requests` are the steward requests that host queues 0 to 3 have delivered and no steward has served,
each with its queue (R384); `bootStaged` says that this boot takes the staging slot first (R380, R388); `booted` is the firmware slot of this boot (0 A, 1 B, 2 staging) and `measured` the bytes
measured so far by block (R391); `pendWin` lists the pending transmit windows, each with the booth and window names of
its receivers (R410); `tileMap` the frames of the tile map's pages (R340); `pagerSema` says that the pager holds the
semaphore for a freeze (R381); `stalls` are the pushes of engines, gateways and host queues that wait, each with its
queue and its place in the order of arrival (R264). Tables are keyed as follows: strands 8 site + k; tiles by site;
booths 65,536 job + id; queues 2,048 cluster + index; futures and waiter nodes 65,536 cluster + index, a free node not
listed; looms and islands by yard; carters 2 yard + c; cellars 48 die + 16 stack + u; slots 64 yard + slot; TLBs by
cluster; roots 65,536 die + job; free futures 65,536 cluster + job. -/
structure State where
  strands  : Tab Strand
  tiles    : Tab Tile
  booths   : Tab Booth
  mem      : List Host.Cell
  poison   : List Nat
  olds     : List Old
  pend     : List Pend
  wakes    : List WakeOut
  moved    : List (Transit × List Bool)
  tlbs     : Tab (List TlbEntry)
  roots    : Tab Nat
  queues   : Tab Queue
  stalls   : List (Nat × Nat × Pusher)
  futures  : Tab Future
  pool     : Tab Node
  freeFut  : Tab (List Nat)
  txwin    : Tab (BitVec 640)
  rxwin    : Tab (BitVec 256)
  pendWin  : List (Nat × List (List Byte × List Byte))
  wstores  : List WStore
  pathS    : List (PathId × PathS)
  pathR    : List (RPath × PathR)
  peers    : Tab Peer
  slots    : Tab Slot
  tileMap  : List Nat
  looms    : Tab Loom
  carters  : Tab Carter
  cellars  : Tab Cellar
  islands  : Tab Island
  ports    : Vector Port 2
  jobs     : Tab Job
  requests : List (Nat × HostReq)
  dies     : Vector Die 4
  sema     : BitVec 2
  pagerSema : Bool
  devtime  : Word
  powercap : BitVec 12
  fwact    : Bool
  bootStaged : Bool
  minver   : BitVec 64
  flash    : Vector (List Byte) 3
  booted   : Option Nat
  measured : List (Nat × List Byte)
  fused    : List Nat
  device   : Nat
  domain   : List Nat
  frozen   : List Saved
  checkpoint : List Saved
  ticket   : Nat
  fresh    : Nat
  inputs   : List Input
  internal : List Instr
  turn     : Nat
  toggle   : Bool
  cur      : SRef
  out      : List OutMsg
  deriving DecidableEq, Repr

/-- Why a run stops with a fault. -/
inductive Fault where
  /-- A translation ends at a physical address in no HBM channel (R161). Raised by the memory instructions and
  by the events of loom, carter and cellar. Safe: the manual gives no such location. -/
  | noSuchMemory
  deriving DecidableEq, Repr

/-- Why an instruction has no meaning. -/
inductive Refusal where
  /-- An instruction the model gives no meaning yet, by its mnemonic. Raised by Dispatch. Safe: nothing is
  proved of it. -/
  | notModelled (mnemonic : String)
  /-- `Input.event` names an instruction word's instruction: only events reach the machine from outside.
  Raised by step. Safe: the manual has no such event. -/
  | notAnEvent
  deriving DecidableEq, Repr

/-! ### Defaults of the tables and the state after reset -/

/-- R394, R396: segment s0 of the boot manifest: own store. -/
def bootSeg0 : BitVec 128 := 0x00002B0000040000C000000000000000#128
/-- R394, R396: segment s1 of the boot manifest: the mesh. -/
def bootSeg1 : BitVec 128 := 0x00002BFFFFFFFFFFE000000000000000#128

/-- A strand without context: R83's values, in OFF (log entry 3). -/
def Strand.blank (key : Nat) : Strand where
  run := .off
  pc := 0
  x := Vector.replicate 32 0
  v := Vector.replicate 16 0
  p := Vector.replicate 8 false
  k := Vector.replicate 8 0
  seg := Vector.replicate 8 0
  ports := Vector.replicate 4 none
  priv := decide (key % 8 = 7)
  handler := false
  uvec := false
  task := false
  reserve := decide (key % 8 = 7)
  cause := 0
  pending := 0
  trapaddr := 0
  trappc := 0
  trapbase := 0
  utrapbase := 0
  quantum := 0
  rnga := 0
  rngb := 0
  mons := Vector.replicate 4 ⟨none, false⟩
  wait := none
  flight := none
  readyAt := 0
  timerDue := false
  wakeDue := false
  halting := false
  home := key / 8
  hprio := 3
  lostMons := 0
  slot := 0

/-- R394: a strand that the table does not list stands as device reset leaves it, with no site fused: strand
0 of every site runs the boot ROM, and the corner site of a die has x1 = 1 and x2 = Nd = 1,024. -/
def Strand.atReset (key : Nat) : Strand :=
  if key % 8 = 0 then
    { Strand.blank key with
      run := .run
      pc := 0x3C000
      priv := true
      x := if (key / 8) % 1024 = 0 then ((Vector.replicate 32 0).set 1 1).set 2 1024 else Vector.replicate 32 0
      seg := ((Vector.replicate 8 0).set 0 bootSeg0).set 1 bootSeg1 }
  else Strand.blank key

/-- R92, R93: a tile at reset (log entry 3 for the fields that the manual does not give). -/
def Tile.atReset : Tile where
  last := 7
  cycle := 0
  tx := 0
  ty := 0
  logical := 0
  tol := Vector.replicate 5 0x008000000000000D
  segtab := 0
  job := 0
  booth := 0
  rq := Vector.replicate 4 []
  rqSpill := Vector.replicate 4 (0, 0)
  rqVa := none
  rqSpillKib := 64
  rqHeld := false
  rqKept := []
  guard := 0
  snaps := Vector.replicate 4 none
  heldFaults := []

/-- A booth that the table does not list. The watchdog period is the default of R34. -/
def Booth.none : Booth where
  name := []
  tiles := []
  round := 0
  routemask := 0
  version := 0
  decl := []
  syms := []
  rxwins := []
  slots := []
  staged := []
  haltTag := 0
  image := []
  starts := []
  halted := false
  finished := false
  reported := false
  recovered := false
  recovering := false
  byTwin := false
  period := 2 ^ 30
  watch := 0
  lastQuiet := false
  declared := false
  moved := false

/-- R262: a FREE entry as reset leaves it; generations are issued from 1 upwards (R260, `nextGen`). -/
def Queue.free : Queue where
  st := .free
  prio := 0
  type := 0
  esize := 0
  mcast := false
  twin := false
  branch := false
  stage := false
  gen := 0
  job := 0
  cap := 0
  flow := 0
  replay := 0
  slots := 0
  ring := 0
  spill := 0
  spsize := 0
  pbooth := 0
  cbooth := 0
  head := 0
  tail := 0
  commit := 0
  keep := 0
  spilled := 0
  twinb := 0
  brs := []
  inSt := .open_
  edgeSt := .open_
  marks := []
  pushers := []
  twinA := []
  twinB := []
  marksB := []
  edgeA := 0
  edgeB := 0
  differ := 0
  owed := []
  heldAt := 0
  late := false

/-- R316: an entry at reset. -/
def Future.free : Future := ⟨0, .free, 0, 0, 0, 0, false, false, 0⟩

/-- R229: a block at reset. -/
def Block.empty : Block where
  st := .empty
  int := false
  noretry := false
  corrected := false
  uncorr := false
  nonfinite := false
  replaying := false
  tsel := 7
  fclass := 0
  rowmask := 0
  colmask := 0
  cells := []
  pc := []
  pr := []
  mc := []
  mr := []
  record := none
  booth := none

def Loom.idle : Loom := ⟨[], [], [], 0, 0, 0, [], []⟩
def Carter.idle : Carter := ⟨[], false, 0, 0, [], [], 0, 0, 0, 0, false, false, none, 0, false, 0, none, false, none, [], [], 0⟩
def Cellar.idle : Cellar := ⟨[], none, none, [], 0, 0, 0, none, []⟩
def Slot.none : Slot := ⟨false, false, 0, 0, .none, .none⟩
/-- R11: nominal 1.2 GHz is code 24 of R392 (log entry 3). -/
def Island.nominal : Island := ⟨24, 24, true, false⟩
/-- R334: a new entry starts with CAP = 256 KiB. -/
def Peer.new : Peer := ⟨256 * 1024, 0, none, none⟩
def HostQueue.off : HostQueue := ⟨0, 0, false, 0, 0, 0, 0, 0, 0⟩
def HostCq.off : HostCq := ⟨0, 0, false, 0, false, 0, 0, [], false⟩
def Spdm.initial : Spdm := ⟨false, false, false⟩
/-- A port at device reset; its link is down until a link-up event (log entry 3). -/
def Port.atReset : Port := ⟨false, [], [], [], 0, .initial⟩
def Job.none : Job := ⟨0, 0, 0, 0, 24, [], [], [], [], [], [], false, false, []⟩
def Die.atReset : Die := ⟨.reset, 0, 0, false, none, [], [], [], [], [], 0, false, [0, 1, 2, 3, 4], [], []⟩

/-- R394: the machine right after device reset. -/
def State.reset : State where
  strands := []
  tiles := []
  booths := []
  mem := []
  poison := []
  olds := []
  pend := []
  wakes := []
  moved := []
  tlbs := []
  roots := []
  queues := []
  stalls := []
  futures := []
  pool := []
  freeFut := []
  txwin := []
  rxwin := []
  pendWin := []
  wstores := []
  pathS := []
  pathR := []
  peers := []
  slots := []
  tileMap := []
  looms := []
  carters := []
  cellars := []
  islands := []
  ports := Vector.replicate 2 Port.atReset
  jobs := []
  requests := []
  dies := Vector.replicate 4 Die.atReset
  sema := 0
  pagerSema := false
  devtime := 0
  powercap := 0
  fwact := false
  bootStaged := false
  minver := 0
  flash := Vector.replicate 3 []
  booted := none
  measured := []
  fused := []
  device := 0
  domain := [0]
  frozen := []
  checkpoint := []
  ticket := 0
  fresh := 0
  inputs := []
  internal := []
  turn := 0
  toggle := false
  cur := ⟨0, 0⟩
  out := []

end Sys2Proof.Machine
end

