-- ==== Sys2Proof/Machine/Ops.lean ====
section
/-!
DEFINITION. The named operations over the state: tables, the mesh, registers, memory, the generator, logs and
completion entries, starting and stopping strands, and taking an exception and returning from one.
-/

namespace Sys2Proof.Machine

/-- The outcome of a meaning. -/
abbrev Res := Host.Outcome State Fault Refusal

/-! ### Tables -/

/-- The value of a key, if the table lists it. -/
def lookup {α : Type} (t : Tab α) (k : Nat) : Option α :=
  match t with
  | [] => none
  | (j, v) :: r => if j = k then some v else lookup r k

def tget {α : Type} (d : α) (t : Tab α) (k : Nat) : α := (lookup t k).getD d

def tset {α : Type} (t : Tab α) (k : Nat) (v : α) : Tab α :=
  match t with
  | [] => [(k, v)]
  | (j, w) :: r => if j = k then (k, v) :: r else (j, w) :: tset r k v

def terase {α : Type} (t : Tab α) (k : Nat) : Tab α := t.filter fun p => p.1 ≠ k

/-- A function of index and element over four slots. -/
def map4 {α : Type} (f : Nat → α → α) (v : Vector α 4) : Vector α 4 := #v[f 0 v[0], f 1 v[1], f 2 v[2], f 3 v[3]]

/-! ### The mesh (R6 to R8) -/

def dieOf (site : Nat) : Nat := site / 1024
def siteX (site : Nat) : Nat := site % 32
def siteY (site : Nat) : Nat := site / 32 % 32
def siteAt (die x y : Nat) : Nat := 1024 * die + 32 * y + x
/-- R6 `xl`, `yl`. -/
def xlOf (site : Nat) : Nat := siteX site % 8
def ylOf (site : Nat) : Nat := siteY site % 16
/-- R6 `Cluster`. -/
def clusterOf (site : Nat) : Nat := dieOf site * 8 + siteY site / 16 * 4 + siteX site / 8
/-- R6 `Yard`. -/
def yardOf (site : Nat) : Nat := clusterOf site * 8 + ylOf site / 4 * 2 + xlOf site / 4
/-- R224: the in-yard index. -/
def inYard (site : Nat) : Nat := 4 * (ylOf site % 4) + xlOf site % 4
/-- The site of in-cluster coordinates. -/
def siteInCluster (cluster xl yl : Nat) : Nat :=
  siteAt (cluster / 8) (cluster % 4 * 8 + xl) (cluster % 8 / 4 * 16 + yl)
/-- The site with in-yard index `t` of a yard. -/
def siteInYard (yard t : Nat) : Nat :=
  siteInCluster (yard / 8) (yard % 2 * 4 + t % 4) (yard % 8 / 2 * 4 + t / 4)
/-- R7: a site that is not fused. -/
def isGood (s : State) (site : Nat) : Bool := decide (site < 4096) && !s.fused.contains site
/-- R7: a yard keeps its loom and carters while one of its sites is good. -/
def yardLive (s : State) (yard : Nat) : Bool := (List.range 16).any fun t => isGood s (siteInYard yard t)

/-! ### Accessors -/

def skey (e : SRef) : Nat := 8 * e.site + e.k
def srefOf (key : Nat) : SRef := ⟨key / 8, key % 8⟩
def getStrand (s : State) (key : Nat) : Strand := (lookup s.strands key).getD (Strand.atReset key)
def setStrand (s : State) (key : Nat) (v : Strand) : State := { s with strands := tset s.strands key v }
def modStrand (key : Nat) (f : Strand → Strand) (s : State) : State := setStrand s key (f (getStrand s key))
/-- The strand whose instruction is executed. -/
def me (s : State) : Strand := getStrand s (skey s.cur)
def modMe (f : Strand → Strand) (s : State) : State := modStrand (skey s.cur) f s
def getTile (s : State) (site : Nat) : Tile := tget Tile.atReset s.tiles site
def modTile (site : Nat) (f : Tile → Tile) (s : State) : State :=
  { s with tiles := tset s.tiles site (f (getTile s site)) }
def myTile (s : State) : Tile := getTile s s.cur.site
def bkey (job : BitVec 16) (booth : Nat) : Nat := job.toNat * 65536 + booth
def getBooth (s : State) (key : Nat) : Booth := tget Booth.none s.booths key
def modBooth (key : Nat) (f : Booth → Booth) (s : State) : State :=
  { s with booths := tset s.booths key (f (getBooth s key)) }
/-- The key of the booth of a site. -/
def boothOf (s : State) (site : Nat) : Nat := bkey (getTile s site).job (getTile s site).booth
def getQueue (s : State) (q : Nat) : Queue := tget Queue.free s.queues q
def modQueue (q : Nat) (f : Queue → Queue) (s : State) : State :=
  { s with queues := tset s.queues q (f (getQueue s q)) }
def getFuture (s : State) (f : Nat) : Future := tget Future.free s.futures f
def setFuture (s : State) (k : Nat) (v : Future) : State := { s with futures := tset s.futures k v }
def getLoom (s : State) (y : Nat) : Loom := tget Loom.idle s.looms y
def modLoom (y : Nat) (f : Loom → Loom) (s : State) : State :=
  { s with looms := tset s.looms y (f (getLoom s y)) }
def getCarter (s : State) (n : Nat) : Carter := tget Carter.idle s.carters n
def modCarter (n : Nat) (f : Carter → Carter) (s : State) : State :=
  { s with carters := tset s.carters n (f (getCarter s n)) }
def getCellar (s : State) (u : Nat) : Cellar := tget Cellar.idle s.cellars u
def modCellar (u : Nat) (f : Cellar → Cellar) (s : State) : State :=
  { s with cellars := tset s.cellars u (f (getCellar s u)) }
def getSlot (s : State) (n : Nat) : Slot := tget Slot.none s.slots n
def setSlot (s : State) (n : Nat) (v : Slot) : State := { s with slots := tset s.slots n v }
def getIsland (s : State) (y : Nat) : Island := tget Island.nominal s.islands y
def setIsland (s : State) (y : Nat) (v : Island) : State := { s with islands := tset s.islands y v }
def getPeer (s : State) (d : Nat) : Peer := tget Peer.new s.peers d
def modPeer (d : Nat) (f : Peer → Peer) (s : State) : State := { s with peers := tset s.peers d (f (getPeer s d)) }
def getJob (s : State) (j : BitVec 16) : Job := tget Job.none s.jobs j.toNat
def modJob (j : BitVec 16) (f : Job → Job) (s : State) : State :=
  { s with jobs := tset s.jobs j.toNat (f (getJob s j)) }
def getDie (s : State) (d : Nat) : Die := s.dies.toList.getD d Die.atReset
def modDie (d : Nat) (f : Die → Die) (s : State) : State :=
  if h : d < 4 then { s with dies := s.dies.set d (f s.dies[d]) } else s
def getPort (s : State) (p : Nat) : Port := s.ports.toList.getD p Port.atReset
def modPort (p : Nat) (f : Port → Port) (s : State) : State :=
  if h : p < 2 then { s with ports := s.ports.set p (f s.ports[p]) } else s
def getHq (s : State) (p q : Nat) : HostQueue := tget HostQueue.off (getPort s p).hqs q
def modHq (p q : Nat) (f : HostQueue → HostQueue) (s : State) : State :=
  modPort p (fun t => { t with hqs := tset t.hqs q (f (tget HostQueue.off t.hqs q)) }) s
def getHcq (s : State) (p m : Nat) : HostCq := tget HostCq.off (getPort s p).hcqs m
def modHcq (p m : Nat) (f : HostCq → HostCq) (s : State) : State :=
  modPort p (fun t => { t with hcqs := tset t.hcqs m (f (tget HostCq.off t.hcqs m)) }) s

/-- R394: the die is in boot mode from reset until boot end. -/
def bootMode (s : State) (die : Nat) : Bool := !(getDie s die).ended

/-- R372, R381: is an urgent freeze in progress? Its jobs are frozen and not saved yet. -/
def freezing (s : State) : Bool := s.jobs.any fun j => j.2.frozen && !s.frozen.any fun v => v.job.toNat == j.1
/-- R381: the semaphore is free; the pager takes it at once while an urgent freeze is in progress. -/
def freeSema (s : State) : State :=
  if freezing s then { s with sema := 3, pagerSema := true } else { s with sema := 0, pagerSema := false }

/-- An event for an agent of the device itself: it stands at the end of the internal agenda (log entry 2). -/
def enqueue (i : Instr) (s : State) : State := { s with internal := s.internal ++ [i] }
/-- An event that the agenda does not yet list. -/
def enqueueOnce (i : Instr) (s : State) : State := if s.internal.contains i then s else enqueue i s
def emit (m : OutMsg) (s : State) : State := { s with out := s.out ++ [m] }

/-! ### Registers (R59) -/

def xGet (t : Strand) (r : XReg) : Word := if r = 0 then 0 else t.x.get r
def xSet (r : XReg) (v : Word) (t : Strand) : Strand := if r = 0 then t else { t with x := t.x.set r v }
def vGet (t : Strand) (r : VReg) : VWord := t.v.get r
def vSet (r : VReg) (v : VWord) (t : Strand) : Strand := { t with v := t.v.set r v }
def pGet (t : Strand) (r : PReg) : Bool := if r = 7 then true else t.p.get r
def pSet (r : PReg) (v : Bool) (t : Strand) : Strand := if r = 7 then t else { t with p := t.p.set r v }
def kGet (t : Strand) (r : KReg) : Word := if r = 0 then BitVec.allOnes 64 else t.k.get r
def kSet (r : KReg) (v : Word) (t : Strand) : Strand := if r = 0 then t else { t with k := t.k.set r v }
def sGet (t : Strand) (r : SReg) : BitVec 128 := t.seg.get r
def sSet (r : SReg) (v : BitVec 128) (t : Strand) : Strand := { t with seg := t.seg.set r v }

/-- The x register named, of the executing strand. -/
def rx (s : State) (r : XReg) : Word := xGet (me s) r
def wx (r : XReg) (v : Word) (s : State) : State := modMe (xSet r v) s
def wxo (r : Option XReg) (v : Word) (s : State) : State := match r with | some r => wx r v s | none => s
def wv (r : VReg) (v : VWord) (s : State) : State := modMe (vSet r v) s
def wp (r : PReg) (v : Bool) (s : State) : State := modMe (pSet r v) s
def wk (r : KReg) (v : Word) (s : State) : State := modMe (kSet r v) s
def rxo (s : State) : XOpnd → Word
  | .x r => rx s r
  | .imm v => v.signExtend 64

/-! ### Memory (R152, R161, R178) -/

/-- Every byte of the device and of host memory has one key: its 52-bit physical address, or 2^52 and the
site and offset of a local store. -/
def localKey (site off : Nat) : Nat := 2 ^ 52 + site * 2 ^ 18 + off
def isLocalKey (k : Nat) : Bool := decide (2 ^ 52 ≤ k)
def keySite (k : Nat) : Nat := (k - 2 ^ 52) / 2 ^ 18
def keyOff (k : Nat) : Nat := k % 2 ^ 18
def hostKey (addr : Nat) : Nat := 2 ^ 51 + addr % 2 ^ 50

/-- What a byte reads as that the memory does not list: the boot ROM of R394 in local store, and 0
elsewhere (R394 for local store; log entry 4 for HBM and host memory). -/
def memDefault (k : Nat) : Byte :=
  if isLocalKey k ∧ 0x3C000 ≤ keyOff k ∧ keyOff k < 0x3D000 then romByte (keyOff k - 0x3C000) else 0

/-- One byte of memory. -/
def cellGet : List Host.Cell → Nat → Byte
  | [], a => memDefault a
  | (b, v) :: r, a => if b = a then v else if a < b then memDefault a else cellGet r a

/-- A byte in front of the cells that lie above it, unless it is what an unlisted byte reads as. -/
def cellCons (a : Nat) (v : Byte) (r : List Host.Cell) : List Host.Cell :=
  if v = memDefault a then r else (a, v) :: r

/-- Writes one byte of memory and keeps the canonical form. -/
def cellSet : List Host.Cell → Nat → Byte → List Host.Cell
  | [], a, v => cellCons a v []
  | (b, w) :: r, a, v =>
    if b = a then cellCons a v r
    else if a < b then cellCons a v ((b, w) :: r)
    else (b, w) :: cellSet r a v

/-- The canonical form: addresses strictly rising, and no entry that an unlisted byte would read as. -/
def Memory.wf : List Host.Cell → Bool
  | [] => true
  | [(a, v)] => v != memDefault a
  | (a, v) :: (b, w) :: r => v != memDefault a && decide (a < b) && Memory.wf ((b, w) :: r)

def readByte (s : State) (k : Nat) : Byte := cellGet s.mem k
def readKeys (s : State) (ks : List Nat) : List Byte := ks.map (readByte s)
/-- The number that the bytes at ascending keys hold (R1). -/
def bytesNat : List Byte → Nat
  | [] => 0
  | b :: bs => b.toNat + 256 * bytesNat bs
def readNat (s : State) (ks : List Nat) : Nat := bytesNat (readKeys s ks)
/-- The `n` bytes of a number, lowest first (R1). -/
def natBytes (n v : Nat) : List Byte := (List.range n).map fun i => BitVec.ofNat 8 (v / 256 ^ i)
/-- `n` keys from `k` on. -/
def keysFrom (k n : Nat) : List Nat := (List.range n).map (k + ·)

/-- R178: the first poisoned 64-bit word that an access to these bytes reads, by the key of its first byte. -/
def poisonRead (s : State) (ks : List Nat) : Option Nat :=
  (ks.find? fun k => s.poison.contains (k / 8 * 8)).map fun k => k / 8 * 8
/-- R178: the first poisoned word that a write of these bytes covers only in part. -/
def poisonPart (s : State) (ks : List Nat) : Option Nat :=
  (ks.find? fun k => s.poison.contains (k / 8 * 8) && !(keysFrom (k / 8 * 8) 8).all ks.contains).map
    fun k => k / 8 * 8

/-- R351: is one of these bytes on the line of the slot? -/
def monHit (ks : List Nat) (m : Mon) : Bool :=
  match m.line with
  | none => false
  | some l => ks.any fun k => k / 64 * 64 == l
def touchMon (ks : List Nat) (m : Mon) : Mon := if monHit ks m then { m with touched := true } else m
/-- R353: the touched bits of the armed slots. -/
def touchedBits (t : Strand) : Nat :=
  (t.mons.toList.zipIdx.map fun p => if p.1.line.isSome && p.1.touched then 2 ^ p.2 else 0).sum
/-- R353: a strand whose MWAIT a touch ends returns to RUN with the touch; the instruction completes with the bits of that
moment. -/
def endMwait (t : Strand) : Strand :=
  match t.run, t.wait with
  | .waitm, some w => { t with run := .run, wait := none, flight := some (.mwait w.instr (touchedBits t)) }
  | _, _ => t
/-- R351, R353: the monitors of a strand that writes to these bytes touch. -/
def touchStrand (ks : List Nat) (t : Strand) : Strand :=
  let u := { t with mons := map4 (fun _ => touchMon ks) t.mons }
  if t.mons.toList.any (monHit ks) then endMwait u else u

/-- R351, R353: the monitors that writes to these bytes touch, and the ends of the waits that follow. -/
def touch (ks : List Nat) (s : State) : State :=
  let hit (t : Strand) : Bool := t.mons.toList.any (monHit ks)
  let woken := (s.strands.filter fun p => hit p.2 && p.2.run == .waitm).map fun p => Instr.mwaitWake (srefOf p.1)
  { s with strands := s.strands.map (fun p => (p.1, touchStrand ks p.2)), internal := s.internal ++ woken }

/-- The bytes alone, with no other effect. -/
def pokeBytes : List (Nat × Byte) → List Host.Cell → List Host.Cell
  | [], m => m
  | (k, v) :: r, m => pokeBytes r (cellSet m k v)

/-- R184, R203: a newer write to any byte of a write leaves nothing older to find of that one. -/
def dropOlds (ks : List Nat) (l : List Old) : List Old :=
  l.filter fun o => !l.any fun p => p.when_ == o.when_ && ks.contains p.key

/-- The bytes with the poison of whole words rewritten (R178). -/
def putBytes (l : List (Nat × Byte)) (s : State) : State :=
  { s with
    mem := pokeBytes l s.mem
    poison := s.poison.filter fun w => !(keysFrom w 8).all (l.map (·.1)).contains
    olds := dropOlds (l.map (·.1)) s.olds }

/-- Writes bytes: memory and poison (R178), and the monitors on local store (R351). -/
def writeBytes (l : List (Nat × Byte)) (s : State) : State := touch ((l.map (·.1)).filter isLocalKey) (putBytes l s)
def writeNat (ks : List Nat) (v : Nat) (s : State) : State := writeBytes (ks.zip (natBytes ks.length v)) s
/-- R178: marks the words of these bytes poisoned. -/
def poisonKeys (ks : List Nat) (s : State) : State :=
  { s with poison := (ks.map fun k => k / 8 * 8).foldl (fun p w => if p.contains w then p else p ++ [w]) s.poison }

/-! ### What plain loads may still find (R184 to R186, R189; log entry 87) -/

/-- A write of a path class to these bytes, from `before` to `after`: plain loads of other strands may still find the bytes
as they were. -/
def noteOlds (cls at_ : Nat) (writer : Option SRef) (ks : List Nat) (before after : State) : State :=
  { after with
    olds := after.olds ++ ks.map fun k => ⟨k, readByte before k, after.fresh, cls, at_, writer, [], false⟩
    fresh := after.fresh + 1 }

/-- R185, R186: the writes that `f` names, and all that happen before some strand's accesses, happen before the later
accesses of strand `e`. -/
def acquire (e : SRef) (f : Old → Bool) (s : State) : State :=
  { s with
    olds := s.olds.map fun o =>
      if f o || o.known then { o with seen := if o.seen.contains e then o.seen else o.seen ++ [e], known := true } else o }
/-- R186: an acquire on path S. -/
def acquireS (e : SRef) (s : State) : State := acquire e (fun o => o.cls == 0) s
/-- Every write up to now happens before the later accesses of strand `e`. -/
def acquireAll (e : SRef) (s : State) : State := acquire e (fun _ => true) s
/-- R195: a landing word's match releases the writes that `f` names. -/
def publish (f : Old → Bool) (s : State) : State :=
  { s with olds := s.olds.map fun o => if f o then { o with known := true } else o }

/-- R180, R189: does a FENCE of strand `e` with this mask and scope name the path of the write, with its writer in scope? -/
def fenceNames (mask : BitVec 6) (scope : Nat) (e : SRef) (o : Old) : Bool :=
  let yard := if o.cls = 0 then yardOf o.at_ else o.at_
  mask.getLsbD o.cls &&
  (match o.cls with
    | 0 => decide (3 ≤ scope) || (scope == 0 && o.at_ == e.site) || (scope == 1 && yard == yardOf e.site) ||
      (scope == 2 && yard / 8 == clusterOf e.site)
    | 1 | 2 => decide (3 ≤ scope) || (scope == 1 && yard == yardOf e.site) || (scope == 2 && yard / 8 == clusterOf e.site)
    | 5 => decide (4 ≤ scope)
    | _ => decide (3 ≤ scope))

/-- R185: may a plain load of strand `e` still find the older value? -/
def mayFind (e : SRef) (o : Old) : Bool := o.writer != some e && !o.seen.contains e

/-- R185, R203: the older values that one load of strand `e` from these bytes finds: those that it may still find of the
writes from number `readsTo` on, and from the newest that it must find on. -/
def foundOlds (e : SRef) (ks : List Nat) (s : State) : List Old :=
  let l := s.olds.filter fun o => ks.contains o.key
  let least := (l.filter fun o => !mayFind e o).foldl (fun n o => max n (o.when_ + 1)) (Config.readsTo s.fresh)
  l.filter fun o => mayFind e o && decide (least ≤ o.when_)

/-- A byte among those found. -/
def foundByte (l : List Old) (s : State) (k : Nat) : Byte := ((l.find? fun o => o.key == k).map (·.value)).getD (readByte s k)

/-- R184, R185: a plain load of strand `e` has found these older values: of an RC byte that it found anew it finds nothing older
from then on; of a UN byte it may. -/
def afterFound (e : SRef) (ks : List Nat) (un : Bool) (l : List Old) (s : State) : State :=
  if !s.olds.any fun o => ks.contains o.key then s
  else
    { s with
      fresh := s.fresh + 1
      olds := s.olds.map fun o =>
        if ks.contains o.key && !un && mayFind e o && !l.contains o then { o with seen := o.seen ++ [e] } else o }

/-! ### Identity, logs and completion entries -/

/-- R8: the global endpoint id of a strand. -/
def endpoint (s : State) (e : SRef) : BitVec 32 :=
  BitVec.ofNat 16 s.device ++ BitVec.ofNat 2 (dieOf e.site) ++ BitVec.ofNat 10 (getTile s e.site).logical ++
    BitVec.ofNat 4 e.k
/-- R8: the strand that an endpoint id of this device names. -/
def strandOf (s : State) (id : BitVec 32) : Option SRef :=
  let die := fld id 14 2
  let n := fld id 4 10
  if fld id 16 16 ≠ s.device ∨ 8 ≤ fld id 0 4 ∨ (getDie s die).nd ≤ n then none
  else ((List.range 1024).find? fun i =>
    isGood s (1024 * die + i) && (getTile s (1024 * die + i)).logical == n).map fun i =>
      ⟨1024 * die + i, fld id 0 4⟩

def fieldNat (w v : Nat) : BitVec w := BitVec.ofNat w v

/-- R28: the logical tile on which steward `r` of a die runs: 0 allocator, 1 pager, 2 link, 3 scribe, 4 loader. -/
def stewardUnit (s : State) (die r : Nat) : Nat := (getDie s die).roles.getD r r

/-- R376: the recovery of the booth of a tile; a tile of job 0, which has no booth, stands under the number 65,536 + its
site (R28, log entry 37). -/
def recoveryOf (s : State) (site : Nat) : Instr :=
  let t := getTile s site
  .boothRecovery t.job.toNat (if t.job = 0 ∧ t.booth = 0 then 65536 + site else t.booth)

/-- R277: a completion entry, its sequence tag zero. -/
def mkEntry (s : State) (cls src unit die : Nat) (info : BitVec 32) (addr aux : Word) : BitVec 256 :=
  aux ++ s.devtime ++ addr ++ info ++ fieldNat 8 0 ++ fieldNat 2 0 ++ fieldNat 2 die ++ fieldNat 12 unit ++
    fieldNat 4 src ++ fieldNat 4 cls

/-- R368: a record of the scribe's log. -/
def mkLog (s : State) (kind cls : Nat) (job : BitVec 16) (ep : BitVec 32) (unit die : Nat) (addr arg : Word)
    (data : BitVec 192) : BitVec 512 :=
  data ++ arg ++ s.devtime ++ addr ++ fieldNat 50 0 ++ fieldNat 2 die ++ fieldNat 12 unit ++ ep ++ job ++
    fieldNat 4 0 ++ fieldNat 4 cls ++ fieldNat 8 kind

/-- R367: the bytes of records from number `m` on in the slots of a log that lies at `base`. -/
def logBytes (base m : Nat) (rs : List (BitVec 512)) : List (Nat × Byte) :=
  rs.zipIdx.flatMap fun r => (keysFrom (base + 64 * ((m + r.2) % 2 ^ 20)) 64).zip (natBytes 64 r.1.toNat)

/-- R367: the records in the HBM of a die whose log lies there. -/
def logWrite (die : Nat) (rs : List (BitVec 512)) (s : State) : State :=
  match (getDie s die).logAt with
  | some base => putBytes (logBytes base (getDie s die).logged rs) s
  | none => s

/-- R367: appends records to the log of a die; the oldest of 2^20 are overwritten (log entry 19). -/
def logTo (die : Nat) (rs : List (BitVec 512)) (s : State) : State :=
  modDie die (fun d =>
    let l := d.log ++ rs
    { d with log := l.drop (l.length - 2 ^ 20), logged := (d.logged + rs.length) % 2 ^ 64 }) (logWrite die rs s)

/-- The log of one event about a tile. -/
def logTile (site kind cls : Nat) (k : Option Nat) (addr arg : Word) (data : BitVec 192) (s : State) : State :=
  let t := getTile s site
  let ep := match k with | some k => endpoint s ⟨site, k⟩ | none => 0
  logTo (dieOf site) [mkLog s kind cls t.job ep t.logical (dieOf site) addr arg data] s

/-- R380: a word of the MSI-X table. PCIe masks every vector until software clears its mask bit (log entry 72). -/
def msixWord (t : Port) (i : Nat) : Word := tget (if i % 2 = 1 then 0x100000000 else 0) t.msix i
/-- Is the vector masked? Its mask is bit 0 of the fourth 4 bytes of its entry. -/
def msixMasked (t : Port) (v : Nat) : Bool := (msixWord t (2 * v + 1)).getLsbD 32
/-- R380, R383: sends an MSI-X vector, or sets its pending bit while it is masked. -/
def sendMsix (p v : Nat) (s : State) : State :=
  if msixMasked (getPort s p) v then modPort p (fun t => { t with pba := t.pba ||| ((1 : Word) <<< v) }) s
  else emit (.msix p v) s

/-- R283, R385: does a unit stall at a host completion queue? Its entry is held there; SRC, unit and die name it. -/
def unitHeld (s : State) (src unit die : Nat) : Bool :=
  [0, 1].any fun p => (getPort s p).hcqs.any fun q =>
    q.2.held.any fun e => fld e 4 4 == src && fld e 8 12 == unit && fld e 20 2 == die

/-- R283, R383: writes one entry of a host completion queue if the queue admits it; else it is held and its unit stalls. -/
def hcqPut (p m : Nat) (en : BitVec 256) (s : State) : State :=
  let q := getHcq s p m
  if (getPort s p).up ∧ q.en ∧ q.held = [] ∧ (BitVec.ofNat 32 q.pos - q.rel).toNat < 2 ^ q.logsize then
    let seq := q.pos % 255 + 1
    let en' : BitVec 256 := (en &&& ~~~(0xFF000000#256)) ||| (BitVec.ofNat 256 seq <<< 24)
    let s := writeNat (keysFrom (hostKey (q.base.toNat + 32 * (q.pos % 2 ^ q.logsize))) 32) en'.toNat s
    let s := modHcq p m (fun q => { q with pos := q.pos + 1 }) s
    if q.ien then sendMsix p q.vector s else s
  else modHcq p m (fun q => { q with held := q.held ++ [en] }) s

/-- R385: the port to which the reports of a job go: that of its start request, or the other one while its link is down. -/
def reportPort (s : State) (p : Nat) : Nat := if (getPort s p).up ∨ !(getPort s (1 - p)).up then p else 1 - p

/-- R385: posts a report of a job to its host completion queue. -/
def hostPost (job : BitVec 16) (en : BitVec 256) (s : State) : State :=
  let j := getJob s job
  if job = 0 ∨ (lookup s.jobs job.toNat).isNone then s else hcqPut (reportPort s j.hport) j.hcq en s

/-- R283, R385: does steward `r` of a die stall at a host completion queue? -/
def roleHeld (s : State) (die r : Nat) : Bool := unitHeld s 4 (stewardUnit s die r) die

/-- The address of the last record in the scribe's log (R278 gives it in AUX), by R367. -/
def logAddr (s : State) (die : Nat) : Word :=
  match (getDie s die).logAt with
  | some base => BitVec.ofNat 64 (base + 64 * (((getDie s die).logged + 2 ^ 64 - 1) % 2 ^ 20))
  | none => Config.recordAddr 0 die

/-! ### The generator (R49 to R52) -/

/-- Takes `n` Steps of the executing strand's generator. -/
def takeSteps (n : Nat) (s : State) : List Word × State :=
  let t := me s
  let (vs, a, b) := rngSteps n t.rnga t.rngb
  (vs, modMe (fun t => { t with rnga := a, rngb := b }) s)

/-- R51: the draws of an instruction with `n` element positions: `n` under RST, none otherwise. -/
def takeDraws (r : Rnd) (n : Nat) (s : State) : List Nat × State :=
  if r = .rst then let (vs, s) := takeSteps n s; (draws16 vs, s) else ([], s)

/-- R50: the round number that seeds a strand: that of its booth; the reserve strand, which runs the stewards' code and
no program of the booth (R17), has none and takes 0. -/
def seedRound (s : State) (e : SRef) : Nat := if e.k = 7 then 0 else (getBooth s (boothOf s e.site)).round
/-- R50: `Seed` of a strand; job 0, which no start request names, has the JobSeed 0 (log entry 88). -/
def seedFor (s : State) (e : SRef) : Word × Word :=
  seedOf (getJob s (getTile s e.site).job).seed (endpoint s e) (seedRound s e)
/-- R50: seeds a strand with the round number of its booth. -/
def seedStrand (key : Nat) (s : State) : State :=
  let r := seedFor s (srefOf key)
  modStrand key (fun t => { t with rnga := r.1, rngb := r.2 }) s

/-! ### Starting and stopping strands -/

/-- R88, R362: steward by identity: the reserve strand or a strand of job 0. -/
def stewardId (s : State) (e : SRef) : Bool := e.k == 7 || (getTile s e.site).job == 0

/-- R58, R89: the offset that a PC, TRAPPC, TRAPBASE or UTRAPBASE keeps of a value: bits [17:2]. -/
def offsetBits (v : Word) : Word := v &&& 0x3FFFC

/-- R83: the start of a strand by the loader, FORK or WAKE. Where `binds` or `segs` names a port or segment register
twice, the later one stands (log entry 62). -/
def startStrand (e : SRef) (pc x1 : Word) (task : Bool) (segs : List (Nat × BitVec 128))
    (binds : List (Nat × BitVec 32 × BitVec 32)) (s : State) : State :=
  let b := Strand.blank (skey e)
  let cyc := (getTile s e.site).cycle
  let t : Strand :=
    { b with
      run := .run
      pc := pc
      x := b.x.set 1 x1
      seg := segs.foldl (fun v p => v.setIfInBounds p.1 p.2) b.seg
      ports := binds.foldl (fun v p => v.setIfInBounds p.1 (some ⟨p.2.1, p.2.2⟩)) b.ports
      priv := stewardId s e
      task := task
      trapbase := offsetBits (Config.stewardVector (getTile s e.site).job)
      readyAt := cyc + 1 }
  acquireAll e (seedStrand (skey e) (setStrand s (skey e) t))

/-- R244: the retry records of an owner that stops are discarded, and NORETRY is set. -/
def dropRecords (e : SRef) (s : State) : State :=
  let drop (b : Block) : Block :=
    match b.record with
    | some r => if r.owner = e then { b with record := none, noretry := true } else b
    | none => b
  let y := yardOf e.site
  if (getLoom s y).blocks.any (fun p => (p.2.record.map (·.owner)) == some e) then
    modLoom y (fun l => { l with blocks := l.blocks.map fun p => (p.1, drop p.2) }) s
  else s

/-! ### Frequencies (R392) -/

/-- R392: has a booth that satisfies `f` a tile in the yard? -/
def boothInYard (s : State) (y : Nat) (f : Booth → Bool) : Bool :=
  s.booths.any fun b => f b.2 && b.2.tiles.any fun t => yardOf t == y

/-- R28: does the yard hold a tile of the stewards, one of the logical tiles 0 to 7 of its die? -/
def stewardYard (s : State) (y : Nat) : Bool :=
  (List.range 16).any fun t => isGood s (siteInYard y t) && decide ((getTile s (siteInYard y t)).logical < 8)

/-- R392: the lowest frequency code that a job with a booth in the yard that has not ended asks for; none when no job has one. -/
def yardCode (s : State) (y : Nat) : Option Nat :=
  let runs (j : Nat) : Bool := s.booths.any fun b =>
    b.1 / 65536 == j && !b.2.reported && b.2.tiles.any fun t => yardOf t == y
  let cs := (s.jobs.filter fun j => !j.2.killing && runs j.1).map fun j => j.2.fcode
  match cs with
  | [] => none
  | c :: r => some (r.foldl min c)

/-- R392: a power command. -/
def powerCmd (y op code : Nat) : BitVec 128 := BitVec.ofNat 128 (y % 64 + 2 ^ 8 * op + 2 ^ 16 * code)

/-- R392: the allocator's commands for yards in which a booth starts or ends; a yard with no booth tile is powered down. -/
def setYards (ys : List Nat) (s : State) : State :=
  ys.dedup.foldl (fun s y =>
    match yardCode s y with
    | some c =>
      let s := if (getIsland s y).powered then s else enqueue (.powerUp (y / 64) (powerCmd y 2 0)) s
      if (getIsland s y).setCode = c then s else enqueue (.setFrequency (y / 64) (powerCmd y 0 c)) s
    | none =>
      if boothInYard s y (fun _ => true) || stewardYard s y then s else enqueue (.powerDown (y / 64) (powerCmd y 1 0)) s) s

/-- R272, R271: a booth whose strands are all OFF after its final edge, or that has no queues, is reported
complete to the host; its yards may change their frequency (R392). -/
def reportDone (bk : Nat) (s : State) : State :=
  let b := getBooth s bk
  let off := b.tiles.all fun site => (List.range 7).all fun k => (getStrand s (8 * site + k)).run == .off
  let job := BitVec.ofNat 16 (bk / 65536)
  let queueless := s.queues.all fun p => !(p.2.job == job && p.2.st != .free &&
    (p.2.pbooth == bk % 65536 || p.2.cbooth == bk % 65536 || p.2.twinb == bk % 65536))
  if bk % 65536 ≠ 0 ∧ b.tiles ≠ [] ∧ off ∧ !b.reported ∧ !b.halted ∧ !b.recovering ∧ (b.finished || queueless) then
    hostPost job (mkEntry s 0 4 (stewardUnit s (dieOf (b.tiles.headD 0)) 4) (dieOf (b.tiles.headD 0)) (getJob s job).tag (BitVec.ofNat 64 (bk % 65536)) 0)
      (setYards (b.tiles.map yardOf) (modBooth bk (fun b => { b with reported := true }) s))
  else s

/-- R119: STOP: the strand goes to OFF and its registers, bindings, latched causes, monitors and retry records
are discarded. A handler that ends so may have held back a round edge (R271). -/
def stopStrand (e : SRef) (s : State) : State :=
  let bk := boothOf s e.site
  let s' := reportDone bk (dropRecords e (setStrand s (skey e) (Strand.blank (skey e))))
  if (getStrand s (skey e)).handler then enqueue (.roundEdge (bk / 65536) (bk % 65536)) s' else s'

/-- R14, R101: has the strand's last instruction not completed yet? It completes in the cycle before the next issue. -/
def uncompleted (s : State) (e : SRef) : Bool :=
  let t := getStrand s (skey e)
  t.flight.isSome || decide ((getTile s e.site).cycle + 1 < t.readyAt)

/-- R120: HALT of one strand: one with an instruction in flight stops when that instruction completes, as its tile's clock
or the reply finds; a PARKED one has its slot released. -/
def haltStrand (e : SRef) (s : State) : State :=
  let t := getStrand s (skey e)
  match t.run with
  | .off => s
  | .parked =>
    let ep := endpoint s e
    stopStrand e { s with slots := s.slots.map fun p =>
      if p.1 / 64 = yardOf e.site ∧ p.2.full ∧ p.2.from_ = ep then
        (p.1, { p.2 with full := false, ctx := none }) else p }
  | .run => if uncompleted s e then modStrand (skey e) (fun t => { t with halting := true }) s else stopStrand e s
  | _ => stopStrand e s

/-! ### Traps (R359 to R363) -/

/-- R359. -/
def causeCode : Cause → Nat
  | .illegal => 1 | .priv => 2 | .seg => 3 | .align => 4 | .straddle => 5 | .addr => 6 | .window => 7
  | .assay => 8 | .uncorr => 9 | .queue => 10 | .handle => 11 | .fstate => 12 | .timer => 13 | .wake => 14
  | .break_ => 15

/-- R361: trap entry of one strand, given ROUTEMASK. -/
def enterTrap (route : Word) (c : Cause) (pc addr : Word) (t : Strand) : Strand :=
  let user := route.getLsbD (causeCode c) && !t.reserve
  { t with
    cause := BitVec.ofNat 4 (causeCode c)
    pending := t.pending &&& ~~~((1 : BitVec 16) <<< causeCode c)
    trappc := offsetBits pc
    trapaddr := addr
    handler := true
    uvec := user
    priv := if user then t.priv else true
    pc := if user then t.utrapbase else t.trapbase }

/-- R90: the ROUTEMASK that governs a strand. -/
def routeOf (s : State) (e : SRef) : Word := (getBooth s (boothOf s e.site)).routemask

/-- R360: the asynchronous causes due become pending. -/
def latchDue (t : Strand) : Strand :=
  { t with
    pending := t.pending ||| (if t.timerDue then 0x2000 else 0) ||| (if t.wakeDue then 0x4000 else 0)
    timerDue := false
    wakeDue := false }

/-- R360: the lowest-numbered pending cause; only TIMER and WAKE are ever latched. -/
def lowestPending (t : Strand) : Option Cause :=
  if t.pending.getLsbD 13 then some .timer else if t.pending.getLsbD 14 then some .wake else none

/-- R360: at an instruction boundary outside a handler the lowest pending cause is taken; entry takes one
cycle more than the boundary itself (R411). -/
def takePending (route : Word) (t : Strand) : Strand :=
  let t := latchDue t
  if t.handler then t
  else match lowestPending t with
    | some c => { enterTrap route c t.pc 0 t with readyAt := t.readyAt + 1 }
    | none => t

/-- R97: the boundary of a strand whose instruction has completed and whose PC is set; a strand that HALT
reached stops here (R120). -/
def boundary (e : SRef) (s : State) : State :=
  if (getStrand s (skey e)).halting then stopStrand e s
  else modStrand (skey e) (takePending (routeOf s e)) s

/-- The executing strand's instruction ends with the PC at `npc`. -/
def setPc (npc : Word) (s : State) : State :=
  modMe (fun t => { t with pc := npc, wait := none, flight := none }) s
/-- Completes the executing strand's instruction with the PC at `npc`. -/
def finish (npc : Word) (s : State) : State := boundary s.cur (setPc npc s)
/-- Completes it with PC + 12 (R58). -/
def next (s : State) : State := finish ((me s).pc + 12) s

/-- R363: a synchronous cause other than UNCORR in a handler stops the strand and is reported. -/
def handlerFault (c : Cause) (s : State) : State :=
  let e := s.cur
  let t := me s
  let job := (getTile s e.site).job
  let s := logTile e.site 0x04 1 (some e.k) 0
    (BitVec.ofNat 64 (causeCode c + 2 ^ 32 * t.cause.toNat)) (t.pc.zeroExtend 192) s
  let die := dieOf e.site
  let s := hostPost job
    (mkEntry s 1 4 (getTile s e.site).logical die 0 ((endpoint s e).zeroExtend 64) (logAddr s die)) s
  stopStrand e s

/-- R360, R361: the executing strand's instruction raises a synchronous cause with TRAPPC = `pc`; its next
instruction can issue `lat` cycles from now (R411). UNCORR starts booth recovery (R376), also in a handler. -/
def raiseAt (c : Cause) (pc addr : Word) (lat : Nat) (s : State) : State :=
  let e := s.cur
  let s := modMe (fun t => { t with wait := none, flight := none, run := .run }) s
  if (me s).handler ∧ c ≠ .uncorr then handlerFault c s
  else if (me s).halting then stopStrand e s
  else
    let s := modMe (fun t =>
      { enterTrap (routeOf s e) c pc addr (latchDue t) with readyAt := (getTile s e.site).cycle + lat }) s
    if c = .uncorr then
      enqueue (recoveryOf s e.site) s
    else s

/-- R411: a cause from a check that the strand itself makes: the handler's first instruction can issue 3
cycles after issue. -/
def raise (c : Cause) (addr : Word) (s : State) : State := raiseAt c (me s).pc addr 3 s
/-- R411: a cause found by another unit, whose answer reaches the strand when the instruction would complete; entry takes 2
cycles from there. -/
def raiseLate (c : Cause) (addr : Word) (s : State) : State :=
  raiseAt c (me s).pc addr (max 2 ((me s).readyAt + 1 - (myTile s).cycle)) s

/-! ### Waiting (R13, R14) -/

/-- The executing strand waits in state `r` for `obj`; a strand that waits again keeps its place. -/
def waitFor (r : Run) (obj : WaitObj) (i : Instr) (n : Nat) (s : State) : State :=
  let s' := modMe (fun t =>
    { t with
      run := r
      flight := none
      wait := some ⟨obj, i, (match t.wait with | some w => w.ticket | none => s.ticket), n⟩ }) s
  { s' with ticket := s.ticket + 1 }

/-- The strands to which `f` gives a ticket, in the order of the tickets (R264, R280). -/
def inTickets (f : Strand → Option Nat) (s : State) : List SRef :=
  let l := s.strands.filterMap fun p => (f p.2).map fun n => (n, srefOf p.1)
  (l.insertionSort fun a b => a.1 ≤ b.1).map (·.2)

/-- R14: a wait that ends leaves the strand in RUN, ready from the next cycle. -/
def endWait (e : SRef) (s : State) : State :=
  modStrand (skey e) (fun t =>
    { t with run := .run, wait := none, flight := none, readyAt := (getTile s e.site).cycle + 1 }) s

/-- R96, R118, R171: a PAGED strand issues its instruction anew. What is latched for it is raised after that
instruction, so it stands as one that no instruction completes. -/
def reissue (e : SRef) (s : State) : State :=
  modStrand (skey e) (fun t =>
    { t with run := .run, wait := none, flight := none, readyAt := (getTile s e.site).cycle }) s
def reissuePaged (e : SRef) (s : State) : State := if (getStrand s (skey e)).run = .paged then reissue e s else s

/-- The executing strand's instruction stays in flight. -/
def inFlight (f : Flight) (s : State) : State := modMe (fun t => { t with flight := some f }) s

/-- The next instruction of the executing strand can issue `n` cycles from now. -/
def readyIn (n : Nat) (s : State) : State :=
  modMe (fun t => { t with readyAt := (myTile s).cycle + n }) s

/-- The strand that acts. -/
def asStrand (e : SRef) (s : State) : State := { s with cur := e }

end Sys2Proof.Machine
end

