-- ==== Sys2Proof/Machine/Flags.lean ====
section
/-!
DEFINITION. Guards (R65, R66), privilege at step 3 of R66, branch targets (R64, R115) and the conditions of
CMP (R113). The PG-940 has no flags register (R98): predicates and k masks hold every condition.
-/

namespace Sys2Proof.Machine

/-- R65: the guard value. -/
def guardVal (g : Guard) (s : State) : Bool := pGet (me s) g.p != g.neg

/-- R66: a false guard leaves only PC + 12. -/
def guarded (g : Guard) (s : State) (k : State → Res) : Res := if guardVal g s then k s else .next (next s)

/-- R66: PRIV in user privilege, before the guard. -/
def stewardOnly (s : State) (k : State → Res) : Res := if (me s).priv then k s else .next (raise .priv (me s).pc s)

/-- ILLEGAL found by an entry's own check. -/
def illegal (s : State) : Res := .next (raise .illegal (me s).pc s)

/-- R113: the conditions of CMP. -/
def condHolds (c : Cond) (a b : Word) : Bool :=
  match c with
  | .eq => a == b
  | .ne => a != b
  | .lt => a.slt b
  | .le => a.sle b
  | .ltu => a.ult b
  | .leu => a.ule b

/-- R115: a target is a multiple of 4 from 0 to 0x3_FFF4. -/
def targetOk (t : Word) : Bool := t.toNat % 4 == 0 && decide (t.toNat ≤ 0x3FFF4)

/-- R64: the PC-relative target; negative targets wrap to values far out of range. -/
def relTarget (s : State) (imm : BitVec 48) : Word := (me s).pc + 4 * imm.signExtend 64

end Sys2Proof.Machine
end

