-- ==== Sys2Proof/Machine/Access.lean ====
section
/-!
DEFINITION. Addresses (R154, R159, R395), the segment check (R158), page tables, TLBs and translation (R164 to
R172), and what stops an access.
-/

namespace Sys2Proof.Machine

/-- Why an access stops: a trap cause with TRAPADDR, a translation fault with its VA and kind (R173), or a
physical address in no channel. -/
inductive Stop where
  | trap (c : Cause) (addr : Word)
  | page (va kind : Nat)
  | hole
  deriving DecidableEq, Repr

/-- R158: the kind of an access. -/
inductive AKind where
  | load | store | atomic
  deriving DecidableEq, Repr

/-! ### Segments (R84, R85) -/

def segBase (g : BitVec 128) : Word := g.extractLsb' 0 64
def segLimit (g : BitVec 128) : Nat := fld g 64 40
def segR (g : BitVec 128) : Bool := g.getLsbD 104
def segW (g : BitVec 128) : Bool := g.getLsbD 105
def segX (g : BitVec 128) : Bool := g.getLsbD 106
def segA (g : BitVec 128) : Bool := g.getLsbD 107
def segT (g : BitVec 128) : Bool := g.getLsbD 108
def segOrd (g : BitVec 128) : Nat := fld g 109 2

/-- R154: the tag of an address. -/
def tagOf (a : Word) : Nat := fld a 62 2

/-- R85: a valid segment value. -/
def segValid (g : BitVec 128) : Bool :=
  fld g 111 17 == 0 &&
  (match tagOf (segBase g) with
    | 0 => fld g 57 5 == 0 && segOrd g == 3
    | 1 => segOrd g == 3 && segT g && !segR g && !segX g && !segA g
    | _ => segOrd g != 3)

/-! ### Local addresses (R109, R154, R395) -/

/-- R109: a coordinate after a signed step. -/
def stepCoord (base : Nat) (d : Int) (n : Nat) : Option Nat :=
  let v := (base : Int) + d
  if 0 ≤ v ∧ v < n then some v.toNat else none

/-- The field of an address as a signed number. -/
def sfld (a : Word) (lo len : Nat) : Int := (a.extractLsb' lo len).toInt

/-- R154, R159: the site that a local absolute or relative address of `site` names. -/
def localSite (s : State) (site : Nat) (a : Word) : Option Nat :=
  if fld a 25 37 ≠ 0 then none
  else
    let yx : Option Nat × Option Nat :=
      if tagOf a = 2 then (some (fld a 21 4), some (fld a 18 3))
      else (stepCoord (ylOf site) (sfld a 21 4) 16, stepCoord (xlOf site) (sfld a 18 3) 8)
    match yx with
    | (some y, some x) =>
      let t := siteInCluster (clusterOf site) x y
      if isGood s t then some t else none
    | _ => none

/-- R395: is this base a mesh address of boot mode? -/
def isMesh (s : State) (site : Nat) (a : Word) : Bool :=
  bootMode s (dieOf site) && tagOf a == 3 && a.getLsbD 61

/-- R395: the layout of a mesh address. -/
def meshOk (a : Word) : Bool := tagOf a == 3 && a.getLsbD 61 && fld a 38 23 == 0 && fld a 18 8 == 0

/-- R395: the site of a mesh address; none off the die or fused. -/
def meshSite (s : State) (site : Nat) (a : Word) : Option Nat :=
  match stepCoord (siteY site) (sfld a 32 6) 32, stepCoord (siteX site) (sfld a 26 6) 32 with
  | some y, some x => let t := siteAt (dieOf site) x y; if isGood s t then some t else none
  | _, _ => none

/-- R159: `Form` for `n` bytes at `off` from a base, none where it raises ADDR. -/
def form (s : State) (site : Nat) (priv : Bool) (base : Word) (off n : Nat) : Option Word :=
  let sum := base + BitVec.ofNat 64 off
  if isMesh s site base then
    if meshOk sum ∧ fld sum 0 18 + n ≤ 0x40000 then some sum else none
  else match tagOf base with
    | 0 => if fld base 57 5 = 0 ∧ fld base 0 57 + off + n ≤ 2 ^ 57 then some sum else none
    | 1 => if fld base 56 6 = 0 ∧ fld base 0 44 + off + n ≤ 2 ^ 44 then some sum else none
    | _ =>
      match localSite s site base with
      | none => none
      | some t =>
        if fld base 0 18 + off + n ≤ 0x40000 ∧ (priv ∨ (getTile s t).job = (getTile s site).job) then some sum
        else none

/-- R158: `Check` of an access by the executing strand. -/
def check (s : State) (g : BitVec 128) (off : Word) (size align : Nat) (kind : AKind) : Except Stop Word :=
  let base := segBase g
  let win := tagOf base == 1
  if segLimit g = 0 then .error (.trap .seg off)
  else if win ∧ kind ≠ .store then .error (.trap .window (base + off))
  else if kind = .load ∧ !segR g then .error (.trap .seg off)
  else if kind = .store ∧ win ∧ !segT g then .error (.trap .seg off)
  else if kind = .store ∧ !win ∧ !segW g then .error (.trap .seg off)
  else if kind = .atomic ∧ !(segR g && segW g && segA g) then .error (.trap .seg off)
  else if segLimit g < off.toNat + size then .error (.trap .seg off)
  else match form s s.cur.site (me s).priv base off.toNat size with
    | none => .error (.trap .addr (base + off))
    | some a => if a.toNat % align ≠ 0 then .error (.trap .align a) else .ok a

/-- R63: the offset of a memory operand. -/
def memOffset (s : State) (m : MemOp) : Word := rx s m.idx + m.disp.signExtend 64
/-- The segment of a memory operand. -/
def memSeg (s : State) (m : MemOp) : BitVec 128 := sGet (me s) m.seg

/-! ### Page tables (R161, R164 to R168) -/

/-- R161: a physical address that lies in no channel. -/
def isHole (pa : Nat) : Bool :=
  if pa / 2 ^ 51 % 2 = 1 then false
  else decide (pa / 2 ^ 47 % 4 = 3) || decide (Config.channelBytes ≤ pa % 2 ^ 42)
def isHostPa (pa : Nat) : Bool := decide (2 ^ 51 ≤ pa) && decide (pa < 2 ^ 52)
/-- R162: the link of neither host port is up. -/
def hostDown (s : State) : Bool := !(getPort s 0).up && !(getPort s 1).up

/-- R164: level, lowest VA bit indexed, number of bits. -/
def walkLevels : List (Nat × Nat × Nat) :=
  [(5, 45, 12), (4, 34, 11), (3, 29, 5), (2, 21, 8), (1, 16, 5), (0, 12, 4)]

/-- R166: malformed entries with V = 1. -/
def pteMalformed (level lg : Nat) (e : Word) : Bool :=
  if !e.getLsbD 1 then
    level == 0 || fld e 2 5 != 0 || fld e 52 12 != 0 || e.getLsbD 51 || fld e 47 2 == 3
  else
    let host := e.getLsbD 51
    let frame := fld e 12 40 * 4096
    level == 5 || e.getLsbD 11 || fld e 52 12 != 0 || fld e 4 2 == 3 || (e.getLsbD 8 && e.getLsbD 2) ||
    (!host && fld e 47 2 == 3) || (host && (decide (21 < lg) || e.getLsbD 50)) ||
    frame % 2 ^ min lg 21 != 0 ||
    (e.getLsbD 6 && (decide (lg < 21) || host || !e.getLsbD 7))

/-- The end of a walk: a leaf with the key of its entry and log2 of the page size, or a fault kind (R173). -/
inductive Walk where
  | leaf (key : Nat) (e : Word) (lg : Nat)
  | bad (kind : Nat) (key : Nat)
  deriving DecidableEq, Repr

/-- R164, R165: the walk of the tree from a table. The walker reads an entry in a poisoned word as its bytes stand (log entry
65). -/
def walk (s : State) (va : Nat) : List (Nat × Nat × Nat) → Nat → Walk
  | [], t => .bad 3 t
  | (level, lo, w) :: rest, t =>
    let key := t + 8 * (va / 2 ^ lo % 2 ^ w)
    let e : Word := BitVec.ofNat 64 (readNat s (keysFrom key 8))
    if !e.getLsbD 0 then .bad 0 key
    else if pteMalformed level lo e then .bad 3 key
    else if e.getLsbD 1 then .leaf key e lo
    else walk s va rest (fld e 7 45 * 128)

/-- R167: the physical address of a VA under a leaf. -/
def leafPa (e : Word) (lg va : Nat) : Nat :=
  let frame := fld e 12 40 * 4096
  let off := va % 2 ^ lg
  if lg ≤ 21 then frame + off
  else
    let k := off / 2 ^ 21
    let die := frame / 2 ^ 49 % 4
    let s0 := frame / 2 ^ 47 % 4
    let c0 := frame / 2 ^ 42 % 32
    let o0 := frame % 2 ^ 42
    let (stack, chan, o) :=
      if lg = 29 then (s0, (c0 + k) % 32, o0 + 2 ^ 21 * (k / 32))
      else
        let g := (32 * s0 + c0 + k) % 96
        (g / 32, g % 32, o0 + 2 ^ 21 * (k / 96))
    die * 2 ^ 49 + stack * 2 ^ 47 + chan * 2 ^ 42 + o + off % 2 ^ 21

/-- R169: does a TLB entry translate this access? A cached D of 0 does not satisfy a store (R168). -/
def tlbHit (job : BitVec 16) (va : Nat) (store : Bool) (t : TlbEntry) : Bool :=
  t.job == job && t.va == va / 2 ^ t.lg && (!store || t.leaf.getLsbD 10)

/-- R169: an entry enters the port TLB and the last-level TLB (log entry 14). -/
def tlbFill (cluster : Nat) (t : TlbEntry) (s : State) : State :=
  let keep (l : List TlbEntry) (n : Nat) : List TlbEntry :=
    (t :: l.filter fun u => !(u.job == t.job && u.va == t.va && u.lg == t.lg)).take n
  modDie (cluster / 8) (fun d => { d with ltlb := keep d.ltlb 1024 })
    { s with tlbs := tset s.tlbs cluster (keep (tget [] s.tlbs cluster) 64) }

/-- The result of a translation: the leaf and page size in force and the state after the walk. -/
structure Xlate where
  leaf : Word
  lg   : Nat
  st   : State

/-- R164 to R169: the leaf through which a VA translates, from a TLB or by the walk. A job without a root table for the die has
no valid entry there: NOTVALID (log entry 66). -/
def leafOf (cluster : Nat) (job : BitVec 16) (va : Nat) (store : Bool) (s : State) : Except Stop Xlate :=
  let hit := match (tget [] s.tlbs cluster).find? (tlbHit job va store) with
    | some t => some t
    | none => (getDie s (cluster / 8)).ltlb.find? (tlbHit job va store)
  match hit with
    | some t =>
      if store ∧ !t.leaf.getLsbD 2 then .error (.page va (if t.leaf.getLsbD 8 then 2 else 1))
      else .ok ⟨t.leaf, t.lg, tlbFill cluster t s⟩
    | none =>
      match lookup s.roots (65536 * (cluster / 8) + job.toNat) with
      | none => .error (.page va 0)
      | some root =>
        match walk s va walkLevels root with
        | .bad k _ => .error (.page va k)
        | .leaf key e lg =>
          if store ∧ !e.getLsbD 2 then .error (.page va (if e.getLsbD 8 then 2 else 1))
          else
            let e' := e ||| 0x200 ||| (if store then 0x400 else 0)
            let s' := if e' = e then s else { s with mem := pokeBytes ((keysFrom key 8).zip (natBytes 8 e'.toNat)) s.mem }
            .ok ⟨e', lg, tlbFill cluster ⟨job, va / 2 ^ lg, lg, e', key⟩ s'⟩

/-- R162, R171: translates one VA for the port group of a cluster. -/
def translate (cluster : Nat) (job : BitVec 16) (va : Nat) (store : Bool) (s : State) : Except Stop Xlate :=
  match leafOf cluster job va store s with
  | .error e => .error e
  | .ok x =>
    let pa := leafPa x.leaf x.lg va
    if isHostPa pa ∧ hostDown s then .error (.page va 5)
    else if isHole pa then .error .hole
    else .ok x

/-- R168: the state that `translate` leaves where it stops: what a leaf that it found has been set to. -/
def walked (cluster : Nat) (job : BitVec 16) (va : Nat) (store : Bool) (s : State) : State :=
  match leafOf cluster job va store s with
  | .error _ => s
  | .ok x => x.st

/-! ### Where an access goes -/

/-- The bytes of an access, a place in window space, or a mesh target that does not exist (R395). -/
inductive Place where
  | bytes (ks : List Nat)
  | win (w off : Nat)
  | nowhere
  deriving DecidableEq, Repr

/-- A resolved access: its place, its order kind (0 SO, 1 RC, 2 UN) and the state after translation. -/
structure Access where
  place : Place
  ord   : Nat
  st    : State

/-- R171, R172: the bytes at a virtual address. `tr` translates one VA: that of the first byte, and where the last byte lies
on another page that of the last byte, which a fault of the second page then bears (log entry 64). -/
def virtBytes (tr : Nat → State → Except Stop Xlate) (va n : Nat) (s : State) : Except Stop Access :=
  match tr va s with
  | .error e => .error e
  | .ok x =>
    let last := va + n - 1
    if va / 2 ^ x.lg = last / 2 ^ x.lg then
      .ok ⟨.bytes ((List.range n).map fun i => leafPa x.leaf x.lg (va + i)), fld x.leaf 4 2, x.st⟩
    else match tr last x.st with
      | .error e => .error e
      | .ok y =>
        if fld x.leaf 4 2 ≠ fld y.leaf 4 2 then .error (.trap .straddle (BitVec.ofNat 64 va))
        else .ok ⟨.bytes ((List.range n).map fun i =>
            if (va + i) / 2 ^ x.lg = va / 2 ^ x.lg then leafPa x.leaf x.lg (va + i)
            else leafPa y.leaf y.lg (va + i)), fld x.leaf 4 2, y.st⟩

/-- R168: the state that the access to `n` bytes at a VA leaves where it stops: what its walks have set in page-table entries
and entered into TLBs. -/
def virtWalked (cluster : Nat) (job : BitVec 16) (store : Bool) (va n : Nat) (s : State) : State :=
  match translate cluster job va store s with
  | .error _ => walked cluster job va store s
  | .ok x =>
    if va / 2 ^ x.lg = (va + n - 1) / 2 ^ x.lg then x.st else walked cluster job (va + n - 1) store x.st

/-- The `n` bytes that an address of the site `site` names, for job `job`; `ord` is the segment's order kind. -/
def resolve (site : Nat) (job : BitVec 16) (a : Word) (n : Nat) (store : Bool) (ord : Nat) (s : State) :
    Except Stop Access :=
  if isMesh s site a then
    match meshSite s site a with
    | some t => .ok ⟨.bytes (keysFrom (localKey t (fld a 0 18)) n), ord, s⟩
    | none => .ok ⟨.nowhere, ord, s⟩
  else match tagOf a with
    | 0 => virtBytes (fun va => translate (clusterOf site) job va store) (fld a 0 57) n s
    | 1 => .ok ⟨.win (fld a 44 12) (fld a 0 44), ord, s⟩
    | _ => match localSite s site a with
      | some t => .ok ⟨.bytes (keysFrom (localKey t (fld a 0 18)) n), ord, s⟩
      | none => .error (.trap .addr a)

/-- The executing strand's access to an address that Check formed. -/
def access (a : Word) (n : Nat) (store : Bool) (g : BitVec 128) (s : State) : Except Stop Access :=
  resolve s.cur.site (myTile s).job a n store (segOrd g) s

/-- R168: the state that `access` leaves where it stops. -/
def accessWalked (a : Word) (n : Nat) (store : Bool) (s : State) : State :=
  if tagOf a = 0 then virtWalked (clusterOf s.cur.site) (myTile s).job store (fld a 0 57) n s else s

/-- Check with a local base required: SEG with the offset otherwise (R218, R236, R290, R301, R336, R349). A
window base raises WINDOW by Check where the kind is not STORE. -/
def checkLocal (s : State) (m : MemOp) (size align : Nat) (kind : AKind) : Except Stop Word :=
  let g := memSeg s m
  let off := memOffset s m
  match check s g off size align kind with
  | .error e => .error e
  | .ok a => if 2 ≤ tagOf a then .ok a else .error (.trap .seg off)

/-- The keys of `n` bytes at a checked local address of the executing strand. -/
def localKeys (s : State) (a : Word) (n : Nat) : List Nat :=
  match (if isMesh s s.cur.site a then meshSite s s.cur.site a else localSite s s.cur.site a) with
  | some t => keysFrom (localKey t (fld a 0 18)) n
  | none => []

/-! ### What a stop does to the strand -/

/-- R173: a fault record. -/
def faultRecord (va : Nat) (ep : BitVec 32) (unit kind path : Nat) (store : Bool) (job : BitVec 16)
    (detail : BitVec 96) : BitVec 256 :=
  detail ++ fieldNat 16 0 ++ job ++ fieldNat 11 0 ++ BitVec.ofBool store ++ fieldNat 4 path ++ fieldNat 4 kind ++
    fieldNat 12 unit ++ ep ++ BitVec.ofNat 64 va

/-- R174: sends a fault record to the pager of a die if its queue has room. -/
def sendFault (die : Nat) (r : BitVec 256) (s : State) : Option State :=
  if (getDie s die).faultQ.length < 4096 then some (modDie die (fun d => { d with faultQ := d.faultQ ++ [r] }) s)
  else none

/-- R174: the pager takes a fault record from its queue, if the queue holds one that `f` names; a held record may be
sent. -/
def takeFault (die : Nat) (f : BitVec 256 → Bool) (s : State) : State :=
  match (getDie s die).faultQ.findIdx? f with
  | none => s
  | some i =>
    let s := modDie die (fun d => { d with faultQ := d.faultQ.eraseIdx i }) s
    if s.tiles.any fun t => t.1 / 1024 == die && t.2.heldFaults != [] then enqueue (.faultRecordSend die) s else s

/-- R162, R412: the scribe logs an address for the pager: an ACCESS record, `req` standing for what it is about (log entry
20). -/
def pagerLog (die unit : Nat) (job : BitVec 16) (ep : BitVec 32) (addr : Word) (req : Nat) (s : State) : State :=
  logTo die [mkLog s 0x0F 1 job ep unit die addr (Config.requestKind req) 0] s

/-- R171, R174: the executing strand enters PAGED with its instruction unperformed. -/
def goPaged (i : Instr) (va kind : Nat) (store : Bool) (s : State) : State :=
  let e := s.cur
  let t := getTile s e.site
  let r := faultRecord va (endpoint s e) t.logical kind 0 store t.job 0
  let s := waitFor .paged (.page va kind) i 0 s
  if t.heldFaults = [] then
    match sendFault (dieOf e.site) r s with
    | some s => s
    | none => enqueue (.faultRecordSend (dieOf e.site)) (modTile e.site (fun t => { t with heldFaults := [r] }) s)
  else modTile e.site (fun t => { t with heldFaults := t.heldFaults ++ [r] }) s

/-- What a stop of the executing strand's access leads to. -/
def stopped (i : Instr) (store : Bool) (e : Stop) (s : State) : Res :=
  match e with
  | .trap c a => .next (raise c a s)
  | .page va kind => .next (goPaged i va kind store s)
  | .hole => .fault .noSuchMemory

end Sys2Proof.Machine
end

