-- ==== Sys2Proof/Machine/Queue.lean ====
section
/-!
DEFINITION. The queue hardware (11_queues.md): handles, pushes and pops, spill, markers and input states, round
edges, booths, completion entries.
-/

namespace Sys2Proof.Machine

/-! ### Handles (R260, R261) -/

/-- R260: cluster and index of a handle together are the key of the queue table. -/
def qkeyOf (h : BitVec 32) : Nat := fld h 16 16
def qgenOf (h : BitVec 32) : Nat := fld h 0 16
def handleOf (q : Nat) (gen : Nat) : BitVec 32 := BitVec.ofNat 16 q ++ BitVec.ofNat 16 gen
def qcluster (q : Nat) : Nat := q / 2048

/-- R261: the cause that a use of the handle raises. -/
def handleFail (s : State) (job : BitVec 16) (h : BitVec 32) : Option Cause :=
  let q := getQueue s (qkeyOf h)
  if q.gen ≠ qgenOf h then some .handle
  else if q.st = .free ∨ q.st = .killed then some .queue
  else if q.job ≠ job then some .queue
  else none

/-- R289: may the strand pop or peek (`pop`) or push or mark the queue? Clusters by R289. -/
def useFail (s : State) (e : SRef) (pop : Bool) (h : BitVec 32) : Option Cause :=
  let t := getTile s e.site
  let q := getQueue s (qkeyOf h)
  match handleFail s t.job h with
  | some c => some c
  | none =>
    if pop then
      if qcluster (qkeyOf h) ≠ clusterOf e.site ∨ !(q.cbooth = t.booth ∨ q.cbooth = 0) ∨ q.mcast then some .queue
      else none
    else if qcluster (qkeyOf h) / 8 ≠ dieOf e.site ∨
        !(q.pbooth = t.booth ∨ q.pbooth = 0 ∨ (q.twin ∧ q.twinb = t.booth)) ∨ q.branch then some .queue
    else none

/-! ### Entries (R263, R275) -/

def kindCode : QKind → Nat
  | .data => 0 | .bell => 1 | .shutter => 2 | .stop => 3
def kindOf (n : Nat) : QKind :=
  match n % 4 with
  | 0 => .data
  | 1 => .bell
  | 2 => .shutter
  | _ => .stop

def entryBytes (q : Queue) : Nat := 8 * 2 ^ q.esize
/-- R263: the keys of the ring slot of entry `n`, and the key and bit of its kind. -/
def ringKeys (q : Queue) (n : Nat) : List Nat := keysFrom (q.ring + n % q.slots * entryBytes q) (entryBytes q)
def kindKey (q : Queue) (n : Nat) : Nat := q.ring + q.slots * entryBytes q + n % q.slots / 4
def kindBit (q : Queue) (n : Nat) : Nat := 2 * (n % q.slots % 4)
def inRing (q : Queue) (n : Nat) : Bool := decide (n - q.keep < q.slots)

/-- R263: one indivisible write of an entry and its kind into the ring. -/
def writeRing (q : Queue) (n : Nat) (kind : QKind) (bs : List Byte) (s : State) : State :=
  let kk := kindKey q n
  let old := (readByte s kk).toNat
  let b := kindBit q n
  let new := old - old / 2 ^ b % 4 * 2 ^ b + kindCode kind * 2 ^ b
  writeBytes ((ringKeys q n).zip bs ++ [(kk, BitVec.ofNat 8 new)]) s

/-- R263: the entry and kind that the ring holds when it is read. -/
def readRing (q : Queue) (n : Nat) (s : State) : QKind × List Byte :=
  (kindOf ((readByte s (kindKey q n)).toNat / 2 ^ kindBit q n), readKeys s (ringKeys q n))

/-- R275: the number of spill slots, and the VA of the spill slot of entry `n`. -/
def spillSlots (q : Queue) : Nat := q.spsize * 4096 / (entryBytes q + 8)
def spillVa (q : Queue) (n : Nat) : Nat := q.spill + n % spillSlots q * (entryBytes q + 8)

/-- R275: the bytes of a spill slot, through the job's page tables. -/
def spillAccess (qk : Nat) (q : Queue) (n : Nat) (store : Bool) (s : State) : Except Stop Access :=
  virtBytes (fun va => translate (qcluster qk) q.job va store) (spillVa q n) (entryBytes q + 8) s
/-- What the walk leaves where that access stops (R168). -/
def spillWalked (qk : Nat) (q : Queue) (n : Nat) (store : Bool) (s : State) : State :=
  virtWalked (qcluster qk) q.job store (spillVa q n) (entryBytes q + 8) s
/-- R173: the VA and kind of the fault that a stop stands for. An access that crosses two pages of different order kinds, where
no strand is to take STRADDLE, is recorded as MALFORMED (log entry 94). -/
def spillStop (va : Nat) (e : Stop) : Nat × Nat :=
  match e with
  | .page va kind => (va, kind)
  | _ => (va, 3)

/-- The tile of a queue's ring, by which its HELD state is dated and its fault record waits. -/
def ringSite (qk : Nat) (q : Queue) : Nat := if isLocalKey q.ring then keySite q.ring else siteInCluster (qcluster qk) 0 0

/-- R276: a spill fault puts the queue into HELD; the pager receives a fault record. -/
def holdQueue (qk : Nat) (ep : BitVec 32) (va kind : Nat) (store : Bool) (s : State) : State :=
  let q := getQueue s qk
  let die := qcluster qk / 8
  let r := faultRecord va ep (0x500 + qcluster qk % 8) kind 0 store q.job
    ((handleOf qk q.gen).zeroExtend 96)
  let site := ringSite qk q
  let s := modQueue qk (fun q => { q with st := .held, heldAt := (getTile s site).cycle, late := false }) s
  (sendFault die r s).getD (modTile site
    (fun t => { t with heldFaults := t.heldFaults ++ [r] }) (enqueue (.faultRecordSend die) s))

/-- R178: which of these bytes lie in poisoned words, and the marks of such bytes where they are moved to. -/
def taintOf (ks : List Nat) (s : State) : List Bool := ks.map fun k => s.poison.contains (k / 8 * 8)
def putTaint (ks : List Nat) (bad : List Bool) (s : State) : State :=
  poisonKeys ((ks.zip bad).filterMap fun p => if p.2 then some p.1 else none) s
/-- R178: the poison that bytes take with them from `src` to `dst`. -/
def carryWords (src dst : List Nat) (s : State) : State := putTaint dst (taintOf src s) s

/-- R178: the poison that an entry takes from the words `src` that held its header and bytes to the words `dst` of a ring
slot; a poisoned header marks the whole entry (log entry 63). -/
def carryPoison (src dst : List Nat) (s : State) : State :=
  if (src.take 8).any fun k => s.poison.contains (k / 8 * 8) then poisonKeys dst s else carryWords (src.drop 8) dst s

/-- R275: moves the oldest spilled entry into the ring if the ring reaches it; none when a fault holds the
queue or nothing moves. -/
def refillOne (qk : Nat) (s : State) : Option State :=
  let q := getQueue s qk
  let n := q.tail - q.spilled
  if q.spilled = 0 ∨ !inRing q n ∨ q.st ≠ .open_ then none
  else match spillAccess qk q n false s with
    | .error e => some (holdQueue qk 0 (spillStop (spillVa q n) e).1 (spillStop (spillVa q n) e).2 false (spillWalked qk q n false s))
    | .ok a => match a.place with
      | .bytes ks =>
        let bs := readKeys a.st ks
        some (modQueue qk (fun q => { q with spilled := q.spilled - 1 })
          (carryPoison ks (ringKeys q n) (writeRing q n (kindOf (bytesNat (bs.take 1))) (bs.drop 8) a.st)))
      | _ => none

/-- R263, R275: entry `n` where it lies, in the ring or in the spill area; none while the spill area cannot be read. -/
def readEntry (qk : Nat) (q : Queue) (n : Nat) (s : State) : Option (QKind × List Byte) :=
  if n < q.tail - q.spilled then some (readRing q n s)
  else match spillAccess qk q n false s with
    | .ok ⟨.bytes ks, _, t⟩ =>
      let bs := readKeys t ks
      some (kindOf (bytesNat (bs.take 1)), bs.drop 8)
    | _ => none

/-- R275: as many as the ring admits. -/
def refill (qk : Nat) : Nat → State → State
  | 0, s => s
  | f + 1, s => match refillOne qk s with
    | some s' => refill qk f s'
    | none => s

/-! ### Waiters -/

/-- Everything that may go on after the queue has changed: strands that wait on it (R264), engines that stall at a push
to it (R279), and the host queues that it is the target of (R282). -/
def wakeOne (qk : Nat) (s : State) : State :=
  let h := handleOf qk (getQueue s qk).gen
  let cs := s.carters.filterMap fun p =>
    if (p.2.entry.map (·.1)) = some h then some (Instr.carterCommandComplete p.1) else none
  let us := s.cellars.filterMap fun (p : Nat × Cellar) =>
    if (p.2.entry.map (·.1)) = some h then some (Instr.cellarCommandComplete p.1) else none
  let ls := s.looms.flatMap fun p =>
    p.2.pushing.filterMap fun w => if w.2.1 = h then some (Instr.loomCommandComplete p.1 w.1) else none
  let hs := [0, 1].flatMap fun p => (getPort s p).hqs.filterMap fun q =>
    if q.2.en ∧ 4 ≤ q.1 ∧ q.2.target = h ∧ q.2.pos ≠ q.2.kick then some (Instr.hostEntryReread p q.1) else none
  { s with internal := s.internal ++ [.queueWaitResume qk] ++ cs ++ us ++ ls ++ hs }

/-- The same for a queue, and for the multicast head whose branch it is (R262). -/
def wakeQueue (qk : Nat) (s : State) : State :=
  let h := handleOf qk (getQueue s qk).gen
  let heads := (s.queues.filter fun p => p.2.mcast && p.2.brs.contains h).map (·.1)
  (qk :: heads).foldl (fun s k => wakeOne k s) s

/-! ### Booths (R26, R83, R377) -/

/-- The strands 0 to 6 of a booth. -/
def boothStrands (b : Booth) : List SRef := b.tiles.flatMap fun t => (List.range 7).map fun k => ⟨t, k⟩

/-- R337, R403: writes the image into the tiles of a booth; the poison of the words goes (R178). -/
def loadImage (b : Booth) (s : State) : State :=
  b.image.foldl (fun s p => writeBytes ((keysFrom p.1 p.2.length).zip p.2) s) s

/-- R82, R83: the loader starts the strands that the manifest names; the tolerance registers of the booth's tiles take their
reset values (log entry 83). -/
def startBooth (b : Booth) (s : State) : State :=
  let s := b.tiles.foldl (fun s t => modTile t (fun u => { u with tol := Tile.atReset.tol }) s) s
  (b.starts.filter (·.on)).foldl (fun s st => startStrand ⟨st.site, st.k⟩ (BitVec.ofNat 64 st.pc) 0 st.task st.segs st.binds s) s

/-- R230: the blocks of a booth become EMPTY with its flush or start; their records go. -/
def emptyBlocks (bk : Nat) (s : State) : State :=
  let key : BitVec 16 × Nat := (BitVec.ofNat 16 (bk / 65536), bk % 65536)
  { s with looms := s.looms.map fun p => (p.1, { p.2 with
      blocks := p.2.blocks.map fun q => if q.2.booth = some key then (q.1, { Block.empty with booth := q.2.booth }) else q }) }

/-- R227, R230: the blocks of a booth become EMPTY and the format contexts take their reset value. -/
def resetBlocks (bk : Nat) (s : State) : State :=
  let s := emptyBlocks bk s
  { s with looms := s.looms.map fun p => (p.1, { p.2 with
      ctxs := p.2.ctxs.filter fun c => !(getBooth s bk).tiles.contains (siteInYard p.1 c.1) }) }

/-- R21, R24: an empty ready queue of a tile. -/
def clearReady (t : Tile) : Tile :=
  { t with rq := Vector.replicate 4 [], rqSpill := Vector.replicate 4 (0, 0), rqHeld := false, rqKept := [], guard := 0 }

/-- R120: HALT of every strand of a booth, also those with an instruction in flight (R377). -/
def haltBooth (b : Booth) (s : State) : State := (boothStrands b).foldl (fun s e => haltStrand e s) s

/-- R343: frees the context slots that the strands of a booth filled. -/
def freeSlots (b : Booth) (s : State) : State :=
  let eps := (boothStrands b).map (endpoint s)
  { s with slots := s.slots.map fun p =>
      if p.2.full ∧ eps.contains p.2.from_ then (p.1, { p.2 with full := false, ctx := none }) else p }

/-- Is this a record in transit to or from one of these tiles (R25)? -/
def inTransit (ts : List Nat) : Instr → Bool
  | .recordMigrationArrival t f _ _ => ts.contains t || ts.contains f
  | _ => false
/-- No record is in transit to or from these tiles. -/
def dropTransit (ts : List Nat) (s : State) : State :=
  { s with
    internal := s.internal.filter fun i => !inTransit ts i
    moved := s.moved.filter fun m => !(ts.contains m.1.dest || ts.contains m.1.sender) }

/-- Booth flush: every strand to OFF and its registers discarded (R83, R377); its context slots are freed (R343), its blocks
emptied (R230) and its ready queues with their spill areas. A record in transit returns to the tail of its sender's queue
(R25), which is emptied with the others. -/
def flushBooth (bk : Nat) (s : State) : State :=
  let b := getBooth s bk
  let s := (boothStrands b).foldl (fun s e => stopStrand e s) (freeSlots b s)
  emptyBlocks bk (b.tiles.foldl (fun s t => modTile t clearReady s) (dropTransit b.tiles s))

/-- R404: the entry that completes a stage request. -/
def stageEntry (bk : Nat) (v : Staged) (s : State) : BitVec 256 :=
  let b := getBooth s bk
  mkEntry s 0 4 (stewardUnit s (dieOf (b.tiles.headD 0)) 4) (dieOf (b.tiles.headD 0)) v.rtag (BitVec.ofNat 64 (bk % 65536))
    (BitVec.ofNat 64 (v.tag + 2 ^ 32 * (b.round % 2 ^ 32)))

/-- R285, R404: installs the version that the SHUTTER named, if it is staged, in a booth that has halted, and starts it,
the round number going on and every SHUT input OPEN. A loader that stalls at a host completion queue does so later (R283). -/
def installVersion (bk : Nat) (s : State) : State :=
  let b := getBooth s bk
  match b.staged.find? fun v => v.tag == b.haltTag && !roleHeld s (dieOf (b.tiles.headD 0)) 4 with
  | none => s
  | some v =>
    let s := modBooth bk (fun b =>
      { b with
        staged := b.staged.filter fun w => w.tag != v.tag
        version := v.tag
        image := v.image
        starts := v.starts
        routemask := v.route
        halted := false }) s
    let b := getBooth s bk
    let job := BitVec.ofNat 16 (bk / 65536)
    let s := { s with queues := s.queues.map fun p =>
      if p.2.job = job ∧ p.2.cbooth = bk % 65536 ∧ p.2.inSt = .shut then
        (p.1, { p.2 with inSt := .open_, edgeSt := .open_ }) else p }
    hcqPut v.hport v.hcq (stageEntry bk v s) (startBooth b (resetBlocks bk (loadImage b (flushBooth bk s))))

/-! ### Round edges (R269 to R272) -/

def isInput (bk : Nat) (q : Queue) : Bool :=
  q.job.toNat == bk / 65536 && q.cbooth == bk % 65536 && (q.st == .open_ || q.st == .held)
def isOutA (bk : Nat) (q : Queue) : Bool :=
  q.job.toNat == bk / 65536 && q.pbooth == bk % 65536 && !q.branch && (q.st == .open_ || q.st == .held)
def isOutB (bk : Nat) (q : Queue) : Bool :=
  q.job.toNat == bk / 65536 && q.twin && q.twinb == bk % 65536 && (q.st == .open_ || q.st == .held)
/-- R271: the markers that the booth has pushed on an output since its last edge. -/
def marksOf (bk : Nat) (q : Queue) : List QKind := if isOutA bk q then q.marks else q.marksB

/-- R271: the kinds of a round edge. -/
inductive Edge where
  | ordinary | halting | final
  deriving DecidableEq, Repr

/-- R271: the edge that the booth passes now, if any. -/
def edgeOf (s : State) (bk : Nat) : Option Edge :=
  let ins := (s.queues.map (·.2)).filter (isInput bk)
  let outs := (s.queues.map (·.2)).filter fun q => isOutA bk q || isOutB bk q
  let marks := outs.flatMap (marksOf bk)
  let b := getBooth s bk
  let inHandler := (boothStrands b).any fun e => (getStrand s (skey e)).handler
  if bk % 65536 = 0 ∨ (ins = [] ∧ outs = []) ∨ inHandler ∨ b.halted ∨ b.finished ∨ b.recovering then none
  else if !(ins.all fun q => q.inSt != .open_) ∨ !(outs.all fun q => marksOf bk q ≠ []) then none
  else if (ins.all fun q => q.inSt == .ended) ∧ (marks.all (· == .stop)) then some .final
  else if (ins.all fun q => q.inSt == .shut || q.inSt == .ended) ∧ (ins.any fun q => q.inSt == .shut) then
    (if marks.all (· == .shutter) then some .halting else none)
  else some .ordinary

/-- R286: the number of entries of a merge queue from entry `n` to the end of its round; none while its marker is not
placed. -/
def roundLength (qk : Nat) (q : Queue) (s : State) : Nat → Nat → Option Nat
  | 0, _ => none
  | f + 1, n =>
    match (readEntry qk q n s).map (·.1) with
    | some k => if k = .data then (roundLength qk q s f (n + 1)).map (· + 1) else some 1
    | none => (roundLength qk q s f (n + 1)).map (· + 1)

/-- R286: a merge queue commits the round whose edge both twins have passed, once its last pair has been compared. -/
def commitTwin (qk : Nat) (s : State) (q : Queue) : Queue :=
  if q.edgeA = 0 ∨ q.edgeB = 0 then q
  else match roundLength qk q s (q.tail - q.commit) q.commit with
    | none => q
    | some n => { q with edgeA := q.edgeA - 1, edgeB := q.edgeB - 1, differ := 0, commit := q.commit + n }

/-- R272, R286: an output queue at an edge of the booth. -/
def commitOut (bk qk : Nat) (s : State) (q : Queue) : Queue :=
  if q.twin then
    commitTwin qk s (if isOutA bk q then { q with marks := [], edgeA := q.edgeA + 1 }
      else { q with marksB := [], edgeB := q.edgeB + 1 })
  else { q with commit := q.tail, marks := [] }

/-! ### Pushes and pops (R264, R265, R270, R273) -/

/-- R264: the pushers of the entries not yet popped, from HEAD on. -/
def livePushers (q : Queue) : List (Nat × Nat) := q.pushers.filter fun p => decide (q.head ≤ p.1) && decide (p.1 < q.tail)
/-- The pushers of the entries from KEEP on: a rewind makes them not yet popped again (R284). -/
def keptPushers (q : Queue) : List (Nat × Nat) := q.pushers.filter fun p => decide (q.keep ≤ p.1) && decide (p.1 < q.tail)

/-- The strand that pushes, by its key. -/
def Pusher.key : Pusher → Option Nat
  | .strand k => some k
  | _ => none

/-- R264: does one queue admit an entry of this kind from this pusher? `ahead` are the pushers of the entries that the
queue does not list yet: those of a twin that are not paired (R286), and results on their way to an output port (R98). -/
def admitsOne (q : Queue) (kind : QKind) (by_ : Pusher) (ahead : List Nat) : Bool :=
  q.st == .open_ && decide (q.tail - q.keep + ahead.length < q.cap) &&
  (kind != .data || !q.stage || decide (q.tail - q.commit + ahead.length < q.replay)) &&
  (match by_ with
    | .strand k => decide (((livePushers q).filter (·.2 == k)).length + (ahead.filter (· == k)).length < q.flow)
    | _ => true)

/-- The queue to which an output port of a strand is bound. -/
def portTo (t : Strand) (n : Fin 2) : Option Nat := (t.ports.get ⟨2 + n.val, by omega⟩).map fun b => qkeyOf b.handle

/-- R61, R98: the strands other than the pusher whose instruction in flight has taken a place in the queue for its
result. -/
def onTheWay (s : State) (qk : Nat) (by_ : Pusher) : List Nat :=
  s.strands.filterMap fun p => match p.2.flight with
    | some (.push n _) => if portTo p.2 n = some qk ∧ by_ ≠ .strand p.1 then some p.1 else none
    | _ => none

/-- R264, R271, R273, R286: may the push be performed now? A SHUTTER that the loader owes the queue comes first
(R285). -/
def admits (s : State) (qk : Nat) (kind : QKind) (by_ : Pusher) (booth : Nat) : Bool :=
  let q := getQueue s qk
  let second := kind != .data &&
    (if q.twin && q.twinb == booth then q.marksB != [] else q.pbooth != 0 && q.marks != [])
  let way := onTheWay s qk by_
  if second || q.owed.any (·.2.2) then false
  else if q.mcast then q.st == .open_ && q.brs.all fun h => admitsOne (getQueue s (qkeyOf h)) kind by_ way
  else admitsOne q kind by_ (if q.twin then
    ((if q.twinb == booth then q.twinB else q.twinA).map (·.2.1)) ++ way.filter fun k => (getTile s (k / 8)).booth == booth
    else way)

/-- R276: would the push meet a spill fault or find every spill slot occupied? Then the queue as HELD. -/
def holds (qk : Nat) (by_ : Pusher) (s : State) : Option State :=
  let q := getQueue s qk
  let ep : BitVec 32 := match by_ with | .strand k => endpoint s (srefOf k) | _ => 0
  if inRing q q.tail ∧ q.spilled = 0 then none
  else if spillSlots q ≤ q.spilled then some (holdQueue qk ep (spillVa q q.tail) 0 true s)
  else match spillAccess qk q q.tail true s with
    | .error e => some (holdQueue qk ep (spillStop (spillVa q q.tail) e).1 (spillStop (spillVa q q.tail) e).2 true
        (spillWalked qk q q.tail true s))
    | .ok _ => none

/-- Does an instruction that waits on queue `qk` wait to push? -/
def waitsToPush (qk : Nat) (t : Strand) (i : Instr) : Bool :=
  match i with
  | .qpush .. | .qmark .. => true
  | .qpop .. | .qpeek .. => false
  | _ => [t.ports[2], t.ports[3]].any fun b => match b with
    | some b => qkeyOf b.handle == qk
    | none => false

/-- R264, R289: the place of a pusher or popper in the order of arrival at a queue; one that does not wait comes last. -/
def arrivalOf (s : State) (qk : Nat) (by_ : Pusher) : Nat :=
  match by_ with
  | .strand key => ((getStrand s key).wait.map (·.ticket)).getD s.ticket
  | _ => ((s.stalls.find? fun x => x.1 == qk && x.2.2 == by_).map (·.2.1)).getD s.ticket

/-- R264: the strands other than the one that asks that wait on the queue and came before it. -/
def waitersAhead (s : State) (qk : Nat) (by_ : Pusher) (pushing : Bool) : List (Nat × Instr) :=
  let mine := arrivalOf s qk by_
  s.strands.filterMap fun p => match p.2.wait with
    | some ⟨.queue q _, i, t, _⟩ =>
      if q = qk ∧ by_ ≠ .strand p.1 ∧ waitsToPush qk p.2 i = pushing ∧ t < mine then
        some (p.1, i) else none
    | _ => none

/-- Does the push that a stall stands for still wait? -/
def stallLive (s : State) (x : Nat × Nat × Pusher) : Bool :=
  let h := handleOf x.1 (getQueue s x.1).gen
  match x.2.2 with
  | .carter n => (getCarter s n).entry.map (·.1) == some h
  | .cellar u => (getCellar s u).entry.map (·.1) == some h
  | .loom y t => (getLoom s y).pushing.any fun w => w.1 == t && w.2.1 == h
  | .host p q => let k := getHq s p q; k.en && k.target == h && k.pos != k.kick
  | .path dev id => s.internal.any fun i => match i with
    | .reflectedWriteArrival w => w.from_ == dev && w.path == id
    | _ => false
  | .strand _ | .loader => false

/-- R264, R289: the pushes of engines, gateways and host queues that wait at the queue and came before. -/
def stallsAhead (s : State) (qk : Nat) (by_ : Pusher) : List Pusher :=
  let mine := arrivalOf s qk by_
  (s.stalls.filter fun x => x.1 == qk && x.2.2 != by_ && decide (x.2.1 < mine) && stallLive s x).map (·.2.2)

/-- R264: a push that came before and may be performed goes first. -/
def pushAhead (s : State) (qk : Nat) (by_ : Pusher) : Bool :=
  by_ != .loader &&
  (((waitersAhead s qk by_ true).any fun w =>
      admits s qk (match w.2 with | .qmark _ kind _ _ => kind | _ => .data) (.strand w.1) (getTile s (w.1 / 8)).booth) ||
    (stallsAhead s qk by_).any fun p => admits s qk .data p 0)

/-- R264: a push that is not a strand's takes its place in the order of arrival, and leaves it when it is performed. -/
def stall (qk : Nat) (by_ : Pusher) (s : State) : State :=
  if by_.key.isSome ∨ by_ = .loader ∨ s.stalls.any (fun x => x.1 == qk && x.2.2 == by_) then s
  else { s with stalls := s.stalls ++ [(qk, s.ticket, by_)], ticket := s.ticket + 1 }
def unstall (qk : Nat) (by_ : Pusher) (s : State) : State :=
  if s.stalls.any (fun x => x.1 == qk && x.2.2 == by_) then
    { s with stalls := s.stalls.filter fun x => !(x.1 == qk && x.2.2 == by_) }
  else s

/-- R264, R276: a push that may be performed now, or the state in which it waits. -/
def pushReady (s : State) (qk : Nat) (kind : QKind) (by_ : Pusher) (booth : Nat) : Bool × State :=
  if !admits s qk kind by_ booth || pushAhead s qk by_ then (false, stall qk by_ s)
  else
    let q := getQueue s qk
    let targets := if q.twin then [] else if q.mcast then q.brs.map qkeyOf else [qk]
    match targets.findSome? fun k => holds k by_ s with
    | some s' => (false, stall qk by_ s')
    | none => (true, unstall qk by_ s)

/-- R265, R275: places an entry at TAIL of a queue that does not hold it up. -/
def place (qk : Nat) (kind : QKind) (bs : List Byte) (by_ : List Nat) (s : State) : State :=
  let q := getQueue s qk
  let n := q.tail
  let count (q : Queue) : Queue :=
    { q with
      tail := n + 1
      commit := if q.stage then q.commit else n + 1
      pushers := q.pushers ++ by_.map fun k => (n, k) }
  if inRing q n ∧ q.spilled = 0 then modQueue qk count (writeRing q n kind bs s)
  else match spillAccess qk q n true s with
    | .error _ => s
    | .ok a => match a.place with
      | .bytes ks =>
        let hdr := natBytes 8 (kindCode kind + 2 ^ 32 * (n % 2 ^ 32))
        modQueue qk (fun q => { count q with spilled := q.spilled + 1 }) (writeBytes (ks.zip (hdr ++ bs)) a.st)
      | _ => s

/-- R285: the first of the SHUTTERs that are due to a queue is placed, if the queue admits it, and committed at once. -/
def placeFirst (qk : Nat) (s : State) : State :=
  let owed := (getQueue s qk).owed
  match owed.find? (·.2.2) with
  | none => s
  | some o =>
    let r := pushReady (modQueue qk (fun q => { q with owed := [] }) s) qk .shutter .loader 0
    if r.1 then
      let q := getQueue r.2 qk
      modQueue qk (fun q => { q with owed := owed.erase o })
        ((if q.mcast then q.brs.map qkeyOf else [qk]).foldl (fun s k =>
          let n := entryBytes (getQueue s k)
          let bs := natBytes n (o.1 + o.2.1 * 2 ^ 16)
          wakeQueue k (modQueue k (fun q => { q with commit := q.tail }) (place k .shutter bs [] s))) r.2)
    else modQueue qk (fun q => { q with owed := owed }) r.2

/-- R285: places the SHUTTERs that the loader owes a queue, directly after the marker of the producer's edge and in the
order of their requests, as soon as the queue admits them. -/
def placeOwed (qk : Nat) (s : State) : State := (getQueue s qk).owed.foldl (fun s _ => placeFirst qk s) s

/-! ### The edge (R271, R272) -/

/-- R50, R272: a started strand of a booth takes the seed of the round, a PARKED one in its saved context. -/
def reseed (e : SRef) (s : State) : State :=
  match (getStrand s (skey e)).run with
  | .off => s
  | .parked =>
    let r := seedFor s e
    let mine (p : Nat × Slot) : Bool := p.1 / 64 == yardOf e.site && p.2.full && p.2.from_ == endpoint s e
    let seeded (p : Nat × Slot) : Slot :=
      { p.2 with ctx := p.2.ctx.map fun c => ({ c.1 with rnga := r.1, rngb := r.2 }, c.2) }
    seedStrand (skey e) { s with slots := s.slots.map fun p => if mine p then (p.1, seeded p) else p }
  | _ => seedStrand (skey e) s

/-- R272: everything that a round edge does in one step. -/
def passEdge (bk : Nat) (kind : Edge) (s : State) : State :=
  let heads := (s.queues.filter fun p => isOutA bk p.2 && p.2.mcast).flatMap fun p => p.2.brs.map qkeyOf
  let s' := { s with queues := s.queues.map fun p =>
    let q := p.2
    let q := if isOutA bk q || isOutB bk q then commitOut bk p.1 s q else q
    let q := if heads.contains p.1 then { q with commit := q.tail } else q
    let q := if (isOutA bk p.2 || isOutB bk p.2) && q.marks == [] && q.marksB == [] then
        { q with owed := q.owed.map fun o => (o.1, o.2.1, true) } else q
    let q := if isInput bk q then
        let st := if q.inSt = .belled then .open_ else q.inSt
        let q := { q with keep := q.head, inSt := st, edgeSt := st }
        { q with pushers := keptPushers q }
      else q
    (p.1, q) }
  let touched := (s.queues.filter fun p => isInput bk p.2 || isOutA bk p.2 || isOutB bk p.2).map (·.1) ++ heads
  let s' := touched.foldl (fun s k => wakeQueue k (placeOwed k (refill k (getQueue s k).spilled s))) s'
  let s' := modBooth bk (fun b => { b with round := b.round + 1, recovered := false, watch := 0 }) s'
  let s' := (boothStrands (getBooth s' bk)).foldl (fun s e => reseed e s) s'
  match kind with
  | .ordinary => s'
  | .final => reportDone bk (modBooth bk (fun b => { b with finished := true }) s')
  | .halting =>
    let s' := modBooth bk (fun b => { b with halted := true }) s'
    installVersion bk (flushBooth bk s')

/-- R271: the booth passes an edge at the first moment at which it may. -/
def tryEdge (bk : Nat) (s : State) : State :=
  match edgeOf s bk with
  | some k => passEdge bk k s
  | none => s

/-- R271: the edges of booths that an event of this step may have made possible, each at the first moment. -/
def settleEdges (s : State) : State :=
  let f (i : Instr) : Option Nat := match i with
    | .roundEdge j b => some (65536 * j + b)
    | _ => none
  let bks := s.internal.filterMap f
  if bks = [] then s
  else bks.foldl (fun s bk => tryEdge bk s) { s with internal := s.internal.filter fun i => (f i).isNone }

/-- R97, R271, R272: the boundary of the executing strand's instruction after an edge that it makes possible; a
halting edge has flushed the strand. -/
def boundaryEdge (bk : Nat) (s : State) : State :=
  match edgeOf s bk with
  | some .halting => passEdge bk .halting s
  | some k => boundary s.cur (passEdge bk k s)
  | none => boundary s.cur s

/-! ### The end of a push, and the pop (R264, R270) -/

/-- R293, R296: the bytes of an entry, cut or filled with zeros to the entry size. -/
def fitBytes (n : Nat) (bs : List Byte) : List Byte := bs.take n ++ List.replicate (n - bs.length) 0

/-- R33: a push or pop on a queue that the booth consumes, for the detector. -/
def noteMove (bk : Nat) (s : State) : State :=
  if bk % 65536 = 0 then s else modBooth bk (fun b => { b with moved := true }) s
/-- R34: the watchdog counter of a booth restarts. -/
def kickWatch (bk : Nat) (s : State) : State :=
  if bk % 65536 = 0 then s else modBooth bk (fun b => { b with watch := 0 }) s

/-- R286: the oldest pair of a merge queue, if both entries are there: those of A and of B. -/
def oldestPair (q : Queue) : Option ((QKind × Nat × List Byte) × (QKind × Nat × List Byte)) :=
  match q.twinA, q.twinB with
  | a :: _, b :: _ => some (a, b)
  | _, _ => none
/-- R286: do the two entries of a pair agree, in kind and in all their bytes? -/
def pairAgrees (p : (QKind × Nat × List Byte) × (QKind × Nat × List Byte)) : Bool :=
  p.1.1 == p.2.1 && p.1.2.2 == p.2.2.2

/-- R286: the oldest pair of a merge queue is compared; if it agrees, one copy is pushed, staged, and a round whose last
entry it is may be committed. A spill fault holds the queue, its record that of strand `key`, whose push met it (R173, R276). -/
def placePair (qk key : Nat) (s : State) : State :=
  let q := getQueue s qk
  match oldestPair q with
  | some p =>
    if !pairAgrees p ∨ q.st ≠ .open_ then s
    else match holds qk (.strand key) s with
      | some s => s
      | none =>
        let s := modQueue qk (fun x => { x with twinA := x.twinA.drop 1, twinB := x.twinB.drop 1 }) s
        let s := place qk p.1.1 p.1.2.2 [p.1.2.1, p.2.2.1] s
        wakeQueue qk (modQueue qk (commitTwin qk s) s)
  | none => s

/-- R286: an entry of one twin arrives at the merge queue; the pair that it completes is compared at once. A pair that
differs, or that a HELD queue cannot take, is left to TWIN_COMPARE. -/
def pushTwin (qk : Nat) (kind : QKind) (bs : List Byte) (key booth : Nat) (s : State) : State :=
  let s := placePair qk key (modQueue qk (fun q =>
    let e := (kind, key, bs)
    if q.twinb = booth then { q with twinB := q.twinB ++ [e] } else { q with twinA := q.twinA ++ [e] }) s)
  if (oldestPair (getQueue s qk)).isSome then enqueue (.twinCompare qk) s else s

/-- Performs a push that `pushReady` allows. The queue hardware writes the payload of a BELL that a strand pushes (R269). A
marker may let its booth pass an edge: the caller asks `tryEdge` or `boundaryEdge`. -/
def push (qk : Nat) (kind : QKind) (bs : List Byte) (by_ : Pusher) (booth : Nat) (s : State) : State :=
  let q := getQueue s qk
  let out := bkey q.job booth
  let bs := if kind = .bell ∧ by_.key.isSome then natBytes 4 ((getBooth s out).round + 1) else bs
  let bs := fitBytes (entryBytes q) bs
  let mark (q : Queue) : Queue := if kind = .data ∨ q.pbooth = 0 then q
    else if q.twin ∧ q.twinb = booth then { q with marksB := q.marksB ++ [kind] }
    else { q with marks := q.marks ++ [kind] }
  let s := if q.twin then pushTwin qk kind bs (by_.key.getD 0) booth (modQueue qk mark s)
    else if q.mcast then
      q.brs.foldl (fun s h =>
        noteMove (bkey q.job (getQueue s (qkeyOf h)).cbooth)
          (wakeQueue (qkeyOf h) (place (qkeyOf h) kind (fitBytes (entryBytes (getQueue s (qkeyOf h))) bs) by_.key.toList s)))
        (modQueue qk mark s)
    else modQueue qk mark (place qk kind bs by_.key.toList s)
  kickWatch out (noteMove (bkey q.job q.cbooth) (wakeQueue qk s))

/-- R264, R270, R275: does a pop find an entry? One that lies in the spill area is moved into the ring before it can be
taken. -/
def canPop (q : Queue) : Bool :=
  (q.st == .open_ || q.st == .held) && decide (q.head < q.commit) && (q.cbooth == 0 || q.inSt == .open_) && inRing q q.head &&
  decide (q.head < q.tail - q.spilled)

/-- R264: may strand `key` pop or peek now? A strand that waits longer goes first. -/
def mayPop (s : State) (qk key : Nat) : Bool := canPop (getQueue s qk) && (waitersAhead s qk (.strand key) false).isEmpty

/-- R268, R294: the entry at the head. -/
def headEntry (s : State) (q : Queue) : QKind × List Byte := readRing q q.head s

/-- R269: the payload of an entry. -/
def payload (bs : List Byte) : BitVec 32 := BitVec.ofNat 32 (bytesNat (bs.take 4))

/-- R270: the input transition of a popped marker. -/
def inputNext (q : Queue) (kind : QKind) (pl : BitVec 32) : InState :=
  if q.cbooth = 0 then q.inSt
  else match kind with
    | .data => q.inSt
    | .bell => .belled
    | .shutter => if fld pl 0 16 = q.cbooth then .shut else .belled
    | .stop => .ended

/-- R264, R270: takes entry HEAD. A marker may let the booth pass an edge, as for `push`. -/
def pop (qk : Nat) (s : State) : (QKind × List Byte) × State :=
  let q := getQueue s qk
  let en := headEntry s q
  let s := modQueue qk (fun q =>
    { q with
      head := q.head + 1
      keep := if q.stage then q.keep else q.head + 1
      inSt := inputNext q en.1 (payload en.2) }) s
  let s := modQueue qk (fun q => { q with pushers := keptPushers q }) s
  let s := if en.1 = .shutter ∧ q.cbooth ≠ 0 ∧ fld (payload en.2) 0 16 = q.cbooth then
      modBooth (bkey q.job q.cbooth) (fun b => { b with haltTag := fld (payload en.2) 16 16 }) s else s
  let s := wakeQueue qk (refill qk (getQueue s qk).spilled s)
  (en, kickWatch (bkey q.job q.cbooth) (noteMove (bkey q.job q.cbooth) s))

/-! ### Releasing a killed queue (R260, R291) -/

/-- R291: does an engine command accepted before name the handle for its completion? -/
def engineNames (s : State) (h : BitVec 32) : Bool :=
  (s.carters.any fun p => p.2.queue.any (·.handle == h)) ||
  (s.cellars.any fun p => p.2.queue.any (·.handle == h)) ||
  (s.looms.any fun p => p.2.queues.any fun q => q.2.any (·.handle == h))

/-- R260: the generation under which a free index is issued: generation 0 is never. -/
def nextGen (q : Queue) : Nat := max 1 q.gen

/-- R260, R291: the allocator releases a killed index; at generation 0xFFFF the index is retired. -/
def releaseQueue (qk : Nat) (s : State) : State :=
  let q := getQueue s qk
  if q.gen = 0xFFFF then
    modJob q.job (fun j => { j with queues := j.queues.filter (·.1 != qk) })
      (modQueue qk (fun _ => { Queue.free with gen := 0xFFFF }) s)
  else modQueue qk (fun _ => { Queue.free with gen := q.gen + 1 }) s

/-- R313: is the last trap of a strand QUEUE for this handle? The strand may issue its instruction again, and takes QUEUE again
(log entry 67). -/
def trapNames (s : State) (h : BitVec 32) : Bool :=
  let names (t : Strand) : Bool := t.cause == 10 && t.trapaddr == h.zeroExtend 64
  (s.strands.any fun p => names p.2) || s.slots.any fun p => p.2.ctx.any fun c => names c.1

/-- R291, R313: releases the killed queues that no engine command and no trap of a waiter names any more. -/
def releaseKilled (s : State) : State :=
  let ks := (s.queues.filter fun p => p.2.st == .killed && !engineNames s (handleOf p.1 p.2.gen) &&
    !trapNames s (handleOf p.1 p.2.gen)).map (·.1)
  ks.foldl (fun s k => releaseQueue k s) s

/-! ### Completion entries of engines (R279) -/

/-- R279: pushes an engine's completion entry. False when the engine stalls at it; an entry for a stale or
killed queue is dropped and logged with its bytes: its ADDR stands in the record's ADDR, its other fields in DATA, and
its time is the record's. -/
def pushEntry (job : BitVec 16) (h : BitVec 32) (en : BitVec 256) (die : Nat) (by_ : Pusher) (s : State) : Bool × State :=
  if h = 0 then (true, s)
  else match handleFail s job h with
    | some _ =>
      let data : BitVec 192 := en.extractLsb' 128 128 ++ en.extractLsb' 0 64
      (true, unstall (qkeyOf h) by_
        (logTo die [mkLog s 0x06 (fld en 0 4) job 0 (fld en 8 12) die (en.extractLsb' 64 64) (h.zeroExtend 64) data] s))
    | none =>
      let r := pushReady s (qkeyOf h) .data by_ 0
      if r.1 then (true, push (qkeyOf h) .data (natBytes 32 en.toNat) by_ 0 r.2) else r

/-- R236: the completion handle of X[D]. -/
def doneHandle (s : State) (d : XReg) : BitVec 32 := if d = 0 then 0 else (rx s d).extractLsb' 0 32

/-- R218, R236: the check of the completion handle in X[D] by the issuing strand; x0 names none. -/
def doneFail (s : State) (d : XReg) : Option Cause :=
  if d = 0 then none
  else
    let h := (rx s d).extractLsb' 0 32
    match handleFail s (myTile s).job h with
    | some c => some c
    | none => if entryBytes (getQueue s (qkeyOf h)) = 32 then none else some .queue

end Sys2Proof.Machine
end

