-- ==== Sys2Proof/Machine/Operands.lean ====
section
/-!
DEFINITION. Operand forms: registers, immediates and ports (R59 to R62, R99, R267, R268), and the shared shapes
of the instructions of classes 2 to 4.
-/

namespace Sys2Proof.Machine

def srcPorts : Src → List (Fin 2)
  | .x _ => []
  | .iq n => [n]
def opndPorts : Opnd → List (Fin 2)
  | .src a => srcPorts a
  | .imm _ => []
def dstPorts : Dst → List (Fin 2)
  | .x _ => []
  | .oq n => [n]

/-- R266: the binding of an input or output port of the executing strand. -/
def iqBind (s : State) (n : Fin 2) : Option Bind := (me s).ports.get ⟨n.val, by omega⟩
def oqBind (s : State) (n : Fin 2) : Option Bind := (me s).ports.get ⟨2 + n.val, by omega⟩

/-- R61, R266: an unbound port raises QUEUE with address 0; a binding is checked by R289. -/
def portFail (s : State) (ins outs : List (Fin 2)) : Option (Cause × Word) :=
  if (ins.any fun n => (iqBind s n).isNone) ∨ (outs.any fun n => (oqBind s n).isNone) then some (.queue, 0)
  else
    let chk (pop : Bool) (b : Option Bind) : Option (Cause × Word) :=
      match b with
      | some b => (useFail s s.cur pop b.handle).map fun c => (c, b.handle.zeroExtend 64)
      | none => none
    match ins.findSome? fun n => chk true (iqBind s n) with
    | some r => some r
    | none => outs.findSome? fun n => chk false (oqBind s n)

def iqKey (s : State) (n : Fin 2) : Nat := qkeyOf (((iqBind s n).map (·.handle)).getD 0)
def oqKey (s : State) (n : Fin 2) : Nat := qkeyOf (((oqBind s n).map (·.handle)).getD 0)

/-- R61: the named inputs are examined iq0 before iq1: the first that has no DATA entry at its head stops the instruction,
with a marker (true) or because it is empty or not OPEN (false). -/
def inputStop (s : State) (ins : List (Fin 2)) : Option (Fin 2 × Bool) :=
  (([0, 1] : List (Fin 2)).filter ins.contains).findSome? fun n =>
    if !mayPop s (iqKey s n) (skey s.cur) then some (n, false)
    else if (headEntry s (getQueue s (iqKey s n))).1 != .data then some (n, true)
    else none

/-- R97, R360: would the executing strand enter an asynchronous trap at its next boundary? -/
def asyncDue (s : State) : Bool :=
  let t := me s
  !t.handler && (t.timerDue || t.wakeDue || (lowestPending t).isSome)

/-- R97: trap entry comes before a marker delivery or a task pop: the executing strand enters the trap that is due with
TRAPPC at its instruction, which has had no effect and issues again after ERET. -/
def trapFirst (s : State) : State := boundary s.cur (setPc (me s).pc (endWait s.cur s))

/-- R97, R268: delivery of the marker at the head of an input port, after a trap that is due. -/
def deliver (n : Fin 2) (s : State) : State :=
  let b := (iqBind s n).getD ⟨0, 0xFFFFFFFF⟩
  if b.vec = 0xFFFFFFFF then raiseLate .queue (b.handle.zeroExtend 64) s
  else if asyncDue s then trapFirst s
  else
    let (en, s) := pop (iqKey s n) (endWait s.cur s)
    let v : Word := payload en.2 ++ fieldNat 29 0 ++ fieldNat 1 n.val ++ fieldNat 2 (kindCode en.1)
    boundaryEdge (boothOf s s.cur.site) (setPc (b.vec.zeroExtend 64) (wx 29 v s))

/-- The values popped from iq0 and iq1. -/
abbrev PortVals := Word × Word

/-- R61, R267: pops the named inputs in slot order; none if an entry is missing, and the key of a poisoned
word if one is met. Where iq0 and iq1 are bound to one queue, two entries are needed, and a marker that stands second is popped
as data (log entry 89). -/
def popPorts : List (Fin 2) → PortVals → State → Option (PortVals × State × Option Nat)
  | [], v, s => some (v, s, none)
  | n :: r, v, s =>
    let q := getQueue s (iqKey s n)
    if !mayPop s (iqKey s n) (skey s.cur) then none
    else match poisonRead s (ringKeys q q.head) with
      | some k => some (v, s, some k)
      | none =>
        let (en, s) := pop (iqKey s n) s
        let w := BitVec.ofNat 64 (bytesNat (en.2.take 8))
        popPorts r (if n = 0 then (w, v.2) else (v.1, w)) s

/-- R61: can every named output accept an entry? The state may hold a queue HELD by the attempt (R276). -/
def outsReady : List (Fin 2) → QKind → State → Bool × State × Nat
  | [], _, s => (true, s, 0)
  | n :: r, kind, s =>
    let p := pushReady s (oqKey s n) kind (.strand (skey s.cur)) (myTile s).booth
    if p.1 then outsReady r kind s else (false, p.2, oqKey s n)

/-- R178: the address of a poisoned word in the local store: its local absolute address (R154). -/
def localAbs (k : Nat) : Word :=
  BitVec.ofNat 64 (2 ^ 63 + ylOf (keySite k) * 2 ^ 21 + xlOf (keySite k) * 2 ^ 18 + keyOff k)

/-- The queues of the named ports. -/
def portQueues (s : State) (ins outs : List (Fin 2)) : List Nat := ins.map (iqKey s) ++ outs.map (oqKey s)

/-- R61: runs `k` with the values popped when every named port is ready; delivers a marker; else waits. -/
def gate (i : Instr) (ins outs : List (Fin 2)) (kind : QKind) (s : State) (k : PortVals → State → Res) : Res :=
  let qs := portQueues s ins outs
  match portFail s ins outs with
  | some (c, a) => .next (raise c a s)
  | none =>
    match inputStop s ins with
    | some (n, true) => .next (deliver n s)
    | some (n, false) => .next (waitFor .waitq (.queue (iqKey s n) qs) i 0 s)
    | none =>
      match popPorts ins (0, 0) s with
      | none => .next (waitFor .waitq (.queue (iqKey s (ins.headD 0)) qs) i 0 s)
      | some (v, s', bad) =>
        let r := outsReady outs kind s
        if !r.1 then .next (waitFor .waitq (.queue r.2.2 qs) i 0 r.2.1)
        else match bad with
          | some w => .next (raiseLate .uncorr (localAbs w) s)
          | none => k v s'

/-- The value of a source slot. -/
def srcVal (v : PortVals) (s : State) : Src → Word
  | .x r => rx s r
  | .iq n => if n = 0 then v.1 else v.2
def opndVal (v : PortVals) (s : State) : Opnd → Word
  | .src a => srcVal v s a
  | .imm b => b.signExtend 64

/-- R61, R98, R267: ends an instruction with its result: the x register is written, or the instruction stays in flight until
it completes, when the result is pushed as a DATA entry (`completePush`). -/
def retire (d : Dst) (v : Word) (s : State) : State :=
  match d with
  | .x r => next (wx r v s)
  | .oq n => modMe (fun t => { t with wait := none }) (inFlight (.push n v) s)

/-- R98, R267: the executing strand's instruction completes with a push to output port `n`. An entry for a queue that QKILL
has unbound is discarded (R291); while the queue is HELD the instruction stays in flight (R276, log entry 7). -/
def completePush (n : Fin 2) (v : Word) (s : State) : State :=
  match oqBind s n with
  | none => next s
  | some _ =>
    let by_ : Pusher := .strand (skey s.cur)
    let r := pushReady s (oqKey s n) .data by_ (myTile s).booth
    if r.1 then next (push (oqKey s n) .data (natBytes 8 v.toNat) by_ (myTile s).booth r.2) else r.2

/-- A one-source instruction of classes 2 to 4. -/
def alu1 (i : Instr) (g : Guard) (d : Dst) (a : Src) (f : Word → Word) (s : State) : Res :=
  guarded g s fun s => gate i (srcPorts a) (dstPorts d) .data s fun v s =>
    .next (retire d (f (srcVal v s a)) s)

/-- A two-source instruction of classes 2 to 4 (R98, R99, R102). -/
def alu2 (i : Instr) (g : Guard) (d : Dst) (a : Src) (b : Opnd) (f : Word → Word → Word) (s : State) : Res :=
  guarded g s fun s => gate i (srcPorts a ++ opndPorts b) (dstPorts d) .data s fun v s =>
    .next (retire d (f (srcVal v s a) (opndVal v s b)) s)

/-- A two-source instruction that rounds: `f` takes the draw of R51. -/
def alu2r (i : Instr) (g : Guard) (r : Rnd) (d : Dst) (a : Src) (b : Opnd) (f : Nat → Word → Word → Word)
    (s : State) : Res :=
  guarded g s fun s => gate i (srcPorts a ++ opndPorts b) (dstPorts d) .data s fun v s =>
    let x := takeDraws r 1 s
    .next (retire d (f (x.1.headD 0) (srcVal v s a) (opndVal v s b)) x.2)

/-- A two-source instruction that writes a predicate. -/
def cmp2 (i : Instr) (g : Guard) (pd : PReg) (a : Src) (b : Opnd) (f : Word → Word → Bool) (s : State) : Res :=
  guarded g s fun s => gate i (srcPorts a ++ opndPorts b) [] .data s fun v s =>
    .next (next (wp pd (f (srcVal v s a) (opndVal v s b)) s))

end Sys2Proof.Machine
end

