-- ==== Sys2Proof/Machine/Lanes.lean ====
section
/-!
DEFINITION. Vector lanes (R126, R131): a v register as a list of lane patterns, write masks, sizes.
-/

namespace Sys2Proof.Machine

/-- R126: the number of lanes of width `w`. -/
def laneCount (w : Nat) : Nat := 512 / w
/-- R126: lane `i` of width `w`. -/
def laneGet (w : Nat) (v : VWord) (i : Nat) : Nat := fld v (w * i) w
/-- The lanes in ascending order. -/
def lanesOf (w : Nat) (v : VWord) : List Nat := (List.range (laneCount w)).map (laneGet w v)
/-- The number that packed lanes make. -/
def packLanes (w : Nat) : List Nat → Nat
  | [] => 0
  | l :: r => l % 2 ^ w + 2 ^ w * packLanes w r
/-- A v register from its lanes. -/
def ofLanes (w : Nat) (l : List Nat) : VWord := BitVec.ofNat 512 (packLanes w l)
/-- R131: lane `i` under a write mask. -/
def mergeLanes (w : Nat) (mask : Word) (new : List Nat) (old : VWord) : VWord :=
  ofLanes w ((List.range (laneCount w)).map fun i =>
    if mask.getLsbD i then new.getD i 0 else laneGet w old i)
/-- One lane replaced. -/
def laneSet (w : Nat) (v : VWord) (i x : Nat) : VWord :=
  ofLanes w ((List.range (laneCount w)).map fun j => if j = i then x else laneGet w v j)

/-- R68: the bytes of an access size. -/
def sizeBytes : Size → Nat
  | .b => 1 | .h => 2 | .w => 4 | .d => 8

/-- A pattern of width `w` sign-extended to 64 bits. -/
def sextNat (w v : Nat) : Word :=
  if v.testBit (w - 1) then BitVec.ofInt 64 ((v : Int) - 2 ^ w) else BitVec.ofNat 64 v

end Sys2Proof.Machine
end

