-- ==== Sys2Proof/Machine/Float.lean ====
section
/-!
DEFINITION. Class 3: scalar floating point (R110 to R112).
-/

namespace Sys2Proof.Machine

/-- R110: the operand of format `f` in the low bits of a value. -/
def lowBits (f : Fmt) (v : Word) : Nat := v.toNat % 2 ^ f.width
/-- R110: the exact value of an operand. -/
def fval (f : Fmt) (v : Word) : Ex := decFloat f (lowBits f v)
/-- R110: the exact result rounded, zero-extended to 64 bits. -/
def fround (f : Fmt) (r : Rnd) (sat : Bool) (dr : Nat) (x : Ex) : Word := BitVec.ofNat 64 (roundFloat f r sat dr x)
/-- R48: the exact difference. -/
def subEx (rni : Bool) (a b : Ex) : Ex := addEx rni a (negEx b)

/-- FADD (R110). -/
def execFadd (g : Guard) (f : Fmt) (r : Rnd) (sat : Bool) (d : Dst) (a : Src) (b : Opnd) (s : State) : Res :=
  alu2r (.fadd g f r sat d a b) g r d a b (fun dr x y => fround f r sat dr (addEx (r == .rni) (fval f x) (fval f y))) s

/-- FSUB (R110). -/
def execFsub (g : Guard) (f : Fmt) (r : Rnd) (sat : Bool) (d : Dst) (a : Src) (b : Opnd) (s : State) : Res :=
  alu2r (.fsub g f r sat d a b) g r d a b (fun dr x y => fround f r sat dr (subEx (r == .rni) (fval f x) (fval f y))) s

/-- FMUL (R110). -/
def execFmul (g : Guard) (f : Fmt) (r : Rnd) (sat : Bool) (d : Dst) (a : Src) (b : Opnd) (s : State) : Res :=
  alu2r (.fmul g f r sat d a b) g r d a b (fun dr x y => fround f r sat dr (mulEx (fval f x) (fval f y))) s

/-- FDIV (R110). -/
def execFdiv (g : Guard) (f : Fmt) (r : Rnd) (sat : Bool) (d : Dst) (a : Src) (b : Opnd) (s : State) : Res :=
  alu2r (.fdiv g f r sat d a b) g r d a b (fun dr x y => fround f r sat dr (divEx (fval f x) (fval f y))) s

/-- FFMA (R110): rounded once. -/
def execFfma (g : Guard) (f : Fmt) (r : Rnd) (sat : Bool) (d : Dst) (a b c : Src) (s : State) : Res :=
  guarded g s fun s =>
    gate (.ffma g f r sat d a b c) (srcPorts a ++ srcPorts b ++ srcPorts c) (dstPorts d) .data s fun v s =>
      let x := takeDraws r 1 s
      let e := addEx (r == .rni) (mulEx (fval f (srcVal v s a)) (fval f (srcVal v s b))) (fval f (srcVal v s c))
      .next (retire d (fround f r sat (x.1.headD 0) e) x.2)

/-- FMIN (R54, R110). -/
def execFmin (g : Guard) (f : Fmt) (d : Dst) (a : Src) (b : Opnd) (s : State) : Res :=
  alu2 (.fmin g f d a b) g d a b (fun x y => BitVec.ofNat 64 (fminmax f false (lowBits f x) (lowBits f y))) s

/-- FMAX (R54, R110). -/
def execFmax (g : Guard) (f : Fmt) (d : Dst) (a : Src) (b : Opnd) (s : State) : Res :=
  alu2 (.fmax g f d a b) g d a b (fun x y => BitVec.ofNat 64 (fminmax f true (lowBits f x) (lowBits f y))) s

/-- FCMP (R111). -/
def execFcmp (g : Guard) (f : Fmt) (cc : FCond) (pd : PReg) (a : Src) (b : Opnd) (s : State) : Res :=
  cmp2 (.fcmp g f cc pd a b) g pd a b (fun x y => fcond cc (fval f x) (fval f y)) s

/-- R112: an integer result widened to 64 bits: sign-extended, or zero-extended for UINT8. -/
def widenInt (t : Fmt) (p : Nat) : Word := if t.isInt && t != .u8 then sextNat t.width p else BitVec.ofNat 64 p

/-- R46, R112: rounding to a signed 64-bit integer. -/
def roundLong (r : Rnd) (dr : Nat) : Ex → Int
  | .nan => 0
  | .inf neg => if neg then -(2 ^ 63) else 2 ^ 63 - 1
  | .num neg m e st =>
    let n : Int := roundGrid r neg dr 0 m e st
    max (-(2 ^ 63)) (min (2 ^ 63 - 1) (if neg then -n else n))

/-- R112: the result of FCVT. -/
def fcvtVal (t s : Fmt) (r : Rnd) (sat l : Bool) (dr : Nat) (x : Word) : Word :=
  if l then
    if s = .i32 then BitVec.ofNat 64 (convTo t r sat dr (intEx x.toInt))
    else BitVec.ofInt 64 (roundLong r dr (fval s x))
  else widenInt t (convFmt t s r sat dr (lowBits s x))

/-- FCVT (R112). -/
def execFcvt (g : Guard) (t f : Fmt) (r : Rnd) (sat l : Bool) (d : Dst) (a : Src) (s : State) : Res :=
  guarded g s fun s => gate (.fcvt g t f r sat l d a) (srcPorts a) (dstPorts d) .data s fun v s =>
    let x := if convDraws t f r then takeDraws r 1 s else ([], s)
    .next (retire d (fcvtVal t f r sat l (x.1.headD 0) (srcVal v s a)) x.2)

end Sys2Proof.Machine
end

