-- ==== Sys2Proof/Machine/Pred.lean ====
section
/-!
DEFINITION. Class 4: compare and predicate instructions (R113, R114).
-/

namespace Sys2Proof.Machine

/-- CMP (R113). -/
def execCmp (g : Guard) (cc : Cond) (pd : PReg) (a : Src) (b : Opnd) (s : State) : Res :=
  cmp2 (.cmp g cc pd a b) g pd a b (condHolds cc) s

/-- R114: a two-predicate instruction. -/
def pred2 (g : Guard) (na nb : Bool) (pd pa pb : PReg) (f : Bool → Bool → Bool) (s : State) : Res :=
  guarded g s fun s => .next (next (wp pd (f (pGet (me s) pa != na) (pGet (me s) pb != nb)) s))

/-- PAND (R114). -/
def execPand (g : Guard) (na nb : Bool) (pd pa pb : PReg) (s : State) : Res := pred2 g na nb pd pa pb and s

/-- POR (R114). -/
def execPor (g : Guard) (na nb : Bool) (pd pa pb : PReg) (s : State) : Res := pred2 g na nb pd pa pb or s

/-- PXOR (R114). -/
def execPxor (g : Guard) (na nb : Bool) (pd pa pb : PReg) (s : State) : Res := pred2 g na nb pd pa pb xor s

/-- PNOT (R114). -/
def execPnot (g : Guard) (pd pa : PReg) (s : State) : Res :=
  guarded g s fun s => .next (next (wp pd (!pGet (me s) pa) s))

/-- PMOV (R114). -/
def execPmov (g : Guard) (f : PMovForm) (s : State) : Res :=
  guarded g s fun s =>
    match f with
    | .pp pd pa => .next (next (wp pd (pGet (me s) pa) s))
    | .px pd a => gate (.pmov g f) (srcPorts a) [] .data s fun v s => .next (next (wp pd (srcVal v s a != 0) s))
    | .xp d pa => gate (.pmov g f) [] (dstPorts d) .data s fun _ s =>
        .next (retire d (if pGet (me s) pa then 1 else 0) s)

end Sys2Proof.Machine
end

