-- ==== Sys2Proof/Machine/Reflect.lean ====
section
/-!
DEFINITION. Window tables and the sending side of reflection (R327 to R334): resolving a store at the gateway,
sequences and epochs, congestion, and the record of each store for RFENCE (R339).
-/

namespace Sys2Proof.Machine

/-! ### Window table entries (R327, R328) -/

def txEntry (s : State) (w : Nat) : BitVec 640 := tget 0 s.txwin w
def txValid (e : BitVec 640) : Bool := e.getLsbD 0
def txBranches (e : BitVec 640) : Nat := fld e 2 4 + 1
def txJob (e : BitVec 640) : BitVec 16 := e.extractLsb' 16 16
def txSize (e : BitVec 640) : Nat := fld e 32 44
def txDevice (e : BitVec 640) (b : Nat) : Nat := fld e (128 + 32 * b) 16
def txRxwin (e : BitVec 640) (b : Nat) : Nat := fld e (144 + 32 * b) 12

def rxEntry (s : State) (w : Nat) : BitVec 256 := tget 0 s.rxwin w
def rxValid (e : BitVec 256) : Bool := e.getLsbD 0
def rxKind (e : BitVec 256) : Nat := fld e 1 2
def rxOrd (e : BitVec 256) : Nat := fld e 3 2
def rxLwen (e : BitVec 256) : Bool := e.getLsbD 5
def rxW (e : BitVec 256) : Bool := e.getLsbD 6
def rxJob (e : BitVec 256) : BitVec 16 := e.extractLsb' 16 16
def rxCluster (e : BitVec 256) : Nat := fld e 32 5
def rxTarget (e : BitVec 256) : Word := e.extractLsb' 64 64
def rxLimit (e : BitVec 256) : Nat := fld e 128 44
/-- R328: the keys of the 16 bytes of LW. -/
def lwKeys (cluster lw : Nat) : List Nat :=
  keysFrom (localKey (siteInCluster cluster (lw / 2 ^ 18 % 8) (lw / 2 ^ 21 % 16)) (lw % 2 ^ 18)) 16
def rxLw (e : BitVec 256) : List Nat := lwKeys (rxCluster e) (fld e 192 25)

/-! ### Paths (R330 to R332) -/

def pathGet (s : State) (p : PathId) : PathS :=
  ((s.pathS.find? (·.1 = p)).map (·.2)).getD ⟨0, 0, true, [], [], false⟩
def pathSet (p : PathId) (v : PathS) (s : State) : State :=
  { s with pathS := if s.pathS.any (·.1 = p) then s.pathS.map (fun q => if q.1 = p then (p, v) else q)
                    else s.pathS ++ [(p, v)] }
def setStore (id st : Nat) (s : State) : State :=
  { s with wstores := s.wstores.mapIdx fun i w => if i = id then { w with st := st } else w }

/-- R333: a branch's copy leaves for its receiver. -/
def transmit (dev : Nat) (w : RWrite) (s : State) : State :=
  if dev = s.device then enqueue (.reflectedWriteArrival w) s else emit (.write dev w) s

/-- R330, R331, R334: sends a write as the next store of a path whose sequence is below 2^48; it is timed if its peer has no
store under way that is. -/
def sendSeq (dev : Nat) (w : RWrite) (id : Nat) (s : State) : State :=
  let p := pathGet s w.path
  let w := { w with seq := p.next, epoch := p.epoch, open_ := p.opened }
  let now := s.devtime.toNat
  let p := { p with next := p.next + 1, opened := false, held := p.held ++ [⟨w, 0, id, now⟩] }
  transmit dev w (modPeer dev (fun q =>
    { q with out := q.out + w.size, timing := some (q.timing.getD (w.path, w.epoch, w.seq, now)) }) (pathSet w.path p s))

/-- R330 to R332: one store enters its path. A closed path drops it, INDETERMINATE; at sequence 2^48 it waits
until the path is empty and reopens it. -/
def sendOn (dev : Nat) (w : RWrite) (id : Nat) (s : State) : State :=
  let p := pathGet s w.path
  if p.closed then setStore id 3 s
  else if p.next < 2 ^ 48 then sendSeq dev w id s
  else if p.held = [] then
    sendSeq dev w id (pathSet w.path { p with next := 0, epoch := (p.epoch + 1) % 256, opened := true } s)
  else pathSet w.path { p with queued := p.queued ++ [(w, id)] } s

/-- R329, R333: what the gateway does with a store. -/
inductive Sent where
  | stall
  | done (dropped : Bool) (s : State)

/-- R334: would a store of `size` bytes through the entry take a peer's OUT beyond CAP, all its branches to that peer
together? -/
def overCap (s : State) (e : BitVec 640) (size : Nat) : Bool :=
  let devs := (List.range (txBranches e)).map (txDevice e)
  devs.any fun d => decide ((getPeer s d).cap < (getPeer s d).out + size * (devs.filter (· == d)).length)

/-- R329, R334, R410: a store of `size` bytes at offset `off` of window `w`; `bytes` pairs window offsets with
the bytes that are written. -/
def sendWindow (sender : Sender) (job : BitVec 16) (site : Nat) (w off size : Nat) (bytes : List (Nat × Byte))
    (poison : Bool) (cmd : Nat) (s : State) : Sent :=
  let e := txEntry s w
  let brs := List.range (txBranches e)
  if s.pendWin.any (·.1 == w) then .stall
  else if !txValid e ∨ txJob e ≠ job ∨ txSize e < off + size then
    let mask := (2 ^ txBranches e - 1)
    let s := { s with wstores := s.wstores ++ brs.map fun b => ⟨sender, w, off, b, 2, false, [], cmd⟩ }
    .done true (logTile site 0x07 1 (match sender with | .strand e => some e.k | .carter _ => none)
      (BitVec.ofNat 64 (2 ^ 62 + w * 2 ^ 44 + off)) (BitVec.ofNat 64 w) (BitVec.ofNat 192 mask) s)
  else if overCap s e size then .stall
  else .done false (brs.foldl (fun s b =>
    let id := s.wstores.length
    let path : PathId := ⟨sender, w, b⟩
    let rw : RWrite := ⟨s.device, path, job, (getJob s job).seed, txRxwin e b, 0, 0, false, off, bytes, size, poison⟩
    sendOn (txDevice e b) rw id { s with wstores := s.wstores ++ [⟨sender, w, off, b, 0, false, [], cmd⟩] }) s)

/-! ### RFENCE (R339) -/

/-- R339: is a store covered by this RFENCE of strand `e`? -/
def covered (e : SRef) (win : Option Nat) (w : WStore) : Bool :=
  match win with
  | none => w.sender == .strand e && !w.plain
  | some n => w.win == n && !w.byWin.contains e

/-- R339: does the RFENCE still wait? It covers at most the first `n` stores handed to a gateway. -/
def rfencePending (s : State) (e : SRef) (win : Option Nat) (n : Nat) : Bool :=
  (s.wstores.take n).any fun w => covered e win w && w.st == 0

/-- R337: is a store through a window, of the first `n`, unsettled? -/
def windowBusy (s : State) (w n : Nat) : Bool := (s.wstores.take n).any fun x => x.win == w && x.st == 0

/-- R339: the status word of an RFENCE over settled stores. -/
def rfenceStatus (ws : List WStore) : Word :=
  let bad := ws.filter fun w => 2 ≤ w.st
  if bad = [] then 0
  else
    let st := if bad.any (·.st == 3) then 2 else 1
    let br := bad.foldl (fun m w => m ||| 2 ^ w.branch) 0
    let lo := bad.foldl (fun m w => min m w.win) 4096
    let multi := bad.any fun w => w.win ≠ lo
    BitVec.ofNat 64 (st + br * 2 ^ 16 + lo * 2 ^ 32 + b2n multi * 2 ^ 63)

/-- R332: opens a path again with a new epoch and sequence 0. -/
def reopen (p : PathS) : PathS := { p with closed := false, next := 0, epoch := (p.epoch + 1) % 256, opened := true }

/-- R332, R339: marks the covered stores reported and lets the closed paths that they name open again. -/
def rfenceMark (e : SRef) (win : Option Nat) (n : Nat) (s : State) : State :=
  let cov := (s.wstores.take n).filter (covered e win)
  let seen (p : PathId) : Bool :=
    p.sender == .strand e && cov.any fun w => w.st == 3 && w.sender == p.sender && w.win == p.win && w.branch == p.branch
  { s with
    wstores := s.wstores.mapIdx fun i w => if i < n ∧ covered e win w then
      (match win with | none => { w with plain := true } | some _ => { w with byWin := w.byWin ++ [e] }) else w
    pathS := s.pathS.map fun q => if q.2.closed && seen q.1 then (q.1, reopen q.2) else q }

/-- Strands that wait for a store to settle (RFENCE, congestion cap, WUNMAP) and carters that may go on. -/
def wakeWindows (s : State) : State :=
  let es := s.strands.filterMap fun p =>
    match p.2.wait with
    | some ⟨.rfence _, _, _, _⟩ | some ⟨.cap, _, _, _⟩ => some (Instr.rfenceComplete (srefOf p.1))
    | some _ => none
    | none => (match p.2.flight with
      | some (.unmap _ _) => some (Instr.rfenceComplete (srefOf p.1))
      | _ => none)
  let cs := s.carters.filterMap fun p =>
    if p.2.queue = [] then none
    else some (if p.2.cls.isSome then Instr.carterCommandComplete p.1 else Instr.carterChunk p.1)
  { s with internal := s.internal ++ es ++ cs }

end Sys2Proof.Machine
end

