-- ==== Sys2Proof/Machine/Mem.lean ====
section
/-!
DEFINITION. How memory accesses of strands are performed (R155 to R157, R178, R206, R207): at the executing
unit, handed off and performed later, or in flight until the reply; landing-word updates (R347); boot end.
-/

namespace Sys2Proof.Machine

/-! ### Landing words (R346, R347) -/

/-- R347: `Update` on the 16 bytes of a landing word. -/
def lwUpdate (v n : Nat) : Nat :=
  let target := v % 2 ^ 32
  let count := v / 2 ^ 32 % 2 ^ 32
  let gen := v / 2 ^ 64 % 2 ^ 32
  let ov := v / 2 ^ 96 % 2
  let rest := v / 2 ^ 97
  let n := n % 2 ^ 32
  let mk (count gen ov : Nat) : Nat :=
    target + count * 2 ^ 32 + gen * 2 ^ 64 + ov * 2 ^ 96 + rest * 2 ^ 97
  let s := count + n
  if target = 0 then mk (s % 2 ^ 32) gen ov
  else if target ≤ s then
    mk (s % target) ((gen + s / target) % 2 ^ 32) (if s % target ≠ 0 then 1 else ov)
  else mk s gen ov

/-- R178, R347: an update at the owning bank port; false when it meets poison and is not performed. -/
def lwCount (ks : List Nat) (n : Nat) (s : State) : Bool × State :=
  if (poisonRead s ks).isSome then (false, s) else (true, writeNat ks (lwUpdate (readNat s ks) n) s)

/-! ### Boot end (R396) -/

/-- R396: the end of boot mode of a die. One that has FAILED stays so (R389). -/
def endBoot (die : Nat) (s : State) : State :=
  let nd := readNat s (keysFrom (localKey (siteAt die 0 0) 0x3D0C0) 8)
  let s := modDie die (fun d => { d with phase := if d.phase = .failed then .failed else .stewards, ended := true, nd := nd % 2 ^ 11 }) s
  let sites := ((List.range 1024).map (1024 * die + ·)).filter (isGood s)
  let s := sites.foldl (fun s t =>
    let c := readNat s (keysFrom (localKey t 0x3D058) 8)
    let n := readNat s (keysFrom (localKey t 0x3D050) 8)
    modTile t (fun u => { u with tx := c / 256 % 32, ty := c / 65536 % 32, logical := n % 1024 }) s) s
  sites.foldl (fun s t => startStrand ⟨t, 0⟩ 0 0 false [] [] s) s

/-- R396: does a store to these bytes end boot mode of a die? -/
def endsBoot (s : State) (ks : List Nat) : Option Nat :=
  (List.range 4).find? fun d => bootMode s d &&
    (keysFrom (localKey (siteAt d 0 0) 0x3D0C0) 8).any ks.contains &&
    readNat s (keysFrom (localKey (siteAt d 0 0) 0x3D0C0) 8) != 0

/-! ### Operations at the executing unit -/

/-- A pattern of `n` bytes as a signed number. -/
def signedOf (n v : Nat) : Int := if 2 ^ (8 * n - 1) ≤ v then (v : Int) - 2 ^ (8 * n) else v

/-- R214, R215: the new value of an atomic on `n` bytes, none for a failing ACAS. `c` is the compare value. -/
def atomNew (i : Instr) (n old b c : Nat) : Option Nat :=
  let m := 2 ^ (8 * n)
  match i with
  | .aadd .. => some ((old + b) % m)
  | .aand .. => some (old &&& b)
  | .aor .. => some (old ||| b)
  | .axor .. => some (old ^^^ b)
  | .amin .. => some (if signedOf n b < signedOf n old then b else old)
  | .amax .. => some (if signedOf n old < signedOf n b then b else old)
  | .aminu .. => some (min old b)
  | .amaxu .. => some (max old b)
  | .axch .. => some b
  | .acas .. => if old = c then some b else none
  | .afadd _ _ f .. => some (roundFloat f .rne false 0 (addEx false (decFloat f old) (decFloat f b)))
  | .afmin _ _ f .. => some (fminmax f false old b)
  | .afmax _ _ f .. => some (fminmax f true old b)
  | _ => some old

/-- Is the instruction an indivisible read and write of one place? -/
def isRmw : Instr → Bool
  | .aadd .. | .aand .. | .aor .. | .axor .. | .amin .. | .amax .. | .aminu .. | .amaxu .. | .axch .. | .acas ..
  | .afadd .. | .afmin .. | .afmax .. | .landset .. | .landadd .. | .tjoin .. | .stn .. => true
  | _ => false

/-- R156, R214, R215, R301, R347, R349: the new value of such a place; none writes nothing. -/
def rmwNew (i : Instr) (n old : Nat) (data c : Word) : Option Nat :=
  match i with
  | .stn _ _ hi _ _ _ => some (if hi then old % 16 + data.toNat % 16 * 16 else old / 16 * 16 + data.toNat % 16)
  | .tjoin .. => some ((old + (2 ^ 64 - 1)) % 2 ^ 64)
  | .landadd .. => some (lwUpdate old (data.toNat % 2 ^ 32))
  | .landset .. => some (data.toNat % 2 ^ 32 + old / 2 ^ 64 % 2 ^ 32 * 2 ^ 64)
  | i => atomNew i n old (data.toNat % 2 ^ (8 * n)) (c.toNat % 2 ^ (8 * n))

/-- The bytes that a store writes through one lane. -/
def storeLane (i : Instr) (data : Word) (v : VWord) (ln : Lane) : List (Nat × Byte) :=
  match i with
  | .stv .. | .scat .. =>
    let n := ln.keys.length
    ln.keys.zipIdx.map fun p => (p.1, v.extractLsb' (8 * (n * ln.lane + p.2)) 8)
  | _ => ln.keys.zipIdx.map fun p => (p.1, data.extractLsb' (8 * p.2) 8)

/-- The address of the poisoned word that an access by this lane meets (R359): local absolute in a local store,
the virtual address otherwise. -/
def poisonAddr (ln : Lane) (w : Nat) : Word :=
  if isLocalKey w then localAbs w
  else
    let i := (ln.keys.findIdx? fun k => k / 8 * 8 == w).getD 0
    (ln.addr + BitVec.ofNat 64 i) &&& ~~~7

/-- Performs a store or an indivisible update; the poisoned words that parts of it met and left. -/
def performStore (i : Instr) (data c : Word) (v : VWord) (lanes : List Lane) (s : State) : State × List Word :=
  let one (a : State × List Word) (ln : Lane) : State × List Word :=
    if ln.keys = [] then a
    else if isRmw i then
      match poisonRead a.1 ln.keys with
      | some w => (a.1, a.2 ++ [poisonAddr ln w])
      | none => match rmwNew i ln.keys.length (readNat a.1 ln.keys) data c with
        | some n => (writeNat ln.keys n a.1, a.2)
        | none => a
    else match poisonPart a.1 ln.keys with
      | some w => (a.1, a.2 ++ [poisonAddr ln w])
      | none => (writeBytes (storeLane i data v ln) a.1, a.2)
  match i with
  | .stv .. =>
    let l := lanes.flatMap (storeLane i data v)
    match poisonPart s (l.map (·.1)), lanes with
    | some w, ln :: r => (s, [poisonAddr (((ln :: r).find? fun x => x.keys.any fun k => k / 8 * 8 == w).getD ln) w])
    | _, _ => (writeBytes l s, [])
  | _ => lanes.foldl one (s, [])

/-! ### Accesses handed off (R207) -/

def pendKeys (p : Pend) : List Nat := p.lanes.flatMap (·.keys)

/-- R183, R185: must `p` be performed before `q` of the same strand? -/
def pendBefore (p q : Pend) : Bool := (p.so && q.so) || (pendKeys p).any (pendKeys q).contains

/-- R178: the reports of the poisoned words that accesses of strand `e` met after their hand-off. -/
def reportPoison (e : SRef) (l : List Word) (s : State) : State :=
  l.foldl (fun s a => enqueue (.poisonReport e a.toNat) s) s

/-- Performs one handed-off access; poison that it meets is reported (R178). Plain loads of other strands may still find what
an RC or UN byte held before (R184). -/
def performPend (p : Pend) (s : State) : State :=
  let r := performStore p.instr p.data 0 p.vdata p.lanes s
  let t := if p.so then r.1 else noteOlds 0 p.e.site (some p.e) (pendKeys p) s r.1
  let s := reportPoison p.e r.2 t
  match endsBoot s (pendKeys p) with
  | some d => enqueue (.bootEnd d) s
  | none => s

/-- The accesses of a strand that satisfy `f`, with everything that must come before them, in order; the rest. -/
def pendSplit (f : Pend → Bool) : List Pend → List Pend × List Pend
  | l =>
    let step (p : Pend) (a : List Pend × List Pend) : List Pend × List Pend :=
      if f p || a.1.any (fun q => q.e == p.e && pendBefore p q) then (p :: a.1, a.2) else (a.1, p :: a.2)
    l.foldr step ([], [])

/-- R162: of accesses in order, those that can be performed, and those that wait for a host link with those behind them
(log entry 81). -/
def hostSplit (down : Bool) (l : List Pend) : List Pend × List Pend :=
  l.foldl (fun a p =>
    if down && ((pendKeys p).any isHostPa || a.2.any fun q => q.e == p.e && pendBefore q p) then (a.1, a.2 ++ [p])
    else (a.1 ++ [p], a.2)) ([], [])

/-- Performs handed-off accesses now: those that satisfy `f` and those that must come before, but for what waits for a host
link. -/
def drain (f : Pend → Bool) (s : State) : State :=
  let r := pendSplit f s.pend
  let h := hostSplit (hostDown s) r.1
  h.1.foldl (fun s p => performPend p s) { s with pend := h.2 ++ r.2 }

/-- Everything that strand `e` has handed off (R187 to R190, R207). -/
def drainAll (e : SRef) (s : State) : State := drain (fun p => p.e == e) s

/-- Has strand `e` handed off an access that is not performed yet? -/
def unperformed (s : State) (e : SRef) : Bool := s.pend.any (·.e == e)

/-- R185, R190: what the executing strand's instruction does once all that the strand has handed off is performed. While one
of those accesses waits for a host link (R162) the instruction stays in flight, and is evaluated anew when it is
performed. -/
def afterAll (i : Instr) (k : State → Res) (s : State) : Res :=
  let t := drainAll s.cur s
  if unperformed t t.cur then .next (inFlight (.held i) t) else k t

/-- R183, R185: must a handed-off access be performed before an access of `e` to these bytes? -/
def comesFirst (e : SRef) (ks : List Nat) (so : Bool) (p : Pend) : Bool :=
  p.e == e && ((so && p.so) || (pendKeys p).any ks.contains)
/-- R183, R185: what must be performed before an access of `e` to these bytes. -/
def drainFor (e : SRef) (ks : List Nat) (so : Bool) (s : State) : State := drain (comesFirst e ks so) s

/-! ### Completing a memory instruction -/

/-- The store data of an instruction of the executing strand: the word, the vector and the compare value. -/
def memData (i : Instr) (s : State) : Word × VWord × Word :=
  let t := me s
  match i with
  | .st _ _ _ _ d _ | .stn _ _ _ _ d _ => (xGet t d, 0, 0)
  | .stv _ _ _ _ _ d _ | .scat _ _ _ _ _ _ d _ _ => (0, vGet t d, 0)
  | .acas _ _ _ _ d _ b => (xGet t b, 0, xGet t d)
  | .aadd _ _ _ _ _ _ b | .aand _ _ _ _ _ _ b | .aor _ _ _ _ _ _ b | .axor _ _ _ _ _ _ b
  | .amin _ _ _ _ _ _ b | .amax _ _ _ _ _ _ b | .aminu _ _ _ _ _ _ b | .amaxu _ _ _ _ _ _ b
  | .axch _ _ _ _ _ _ b | .afadd _ _ _ _ _ _ b | .afmin _ _ _ _ _ _ b | .afmax _ _ _ _ _ _ b
  | .landset _ _ _ b | .landadd _ _ _ _ b => (xGet t b, 0, 0)
  | _ => (0, 0, 0)

/-- R208, R210, R211, R214, R349, R350: what the instruction writes to registers, from the value that it read
through each lane (before an update) and, for LANDADD, the state after it. -/
def memResult (i : Instr) (lanes : List Lane) (vals : List Nat) (after : Nat) (s : State) : State :=
  let v0 := vals.headD 0
  let w0 := BitVec.ofNat 64 v0
  let lanesInto (n : Nat) (d : VReg) : State :=
    wv d ((lanes.zip vals).foldl (fun v p => laneSet (8 * n) v p.1.lane p.2) (vGet (me s) d)) s
  match i with
  | .ld _ _ sz sgn _ d _ => wx d (if sgn then sextNat (8 * sizeBytes sz) v0 else w0) s
  | .ldv _ _ sz _ _ d _ => lanesInto (sizeBytes sz) d
  | .gath _ _ sz _ _ _ d _ _ => lanesInto (sizeBytes sz) d
  | .amin _ _ sz _ d _ _ | .amax _ _ sz _ d _ _ => wxo d (sextNat (8 * sizeBytes sz) v0) s
  | .aadd _ _ _ _ d _ _ | .aand _ _ _ _ d _ _ | .aor _ _ _ _ d _ _ | .axor _ _ _ _ d _ _
  | .aminu _ _ _ _ d _ _ | .amaxu _ _ _ _ d _ _ | .axch _ _ _ _ d _ _
  | .afadd _ _ _ _ d _ _ | .afmin _ _ _ _ d _ _ | .afmax _ _ _ _ d _ _ => wxo d w0 s
  | .acas _ _ _ _ d _ _ => wx d w0 s
  | .landset _ d _ _ => wx d (BitVec.ofNat 64 (v0 / 2 ^ 64 % 2 ^ 32)) s
  | .landadd _ _ d _ _ =>
    wxo d (BitVec.ofNat 64 (after / 2 ^ 64 % 2 ^ 32 + after / 2 ^ 32 % 2 ^ 32 * 2 ^ 32)) s
  | _ => s

def isLoad : Instr → Bool
  | .ld .. | .ldv .. | .gath .. => true
  | _ => false

/-- R206: the annotation of a memory instruction; LANDSET is plain, and TJOIN orders as .AR (R301). -/
def ordnOf : Instr → Ordn
  | .ld _ _ _ _ o _ _ | .st _ _ _ o _ _ | .stn _ _ _ o _ _ | .ldv _ _ _ o _ _ _ | .stv _ _ _ o _ _ _
  | .gath _ _ _ _ o _ _ _ _ | .scat _ _ _ _ o _ _ _ _ | .aadd _ _ _ o _ _ _ | .aand _ _ _ o _ _ _ | .aor _ _ _ o _ _ _
  | .axor _ _ _ o _ _ _ | .amin _ _ _ o _ _ _ | .amax _ _ _ o _ _ _ | .aminu _ _ _ o _ _ _ | .amaxu _ _ _ o _ _ _
  | .axch _ _ _ o _ _ _ | .acas _ _ _ o _ _ _ | .afadd _ _ _ o _ _ _ | .afmin _ _ _ o _ _ _ | .afmax _ _ _ o _ _ _
  | .landadd _ o _ _ _ => o
  | .tjoin .. => .ar
  | _ => .plain

/-- R185, R186: the access of the executing strand orders its later accesses after the writes of path S that it may have read
from; one to an SO location after those that a landing word has released (R195). -/
def orderLater (i : Instr) (so : Bool) (s : State) : State :=
  match ordnOf i with
  | .acq | .ar => acquireS s.cur s
  | _ => if so then acquire s.cur (fun _ => false) s else s

/-- R195: a LANDADD.REL releases what the strand has written and what it has ordered before it. -/
def releaseLand (i : Instr) (s : State) : State :=
  match i with
  | .landadd _ .rel _ _ _ => publish (fun o => o.writer == some s.cur || o.seen.contains s.cur) s
  | _ => s

/-- R184, R185: the numbers that one load of the executing strand reads as one (R203) through its lanes, and the state after
it. -/
def readOnce (lanes : List Lane) (un : Bool) (s : State) : List Nat × State :=
  let ks := lanes.flatMap (·.keys)
  let l := foundOlds s.cur ks s
  (lanes.map fun ln => bytesNat (ln.keys.map (foundByte l s)), afterFound s.cur ks un l s)

/-- R184, R185: the values that a load reads through its lanes, and the state after it. An annotated load and one from an SO
location (`ord` 0) read what memory holds; a plain one from RC (1) or UN (2) bytes may find older values, GATH for each element
anew. -/
def loadLanes (i : Instr) (lanes : List Lane) (ord : Nat) (s : State) : List Nat × State :=
  if ord = 0 ∨ ordnOf i ≠ .plain ∨ s.olds = [] then (lanes.map fun ln => readNat s ln.keys, s)
  else match i with
    | .gath .. => lanes.foldl (fun a ln =>
        let r := readOnce [ln] (ord == 2) a.2
        (a.1 ++ r.1, r.2)) ([], s)
    | _ => readOnce lanes (ord == 2) s

/-- R352: arms a slot on the line of a byte. -/
def armMon (slot : Fin 4) (k : Nat) (s : State) : State :=
  modMe (fun t => { t with mons := t.mons.set slot ⟨some (k / 64 * 64), false⟩ }) s

/-- R207: does the instruction complete when its requests are handed off? -/
def handsOff : Instr → Bool
  | .st _ _ _ o _ _ => o == .plain
  | .stn _ _ _ o _ _ => o == .plain
  | .stv _ _ _ o _ _ _ => o == .plain
  | .scat _ _ _ _ o _ _ _ _ => o == .plain
  | .aadd _ _ _ o d _ _ | .aand _ _ _ o d _ _ | .aor _ _ _ o d _ _ | .axor _ _ _ o d _ _ | .amin _ _ _ o d _ _
  | .amax _ _ _ o d _ _ | .aminu _ _ _ o d _ _ | .amaxu _ _ _ o d _ _ | .axch _ _ _ o d _ _ => o == .plain && d.isNone
  | .afadd _ _ _ o d _ _ | .afmin _ _ _ o d _ _ | .afmax _ _ _ o d _ _ => o == .plain && d.isNone
  | .landadd _ o d _ _ => o == .plain && d.isNone
  | _ => false

/-- R14: is every byte in the executing strand's own local store? -/
def ownTile (s : State) (ks : List Nat) : Bool := ks.all fun k => isLocalKey k && keySite k == s.cur.site

/-- Performs the executing strand's access, which is due now, and completes the instruction. Poison that an update meets
raises UNCORR while the instruction is in flight; one that completes at its hand-off takes no trap (R178). `ord` is the order
kind. -/
def completeMem (i : Instr) (lanes : List Lane) (ord : Nat) (s : State) : State :=
  let ks := lanes.flatMap (·.keys)
  let s := drainFor s.cur ks (ord == 0) s
  match i with
  | .marm _ slot _ => next (armMon slot (ks.headD 0) s)
  | _ =>
    match (if isLoad i then lanes.findSome? fun ln => (poisonRead s ln.keys).map (poisonAddr ln) else none) with
    | some a => raiseLate .uncorr a s
    | none =>
      if isLoad i then
        let v := loadLanes i lanes ord s
        next (memResult i lanes v.1 0 (orderLater i (ord == 0) v.2))
      else
        let vals := lanes.map fun ln => readNat s ln.keys
        let d := memData i s
        let r := performStore i d.1 d.2.2 d.2.1 lanes s
        if r.2 ≠ [] ∧ !handsOff i then raiseLate .uncorr (r.2.headD 0) r.1
        else
          let t := if ord = 0 ∨ ownTile s ks then r.1 else noteOlds 0 s.cur.site (some s.cur) ks s r.1
          let t := releaseLand i (orderLater i (ord == 0) t)
          let s' := memResult i lanes vals (readNat r.1 ks) (reportPoison s.cur r.2 t)
          match endsBoot s' ks with
          | some b => endBoot b s'
          | none => next s'


/-- R207: the access of an instruction whose checks have passed: performed at once in the own tile, handed off,
or in flight until the reply. `rel` says that earlier accesses come first, `reply` that completion waits. -/
def startMem (i : Instr) (lanes : List Lane) (ord : Nat) (rel reply : Bool) (s : State) : State :=
  let ks := lanes.flatMap (·.keys)
  if ownTile s ks ∧ !(s.pend.any fun p => p.e == s.cur && (rel || (ord == 0 && p.so && hostDown s))) then
    completeMem i lanes ord (readyIn 4 s)
  else if reply then enqueue (.memoryReply s.cur none) (inFlight (.mem i lanes rel ord) s)
  else
    let d := memData i s
    let p : Pend := ⟨s.cur, i, lanes, d.1, d.2.1, 0, ord == 0⟩
    next (enqueue (.memoryReply s.cur (some 0)) (readyIn 3 { s with pend := s.pend ++ [p] }))

/-- R206: .REL and .AR are sent after the earlier accesses; anything but a plain access waits for its reply. -/
def ordRel : Ordn → Bool
  | .rel | .ar => true
  | _ => false

/-- R157, R212: an update of a host page that is not supported raises SEG with the VA. -/
def hostRefuses (i : Instr) (ks : List Nat) : Bool :=
  ks.any isHostPa && (match i with
    | .aadd .. | .axch .. | .acas .. => false
    | i => isRmw i)

/-- A store into window space (R209, R210): the gateway takes it, or the strand waits in WAITF. -/
def sendStore (i : Instr) (w off size : Nat) (bytes : List (Nat × Byte)) (s : State) : State :=
  match sendWindow (.strand s.cur) (myTile s).job s.cur.site w off size bytes false 0 s with
  | .stall => waitFor .waitf .cap i 0 s
  | .done _ s => next (readyIn 3 s)
/-- R185, R207: one annotated .REL leaves the tile after the strand's earlier accesses. -/
def storeWindow (i : Instr) (o : Ordn) (w off size : Nat) (bytes : List (Nat × Byte)) (s : State) : Res :=
  if ordRel o then afterAll i (fun s => .next (sendStore i w off size bytes s)) s else .next (sendStore i w off size bytes s)

/-- The shared shape of the instructions that access one place (R205 to R215). -/
def memOne (i : Instr) (g : Guard) (o : Ordn) (m : MemOp) (size align : Nat) (kind : AKind) (reply : Bool) (s : State) :
    Res :=
  guarded g s fun s =>
    let sg := memSeg s m
    match check s sg (memOffset s m) size align kind with
    | .error e => stopped i (kind != .load) e s
    | .ok a =>
      match access a size (kind != .load) sg s with
      | .error e => stopped i (kind != .load) e (accessWalked a size (kind != .load) s)
      | .ok x =>
        match x.place with
        | .win w off =>
          let d := (memData i s).1
          storeWindow i o w off size ((List.range size).map fun j => (off + j, d.extractLsb' (8 * j) 8)) x.st
        | .nowhere => .next (completeMem i [⟨0, a, []⟩] x.ord (readyIn 4 x.st))
        | .bytes ks =>
          if hostRefuses i ks then .next (raise .seg a x.st)
          else .next (startMem i [⟨0, a, ks⟩] x.ord (ordRel o) (reply || o != .plain) x.st)

end Sys2Proof.Machine
end

