-- ==== Sys2Proof/Machine/Queues.lean ====
section
/-!
DEFINITION. Class 8: the queue instructions (R288 to R297), and the end of HELD and the round edge as events.
-/

namespace Sys2Proof.Machine

/-- R288: the handle that an x register holds. -/
def regHandle (s : State) (a : XReg) : BitVec 32 := (rx s a).extractLsb' 0 32

/-- R261: HANDLE or QUEUE with TRAPADDR = the handle. -/
def badHandle (c : Cause) (h : BitVec 32) (s : State) : Res := .next (raise c (h.zeroExtend 64) s)

/-- R289: a handle of the issuing strand's cluster. -/
def clusterFail (s : State) (h : BitVec 32) : Option Cause :=
  match handleFail s (myTile s).job h with
  | some c => some c
  | none => if qcluster (qkeyOf h) = clusterOf s.cur.site then none else some .queue

/-! ### QDEF (R290) -/

/-- R290: the fields of a queue descriptor. -/
structure QDesc where
  esize  : Nat
  type   : Nat
  prio   : Nat
  stage  : Bool
  mcast  : Bool
  cap    : Nat
  flow   : Nat
  replay : Nat
  ring   : Word
  spill  : Nat
  spsize : Nat
  cbooth : Nat
  pbooth : Nat
  rsv    : Bool
  brs    : List (BitVec 32)

/-- R290: reads a descriptor of 512 bits; without MCAST the upper half is not part of it. -/
def QDesc.ofBits (d : BitVec 512) : QDesc where
  esize := fld d 0 2
  type := fld d 2 4
  prio := fld d 6 2
  stage := d.getLsbD 8
  mcast := d.getLsbD 9
  cap := fld d 16 17
  flow := fld d 33 17
  replay := fld d 50 13
  ring := d.extractLsb' 64 64
  spill := fld d 128 64
  spsize := fld d 192 32
  cbooth := fld d 224 16
  pbooth := fld d 240 16
  rsv := fld d 10 6 != 0 || d.getLsbD 63
  brs := if d.getLsbD 9 then ((List.range 8).map fun i => d.extractLsb' (256 + 32 * i) 32).filter (· != 0) else []

/-- R263: the entry size and ring slots. -/
def QDesc.size (d : QDesc) : Nat := 8 * 2 ^ d.esize
def QDesc.slots (d : QDesc) : Nat := if d.spill = 0 then d.cap else min d.cap (65536 / d.size)

/-- R290: the ring's tile and offset, if its address is local and well-formed. -/
def QDesc.ringAt (d : QDesc) (s : State) : Option (Nat × Nat) :=
  if tagOf d.ring < 2 then none else (localSite s s.cur.site d.ring).map fun t => (t, fld d.ring 0 18)

/-- R290: the free granted indices in the cluster of the ring, or for a head in the issuing strand's. -/
def QDesc.index (d : QDesc) (s : State) : Option Nat :=
  let cl := clusterOf (((d.ringAt s).map (·.1)).getD s.cur.site)
  ((getJob s (myTile s).job).queues.find? fun p =>
    qcluster p.1 == cl && (getQueue s p.1).st == .free).map (·.1)

/-- R290 reason 2: the ring of an ordinary queue is unfit. -/
def QDesc.ringBad (d : QDesc) (s : State) : Bool :=
  !d.mcast && match d.ringAt s with
    | none => true
    | some (t, off) =>
      (getTile s t).job != (myTile s).job || (d.cbooth != 0 && (getTile s t).booth != d.cbooth) ||
      decide (65536 < d.slots * d.size) || decide (0x3C000 < off + d.slots * d.size + (d.slots + 3) / 4)

/-- R290 reason 3. -/
def QDesc.fieldBad (d : QDesc) : Bool :=
  d.rsv || decide (10 ≤ d.type) || d.cap == 0 || decide (65536 < d.cap) || d.flow == 0 || decide (d.cap < d.flow) ||
  d.replay == 0 || decide (4096 < d.replay) || decide (d.spill % 4096 ≠ 0) || decide (2 ^ 57 ≤ d.spill) ||
  (d.spill == 0 && d.spsize != 0) ||
  (if d.mcast then d.ring != 0 else decide (d.ring.toNat % d.size ≠ 0))

/-- R290 reason 5: a head without a fit branch list. -/
def QDesc.branchBad (d : QDesc) (s : State) : Bool :=
  d.mcast && (d.brs == [] || d.brs.any fun h =>
    let q := getQueue s (qkeyOf h)
    (handleFail s (myTile s).job h).isSome || q.st != .open_ || q.branch || q.mcast || q.tail != q.head ||
      q.esize != d.esize)

/-- R290: the lowest-numbered reason, 0 for none. -/
def QDesc.reason (d : QDesc) (s : State) : Nat :=
  if (d.index s).isNone then 1
  else if d.ringBad s then 2
  else if d.fieldBad then 3
  else if d.spill ≠ 0 ∧ !(me s).priv then 4
  else if d.branchBad s then 5
  else 0

/-- R262, R290: the new table entry. -/
def QDesc.queue (d : QDesc) (job : BitVec 16) (gen ring : Nat) : Queue :=
  { Queue.free with
    st := .open_
    prio := d.prio
    type := d.type
    esize := d.esize
    mcast := d.mcast
    stage := d.stage
    gen := gen
    job := job
    cap := d.cap
    flow := d.flow
    replay := d.replay
    slots := d.slots
    ring := ring
    spill := d.spill
    spsize := d.spsize
    pbooth := d.pbooth
    cbooth := d.cbooth
    brs := d.brs }

/-- R290: defines a queue at an index; the branches of a head are marked. -/
def defineQueue (k : Nat) (d : QDesc) (job : BitVec 16) (ring : Nat) (s : State) : State :=
  let s := modQueue k (fun q => d.queue job (nextGen q) ring) s
  d.brs.foldl (fun s h => modQueue (qkeyOf h) (fun q => { q with branch := true }) s) s

/-- R290: what QDEF does with a descriptor that it has read. -/
def qdefWith (d : XReg) (q : QDesc) (s : State) : State :=
  let r := q.reason s
  if r ≠ 0 then next (wx d (BitVec.ofNat 64 (r * 2 ^ 32)) s)
  else match q.index s with
    | none => next (wx d (BitVec.ofNat 64 (2 ^ 32)) s)
    | some k =>
      let ring := ((q.ringAt s).map fun p => localKey p.1 p.2).getD 0
      let s := defineQueue k q (myTile s).job ring s
      next (wx d ((handleOf k (getQueue s k).gen).zeroExtend 64) s)

/-- QDEF (R290). -/
def execQdef (g : Guard) (d : XReg) (m : MemOp) (s : State) : Res :=
  let i : Instr := .qdef g d m
  guarded g s fun s =>
    match checkLocal s m 32 32 .load with
    | .error e => stopped i false e s
    | .ok a =>
      let s := drainFor s.cur (localKeys s a 64) false s
      let ks := localKeys s a 32
      let mc := (BitVec.ofNat 256 (readNat s ks)).getLsbD 9
      match (if mc then checkLocal s m 64 32 .load else .ok a) with
      | .error e => stopped i false e s
      | .ok a =>
        let ks := if mc then localKeys s a 64 else ks
        match poisonRead s ks with
        | some w => .next (raiseLate .uncorr (localAbs w) s)
        | none => .next (qdefWith d (QDesc.ofBits (BitVec.ofNat 512 (readNat s ks))) (releaseKilled s))

/-! ### QKILL (R291) -/

/-- Does a binding name one of these queues? -/
def bindsAny (hs : List (BitVec 32)) (b : Option Bind) : Bool :=
  match b with
  | some b => hs.contains b.handle
  | none => false

/-- R291: the ports of a strand bound to one of these queues are unbound. -/
def unbind (hs : List (BitVec 32)) (t : Strand) : Strand :=
  { t with ports := map4 (fun _ b => if bindsAny hs b then none else b) t.ports }

/-- R291: the strands that wait with an instruction that names one of these queues. -/
def killWaiters (qs : List Nat) (s : State) : List SRef :=
  inTickets (fun t => match t.wait with
    | some ⟨.queue q others, _, n, _⟩ => if qs.contains q || others.any qs.contains then some n else none
    | _ => none) s

/-- R261: the handle, among these, of a queue that the waiting instruction of a strand names: TRAPADDR of its QUEUE. -/
def waitedHandle (hs : List (BitVec 32)) (t : Strand) : BitVec 32 :=
  match t.wait with
  | some ⟨.queue q others, _, _, _⟩ => ((q :: others).findSome? fun k => hs.find? fun h => qkeyOf h == k).getD 0
  | _ => 0

/-- R271: the booths of a queue may pass an edge without it. -/
def edgesOf (q : Queue) (s : State) : State :=
  ([q.pbooth, q.cbooth, q.twinb].filter (· != 0)).foldl (fun s b => enqueue (.roundEdge q.job.toNat b) s) s

/-- R291: kills a queue and, for a head, its branches. The allocator releases the index as its next action, or once no waiter's
trap names it (R313, log entry 67). -/
def killQueue (h : BitVec 32) (s : State) : State :=
  let q := getQueue s (qkeyOf h)
  let ks := qkeyOf h :: q.brs.map qkeyOf
  let hs := h :: q.brs
  let wait := (killWaiters ks s).map fun e => (e, waitedHandle hs (getStrand s (skey e)))
  let old := ks.map fun k => getQueue s k
  let s := ks.foldl (fun s k => wakeQueue k s) s
  let s := { s with
    strands := s.strands.map fun p => if (getTile s (p.1 / 8)).job = q.job then (p.1, unbind hs p.2) else p
    slots := s.slots.map fun p => (p.1, { p.2 with ctx := p.2.ctx.map fun c => (unbind hs c.1, c.2) }) }
  let s := ks.foldl (fun s k =>
    modQueue k (fun q => { Queue.free with st := .killed, gen := q.gen, job := q.job }) s) s
  let e := s.cur
  let s := wait.foldl (fun s w => raiseAt .queue (getStrand s (skey w.1)).pc (w.2.zeroExtend 64) 2 (asStrand w.1 s)) s
  old.foldl (fun s q => edgesOf q s) (asStrand e s)

/-- QKILL (R291). -/
def execQkill (g : Guard) (a : XReg) (s : State) : Res :=
  guarded g s fun s =>
    let h := regHandle s a
    match clusterFail s h with
    | some c => badHandle c h s
    | none => if (getQueue s (qkeyOf h)).branch then badHandle .queue h s else .next (next (killQueue h s))

/-! ### QBIND (R266, R292) -/

/-- R292: a marker vector. -/
def vecOk (v : BitVec 32) : Bool := v == 0xFFFFFFFF || (v.toNat % 4 == 0 && decide (v.toNat ≤ 0x3FFF4))

/-- QBIND (R292). -/
def execQbind (g : Guard) (port : Fin 4) (a : XReg) (b : XOpnd) (s : State) : Res :=
  guarded g s fun s =>
    let h := regHandle s a
    let v := (rxo s b).extractLsb' 0 32
    match (if h = 0 then none else useFail s s.cur (port.val < 2) h) with
    | some c => badHandle c h s
    | none =>
      if port.val < 2 ∧ !vecOk v then .next (raise .addr (rxo s b) s)
      else .next (next (modMe (fun t =>
        { t with ports := t.ports.set port (if h = 0 then none else some ⟨h, v⟩) }) s))

/-! ### QPUSH, QPOP, QPEEK (R293 to R295) -/

/-- R293: the bytes of a DATA entry. -/
def pushBytes (s : State) (n : Nat) (b : XV) : List Byte :=
  match b with
  | .x r => natBytes 8 (rx s r).toNat
  | .v r => natBytes n (vGet (me s) r).toNat

/-- The predicate of a .TRY form. -/
def wTry (try_ : Option PReg) (v : Bool) (s : State) : State :=
  match try_ with
  | some p => wp p v s
  | none => s

/-- A .TRY form ends with its predicate 0; a blocking form waits on the queue. -/
def tryOrWait (i : Instr) (try_ : Option PReg) (q : Nat) (s : State) : State :=
  match try_ with
  | some p => next (wp p false s)
  | none => waitFor .waitq (.queue q []) i 0 s

/-- R293: pushes a DATA entry, or ends as the form says where the queue does not take it. -/
def pushData (i : Instr) (try_ : Option PReg) (k : Nat) (b : XV) (s : State) : State :=
  let by_ : Pusher := .strand (skey s.cur)
  let booth := (myTile s).booth
  let r := pushReady s k .data by_ booth
  if r.1 then next (wTry try_ true (push k .data (pushBytes s (entryBytes (getQueue s k)) b) by_ booth s))
  else tryOrWait i try_ k r.2

/-- QPUSH (R293): one annotated .REL is pushed after the strand's earlier accesses (R265). -/
def execQpush (g : Guard) (try_ : Option PReg) (rel : Bool) (a : XReg) (b : XV) (s : State) : Res :=
  guarded g s fun s =>
    let h := regHandle s a
    match useFail s s.cur false h with
    | some c => badHandle c h s
    | none =>
      let i : Instr := .qpush g try_ rel a b
      if rel then afterAll i (fun s => .next (pushData i try_ (qkeyOf h) b s)) s else .next (pushData i try_ (qkeyOf h) b s)

/-- R294: the entry bytes written to D. -/
def writeEntry (d : XV) (bs : List Byte) (s : State) : State :=
  match d with
  | .x r => wx r (BitVec.ofNat 64 (bytesNat (bs.take 8))) s
  | .v r => wv r (BitVec.ofNat 512 (bytesNat bs)) s

/-- R294: the kind register. -/
def kindWord (kind : QKind) (bs : List Byte) : Word :=
  if kind = .data then 0 else payload bs ++ fieldNat 30 0 ++ fieldNat 2 (kindCode kind)

/-- QPOP (R294): B = 0x00 (x0) names no kind register. -/
def execQpop (g : Guard) (try_ : Option PReg) (acq : Bool) (d : XV) (a b : XReg) (s : State) : Res :=
  guarded g s fun s =>
    let h := regHandle s a
    match useFail s s.cur true h with
    | some c => badHandle c h s
    | none =>
      let k := qkeyOf h
      let q := getQueue s k
      if !mayPop s k (skey s.cur) then .next (tryOrWait (.qpop g try_ acq d a b) try_ k s)
      else if (headEntry s q).1 ≠ .data ∧ b = 0 then .next (raiseLate .queue (h.zeroExtend 64) s)
      else match poisonRead s (ringKeys q q.head) with
        | some w => .next (raiseLate .uncorr (localAbs w) s)
        | none =>
          let (en, s) := pop k (if acq then acquireS s.cur s else s)
          let s := wTry try_ true (wx b (kindWord en.1 en.2) (writeEntry d en.2 s))
          .next (boundaryEdge (boothOf s s.cur.site) (setPc ((me s).pc + 12) s))

/-- QPEEK (R295). -/
def execQpeek (g : Guard) (try_ : Option PReg) (acq : Bool) (d : XV) (a b : XReg) (s : State) : Res :=
  guarded g s fun s =>
    let h := regHandle s a
    match useFail s s.cur true h with
    | some c => badHandle c h s
    | none =>
      let k := qkeyOf h
      let q := getQueue s k
      if !mayPop s k (skey s.cur) then .next (tryOrWait (.qpeek g try_ acq d a b) try_ k s)
      else match poisonRead s (ringKeys q q.head) with
        | some w => .next (raiseLate .uncorr (localAbs w) s)
        | none =>
          let en := headEntry s q
          let s := if acq then acquireS s.cur s else s
          .next (next (wTry try_ true (wx b (kindWord en.1 en.2) (writeEntry d en.2 s))))

/-! ### QMARK and QSTAT (R296, R297) -/

/-- R296: pushes the marker and ends the instruction; the output so marked may let the booth pass an edge. -/
def pushMark (i : Instr) (k : Nat) (kind : QKind) (pl : Word) (s : State) : State :=
  let booth := (myTile s).booth
  let r := pushReady s k kind (.strand (skey s.cur)) booth
  if r.1 then
    let s := push k kind (natBytes 4 pl.toNat) (.strand (skey s.cur)) booth s
    boundaryEdge (boothOf s s.cur.site) (setPc ((me s).pc + 12) s)
  else waitFor .waitq (.queue k []) i 0 r.2

/-- QMARK (R296). -/
def execQmark (g : Guard) (kind : QKind) (a : HPort) (b : XOpnd) (s : State) : Res :=
  let i : Instr := .qmark g kind a b
  guarded g s fun s =>
    match a with
    | .oq n =>
      (match portFail s [] [n] with
        | some (c, w) => .next (raise c w s)
        | none => .next (pushMark i (oqKey s n) kind (rxo s b) s))
    | .x r =>
      let h := regHandle s r
      match useFail s s.cur false h with
      | some c => badHandle c h s
      | none => .next (pushMark i (qkeyOf h) kind (rxo s b) s)

def qstateCode : QState → Nat
  | .free => 0 | .open_ => 1 | .held => 2 | .killed => 3

/-- R262: bits [63:0] of a table entry. -/
def entryLow (q : Queue) : Word :=
  BitVec.ofNat 64 (qstateCode q.st + q.prio * 2 ^ 2 + q.type * 2 ^ 4 + q.esize * 2 ^ 8 + b2n q.mcast * 2 ^ 10 +
    b2n q.twin * 2 ^ 11 + b2n q.branch * 2 ^ 12 + b2n q.stage * 2 ^ 13 + q.gen % 2 ^ 16 * 2 ^ 16 +
    q.job.toNat * 2 ^ 32)

/-- R297: the value that QSTAT writes for the queue with key `k`. The kind of a HEAD entry in the spill area is read from
its header; one whose page cannot be read is not visible (log entry 68). -/
def qstatValue (s : State) (k : Nat) (sel : QSel) : Word :=
  let q := getQueue s k
  let ks := if q.mcast then q.brs.map qkeyOf else [k]
  let brs := ks.map fun b => getQueue s b
  let k0 := ks.headD k
  let q0 := getQueue s k0
  match sel with
  | .ent => entryLow q
  | .depth => BitVec.ofNat 64 ((brs.map fun b => b.commit - b.head).foldl max 0)
  | .space =>
    let sp := brs.map fun b => b.cap - (b.tail - b.keep)
    BitVec.ofNat 64 (sp.foldl min (sp.headD 0))
  | .cnt => BitVec.ofNat 32 q0.tail ++ BitVec.ofNat 32 q0.head
  | .cmt => BitVec.ofNat 32 q0.commit ++ BitVec.ofNat 32 q0.keep
  | .headk => if q0.head = q0.commit then 4 else match readEntry k0 q0 q0.head s with
    | some en => BitVec.ofNat 64 (kindCode en.1)
    | none => 4

/-- QSTAT (R297). -/
def execQstat (g : Guard) (sel : QSel) (d a : XReg) (s : State) : Res :=
  guarded g s fun s =>
    let h := regHandle s a
    match clusterFail s h with
    | some c => badHandle c h s
    | none => .next (next (wx d (qstatValue s (qkeyOf h) sel) s))

/-! ### Events -/

/-- R275, R276: the bytes of `k` spilled entries from `n` on and their poison (R178), as the area is laid out now, with the state
after the walks; none if one of them cannot be read. -/
def spillRead (qk : Nat) (q : Queue) : Nat → Nat → State → Option (List (Nat × List Byte × List Bool) × State)
  | 0, _, s => some ([], s)
  | k + 1, n, s =>
    match spillAccess qk q n false s with
    | .ok ⟨.bytes ks, _, t⟩ => (spillRead qk q k (n + 1) t).map fun r => ((n, readKeys t ks, taintOf ks t) :: r.1, r.2)
    | _ => none
/-- The same entries written as the area `q` lays them out; none if one of them cannot be written. -/
def spillWrite (qk : Nat) (q : Queue) : List (Nat × List Byte × List Bool) → State → Option State
  | [], s => some s
  | (n, bs, bad) :: r, s =>
    match spillAccess qk q n true s with
    | .ok ⟨.bytes ks, _, t⟩ => spillWrite qk q r (putTaint ks bad (writeBytes (ks.zip bs) t))
    | _ => none

/-- R275, R276: the spill area of a queue is `size` units of 4 KiB from now on, and the spilled entries stand where the new
size places them (log entry 69); none where the pages do not admit it. -/
def resizeSpill (qk size : Nat) (s : State) : Option State :=
  let q := getQueue s qk
  if size ≤ q.spsize then some s
  else
    let q' := { q with spsize := size }
    match spillRead qk q q.spilled (q.tail - q.spilled) s with
    | none => none
    | some r => (spillWrite qk q' r.1 r.2).map (modQueue qk fun q => { q with spsize := size })

/-- R276: the pager has got more space from the allocator for the full spill area of a HELD queue. -/
def enlargeSpill (q size : Nat) (s : State) : State :=
  if (getQueue s q).st = .held ∧ (getQueue s q).spill ≠ 0 ∧ size < 2 ^ 32 then (resizeSpill q size s).getD s else s

/-- QUEUE_HELD_END (R276): the pager writes STATE back to OPEN, and the waiting pushes proceed. The queues of a frozen job
stand still (R373). -/
def execQueueHeldEnd (q : Nat) (s : State) : Res :=
  if roleHeld s (qcluster q / 8) 1 then .next (enqueueOnce (.queueHeldEnd q) s)
  else if (getQueue s q).st = .held ∧ !(getJob s (getQueue s q).job).frozen then
    let h := handleOf q (getQueue s q).gen
    let s := takeFault (qcluster q / 8) (fun r => fld r 96 12 == 0x500 + qcluster q % 8 && r.extractLsb' 160 32 == h) s
    let s := modQueue q (fun q => { q with st := .open_ }) s
    let s := refill q (getQueue s q).spilled s
    .next (wakeQueue q (if (getQueue s q).twin then enqueue (.twinCompare q) s else s))
  else .next s

/-- ROUND_EDGE (R271, R272): the booth passes an edge if its inputs and outputs admit one. -/
def execRoundEdge (job booth : Nat) (s : State) : Res := .next (tryEdge (65536 * job + booth) s)

end Sys2Proof.Machine
end

