-- ==== Sys2Proof/Machine/Scalar.lean ====
section
/-!
DEFINITION. Class 2: integer and address instructions (R102 to R109).
-/

namespace Sys2Proof.Machine

/-- R103. -/
def divS (a b : Word) : Word := if b = 0 then BitVec.allOnes 64 else BitVec.ofInt 64 (a.toInt.tdiv b.toInt)
/-- R103. -/
def remS (a b : Word) : Word := if b = 0 then a else BitVec.ofInt 64 (a.toInt.tmod b.toInt)
/-- R103. -/
def divU (a b : Word) : Word := if b = 0 then BitVec.allOnes 64 else BitVec.ofNat 64 (a.toNat / b.toNat)
/-- R103. -/
def remU (a b : Word) : Word := if b = 0 then a else BitVec.ofNat 64 (a.toNat % b.toNat)
/-- R102: bits [127:64] of the signed product. -/
def mulHighS (a b : Word) : Word := BitVec.ofInt 64 (a.toInt * b.toInt / 2 ^ 64)
/-- R102: bits [127:64] of the unsigned product. -/
def mulHighU (a b : Word) : Word := BitVec.ofNat 64 (a.toNat * b.toNat / 2 ^ 64)
/-- R102: the shift amount b[5:0]. -/
def shAmt (b : Word) : Nat := fld b 0 6

/-- R104: the number of zero bits above the highest set bit. -/
def countLead (a : Word) : Nat := if a = 0 then 64 else 63 - a.toNat.log2
/-- R104: the number of zero bits below the lowest set bit. -/
def countTrail (a : Word) : Nat := ((List.range 64).find? fun i => a.getLsbD i).getD 64
/-- R104: the number of set bits. -/
def countOnes (a : Word) : Nat := ((List.range 64).filter fun i => a.getLsbD i).length

/-- R106: lsb and the width of the field, cut off at bit 63. -/
def fieldOf (b : Word) : Nat × Nat :=
  let lsb := fld b 0 6
  (lsb, min (lsb + (fld b 6 6 + 1)) 64 - lsb)
/-- R106: EXTU. -/
def extractU (a b : Word) : Word := BitVec.ofNat 64 (fld a (fieldOf b).1 (fieldOf b).2)
/-- R106: EXT. -/
def extractS (a b : Word) : Word := sextNat (fieldOf b).2 (fld a (fieldOf b).1 (fieldOf b).2)
/-- R106: INS. -/
def insertField (d a b : Word) : Word :=
  let (lsb, w) := fieldOf b
  let mask : Word := BitVec.ofNat 64 ((2 ^ w - 1) * 2 ^ lsb)
  (d &&& ~~~mask) ||| ((a <<< lsb) &&& mask)

/-- R109: a relative local address made absolute, none where it raises ADDR; a faulting
conversion pops nothing. -/
def toAbsolute (s : State) (a : Word) : Option Word :=
  if tagOf a ≠ 3 then some a
  else (localSite s s.cur.site a).map fun t =>
    BitVec.ofNat 64 (2 ^ 63 + ylOf t * 2 ^ 21 + xlOf t * 2 ^ 18 + fld a 0 18)

/-- R109: an absolute local address made relative, none where it raises ADDR. -/
def toRelative (s : State) (a : Word) : Option Word :=
  if tagOf a ≠ 2 then some a
  else match localSite s s.cur.site a with
    | none => none
    | some t =>
      let dy : Int := (ylOf t : Int) - ylOf s.cur.site
      let dx : Int := (xlOf t : Int) - xlOf s.cur.site
      if dy < -8 ∨ 7 < dy ∨ dx < -4 ∨ 3 < dx then none
      else some (3#2 ++ 0#37 ++ BitVec.ofInt 4 dy ++ BitVec.ofInt 3 dx ++ a.extractLsb' 0 18)

/-- R109: the shared shape of CADDR and CREL. -/
def convAddr (i : Instr) (g : Guard) (d : Dst) (a : Src) (f : State → Word → Option Word) (s : State) : Res :=
  guarded g s fun s => gate i (srcPorts a) (dstPorts d) .data s fun v s' =>
    match f s' (srcVal v s' a) with
    | some r => .next (retire d r s')
    | none => .next (raise .addr (srcVal v s' a) s)

/-- ADD (R102). -/
def execAdd (g : Guard) (d : Dst) (a : Src) (b : Opnd) (s : State) : Res :=
  alu2 (.add g d a b) g d a b (fun x y => x + y) s

/-- SUB (R102). -/
def execSub (g : Guard) (d : Dst) (a : Src) (b : Opnd) (s : State) : Res :=
  alu2 (.sub g d a b) g d a b (fun x y => x - y) s

/-- MUL (R102). -/
def execMul (g : Guard) (d : Dst) (a : Src) (b : Opnd) (s : State) : Res :=
  alu2 (.mul g d a b) g d a b (fun x y => x * y) s

/-- MULH (R102). -/
def execMulh (g : Guard) (d : Dst) (a : Src) (b : Opnd) (s : State) : Res :=
  alu2 (.mulh g d a b) g d a b mulHighS s

/-- MULHU (R102). -/
def execMulhu (g : Guard) (d : Dst) (a : Src) (b : Opnd) (s : State) : Res :=
  alu2 (.mulhu g d a b) g d a b mulHighU s

/-- DIV (R103). -/
def execDiv (g : Guard) (d : Dst) (a : Src) (b : Opnd) (s : State) : Res :=
  alu2 (.div g d a b) g d a b divS s

/-- DIVU (R103). -/
def execDivu (g : Guard) (d : Dst) (a : Src) (b : Opnd) (s : State) : Res :=
  alu2 (.divu g d a b) g d a b divU s

/-- REM (R103). -/
def execRem (g : Guard) (d : Dst) (a : Src) (b : Opnd) (s : State) : Res :=
  alu2 (.rem g d a b) g d a b remS s

/-- REMU (R103). -/
def execRemu (g : Guard) (d : Dst) (a : Src) (b : Opnd) (s : State) : Res :=
  alu2 (.remu g d a b) g d a b remU s

/-- AND (R102). -/
def execAnd (g : Guard) (d : Dst) (a : Src) (b : Opnd) (s : State) : Res :=
  alu2 (.and g d a b) g d a b (fun x y => x &&& y) s

/-- OR (R102). -/
def execOr (g : Guard) (d : Dst) (a : Src) (b : Opnd) (s : State) : Res :=
  alu2 (.or g d a b) g d a b (fun x y => x ||| y) s

/-- XOR (R102). -/
def execXor (g : Guard) (d : Dst) (a : Src) (b : Opnd) (s : State) : Res :=
  alu2 (.xor g d a b) g d a b (fun x y => x ^^^ y) s

/-- ANDN (R102). -/
def execAndn (g : Guard) (d : Dst) (a : Src) (b : Opnd) (s : State) : Res :=
  alu2 (.andn g d a b) g d a b (fun x y => x &&& ~~~y) s

/-- SHL (R102). -/
def execShl (g : Guard) (d : Dst) (a : Src) (b : Opnd) (s : State) : Res :=
  alu2 (.shl g d a b) g d a b (fun x y => x <<< shAmt y) s

/-- SHR (R102). -/
def execShr (g : Guard) (d : Dst) (a : Src) (b : Opnd) (s : State) : Res :=
  alu2 (.shr g d a b) g d a b (fun x y => x >>> shAmt y) s

/-- SAR (R102). -/
def execSar (g : Guard) (d : Dst) (a : Src) (b : Opnd) (s : State) : Res :=
  alu2 (.sar g d a b) g d a b (fun x y => x.sshiftRight (shAmt y)) s

/-- ROL (R102). -/
def execRol (g : Guard) (d : Dst) (a : Src) (b : Opnd) (s : State) : Res :=
  alu2 (.rol g d a b) g d a b (fun x y => x.rotateLeft (shAmt y)) s

/-- MIN (R102). -/
def execMin (g : Guard) (d : Dst) (a : Src) (b : Opnd) (s : State) : Res :=
  alu2 (.min g d a b) g d a b (fun x y => if y.slt x then y else x) s

/-- MAX (R102). -/
def execMax (g : Guard) (d : Dst) (a : Src) (b : Opnd) (s : State) : Res :=
  alu2 (.max g d a b) g d a b (fun x y => if x.slt y then y else x) s

/-- MINU (R102). -/
def execMinu (g : Guard) (d : Dst) (a : Src) (b : Opnd) (s : State) : Res :=
  alu2 (.minu g d a b) g d a b (fun x y => if y.ult x then y else x) s

/-- MAXU (R102). -/
def execMaxu (g : Guard) (d : Dst) (a : Src) (b : Opnd) (s : State) : Res :=
  alu2 (.maxu g d a b) g d a b (fun x y => if x.ult y then y else x) s

/-- EXT (R106). -/
def execExt (g : Guard) (d : Dst) (a : Src) (b : Opnd) (s : State) : Res :=
  alu2 (.ext g d a b) g d a b extractS s

/-- EXTU (R106). -/
def execExtu (g : Guard) (d : Dst) (a : Src) (b : Opnd) (s : State) : Res :=
  alu2 (.extu g d a b) g d a b extractU s

/-- CLZ (R104). -/
def execClz (g : Guard) (d : Dst) (a : Src) (s : State) : Res :=
  alu1 (.clz g d a) g d a (fun x => BitVec.ofNat 64 (countLead x)) s

/-- CTZ (R104). -/
def execCtz (g : Guard) (d : Dst) (a : Src) (s : State) : Res :=
  alu1 (.ctz g d a) g d a (fun x => BitVec.ofNat 64 (countTrail x)) s

/-- POPC (R104). -/
def execPopc (g : Guard) (d : Dst) (a : Src) (s : State) : Res :=
  alu1 (.popc g d a) g d a (fun x => BitVec.ofNat 64 (countOnes x)) s

/-- BREV (R104). -/
def execBrev (g : Guard) (d : Dst) (a : Src) (s : State) : Res :=
  alu1 (.brev g d a) g d a BitVec.reverse s

/-- MOV (R104). -/
def execMov (g : Guard) (d : Dst) (a : Src) (s : State) : Res :=
  alu1 (.mov g d a) g d a (fun x => x) s

/-- MOVI (R64, R105). -/
def execMovi (g : Guard) (d : Dst) (v : BitVec 48) (s : State) : Res :=
  guarded g s fun s => gate (.movi g d v) [] (dstPorts d) .data s fun _ s =>
    .next (retire d (v.signExtend 64) s)

/-- INS (R106): D is read as well as written. -/
def execIns (g : Guard) (d : XReg) (a : Src) (b : Opnd) (s : State) : Res :=
  alu2 (.ins g d a b) g (.x d) a b (fun x y => insertField (rx s d) x y) s

/-- SEL (R107). -/
def execSel (g : Guard) (pn : PReg) (d : Dst) (a : Src) (b : Opnd) (s : State) : Res :=
  alu2 (.sel g pn d a b) g d a b (fun x y => if pGet (me s) pn then x else y) s

/-- LEA (R108, R158, R159): the limit check as for one byte, then Form. -/
def execLea (g : Guard) (d : Dst) (m : MemOp) (s : State) : Res :=
  guarded g s fun s =>
    let sg := memSeg s m
    let off := memOffset s m
    if segLimit sg ≤ off.toNat then .next (raise .seg off s)
    else match form s s.cur.site (me s).priv (segBase sg) off.toNat 1 with
      | none => .next (raise .addr (segBase sg + off) s)
      | some a => gate (.lea g d m) [] (dstPorts d) .data s fun _ s => .next (retire d a s)

/-- CADDR (R109). -/
def execCaddr (g : Guard) (d : Dst) (a : Src) (s : State) : Res := convAddr (.caddr g d a) g d a toAbsolute s

/-- CREL (R109). -/
def execCrel (g : Guard) (d : Dst) (a : Src) (s : State) : Res := convAddr (.crel g d a) g d a toRelative s

end Sys2Proof.Machine
end

