-- ==== Sys2Proof/Machine/Memory.lean ====
section
/-!
DEFINITION. Classes 5 and 6: loads, stores, atomics and fences (R205 to R217), and the completion of a fence and
the report of poison.
-/

namespace Sys2Proof.Machine

/-- R206: the alignment of a plain or annotated access. -/
def alignOf (o : Ordn) (n : Nat) : Nat := if o = .plain then 1 else n

/-- LD (R208). -/
def execLd (g : Guard) (h : Hint) (sz : Size) (sgn : Bool) (o : Ordn) (d : XReg) (m : MemOp) (s : State) : Res :=
  memOne (.ld g h sz sgn o d m) g o m (sizeBytes sz) (alignOf o (sizeBytes sz)) .load true s

/-- ST (R209). -/
def execSt (g : Guard) (h : Hint) (sz : Size) (o : Ordn) (d : XReg) (m : MemOp) (s : State) : Res :=
  memOne (.st g h sz o d m) g o m (sizeBytes sz) (alignOf o (sizeBytes sz)) .store false s

/-- STN (R212): window space raises WINDOW, since reflection carries whole bytes only. A segment with LIMIT = 0 raises SEG first,
and WINDOW comes before the other steps of `check` (log entry 92). -/
def execStn (g : Guard) (h : Hint) (hi : Bool) (o : Ordn) (d : XReg) (m : MemOp) (s : State) : Res :=
  if guardVal g s ∧ segLimit (memSeg s m) ≠ 0 ∧ tagOf (segBase (memSeg s m)) = 1 then
    .next (raise .window (segBase (memSeg s m) + memOffset s m) s)
  else memOne (.stn g h hi o d m) g o m 1 1 .store false s

/-! ### Vector loads and stores (R210, R211) -/

/-- R210: the active lanes of a 64-byte access, from the keys of its bytes. -/
def activeLanes (n : Nat) (a : Word) (mask : Word) (ks : List Nat) : List Lane :=
  ((List.range (64 / n)).filter fun i => mask.getLsbD i).map fun i =>
    ⟨i, a + BitVec.ofNat 64 (n * i), (ks.drop (n * i)).take n⟩

/-- R210: the shape of LDV and STV: Check and translation of the whole 64 bytes, access to the active lanes. -/
def memVec (i : Instr) (g : Guard) (sz : Size) (o : Ordn) (mk : KReg) (m : MemOp) (load : Bool) (s : State) : Res :=
  guarded g s fun s =>
    let sg := memSeg s m
    let n := sizeBytes sz
    let mask := kGet (me s) mk
    match check s sg (memOffset s m) 64 (alignOf o 64) (if load then .load else .store) with
    | .error e => stopped i (!load) e s
    | .ok a =>
      match access a 64 (!load) sg s with
      | .error e => stopped i (!load) e (accessWalked a 64 (!load) s)
      | .ok x =>
        match x.place with
        | .win w off =>
          let v := (memData i s).2.1
          let bytes := ((List.range 64).filter fun j => mask.getLsbD (j / n)).map fun j =>
            (off + j, v.extractLsb' (8 * j) 8)
          storeWindow i o w off 64 bytes x.st
        | .nowhere => .next (completeMem i (activeLanes n a mask []) x.ord (readyIn 4 x.st))
        | .bytes ks => .next (startMem i (activeLanes n a mask ks) x.ord (ordRel o) (load || o != .plain) x.st)

/-- LDV (R210). -/
def execLdv (g : Guard) (h : Hint) (sz : Size) (o : Ordn) (mk : KReg) (d : VReg) (m : MemOp) (s : State) : Res :=
  memVec (.ldv g h sz o mk d m) g sz o mk m true s

/-- STV (R210). -/
def execStv (g : Guard) (h : Hint) (sz : Size) (o : Ordn) (mk : KReg) (d : VReg) (m : MemOp) (s : State) : Res :=
  memVec (.stv g h sz o mk d m) g sz o mk m false s

/-- R211: the offset of element `i`. -/
def elemOffset (s : State) (m : MemOp) (b : VReg) (n : Nat) (scl : Bool) (i : Nat) : Word :=
  memOffset s m + sextNat (8 * n) (laneGet (8 * n) (vGet (me s) b) i) * (if scl then BitVec.ofNat 64 n else 1)

/-- R211: the addresses of the active elements in ascending order, or the first failing lane. -/
def elemAddrs (s : State) (sg : BitVec 128) (m : MemOp) (b : VReg) (n align : Nat) (scl : Bool) (kind : AKind) :
    List Nat → Except Stop (List (Nat × Word))
  | [] => .ok []
  | i :: r =>
    match check s sg (elemOffset s m b n scl i) n align kind with
    | .error e => .error e
    | .ok a => match elemAddrs s sg m b n align scl kind r with
      | .error e => .error e
      | .ok l => .ok ((i, a) :: l)

/-- R171: every active element translated, in element order: its lane, its place and its order kind. -/
def elemPlaces (sg : BitVec 128) (n : Nat) (store : Bool) :
    List (Nat × Word) → State → Except Stop (List (Lane × Place × Nat) × State)
  | [], s => .ok ([], s)
  | (i, a) :: r, s =>
    match access a n store sg s with
    | .error e => .error e
    | .ok x =>
      let ks := match x.place with | .bytes ks => ks | _ => []
      match elemPlaces sg n store r x.st with
      | .error e => .error e
      | .ok (l, s') => .ok ((⟨i, a, ks⟩, x.place, x.ord) :: l, s')

/-- R168: the state that `elemPlaces` leaves where it stops. -/
def elemWalked (sg : BitVec 128) (n : Nat) (store : Bool) : List (Nat × Word) → State → State
  | [], s => s
  | (_, a) :: r, s =>
    match access a n store sg s with
    | .error _ => accessWalked a n store s
    | .ok x => elemWalked sg n store r x.st

/-- R211: sends the elements of a SCAT into window space from element `from_` on, which is 0 while none is sent; the strand
waits with the next unsent element, or with 0 while none is sent, when the gateway stops it. -/
def scatterWindow (i : Instr) (n : Nat) (from_ : Nat) : List (Lane × Place × Nat) → State → State
  | [], s => next (readyIn 3 s)
  | (ln, p, _) :: r, s =>
    match p with
    | .win w off =>
      if ln.lane < from_ then scatterWindow i n from_ r s
      else
        let bytes := (storeLane i 0 (memData i s).2.1 { ln with keys := keysFrom off n })
        match sendWindow (.strand s.cur) (myTile s).job s.cur.site w off n bytes false 0 s with
        | .stall => waitFor .waitf .cap i (if from_ = 0 then 0 else ln.lane) s
        | .done _ s => scatterWindow i n (ln.lane + 1) r s
    | _ => scatterWindow i n from_ r s

/-- The next unsent element of a SCAT that continues. -/
def nextElem (s : State) : Nat := ((me s).wait.map (·.next)).getD 0

/-- R207: a plain SCAT hands off its elements, each an access of its own. -/
def handOffLanes (i : Instr) (l : List (Lane × Place × Nat)) (s : State) : State :=
  let v := (memData i s).2.1
  let s := l.foldl (fun s p =>
    enqueue (.memoryReply s.cur (some 0)) { s with pend := s.pend ++ [⟨s.cur, i, [p.1], 0, v, 0, p.2.2 == 0⟩] }) s
  next (readyIn 3 s)

/-- R182: the order kind of the elements of one access: SO if one of them is, else UN if all are. -/
def elemOrd (l : List (Lane × Place × Nat)) : Nat :=
  if l.any (·.2.2 == 0) then 0 else if l != [] && l.all (·.2.2 == 2) then 2 else 1

/-- R211: the shape of GATH and SCAT. -/
def memGather (i : Instr) (g : Guard) (sz : Size) (scl : Bool) (o : Ordn) (mk : KReg) (m : MemOp) (b : VReg)
    (load : Bool) (s : State) : Res :=
  guarded g s fun s =>
    let sg := memSeg s m
    let n := sizeBytes sz
    let mask := kGet (me s) mk
    let act := (List.range (64 / n)).filter fun j => mask.getLsbD j
    match elemAddrs s sg m b n (alignOf o n) scl (if load then .load else .store) act with
    | .error e => stopped i (!load) e s
    | .ok addrs =>
      match elemPlaces sg n (!load) addrs s with
      | .error e => stopped i (!load) e (elemWalked sg n (!load) addrs s)
      | .ok (l, s') =>
        let ks := l.flatMap fun p => p.1.keys
        if tagOf (segBase sg) = 1 then
          let send (s : State) : Res := .next (scatterWindow i n (nextElem s) l s)
          if ordRel o ∧ nextElem s' = 0 then afterAll i send s' else send s'
        else if load ∨ o ≠ .plain ∨ ownTile s' ks then
          .next (startMem i (l.map (·.1)) (elemOrd l) (ordRel o) true s')
        else .next (handOffLanes i l s')

/-- GATH (R211). -/
def execGath (g : Guard) (h : Hint) (sz : Size) (scl : Bool) (o : Ordn) (mk : KReg) (d : VReg) (m : MemOp) (b : VReg)
    (s : State) : Res :=
  memGather (.gath g h sz scl o mk d m b) g sz scl o mk m b true s

/-- SCAT (R211). -/
def execScat (g : Guard) (h : Hint) (sz : Size) (scl : Bool) (o : Ordn) (mk : KReg) (d : VReg) (m : MemOp) (b : VReg)
    (s : State) : Res :=
  memGather (.scat g h sz scl o mk d m b) g sz scl o mk m b false s

/-! ### Atomics (R213 to R216) -/

/-- The shape of the atomics. -/
def memAtomic (i : Instr) (g : Guard) (n : Nat) (o : Ordn) (nr : Bool) (m : MemOp) (s : State) : Res :=
  memOne i g o m n n .atomic (!nr) s

/-- AADD (R214). -/
def execAadd (g : Guard) (h : Hint) (sz : Size) (o : Ordn) (d : Option XReg) (m : MemOp) (b : XReg) (s : State) : Res :=
  memAtomic (.aadd g h sz o d m b) g (sizeBytes sz) o d.isNone m s

/-- AAND (R214). -/
def execAand (g : Guard) (h : Hint) (sz : Size) (o : Ordn) (d : Option XReg) (m : MemOp) (b : XReg) (s : State) : Res :=
  memAtomic (.aand g h sz o d m b) g (sizeBytes sz) o d.isNone m s

/-- AOR (R214). -/
def execAor (g : Guard) (h : Hint) (sz : Size) (o : Ordn) (d : Option XReg) (m : MemOp) (b : XReg) (s : State) : Res :=
  memAtomic (.aor g h sz o d m b) g (sizeBytes sz) o d.isNone m s

/-- AXOR (R214). -/
def execAxor (g : Guard) (h : Hint) (sz : Size) (o : Ordn) (d : Option XReg) (m : MemOp) (b : XReg) (s : State) : Res :=
  memAtomic (.axor g h sz o d m b) g (sizeBytes sz) o d.isNone m s

/-- AMIN (R214). -/
def execAmin (g : Guard) (h : Hint) (sz : Size) (o : Ordn) (d : Option XReg) (m : MemOp) (b : XReg) (s : State) : Res :=
  memAtomic (.amin g h sz o d m b) g (sizeBytes sz) o d.isNone m s

/-- AMAX (R214). -/
def execAmax (g : Guard) (h : Hint) (sz : Size) (o : Ordn) (d : Option XReg) (m : MemOp) (b : XReg) (s : State) : Res :=
  memAtomic (.amax g h sz o d m b) g (sizeBytes sz) o d.isNone m s

/-- AMINU (R214). -/
def execAminu (g : Guard) (h : Hint) (sz : Size) (o : Ordn) (d : Option XReg) (m : MemOp) (b : XReg) (s : State) : Res :=
  memAtomic (.aminu g h sz o d m b) g (sizeBytes sz) o d.isNone m s

/-- AMAXU (R214). -/
def execAmaxu (g : Guard) (h : Hint) (sz : Size) (o : Ordn) (d : Option XReg) (m : MemOp) (b : XReg) (s : State) : Res :=
  memAtomic (.amaxu g h sz o d m b) g (sizeBytes sz) o d.isNone m s

/-- AXCH (R214). -/
def execAxch (g : Guard) (h : Hint) (sz : Size) (o : Ordn) (d : Option XReg) (m : MemOp) (b : XReg) (s : State) : Res :=
  memAtomic (.axch g h sz o d m b) g (sizeBytes sz) o d.isNone m s

/-- R214: the size of a float atomic. -/
def floatBytes (f : Fmt) : Nat := f.width / 8

/-- AFADD (R214). -/
def execAfadd (g : Guard) (h : Hint) (f : Fmt) (o : Ordn) (d : Option XReg) (m : MemOp) (b : XReg) (s : State) : Res :=
  memAtomic (.afadd g h f o d m b) g (floatBytes f) o d.isNone m s

/-- AFMIN (R214). -/
def execAfmin (g : Guard) (h : Hint) (f : Fmt) (o : Ordn) (d : Option XReg) (m : MemOp) (b : XReg) (s : State) : Res :=
  memAtomic (.afmin g h f o d m b) g (floatBytes f) o d.isNone m s

/-- AFMAX (R214). -/
def execAfmax (g : Guard) (h : Hint) (f : Fmt) (o : Ordn) (d : Option XReg) (m : MemOp) (b : XReg) (s : State) : Res :=
  memAtomic (.afmax g h f o d m b) g (floatBytes f) o d.isNone m s

/-- ACAS (R191, R215). -/
def execAcas (g : Guard) (h : Hint) (sz : Size) (o : Ordn) (d : XReg) (m : MemOp) (b : XReg) (s : State) : Res :=
  memAtomic (.acas g h sz o d m b) g (sizeBytes sz) o false m s

/-! ### Fences (R187 to R189, R217) -/

/-- R188: the commands of an engine that may still write. A fence waits neither for a command's completion entry nor for the
acknowledgements of its window stores: the command at the head has done its writes once its outcome stands and, for a drain,
its lines are written. -/
def carterWriting (c : Carter) : List CarterCmd := if c.cls.isSome && c.lines == [] then c.queue.drop 1 else c.queue
def cellarWriting (c : Cellar) : List CellarCmd := if c.entry.isSome then c.queue.drop 1 else c.queue
def loomWriting (l : Loom) : List LoomCmd :=
  l.queues.flatMap fun q => if l.pushing.any (·.1 == q.1) && tget [] l.lines q.1 == [] then q.2.drop 1 else q.2

/-- R188, R189, R217: does strand `e` still wait for a write that the fence names? A scope that is too narrow
for an engine class orders nothing toward it. -/
def fenceWaits (s : State) (e : SRef) (o : Ordn) (mask : BitVec 6) (scope : BitVec 3) : Bool :=
  let rel := o != .acq
  (mask.getLsbD 0 && s.pend.any (·.e == e)) ||
  (rel && mask.getLsbD 1 && decide (1 ≤ scope.toNat) && s.carters.any fun p => (carterWriting p.2).any (·.e == e)) ||
  (rel && mask.getLsbD 2 && decide (1 ≤ scope.toNat) && s.looms.any fun p => (loomWriting p.2).any (·.e == e)) ||
  (rel && mask.getLsbD 3 && decide (3 ≤ scope.toNat) && s.cellars.any fun p => (cellarWriting p.2).any (·.e == e))

/-- Strands that wait at a fence look again. -/
def wakeFences (s : State) : State :=
  let es := s.strands.filterMap fun p => match p.2.wait with
    | some ⟨.fence _, _, _, _⟩ => some (Instr.fenceComplete (srefOf p.1))
    | _ => none
  { s with internal := s.internal ++ es }

/-- R189: the fence of the executing strand completes: one that is no FENCE.REL orders the writes of the paths named before
the strand's later accesses. -/
def endFence (o : Ordn) (mask : BitVec 6) (scope : BitVec 3) (s : State) : State :=
  next (if o = .rel then s else acquire s.cur (fenceNames mask scope.toNat s.cur) s)

/-- FENCE (R187 to R189, R217). -/
def execFence (g : Guard) (o : Ordn) (mask : BitVec 6) (scope : BitVec 3) (s : State) : Res :=
  guarded g s fun s =>
    if fenceWaits s s.cur o mask scope then
      .next (enqueue (.fenceComplete s.cur) (waitFor .waitf (.fence s.cur) (.fence g o mask scope) 0 s))
    else .next (endFence o mask scope s)

/-- FENCE_COMPLETE (R188): the awaited acknowledgements have arrived. -/
def execFenceComplete (e : SRef) (s : State) : Res :=
  match (getStrand s (skey e)).wait with
  | some ⟨.fence of_, .fence _ o mask scope, _, _⟩ =>
    if fenceWaits s of_ o mask scope then .next s else .next (endFence o mask scope (endWait e (asStrand e s)))
  | _ => .next s

/-- POISON_REPORT (R178): the strand's booth is recovered, and an UNCORR record is logged. -/
def execPoisonReport (e : SRef) (addr : Nat) (s : State) : Res :=
  .next (enqueue (recoveryOf s e.site)
    (logTile e.site 0x09 5 (some e.k) (BitVec.ofNat 64 addr) (if fld (BitVec.ofNat 64 addr) 62 2 = 0 then 3 else 0) 0 s))

end Sys2Proof.Machine
end

