-- ==== Sys2Proof/Machine/Engine.lean ====
section
/-!
DEFINITION. What the engines share (R160, R175, R178, R190, R193, R279, R280): addresses in descriptors,
translation for an engine, carried poison, completion, and the order in which waiting commands are accepted.
-/

namespace Sys2Proof.Machine

/-- R35: the bytes of one element. -/
def fmtBytes (f : Fmt) : Nat := f.width / 8

/-! ### Acceptance -/

/-- Every strand that waits for an engine to accept its command, in the order of arrival (R280). -/
def acceptWaiters (s : State) : List SRef :=
  inTickets (fun t => match t.wait, t.flight with
    | some ⟨.accept _ _, _, n, _⟩, _ => some n
    | _, some (.acceptC _ _ n) => some n
    | _, some (.acceptL _ n) => some n
    | _, _ => none) s

/-- A command has left an engine's queue: waiting commands may be accepted, fences may end, and
killed queues that it named are released (R291). -/
def wakeEngine (s : State) : State :=
  let s := releaseKilled s
  wakeFences { s with internal := s.internal ++ (acceptWaiters s).map .engineAcceptance }

/-- R52: the Step that the issuing strand takes. -/
def takeStep (e : SRef) (s : State) : Word × State :=
  let t := getStrand s (skey e)
  let r := rngStep t.rnga t.rngb
  (r.2.2, modStrand (skey e) (fun t => { t with rnga := r.1, rngb := r.2.1 }) s)

/-! ### Addresses of engines (R160) -/

/-- R160: what an engine finds at an address of its descriptor before it runs: nothing, or a class. `site` is the
tile that pushed the command; `n` bytes are named. A command of steward privilege reaches the tiles of every job, as R159 has
it for strands (log entry 78). -/
def engineAddr (s : State) (site : Nat) (priv : Bool) (a : Word) (n : Nat) : Option Nat :=
  match tagOf a with
  | 0 => if fld a 57 5 = 0 ∧ fld a 0 57 + n ≤ 2 ^ 57 then none else some 3
  | 1 => if fld a 56 6 = 0 ∧ fld a 0 44 + n ≤ 2 ^ 44 then none else some 3
  | _ => match localSite s site a with
    | none => some 3
    | some t =>
      if 0x40000 < fld a 0 18 + n then some 3
      else if !priv ∧ (getTile s t).job ≠ (getTile s site).job then some 1
      else none

/-- The bytes at an address for an engine that serves `job` from tile `site`. An access across two pages of different order
kinds is performed with the kind of the first (log entry 95). -/
def engineBytes (site : Nat) (job : BitVec 16) (a : Word) (n : Nat) (store : Bool) (s : State) : Except Stop Access :=
  if n = 0 then .ok ⟨.bytes [], 0, s⟩
  else if tagOf a = 0 then
    let va := fld a 0 57
    let tr (va : Nat) (s : State) := translate (clusterOf site) job va store s
    match tr va s with
    | .error e => .error e
    | .ok x =>
      match tr (va + n - 1) x.st with
      | .error e => .error e
      | .ok y =>
        .ok ⟨.bytes ((List.range n).map fun i =>
          if (va + i) / 2 ^ x.lg = va / 2 ^ x.lg then leafPa x.leaf x.lg (va + i)
          else leafPa y.leaf y.lg (va + i)), fld x.leaf 4 2, y.st⟩
  else resolve site job a n store 1 s

/-- R168: the state that `engineBytes` leaves where it stops. -/
def engineWalked (site : Nat) (job : BitVec 16) (a : Word) (n : Nat) (store : Bool) (s : State) : State :=
  if n = 0 ∨ tagOf a ≠ 0 then s
  else
    let va := fld a 0 57
    match translate (clusterOf site) job va store s with
    | .error _ => walked (clusterOf site) job va store s
    | .ok x => walked (clusterOf site) job (va + n - 1) store x.st

/-- R178: a write of path class `cls` by an engine of yard `at_`, or by a gateway, of bytes with their poison: the words of
poisoned bytes are marked. Plain loads may still find what the bytes held (R186). -/
def engineWrite (cls at_ : Nat) (l : List (Nat × Byte)) (bad : List Nat) (s : State) : State :=
  poisonKeys bad (noteOlds cls at_ none (l.map (·.1)) s (writeBytes l s))

/-- R204: an engine writes the bytes of the first 64-byte line among those that it has formed, and what remains. -/
def sameLine (a b : LineByte) : Bool := a.key / 64 == b.key / 64
def lineRest : List LineByte → List LineByte
  | [] => []
  | x :: r => r.filter fun y => !sameLine x y
def writeLineOf (cls at_ : Nat) (l : List LineByte) (s : State) : State :=
  match l with
  | [] => s
  | x :: r =>
    let ls := x :: r.filter (sameLine x)
    engineWrite cls at_ (ls.map fun y => (y.key, y.value)) ((ls.filter (·.bad)).map (·.key)) s
/-- R162: the bytes that no link is up to write, which an aborted command leaves unwritten. -/
def hostLines (s : State) (l : List LineByte) : List LineByte := l.filter fun y => hostDown s && isHostPa y.key
/-- R162: the VA at which a command stops because the next line lies on a host page and no link is up. -/
def lineStop (s : State) (l : List LineByte) : Option Nat :=
  (l.head?.filter fun y => hostDown s && isHostPa y.key).map (·.va)

/-- R170, R204: has an engine that runs a command of one of these jobs lines of it formed, at places translated, and still
unwritten? -/
def unwritten (js : List (BitVec 16)) (s : State) : Bool :=
  (s.carters.any fun p => p.2.lines != [] && p.2.queue.head?.any fun c => js.contains c.job) ||
  (s.cellars.any fun p => p.2.lines != [] && p.2.queue.head?.any fun c => js.contains c.job) ||
  s.looms.any fun p => p.2.lines.any fun l => l.2 != [] && (tget [] p.2.queues l.1).head?.any fun c => js.contains c.job

/-- R175: a fault record for an engine; the record waits while the fault queue is full (R174). -/
def engineFault (die unit va kind path : Nat) (store : Bool) (job : BitVec 16) (detail : BitVec 96) (s : State) : State :=
  let r := faultRecord va 0 unit kind path store job detail
  match sendFault die r s with
  | some s => s
  | none => enqueue (.faultRecordSend die)
      (modTile (1024 * die) (fun t => { t with heldFaults := t.heldFaults ++ [r] }) s)

/-! ### Completion (R279) -/

/-- R279, R368: an entry of a class other than OK goes to the scribe's log. -/
def engineLog (job : BitVec 16) (en : BitVec 256) (s : State) : State :=
  if fld en 0 4 = 0 then s
  else
    let die := fld en 20 2
    let data : BitVec 192 := en.extractLsb' 128 128 ++ en.extractLsb' 0 64
    logTo die [mkLog s 0x05 (fld en 0 4) job 0 (fld en 8 12) die (en.extractLsb' 64 64)
      (BitVec.ofNat 64 (fld en 0 4)) data] s

end Sys2Proof.Machine
end

