-- ==== Sys2Proof/Machine/Cellar.lean ====
section
/-!
DEFINITION. The cellar commands (R218 to R223): issue, checks, the results, and completion.
-/

namespace Sys2Proof.Machine

/-! ### The descriptor (R219, R220) -/

def cdSrc0 (d : BitVec 256) : Word := d.extractLsb' 0 64
def cdSrc1 (d : BitVec 256) : Word := d.extractLsb' 64 64
def cdDst (d : BitVec 256) : Word := d.extractLsb' 128 64
def cdM (d : BitVec 256) : Nat := fld d 192 16
def cdN (d : BitVec 256) : Nat := fld d 208 16
def cdRnd (d : BitVec 256) : Nat := fld d 232 3
def cdSat (d : BitVec 256) : Bool := d.getLsbD 235
def cdAxis (d : BitVec 256) : Bool := d.getLsbD 236
/-- The source and destination formats. -/
def cdFmts (d : BitVec 256) : Option (Fmt × Fmt) :=
  match Fmt.ofCode (fld d 224 4), Fmt.ofCode (fld d 228 4) with
  | some a, some b => some (a, b)
  | _, _ => none

/-- The kinds of a cellar command. -/
inductive CellarOp where
  | sum | max | axpy | scale | cvt | dot
  deriving DecidableEq, Repr

def cellarOp : Instr → CellarOp
  | .nmax .. => .max
  | .naxpy .. => .axpy
  | .nscale .. => .scale
  | .ncvt .. => .cvt
  | .ndot .. => .dot
  | _ => .sum

def CellarOp.dense : CellarOp → Bool
  | .sum | .max | .dot => true
  | _ => false
def CellarOp.two : CellarOp → Bool
  | .axpy | .dot => true
  | _ => false

/-- R220: the format and rounding rules of a command. -/
def cellarFormats (op : CellarOp) (f t : Fmt) (r : Rnd) (sat : Bool) : Bool :=
  let red := r != .rst && (if f.isFloat then t.isFloat3 else t == .i32)
  f != .n4 && t != .n4 &&
  (match op with
    | .sum => red
    | .max => t == f && r == .rne && !sat
    | .axpy | .scale => f.isFloat && t.isFloat3 && r != .rst
    | .cvt => true
    | .dot => r != .rst && (if f.isFloat then t == .f32 else t == .i32) && f != .i32)

/-- R176: the byte offset of element (i, j) of a striped matrix with N columns. -/
def stripedOff (n e i j : Nat) : Nat :=
  let l := e * (i * n / 32 + j / 32)
  l / 256 * 8192 + j % 32 * 256 + l % 256
/-- R176: the extent of a striped matrix. -/
def stripedExtent (m n e : Nat) : Nat := (e * m * n + 8191) / 8192 * 8192

/-- R220: the operands with their extents, SRC0 first and DST last. -/
def cellarOperands (op : CellarOp) (d : BitVec 256) (f t : Fmt) : List (Word × Nat) :=
  let m := cdM d
  let n := cdN d
  let dst := if op.dense then (if cdAxis d then m else n) * fmtBytes t else stripedExtent m n (fmtBytes t)
  [(cdSrc0 d, stripedExtent m n (fmtBytes f))] ++
    (if op.two then [(cdSrc1 d, stripedExtent m n (fmtBytes (if op = .axpy then t else f)))] else []) ++
    [(cdDst d, dst)]

/-- R220: two extents that share a byte. -/
def overlap (a : Nat) (n : Nat) (b m : Nat) : Bool := decide (a < b + m) && decide (b < a + n)

/-- R220: an overlap of DST with a source that the command does not allow. -/
def badOverlap (op : CellarOp) (f t : Fmt) (ops : List (Word × Nat)) : Bool :=
  match ops.getLast? with
  | none => false
  | some (dst, dn) =>
    ops.dropLast.zipIdx.any fun p =>
      let same := p.1.1 == dst && p.1.2 == dn &&
        ((op == .axpy && p.2 == 1) || ((op == .scale || op == .cvt) && fmtBytes f == fmtBytes t))
      overlap p.1.1.toNat p.1.2 dst.toNat dn && !same

/-! ### Checks (R177, R222) -/

/-- The leaf that maps a VA, without a change of any state. -/
def probe (s : State) (cluster : Nat) (job : BitVec 16) (va : Nat) : Option (Word × Nat) :=
  match (tget [] s.tlbs cluster).find? (tlbHit job va false) with
  | some t => some (t.leaf, t.lg)
  | none => match lookup s.roots (65536 * (cluster / 8) + job.toNat) with
    | none => none
    | some root => match walk s va walkLevels root with
      | .leaf _ e lg => some (e, lg)
      | .bad _ _ => none

/-- R405: the cellar unit that serves the channel of a physical address. -/
def unitOfPa (pa : Nat) : Nat := 48 * (pa / 2 ^ 49 % 4) + 16 * (pa / 2 ^ 47 % 4) + pa / 2 ^ 42 % 32 / 2

/-- R218: the unit that a command goes to. -/
def cellarUnit (s : State) (site : Nat) (job : BitVec 16) (src : Word) : Nat :=
  let none' := 48 * dieOf site
  if fld src 57 7 ≠ 0 then none'
  else match probe s (clusterOf site) job src.toNat with
    | none => none'
    | some (e, lg) => if e.getLsbD 51 then none' else unitOfPa (leafPa e lg src.toNat)

/-- R222: a class and the address that it names. -/
abbrev Fail := Nat × Word

/-- R219, R220, R222 step 1. -/
def cellarStep1 (c : CellarCmd) : Option Fail :=
  let d := c.desc
  let op := cellarOp c.instr
  match cdFmts d, Rnd.ofCode (cdRnd d) with
  | some (f, t), some r =>
    if fld d 237 19 ≠ 0 ∨ cdM d = 0 ∨ cdN d = 0 ∨ cdN d % 32 ≠ 0 ∨ !cellarFormats op f t r (cdSat d) ∨
        (!op.dense ∧ cdAxis d) ∨ (!op.two ∧ cdSrc1 d ≠ 0) then some (11, c.daddr)
    else
      let ops := cellarOperands op d f t
      match ops.find? fun o => fld o.1 57 7 != 0 || o.1.toNat % 8192 != 0 with
      | some o => some (11, o.1)
      | none => if badOverlap op f t ops then some (11, c.daddr) else none
  | _, _ => some (11, c.daddr)

/-- R222 step 3: the pages of an operand from `va` to `last`, each with its leaf, up to the first that has none. An operand
within 2 MiB has at most 512. -/
def pagesOf (s : State) (cl : Nat) (job : BitVec 16) (last : Nat) : Nat → Nat → List (Nat × Option (Word × Nat))
  | 0, _ => []
  | f + 1, va => match probe s cl job va with
    | none => [(va, none)]
    | some (e, lg) =>
      let nx := (va / 2 ^ lg + 1) * 2 ^ lg
      (va, some (e, lg)) :: (if nx ≤ last then pagesOf s cl job last f nx else [])

/-- The pages of one operand of a command. -/
def operandPages (c : CellarCmd) (s : State) (o : Word × Nat) : List (Nat × Option (Word × Nat)) :=
  pagesOf s (clusterOf c.e.site) c.job (o.1.toNat + o.2 - 1) 512 o.1.toNat

/-- R222 step 4: the leaf of a page that a cellar unit accepts. -/
def cellarPage (u : Nat) (p : Nat × Option (Word × Nat)) : Bool :=
  match p.2 with
  | none => false
  | some (e, lg) => decide (21 ≤ lg) && e.getLsbD 6 && e.getLsbD 7 && !e.getLsbD 51 && unitOfPa (leafPa e lg p.1) == u

/-- R177, R222 steps 2 to 5. -/
def cellarStep2 (u : Nat) (c : CellarCmd) (ops : List (Word × Nat)) (s : State) : Option Fail :=
  match ops.find? fun o => o.1.toNat / 2 ^ 21 != (o.1.toNat + o.2 - 1) / 2 ^ 21 with
  | some o => some (12, o.1)
  | none => match ops.find? fun o => (operandPages c s o).any fun p => p.2.isNone with
    | some o => some (2, o.1)
    | none => match ops.find? fun o => !(operandPages c s o).all (cellarPage u) with
      | some o => some (1, o.1)
      | none => match ops.getLast? with
        | some o => if (operandPages c s o).all fun p => (p.2.map fun l => l.1.getLsbD 2) == some true then none
          else some (2, o.1)
        | none => none

/-- R168: what a walk leaves in the entry of a page. -/
def walkPage (c : CellarCmd) (store : Bool) (s : State) (va : Nat) : State :=
  match translate (clusterOf c.e.site) c.job va store s with
  | .ok x => x.st
  | .error _ => s
/-- R168, R222: the walks of steps 3 and 5, up to the first that fails. -/
def cellarWalked (u : Nat) (c : CellarCmd) (ops : List (Word × Nat)) (s : State) : State :=
  let ps := ops.flatMap (operandPages c s)
  match cellarStep2 u c ops s with
  | some (12, _) => s
  | some _ => ((ps.takeWhile fun p => p.2.isSome).map (·.1)).foldl (walkPage c false) s
  | none => ((operandPages c s (ops.getLastD (0, 0))).map (·.1)).foldl (walkPage c true)
      ((ps.map (·.1)).foldl (walkPage c false) s)

/-! ### Results (R221) -/

/-- R221 `Reduce` of exact terms. -/
def reduceExact (t : Fmt) (r : Rnd) (sat : Bool) (xs : List Ex) : Nat :=
  match xs with
  | [] => 0
  | x :: l => roundFloat t r sat 0 (l.foldl (addEx false) x)

/-- R221: one result of a reduction, from the patterns of its elements. The maximum of a single element is that of the element
with itself, so a NaN has the canonical pattern (R38, R54; log entry 86). -/
def reduceCell (op : CellarOp) (f t : Fmt) (r : Rnd) (sat : Bool) (xs : List (Nat × Nat)) : Nat :=
  match op with
  | .max =>
    (match xs with
      | [] => 0
      | x :: l => l.foldl (fun m y => if f.isFloat then fminmax f true m y.1
          else if decInt f m < decInt f y.1 then y.1 else m) (if f.isFloat then fminmax f true x.1 x.1 else x.1))
  | .dot =>
    if f.isFloat then reduceExact t r sat (xs.map fun p => mulEx (decFloat f p.1) (decFloat f p.2))
    else fitInt .i32 sat ((xs.map fun p => decInt f p.1 * decInt f p.2).sum)
  | _ =>
    if f.isFloat then reduceExact t r sat (xs.map fun p => decFloat f p.1)
    else fitInt .i32 sat ((xs.map fun p => decInt f p.1).sum)

/-- The value of a striped element and whether it is poisoned; `pa` is the operand's first byte. -/
def stripedGet (s : State) (pa n e i j : Nat) : Nat × Bool :=
  let ks := keysFrom (pa + stripedOff n e i j) e
  (readNat s ks, (poisonRead s ks).isSome)

/-- R221: the elements of SRC0 and SRC1 at place `q`, row by row, and whether each is poisoned; `pas` are the operands' first
bytes. -/
def cellarGet (c : CellarCmd) (f t : Fmt) (pas : List Nat) (s : State) (q : Nat) : (Nat × Bool) × (Nat × Bool) :=
  let op := cellarOp c.instr
  let n := cdN c.desc
  (stripedGet s (pas.getD 0 0) n (fmtBytes f) (q / n) (q % n),
   if op.two then stripedGet s (pas.getD 1 0) n (fmtBytes (if op = .axpy then t else f)) (q / n) (q % n) else (0, false))

/-- The bytes of a result at `off` of DST, each with its poison. -/
def resultBytes (dst off e v : Nat) (bad : Bool) : List LineByte :=
  ((keysFrom (dst + off) e).zip (natBytes e v)).map fun p => ⟨p.1, 0, p.2, bad⟩

/-- R221: the results of a reduction, from all its elements in the order of `cellarGet`. -/
def denseResults (c : CellarCmd) (f t : Fmt) (r : Rnd) (dst : Nat) (xs : List (Nat × Nat × Bool)) : List LineByte :=
  let d := c.desc
  let m := cdM d
  let n := cdN d
  (List.range (if cdAxis d then m else n)).flatMap fun k =>
    let ys := if cdAxis d then (xs.drop (k * n)).take n
      else (List.range m).map fun i => xs.getD (i * n + k) (0, 0, false)
    resultBytes dst (k * fmtBytes t) (fmtBytes t)
      (reduceCell (cellarOp c.instr) f t r (cdSat d) (ys.map fun x => (x.1, x.2.1))) (ys.any (·.2.2))

/-- R221: one result of NAXPY, NSCALE or NCVT, with its draw. -/
def mapCell (c : CellarCmd) (f t : Fmt) (r : Rnd) (draw a b : Nat) : Nat :=
  let sat := cdSat c.desc
  let al := decFloat .f32 c.alpha.toNat
  match cellarOp c.instr with
  | .axpy => roundFloat t r sat 0 (addEx (r == .rni) (mulEx al (decFloat f a)) (decFloat t b))
  | .scale => roundFloat t r sat 0 (mulEx al (decFloat f a))
  | _ => convFmt t f r sat draw a

/-- R222: the operand that the completion entry names for poison: the first of them in which a poisoned element was read. -/
def firstBad (c : CellarCmd) (old : Option Word) (xs : List ((Nat × Bool) × (Nat × Bool))) : Option Word :=
  if xs.any (·.1.2) ∨ old = some (cdSrc0 c.desc) then some (cdSrc0 c.desc)
  else if xs.any (·.2.2) then some (cdSrc1 c.desc) else old

/-- R223, R369: a unit reads the elements of one stripe row of SRC0, those of SRC1 that go with them, and forms the results
that it can. -/
def cellarRow (u : Nat) (c : CellarCmd) (f t : Fmt) (r : Rnd) (pas : List Nat) (s : State) : State :=
  let k := getCellar s u
  let total := cdM c.desc * cdN c.desc
  let cnt := min (8192 / fmtBytes f) (total - k.pos)
  let dst := pas.getLastD 0
  let xs := (List.range cnt).map fun i => cellarGet c f t pas s (k.pos + i)
  let bad := firstBad c k.bad xs
  if (cellarOp c.instr).dense then
    let got := k.got ++ xs.map fun x => (x.1.1, x.2.1, x.1.2 || x.2.2)
    let lines := if k.pos + cnt = total then denseResults c f t r dst got else []
    modCellar u (fun k => { k with got := got, pos := k.pos + cnt, bad := bad, lines := lines }) s
  else
    let dr := if convDraws f t r then rngSteps cnt k.rnga k.rngb else ([], k.rnga, k.rngb)
    let draws := draws16 dr.1
    let lines := xs.zipIdx.flatMap fun x =>
      let q := k.pos + x.2
      resultBytes dst (stripedOff (cdN c.desc) (fmtBytes t) (q / cdN c.desc) (q % cdN c.desc)) (fmtBytes t)
        (mapCell c f t r (draws.getD x.2 0) x.1.1.1 x.1.2.1) (x.1.1.2 || x.1.2.2)
    modCellar u (fun k => { k with pos := k.pos + cnt, bad := bad, lines := lines, rnga := dr.2.1, rngb := dr.2.2 }) s

/-- R204: a unit writes one 64-byte line of its results. -/
def cellarLine (u : Nat) (s : State) : State :=
  let l := (getCellar s u).lines
  writeLineOf 3 0 l (modCellar u (fun k => { k with lines := lineRest l }) s)

/-- R222: the checks of a command whose turn has come: the class and address of the first failure, or the operands' first
bytes; with the state after the walks. -/
def cellarCheck (u : Nat) (c : CellarCmd) (s : State) : (Fail ⊕ List Nat) × State :=
  match cellarStep1 c with
  | some f => (.inl f, s)
  | none =>
    let ops := match cdFmts c.desc with
      | some (f, t) => cellarOperands (cellarOp c.instr) c.desc f t
      | none => []
    let s' := cellarWalked u c ops s
    match cellarStep2 u c ops s with
    | some f => (.inl f, s')
    | none => (.inr (ops.map fun o => match probe s' (clusterOf c.e.site) c.job o.1.toNat with
        | some (e, lg) => leafPa e lg o.1.toNat
        | none => 0), s')

/-- R161: does an operand reach into a hole? -/
def cellarHole (c : CellarCmd) (pas : List Nat) : Bool :=
  match cdFmts c.desc with
  | some (f, t) => (pas.zip (cellarOperands (cellarOp c.instr) c.desc f t)).any fun p =>
      isHole p.1 || isHole (p.1 + p.2.2 - 1)
  | none => false

/-! ### Issue and acceptance (R218) -/

/-- R52, R218 step 5: does the command take a Step at acceptance? -/
def cellarRst (c : CellarCmd) : Bool := cellarOp c.instr == .cvt && cdRnd c.desc == 4

/-- R218: the unit accepts a command, and the issuing strand's instruction completes. -/
def cellarAccept (u : Nat) (c : CellarCmd) (s : State) : State :=
  let x := if cellarRst c then takeStep c.e s else (0, s)
  let s := modCellar u (fun q => { q with queue := q.queue ++ [{ c with step := x.1 }] }) x.2
  next (enqueue (.cellarCommandComplete u) s)

/-- R218: room in a unit's queue. -/
def cellarRoom (s : State) (u : Nat) : Bool := decide ((getCellar s u).queue.length < 64)

/-- R218: the shape of the cellar commands; `alpha` is the scalar. -/
def cellarIssue (i : Instr) (g : Guard) (d : XReg) (m : MemOp) (alpha : BitVec 32) (s : State) : Res :=
  guarded g s fun s =>
    match checkLocal s m 32 32 .load with
    | .error e => stopped i false e s
    | .ok a =>
      match doneFail s d with
      | some c => .next (raise c ((doneHandle s d).zeroExtend 64) s)
      | none => afterAll i (fun s =>
        let ks := localKeys s a 32
        match poisonRead s ks with
        | some w => .next (raiseLate .uncorr (localAbs w) s)
        | none =>
          let desc := BitVec.ofNat 256 (readNat s ks)
          let job := (myTile s).job
          let c : CellarCmd := ⟨i, s.cur, desc, a, doneHandle s d, alpha, job, 0⟩
          let u := cellarUnit s s.cur.site job (cdSrc0 desc)
          if cellarRoom s u ∧ !s.strands.any (fun p => match p.2.wait with
              | some ⟨.accept v _, _, _, _⟩ => v == u
              | _ => false) then .next (cellarAccept u c (readyIn 5 s))
          else .next (waitFor .waitq (.accept u c) i 0 s)) s

/-- NSUM (R218, R221). -/
def execNsum (g : Guard) (h : Hint) (d : XReg) (m : MemOp) (s : State) : Res := cellarIssue (.nsum g h d m) g d m 0 s

/-- NMAX (R218, R221). -/
def execNmax (g : Guard) (h : Hint) (d : XReg) (m : MemOp) (s : State) : Res := cellarIssue (.nmax g h d m) g d m 0 s

/-- NAXPY (R218, R221). -/
def execNaxpy (g : Guard) (h : Hint) (d : XReg) (m : MemOp) (b : XReg) (s : State) : Res :=
  cellarIssue (.naxpy g h d m b) g d m ((rx s b).extractLsb' 0 32) s

/-- NSCALE (R218, R221). -/
def execNscale (g : Guard) (h : Hint) (d : XReg) (m : MemOp) (b : XReg) (s : State) : Res :=
  cellarIssue (.nscale g h d m b) g d m ((rx s b).extractLsb' 0 32) s

/-- NCVT (R218, R221). -/
def execNcvt (g : Guard) (h : Hint) (d : XReg) (m : MemOp) (s : State) : Res := cellarIssue (.ncvt g h d m) g d m 0 s

/-- NDOT (R218, R221). -/
def execNdot (g : Guard) (h : Hint) (d : XReg) (m : MemOp) (s : State) : Res := cellarIssue (.ndot g h d m) g d m 0 s

/-! ### Completion (R222) -/

/-- R222, R279: pushes the head command's entry; when it is pushed the command leaves the queue. -/
def cellarFinish (u : Nat) (s : State) : State :=
  let q := getCellar s u
  match q.queue, q.entry with
  | c :: r, some (h, en) =>
    let p := pushEntry c.job h en (u / 48) (.cellar u) s
    if p.1 then
      let s := modCellar u (fun _ => { Cellar.idle with queue := r }) p.2
      let s := kickWatch (boothOf s c.e.site) (wakeEngine s)
      if r = [] then s else enqueue (.cellarCommandComplete u) s
    else p.2
  | _, _ => s

/-- R222: the head command completes with a class and an address. -/
def cellarEnd (u : Nat) (c : CellarCmd) (f : Fail) (s : State) : State :=
  let en := mkEntry s f.1 2 (0x4C0 + u % 48) (u / 48) 0 f.2 0
  cellarFinish u (wakeFences (modCellar u (fun q => { q with entry := some (c.handle, en) }) (engineLog c.job en s)))

/-- CELLAR_COMMAND_COMPLETE (R222, R223): the unit goes on with its oldest command: it checks it, reads a stripe row, writes a
line of its results, or completes it; or it goes on with an entry at which it stalled. A freeze stops it between stripe rows
(R369). -/
def execCellarCommandComplete (u : Nat) (s : State) : Res :=
  let q := getCellar s u
  match q.queue, q.entry with
  | [], _ => .next s
  | _ :: _, some _ => .next (cellarFinish u s)
  | c :: _, none =>
    if q.lines ≠ [] then .next (enqueue (.cellarCommandComplete u) (cellarLine u s))
    else if (getJob s c.job).frozen then .next s
    else match q.pas with
      | none =>
        (match cellarCheck u c s with
          | (.inl f, s) => .next (cellarEnd u c f s)
          | (.inr pas, s) =>
            if cellarHole c pas then .fault .noSuchMemory
            else
              let g := seedEngine c.step
              .next (enqueue (.cellarCommandComplete u)
                (modCellar u (fun k => { k with pas := some pas, rnga := g.1, rngb := g.2 }) s)))
      | some pas =>
        match cdFmts c.desc, Rnd.ofCode (cdRnd c.desc) with
        | some (f, t), some r =>
          if q.pos < cdM c.desc * cdN c.desc then .next (enqueue (.cellarCommandComplete u) (cellarRow u c f t r pas s))
          else .next (cellarEnd u c (match q.bad with | some a => (5, a) | none => (0, cdDst c.desc)) s)
        | _, _ => .next (cellarEnd u c (11, c.daddr) s)

end Sys2Proof.Machine
end

