-- ==== Sys2Proof/Machine/Blocks.lean ====
section
/-!
DEFINITION. The arithmetic of accumulator blocks: group sums and checksum lanes (R56, R234, R235), MLOADA's lanes
(R238), the assay (R240), correction (R243) and the status word (R229).
-/

namespace Sys2Proof.Machine

/-! ### Exact sums -/

/-- R56: the exact sum of a group, with its special cases. -/
def exSum : List Ex → Ex
  | [] => .num false 0 0 false
  | x :: l => l.foldl (addEx false) x
/-- The integer that an exact integer value is. -/
def exInt : Ex → Int
  | .num neg m e _ => (if neg then -1 else 1) * ((m * 2 ^ e.toNat : Nat) : Int)
  | _ => 0
def absEx : Ex → Ex
  | .nan => .nan
  | .inf _ => .inf false
  | .num _ m e st => .num false m e st
/-- The larger of two exact values. -/
def maxEx (a b : Ex) : Ex := if lessEx a b then b else a

def f32Of (c : BitVec 32) : Ex := decFloat .f32 c.toNat
def toF32 (x : Ex) : BitVec 32 := BitVec.ofNat 32 (roundFloat .f32 .rne false 0 x)
/-- A cell's value by the block's kind. -/
def cellEx (int : Bool) (c : BitVec 32) : Ex := if int then intEx c.toInt else f32Of c

/-- R56: an exact zero sum of a cell and its group is +0. -/
def plusZero : Ex → Ex
  | .num _ 0 e false => .num false 0 e false
  | x => x

/-- R56: one group of products into a cell or lane. -/
def laneAdd (int : Bool) (c : BitVec 32) (ps : List Ex) : BitVec 32 :=
  if int then c + BitVec.ofInt 32 (exInt (exSum ps))
  else toF32 (plusZero (addEx false (f32Of c) (f32Of (toF32 (exSum ps)))))

/-- R234: a sum of 64 operand elements: one rounding, or exact in an integer block. -/
def sumOnce (int : Bool) (xs : List Ex) : Ex := if int then exSum xs else f32Of (toF32 (exSum xs))

/-- R240 `Actual`: the sum of a row or column. -/
def actual (int : Bool) (cs : List (BitVec 32)) : BitVec 32 :=
  let x := exSum (cs.map (cellEx int))
  if int then BitVec.ofInt 32 (exInt x) else toF32 x

/-! ### Cells -/

def cellAt (b : Block) (i j : Nat) : BitVec 32 := b.cells.getD (64 * i + j) 0
def rowOf (b : Block) (i : Nat) : List (BitVec 32) := (List.range 64).map (cellAt b i)
def colOf (b : Block) (j : Nat) : List (BitVec 32) := (List.range 64).map fun i => cellAt b i j
/-- A list of 64 lanes. -/
def lanes64 (f : Nat → BitVec 32) : List (BitVec 32) := (List.range 64).map f
/-- A list with entry `n` replaced, filled with zeros as far as needed. -/
def putAt (l : List (BitVec 32)) (n : Nat) (v : BitVec 32) : List (BitVec 32) :=
  (l ++ List.replicate (n + 1 - l.length) 0).set n v

/-- R234: the precision rank, the least precise first; 7 counts as more precise than any format. -/
def tselRank : Nat → Nat
  | 4 => 0 | 3 => 1 | 2 => 2 | 0 => 3 | 1 => 4 | _ => 5
def tselOf : Fmt → Nat
  | .bf16 => 0 | .f16 => 1 | .e4 => 2 | .e5 => 3 | .n4 => 4 | _ => 7
def lessPrecise (a b : Nat) : Nat := if tselRank b < tselRank a then b else a

/-! ### Products (R234, R235) -/

/-- R56, R234, R235: one group of `n` positions into a block. `a` are the 64 rows of A; `kept` the 64 columns of
B as positions and values; `dense` the 64 columns with +0 at pruned positions. -/
def productGroup (int : Bool) (n : Nat) (a : List (List Ex)) (kept : List (List (Nat × Ex))) (dense : List (List Ex))
    (b : Block) : Block :=
  let rows := a.zipIdx
  let cols := kept.zipIdx
  let cells := rows.flatMap fun r => cols.map fun c =>
    laneAdd int (cellAt b r.2 c.2) (c.1.map fun p => mulEx (r.1.getD p.1 .nan) p.2)
  let chunk (b : Block) (q : Nat) : Block :=
    let m := min 32 (n - 32 * q)
    let cut (l : List Ex) : List Ex := (l.drop (32 * q)).take m
    let ar := a.map cut
    let bc := dense.map cut
    let pos := List.range m
    let ea := pos.map fun k => sumOnce int (ar.map fun r => r.getD k .nan)
    let eb := pos.map fun k => sumOnce int (bc.map fun c => c.getD k .nan)
    let ma := pos.map fun k => sumOnce false (ar.map fun r => absEx (r.getD k .nan))
    let mb := pos.map fun k => sumOnce false (bc.map fun c => absEx (c.getD k .nan))
    { b with
      pc := lanes64 fun j => laneAdd int (b.pc.getD j 0) (List.zipWith mulEx ea (bc.getD j []))
      pr := lanes64 fun i => laneAdd int (b.pr.getD i 0) (List.zipWith mulEx (ar.getD i []) eb)
      mc := if int then b.mc
        else lanes64 fun j => laneAdd int (b.mc.getD j 0) (List.zipWith mulEx ma ((bc.getD j []).map absEx))
      mr := if int then b.mr
        else lanes64 fun i => laneAdd int (b.mr.getD i 0) (List.zipWith mulEx ((ar.getD i []).map absEx) mb) }
  (List.range ((n + 31) / 32)).foldl chunk { b with cells := cells }

/-! ### MLOADA (R238) -/

/-- R238: a block from the cells of an image. -/
def loadedBlock (int : Bool) (cells : List (BitVec 32)) (b : Block) : Block :=
  let b := { b with int := int, cells := cells }
  let once (cs : List (BitVec 32)) : BitVec 32 := actual int cs
  let mag (cs : List (BitVec 32)) : BitVec 32 := if int then 0 else toF32 (exSum (cs.map fun c => absEx (f32Of c)))
  { b with
    pc := lanes64 fun j => once (colOf b j)
    pr := lanes64 fun i => once (rowOf b i)
    mc := lanes64 fun j => mag (colOf b j)
    mr := lanes64 fun i => mag (rowOf b i)
    st := .open_
    tsel := 7
    rowmask := 0
    colmask := 0
    corrected := false
    uncorr := false
    nonfinite := false }

/-- R249: a block after MZERO, before its record. -/
def zeroedBlock (int : Bool) (b : Block) : Block := { Block.empty with st := .open_, int := int, booth := b.booth }

/-! ### The assay (R240) -/

/-- R93: T and FLOOR. -/
def tolT (t : Word) : Nat := fld t 0 6
def tolFloor (t : Word) : Ex := decFloat .f32 (fld t 32 32)
/-- R240: max(FLOOR, 2^(−T) × m). -/
def tolBound (t : Word) (m : Ex) : Ex :=
  maxEx (tolFloor t) (match m with
    | .num neg n e st => .num neg n (e - tolT t) st
    | x => x)

def finite : Ex → Bool
  | .num .. => true
  | _ => false

/-- R240 `Compare`: the mask bit, and whether the lane stays unchecked. -/
def compareLane (int : Bool) (t : Word) (a p m : BitVec 32) : Bool × Bool :=
  if int then (a != p, false)
  else if !finite (f32Of m) then (false, true)
  else if !finite (f32Of a) ∨ !finite (f32Of p) then (true, false)
  else (lessEx (tolBound t (f32Of m)) (absEx (addEx false (f32Of a) (negEx (f32Of p)))), false)

/-- The mask of 64 bits. -/
def maskOf (f : Nat → Bool) : Word := (List.range 64).foldl (fun w i => if f i then w ||| (1#64 <<< i) else w) 0

/-- What an assay finds: the row mask, the column mask, and whether a lane stayed unchecked. -/
def assay (t : Word) (b : Block) : Word × Word × Bool :=
  let row := (List.range 64).map fun i => compareLane b.int t (actual b.int (rowOf b i)) (b.pr.getD i 0) (b.mr.getD i 0)
  let col := (List.range 64).map fun j => compareLane b.int t (actual b.int (colOf b j)) (b.pc.getD j 0) (b.mc.getD j 0)
  (maskOf fun i => ((row.map (·.1)).getD i false), maskOf fun j => ((col.map (·.1)).getD j false),
    (row ++ col).any (·.2))

/-- R230, R240: the block after an assay; `sticky` keeps MISMATCH. -/
def applyAssay (r : Word × Word × Bool) (sticky : Bool) (b : Block) : Block :=
  let bad := r.1 != 0 || r.2.1 != 0
  { b with
    rowmask := r.1
    colmask := r.2.1
    nonfinite := r.2.2
    st := if bad then .mismatch else if b.st = .mismatch ∧ sticky then .mismatch else .clean }

/-- R240: the tolerance register that TSEL selects, of those captured. -/
def tolFor (tol : List Word) (b : Block) : Word := tol.getD (if b.tsel = 7 then 0 else b.tsel) 0

/-! ### Correction and reports (R242, R243) -/

/-- The position of the only set bit of a mask. -/
def oneBit (w : Word) : Option Nat :=
  match (List.range 64).filter fun i => w.getLsbD i with
  | [i] => some i
  | _ => none

/-- R243: the corrected value of cell (i, j), if the row and column deltas agree. -/
def correction (t : Word) (b : Block) (i j : Nat) : Option (BitVec 32) :=
  let ar := actual b.int (rowOf b i)
  let ac := actual b.int (colOf b j)
  let c := cellAt b i j
  if b.int then
    let dr := ar - b.pr.getD i 0
    let dc := ac - b.pc.getD j 0
    if dr = dc then some (c - dc) else none
  else
    let dr := addEx false (f32Of ar) (negEx (f32Of (b.pr.getD i 0)))
    let dc := addEx false (f32Of ac) (negEx (f32Of (b.pc.getD j 0)))
    let d := absEx (addEx false dr (negEx dc))
    let m := maxEx (f32Of (b.mr.getD i 0)) (f32Of (b.mc.getD j 0))
    if finite d ∧ finite m ∧ !lessEx (tolBound t m) d then some (toF32 (addEx false (f32Of c) (negEx dc))) else none

/-- R242: one delta of a report. -/
def deltaOf (int : Bool) (a p : BitVec 32) : BitVec 32 :=
  if int then a - p else toF32 (addEx false (f32Of a) (negEx (f32Of p)))

def stateCode : BState → Nat
  | .empty => 0 | .open_ => 1 | .clean => 2 | .mismatch => 3 | .failed => 4 | .poisoned => 5

/-- R229: the status word. -/
def blockStatus (s : State) (b : Block) : Word :=
  let n := match b.record with | some r => r.entries.length | none => 0
  let failed := b.st = .failed ∨ b.st = .poisoned
  let owner : BitVec 32 := match b.record with | some r => endpoint s r.owner | none => 0
  owner ++ BitVec.ofNat 32 (stateCode b.st + b2n b.int * 2 ^ 3 + b2n b.record.isSome * 2 ^ 4 + b2n b.noretry * 2 ^ 5 +
    b2n b.corrected * 2 ^ 6 + b2n b.uncorr * 2 ^ 7 + b2n b.nonfinite * 2 ^ 8 + b2n b.replaying * 2 ^ 9 +
    b.tsel * 2 ^ 10 + n * 2 ^ 16 + (if failed then b.fclass * 2 ^ 24 else 0))

/-- R230: a command into a block fails. -/
def failBlock (cls : Nat) (b : Block) : Block :=
  if b.st = .open_ ∨ b.st = .clean ∨ b.st = .mismatch then { b with st := .failed, fclass := cls } else b
/-- R230, R254: a poisoned operand word enters a block. -/
def poisonBlock (b : Block) : Block := if b.st = .empty then b else { b with st := .poisoned, fclass := 5 }

/-- R242: the report of MLOC. -/
def mlocReport (s : State) (b : Block) : List Byte :=
  let shown := !(b.st == .empty || b.st == .failed || b.st == .poisoned)
  let w64 (w : Word) : List Byte := natBytes 8 w.toNat
  let w32 (w : BitVec 32) : List Byte := natBytes 4 w.toNat
  let each (f : Nat → BitVec 32) : List Byte := (List.range 64).flatMap fun i => w32 (f i)
  w64 (if shown then b.rowmask else 0) ++ w64 (if shown then b.colmask else 0) ++ w64 (blockStatus s b) ++
    List.replicate 40 0 ++
    each (fun i => if shown then deltaOf b.int (actual b.int (rowOf b i)) (b.pr.getD i 0) else 0) ++
    each (fun j => if shown then deltaOf b.int (actual b.int (colOf b j)) (b.pc.getD j 0) else 0) ++
    each (fun i => b.mr.getD i 0) ++ each (fun j => b.mc.getD j 0)

end Sys2Proof.Machine
end

