-- ==== Sys2Proof/Machine/Loom.lean ====
section
/-!
DEFINITION. Class C: the loom (R224 to R257, R413): commands, acceptance, turns, completion and the instructions.
-/

namespace Sys2Proof.Machine

/-! ### Formats (R227) -/

/-- R227: the K rate of a legal pair, and whether it is the integer class. -/
def pairOf (a b : Fmt) : Option (Nat × Bool) :=
  match a, b with
  | .bf16, .bf16 | .bf16, .f16 | .f16, .bf16 | .f16, .f16 => some (2, false)
  | .e4, .e4 | .e4, .e5 | .e5, .e4 | .e5, .e5 => some (4, false)
  | .i8, .i8 | .i8, .u8 | .u8, .i8 | .u8, .u8 => some (4, true)
  | .n4, .n4 => some (8, false)
  | _, _ => none

/-- R227: the fields of a format context. -/
structure LCtx where
  fa   : Fmt
  fb   : Fmt
  rnd  : Rnd
  sat  : Bool
  q    : Nat
  int  : Bool

def LCtx.ofWord (w : Word) : Option LCtx :=
  match Fmt.ofCode (fld w 0 4), Fmt.ofCode (fld w 4 4) with
  | some a, some b => match pairOf a b, Rnd.ofCode (fld w 8 2) with
    | some (q, int), some r => some ⟨a, b, r, w.getLsbD 10, q, int⟩
    | _, _ => none
  | _, _ => none

/-- R227: the context of an in-yard tile; 0x11 when none is written. -/
def ctxOf (l : Loom) (t : Nat) : Word := tget 0x11 l.ctxs t

/-! ### Product descriptors (R231, R232) -/

def pdA (d : BitVec 512) : Word := d.extractLsb' 0 64
def pdB (d : BitVec 512) : Word := d.extractLsb' 64 64
def pdAAux (d : BitVec 512) : Word := d.extractLsb' 128 64
def pdBAux (d : BitVec 512) : Word := d.extractLsb' 192 64
def pdMask (d : BitVec 512) : Word := d.extractLsb' 256 64
def pdRawK (d : BitVec 512) : Nat := fld d 320 16
def pdAStr (d : BitVec 512) : Nat := 16 * fld d 336 16
def pdBStr (d : BitVec 512) : Nat := 16 * fld d 352 16
def pdAsStr (d : BitVec 512) : Nat := fld d 368 16
def pdBsStr (d : BitVec 512) : Nat := fld d 384 16
def pdMStr (d : BitVec 512) : Nat := fld d 400 16
def pdC (d : BitVec 512) : Nat := fld d 416 6
def pdSrc (d : BitVec 512) : Bool := d.getLsbD 422
def pdABlk (d : BitVec 512) : Nat := fld d 424 6
def pdSpn (d : BitVec 512) : Nat := fld d 430 2
/-- R233: a chained source has K = 64, whatever non-zero K its descriptor holds: the model's choice (log entry 98). -/
def pdK (d : BitVec 512) : Nat := if pdSrc d then 64 else pdRawK d
/-- R231: N of a sparse product. -/
def spN (d : BitVec 512) : Nat :=
  match pdSpn d with
  | 0 => 6
  | 1 => 8
  | _ => 12
/-- R55: the positions per column of B that are stored. -/
def storedB (d : BitVec 512) (sparse : Bool) : Nat := if sparse then pdK d / 24 * spN d else pdK d

/-! ### Transfer descriptors (R237) -/

def tdAddr (d : BitVec 512) : Word := d.extractLsb' 0 64
def tdStr (d : BitVec 512) : Nat := 16 * fld d 64 16
def tdFmt (d : BitVec 512) : Option Fmt := Fmt.ofCode (fld d 80 4)
def tdRnd (d : BitVec 512) : Nat := fld d 84 3
def tdSat (d : BitVec 512) : Bool := d.getLsbD 87
def tdBlk (d : BitVec 512) : Nat := fld d 88 6
def tdKeep (d : BitVec 512) : Bool := d.getLsbD 94

/-! ### Blocks of commands (R225, R226) -/

def getBlock (s : State) (y n : Nat) : Block := tget Block.empty (getLoom s y).blocks n
def modBlock (y n : Nat) (f : Block → Block) (s : State) : State :=
  modLoom y (fun l => { l with blocks := tset l.blocks n (f (tget Block.empty l.blocks n)) }) s

def descOf (c : LoomCmd) : BitVec 512 := c.desc.getD 0
/-- R226: the target block of a command, none for MCFG. -/
def loomTarget (c : LoomCmd) : Option Nat :=
  match c.instr with
  | .mcfg .. => none
  | .mmul .. | .mmuls .. => some (pdC (descOf c))
  | .mloada .. | .mdrain .. => some (tdBlk (descOf c))
  | _ => some (fld c.value 0 6)
/-- R226: the blocks that a command names. -/
def loomNames (c : LoomCmd) : List Nat :=
  match c.instr with
  | .mmul .. | .mmuls .. => pdC (descOf c) :: (if pdSrc (descOf c) then [pdABlk (descOf c)] else [])
  | _ => (loomTarget c).toList
/-- R225: may the command name the block? -/
def mayName (s : State) (y : Nat) (c : LoomCmd) (b : Nat) : Bool :=
  c.priv || (c.booth != 0 && (getBlock s y b).booth == some (c.job, c.booth))
/-- Is this a product? -/
def isProduct : Instr → Bool
  | .mmul .. | .mmuls .. => true
  | _ => false
/-- Is this a synchronous instruction, or MDRAIN, whose first part is (R239, R252)? -/
def isSync : Instr → Bool
  | .mchk .. | .mloc .. | .mcorr .. | .mstat .. | .mdrain .. => true
  | _ => false

/-! ### Reading operands (R232) -/

/-- Elements of `n` positions from their bytes; N4 codes take their scale bytes, one for 32. -/
def elemsOf (f : Fmt) (n : Nat) (bs scales : List Byte) : List Ex :=
  let v := bytesNat bs
  (List.range n).map fun i =>
    let p := v / 2 ^ (f.width * i) % 2 ^ f.width
    if f = .n4 then decN4 ((scales.getD (i / 32) 0).toNat) p else decFmt f p

/-- What a read of the loom finds: bytes, whether one was poisoned, and the state. -/
abbrev LRead := Except Stop (List Byte × Bool × State)

/-- The bytes at an address, through the issuing tile's port. -/
def loomRead (site : Nat) (job : BitVec 16) (a : Word) (n : Nat) (s : State) : LRead :=
  match engineBytes site job a n false s with
  | .error e => .error e
  | .ok x => match x.place with
    | .bytes ks => .ok (readKeys x.st ks, (poisonRead x.st ks).isSome, x.st)
    | _ => .ok ([], false, x.st)

def addrAt (a : Word) (n : Nat) : Word := a + BitVec.ofNat 64 n

/-- What a list of reads comes to: the bytes of all of them, each read with its poison, or the first stop with what was read
before it. -/
inductive LReads where
  | ok (got : List (List Byte × Bool)) (s : State)
  | stop (e : Stop) (got : List (List Byte × Bool)) (s : State)

/-- R175: reads in order, going on after those that `got` holds. -/
def loomReads (site : Nat) (job : BitVec 16) : List (Word × Nat) → List (List Byte × Bool) → State → LReads
  | [], got, s => .ok got s
  | x :: r, got, s =>
    match loomRead site job x.1 x.2 s with
    | .error e => .stop e got (engineWalked site job x.1 x.2 false s)
    | .ok (bs, p, s) => loomReads site job r (got ++ [(bs, p)]) s

/-- R232: the reads of `n` elements of a row or column from position `k0` of what is stored: the codes or elements, and for N4
the scales. -/
def rowReads (f : Fmt) (a aux : Word) (k0 n : Nat) : List (Word × Nat) :=
  (addrAt a (k0 * f.width / 8), n * f.width / 8) :: (if f = .n4 then [(addrAt aux (k0 / 32), (n + 31) / 32)] else [])
/-- The elements that these reads have found, and whether one met poison. -/
def rowElems (f : Fmt) (n : Nat) (got : List (List Byte × Bool)) : List Ex × Bool :=
  (elemsOf f n (got.headD ([], false)).1 ((got.drop 1).headD ([], false)).1, got.any (·.2))

/-- R232: the reads of the 64 rows of A for a group. -/
def readsA (f : Fmt) (d : BitVec 512) (k0 n : Nat) : List (Word × Nat) :=
  (List.range 64).flatMap fun i => rowReads f (addrAt (pdA d) (pdAStr d * i)) (addrAt (pdAAux d) (pdAsStr d * i)) k0 n
/-- The reads of one row. -/
def rowParts (f : Fmt) : Nat := if f = .n4 then 2 else 1
/-- The 64 rows of A, and whether a read met poison. -/
def rowsA (f : Fmt) (n : Nat) (got : List (List Byte × Bool)) : List (List Ex) × Bool :=
  ((List.range 64).map fun i => (rowElems f n ((got.drop (rowParts f * i)).take (rowParts f))).1, got.any (·.2))

/-- R233: the rows of a chained source. Each cell is converted by RoundTo, so DSAT saturates an infinite one too (R46). -/
def chainedA (c : LCtx) (src : Block) (k0 n : Nat) : List (List Ex) :=
  (List.range 64).map fun i => (List.range n).map fun k =>
    let v := cellAt src i (k0 + k)
    if src.int then intEx (clampInt c.fa v.toInt) else decFmt c.fa (convTo c.fa c.rnd c.sat 0 (f32Of v))

/-- R55: the positions that a mask word keeps, none if it is unfit. -/
def maskPositions (n : Nat) (w : Nat) : Option (List Nat) :=
  let l := (List.range 24).filter w.testBit
  if w / 2 ^ 24 ≠ 0 ∨ l.length ≠ n then none else some l

/-- R55: the mask words `m0`, …, of column `j`, and whether one is poisoned. B's arrays are local. -/
def maskWords (site : Nat) (job : BitVec 16) (d : BitVec 512) (j m0 n : Nat) (s : State) : List Nat × Bool :=
  match loomRead site job (addrAt (pdMask d) (pdMStr d * j + 4 * m0)) (4 * n) s with
  | .ok (bs, p, _) => ((List.range n).map fun i => bytesNat ((bs.drop (4 * i)).take 4), p)
  | .error _ => ([], false)

/-- R413 step 4: every mask word fits; poisoned words are left to step 6. -/
def masksOk (site : Nat) (job : BitVec 16) (d : BitVec 512) (s : State) : Bool :=
  (List.range 64).all fun j => (List.range (pdK d / 24)).all fun m =>
    let w := maskWords site job d j m 1 s
    w.2 || w.1.all fun x => (maskPositions (spN d) x).isSome

/-- R232: one column of B for a group of `n` positions from `k0`: the kept positions and values, the dense values,
and whether a word was poisoned. -/
def readB (site : Nat) (job : BitVec 16) (f : Fmt) (d : BitVec 512) (sparse : Bool) (k0 n j : Nat) (s : State) :
    List (Nat × Ex) × List Ex × Bool :=
  let a := addrAt (pdB d) (pdBStr d * j)
  let aux := addrAt (pdBAux d) (pdBsStr d * j)
  if sparse then
    let w := maskWords site job d j (k0 / 24) 4 s
    let pos := w.1.zipIdx.flatMap fun p => ((maskPositions (spN d) p.1).getD []).map (24 * p.2 + ·)
    match loomReads site job (rowReads f a aux (k0 / 24 * spN d) (4 * spN d)) [] s with
    | .ok got _ =>
      let x := rowElems f (4 * spN d) got
      let kept := pos.zip x.1
      (kept, (List.range n).map fun k => ((kept.find? (·.1 == k)).map (·.2)).getD (.num false 0 0 false), x.2 || w.2)
    | .stop _ _ _ => ([], [], false)
  else match loomReads site job (rowReads f a aux k0 n) [] s with
    | .ok got _ =>
      let x := rowElems f n got
      ((List.range n).zip x.1, x.1, x.2)
    | .stop _ _ _ => ([], [], false)

/-! ### Checks of a product (R232, R413) -/

/-- R231, R232: the fields of a product's descriptor and its blocks. MSTR is held to a multiple of 4 only where there is a mask
array: the model's choice (log entry 97). -/
def fmtOk (c : LCtx) (d : BitVec 512) (sparse : Bool) (tgt src : Block) : Bool :=
  let k := pdK d
  let n4 := c.fa == .n4
  !(pdRawK d == 0 || fld d 432 80 != 0 || d.getLsbD 423 ||
    (!n4 && (pdAAux d != 0 || pdBAux d != 0)) ||
    decide ((pdA d).toNat % 16 ≠ 0) || decide ((pdB d).toNat % 16 ≠ 0) || decide ((pdMask d).toNat % 4 ≠ 0) ||
    (pdSrc d && (pdA d != 0 || pdABlk d == pdC d || n4)) || (!pdSrc d && pdABlk d != 0) ||
    (sparse && (decide (k % 96 ≠ 0) || pdSpn d == 3 || decide (pdMStr d % 4 ≠ 0) || (n4 && pdSpn d != 1))) ||
    (!sparse && (pdMask d != 0 || pdSpn d != 0 || (n4 && decide (k % 32 ≠ 0)))) ||
    tgt.st == .empty || tgt.int != c.int || (pdSrc d && src.st != .empty && src.int != c.int))

/-- R160, R232: the extents of a product in the order of the descriptor: address, bytes, and local only. -/
def prodExtents (c : LCtx) (d : BitVec 512) (sparse : Bool) : List (Word × Nat × Bool) :=
  let k := pdK d
  let n4 := c.fa == .n4
  let nb := storedB d sparse
  (if pdSrc d then [] else [(pdA d, 63 * pdAStr d + k * c.fa.width / 8, false)]) ++
  [(pdB d, 63 * pdBStr d + nb * c.fb.width / 8, true)] ++
  (if n4 ∧ !pdSrc d then [(pdAAux d, 63 * pdAsStr d + k / 32, false)] else []) ++
  (if n4 then [(pdBAux d, 63 * pdBsStr d + nb / 32, true)] else []) ++
  (if sparse then [(pdMask d, 63 * pdMStr d + 4 * (k / 24), true)] else [])

/-- R160, R232: the class of an extent that fails. -/
def extentClass (s : State) (site : Nat) (priv : Bool) (x : Word × Nat × Bool) : Option Nat :=
  if tagOf x.1 = 1 ∨ (x.2.2 ∧ tagOf x.1 = 0) then some 1 else engineAddr s site priv x.1 x.2.1

/-- R413 steps 2 to 4: the class with which a product fails. -/
def prodFail (s : State) (y site : Nat) (c : LoomCmd) (ctx : Word) (d : BitVec 512) (sparse : Bool) : Option Nat :=
  match LCtx.ofWord ctx with
  | none => some 11
  | some x =>
    if !fmtOk x d sparse (getBlock s y (pdC d)) (getBlock s y (pdABlk d)) then some 11
    else match (prodExtents x d sparse).findSome? (extentClass s site c.priv) with
      | some cls => some cls
      | none => if sparse ∧ !masksOk site c.job d s then some 11 else none

/-! ### Turns (R226, R255) -/

/-- What a turn of a command comes to: more turns, the end with a class (none pushes no entry), or a physical
hole. -/
inductive Turn where
  | more (c : LoomCmd) (s : State)
  | fin (cls : Option Nat) (c : LoomCmd) (s : State)
  | hole

/-- R253: the command stalls at a translation fault. DESC is the local offset of the command's descriptor; MRETRY has none,
and its record bears 0, also for a fault of an entry (log entry 80). -/
def loomStall (y blk : Nat) (c : LoomCmd) (va kind opnd koff : Nat) (store : Bool) (s : State) : Turn :=
  let detail : BitVec 96 := BitVec.ofNat 96 (blk + opnd * 2 ^ 6 + fld c.daddr 0 18 * 2 ^ 32 + koff % 2 ^ 16 * 2 ^ 64)
  .more { c with stalled := true, skind := kind, va := va }
    (engineFault (y / 64) (0x400 + y % 64) va kind 2 store c.job detail s)

/-- R173, R253: a host port reports a completion error for an access of a command: it stalls at the group or row that it has
reached. -/
def loomErrorAt (y : Nat) (c : LoomCmd) (va : Nat) (s : State) : Turn :=
  let d := descOf c
  let product (sparse : Bool) (ctx : Word) : Turn :=
    let n4 : Bool := match LCtx.ofWord ctx with | some x => x.fa == .n4 | none => false
    loomStall y (pdC d) c va 5 (if n4 then c.got.length % 2 else 0) ((if sparse then 96 else 32) * c.group) false s
  match c.instr with
  | .mmul .. => product false c.value
  | .mmuls .. => product true c.value
  | .mretry .. =>
    (match c.replay.bind fun r => r.rpos.bind fun n => r.entries[n]? with
      | some e => product e.s e.ctx
      | none => loomStall y (fld c.value 0 6) c va 5 2 c.got.length false s)
  | .mdrain .. => loomStall y (tdBlk d) c va 5 2 ((va - (tdAddr d).toNat) / max 1 (tdStr d)) true s
  | _ => loomStall y (tdBlk d) c va 5 2 c.got.length false s

/-- R230: the command ends with a class other than OK; its target block fails. -/
def loomFail (y blk cls : Nat) (c : LoomCmd) (s : State) : Turn := .fin (some cls) c (modBlock y blk (failBlock cls) s)
def loomPoison (y blk : Nat) (c : LoomCmd) (s : State) : Turn := .fin (some 5) c (modBlock y blk poisonBlock s)

/-- R226: the groups that one product turn holds. -/
def groupsPerTurn (x : LCtx) (d : BitVec 512) (sparse : Bool) : Nat :=
  max 1 (if sparse then 256 * x.q / (4 * spN d) else 256 * x.q / 32)

/-- R234, R235: the groups of one turn from group `c.group` on. -/
def prodGroups (y site : Nat) (x : LCtx) (d : BitVec 512) (sparse : Bool) : Nat → LoomCmd → State → Turn
  | 0, c, s => .more c s
  | f + 1, c, s =>
    let size := if sparse then 96 else 32
    let k0 := size * c.group
    if pdK d ≤ k0 then .fin (some 0) c s
    else
      let n := min size (pdK d - k0)
      let blk := pdC d
      let reads := if pdSrc d then [] else readsA x.fa d k0 n
      match loomReads site c.job (reads.drop c.got.length) c.got s with
      | .stop (.page va k) got s =>
        loomStall y blk { c with got := got } va k (if x.fa = .n4 then got.length % 2 else 0) k0 false s
      | .stop _ _ _ => .hole
      | .ok got s =>
        let ar := if pdSrc d then (chainedA x (getBlock s y (pdABlk d)) k0 n, false) else rowsA x.fa n got
        let a := ar.1
        let bad := ar.2
        let c := { c with got := [] }
        let cols := (List.range 64).map fun j => readB site c.job x.fb d sparse k0 n j s
        if bad ∨ cols.any (·.2.2) then loomPoison y blk c s
        else
          let upd (b : Block) : Block :=
            let b := productGroup x.int n a (cols.map (·.1)) (cols.map (·.2.1)) b
            { b with
              tsel := if x.int then b.tsel else lessPrecise (lessPrecise b.tsel (tselOf x.fa)) (tselOf x.fb)
              st := if b.st = .clean then .open_ else b.st }
          let c := { c with group := c.group + 1 }
          let s := modBlock y blk upd s
          if pdK d ≤ size * c.group then .fin (some 0) c s else prodGroups y site x d sparse f c s

/-- R233, R413 step 5: the assay of a chained source is a turn; its masks are rewritten and its status kept. -/
def chainCheck (y : Nat) (c : LoomCmd) (d : BitVec 512) (s : State) : Turn :=
  let src := getBlock s y (pdABlk d)
  match src.st with
  | .empty => loomFail y (pdC d) 11 c s
  | .poisoned => loomFail y (pdC d) 5 c s
  | .failed => loomFail y (pdC d) 4 c s
  | _ =>
    let r := assay (tolFor c.tol src) src
    let s := modBlock y (pdABlk d) (fun b => { b with rowmask := r.1, colmask := r.2.1 }) s
    if src.st = .mismatch ∨ r.1 ≠ 0 ∨ r.2.1 ≠ 0 then loomFail y (pdC d) 4 c s else .more { c with sub := 1 } s

/-- One turn of a product under the context `ctx`: phase 0 makes the checks. -/
def prodTurn (y site : Nat) (ctx : Word) (sparse : Bool) (c : LoomCmd) (s : State) : Turn :=
  let d := descOf c
  match LCtx.ofWord ctx with
  | none => loomFail y (pdC d) 11 c s
  | some x =>
    if c.sub = 0 then
      match prodFail s y site c ctx d sparse with
      | some cls => loomFail y (pdC d) cls c s
      | none =>
        if pdSrc d then chainCheck y c d s
        else prodGroups y site x d sparse (groupsPerTurn x d sparse) { c with sub := 1 } s
    else prodGroups y site x d sparse (groupsPerTurn x d sparse) c s

/-! ### Retry records (R244) -/

/-- R244: opens a retry record, or sets NORETRY when the owner has seven. -/
def openRecord (y blk : Nat) (c : LoomCmd) (base : Bool) (s : State) : State :=
  let l := getLoom s y
  let owned := (l.blocks.filter fun p => p.1 ≠ blk && (p.2.record.map (·.owner)) == some c.e).length
  if 7 ≤ owned then modBlock y blk (fun b => { b with record := none, noretry := true }) s
  else
    let gen := l.gen + 1
    let r : Retry := ⟨base, if base then fld c.daddr 6 12 else 0, if base then inYard c.e.site else 0, c.e, gen, [], none⟩
    modBlock y blk (fun b => { b with record := some r, noretry := false }) (modLoom y (fun l => { l with gen := gen }) s)

/-- R244: a product takes its place in the record of its target, or ends the record at the 65th entry. -/
def appendEntry (y : Nat) (c : LoomCmd) (ctx : Word) (s : State) : State :=
  let e : RetryEntry := ⟨fld c.daddr 6 12, inYard c.e.site,
    (match c.instr with | .mmuls .. => true | _ => false), ctx &&& 0x7FF⟩
  modBlock y (pdC (descOf c)) (fun b => match b.record with
    | none => b
    | some r => if c.recd && decide (r.entries.length < 64) then { b with record := some { r with entries := r.entries ++ [e] } }
      else { b with record := none, noretry := true }) s

/-- R244: a product that did not complete with OK withdraws its entry. -/
def withdrawEntry (y : Nat) (c : LoomCmd) (s : State) : State :=
  if isProduct c.instr ∧ c.recd ∧ c.checked then
    modBlock y (pdC (descOf c)) (fun b => match b.record with
      | none => b
      | some r => { b with record := some { r with entries := r.entries.dropLast } }) s
  else s

/-- R244: does a product that is accepted now hold one of the first 64 entries of the record? One accepted behind a command
that opens a record counts from there; whether the record has room is seen when the command begins (`appendEntry`). -/
def recordRoom (s : State) (y blk : Nat) : Bool :=
  let cmds := ((getLoom s y).queues.flatMap (·.2)).filter fun c => loomTarget c == some blk
  let opens (c : LoomCmd) : Bool := !c.started && (match c.instr with | .mzero .. | .mloada .. => true | _ => false)
  let last : Nat := (cmds.filter opens).foldl (fun m (c : LoomCmd) => max m c.serial) 0
  let waiting := (cmds.filter fun (c : LoomCmd) => isProduct c.instr && c.recd && !c.started && decide (last ≤ c.serial)).length
  let held := if cmds.any opens then 0 else match (getBlock s y blk).record with
    | some r => r.entries.length
    | none => 0
  decide (held + waiting < 64)

/-! ### MLOADA and MDRAIN (R237 to R239) -/

/-- R237: reserved fields, format, alignment and stride. -/
def transferOk (d : BitVec 512) : Bool :=
  match tdFmt d with
  | none => false
  | some f => f != .n4 && fld d 99 413 == 0 && decide ((tdAddr d).toNat % fmtBytes f = 0) && decide (64 * fmtBytes f ≤ tdStr d)

def fmtBytesOf (d : BitVec 512) : Nat := match tdFmt d with | some f => fmtBytes f | none => 1
/-- R160: the extent of an image. -/
def imageExtent (d : BitVec 512) : Word × Nat × Bool := (tdAddr d, 63 * tdStr d + 64 * fmtBytesOf d, false)

/-- R238: a cell from an element of an image: its value, exactly. A NaN of whatever pattern becomes the canonical one of FP32
(log entry 80). -/
def loadCell (f : Fmt) (p : Nat) : BitVec 32 :=
  if f.isInt then BitVec.ofInt 32 (decInt f p) else toF32 (decFloat f p)

/-- R237: the reads of the 64 rows of an image, and the cells that they give. -/
def readsImage (f : Fmt) (d : BitVec 512) : List (Word × Nat) :=
  (List.range 64).map fun i => (addrAt (tdAddr d) (tdStr d * i), 64 * fmtBytes f)
def imageCells (f : Fmt) (got : List (List Byte × Bool)) : List (BitVec 32) :=
  got.flatMap fun r => (List.range 64).map fun j => loadCell f (bytesNat r.1 / 2 ^ (f.width * j) % 2 ^ f.width)

/-- R238: MLOADA of block `tdBlk` from the tile `site`; `opens` opens a record. -/
def loadTurn (y site : Nat) (opens : Bool) (c : LoomCmd) (s : State) : Turn :=
  let d := descOf c
  let blk := tdBlk d
  if !transferOk d ∨ fld d 84 4 ≠ 0 ∨ fld d 94 5 ≠ 0 then loomFail y blk 11 c s
  else match extentClass s site c.priv (imageExtent d), tdFmt d with
    | some cls, _ => loomFail y blk cls c s
    | none, none => loomFail y blk 11 c s
    | none, some f =>
      match loomReads site c.job ((readsImage f d).drop c.got.length) c.got s with
      | .stop (.page va k) got s => loomStall y blk { c with got := got } va k 2 got.length false s
      | .stop _ _ _ => .hole
      | .ok got s =>
        let c := { c with got := [] }
        let s := modBlock y blk (loadedBlock f.isInt (imageCells f got)) s
        let s := if opens then openRecord y blk c true s else s
        if got.any (·.2) then loomPoison y blk c s else .fin (some 0) c s

/-- Replies to the strand that waits for the loom. -/
def loomReply (c : LoomCmd) (f : State → State) (s : State) : State :=
  match (getStrand s (skey c.e)).flight with
  | some (.loom i) =>
    if i = c.instr then f (readyIn 1 (asStrand c.e s)) else s
  | _ => s

/-- R239: the class with which a drain fails before its block is examined. -/
def drainFail (s : State) (y : Nat) (c : LoomCmd) : Option Nat :=
  let d := descOf c
  let b := getBlock s y (tdBlk d)
  if !mayName s y c (tdBlk d) then some 1
  else if !transferOk d ∨ 4 < tdRnd d ∨ (d.getLsbD 95 ∧ 4 < fld d 96 3) ∨
      (b.st ≠ .empty ∧ (((tdFmt d).map Fmt.isInt) ≠ some b.int ∨ (b.int ∧ (tdRnd d ≠ 0 ∨ tdSat d)))) then some 11
  else match extentClass s c.e.site c.priv (imageExtent d) with
    | some cls => some cls
    | none => if b.st = .empty then some 11 else none

/-- R239, first part: the loom reaches the command, checks it and examines the block. -/
def drainStart (y : Nat) (c : LoomCmd) (s : State) : Turn :=
  let d := descOf c
  let blk := tdBlk d
  let x := if tdRnd d = 4 then takeStep c.e s else (0, s)
  let c := { c with step := x.1 }
  let s := x.2
  let trap (cause : Cause) (s : State) : Turn :=
    .fin none c (loomReply c (raiseLate cause (BitVec.ofNat 64 blk)) s)
  match drainFail s y c with
  | some cls => .fin (some cls) c (loomReply c next s)
  | none =>
    let b := getBlock s y blk
    match b.st with
    | .poisoned => trap .uncorr s
    | .failed => trap .assay s
    | _ =>
      let b := applyAssay (assay (tolFor c.tol b) b) true b
      let s := modBlock y blk (fun _ => b) s
      if b.st = .mismatch then trap .assay s
      else
        let w := blockStatus s b
        let s := if tdKeep d then s else modBlock y blk (fun b => { b with record := none }) s
        .more { c with sub := 1, value := w } (loomReply c next s)

/-- R46, R239: the RST draws of the cells of a float block in order; NaN, infinite and zero cells take none (log entry 9). -/
def cellDraws : List (BitVec 32) → Word × Word → List Nat
  | [], _ => []
  | v :: r, g => match f32Of v with
    | .num _ (_ + 1) _ _ => let x := rngStep g.1 g.2; draw16 x.2.2 :: cellDraws r (x.1, x.2.1)
    | _ => 0 :: cellDraws r g
def drainDraws (c : LoomCmd) (b : Block) : List Nat :=
  if tdRnd (descOf c) = 4 then cellDraws ((List.range 64).flatMap (rowOf b)) (seedEngine c.step) else []

/-- R46, R239: the bytes of one row of a drained image. An infinite cell drained to FP32 with SAT = 1 becomes the largest finite
value, as R46 has it for a drain, and does not keep its bits as R47 has it for equal formats: the model's choice (log entry 99). -/
def drainRow (d : BitVec 512) (f : Fmt) (b : Block) (draws : List Nat) (i : Nat) : List Byte :=
  (rowOf b i).zipIdx.flatMap fun p =>
    let v := if b.int then encInt f (clampInt f p.1.toInt)
      else convTo f ((Rnd.ofCode (tdRnd d)).getD .rne) (tdSat d) (draws.getD (64 * i + p.2) 0) (f32Of p.1)
    natBytes (fmtBytes f) v

/-- R204: bytes that the drain of tile `t` has still to write, a line at a time (LOOM_COMMAND_COMPLETE). -/
def putLines (y t : Nat) (l : List LineByte) (s : State) : State :=
  modLoom y (fun m => { m with lines := tset m.lines t (tget [] m.lines t ++ l) }) s

/-- R239, second part: forms the rows from `c.group` on; a translation fault stops at its row, and the rows before it are
written. The command ends when the last line is written (LOOM_COMMAND_COMPLETE). -/
def drainRows (y : Nat) (f : Fmt) (draws : List Nat) : Nat → LoomCmd → State → Turn
  | 0, c, s => .more { c with sub := 2 } (enqueue (.loomCommandComplete y (inYard c.e.site)) s)
  | n + 1, c, s =>
    let d := descOf c
    let a := addrAt (tdAddr d) (tdStr d * c.group)
    match engineBytes c.e.site c.job a (64 * fmtBytes f) true s with
    | .error (.page va k) => loomStall y (tdBlk d) c va k 2 c.group true
        (enqueue (.loomCommandComplete y (inYard c.e.site)) (engineWalked c.e.site c.job a (64 * fmtBytes f) true s))
    | .error _ => .hole
    | .ok x => match x.place with
      | .bytes ks =>
        drainRows y f draws n { c with group := c.group + 1 }
          (putLines y (inYard c.e.site) ((ks.zip (drainRow d f (getBlock x.st y (tdBlk d)) draws c.group)).zipIdx.map fun p =>
            ⟨p.1.1, fld a 0 57 + p.2, p.1.2, false⟩) x.st)
      | _ => .hole

/-- R239: a turn of MDRAIN. -/
def drainTurn (y : Nat) (c : LoomCmd) (s : State) : Turn :=
  if c.sub = 0 then drainStart y c s
  else match tdFmt (descOf c) with
    | none => .fin (some 11) c s
    | some f => drainRows y f (drainDraws c (getBlock s y (tdBlk (descOf c)))) (64 - c.group) c s

/-- R204: what the drain of a tile has still to write. -/
def setLines (y t : Nat) (l : List LineByte) (s : State) : State :=
  modLoom y (fun m => { m with lines := if l = [] then terase m.lines t else tset m.lines t l }) s

/-- R204: writes one 64-byte line of what the drain of a tile has still to write; after the last, fences may end (R188). A
host page stops it while no link is up (R162), row and block standing in the fault record. -/
def drainLine (y t : Nat) (s : State) : State :=
  let l := tget [] (getLoom s y).lines t
  match lineStop s l, tget [] (getLoom s y).queues t with
  | some va, c :: r =>
    if c.stalled then s
    else (match loomErrorAt y c va s with
      | .more c s => modLoom y (fun m => { m with queues := tset m.queues t (c :: r) }) s
      | _ => s)
  | _, _ =>
    let s := enqueue (.loomCommandComplete y t) (setLines y t (lineRest l) (writeLineOf 2 y l s))
    if lineRest l = [] then wakeFences s else s

/-- R239: the image is written: with KEEP = 0 the block becomes EMPTY. -/
def drainEnd (y : Nat) (c : LoomCmd) (s : State) : State :=
  if tdKeep (descOf c) then s else modBlock y (tdBlk (descOf c)) (fun b => { b with st := .empty }) s

/-- R239: has the command formed its image, whose lines are still to be written? -/
def drainFormed (c : LoomCmd) : Bool := (match c.instr with | .mdrain .. => true | _ => false) && c.sub == 2

/-! ### Synchronous commands (R241 to R243, R250, R251) -/

def syncDest : Instr → XReg
  | .mchk _ d _ | .mcorr _ d _ | .mloc _ d _ _ | .mstat _ _ d _ => d
  | _ => 0

/-- MCHK (R241) at the loom. -/
def mchkTurn (y : Nat) (c : LoomCmd) (s : State) : Turn :=
  let blk := fld c.value 0 6
  let b := getBlock s y blk
  let trap (cause : Cause) (w : Word) (s : State) : Turn :=
    .fin none c (loomReply c (fun s => raiseLate cause (BitVec.ofNat 64 blk) (wx (syncDest c.instr) w s)) s)
  match b.st with
  | .empty => .fin none c (loomReply c (fun s => next (wx (syncDest c.instr) (blockStatus s b) s)) s)
  | .failed => trap .assay (blockStatus s b) s
  | .poisoned => trap .uncorr (blockStatus s b) s
  | _ =>
    let b := applyAssay (assay (tolFor c.tol b) b) true b
    let s := modBlock y blk (fun _ => b) s
    if b.st = .mismatch then trap .assay (blockStatus s b) s
    else .fin none c (loomReply c (fun s => next (wx (syncDest c.instr) (blockStatus s b) s)) s)

/-- MLOC (R242) at the loom: the assay, then the report in a turn of its own. `c.step` holds the address. -/
def mlocTurn (y : Nat) (c : LoomCmd) (s : State) : Turn :=
  let blk := fld c.value 0 6
  let b := getBlock s y blk
  if c.sub = 0 ∧ b.st ≠ .empty ∧ b.st ≠ .failed ∧ b.st ≠ .poisoned then
    .more { c with sub := 1 } (modBlock y blk (applyAssay (assay (tolFor c.tol b) b) true) s)
  else
    let w := blockStatus s b
    let ks := localKeys (asStrand c.e s) c.step 1088
    let s := writeBytes (ks.zip (mlocReport s b)) s
    .fin none c (loomReply c (fun s => next (wx (syncDest c.instr) w s)) s)

/-- MCORR (R243) at the loom: phase 1 is the assay of the corrected block, phase 2 that of the restored one.
`c.step` holds the old cell in [31:0] and its index from bit 32 on. -/
def mcorrTurn (y : Nat) (c : LoomCmd) (s : State) : Turn :=
  let blk := fld c.value 0 6
  let b := getBlock s y blk
  let done (v : Word) (f : Block → Block) (s : State) : Turn :=
    .fin none c (loomReply c (fun s => next (wx (syncDest c.instr) v s)) (modBlock y blk f s))
  let fail (s : State) : Turn := done 1 (fun b => { b with uncorr := true }) s
  let t := tolFor c.tol b
  if c.sub = 0 then
    if b.st = .empty ∨ b.st = .failed ∨ b.st = .poisoned then fail s
    else
      let b := applyAssay (assay t b) false b
      let s := modBlock y blk (fun _ => b) s
      if b.st = .clean then done 2 id s
      else match oneBit b.rowmask, oneBit b.colmask with
        | some i, some j => match correction t b i j with
          | some v =>
            let old := cellAt b i j
            .more { c with sub := 1, step := BitVec.ofNat 64 (old.toNat + (64 * i + j) * 2 ^ 32) }
              (modBlock y blk (fun b => { b with cells := putAt b.cells (64 * i + j) v }) s)
          | none => fail s
        | _, _ => fail s
  else if c.sub = 1 then
    let b := applyAssay (assay t b) false b
    let s := modBlock y blk (fun _ => b) s
    if b.st = .clean then done 0 (fun b => { b with corrected := true, uncorr := false }) s
    else .more { c with sub := 2 }
      (modBlock y blk (fun b => { b with cells := putAt b.cells (fld c.step 32 16) (BitVec.ofNat 32 (fld c.step 0 32)) }) s)
  else fail (modBlock y blk (applyAssay (assay t b) true) s)

/-- MSTAT (R250) at the loom. -/
def mstatTurn (y : Nat) (c : LoomCmd) (s : State) : Turn :=
  let b := getBlock s y (fld c.value 0 6)
  let v := match c.instr with
    | .mstat _ sel _ _ => if sel = 0 then blockStatus s b else if sel = 1 then b.rowmask else b.colmask
    | _ => 0
  .fin none c (loomReply c (fun s => next (wx (syncDest c.instr) v s)) s)

/-- MZERO (R249) at the loom: a block of another booth is left unchanged and reported; the record's request kind is
the opcode (log entry 20). -/
def mzeroTurn (y : Nat) (c : LoomCmd) (s : State) : Turn :=
  let blk := fld c.value 0 6
  match c.instr with
  | .mzero _ int nort _ =>
    if !mayName s y c blk then
      .fin none c (logTo (y / 64) [mkLog s 0x0F 1 c.job (endpoint s c.e) (0x400 + y % 64) (y / 64)
        (BitVec.ofNat 64 blk) (Config.requestKind 0xC01) 0] s)
    else
      let s := modBlock y blk (zeroedBlock int) s
      .fin none c (if nort then modBlock y blk (fun b => { b with noretry := true }) s else openRecord y blk c false s)
  | _ => .fin none c s

/-! ### MRETRY (R246) -/

/-- R245, R246: no replay of the block runs any more. -/
def replayOver (b : Block) : Block :=
  { b with replaying := false, record := b.record.map fun r => { r with rpos := none } }

/-- R230, R246: the replay ends with a class; one other than OK makes the block FAILED, unless a poisoned operand word has
made it POISONED. -/
def retryEnd (y blk cls : Nat) (c : LoomCmd) (s : State) : Turn :=
  .fin (some cls) c (modBlock y blk (fun b => if cls = 0 then replayOver b else failBlock cls (replayOver b)) s)
/-- R254: the loom has met poison in a descriptor of the replay. -/
def retryPoison (y blk : Nat) (c : LoomCmd) (s : State) : Turn := retryEnd y blk 5 c (modBlock y blk poisonBlock s)

/-- R246: the position of the replay, in the command and in the block's record. -/
def retryAt (y blk n : Nat) (c : LoomCmd) (s : State) : LoomCmd × State :=
  ({ c with replay := c.replay.map fun r => { r with rpos := some n } },
   modBlock y blk (fun b => { b with record := b.record.map fun r => { r with rpos := some n } }) s)

/-- R246: one turn of the replay of entry `n`. The descriptor is read when the entry begins. -/
def retryEntry (y blk n : Nat) (r : Retry) (e : RetryEntry) (c : LoomCmd) (s : State) : Turn :=
  let site := siteInYard y e.tile
  let ks := keysFrom (localKey site (64 * e.doff)) 64
  let begins := c.sub = 0 ∧ !c.checked
  let c := if begins then { c with desc := some (BitVec.ofNat 512 (readNat s ks)), checked := true } else c
  if begins ∧ (poisonRead s ks).isSome then retryPoison y blk c s
  else if begins ∧ !(mayName s y c (pdC (descOf c)) && (!pdSrc (descOf c) || mayName s y c (pdABlk (descOf c)))) then
    retryEnd y blk 1 c s
  else match prodTurn y site e.ctx e.s c s with
    | .hole => .hole
    | .more c s => .more c s
    | .fin cls c s =>
      if cls = some 0 then
        if n + 1 < r.entries.length then
          let x := retryAt y blk (n + 1) { c with sub := 0, group := 0, checked := false } s
          .more x.1 x.2
        else retryEnd y blk 0 c s
      else retryEnd y blk (cls.getD 0) c s

/-- R246: after the base, the first entry, or the end of an empty record. -/
def retryFirst (y blk : Nat) (r : Retry) (c : LoomCmd) (s : State) : Turn :=
  let c := { c with group := 0, sub := 0, checked := false }
  if r.entries = [] then retryEnd y blk 0 c s
  else let x := retryAt y blk 0 c s; .more x.1 x.2

/-- R246: the base of the replay: zeros, or MLOADA from its descriptor, which is read when the base begins and names a block
that the issuing strand may name (R225). -/
def retryBase (y blk : Nat) (r : Retry) (c : LoomCmd) (s : State) : Turn :=
  if r.base then
    let site := siteInYard y r.btile
    let ks := keysFrom (localKey site (64 * r.bdoff)) 64
    let begins := !c.checked
    let c := if begins then { c with desc := some (BitVec.ofNat 512 (readNat s ks)), checked := true } else c
    if begins ∧ (poisonRead s ks).isSome then retryPoison y blk c s
    else if begins ∧ !mayName s y c (tdBlk (descOf c)) then retryEnd y blk 1 c s
    else match loadTurn y site false c s with
      | .hole => .hole
      | .more c s => .more c s
      | .fin cls c s => if cls = some 0 then retryFirst y blk r c s else retryEnd y blk (cls.getD 0) c s
  else retryFirst y blk r c
    (modBlock y blk (fun b => { b with cells := [], pc := [], pr := [], mc := [], mr := [], tsel := 7 }) s)

/-- MRETRY (R246): `c.replay` is the record once the replay has begun. -/
def mretryTurn (y : Nat) (c : LoomCmd) (s : State) : Turn :=
  let blk := fld c.value 0 6
  match c.replay with
  | none =>
    let b := getBlock s y blk
    if !mayName s y c blk then .fin (some 1) c s
    else match b.record with
      | none => .fin (some 4) c s
      | some r =>
        if b.noretry then .fin (some 4) c s
        else retryBase y blk r { c with replay := some r }
          (modBlock y blk (fun b =>
            { b with replaying := true, st := .open_, rowmask := 0, colmask := 0, corrected := false, uncorr := false,
                     fclass := 0 }) s)
  | some r =>
    match r.rpos with
    | none => retryBase y blk r c s
    | some n => match r.entries[n]? with
      | none => retryEnd y blk 0 c s
      | some e => retryEntry y blk n r e c s

/-! ### The loom's agenda (R226) -/

/-- R239, R252: does the command still hold its strand's instruction in flight? -/
def inStrand (c : LoomCmd) : Bool := isSync c.instr && (match c.instr with | .mdrain .. => c.sub == 0 | _ => true)

/-- R226: may the command start: no command accepted earlier targets a block that it names. -/
def loomFree (l : Loom) (c : LoomCmd) : Bool :=
  !(l.queues.any fun q => q.2.any fun o => decide (o.serial < c.serial) &&
      (match loomTarget o with | some b => (loomNames c).contains b | none => false))

/-- R226: the tile queue whose head command takes the next turn. A frozen job's commands hold, but for a synchronous one
that the loom is executing (R370); the write of an MDRAIN, whose instruction has completed, holds with the others. An MDRAIN
whose image is formed has no further turn. -/
def loomPick (s : State) (l : Loom) : Option (Nat × LoomCmd) :=
  (List.range 16).findSome? fun i =>
    let t := (l.rr + i) % 16
    match tget [] l.queues t with
    | [] => none
    | c :: _ =>
      let held := (getJob s c.job).frozen && !(inStrand c && c.started)
      if c.stalled ∨ held ∨ (l.pushing.any fun p => p.1 == t) ∨ (!c.started ∧ !loomFree l c) ∨
        (drainFormed c ∧ c.fclass.isNone) then none else some (t, c)

/-- A turn of a command of the tile `t`. -/
def loomCmdTurn (y t : Nat) (c : LoomCmd) (s : State) : Turn :=
  match c.instr with
  | .mcfg .. => .fin none c (modLoom y (fun l => { l with ctxs := tset l.ctxs t c.value }) s)
  | .mzero .. => mzeroTurn y c s
  | .mmul .. | .mmuls .. =>
    let d := descOf c
    let sparse := match c.instr with | .mmuls .. => true | _ => false
    if c.checked then prodTurn y c.e.site c.value sparse c s
    else if !(mayName s y c (pdC d) && (!pdSrc d || mayName s y c (pdABlk d))) then .fin (some 1) c s
    else
      let ctx := ctxOf (getLoom s y) t
      prodTurn y c.e.site ctx sparse { c with checked := true, value := ctx } (appendEntry y c ctx s)
  | .mloada .. => if !mayName s y c (tdBlk (descOf c)) then .fin (some 1) c s else loadTurn y c.e.site true c s
  | .mdrain .. => drainTurn y c s
  | .mchk .. => mchkTurn y c s
  | .mloc .. => mlocTurn y c s
  | .mcorr .. => mcorrTurn y c s
  | .mstat .. => mstatTurn y c s
  | .mretry .. => mretryTurn y c s
  | _ => .fin none c s

/-- The head command of a tile queue leaves it. -/
def loomPop (y t : Nat) (s : State) : State :=
  let c := (tget [] (getLoom s y).queues t).head?
  let s := modLoom y (fun l =>
    { l with queues := tset l.queues t (tget [] l.queues t).tail, pushing := l.pushing.filter fun p => p.1 ≠ t }) s
  let s := match c with | some c => kickWatch (boothOf s c.e.site) s | none => s
  -- R311: a carter that waits to hand on its follow-on
  let s := [2 * y, 2 * y + 1].foldl (fun s n =>
    if (getCarter s n).cls.isSome then enqueue (.carterCommandComplete n) s else s) s
  enqueue (.loomTurn y) (wakeEngine s)

/-- R278, R408: the completion entry of a command: ADDR of MRETRY is 0, and AUX of an MDRAIN the status word as its assay left
it. -/
def loomEntry (s : State) (y cls : Nat) (c : LoomCmd) : BitVec 256 :=
  let blk := (loomTarget c).getD 0
  let aux := match c.instr with
    | .mdrain .. => if c.sub = 0 then blockStatus s (getBlock s y blk) else c.value
    | _ => blockStatus s (getBlock s y blk)
  let addr := match c.instr with | .mretry .. => 0 | _ => c.daddr
  mkEntry s cls 1 (0x400 + y % 64) (y / 64) (BitVec.ofNat 32 blk) addr aux

/-- R226: a command ends. -/
def loomEnd (y t : Nat) (cls : Option Nat) (c : LoomCmd) (s : State) : State :=
  match cls with
  | none => loomPop y t s
  | some cls =>
    let s := if cls = 0 then s else withdrawEntry y c s
    let en := loomEntry s y cls c
    let s := modLoom y (fun l => { l with pushing := l.pushing ++ [(t, c.handle, en)] }) (engineLog c.job en s)
    wakeFences (enqueue (.loomTurn y) (enqueue (.loomCommandComplete y t) s))

/-- R253, R377: a command that ends with a class before its next turn; a strand that it holds in flight raises UNCORR. -/
def loomAbort (y cls : Nat) (c : LoomCmd) (s : State) : Turn :=
  let s := if cls = 5 then s else match loomTarget c with
    | some b => modBlock y b (failBlock cls) s
    | none => s
  let s := match c.instr, loomTarget c with
    | .mretry .., some b => modBlock y b replayOver s
    | _, _ => s
  let l := tget [] (getLoom s y).lines (inYard c.e.site)
  let drop := hostLines s l
  let s := if drop = [] then s else setLines y (inYard c.e.site) (l.filter fun x => !drop.contains x) s
  if inStrand c then
    .fin none c (match (getStrand s (skey c.e)).flight with
      | some (.loom _) => raiseLate .uncorr (BitVec.ofNat 64 ((loomTarget c).getD 0)) (readyIn 1 (asStrand c.e s))
      | _ => s)
  else .fin (some cls) c s

/-- LOOM_TURN (R226): one turn of the command that the round robin reaches. -/
def execLoomTurn (yard : Nat) (s : State) : Res :=
  let l := getLoom s yard
  if !(getIsland s yard).powered ∨ (getIsland s yard).paused then .next s
  else match loomPick s l with
    | none => .next s
    | some (t, c) =>
      let cur := s.cur
      let s := modLoom yard (fun l => { l with rr := (t + 1) % 16 }) s
      let put (c : LoomCmd) (s : State) : State :=
        modLoom yard (fun l => { l with queues := tset l.queues t (c :: (tget [] l.queues t).tail) }) s
      match (match c.fclass with
        | some cls => loomAbort yard cls c s
        | none => loomCmdTurn yard t { c with started := true } s) with
      | .hole => .fault .noSuchMemory
      | .more c s => .next (asStrand cur (enqueue (.loomTurn yard) (put c s)))
      | .fin cls c s => .next (asStrand cur (loomEnd yard t cls c (put c s)))

/-- LOOM_COMMAND_COMPLETE (R193, R236, R239, R279): writes the lines of a drain that are still to be written, one in each step,
and ends it after the last; or pushes the completion entry of the head command of a tile queue, or stalls at the push. -/
def execLoomCommandComplete (yard t : Nat) (s : State) : Res :=
  let l := getLoom s yard
  if tget [] l.lines t ≠ [] then .next (drainLine yard t s)
  else match tget [] l.queues t, l.pushing.find? fun p => p.1 == t with
  | c :: _, none =>
    .next (if drainFormed c ∧ !c.stalled ∧ c.fclass.isNone then loomEnd yard t (some 0) c (drainEnd yard c s) else s)
  | c :: _, some (_, h, en) =>
    let p := pushEntry c.job h en (yard / 64) (.loom yard t) s
    if p.1 then .next (loomPop yard t p.2) else .next p.2
  | _, _ => .next s

/-! ### Issue and acceptance (R236, R252) -/

/-- R93, R226, R244: a tile queue accepts a command; the tolerance registers are captured. -/
def loomEnqueue (c : LoomCmd) (s : State) : State :=
  let y := yardOf c.e.site
  let t := inYard c.e.site
  let l := getLoom s y
  let c := { c with
    serial := l.serial + 1
    tol := (getTile s c.e.site).tol.toList
    recd := isProduct c.instr && recordRoom s y (pdC (descOf c)) }
  enqueue (.loomTurn y) (modLoom y (fun l =>
    { l with serial := l.serial + 1, queues := tset l.queues t (tget [] l.queues t ++ [c]) }) s)

/-- R226: room in the tile queue. -/
def loomRoom (s : State) (site : Nat) : Bool :=
  decide ((tget [] (getLoom s (yardOf site)).queues (inYard site)).length < 16)

/-- R252: the loom accepts a command of the executing strand: a queued instruction completes, a synchronous one
stays in flight. -/
def loomAccept (c : LoomCmd) (s : State) : State :=
  let s := loomEnqueue c s
  if isSync c.instr then inFlight (.loom c.instr) s else next s

/-- R190, R226: issues a command; while the tile queue is full the instruction stays in flight. -/
def loomIssue (c : LoomCmd) (s : State) : State :=
  let s := drainAll s.cur s
  let first := !(List.range 8).any fun k => match (getStrand s (8 * s.cur.site + k)).flight with
    | some (.acceptL _ _) => true
    | _ => false
  if unperformed s s.cur then inFlight (.held c.instr) s
  else if loomRoom s s.cur.site ∧ first then loomAccept c (readyIn 5 s)
  else { inFlight (.acceptL c s.ticket) s with ticket := s.ticket + 1 }

/-- A command of the executing strand before acceptance. -/
def newLoomCmd (i : Instr) (desc : Option (BitVec 512)) (daddr : Word) (handle : BitVec 32) (value step : Word)
    (s : State) : LoomCmd :=
  ⟨i, s.cur, desc, daddr, handle, (me s).priv, (myTile s).job, (myTile s).booth, [], value, step, 0, false, false, 0, 0,
    false, false, 0, 0, [], none, none⟩


/-- R236: the shape of MMUL, MMULS, MLOADA and MDRAIN: the descriptor lies in the own local store. -/
def loomMem (i : Instr) (g : Guard) (d : XReg) (m : MemOp) (s : State) : Res :=
  guarded g s fun s =>
    match checkLocal s m 64 64 .load with
    | .error e => stopped i false e s
    | .ok a =>
      let ks := localKeys s a 64
      if !ownTile s ks ∨ ks = [] then .next (raise .seg (memOffset s m) s)
      else match doneFail s d with
        | some c => .next (raise c ((doneHandle s d).zeroExtend 64) s)
        | none =>
          let s := drainFor s.cur ks false s
          match poisonRead s ks with
          | some w => .next (raiseLate .uncorr (localAbs w) s)
          | none => .next (loomIssue (newLoomCmd i (some (BitVec.ofNat 512 (readNat s ks))) a (doneHandle s d) 0 0 s) s)

/-- R225: a synchronous command on a block that the strand may not name raises ADDR. -/
def loomSync (i : Instr) (b step : Word) (s : State) : State :=
  let c := newLoomCmd i none 0 0 b step s
  let blk := fld b 0 6
  if mayName s (yardOf s.cur.site) c blk then loomIssue c s else raise .addr (BitVec.ofNat 64 blk) s

/-- MCFG (R248). -/
def execMcfg (g : Guard) (b : XOpnd) (s : State) : Res :=
  guarded g s fun s =>
    let v := rxo s b
    if fld v 11 53 ≠ 0 ∨ (LCtx.ofWord v).isNone then illegal s
    else .next (loomIssue (newLoomCmd (.mcfg g b) none 0 0 v 0 s) s)

/-- MZERO (R249). -/
def execMzero (g : Guard) (int nort : Bool) (b : XOpnd) (s : State) : Res :=
  guarded g s fun s => .next (loomIssue (newLoomCmd (.mzero g int nort b) none 0 0 (rxo s b) 0 s) s)

/-- MMUL (R234, R236). -/
def execMmul (g : Guard) (d : XReg) (m : MemOp) (s : State) : Res := loomMem (.mmul g d m) g d m s

/-- MMULS (R235, R236). -/
def execMmuls (g : Guard) (d : XReg) (m : MemOp) (s : State) : Res := loomMem (.mmuls g d m) g d m s

/-- MLOADA (R236, R238). -/
def execMloada (g : Guard) (d : XReg) (m : MemOp) (s : State) : Res := loomMem (.mloada g d m) g d m s

/-- MDRAIN (R236, R239). -/
def execMdrain (g : Guard) (d : XReg) (m : MemOp) (s : State) : Res := loomMem (.mdrain g d m) g d m s

/-- MCHK (R241). -/
def execMchk (g : Guard) (d : XReg) (b : XOpnd) (s : State) : Res :=
  guarded g s fun s => .next (loomSync (.mchk g d b) (rxo s b) 0 s)

/-- MLOC (R242). -/
def execMloc (g : Guard) (d : XReg) (m : MemOp) (b : XReg) (s : State) : Res :=
  let i : Instr := .mloc g d m b
  guarded g s fun s =>
    match checkLocal s m 1088 64 .store with
    | .error e => stopped i true e s
    | .ok a => .next (loomSync i (rx s b) a s)

/-- MCORR (R243). -/
def execMcorr (g : Guard) (d : XReg) (b : XOpnd) (s : State) : Res :=
  guarded g s fun s => .next (loomSync (.mcorr g d b) (rxo s b) 0 s)

/-- MRETRY (R246). -/
def execMretry (g : Guard) (d : XReg) (b : XOpnd) (s : State) : Res :=
  guarded g s fun s =>
    match doneFail s d with
    | some c => .next (raise c ((doneHandle s d).zeroExtend 64) s)
    | none => .next (loomIssue (newLoomCmd (.mretry g d b) none 0 (doneHandle s d) (rxo s b) 0 s) s)

/-- R251: inverts one bit of a block. -/
def injectBit (v : Word) (b : Block) : Block :=
  let i := fld v 16 6
  let j := fld v 24 6
  let bit : BitVec 32 := 1#32 <<< fld v 32 5
  match fld v 8 2 with
  | 0 => { b with cells := putAt b.cells (64 * i + j) (cellAt b i j ^^^ bit) }
  | 1 => { b with pc := putAt b.pc j (b.pc.getD j 0 ^^^ bit) }
  | _ => { b with pr := putAt b.pr i (b.pr.getD i 0 ^^^ bit) }

/-- R251: no reserved bit is set and TGT is not 3. -/
def minjOk (v : Word) : Bool := v &&& ~~~0x1F3F3F033F#64 == 0 && fld v 8 2 != 3

/-- MINJ (R251): it acts at the loom's next turn boundary, which the next cycle is. -/
def execMinj (g : Guard) (a : XReg) (s : State) : Res :=
  stewardOnly s fun s => guarded g s fun s =>
    let v := rx s a
    if !minjOk v then illegal s
    else afterAll (.minj g a) (fun s => .next (next (modBlock (yardOf s.cur.site) (fld v 0 6) (injectBit v) s))) s

/-- MSTAT (R250). -/
def execMstat (g : Guard) (sel : Fin 3) (d : XReg) (b : XOpnd) (s : State) : Res :=
  guarded g s fun s => .next (loomSync (.mstat g sel d b) (rxo s b) 0 s)

/-! ### The pager's answers to a loom (R175, R253) -/

/-- R175: RESUME lets the head command of a tile queue go on; ABORT ends it with TRANSLATE. -/
def loomAnswer (yard t : Nat) (abort : Bool) (s : State) : State :=
  match tget [] (getLoom s yard).queues t with
  | c :: r =>
    if c.stalled then
      enqueue (.loomCommandComplete yard t) (enqueue (.loomTurn yard) (modLoom yard (fun l => { l with
        queues := tset l.queues t ({ c with stalled := false, fclass := if abort then some 2 else none } :: r) }) s))
    else s
  | [] => s

end Sys2Proof.Machine
end

