-- ==== Sys2Proof/Machine/Carter.lean ====
section
/-!
DEFINITION. Class D: the carters (R280, R302 to R312): issue, checks, transfer line by line, landing chunks,
completion and follow-on.
-/

namespace Sys2Proof.Machine

/-! ### The descriptor (R304) -/

def kdSrc (d : BitVec 512) : Word := d.extractLsb' 0 64
def kdDst (d : BitVec 512) : Word := d.extractLsb' 64 64
def kdLen (d : BitVec 512) : Nat := fld d 128 32
def kdCnt (d : BitVec 512) (i : Nat) : Nat := fld d (160 + 16 * i) 16
def kdSStr (d : BitVec 512) (i : Nat) : Int := (d.extractLsb' (208 + 32 * i) 32).toInt
def kdDStr (d : BitVec 512) (i : Nat) : Int := (d.extractLsb' (304 + 32 * i) 32).toInt
def kdLw (d : BitVec 512) : Nat := fld d 400 25
def kdLwen (d : BitVec 512) : Bool := d.getLsbD 425
def kdSFmt (d : BitVec 512) : Nat := fld d 426 4
def kdDFmt (d : BitVec 512) : Nat := fld d 430 4
def kdRnd (d : BitVec 512) : Nat := fld d 434 3
def kdSat (d : BitVec 512) : Bool := d.getLsbD 437
def kdCode (d : BitVec 512) : Bool := d.getLsbD 438
def kdMdoff (d : BitVec 512) : Nat := fld d 440 12
def kdMkind (d : BitVec 512) : Bool := d.getLsbD 452
def kdMhandle (d : BitVec 512) : BitVec 32 := d.extractLsb' 456 32
def kdTag (d : BitVec 512) : BitVec 32 := (d.extractLsb' 488 24).zeroExtend 32
/-- R305: the index array address of CGATH. -/
def kdIdx (d : BitVec 512) : Word := d.extractLsb' 208 64

/-- The kinds of a carter command. -/
inductive CarterOp where
  | copy | fill | conv | gath
  deriving DecidableEq, Repr

def carterOp : Instr → CarterOp
  | .cfill .. => .fill
  | .cconv .. => .conv
  | .cgath .. => .gath
  | _ => .copy
def carterStripe : Instr → Bool
  | .ccopy _ _ _ st _ _ _ | .cconv _ _ _ st _ _ _ => st
  | _ => false
def carterFollow : Instr → Bool
  | .ccopy _ _ _ _ m _ _ | .cconv _ _ _ _ m _ _ | .cgath _ _ _ m _ _ => m
  | _ => false
def carterOf : Instr → Bool
  | .ccopy _ _ c .. | .cfill _ _ c .. | .cconv _ _ c .. | .cgath _ _ c .. | .cstat _ _ c _ => c
  | _ => false

/-- The element widths of source and destination in bytes; 1 where the command moves bytes. -/
def carterWidths (i : Instr) (d : BitVec 512) : Nat × Nat :=
  match carterOp i, Fmt.ofCode (kdSFmt d), Fmt.ofCode (kdDFmt d) with
  | .conv, some a, some b => (fmtBytes a, fmtBytes b)
  | _, _, _ => (1, 1)
/-- R308: the element width of a striped destination. -/
def stripeWidth (i : Instr) (d : BitVec 512) : Nat :=
  match Fmt.ofCode (if carterOp i = .conv then kdDFmt d else kdSFmt d) with
  | some f => max 1 (fmtBytes f)
  | none => 1
/-- R308: the columns of a striped destination. -/
def stripeCols (i : Instr) (d : BitVec 512) : Nat := if carterOp i = .conv then kdLen d else kdLen d / stripeWidth i d

/-- The bytes of a row at source and destination, and the number of rows. -/
def srcRow (c : CarterCmd) : Nat := kdLen c.desc * (carterWidths c.instr c.desc).1
def dstRow (c : CarterCmd) : Nat := kdLen c.desc * (carterWidths c.instr c.desc).2
def carterRows (c : CarterCmd) : Nat := kdCnt c.desc 0 * kdCnt c.desc 1 * kdCnt c.desc 2

def addrPlus (a : Word) (n : Int) : Word := a + BitVec.ofInt 64 n

/-- R307: the strided sum for a row. -/
def rowOffset (d : BitVec 512) (f : Nat → Int) (row : Nat) : Int :=
  let n1 := kdCnt d 0
  let n2 := kdCnt d 1
  ((row % n1 : Nat) : Int) * f 0 + ((row / n1 % n2 : Nat) : Int) * f 1 + ((row / n1 / n2 : Nat) : Int) * f 2

/-- R307, R309: where a row begins at the source and at the destination. -/
def rowSrc (q : Carter) (c : CarterCmd) (row : Nat) : Word :=
  if carterOp c.instr = .gath then addrPlus (kdSrc c.desc) (q.idx.getD row 0 * kdSStr c.desc 2)
  else addrPlus (kdSrc c.desc) (rowOffset c.desc (kdSStr c.desc) row)
def rowDst (c : CarterCmd) (row : Nat) : Word :=
  if carterOp c.instr = .gath then addrPlus (kdDst c.desc) ((row : Int) * kdDStr c.desc 0)
  else addrPlus (kdDst c.desc) (rowOffset c.desc (kdDStr c.desc) row)

/-! ### Checks (R305, R306, R308) -/

/-- R305, R308: the fields that an instruction uses. -/
def carterFieldsOk (i : Instr) (d : BitVec 512) : Bool :=
  let plain := kdSFmt d == 0 && kdDFmt d == 0 && kdRnd d == 0 && !kdSat d
  let follow := carterFollow i || (kdMdoff d == 0 && !kdMkind d && kdMhandle d == 0)
  let dims := kdLen d != 0 && kdCnt d 0 != 0 && kdCnt d 1 != 0 && kdCnt d 2 != 0
  let real (n : Nat) : Bool := match Fmt.ofCode n with | some f => f != .n4 | none => false
  let stripe := !carterStripe i ||
    (decide (kdLen d % (if carterOp i = .conv then 1 else stripeWidth i d) = 0) && decide (stripeCols i d % 32 = 0) &&
      tagOf (kdDst d) == 0 && decide ((kdDst d).toNat % 8192 = 0) && kdCnt d 1 == 1 && kdCnt d 2 == 1 &&
      decide (kdDStr d 0 = 0) && decide (kdDStr d 1 = 0) && decide (kdDStr d 2 = 0))
  !d.getLsbD 439 && fld d 453 3 == 0 && dims && follow && stripe && (!kdLwen d || decide (kdLw d % 16 = 0)) &&
  (match carterOp i with
    | .copy => if carterStripe i then kdSFmt d == kdDFmt d && real (kdSFmt d) && kdRnd d == 0 && !kdSat d else plain
    | .fill => plain && !kdCode d && decide (kdSStr d 0 = 0) && decide (kdSStr d 1 = 0) && decide (kdSStr d 2 = 0)
    | .conv => real (kdSFmt d) && real (kdDFmt d) && decide (kdRnd d ≤ 4) && !kdCode d
    | .gath => plain && !kdCode d && kdCnt d 1 == 1 && kdCnt d 2 == 1 && decide (kdDStr d 1 = 0) &&
        decide (kdDStr d 2 = 0) && decide (2 ≤ tagOf (kdIdx d)) && decide ((kdIdx d).toNat % 4 = 0))

/-- The width of an address's offset field (R154). -/
def fieldSize (a : Word) : Nat :=
  match tagOf a with
  | 0 => 2 ^ 57
  | 1 => 2 ^ 44
  | _ => 0x40000

/-- R160, R306: the class and address with which an extent from `lo` to `hi` (both included) beside an address
fails. -/
def spanFail (s : State) (c : CarterCmd) (a : Word) (lo hi : Int) : Option (Nat × Word) :=
  let o : Int := (a.toNat % fieldSize a : Nat)
  if o + lo < 0 ∨ (fieldSize a : Int) ≤ o + lo then some (3, addrPlus a lo)
  else match engineAddr s c.e.site c.priv (addrPlus a lo) (hi - lo + 1).toNat with
    | some 3 => some (3, addrPlus a hi)
    | some cls => some (cls, addrPlus a lo)
    | none => none

/-- The lowest and the highest byte of a strided extent of `n`-byte rows. -/
def spanOf (d : BitVec 512) (f : Nat → Int) (n : Nat) : Int × Int :=
  let e (i : Nat) : Int := ((kdCnt d i : Nat) - 1 : Int) * f i
  let neg (v : Int) : Int := min v 0
  let pos (v : Int) : Int := max v 0
  (neg (e 0) + neg (e 1) + neg (e 2), pos (e 0) + pos (e 1) + pos (e 2) + n - 1)

/-- R306 step 2: source, index array, destination, then the landing word. -/
def carterAddrFail (s : State) (c : CarterCmd) : Option (Nat × Word) :=
  let d := c.desc
  let win (a : Word) : Bool := tagOf a == 1
  let ss := spanOf d (kdSStr d) (srcRow c)
  let ds : Int × Int := match carterOp c.instr with
    | .gath => spanOf d (fun i => if i = 0 then kdDStr d 0 else 0) (dstRow c)
    | _ => if carterStripe c.instr then (0, stripedExtent (kdCnt d 0) (stripeCols c.instr d) (stripeWidth c.instr d) - 1)
      else spanOf d (kdDStr d) (dstRow c)
  let src : Option (Nat × Word) := match carterOp c.instr with
    | .fill => none
    | .gath => if win (kdSrc d) then some (1, kdSrc d)
      else match engineAddr s c.e.site c.priv (kdSrc d) 1 with
        | some cls => some (cls, kdSrc d)
        | none => spanFail s c (kdIdx d) 0 (4 * kdCnt d 0 - 1)
    | _ => if win (kdSrc d) then some (1, addrPlus (kdSrc d) ss.1) else spanFail s c (kdSrc d) ss.1 ss.2
  match src with
  | some f => some f
  | none =>
    if win (kdDst d) ∧ kdLwen d then some (1, addrPlus (kdDst d) ds.1)
    else match spanFail s c (kdDst d) ds.1 ds.2 with
      | some f => some f
      | none =>
        let t := siteInCluster (clusterOf c.e.site) (kdLw d / 2 ^ 18 % 8) (kdLw d / 2 ^ 21 % 16)
        if kdLwen d ∧ (!isGood s t ∨ (!c.priv ∧ (getTile s t).job ≠ c.job)) then some (1, c.daddr) else none

/-- R306 step 3: an address in each source page of a code copy from virtual addresses. -/
def codePages (c : CarterCmd) : List Nat :=
  let d := c.desc
  if !kdCode d ∨ tagOf (kdSrc d) ≠ 0 then []
  else (List.range (carterRows c)).flatMap fun row =>
    let a := (addrPlus (kdSrc d) (rowOffset d (kdSStr d) row)).toNat
    (List.range ((a % 4096 + srcRow c - 1) / 4096 + 1)).map fun p => max a ((a / 4096 + p) * 4096)

/-- R306 step 3: the first page that stops a code copy: one without X, or one that does not translate, with the kind of the
fault (R175); and the state that the walks leave (R168). -/
def codeStop (cluster : Nat) (job : BitVec 16) : List Nat → State → Option (Nat × Option Nat) × State
  | [], s => (none, s)
  | va :: r, s =>
    match translate cluster job va false s with
    | .ok x => if x.leaf.getLsbD 3 then codeStop cluster job r x.st else (some (va, none), x.st)
    | .error (.page _ kind) => (some (va, some kind), walked cluster job va false s)
    | .error _ => (none, s)

/-- R306: what the checks before the first write find: a class with an address, or the VA and kind of a translation fault. -/
inductive CCheck where
  | pass
  | fail (cls : Nat) (a : Word)
  | exec (va : Nat)
  | fault (va kind : Nat)
  deriving DecidableEq, Repr

/-- R306: the checks before the first write, and the state that their walks leave. -/
def carterCheck (s : State) (n : Nat) (c : CarterCmd) : CCheck × State :=
  if !yardLive s (n / 2) then (.fail 1 c.daddr, s)
  else if !carterFieldsOk c.instr c.desc then (.fail 11 c.daddr, s)
  else match carterAddrFail s c with
    | some f => (.fail f.1 f.2, s)
    | none =>
      let r := codeStop (clusterOf c.e.site) c.job (codePages c) s
      (match r.1 with
        | none => .pass
        | some (va, none) => .exec va
        | some (va, some kind) => .fault va kind, r.2)

/-! ### The transfer (R307 to R310) -/

/-- What one unit of a transfer comes to. -/
inductive CStep where
  | go (s : State)
  | wait (s : State)
  | hole

/-- R175: the carter stalls at a translation fault; DETAIL holds the byte position, then the command's number. -/
def carterStall (n va kind : Nat) (store : Bool) (s : State) : CStep :=
  let q := getCarter s n
  match q.queue with
  | [] => .wait s
  | c :: _ =>
    let s := modCarter n (fun q => { q with stalled := true, skind := kind, va := BitVec.ofNat 64 va }) s
    .wait (engineFault (n / 128) (0x440 + n % 128) va kind 1 store c.job
      (BitVec.ofNat 32 c.id ++ BitVec.ofNat 64 q.bytes) s)

/-- R306: notes the first failing address. -/
def noteBad (a : Word) (q : Carter) : Carter := { q with bad := some (q.bad.getD a) }

/-- R307: forms destination bytes from whole source elements; draws come from the private generator. -/
def formElems (c : CarterCmd) (f t : Fmt) (r : Rnd) : Nat → List (Byte × Bool) → Word × Word →
    List (Byte × Bool) × List (Byte × Bool) × (Word × Word)
  | 0, l, g => ([], l, g)
  | k + 1, l, g =>
    let ws := fmtBytes f
    if l.length < ws then ([], l, g)
    else
      let e := l.take ws
      let x := if convDraws t f r then rngStep g.1 g.2 else (g.1, g.2, 0)
      let v := convFmt t f r (kdSat c.desc) (draw16 x.2.2) (bytesNat (e.map (·.1)))
      let bad := e.any (·.2)
      let out := (natBytes (fmtBytes t) v).map fun b => (b, bad)
      let y := formElems c f t r k (l.drop ws) (x.1, x.2.1)
      (out ++ y.1, y.2)

/-- R307: takes source bytes into the destination bytes to be written. -/
def formBytes (n : Nat) (l : List (Byte × Bool)) (s : State) : State :=
  modCarter n (fun q =>
    match q.queue with
    | [] => q
    | c :: r =>
      match carterOp c.instr, Fmt.ofCode (kdSFmt c.desc), Fmt.ofCode (kdDFmt c.desc), Rnd.ofCode (kdRnd c.desc) with
      | .conv, some f, some t, some rnd =>
        let inb := q.inb ++ l
        let x := formElems c f t rnd inb.length inb (c.rnga, c.rngb)
        { q with outb := q.outb ++ x.1, inb := x.2.1, queue := { c with rnga := x.2.2.1, rngb := x.2.2.2 } :: r }
      | _, _, _, _ => { q with outb := q.outb ++ l }) s

/-- R178: the poisoned words among these bytes, by their keys. -/
def badKeys (s : State) (ks : List Nat) : List Bool := ks.map fun k => s.poison.contains (k / 8 * 8)

/-- R307: reads source lines of the row until `m` destination bytes are formed. -/
def readLines (n row m : Nat) : Nat → State → CStep
  | 0, s => .go s
  | f + 1, s =>
    let q := getCarter s n
    match q.queue with
    | [] => .wait s
    | c :: _ =>
      if m ≤ q.outb.length then .go s
      else
        let a := addrAt (rowSrc q c row) q.rpos
        let k := min (srcRow c - q.rpos) (64 - a.toNat % 64)
        if k = 0 then .go s
        else match engineBytes c.e.site c.job a k false s with
          | .error (.page va kind) => carterStall n va kind false (engineWalked c.e.site c.job a k false s)
          | .error _ => .hole
          | .ok x => match x.place with
            | .bytes ks =>
              let bad := badKeys x.st ks
              let s := formBytes n ((readKeys x.st ks).zip bad) x.st
              let s := modCarter n (fun q =>
                let q := { q with rpos := q.rpos + k }
                if bad.any id then
                  noteBad ((addrAt a (bad.findIdx id)) &&& ~~~7) { q with poison := true }
                else q) s
              readLines n row m f s
            | _ => .hole

/-- R310: counts a chunk of `b` bytes into the landing word; a poisoned one ends the command with UNCORR (R178). -/
def landChunk (n b : Nat) (s : State) : State :=
  match (getCarter s n).queue with
  | [] => s
  | c :: _ =>
    if b = 0 ∨ !kdLwen c.desc then s
    else
      let ks := lwKeys (clusterOf c.e.site) (kdLw c.desc)
      let r := lwCount ks b s
      if r.1 then r.2 else modCarter n (fun q => noteBad (localAbs (ks.headD 0)) { q with poison := true }) r.2

/-- R310: the current chunk ends. -/
def flushChunk (n : Nat) (s : State) : State :=
  let q := getCarter s n
  let landed := q.queue.head?.any fun c => kdLwen c.desc
  let s := if landed then publish (fun o => o.cls == 1 && o.at_ == n / 2) s else s
  modCarter n (fun q => { q with chunk := 0, chunk2 := 0 }) (landChunk n q.chunk2 (landChunk n q.chunk s))

/-- R305, R306: the running command ends with a class. -/
def carterDecide (n cls : Nat) (a : Word) (s : State) : State :=
  wakeFences (enqueue (.carterCommandComplete n) (modCarter n (fun q => { q with cls := some (cls, a) }) s))

/-- The bytes of a window store split where the poison changes. -/
def poisonRuns : List (Nat × Byte × Bool) → List (Bool × List (Nat × Byte))
  | [] => []
  | (o, b, p) :: r =>
    match poisonRuns r with
    | (q, l) :: t => if p = q then (q, (o, b) :: l) :: t else (p, [(o, b)]) :: (q, l) :: t
    | [] => [(p, [(o, b)])]

/-- R307, R329: a line into window space; `none` when the gateway stops it. The bytes before that are sent. -/
def sendLine (n : Nat) (c : CarterCmd) (w : Nat) : List (Bool × List (Nat × Byte)) → State → Nat × Bool × State
  | [], s => (0, true, s)
  | (p, l) :: r, s =>
    match sendWindow (.carter n) c.job c.e.site w ((l.head?.map (·.1)).getD 0) l.length l p c.id s with
    | .stall => (0, false, s)
    | .done dropped s =>
      let s := if dropped then modCarter n (fun q =>
          noteBad (BitVec.ofNat 64 (2 ^ 62 + w * 2 ^ 44 + (l.head?.map (·.1)).getD 0)) { q with drop := true }) s
        else modCarter n (fun q => { q with bytes := q.bytes + l.length }) s
      let x := sendLine n c w r s
      (l.length + x.1, x.2)

/-- `m` bytes have left the buffer at destination `t`. -/
def carterMoved (m : Nat) (t : Word) (stripe : Bool) (count : Bool) (row : Nat) (q : Carter) : Carter :=
  let low := !stripe || decide (t.toNat % 8192 < 4096)
  let q := { q with
    pos := q.pos + m
    outb := q.outb.drop m
    bytes := if count then q.bytes + m else q.bytes
    chunk := if low then q.chunk + m else q.chunk
    chunk2 := if low then q.chunk2 else q.chunk2 + m
    range := t.toNat / (if stripe then 8192 else 4096) }
  match q.queue with
  | c :: _ => if dstRow c ≠ 0 ∧ q.pos / dstRow c ≠ row then { q with rpos := 0, inb := [], outb := [] } else q
  | [] => q

/-- R307: writes the next line, or element of a striped destination. -/
def writeLine (n row m : Nat) (t : Word) (stripe : Bool) (s : State) : CStep :=
  let q := getCarter s n
  match q.queue with
  | [] => .wait s
  | c :: _ =>
    let l := q.outb.take m
    if tagOf t = 1 then
      let o := fld t 0 44
      let x := sendLine n c (fld t 44 12) (poisonRuns (l.zipIdx.map fun p => (o + p.2, p.1.1, p.1.2))) s
      let s := modCarter n (carterMoved x.1 t stripe false row) x.2.2
      if x.2.1 then .go s else .wait s
    else match engineBytes c.e.site c.job t m true s with
      | .error (.page va kind) => carterStall n va kind true (engineWalked c.e.site c.job t m true s)
      | .error _ => .hole
      | .ok x => match x.place with
        | .bytes ks =>
          let ls : List LineByte := (ks.zip l).zipIdx.map fun p => ⟨p.1.1, fld t 0 57 + p.2, p.1.2.1, p.1.2.2⟩
          .go (if stripe then modCarter n (fun q => carterMoved m t stripe true row { q with lines := q.lines ++ ls }) x.st
            else modCarter n (carterMoved m t stripe true row) (writeLineOf 1 (n / 2) ls x.st))
        | _ => .hole

/-- R307: the bytes that CFILL writes. -/
def fillBytes (d : BitVec 512) (t : Word) (m : Nat) : List (Byte × Bool) :=
  (List.range m).map fun i => ((kdSrc d).extractLsb' (8 * ((t.toNat + i) % 8)) 8, false)

/-- R309: the class of an element source outside its tile or VA range. -/
def gathFail (s : State) (q : Carter) (c : CarterCmd) (row : Nat) : Option (Nat × Word) :=
  if carterOp c.instr ≠ .gath then none
  else
    let x := q.idx.getD row 0 * kdSStr c.desc 2
    spanFail s c (kdSrc c.desc) x (x + kdLen c.desc - 1)

/-- R307 to R310: one unit of the running command: a destination line, or an element of a striped one. -/
def carterUnit (n : Nat) (s : State) : CStep :=
  let q := getCarter s n
  match q.queue with
  | [] => .wait s
  | c :: _ =>
    let d := c.desc
    let rd := dstRow c
    let row := q.pos / rd
    let o := q.pos % rd
    if carterRows c ≤ row then
      .wait (if q.lines = [] then carterDecide n 0 c.daddr (flushChunk n s) else enqueue (.carterChunk n) s)
    else
      let stripe := carterStripe c.instr
      let e := stripeWidth c.instr d
      let t := if stripe then addrAt (kdDst d) (stripedOff (stripeCols c.instr d) e row (o / e)) else addrAt (rowDst c row) o
      let m := if stripe then e else min (rd - o) (64 - t.toNat % 64)
      if q.chunk + q.chunk2 ≠ 0 ∧ q.range ≠ t.toNat / (if stripe then 8192 else 4096) then
        .wait (enqueue (.carterChunk n) (if q.lines = [] then flushChunk n s else s))
      else match (if o = 0 then gathFail s q c row else none) with
        | some (cls, a) => .wait (carterDecide n cls a s)
        | none =>
          let r := if carterOp c.instr = .fill then
              .go (modCarter n (fun q => { q with outb := fillBytes d t m }) s)
            else readLines n row m 16 s
          match r with
          | .go s => writeLine n row m t stripe s
          | r => r

/-- At most `f` units of the running command, up to the end of a 4 KiB destination range. -/
def carterUnits (n : Nat) : Nat → State → CStep
  | 0, s => .wait (enqueue (.carterChunk n) s)
  | f + 1, s => match carterUnit n s with
    | .go s => carterUnits n f s
    | r => r

/-- R204: the units of one step: one destination line, so that other agents may see any mix of old and new lines; of a
striped destination, whose elements lie spread over the lines of a stripe row, those of that row, which are then written line
by line. -/
def carterStride (i : Instr) : Nat := if carterStripe i then 8192 else 1

/-- R204: writes one line of a stripe row; a host page stops it while no link is up (R162). -/
def carterLine (n : Nat) (s : State) : State :=
  let q := getCarter s n
  match lineStop s q.lines with
  | some va =>
    if q.stalled then s
    else (match carterStall n va 5 true s with
      | .go s | .wait s => s
      | .hole => s)
  | none =>
    let r := lineRest q.lines
    let s := modCarter n (fun q => { q with lines := r }) (writeLineOf 1 (n / 2) q.lines s)
    if r = [] ∧ q.cls.isSome then wakeFences (enqueue (.carterCommandComplete n) s) else enqueue (.carterChunk n) s

/-- R306 step 3, R412: a code copy from a page without X completes with ACCESS; until the pager's queue has taken its EXEC
record, the carter stays stalled (R174). -/
def carterExec (n : Nat) (c : CarterCmd) (va : Nat) (s : State) : State :=
  let u := 0x440 + n % 128
  let r := faultRecord va 0 u 4 1 false c.job (BitVec.ofNat 32 c.id ++ BitVec.ofNat 64 0)
  let s := modCarter n (fun q => { q with started := true }) s
  if (sendFault (n / 128) r s).isSome then
    carterDecide n 1 (BitVec.ofNat 64 va) (engineFault (n / 128) u va 4 1 false c.job (BitVec.ofNat 32 c.id ++ BitVec.ofNat 64 0) s)
  else
    modCarter n (fun q => { q with stalled := true, skind := 4, va := BitVec.ofNat 64 va })
      (engineFault (n / 128) u va 4 1 false c.job (BitVec.ofNat 32 c.id ++ BitVec.ofNat 64 0) s)

/-- R174: the pager's queue has taken a record: an EXEC record of a carter that stalls for it lets the command complete. -/
def execAccepted (r : BitVec 256) (die : Nat) (s : State) : State :=
  let n := 128 * die + (fld r 96 12 - 0x440)
  let q := getCarter s n
  if fld r 108 4 = 4 ∧ q.stalled ∧ q.skind = 4 then
    carterDecide n 1 q.va (modCarter n (fun q => { q with stalled := false }) s)
  else s

/-- R306, R309: the command starts: its checks, and every index of CGATH. A translation fault of a code copy's check stalls
the carter, which checks anew after it (R175); a page without X ends the command, and its record goes to the pager. -/
def carterStart (n : Nat) (c : CarterCmd) (s : State) : State :=
  let r := carterCheck s n c
  let begun := modCarter n (fun q => { q with started := true }) r.2
  match r.1 with
  | .fail cls a => carterDecide n cls a begun
  | .exec va => carterExec n c va r.2
  | .fault va kind => match carterStall n va kind false r.2 with
    | .go s | .wait s => s
    | .hole => r.2
  | .pass =>
    let s := begun
    if carterOp c.instr = .gath then
      match engineBytes c.e.site c.job (kdIdx c.desc) (4 * kdCnt c.desc 0) false s with
      | .ok x => match x.place with
        | .bytes ks =>
          let bs := readKeys x.st ks
          let idx := (List.range (kdCnt c.desc 0)).map fun k =>
            (BitVec.ofNat 32 (bytesNat ((bs.drop (4 * k)).take 4))).toInt
          modCarter n (fun q =>
            let q := { q with idx := idx }
            match poisonRead x.st ks with
            | some w => noteBad (localAbs w) { q with poison := true }
            | none => q) x.st
        | _ => s
      | .error _ => s
    else s

/-- CARTER_CHUNK (R280, R307, R310): the running command goes on. A freeze takes it at the end of a 4 KiB destination range
only (R369); a carter whose entry a host completion queue holds stalls (R283). -/
def execCarterChunk (n : Nat) (s : State) : Res :=
  let q := getCarter s n
  let isl := getIsland s (n / 2)
  match q.queue with
  | [] => .next s
  | c :: _ =>
    if !isl.powered ∨ unitHeld s 3 (0x440 + n % 128) (n / 128) then .next s
    else if q.lines ≠ [] then .next (carterLine n s)
    else if q.cls.isSome ∨ q.stalled ∨ (q.chunk + q.chunk2 = 0 ∧ (getJob s c.job).frozen) then .next s
    else
      let s := if q.started then s else carterStart n c s
      if (getCarter s n).cls.isSome ∨ (getCarter s n).stalled then .next s
      else match carterUnits n (carterStride c.instr) s with
        | .hole => .fault .noSuchMemory
        | .go s | .wait s => .next s

/-! ### Completion (R306, R311, R339) -/

/-- The window stores of a command. -/
def cmdStores (s : State) (n : Nat) (c : CarterCmd) : List WStore :=
  s.wstores.filter fun w => w.sender == .carter n && w.cmd == c.id

/-- R278: the first address of the destination whose store settled as `st` says. -/
def settledAt (c : CarterCmd) (ws : List WStore) (st : Nat) : Word :=
  match ws.filter (·.st == st) with
  | [] => kdDst c.desc
  | w :: r => BitVec.ofNat 64 (2 ^ 62 + w.win * 2 ^ 44 + r.foldl (fun m x => min m x.off) w.off)

/-- R306, R339: the class and address of a command whose stores have settled. -/
def carterClass (s : State) (n : Nat) (q : Carter) (c : CarterCmd) (cls : Nat) (a : Word) : Nat × Word :=
  let ws := cmdStores s n c
  let at' := q.bad.getD (kdDst c.desc)
  if cls ≠ 0 then (cls, a)
  else if q.drop then (1, at')
  else if q.poison then (5, at')
  else if ws.any (·.st == 3) then (8, settledAt c ws 3)
  else if ws.any (·.st == 2) then (7, settledAt c ws 2)
  else (0, c.daddr)

/-- R311: the follow-on command; none when its descriptor is poisoned. -/
def followOn (s : State) (c : CarterCmd) : Option LoomCmd :=
  let ks := keysFrom (localKey c.e.site (64 * kdMdoff c.desc)) 64
  if (poisonRead s ks).isSome then none
  else
    let i : Instr := if kdMkind c.desc then .mmuls .always 0 ⟨0, 0, 0⟩ else .mmul .always 0 ⟨0, 0, 0⟩
    some ⟨i, c.e, some (BitVec.ofNat 512 (readNat s ks)), localAbs (localKey c.e.site (64 * kdMdoff c.desc)),
      kdMhandle c.desc, c.priv, c.job, c.booth, [], 0, 0, 0, false, false, 0, 0, false, false, 0, 0, [], none, none⟩

/-- R332: a carter observes the closure of a path when its command completes with INDETERMINATE; the path may open
again. -/
def carterSeen (n : Nat) (c : CarterCmd) (s : State) : State :=
  let cls := ((getCarter s n).entry.map fun e => fld e.2 0 4).getD 0
  let lost := (cmdStores s n c).filter (·.st == 3)
  if cls ≠ 8 then s
  else { s with pathS := s.pathS.map fun q =>
    if q.2.closed && q.1.sender == .carter n && lost.any (fun w => w.win == q.1.win && w.branch == q.1.branch) then
      (q.1, reopen q.2) else q }

/-- R280: the command leaves the queue and the next one starts. -/
def carterPop (n : Nat) (s : State) : State :=
  match (getCarter s n).queue with
  | [] => s
  | c :: r =>
    let s := carterSeen n c s
    let s := modCarter n (fun q => { Carter.idle with queue := r, done := q.done + 1 }) s
    let s := { s with wstores := s.wstores.map fun w =>
      if w.sender = .carter n ∧ w.cmd = c.id then { w with plain := true } else w }
    enqueue (.carterChunk n) (wakeEngine (kickWatch (boothOf s c.e.site) s))

/-- R279: pushes the entry of the head command, or stalls at the push. -/
def carterPush (n : Nat) (s : State) : State :=
  let q := getCarter s n
  match q.queue, q.entry with
  | c :: _, some (h, en) =>
    let p := pushEntry c.job h en (n / 128) (.carter n) s
    if p.1 then carterPop n p.2 else p.2
  | _, _ => s

/-- R277, R339: the entry is formed; the branch mask of failed window stores goes to the scribe. -/
def carterForm (n : Nat) (q : Carter) (c : CarterCmd) (x : Nat × Word) (s : State) : State :=
  let bad := (cmdStores s n c).filter fun w => 2 ≤ w.st
  let mask := bad.foldl (fun m w => m ||| 2 ^ w.branch) 0
  let win := (bad.map (·.win)).headD 0
  let s := if bad = [] then s else logTo (n / 128) [mkLog s 0x07 x.1 c.job 0 (0x440 + n % 128) (n / 128) x.2
    (BitVec.ofNat 64 win) (BitVec.ofNat 192 mask)] s
  let en := mkEntry s x.1 0 (0x440 + n % 128) (n / 128) (kdTag c.desc) x.2 (BitVec.ofNat 64 q.bytes)
  carterPush n (modCarter n (fun q => { q with entry := some (c.handle, en) }) (engineLog c.job en s))

/-- CARTER_COMMAND_COMPLETE (R306, R311, R279): once its window stores have settled the command hands on its
follow-on and pushes its entry; the next command starts. -/
def execCarterCommandComplete (n : Nat) (s : State) : Res :=
  let q := getCarter s n
  match q.queue, q.cls with
  | c :: _, some (cls, a) =>
    if q.entry.isSome then .next (carterPush n s)
    else if q.lines ≠ [] ∨ (cmdStores s n c).any (·.st == 0) then .next s
    else
      let x := carterClass s n q c cls a
      if x.1 = 0 ∧ carterFollow c.instr ∧ !q.handed then
        match followOn s c with
        | none => .next (carterForm n q c (5, localAbs (localKey c.e.site (64 * kdMdoff c.desc))) s)
        | some f =>
          if loomRoom s c.e.site then
            .next (carterForm n q c x (modCarter n (fun q => { q with handed := true }) (loomEnqueue f s)))
          else .next s
      else .next (carterForm n q c x s)
  | _, _ => .next s

/-! ### Issue and acceptance (R303) -/

/-- R303 step 5: a CCONV with RST takes its Step at acceptance; then the instruction completes. -/
def carterAccept (n : Nat) (c : CarterCmd) (s : State) : State :=
  let x := if carterOp c.instr = .conv ∧ kdRnd c.desc = 4 then takeStep c.e s else (0, s)
  let g := seedEngine x.1
  let s := modCarter n (fun q => { q with queue := q.queue ++ [{ c with rnga := g.1, rngb := g.2, id := s.fresh }] }) x.2
  next (enqueue (.carterChunk n) { s with fresh := s.fresh + 1 })

/-- R280: room in a carter's queue. -/
def carterRoom (s : State) (n : Nat) : Bool := decide ((getCarter s n).queue.length < 32)

/-- R303: the shape of the carter commands. -/
def carterIssue (i : Instr) (g : Guard) (d : XReg) (m : MemOp) (s : State) : Res :=
  guarded g s fun s =>
    match checkLocal s m 64 64 .load with
    | .error e => stopped i false e s
    | .ok a =>
      let ks := localKeys s a 64
      if !ownTile s ks ∨ ks = [] then .next (raise .seg (memOffset s m) s)
      else match doneFail s d with
        | some c => .next (raise c ((doneHandle s d).zeroExtend 64) s)
        | none => afterAll i (fun s =>
          match poisonRead s ks with
          | some w => .next (raiseLate .uncorr (localAbs w) s)
          | none =>
            let n := 2 * yardOf s.cur.site + b2n (carterOf i)
            let c : CarterCmd := ⟨i, s.cur, BitVec.ofNat 512 (readNat s ks), a, doneHandle s d, (myTile s).job,
              (myTile s).booth, (me s).priv, 0, 0, 0⟩
            let first := !s.strands.any fun p => match p.2.flight with
              | some (.acceptC m _ _) => m == n
              | _ => false
            if carterRoom s n ∧ first then .next (carterAccept n c (readyIn 5 s))
            else .next { inFlight (.acceptC n c s.ticket) s with ticket := s.ticket + 1 }) s

/-- CCOPY (R303, R307). -/
def execCcopy (g : Guard) (h : Hint) (c stripe m : Bool) (d : XReg) (mm : MemOp) (s : State) : Res :=
  carterIssue (.ccopy g h c stripe m d mm) g d mm s

/-- CFILL (R303, R307). -/
def execCfill (g : Guard) (h : Hint) (c : Bool) (d : XReg) (mm : MemOp) (s : State) : Res :=
  carterIssue (.cfill g h c d mm) g d mm s

/-- CCONV (R303, R307). -/
def execCconv (g : Guard) (h : Hint) (c stripe m : Bool) (d : XReg) (mm : MemOp) (s : State) : Res :=
  carterIssue (.cconv g h c stripe m d mm) g d mm s

/-- CGATH (R303, R309). -/
def execCgath (g : Guard) (h : Hint) (c m : Bool) (d : XReg) (mm : MemOp) (s : State) : Res :=
  carterIssue (.cgath g h c m d mm) g d mm s

/-- R312: the state of a carter. -/
def carterWord (s : State) (n : Nat) : Word :=
  let q := getCarter s n
  let held := match q.entry with
    | some (h, _) => (getQueue s (qkeyOf h)).st == .held
    | none => false
  q.done ++ BitVec.ofNat 32 (q.queue.length + b2n (q.queue != []) * 2 ^ 6 + b2n (q.stalled || held) * 2 ^ 7)

/-- CSTAT (R312). -/
def execCstat (g : Guard) (_h : Hint) (c : Bool) (d : XReg) (s : State) : Res :=
  guarded g s fun s => .next (next (wx d (carterWord s (2 * yardOf s.cur.site + b2n c)) s))

/-- R175: the pager's answer to a stalled carter. -/
def carterAnswer (n : Nat) (abort : Bool) (s : State) : State :=
  let q := getCarter s n
  if q.stalled then
    let drop := if abort then hostLines s q.lines else []
    let s := modCarter n (fun q => { q with stalled := false, lines := q.lines.filter fun y => !drop.contains y }) s
    if abort then carterDecide n 2 q.va s else enqueue (.carterChunk n) s
  else s

end Sys2Proof.Machine
end

