-- ==== Sys2Proof/Machine/Counters.lean ====
section
/-!
DEFINITION. Class 7: landing words, monitors and the generator (R345 to R357).
-/

namespace Sys2Proof.Machine

/-- R349, R350: the shape of LANDSET and LANDADD: 16 bytes at a local address. -/
def landWord (i : Instr) (g : Guard) (o : Ordn) (m : MemOp) (reply : Bool) (s : State) : Res :=
  guarded g s fun s =>
    match checkLocal s m 16 16 .atomic with
    | .error e => stopped i true e s
    | .ok a =>
      match access a 16 true (memSeg s m) s with
      | .error e => stopped i true e s
      | .ok x =>
        match x.place with
        | .bytes ks => .next (startMem i [⟨0, a, ks⟩] x.ord (ordRel o) (reply || o != .plain) x.st)
        | _ => .next (completeMem i [⟨0, a, []⟩] x.ord (readyIn 4 x.st))

/-- LANDSET (R349). -/
def execLandset (g : Guard) (d : XReg) (m : MemOp) (b : XReg) (s : State) : Res :=
  landWord (.landset g d m b) g .plain m true s

/-- LANDADD (R350). -/
def execLandadd (g : Guard) (o : Ordn) (d : Option XReg) (m : MemOp) (b : XReg) (s : State) : Res :=
  landWord (.landadd g o d m b) g o m d.isSome s

/-- MARM (R352). -/
def execMarm (g : Guard) (slot : Fin 4) (m : MemOp) (s : State) : Res :=
  let i : Instr := .marm g slot m
  guarded g s fun s =>
    match checkLocal s m 1 1 .load with
    | .error e => stopped i false e s
    | .ok a =>
      match access a 1 false (memSeg s m) s with
      | .error e => stopped i false e s
      | .ok x =>
        match x.place with
        | .bytes ks => .next (startMem i [⟨0, a, ks⟩] x.ord false true x.st)
        | _ => .next (next (readyIn 4 x.st))


/-- R353: the destination of an MWAIT. -/
def mwaitDest : Instr → XReg
  | .mwait _ d _ => d
  | _ => 0

/-- R353: the executing strand's MWAIT completes; `extra` are bits 4 to 6. -/
def mwaitDone (d : XReg) (extra : Nat) (s : State) : State :=
  next (wx d (BitVec.ofNat 64 (touchedBits (me s) + extra)) s)

/-- R353: a waiting MWAIT of strand `e` completes. -/
def mwaitEnd (e : SRef) (extra : Nat) (s : State) : State :=
  match (getStrand s (skey e)).wait with
  | some w => mwaitDone (mwaitDest w.instr) extra (endWait e (asStrand e s))
  | none => s

/-- R353, R355: bits 6 and 3:0 for a strand whose monitors parking lost. -/
def lostBits (t : Strand) : Nat := if t.lostMons = 0 then 0 else t.lostMons.toNat + 2 ^ 6

/-- MWAIT (R353): the wait descriptor holds the tile cycle at which the limit expires, counted on past the wrap of CYCLE, 0 for
none. -/
def execMwait (g : Guard) (d : XReg) (b : XOpnd) (s : State) : Res :=
  guarded g s fun s =>
    if touchedBits (me s) ≠ 0 then .next (mwaitDone d 0 s)
    else
      let lim := (rxo s b).toNat
      .next (waitFor .waitm .mons (.mwait g d b) (if lim = 0 then 0 else (myTile s).cycle + lim) s)

/-- R353: the MWAIT of strand `e` that a touch has ended writes D and completes. -/
def mwaitTouched (e : SRef) (s : State) : State :=
  match (getStrand s (skey e)).flight with
  | some (.mwait i bits) => next (wx (mwaitDest i) (BitVec.ofNat 64 bits) (readyIn 1 (asStrand e s)))
  | _ => s

/-- MWAIT_WAKE (R353): a touch of an armed line has ended the wait. -/
def execMwaitWake (e : SRef) (s : State) : Res :=
  let t := getStrand s (skey e)
  if t.run = .waitm ∧ touchedBits t ≠ 0 then .next (mwaitEnd e 0 s) else .next (mwaitTouched e s)

/-- R92, R353: has a limit that expires at cycle `n`, counted on past the wrap of CYCLE, expired at cycle `c`? -/
def limitDue (n c : Nat) : Bool := n != 0 && (decide (n ≤ c) || n % 2 ^ 64 == c)

/-- MWAIT_LIMIT_EXPIRY (R353): bit 5, no trap. -/
def execMwaitLimitExpiry (e : SRef) (s : State) : Res :=
  let t := getStrand s (skey e)
  match t.wait with
  | some ⟨.mons, _, _, lim⟩ => if limitDue lim (getTile s e.site).cycle then .next (mwaitEnd e (2 ^ 5) s) else .next s
  | _ => .next s

/-- R354: the slots whose mask bit is set are disarmed. -/
def disarm (mask : Word) (t : Strand) : Strand :=
  { t with mons := map4 (fun i m => if mask.getLsbD i then ⟨none, false⟩ else m) t.mons }

/-- MCLR (R354). -/
def execMclr (g : Guard) (b : XOpnd) (s : State) : Res :=
  guarded g s fun s => .next (next (modMe (disarm (rxo s b)) s))

/-- RNG (R357). -/
def execRng (g : Guard) (d : XReg) (s : State) : Res :=
  guarded g s fun s =>
    let x := takeSteps 1 s
    .next (next (wx d (x.1.headD 0) x.2))

/-- VRNG (R357). -/
def execVrng (g : Guard) (mk : KReg) (d : VReg) (s : State) : Res :=
  guarded g s fun s =>
    let x := takeSteps 8 s
    .next (next (wv d (mergeLanes 64 (kGet (me s) mk) (x.1.map BitVec.toNat) (vGet (me s) d)) x.2))

end Sys2Proof.Machine
end

