-- ==== Sys2Proof/Machine/Tasks.lean ====
section
/-!
DEFINITION. Class 9, tasks: the ready queue with its spill and HELD (R21 to R23), neighbour balancing (R24, R25),
the start of a task (R20), TSPAWN, TEND, TNEXT and TJOIN (R298 to R301).
-/

namespace Sys2Proof.Machine

/-! ### The ready queue (R19, R21 to R23) -/

/-- R19: a record. -/
def mkRecord (code frame : Word) (arg : BitVec 32) : BitVec 128 :=
  arg ++ frame ++ fieldNat 14 0 ++ code.extractLsb' 0 18
def recCode (r : BitVec 128) : Nat := fld r 0 18
def recFrame (r : BitVec 128) : Word := r.extractLsb' 32 64
def recArg (r : BitVec 128) : Word := (r.extractLsb' 96 32).zeroExtend 64
/-- R20: a record that raises ILLEGAL. -/
def recBad (r : BitVec 128) : Bool := fld r 0 2 != 0 || fld r 18 14 != 0

/-- R21: the bytes of a slot of the ring in local store. -/
def readyKeys (site n : Nat) : List Nat := keysFrom (localKey site (0x3E000 + 16 * n)) 16
/-- The ring slots of the records of one priority, oldest first. -/
def readySlots (t : Tile) (p : Nat) : List Nat := t.rq.toList.getD p []
/-- The number of records that the ring in local store holds (R21). -/
def readyLocal (t : Tile) : Nat := (t.rq.toList.map List.length).sum
/-- The slot that the next record takes, the lowest-numbered free one (log entry 13). -/
def freeReady (t : Tile) : Nat := ((List.range 512).find? fun n => t.rq.toList.all fun l => !l.contains n).getD 0
def setReady (p : Nat) (f : List Nat → List Nat) (t : Tile) : Tile :=
  { t with rq := map4 (fun i l => if i = p then f l else l) t.rq }

/-- R22: the number of records that one spill ring holds: a quarter of the area. -/
def spillCap (t : Tile) : Nat := t.rqSpillKib * 16
/-- The counts of the records that a spill ring has given back and taken. -/
def spillCounts (t : Tile) (p : Nat) : Nat × Nat := t.rqSpill.toList.getD p (0, 0)
def spillHeld (t : Tile) (p : Nat) : Nat := (spillCounts t p).2 - (spillCounts t p).1
def setSpill (p : Nat) (f : Nat × Nat → Nat × Nat) (t : Tile) : Tile :=
  { t with rqSpill := map4 (fun i c => if i = p then f c else c) t.rqSpill }
/-- R22: the VA of record `n` of a spill ring. A tile without booth has no area: its VA is taken as 0 (log entry 13). -/
def readySpillVa (t : Tile) (p n : Nat) : Nat := t.rqVa.getD 0 + 16 * (p * spillCap t + n % spillCap t)
/-- R22: its bytes, through the page tables of the tile's job. -/
def readySpill (site : Nat) (t : Tile) (p n : Nat) (store : Bool) (s : State) : Except Stop Access :=
  if t.rqVa.isNone then .error (.page 0 0)
  else virtBytes (fun va => translate (clusterOf site) t.job va store) (readySpillVa t p n) 16 s
/-- What the walk leaves where that access stops (R168). -/
def readyWalked (site : Nat) (t : Tile) (p n : Nat) (store : Bool) (s : State) : State :=
  if t.rqVa.isNone then s
  else virtWalked (clusterOf site) t.job store (readySpillVa t p n) 16 s

/-- The number of records of one priority. -/
def readyCount (t : Tile) (p : Nat) : Nat := (readySlots t p).length + spillHeld t p

/-- R22, R173: the ready queue becomes HELD; the pager receives a fault record. One that is HELD stays so. -/
def holdReady (site va kind : Nat) (store : Bool) (s : State) : State :=
  let t := getTile s site
  if t.rqHeld then s
  else
    let s := modTile site (fun t => { t with rqHeld := true }) s
    let r := faultRecord va 0 t.logical kind 0 store t.job 0
    match sendFault (dieOf site) r s with
    | some s => s
    | none => enqueue (.faultRecordSend (dieOf site)) (modTile site (fun t => { t with heldFaults := t.heldFaults ++ [r] }) s)

/-- The same after a spill access that has stopped. -/
def stopReady (site p n : Nat) (store : Bool) (e : Stop) (s : State) : State :=
  let t := getTile s site
  let x := spillStop (readySpillVa t p n) e
  holdReady site x.1 x.2 store (readyWalked site t p n store s)

/-- R21, R22: appends a record to the ready queue of a tile; false when the queue is HELD, with the state that says
so. -/
def appendReady (site p : Nat) (r : BitVec 128) (s : State) : Bool × State :=
  let t := getTile s site
  let n := (spillCounts t p).2
  if t.rqHeld then (false, s)
  else if readyLocal t < 512 ∧ spillHeld t p = 0 then
    let k := freeReady t
    (true, enqueue (.readyRecordArrival site)
      (modTile site (setReady p (· ++ [k])) (writeNat (readyKeys site k) r.toNat s)))
  else if spillCap t ≤ spillHeld t p then (false, holdReady site (readySpillVa t p n) 0 true s)
  else match readySpill site t p n true s with
    | .ok ⟨.bytes ks, _, s'⟩ =>
      (true, enqueue (.readyRecordArrival site)
        (modTile site (setSpill p fun c => (c.1, c.2 + 1)) (writeNat ks r.toNat s')))
    | .ok _ => (false, s)
    | .error e => (false, stopReady site p n true e s)

/-- R178: the newest record of a priority has bytes that were poisoned where it came from. -/
def taintNewest (site p : Nat) (bad : List Bool) (s : State) : State :=
  if !bad.any id then s
  else if spillHeld (getTile s site) p = 0 then
    match (readySlots (getTile s site) p).getLast? with
    | some k => putTaint (readyKeys site k) bad s
    | none => s
  else match readySpill site (getTile s site) p ((spillCounts (getTile s site) p).2 - 1) true s with
    | .ok ⟨.bytes ks, _, s⟩ => putTaint ks bad s
    | _ => s

/-- R22: appends a record that no instruction waits for: it is kept while the queue is HELD. Its poison goes with it. -/
def deliverTainted (site p : Nat) (r : BitVec 128) (bad : List Bool) (s : State) : State :=
  let x := appendReady site p r s
  if x.1 then taintNewest site p bad x.2 else modTile site (fun t => { t with rqKept := t.rqKept ++ [(p, r, bad)] }) x.2
def deliverRecord (site p : Nat) (r : BitVec 128) (s : State) : State := deliverTainted site p r [] s

/-- R22: the oldest spilled records of a priority move back while the ring in local store has room and no fault holds the
queue; a poisoned word stays so (R178). -/
def refillReady (site p : Nat) : Nat → State → State
  | 0, s => s
  | f + 1, s =>
    let t := getTile s site
    let n := (spillCounts t p).1
    if spillHeld t p = 0 ∨ 512 ≤ readyLocal t then s
    else match readySpill site t p n false s with
      | .ok ⟨.bytes ks, _, s'⟩ =>
        let k := freeReady t
        refillReady site p f (modTile site (fun t => setReady p (· ++ [k]) (setSpill p (fun c => (c.1 + 1, c.2)) t))
          (carryWords ks (readyKeys site k) (writeNat (readyKeys site k) (readNat s' ks) s')))
      | .ok _ => s
      | .error e => stopReady site p n false e s
def refillAllReady (site : Nat) (s : State) : State := [0, 1, 2, 3].foldl (fun s p => refillReady site p 512 s) s

/-- R23: the priority from which a pop takes. -/
def popPrio (t : Tile) : Option Nat :=
  if 63 ≤ t.guard ∧ readyCount t 3 ≠ 0 then some 3 else [0, 1, 2, 3].find? fun p => readyCount t p ≠ 0

/-- The bytes of the oldest record of a priority, in local store or, where no older record lies there, in its spill ring;
the state says where it is no longer. None where a spill access stops, with the state that follows. -/
def oldestReady (site p : Nat) (s : State) : Option (List Nat) × State :=
  let t := getTile s site
  match readySlots t p with
  | k :: _ => (some (readyKeys site k), modTile site (setReady p (List.drop 1)) s)
  | [] =>
    let n := (spillCounts t p).1
    match readySpill site t p n false s with
    | .ok ⟨.bytes ks, _, s'⟩ => (some ks, modTile site (setSpill p fun c => (c.1 + 1, c.2)) s')
    | .ok _ => (none, s)
    | .error e => (none, stopReady site p n false e s)

/-- The same at the tail of a priority, which neighbour balancing takes (R24). -/
def newestReady (site p : Nat) (s : State) : Option (List Nat) × State :=
  let t := getTile s site
  if spillHeld t p = 0 then
    match (readySlots t p).getLast? with
    | some k => (some (readyKeys site k), modTile site (setReady p List.dropLast) s)
    | none => (none, s)
  else
    let n := (spillCounts t p).2 - 1
    match readySpill site t p n false s with
    | .ok ⟨.bytes ks, _, s'⟩ => (some ks, modTile site (setSpill p fun c => (c.1, c.2 - 1)) s')
    | .ok _ => (none, s)
    | .error e => (none, stopReady site p n false e s)

/-- R20, R23: a popped record: its priority, and the key of a poisoned word in it (R178). -/
structure Popped where
  prio : Nat
  rec_ : BitVec 128
  bad  : Option Nat

/-- R23: pops the ready queue of the executing strand's tile; spilled records move up. None where there is no record, or
where the one to be popped cannot be read from the spill area. A pop may end HELD at the largest area (R22). -/
def popReady (s : State) : Option Popped × State :=
  let site := s.cur.site
  let t := myTile s
  match popPrio t with
  | none => (none, s)
  | some p =>
    match oldestReady site p s with
    | (none, s) => (none, s)
    | (some ks, s) =>
      let r : Popped := ⟨p, BitVec.ofNat 128 (readNat s ks), poisonRead s ks⟩
      let s := refillAllReady site (modTile site (fun t => { t with guard := if p = 3 then 0 else min 63 (t.guard + 1) }) s)
      (some r, if t.rqHeld ∧ 1024 ≤ t.rqSpillKib then enqueue (.readyQueueHeldEnd site 1024) s else s)

/-! ### Starting a record (R20) -/

/-- R20: the executing strand starts a record. A strand that pops a poisoned one consumes it (R178). -/
def startRecord (r : Popped) (s : State) : State :=
  let code : Word := BitVec.ofNat 64 (recCode r.rec_)
  match r.bad with
  | some k => raiseLate .uncorr (if isLocalKey k then localAbs k else BitVec.ofNat 64 k) s
  | none =>
    let s := modMe (fun t =>
      { (xSet 1 (recArg r.rec_) (xSet 30 (recFrame r.rec_) t)) with
        task := true
        run := .run
        wait := none
        flight := none
        home := s.cur.site
        hprio := r.prio }) (acquireS s.cur s)
    if recBad r.rec_ then raiseAt .illegal (code &&& ~~~3) code 2 (setPc code s) else finish code s

/-- The strands of a tile that wait for a record, in order of arrival. -/
def readyWaiters (site : Nat) (s : State) : List SRef :=
  (inTickets (fun t => match t.wait with
    | some ⟨.record, _, n, _⟩ => some n
    | some ⟨.ready, .tspawn .., _, _⟩ => none
    | some ⟨.ready, _, n, _⟩ => some n
    | _ => none) s).filter (·.site == site)

/-- R97, R300: does a trap that is due come before the pop of a record? Not in the record wait, whose instruction is done and
cannot issue again. -/
def popWaits (s : State) : Bool :=
  asyncDue s && (match (me s).wait with
    | some ⟨.record, _, _, _⟩ => false
    | _ => true)

/-- R300: the waiting strands take the records that have arrived; one with a trap due enters it and issues its TEND or TNEXT
again after ERET. -/
def serveReady (site : Nat) (s : State) : State :=
  let e := s.cur
  asStrand e ((readyWaiters site s).foldl (fun s w =>
    let s := asStrand w s
    if popWaits s ∧ (popPrio (myTile s)).isSome then trapFirst s
    else match popReady s with
      | (some r, s) => startRecord r (endWait w s)
      | (none, s) => s) s)

/-- R300: the task of the executing strand ends; it starts the next record, or waits for `obj`. At a TJOIN or an awaiting FGET
that ends its task, whose instruction is done, the record starts before a TIMER or WAKE that is due (log entry 90). -/
def endTask (i : Instr) (obj : WaitObj) (s : State) : State :=
  if obj ≠ .record ∧ asyncDue s ∧ (popPrio (myTile s)).isSome then trapFirst s
  else match popReady s with
    | (some r, s) => startRecord r s
    | (none, s) => waitFor .waitq obj i 0 s

/-- R298: the mode in which TEND, TNEXT and TJOIN are legal. -/
def taskOnly (thread : Bool) (s : State) (k : State → Res) : Res :=
  if (me s).handler ∨ (!(me s).task ∧ !thread) then illegal s else k s

/-! ### TSPAWN, TEND, TNEXT (R299, R300) -/

/-- R299: appends the record, or waits while the ready queue is HELD. -/
def spawn (i : Instr) (prio : Fin 4) (a b c : XReg) (s : State) : State :=
  let x := appendReady s.cur.site prio.val (mkRecord (rx s a) (rx s b) ((rx s c).extractLsb' 0 32)) s
  if x.1 then next x.2 else waitFor .waitq .ready i 0 x.2

/-- TSPAWN (R299). -/
def execTspawn (g : Guard) (prio : Fin 4) (a b c : XReg) (s : State) : Res :=
  guarded g s fun s =>
    if !targetOk (rx s a) then .next (raise .addr (rx s a) s)
    else .next (spawn (.tspawn g prio a b c) prio a b c (drainAll s.cur (serveReady s.cur.site s)))

/-- TEND (R300). -/
def execTend (g : Guard) (s : State) : Res :=
  guarded g s fun s => taskOnly false s fun s => .next (endTask (.tend g) .ready (serveReady s.cur.site s))

/-- TNEXT (R300). -/
def execTnext (g : Guard) (try_ : Option PReg) (s : State) : Res :=
  guarded g s fun s => taskOnly true s fun s =>
    let s := serveReady s.cur.site s
    if asyncDue s ∧ (popPrio (myTile s)).isSome then .next (trapFirst s)
    else match popReady s, try_ with
    | (some r, s), some pd => .next (startRecord r (if r.bad.isSome then s else wp pd true s))
    | (some r, s), none => .next (startRecord r s)
    | (none, s), some pd => .next (next (wp pd false s))
    | (none, s), none => .next (waitFor .waitq .ready (.tnext g try_) 0 s)

/-- READY_RECORD_ARRIVAL (R300): a record has arrived at a tile's ready queue. -/
def execReadyRecordArrival (site : Nat) (s : State) : Res := .next (serveReady site s)

/-- The strands whose TSPAWN waits for the end of HELD (R22). -/
def spawnWaiters (site : Nat) (s : State) : List SRef :=
  (inTickets (fun t => match t.wait with
    | some ⟨.ready, .tspawn .., n, _⟩ => some n
    | _ => none) s).filter (·.site == site)

/-- R22: the waiting TSPAWN of the executing strand goes on. -/
def respawn (s : State) : State :=
  match (me s).wait with
  | some ⟨.ready, .tspawn g p a b c, _, _⟩ =>
    spawn (.tspawn g p a b c) p a b c (modMe (fun t => { t with run := .run, readyAt := (myTile s).cycle + 1 }) s)
  | _ => s

/-- R22: the bytes of every spilled record and their poison (R178), with its ring and number, and the state after the walks;
none where one cannot be read. -/
def readyRead (site : Nat) (t : Tile) : List (Nat × Nat) → State → Option (List ((Nat × Nat) × List Byte × List Bool) × State)
  | [], s => some ([], s)
  | x :: r, s =>
    match readySpill site t x.1 x.2 false s with
    | .ok ⟨.bytes ks, _, s⟩ => (readyRead site t r s).map fun y => ((x, readKeys s ks, taintOf ks s) :: y.1, y.2)
    | _ => none
/-- The same records written as the area of `t` lays them out. -/
def readyWrite (site : Nat) (t : Tile) : List ((Nat × Nat) × List Byte × List Bool) → State → Option State
  | [], s => some s
  | x :: r, s =>
    match readySpill site t x.1.1 x.1.2 true s with
    | .ok ⟨.bytes ks, _, s⟩ => readyWrite site t r (putTaint ks x.2.2 (writeBytes (ks.zip x.2.1) s))
    | _ => none

/-- R22: the spill area is `kib` KiB from now on, at most 1 MiB, and the spilled records stand where its four rings place
them (log entry 13); none where the pages do not admit it. -/
def resizeReady (site kib : Nat) (s : State) : Option State :=
  let t := getTile s site
  let t' := { t with rqSpillKib := max t.rqSpillKib (min 1024 kib) }
  if t'.rqSpillKib = t.rqSpillKib then some s
  else
    let xs := [0, 1, 2, 3].flatMap fun p => (List.range (spillHeld t p)).map fun i => (p, (spillCounts t p).1 + i)
    match readyRead site t xs s with
    | none => none
    | some r => (readyWrite site t' r.1 r.2).map (modTile site fun t => { t with rqSpillKib := t'.rqSpillKib })

/-- READY_QUEUE_HELD_END (R22): the pager ends HELD; the spill area is `kib` KiB from now on, at most 1 MiB. A tile
with a full ring stays HELD. The kept records are appended first, then the waiting TSPAWNs go on. The queues of a frozen job
stand still (R373). -/
def execReadyQueueHeldEnd (site kib : Nat) (s : State) : Res :=
  if roleHeld s (dieOf site) 1 then .next (enqueueOnce (.readyQueueHeldEnd site kib) s)
  else if !(getTile s site).rqHeld ∨ (getJob s (getTile s site).job).frozen then .next s
  else match resizeReady site kib s with
    | none => .next s
    | some s =>
      let t := getTile s site
      if [0, 1, 2, 3].any fun p => decide (spillCap t ≤ spillHeld t p) then .next s
      else
        let e := s.cur
        let s := takeFault (dieOf site) (fun r => fld r 64 32 == 0 && fld r 96 12 == t.logical) s
        let s := refillAllReady site (modTile site (fun t => { t with rqHeld := false, rqKept := [] }) s)
        let s := t.rqKept.foldl (fun s r => deliverTainted site r.1 r.2.1 r.2.2 s) s
        .next (asStrand e ((spawnWaiters site s).foldl (fun s w => respawn (asStrand w s)) (serveReady site s)))

/-! ### TJOIN (R301) -/

/-- R301: performs the decrement, which is due now, and completes the instruction. -/
def completeJoin (i : Instr) (lanes : List Lane) (s : State) : State :=
  let s := drainAll s.cur s
  let ks := lanes.flatMap (·.keys)
  let r := performStore i 0 0 0 lanes s
  match r.2 with
  | a :: _ => raiseLate .uncorr a r.1
  | [] =>
    let t := acquireS r.1.cur r.1
    if ks = [] ∨ readNat r.1 ks = 0 then next t
    else endTask i .record (serveReady t.cur.site t)

/-- TJOIN (R301). -/
def execTjoin (g : Guard) (m : MemOp) (s : State) : Res :=
  let i : Instr := .tjoin g m
  guarded g s fun s => taskOnly false s fun s =>
    match checkLocal s m 8 8 .atomic with
    | .error e => stopped i true e s
    | .ok a =>
      let ks := localKeys s a 8
      if ownTile s ks ∧ !s.pend.any (·.e == s.cur) then .next (completeJoin i [⟨0, a, ks⟩] (readyIn 4 s))
      else .next (enqueue (.memoryReply s.cur none) (inFlight (.mem i [⟨0, a, ks⟩] true 1) s))

/-! ### Neighbour balancing (R24, R25) -/

/-- R24: the neighbour of a site in a direction (0 N, 1 E, 2 S, 3 W) that exchanges with it. -/
def neighbour (s : State) (site dir : Nat) : Option Nat :=
  let x := siteX site
  let y := siteY site
  let n : Option Nat := match dir with
    | 0 => if y = 0 then none else some (siteAt (dieOf site) x (y - 1))
    | 1 => if x = 31 then none else some (siteAt (dieOf site) (x + 1) y)
    | 2 => if y = 31 then none else some (siteAt (dieOf site) x (y + 1))
    | _ => if x = 0 then none else some (siteAt (dieOf site) (x - 1) y)
  match n with
  | none => none
  | some n =>
    if isGood s n ∧ clusterOf n = clusterOf site ∧ (getTile s site).booth ≠ 0 ∧ boothOf s n = boothOf s site then some n
    else none

/-- R24: the migratable occupancy. -/
def migratable (t : Tile) : Nat := readyCount t 2 + readyCount t 3

/-- R24: takes up to `k` records from the tail of priority 3, then of priority 2; of each priority they are listed oldest
first, each with the poison of its bytes (R178). -/
def stealTail (site : Nat) : Nat → List (Nat × BitVec 128 × List Bool) → State → List (Nat × BitVec 128 × List Bool) × State
  | 0, l, s => (l, s)
  | k + 1, l, s =>
    let p := if readyCount (getTile s site) 3 ≠ 0 then 3 else 2
    match newestReady site p s with
    | (some ks, s) => stealTail site k ((p, BitVec.ofNat 128 (readNat s ks), taintOf ks s) :: l) s
    | (none, s) => (l, s)

/-- R25: a record leaves for another tile; of one with poisoned bytes (R178) the state keeps which they are. -/
def sendRecord (n site : Nat) (prio : Fin 4) (r : BitVec 128) (bad : List Bool) (s : State) : State :=
  enqueue (.recordMigrationArrival n site prio r)
    (if bad.any id then { s with moved := s.moved ++ [(⟨n, site, prio.val, r⟩, bad)] } else s)
/-- R25: a record in transit is appended at a tile, its poison with it. -/
def landRecord (dest n site : Nat) (prio : Fin 4) (r : BitVec 128) (s : State) : State :=
  let x : Transit := ⟨n, site, prio.val, r⟩
  match s.moved.find? (·.1 == x) with
  | some y => deliverTainted dest prio.val r y.2 { s with moved := s.moved.erase y }
  | none => deliverRecord dest prio.val r s
/-- R25: the records in transit to these tiles return to the tails of their senders' ready queues. -/
def returnRecords (ts : List Nat) (s : State) : State :=
  let mine (i : Instr) : Bool := match i with
    | .recordMigrationArrival n _ _ _ => ts.contains n
    | _ => false
  (s.internal.filter mine).foldl (fun s i => match i with
    | .recordMigrationArrival n f p r => landRecord f n f p r s
    | _ => s) { s with internal := s.internal.filter fun i => !mine i }

/-- R24: serves one link of a tile; `mine` is the tile's remaining figure. The records leave as R25 has them in transit. -/
def serveLink (site : Nat) (a : Nat × State) (dir : Nat) : Nat × State :=
  let mine := a.1
  let s := a.2
  match neighbour s site dir, (getTile s site).snaps.toList.getD dir none with
  | some n, some theirs =>
    if mine ≤ theirs then a
    else
      let x := stealTail site (min 8 ((mine - theirs) / 4)) [] s
      let l := x.1.filter (·.1 == 3) ++ x.1.filter (·.1 == 2)
      (mine - l.length, l.foldl (fun s r => sendRecord n site (if r.1 = 2 then 2 else 3) r.2.1 r.2.2 s) (refillAllReady site x.2))
  | _, _ => a

/-- BALANCE_TICK (R24): every 256 cycles of the tile's clock; a HELD tile takes no part (R22). -/
def execBalanceTick (site : Nat) (s : State) : Res :=
  let t := getTile s site
  let mine := migratable t
  let s :=
    if t.rqHeld then s
    else
      let s := [0, 1, 2, 3].foldl (fun s d => match neighbour s site d with
        | some n => enqueue (.balanceSnapshotArrival n ⟨(d + 2) % 4, by omega⟩ mine) s
        | none => s) s
      ([0, 1, 2, 3].foldl (serveLink site) (mine, s)).2
  .next (modTile site (fun t => { t with snaps := Vector.replicate 4 none }) s)

/-- BALANCE_SNAPSHOT_ARRIVAL (R24): the snapshot of the neighbour in direction `dir`; an earlier one is discarded. -/
def execBalanceSnapshotArrival (site : Nat) (dir : Fin 4) (n : Nat) (s : State) : Res :=
  .next (modTile site (fun t => { t with snaps := t.snaps.set dir (some n) }) s)

/-- RECORD_MIGRATION_ARRIVAL (R24, R25): the record is appended at its destination, or, when that tile is no longer
in the sender's booth, returned to the sender's tail. -/
def execRecordMigrationArrival (site sender : Nat) (prio : Fin 4) (r : BitVec 128) (s : State) : Res :=
  let ok := decide ((getTile s site).booth ≠ 0) && boothOf s site == boothOf s sender
  .next (landRecord (if ok then site else sender) site sender prio r s)

end Sys2Proof.Machine
end

