-- ==== Sys2Proof/Machine/Futures.lean ====
section
/-!
DEFINITION. Class 9, futures: FNEW, FSET, FGET, FFREE, FPOISON, waiter nodes and quarantine (R315 to R326).
-/

namespace Sys2Proof.Machine

/-- R315: the key of the entry that a handle names, and its generation. -/
def futKey (h : BitVec 32) : Nat := 65536 * fld h 27 5 + fld h 0 16
def futGen (h : BitVec 32) : Nat := fld h 16 11
def futHandle (key gen : Nat) : BitVec 32 :=
  BitVec.ofNat 5 (key / 65536) ++ BitVec.ofNat 11 gen ++ BitVec.ofNat 16 key

/-- R411: a cause found by the future unit: its reply arrives 6 cycles after issue (R321). -/
def raiseFut (c : Cause) (h : BitVec 32) (s : State) : State := raiseAt c (me s).pc (h.zeroExtend 64) 8 s

/-- R318: a use of a future handle. -/
def withFuture (h : BitVec 32) (s : State) (k : Future → State → State) : State :=
  let f := getFuture s (futKey h)
  if f.gen ≠ futGen h ∨ f.job ≠ (myTile s).job then raiseFut .handle h s else k f s

/-- R320: the free list of a job in a cluster. -/
def freeKey (cluster : Nat) (job : BitVec 16) : Nat := 65536 * cluster + job.toNat
def freeList (s : State) (cluster : Nat) (job : BitVec 16) : List Nat := tget [] s.freeFut (freeKey cluster job)
def setFree (cluster : Nat) (job : BitVec 16) (l : List Nat) (s : State) : State :=
  { s with freeFut := tset s.freeFut (freeKey cluster job) l }

/-! ### The waiter pool (R314, R317) -/

/-- The first of `n` numbers from `i` on under which the table lists nothing. -/
def firstFree {α : Type} (t : Tab α) (base : Nat) : Nat → Nat → Option Nat
  | 0, _ => none
  | n + 1, i => if (lookup t (base + i)).isNone then some i else firstFree t base n (i + 1)

/-- R314, R324: a free node of the 65,536 in a cluster's pool: the lowest-numbered (log entry 77). -/
def freeNode (s : State) (cluster : Nat) : Option Nat := firstFree s.pool (65536 * cluster) 65536 0

/-- R317: the nodes of a list from index `i` on, at most `n`, with their keys. -/
def nodesFrom (pool : Tab Node) (cluster : Nat) : Nat → Nat → List (Nat × Node)
  | 0, _ => []
  | n + 1, i => match lookup pool (65536 * cluster + i) with
    | none => []
    | some v => (65536 * cluster + i, v) :: (if v.nv then nodesFrom pool cluster n v.next else [])

/-- R316: the waiters of a future in list order, from WHEAD to WTAIL. -/
def waitersOf (s : State) (key : Nat) : List (Nat × Node) :=
  let f := getFuture s key
  if f.wany then nodesFrom s.pool (key / 65536) 65536 f.whead else []

/-- R323: releases nodes. -/
def dropNodes (ks : List Nat) (s : State) : State := { s with pool := s.pool.filter fun p => !ks.contains p.1 }

/-- R324: appends node `i` at WTAIL. -/
def appendNode (key i : Nat) (n : Node) (s : State) : State :=
  let cl := 65536 * (key / 65536)
  let f := getFuture s key
  let pool := if f.wany then
      match lookup s.pool (cl + f.wtail) with
      | some t => tset s.pool (cl + f.wtail) { t with next := i, nv := true }
      | none => s.pool
    else s.pool
  setFuture { s with pool := tset pool (cl + i) n } key
    { f with whead := if f.wany then f.whead else i, wtail := i, wany := true }

/-- FNEW (R322). -/
def execFnew (g : Guard) (d : XReg) (s : State) : Res :=
  guarded g s fun s =>
    let cl := clusterOf s.cur.site
    let job := (myTile s).job
    match freeList s cl job with
    | [] => .next (next (wx d 0x100000000 s))
    | i :: r =>
      let k := 65536 * cl + i
      let f := getFuture s k
      let s := setFuture (setFree cl job r s) k { f with st := .empty, value := 0 }
      .next (next (wx d ((futHandle k f.gen).zeroExtend 64) s))

/-- R323: sets an EMPTY future and wakes its waiters in list order. -/
def setValue (h : BitVec 32) (st : FState) (v : Word) (s : State) : State :=
  withFuture h s fun f s =>
    if f.st ≠ .empty then raiseFut .fstate h s
    else
      let ws := waitersOf s (futKey h)
      let s := setFuture (dropNodes (ws.map (·.1)) s) (futKey h) { f with st := st, value := v, wany := false }
      let s := ws.foldl (fun s n => deliverRecord n.2.home n.2.prio n.2.record s) s
      next (if f.wany then enqueue (.waiterNodeFree (fld h 27 5)) s else s)

/-- FSET (R319, R323): it leaves the tile after the strand's earlier accesses. -/
def execFset (g : Guard) (a : XReg) (b : XOpnd) (s : State) : Res :=
  guarded g s fun s =>
    afterAll (.fset g a b) (fun s => .next (setValue ((rx s a).extractLsb' 0 32) .full (rxo s b) s)) s

/-- FPOISON (R319, R323). -/
def execFpoison (g : Guard) (a : XReg) (b : XOpnd) (s : State) : Res :=
  guarded g s fun s =>
    afterAll (.fpoison g a b) (fun s => .next (setValue ((rx s a).extractLsb' 0 32) .poison (rxo s b) s)) s

/-- R324: does an FGET of the executing strand await on an EMPTY future? -/
def awaits (try_ : Bool) (s : State) : Bool := (me s).task && !(me s).handler && !try_

/-- R324: the state register, if B names one. -/
def wState (b : XReg) (v : Word) (s : State) : State := if b = 0 then s else wx b v s

/-- R319, R324: FGET at the future unit. One that returns a value acts as an acquire; one that awaits leaves the tile after the
strand's earlier accesses. -/
def getValue (i : Instr) (try_ : Bool) (d a b : XReg) (s : State) : State :=
  let h := (rx s a).extractLsb' 0 32
  withFuture h s fun f s =>
    match f.st with
    | .full => next (wState b 2 (wx d f.value (acquireS s.cur s)))
    | .poison => if b = 0 then raiseFut .fstate h s else next (wx b 3 (wx d f.value (acquireS s.cur s)))
    | .free => raiseFut .fstate h s
    | .empty =>
      if !awaits try_ s then (if b = 0 then raiseFut .fstate h s else next (wx b 1 s))
      else match freeNode s (fld h 27 5) with
        | none => waitFor .waitq (.node h) i 0 s
        | some n =>
          let t := me s
          let s := modMe (fun t => { t with wait := none, run := .run }) (drainAll s.cur s)
          if unperformed s s.cur then inFlight (.held i) s
          else
            let s := appendNode (futKey h) n ⟨mkRecord t.pc (xGet t 30) h, t.home, t.hprio, 0, false⟩ s
            endTask i .record (serveReady s.cur.site s)

/-- FGET (R324): one that could await with A other than x1 is refused at decode, before the guard. -/
def execFget (g : Guard) (try_ : Bool) (d a b : XReg) (s : State) : Res :=
  if awaits try_ s ∧ a ≠ 1 then illegal s
  else guarded g s fun s => .next (getValue (.fget g try_ d a b) try_ d a b s)

/-- The strands whose FGET waits for a node of a cluster, in the order of arrival. -/
def nodeWaiters (cluster : Nat) (s : State) : List SRef :=
  inTickets (fun t => match t.wait with
    | some ⟨.node h, _, n, _⟩ => if fld h 27 5 = cluster then some n else none
    | _ => none) s

/-- WAITER_NODE_FREE (R324): FGETs that wait for a node of the cluster go on. -/
def execWaiterNodeFree (cluster : Nat) (s : State) : Res :=
  let go (s : State) (e : SRef) : State :=
    match (getStrand s (skey e)).wait with
    | some ⟨.node _, .fget g try_ d a b, _, _⟩ =>
      let s := asStrand e s
      getValue (.fget g try_ d a b) try_ d a b
        (modMe (fun t => { t with run := .run, readyAt := (myTile s).cycle + 1 }) s)
    | _ => s
  .next (asStrand s.cur ((nodeWaiters cluster s).foldl go s))

/-- R320: a released index. -/
def releaseFuture (key : Nat) (s : State) : State :=
  let f := getFuture s key
  let cl := key / 65536
  if f.gen = 2047 then setFuture s key { f with st := .free, gen := 0, quar := true, since := s.devtime.toNat }
  else setFree cl f.job (freeList s cl f.job ++ [key % 65536])
    (setFuture s key { f with st := .free, gen := f.gen + 1 })

/-- FFREE (R325). -/
def execFfree (g : Guard) (a : XReg) (s : State) : Res :=
  guarded g s fun s =>
    let h := (rx s a).extractLsb' 0 32
    .next (withFuture h s fun f s =>
      if f.st = .free ∨ f.wany then raiseFut .fstate h s else next (releaseFuture (futKey h) s))

/-- FUTURE_QUARANTINE_END (R320): at least 2^30 ns after the wrap the index rejoins the job's list. -/
def execFutureQuarantineEnd (cluster index : Nat) (s : State) : Res :=
  let k := 65536 * cluster + index
  let f := getFuture s k
  if f.quar ∧ f.since + 2 ^ 30 ≤ s.devtime.toNat ∧ !(getJob s f.job).frozen then
    let s' := setFuture s k { f with quar := false }
    .next (if f.job = 0 then s' else setFree cluster f.job (freeList s cluster f.job ++ [index]) s')
  else .next s

end Sys2Proof.Machine
end

