-- ==== Sys2Proof/Machine/System.lean ====
section
/-!
DEFINITION. Class 0: strand control, traps and system registers (R116 to R125), and the end of a YIELD pause.
-/

namespace Sys2Proof.Machine

/-- NOP (R116). -/
def execNop (g : Guard) (s : State) : Res := guarded g s fun s => .next (next s)

/-- R83, R78: the segments that the manifest of the site's booth gives its strands, and the bindings of one. -/
def manifestOf (s : State) (e : SRef) : List (Nat × BitVec 128) × List (Nat × BitVec 32 × BitVec 32) :=
  let st := (getBooth s (boothOf s e.site)).starts
  (((st.find? fun t => t.site == e.site).map (·.segs)).getD [],
   ((st.find? fun t => t.site == e.site && t.k == e.k).map (·.binds)).getD [])

/-- R83: the start of an OFF strand by FORK or WAKE, in thread mode. -/
def startByManifest (e : SRef) (pc x1 : Word) (s : State) : State :=
  startStrand e pc x1 false (manifestOf s e).1 (manifestOf s e).2 s

/-- FORK (R117). -/
def execFork (g : Guard) (n : Fin 8) (d a : XReg) (tgt : BitVec 48) (s : State) : Res :=
  if n = 7 ∧ !(me s).priv then .next (raise .priv (me s).pc s)
  else guarded g s fun s =>
    let t := relTarget s tgt
    let e : SRef := ⟨s.cur.site, n.val⟩
    if !targetOk t then .next (raise .addr t s)
    else if (getStrand s (skey e)).run = .off then
      let s := startByManifest e t (rx s a) (drainAll s.cur s)
      .next (next (wx d 0 (modStrand (skey e) (fun u => { u with readyAt := (myTile s).cycle + 3 }) s)))
    else .next (next (wx d 1 s))

/-- STOP (R119): the strand is OFF when the instruction completes, as its tile's clock finds (`strandTimers`). -/
def execStop (g : Guard) (s : State) : Res :=
  guarded g s fun s => if s.cur.k = 7 then illegal s else .next (inFlight .stop s)

/-- HALT (R120). -/
def execHalt (g : Guard) (s : State) : Res :=
  stewardOnly s fun s => guarded g s fun s =>
    let site := s.cur.site
    let s' := (List.range 7).foldl (fun s k => haltStrand ⟨site, k⟩ s) s
    if s.cur.k = 7 then .next (next s') else .next s'

/-- YIELD (R121). -/
def execYield (g : Guard) (b : XOpnd) (s : State) : Res :=
  guarded g s fun s =>
    let n := min (rxo s b).toNat 65535
    if n ≤ 1 then .next (next s) else .next (inFlight .pause (readyIn (n + 1) s))

/-- YIELD_PAUSE_END (R121): the pause count has expired and the instruction completes. -/
def execYieldPauseEnd (e : SRef) (s : State) : Res :=
  let t := getStrand s (skey e)
  if t.flight = some .pause ∧ t.readyAt ≤ (getTile s e.site).cycle + 1 then .next (next (asStrand e s)) else .next s

/-- R118: the strand of this device that X[A] names, none where WAKE raises ADDR. Bits above the 32 of an endpoint id name no
strand (log entry 71). -/
def wakeTarget (s : State) (a : Word) : Option SRef :=
  if fld a 32 32 ≠ 0 then none
  else match strandOf s (a.extractLsb' 0 32) with
    | none => none
    | some e =>
      let t := getTile s e.site
      if (me s).priv ∨ (t.job = (myTile s).job ∧ t.booth ≠ 0) then some e else none

/-- R69, R118: does a user strand's WAKE name a reserve strand? Then it raises PRIV, at step 3 of R66. -/
def wakeReserve (s : State) (a : Word) : Bool := !(me s).priv && (wakeTarget s a).any (·.k == 7)

/-- R118: the wake event of the executing strand, after its earlier accesses (log entry 6): at once when all of them are
performed, else when the last of them is (`sendWakes`). -/
def sendWake (e : SRef) (start : Word) (s : State) : State :=
  let s := drainAll s.cur s
  if unperformed s s.cur then { s with wakes := s.wakes ++ [⟨s.cur, e, start⟩] }
  else enqueue (.wakeEventDelivery e start) s

/-- R118: the wake events whose senders have no access left that is not performed. -/
def sendWakes (s : State) : State :=
  let ready (w : WakeOut) : Bool := !unperformed s w.from_
  let go := (s.wakes.filter ready).map fun w => Instr.wakeEventDelivery w.dest w.start
  if go = [] then s else { s with wakes := s.wakes.filter fun w => !ready w, internal := s.internal ++ go }

/-- WAKE (R118). -/
def execWake (g : Guard) (a b : XReg) (s : State) : Res :=
  if wakeReserve s (rx s a) then .next (raise .priv (me s).pc s)
  else guarded g s fun s =>
    match wakeTarget s (rx s a) with
    | none => .next (raise .addr (rx s a) s)
    | some e =>
      if !targetOk (rx s b) then .next (raise .addr (rx s b) s)
      else .next (next (sendWake e (rx s b) s))

/-- TRAP (R122). -/
def execTrap (g : Guard) (n : BitVec 32) (s : State) : Res :=
  guarded g s fun s => .next (raiseAt .break_ ((me s).pc + 12) (n.zeroExtend 64) 4 s)

/-- R123, R362: the return from a handler, before the latched causes. -/
def returnFrom (s : State) : State :=
  modMe (fun t =>
    { t with handler := false, uvec := false, priv := stewardId s s.cur, wait := none, flight := none, pc := t.trappc }) s

/-- ERET (R123, R362): the lowest latched cause is entered before any further instruction; with the handler
ended a round edge may be due (R271). -/
def execEret (g : Guard) (s : State) : Res :=
  guarded g s fun s =>
    if !(me s).handler then illegal s else .next (boundaryEdge (boothOf s s.cur.site) (returnFrom s))

/-! ### System registers (R87 to R94) -/

/-- R88. -/
def statusWord (t : Strand) : Word :=
  BitVec.ofNat 64 (b2n t.priv + 2 * b2n t.handler + 4 * b2n t.uvec + 8 * b2n t.task + 16 * b2n t.reserve)
/-- R89. -/
def causeWord (t : Strand) : Word := BitVec.ofNat 64 (t.cause.toNat + 2 ^ 16 * t.pending.toNat)
/-- R92: TILEID of the coordinates that boot end set (R396). -/
def tileIdWord (s : State) (site : Nat) : Word :=
  let t := getTile s site
  let p := siteAt (dieOf site) t.tx t.ty
  BitVec.ofNat 64 (t.tx + 2 ^ 5 * t.ty + 2 ^ 10 * dieOf site + 2 ^ 12 * clusterOf p + 2 ^ 17 * yardOf p)

/-- R124: the value of a system register for the executing strand. -/
def readSys (s : State) (r : SysReg) : Word :=
  let t := me s
  let u := myTile s
  match r with
  | .status => statusWord t
  | .trapbase => t.trapbase
  | .utrapbase => t.utrapbase
  | .trapcause => causeWord t
  | .trapaddr => t.trapaddr
  | .trappc => t.trappc
  | .routemask => routeOf s s.cur
  | .quantum => t.quantum
  | .cycle => BitVec.ofNat 64 u.cycle
  | .devtime => s.devtime
  | .tileid => tileIdWord s s.cur.site
  | .logid => (endpoint s s.cur).zeroExtend 64
  | .jobid => u.job.zeroExtend 64
  | .segtab => u.segtab
  | .tolbf16 => u.tol.get 0
  | .tolfp16 => u.tol.get 1
  | .tole4 => u.tol.get 2
  | .tole5 => u.tol.get 3
  | .toln4 => u.tol.get 4
  | .rngsta => t.rnga
  | .rngstb => t.rngb
  | .sema => s.sema.zeroExtend 64

/-- SYSRD (R124). -/
def execSysrd (g : Guard) (d : XReg) (r : SysReg) (s : State) : Res :=
  guarded g s fun s => .next (next (wx d (readSys s r) s))

/-- R93: a FLOOR that is negative, infinite or NaN; −0 is accepted. -/
def floorBad (v : Word) : Bool :=
  let p := fld v 32 32
  match decFloat .f32 p with
  | .num neg m _ _ => neg && m != 0
  | _ => true

/-- The tolerance register named, if any. -/
def tolIndex : SysReg → Option (Fin 5)
  | .tolbf16 => some 0
  | .tolfp16 => some 1
  | .tole4 => some 2
  | .tole5 => some 3
  | .toln4 => some 4
  | _ => none

/-- R92, R381: a steward's write of SEMA; bits [63:2] are reserved (R3). -/
def semaWrite (v : Word) (s : State) : State :=
  let n := fld v 0 2
  if n = 3 ∧ s.sema = 0 then { s with sema := 3 }
  else if n = 0 ∧ s.sema = 3 then freeSema s
  else s

/-- R86 to R94, R124: a write of a system register; reserved bits are ignored (R3). -/
def writeSys (r : SysReg) (v : Word) (s : State) : State :=
  match r with
  | .trapbase => modMe (fun t => { t with trapbase := offsetBits v }) s
  | .utrapbase => modMe (fun t => { t with utrapbase := offsetBits v }) s
  | .trapaddr => modMe (fun t => { t with trapaddr := v }) s
  | .trappc => modMe (fun t => { t with trappc := offsetBits v }) s
  | .quantum => modMe (fun t => { t with quantum := v }) s
  | .rngsta => modMe (fun t => { t with rnga := v }) s
  | .rngstb => modMe (fun t => { t with rngb := v }) s
  | .routemask => modBooth (boothOf s s.cur.site) (fun b => { b with routemask := v &&& 0xE100 }) s
  | .segtab => modTile s.cur.site (fun t => { t with segtab := v &&& 0xFF0003FFF0 }) s
  | .sema => semaWrite v s
  | r => match tolIndex r with
    | some i => modTile s.cur.site (fun t => { t with tol := t.tol.set i (v &&& 0xFFFFFFFF0000003F) }) s
    | none => s

/-- R87, R124: a tile, booth or device register, whose new value other strands see when SYSWR has completed. -/
def sharedReg : SysReg → Bool
  | .routemask | .segtab | .sema => true
  | r => (tolIndex r).isSome

/-- R124: do the strands `e` and `f` write the same register? -/
def samePlace (s : State) (r : SysReg) (e f : SRef) : Bool :=
  match r with
  | .sema => true
  | .routemask => boothOf s e.site == boothOf s f.site
  | _ => e.site == f.site

/-- R97, R124: the writes of a shared register that were issued before the `n`-th are performed before it, in issue order,
also by strands of other tiles. -/
def landEarlier (e : SRef) (r : SysReg) (n : Nat) (s : State) : State :=
  let fs := (inTickets (fun t => match t.flight with
    | some (.sys q _ m true) => if q = r ∧ m < n then some m else none
    | _ => none) s).filter (samePlace s r e)
  fs.foldl (fun s f => match (getStrand s (skey f)).flight with
    | some (.sys q v m _) => writeSys q v (inFlight (.sys q v m false) (asStrand f s))
    | _ => s) s

/-- R124: the SYSWR of a shared register that strand `e` has in flight completes. -/
def completeSys (e : SRef) (r : SysReg) (v : Word) (n : Nat) (due : Bool) (s : State) : State :=
  let s := asStrand e (if due then landEarlier e r n s else s)
  next (if due then writeSys r v s else s)

/-- SYSWR (R87, R93, R124): a strand register is written before the strand's next instruction, a shared one when the
instruction completes, as the tile's clock finds (`completeFlight`). -/
def execSyswr (g : Guard) (r : SysReg) (a : XReg) (s : State) : Res :=
  if r.steward ∧ !(me s).priv then .next (raise .priv (me s).pc s)
  else guarded g s fun s =>
    if (tolIndex r).isSome ∧ floorBad (rx s a) then illegal s
    else if sharedReg r then .next { inFlight (.sys r (rx s a) s.ticket true) s with ticket := s.ticket + 1 }
    else .next (next (writeSys r (rx s a) s))

/-! ### SEGLD (R86, R125) -/

/-- SEGLD (R125). -/
def execSegld (g : Guard) (sd : SReg) (b : XOpnd) (s : State) : Res :=
  guarded g s fun s =>
    let n := rxo s b
    let tab := (myTile s).segtab
    let off := 16 * fld tab 4 14 + 16 * n.toNat
    if fld tab 32 8 ≤ n.toNat ∨ 0x3E000 < off + 16 then .next (raise .seg n s)
    else
      let ks := keysFrom (localKey s.cur.site off) 16
      let s := drainFor s.cur ks false s
      match poisonRead s ks with
      | some w => .next (raiseLate .uncorr (localAbs w) s)
      | none =>
        let v := BitVec.ofNat 128 (readNat s ks)
        if segValid v then .next (next (modMe (sSet sd v) s)) else .next (raise .seg n s)

end Sys2Proof.Machine
end

