-- ==== Sys2Proof/Machine/Windows.lean ====
section
/-!
DEFINITION. Class E, windows and contexts: WMAP, WUNMAP, WSTAT, RFENCE (R335 to R339), and the thread-context cache
with CTXSV and CTXLD (R95, R96, R341 to R343, R355).
-/

namespace Sys2Proof.Machine

/-! ### WMAP (R327, R328, R336) -/

/-- R327: receiver word `b` of a transmit entry. -/
def txWord (e : BitVec 640) (b : Nat) : BitVec 32 := e.extractLsb' (128 + 32 * b) 32

/-- R336 result 2 for a transmit image: a reserved bit, a field or a combination of R327. -/
def txBad (e : BitVec 640) : Bool :=
  let n := txBranches e
  !txValid e || fld e 6 10 != 0 || fld e 76 52 != 0 || (!e.getLsbD 1 && fld e 2 4 != 0) || txSize e == 0 ||
  (List.range 16).any fun b =>
    let w := txWord e b
    fld w 29 3 != 0 || w.getLsbD 28 != decide (b < n) || (decide (n ≤ b) && w != 0)

/-- R336 result 2 for a receive image: R328. The handle of a queue target stands in [95:64], and the rest of TARGET is
reserved. -/
def rxBad (e : BitVec 256) : Bool :=
  let virt := tagOf (rxTarget e) == 0
  !rxValid e || decide (2 ≤ rxKind e) || fld e 7 9 != 0 || fld e 37 27 != 0 || fld e 172 20 != 0 || fld e 217 39 != 0 ||
  fld e 192 4 != 0 ||
  (if rxKind e = 1 then fld e 96 32 != 0
    else if virt then rxOrd e != 3 || fld (rxTarget e) 57 5 != 0
    else tagOf (rxTarget e) != 2 || fld (rxTarget e) 25 37 != 0 || rxOrd e == 3)

/-- Are all pages of the extent [va, last] of a job mapped and pinned (R165)? -/
def pinnedTo (s : State) (cluster : Nat) (job : BitVec 16) (last : Nat) : Nat → Nat → Bool
  | 0, _ => false
  | f + 1, va =>
    if last < va then true
    else match probe s cluster job va with
      | some (e, lg) => e.getLsbD 7 && pinnedTo s cluster job last f ((va / 2 ^ lg + 1) * 2 ^ lg)
      | none => false

/-- The site of a local target or landing word of a receive entry: Y in [24:21], X in [20:18] (R328). -/
def rxSite (e : BitVec 256) (f : Nat) : Nat := siteInCluster (rxCluster e) (f / 2 ^ 18 % 8) (f / 2 ^ 21 % 16)

/-- R336 result 3: a target or landing word that JOB does not hold, or a page not pinned. -/
def rxForeign (s : State) (e : BitVec 256) : Bool :=
  let held (t : Nat) : Bool := isGood s t && (getTile s t).job == rxJob e
  let t := (rxTarget e).toNat
  (rxLwen e && !held (rxSite e (fld e 192 25))) ||
  (if rxKind e = 1 then
      let h := (rxTarget e).extractLsb' 0 32
      (handleFail s (rxJob e) h).isSome || qcluster (qkeyOf h) != rxCluster e
    else if tagOf (rxTarget e) = 0 then
      rxLimit e != 0 && (decide (2 ^ 57 < t + rxLimit e) ||
        !pinnedTo s (rxCluster e) (rxJob e) (t + rxLimit e - 1) (rxLimit e / 4096 + 2) t)
    else !held (rxSite e (t % 2 ^ 25)) || decide (0x40000 < t % 2 ^ 18 + rxLimit e))

/-- R336: opens the paths of a window with a new epoch and sequence 0. -/
def openPaths (w : Nat) (s : State) : State :=
  { s with pathS := s.pathS.map fun q => if q.1.win = w then (q.1, reopen q.2) else q }

/-- R336: the entry `e` becomes transmit window `w`, and the stores that wait at it go on. -/
def mapTx (w : Nat) (e : BitVec 640) (s : State) : State :=
  openPaths w { s with txwin := tset s.txwin w e, pendWin := s.pendWin.filter (·.1 ≠ w) }

/-- R336: what WMAP does with an image that it has read. -/
def wmapWith (rx_ : Bool) (w : Nat) (image : Nat) (s : State) : Nat × State :=
  if rx_ then
    let e := BitVec.ofNat 256 image
    if rxValid (rxEntry s w) then (1, s)
    else if rxBad e then (2, s)
    else if rxForeign s e then (3, s)
    else (0, { s with rxwin := tset s.rxwin w e })
  else
    let e := BitVec.ofNat 640 image
    if txValid (txEntry s w) then (1, s)
    else if txBad e then (2, s)
    else if (List.range (txBranches e)).any fun b => !s.domain.contains (txDevice e b) then (4, s)
    else (0, mapTx w e s)

/-- WMAP (R336). -/
def execWmap (g : Guard) (rx_ : Bool) (d : XReg) (m : MemOp) (b : XReg) (s : State) : Res :=
  let i : Instr := .wmap g rx_ d m b
  stewardOnly s fun s => guarded g s fun s =>
    let n := if rx_ then 32 else 80
    match checkLocal s m n 16 .load with
    | .error e => stopped i false e s
    | .ok a =>
      let ks := localKeys s a n
      let s := drainFor s.cur ks false s
      match poisonRead s ks with
      | some w => .next (raiseLate .uncorr (localAbs w) s)
      | none =>
        let r := wmapWith rx_ (fld (rx s b) 0 12) (readNat s ks) s
        .next (next (wx d (BitVec.ofNat 64 r.1) (wakeWindows r.2)))

/-! ### WUNMAP, WSTAT (R337, R338) -/

/-- R337: clears V of a transmit window. -/
def clearTx (w : Nat) (s : State) : State :=
  if txValid (txEntry s w) then { s with txwin := tset s.txwin w (txEntry s w &&& ~~~(1 : BitVec 640)) } else s
/-- R337: clears V of a receive window. -/
def clearRx (w : Nat) (s : State) : State :=
  if rxValid (rxEntry s w) then { s with rxwin := tset s.rxwin w (rxEntry s w &&& ~~~(1 : BitVec 256)) } else s

/-- R335: the window number of an operand. -/
def winOf (s : State) (b : XOpnd) : Nat := fld (rxo s b) 0 12

/-- WUNMAP (R337): the .TX form stays in flight until the stores handed to a gateway before it have settled. -/
def execWunmap (g : Guard) (rx_ : Bool) (b : XOpnd) (s : State) : Res :=
  stewardOnly s fun s => guarded g s fun s =>
    let w := winOf s b
    if rx_ then .next (next (clearRx w s))
    else if windowBusy s w s.wstores.length then .next (inFlight (.unmap w s.wstores.length) s)
    else .next (next (clearTx w s))

/-- R337: a WUNMAP.TX in flight ends when its stores have settled. -/
def unmapEnd (e : SRef) (w n : Nat) (s : State) : State :=
  if windowBusy s w n then s else next (clearTx w (readyIn 1 (asStrand e s)))

/-- R338: the value of WSTAT. -/
def wstatValue (s : State) (sel : Fin 3) (n : Word) : Word :=
  let hide (job : BitVec 16) (v : Word) : Word := if !(me s).priv ∧ job ≠ (myTile s).job then 0 else v
  let w := fld n 0 12
  match sel with
  | 0 => hide (txJob (txEntry s w)) ((txEntry s w).extractLsb' 0 64)
  | 1 => hide (rxJob (rxEntry s w)) ((rxEntry s w).extractLsb' 0 64)
  | 2 =>
    let p := getPeer s (fld n 0 16)
    BitVec.ofNat 32 p.out ++ BitVec.ofNat 32 p.cap

/-- WSTAT (R338). -/
def execWstat (g : Guard) (sel : Fin 3) (d : XReg) (b : XOpnd) (s : State) : Res :=
  guarded g s fun s => .next (next (wx d (wstatValue s sel (rxo s b)) s))

/-! ### RFENCE (R200, R339) -/

/-- R339: the window of an RFENCE.W. -/
def rfenceWin (s : State) (w : Option XOpnd) : Option Nat := w.map (winOf s)

/-- R339: writes the status over settled stores of the strand `e` that issued the RFENCE, and ends the instruction. What the
strand issues later comes after the acknowledged stores (R200). -/
def rfenceEnd (e : SRef) (d : XReg) (win : Option Nat) (n : Nat) (s : State) : State :=
  let st := rfenceStatus ((s.wstores.take n).filter (covered e win))
  next (wx d st (rfenceMark e win n (acquire s.cur (fun o => o.cls == 4) s)))

/-- RFENCE (R339). -/
def execRfence (g : Guard) (d : XReg) (w : Option XOpnd) (s : State) : Res :=
  guarded g s fun s =>
    let win := rfenceWin s w
    let n := s.wstores.length
    if rfencePending s s.cur win n then .next (waitFor .waitf (.rfence s.cur) (.rfence g d w) n s)
    else .next (rfenceEnd s.cur d win n s)

/-- R339: an RFENCE that waits ends when the last covered store of the strand that issued it has settled. While its job is
frozen it waits (R378). -/
def rfenceGo (e : SRef) (s : State) : State :=
  match (getStrand s (skey e)).wait with
  | some ⟨.rfence of_, .rfence _ d w, _, n⟩ =>
    let s' := asStrand e s
    let win := rfenceWin s' w
    if rfencePending s of_ win n ∨ (getJob s (getTile s e.site).job).frozen then s
    else rfenceEnd of_ d win n (endWait e s')
  | _ => s

/-! ### Contexts (R95, R96, R247, R341 to R343, R355) -/

/-- R247: the open records that a strand owns in a yard's loom, by block. -/
def recordsOf (s : State) (e : SRef) : List (Nat × Retry) :=
  (getLoom s (yardOf e.site)).blocks.filterMap fun p => match p.2.record with
    | some r => if r.owner = e then some (p.1, r) else none
    | none => none

/-- R355: the strand as saved: its monitors disarmed and the mask of the armed slots kept. A result on its way to an output port
stays on its way (R98, R370). -/
def saveStrand (t : Strand) : Strand :=
  { t with
    mons := Vector.replicate 4 ⟨none, false⟩
    lostMons := BitVec.ofNat 4 ((t.mons.toList.zipIdx.map fun p => if p.1.line.isSome then 2 ^ p.2 else 0).sum)
    flight := match t.flight with
      | some (.push n v) => some (.push n v)
      | _ => none }

/-- R342: the strand `e` is saved in a slot and becomes PARKED. -/
def parkIn (n : Nat) (e : SRef) (s : State) : State :=
  let t := getStrand s (skey e)
  let s' := setSlot s n { getSlot s n with full := true, from_ := endpoint s e, ctx := some (saveStrand t, recordsOf s e) }
  setStrand s' (skey e) { Strand.blank (skey e) with run := .parked, readyAt := t.readyAt, slot := n }

/-- R247: a loaded strand becomes the owner of each record that the block still holds. -/
def adoptRecords (e : SRef) (rs : List (Nat × Retry)) (s : State) : State :=
  rs.foldl (fun s p => modBlock (yardOf e.site) p.1 (fun b =>
    match b.record with
    | some r => if r.gen = p.2.gen then { b with record := some { r with owner := e } } else b
    | none => b) s) s

/-- The events that a strand which resumes in a wait may be due: it looks again at the object that it awaits (R96). -/
def lookAgain (e : SRef) (w : Wait) : List Instr :=
  match w.obj with
  | .queue q _ => [.queueWaitResume q]
  | .ready | .record => [.readyRecordArrival e.site]
  | .node h => [.waiterNodeFree (fld h 27 5)]
  | .fence _ => [.fenceComplete e]
  | .rfence _ | .cap => [.rfenceComplete e]
  | .page _ _ | .mons => []
  | .accept _ _ => [.engineAcceptance e]

/-- R355: a strand saved in WAITM leaves it at once: its MWAIT completes with the lost slots and bit 6. A wake latched for it
is raised at that boundary (R118). -/
def lostWait (e : SRef) (s : State) : State :=
  let t := getStrand s (skey e)
  match t.run, t.wait with
  | .waitm, some w =>
    let s := asStrand e s
    let extra := t.lostMons.toNat + 2 ^ 6
    next (wx (mwaitDest w.instr) (BitVec.ofNat 64 extra) (modMe (fun t => { t with lostMons := 0 }) (endWait e s)))
  | _, _ => modStrand (skey e) (fun t => { t with lostMons := 0 }) s

/-- R118: a wake latched for a strand that resumes in a wait that a wake abandons. -/
def wakeWait (e : SRef) (s : State) : State :=
  let t := getStrand s (skey e)
  match t.wait with
  | some w =>
    let kept := match w.obj, w.instr with
      | .record, _ => true
      | .cap, .scat .. => decide (0 < w.next)
      | _, _ => false
    if t.wakeDue ∧ !t.handler ∧ !kept then
      asStrand s.cur (boundary e (endWait e s))
    else s
  | none => s

/-- R342, R343, R96: strand `e` takes the context of a slot and resumes. -/
def loadFrom (n : Nat) (e : SRef) (s : State) : State :=
  match (getSlot s n).ctx with
  | none => s
  | some (t, rs) =>
    let cyc := (getTile s e.site).cycle
    let s := setSlot s n { getSlot s n with full := false, ctx := none }
    let w := t.wait.map fun w => { w with ticket := s.ticket }
    let s := setStrand { s with ticket := s.ticket + 1 } (skey e)
      { t with reserve := false, wait := w, readyAt := cyc + 1, halting := false }
    let s := reissuePaged e (adoptRecords e rs (acquireAll e s))
    let cur := s.cur
    let s := wakeWait e (asStrand cur (lostWait e s))
    match (getStrand s (skey e)).wait with
    | some w => { s with internal := s.internal ++ lookAgain e w }
    | none => s

/-- R342: the slot number, and the key of the slot in the issuing tile's yard. -/
def slotKey (s : State) (b : XOpnd) : Nat := 64 * yardOf s.cur.site + fld (rxo s b) 0 6

/-- R342: what CTXSV does once its checks have passed. -/
def ctxSave (i : Instr) (n : Fin 8) (d : XReg) (k : Nat) (s : State) : State :=
  let e : SRef := ⟨s.cur.site, n.val⟩
  let t := getStrand s (skey e)
  if (getSlot s k).full then next (wx d 1 s)
  else if t.run = .off ∨ t.run = .parked then next (wx d 2 s)
  else if e ≠ s.cur ∧ t.flight.isSome then enqueue (.memoryReply s.cur none) (inFlight (.ctx i) s)
  else
    let s := drainAll e (drainAll s.cur s)
    if unperformed s e || unperformed s s.cur then inFlight (.ctx i) s
    else
      let s := readyIn 73 s
      if e = s.cur then parkIn k e (setPc ((me s).pc + 12) (wx d 0 s))
      else next (wx d 0 (parkIn k e s))

/-- R342: what CTXLD does once its checks have passed. -/
def ctxLoad (n : Fin 8) (d : XReg) (k : Nat) (s : State) : State :=
  let e : SRef := ⟨s.cur.site, n.val⟩
  let t := getStrand s (skey e)
  if !(getSlot s k).full then next (wx d 1 s)
  else if t.run ≠ .off ∧ t.run ≠ .parked then next (wx d 2 s)
  else next (readyIn 73 (wx d 0 (loadFrom k e s)))

/-- R342: the checks that CTXSV and CTXLD share: n = 7, and a slot not granted to the job. All strands of a tile but the
reserve strand belong to the tile's one booth, so no strand that n can name is of another booth. -/
def ctxChecked (g : Guard) (n : Fin 8) (b : XOpnd) (s : State) (k : Nat → State → State) : Res :=
  guarded g s fun s =>
    if n = 7 then illegal s
    else
      let key := slotKey s b
      let sl := getSlot s key
      if !sl.grant ∨ sl.job ≠ (myTile s).job then .next (raise .addr (rxo s b) s) else .next (k key s)

/-- CTXSV (R342). -/
def execCtxsv (g : Guard) (n : Fin 8) (d : XReg) (b : XOpnd) (s : State) : Res :=
  ctxChecked g n b s (ctxSave (.ctxsv g n d b) n d)

/-- CTXLD (R342). -/
def execCtxld (g : Guard) (n : Fin 8) (d : XReg) (b : XOpnd) (s : State) : Res :=
  ctxChecked g n b s (ctxLoad n d)

end Sys2Proof.Machine
end

