-- ==== Sys2Proof/Machine/Resume.lean ====
section
/-!
DEFINITION. How instructions that wait or are in flight go on: the end of a queue wait (R264), memory replies (R14,
R207), the acceptance of engine commands (R218, R226, R280), and settled window stores (R334, R339).
-/

namespace Sys2Proof.Machine

/-- R14: the instructions that wait at a queue or at a gateway are evaluated again when what they await may have come
about; none of them has had an effect before. -/
def rerun (i : Instr) (s : State) : Res :=
  match i with
  | .add a b c d => execAdd a b c d s
  | .sub a b c d => execSub a b c d s
  | .mul a b c d => execMul a b c d s
  | .mulh a b c d => execMulh a b c d s
  | .mulhu a b c d => execMulhu a b c d s
  | .div a b c d => execDiv a b c d s
  | .divu a b c d => execDivu a b c d s
  | .rem a b c d => execRem a b c d s
  | .remu a b c d => execRemu a b c d s
  | .and a b c d => execAnd a b c d s
  | .or a b c d => execOr a b c d s
  | .xor a b c d => execXor a b c d s
  | .andn a b c d => execAndn a b c d s
  | .shl a b c d => execShl a b c d s
  | .shr a b c d => execShr a b c d s
  | .sar a b c d => execSar a b c d s
  | .rol a b c d => execRol a b c d s
  | .min a b c d => execMin a b c d s
  | .max a b c d => execMax a b c d s
  | .minu a b c d => execMinu a b c d s
  | .maxu a b c d => execMaxu a b c d s
  | .clz a b c => execClz a b c s
  | .ctz a b c => execCtz a b c s
  | .popc a b c => execPopc a b c s
  | .brev a b c => execBrev a b c s
  | .mov a b c => execMov a b c s
  | .movi a b c => execMovi a b c s
  | .ext a b c d => execExt a b c d s
  | .extu a b c d => execExtu a b c d s
  | .ins a b c d => execIns a b c d s
  | .sel a b c d e => execSel a b c d e s
  | .lea a b c => execLea a b c s
  | .caddr a b c => execCaddr a b c s
  | .crel a b c => execCrel a b c s
  | .fadd a b c d e f g => execFadd a b c d e f g s
  | .fsub a b c d e f g => execFsub a b c d e f g s
  | .fmul a b c d e f g => execFmul a b c d e f g s
  | .ffma a b c d e f g h => execFfma a b c d e f g h s
  | .fmin a b c d e => execFmin a b c d e s
  | .fmax a b c d e => execFmax a b c d e s
  | .fcmp a b c d e f => execFcmp a b c d e f s
  | .fcvt a b c d e f g h => execFcvt a b c d e f g h s
  | .fdiv a b c d e f g => execFdiv a b c d e f g s
  | .cmp a b c d e => execCmp a b c d e s
  | .pmov a b => execPmov a b s
  | .qpush a b c d e => execQpush a b c d e s
  | .qpop a b c d e f => execQpop a b c d e f s
  | .qpeek a b c d e f => execQpeek a b c d e f s
  | .qmark a b c d => execQmark a b c d s
  | .st a b c d e f => execSt a b c d e f s
  | .stv a b c d e f g => execStv a b c d e f g s
  | .scat a b c d e f g h i => execScat a b c d e f g h i s
  | .fset a b c => execFset a b c s
  | .fpoison a b c => execFpoison a b c s
  | .fget a b c d e => execFget a b c d e s
  | .ccopy a b c d e f g => execCcopy a b c d e f g s
  | .cfill a b c d e => execCfill a b c d e s
  | .cconv a b c d e f g => execCconv a b c d e f g s
  | .cgath a b c d e f => execCgath a b c d e f s
  | .nsum a b c d => execNsum a b c d s
  | .nmax a b c d => execNmax a b c d s
  | .naxpy a b c d e => execNaxpy a b c d e s
  | .nscale a b c d e => execNscale a b c d e s
  | .ncvt a b c d => execNcvt a b c d s
  | .ndot a b c d => execNdot a b c d s
  | .mcfg a b => execMcfg a b s
  | .mzero a b c d => execMzero a b c d s
  | .mloada a b c => execMloada a b c s
  | .mmul a b c => execMmul a b c s
  | .mmuls a b c => execMmuls a b c s
  | .mdrain a b c => execMdrain a b c s
  | .mchk a b c => execMchk a b c s
  | .mloc a b c d => execMloc a b c d s
  | .mcorr a b c => execMcorr a b c s
  | .mretry a b c => execMretry a b c s
  | .mstat a b c d => execMstat a b c d s
  | .minj a b => execMinj a b s
  | .ctxsv a b c d => execCtxsv a b c d s
  | _ => .next s

/-- R14: an instruction that is released completes in place, with the push of its result. -/
def inPlace (s : State) : State :=
  match (me s).flight with
  | some (.push n v) => completePush n v s
  | _ => s

/-- A waiting instruction of the executing strand is tried; it keeps its place while it waits again (R264). -/
def retry (i : Instr) (s : State) : Res :=
  match rerun i (modMe (fun t => { t with run := .run, readyAt := (myTile s).cycle + 1 }) s) with
  | .next t => .next (inPlace t)
  | r => r

/-- R264: one waiter of a queue is tried. -/
def tryWaiter (q : Nat) (a : Res) (e : SRef) : Res :=
  match a with
  | .next s =>
    (match (getStrand s (skey e)).wait with
      | some ⟨.queue p qs, i, _, _⟩ => if p = q ∨ qs.contains q then retry i (asStrand e s) else .next s
      | _ => .next s)
  | r => r

/-- The strands that wait with an instruction that names a queue, in the order of arrival. -/
def queueWaiters (q : Nat) (s : State) : List SRef :=
  inTickets (fun t => match t.wait with
    | some ⟨.queue p qs, _, n, _⟩ => if p = q ∨ qs.contains q then some n else none
    | _ => none) s

/-- QUEUE_WAIT_RESUME (R264, R285, R291): the strands that wait on a queue are tried in the order of arrival, after the
SHUTTERs that the loader owes the queue. A killed index is released. -/
def execQueueWaitResume (q : Nat) (s : State) : Res :=
  let s := placeOwed q (if (getQueue s q).st = .killed then releaseKilled s else s)
  (queueWaiters q s).foldl (tryWaiter q) (.next s)

/-- R207: the `k`-th access that strand `e` has handed off is performed, after those that must come before it. -/
def performNth (e : SRef) (k : Nat) (s : State) : State :=
  match (s.pend.filter fun p => p.e == e)[k]? with
  | some q => wakeFences (sendWakes (drain (fun p => p == q) s))
  | none => sendWakes s

/-- R162: the address of the first lane on a host page. -/
def hostLane (lanes : List Lane) : Nat := ((lanes.find? fun l => l.keys.any isHostPa).map fun l => fld l.addr 0 57).getD 0

/-- R14, R207: the access that strand `e` has in flight is performed. One to a host page enters PAGED while no host link is
up, and one stays in flight while an access that must come before it waits for a link (R162). -/
def memReply (e : SRef) (i : Instr) (lanes : List Lane) (rel : Bool) (ord : Nat) (s : State) : State :=
  let ks := lanes.flatMap (·.keys)
  let s := if rel then drainAll e s else drainFor e ks (ord == 0) s
  if hostDown s ∧ ks.any isHostPa then goPaged i (hostLane lanes) 5 (!isLoad i) (asStrand e s)
  else if s.pend.any fun p => p.e == e && (rel || comesFirst e ks (ord == 0) p) then s
  else
    let s := readyIn 1 (asStrand e s)
    match i with
    | .tjoin .. => completeJoin i lanes s
    | _ => completeMem i lanes ord s

/-- R14: the reply to the instruction that strand `e` has in flight. -/
def replyTo (e : SRef) (s : State) : Res :=
  match (getStrand s (skey e)).flight with
  | some (.mem i lanes rel ord) => .next (memReply e i lanes rel ord s)
  | some (.held i) => retry i (readyIn 1 (modStrand (skey e) (fun t => { t with flight := none }) (asStrand e s)))
  | some (.ctx (.ctxsv g n d b)) => execCtxsv g n d b (modStrand (skey e) (fun t => { t with flight := none }) (asStrand e s))
  | _ => .next s

/-- MEMORY_REPLY (R14, R207): an access handed off is performed (`some k`), or the instruction in flight completes. -/
def execMemoryReply (e : SRef) (n : Option Nat) (s : State) : Res :=
  match n with
  | some k => .next (performNth e k s)
  | none => replyTo e s

/-- ENGINE_ACCEPTANCE (R218, R226, R280): an engine accepts the command that strand `e` holds, if it has room. -/
def execEngineAcceptance (e : SRef) (s : State) : Res :=
  let t := getStrand s (skey e)
  match t.wait, t.flight with
  | some ⟨.accept u c, _, _, _⟩, _ =>
    .next (if cellarRoom s u then cellarAccept u { c with e := e } (endWait e (asStrand e s)) else s)
  | none, some (.acceptC n c _) =>
    .next (if carterRoom s n then carterAccept n { c with e := e } (readyIn 1 (asStrand e s)) else s)
  | none, some (.acceptL c _) =>
    .next (if loomRoom s e.site then loomAccept { c with e := e } (readyIn 1 (asStrand e s)) else s)
  | _, _ => .next s

/-- RFENCE_COMPLETE (R339): window stores have settled, or a gateway has room: an RFENCE ends, a store that waits at the
congestion cap or a pending window is tried (R334, R410), a WUNMAP.TX ends (R337). -/
def execRfenceComplete (e : SRef) (s : State) : Res :=
  let t := getStrand s (skey e)
  match t.wait, t.flight with
  | some ⟨.rfence _, _, _, _⟩, _ => .next (rfenceGo e s)
  | some ⟨.cap, i, _, _⟩, _ => retry i (asStrand e s)
  | none, some (.unmap w n) => .next (unmapEnd e w n s)
  | _, _ => .next s

end Sys2Proof.Machine
end

