-- ==== Sys2Proof/Machine/Strands.lean ====
section
/-!
DEFINITION. Events of strands and of the pager: wake delivery (R118), quantum expiry (R91), the pager's answers (R171,
R175), held fault records (R174), TLB invalidation (R170), and steward trap code (R364, R407).
-/

namespace Sys2Proof.Machine

/-! ### Wake events (R118) -/

/-- R211, R300: a wait that a wake does not abandon: a SCAT that has sent an element, or the record wait. -/
def wakeKept (w : Wait) : Bool :=
  match w.obj, w.instr with
  | .record, _ => true
  | .cap, .scat .. => decide (0 < w.next)
  | _, _ => false

/-- R118: WAKE becomes due for strand `e`. -/
def wakeDue (e : SRef) (s : State) : State := modStrand (skey e) (fun t => { t with wakeDue := true }) s

/-- R118: the wake latched in the context of a PARKED strand, in its slot or in what a freeze saved. -/
def wakeParked (e : SRef) (s : State) : State :=
  let n := (getStrand s (skey e)).slot
  let sl := getSlot s n
  if sl.full ∧ sl.from_ = endpoint s e then
    setSlot s n { sl with ctx := sl.ctx.map fun c => ({ c.1 with wakeDue := true }, c.2) }
  else wakeDue e s

/-- R118: a strand in RUN takes the wake at its next boundary: now if it stands between two instructions, else when the one
that it has issued completes. -/
def wakeRunning (e : SRef) (s : State) : State :=
  if uncompleted s e then wakeDue e s else boundary e (wakeDue e s)

/-- R118: a strand that waits in WAITQ or WAITF. -/
def wakeWaiting (e : SRef) (s : State) : State :=
  let t := getStrand s (skey e)
  let keep := t.handler || (match t.wait with | some w => wakeKept w | none => true)
  if keep then modStrand (skey e) latchDue (wakeDue e s) else boundary e (wakeDue e (endWait e s))

/-- WAKE_EVENT_DELIVERY (R118). -/
def execWakeEventDelivery (e : SRef) (start : Word) (s : State) : Res :=
  let t := getStrand s (skey e)
  match t.run with
  | .off =>
    .next (modStrand (skey e) (fun u => { u with readyAt := (getTile s e.site).cycle + 2 }) (startByManifest e start 0 s))
  | .waitm => .next (mwaitEnd e (2 ^ 4) s)
  | .run =>
    (match t.flight with
      | none => .next (wakeRunning e s)
      | some .pause => .next (next (readyIn 1 (asStrand e (wakeDue e s))))
      | some _ => .next (wakeDue e s))
  | .waitq | .waitf => .next (wakeWaiting e s)
  | .paged => .next (wakeDue e s)
  | .parked => .next (wakeParked e s)

/-! ### Quantum (R91, R360) -/

/-- Is the strand between two instructions? -/
def atBoundary (t : Strand) : Bool := t.run == .run && t.flight.isNone

/-- QUANTUM_EXPIRY (R91, R360): a TIMER that is due is taken when the strand stands at a boundary. -/
def execQuantumExpiry (e : SRef) (s : State) : Res :=
  let t := getStrand s (skey e)
  if t.timerDue ∧ atBoundary t ∧ !uncompleted s e then .next (boundary e s) else .next s

/-! ### The pager's answers (R171, R175) -/

/-- R170: log2 of the page size of a code. -/
def pageLg (c : Nat) : Nat :=
  match c with
  | 0 => 12
  | 1 => 16
  | 2 => 21
  | 3 => 29
  | _ => 34

/-- R412: does a VA lie within an extent that the allocator has granted the job? -/
def inGrant (s : State) (job : BitVec 16) (va : Nat) : Bool :=
  (getJob s job).pages.any fun g => decide (g.va ≤ va) && decide (va < g.va + 2 ^ pageLg g.size)

/-- R164: how the walk of a job's tables on a die ends for a VA. -/
def jobWalk (s : State) (die : Nat) (job : BitVec 16) (va : Nat) : Option Walk :=
  (lookup s.roots (65536 * die + job.toNat)).map (walk s va walkLevels)
/-- R164: the leaf that maps a VA of a job, if one does. -/
def jobLeaf (s : State) (die : Nat) (job : BitVec 16) (va : Nat) : Option (Nat × Word × Nat) :=
  match jobWalk s die job va with
  | some (.leaf key e lg) => some (key, e, lg)
  | _ => none

/-- R161, R167: the physical ranges that a page holds, of at most 2 MiB each. -/
def pageRanges (e : Word) (lg : Nat) : List (Nat × Nat) :=
  (List.range (2 ^ (lg - 21))).map fun k => (leafPa e lg (2 ^ 21 * k), 2 ^ min lg 21)
/-- R178: does a page hold a poisoned word? -/
def pagePoisoned (s : State) (e : Word) (lg : Nat) : Bool :=
  s.poison.any fun w => (pageRanges e lg).any fun r => decide (r.1 ≤ w) && decide (w < r.1 + r.2)

/-- R162, R412: may the pager answer a fault of this kind (R173) with REISSUE or RESUME? The page of a COPY fault has been copied,
and that of a NOTVALID fault restored, when the leaf says so. -/
def reissueOk (s : State) (die : Nat) (job : BitVec 16) (va kind : Nat) : Bool :=
  match kind with
  | 0 => inGrant s job va && (jobLeaf s die job va).isSome
  | 2 => (jobLeaf s die job va).any fun x => x.2.1.getLsbD 2 && !x.2.1.getLsbD 8
  | 5 => !hostDown s
  | _ => false

/-- R162, R412: may the pager answer it with DELIVER of this cause? UNCORR says that it found the page poisoned: the one to be
copied, or the kept one that it was to restore, which the model does not place (log entry 102). -/
def deliverOk (s : State) (die : Nat) (job : BitVec 16) (va kind : Nat) (c : Cause) : Bool :=
  match c with
  | .seg => kind == 1 || (kind == 0 && !inGrant s job va) || (kind == 5 && hostDown s)
  | .addr => kind == 3
  | .uncorr => (kind == 2 && (jobLeaf s die job va).any fun x => pagePoisoned s x.2.1 x.2.2) ||
      (kind == 0 && inGrant s job va && s.poison.any fun w => !isLocalKey w)
  | _ => false

/-- R412: the entry at which the walk for a VA meets a malformed one; the scribe logs its address. -/
def malformedEntry (s : State) (die : Nat) (job : BitVec 16) (va : Nat) : Word :=
  match jobWalk s die job va with
  | none => Config.recordAddr 0x0F 0xFE
  | some (.bad _ key) => BitVec.ofNat 64 key
  | some (.leaf key _ _) => BitVec.ofNat 64 key

/-- R283: a steward goes on, or, while it stalls at a host completion queue, its event waits. -/
def unlessHeld (die r : Nat) (i : Instr) (s : State) (k : Res) : Res :=
  if roleHeld s die r then .next (enqueueOnce i s) else k

/-- R174: has the pager the fault record of a strand? Its tile may hold it still. -/
def recordSent (e : SRef) (s : State) : Bool :=
  let ep := endpoint s e
  !(getTile s e.site).heldFaults.any fun r => r.extractLsb' 64 32 == ep

/-- R174: the pager has served the fault record of a strand. -/
def takeStrandFault (e : SRef) (s : State) : State :=
  let ep := endpoint s e
  takeFault (dieOf e.site) (fun r => r.extractLsb' 64 32 == ep) s

/-- PAGER_REISSUE (R171, R365, R412): a PAGED strand issues its instruction again as a new issue. -/
def execPagerReissue (e : SRef) (s : State) : Res :=
  let t := getStrand s (skey e)
  unlessHeld (dieOf e.site) 1 (.pagerReissue e) s <|
  match t.run, t.wait with
  | .paged, some ⟨.page va kind, _, _, _⟩ =>
    if recordSent e s ∧ reissueOk s (dieOf e.site) (getTile s e.site).job va kind then
      .next (reissue e (takeStrandFault e s))
    else .next s
  | _, _ => .next s

/-- PAGER_DELIVER (R171, R365, R412): a PAGED strand raises SEG, UNCORR or ADDR with TRAPADDR = VA. -/
def execPagerDeliver (e : SRef) (c : Cause) (s : State) : Res :=
  let t := getStrand s (skey e)
  let u := getTile s e.site
  let die := dieOf e.site
  unlessHeld die 1 (.pagerDeliver e c) s <|
  match t.run, t.wait with
  | .paged, some ⟨.page va kind, _, _, _⟩ =>
    if recordSent e s ∧ deliverOk s die u.job va kind c then
      let s' := if kind = 3 then pagerLog die u.logical u.job (endpoint s e) (malformedEntry s die u.job va) 0xFE s else s
      .next (raiseLate c (BitVec.ofNat 64 va) (asStrand e (takeStrandFault e s')))
    else .next s
  | _, _ => .next s

/-- R8: the die and the unit id of an engine. -/
def engineUnit : Engine → Nat × Nat
  | .loom y _ => (y / 64, 0x400 + y % 64)
  | .carter n => (n / 128, 0x440 + n % 128)

/-- R175: the command at which a loom or carter is stalled: its die, its job, the VA and the kind of the fault. -/
def engineStall (s : State) : Engine → Option (Nat × BitVec 16 × Nat × Nat)
  | .loom y t =>
    match tget [] (getLoom s y).queues t with
    | c :: _ => if c.stalled then some (y / 64, c.job, c.va, c.skind) else none
    | [] => none
  | .carter n =>
    let q := getCarter s n
    match q.queue with
    | c :: _ => if q.stalled then some (n / 128, c.job, q.va.toNat, q.skind) else none
    | [] => none

/-- R173: is this a fault record of the engine? -/
def engineRecord (e : Engine) (r : BitVec 256) : Bool := fld r 64 32 == 0 && fld r 96 12 == (engineUnit e).2

/-- R174: has the pager the fault record of an engine? -/
def engineSent (e : Engine) (s : State) : Bool :=
  !s.tiles.any fun t => t.1 / 1024 == (engineUnit e).1 && t.2.heldFaults.any (engineRecord e)

/-- R174: the pager has served the fault record of an engine. -/
def takeEngineFault (e : Engine) (s : State) : State := takeFault (engineUnit e).1 (engineRecord e) s

/-- R175: the engine goes on after the pager's answer. -/
def engineAnswer (e : Engine) (abort : Bool) (s : State) : State :=
  match e with
  | .loom y t => loomAnswer y t abort s
  | .carter n => carterAnswer n abort s

/-- PAGER_RESUME (R175, R412): a stalled loom or carter goes on from the faulting access. -/
def execPagerResume (e : Engine) (s : State) : Res :=
  unlessHeld (engineUnit e).1 1 (.pagerResume e) s <|
  match engineStall s e with
  | some (die, job, va, kind) =>
    if engineSent e s ∧ reissueOk s die job va kind then .next (engineAnswer e false (takeEngineFault e s)) else .next s
  | none => .next s

/-- PAGER_ABORT (R175, R412): a stalled command completes with TRANSLATE, where the pager would deliver a cause to a
strand. -/
def execPagerAbort (e : Engine) (s : State) : Res :=
  unlessHeld (engineUnit e).1 1 (.pagerAbort e) s <|
  match engineStall s e with
  | some (die, job, va, kind) =>
    if engineSent e s ∧ [Cause.seg, .addr, .uncorr].any (deliverOk s die job va kind) then
      let u := engineUnit e
      let s' := if kind = 3 then pagerLog u.1 u.2 job 0 (malformedEntry s die job va) 0xFE s else s
      .next (engineAnswer e true (takeEngineFault e s'))
    else .next s
  | none => .next s

/-- R412: the pager takes an EXEC record, to which it gives no answer, and the scribe logs it. -/
def takeExec (die : Nat) (s : State) : State :=
  match (getDie s die).faultQ.find? fun r => fld r 108 4 == 4 with
  | some r => takeFault die (· == r)
      (pagerLog die (fld r 96 12) (r.extractLsb' 128 16) 0 (r.extractLsb' 0 64) 0xFE s)
  | none => s

/-- FAULT_RECORD_SEND (R174): space has freed in a die's fault queue; a tile sends the oldest record that it holds. Of several
tiles the one that the model lists first sends (log entry 93). An engine may have waited for its record. -/
def execFaultRecordSend (die : Nat) (s : State) : Res :=
  match s.tiles.find? fun t => t.1 / 1024 == die && t.2.heldFaults != [] with
  | none => .next s
  | some (site, t) =>
    match t.heldFaults with
    | [] => .next s
    | r :: rest =>
      match sendFault die r s with
      | none => .next s
      | some s =>
        .next (execAccepted r die (enqueue (.faultRecordSend die) (modTile site (fun u => { u with heldFaults := rest }) s)))

/-! ### Page-table changes (R170) -/

/-- R170: the pager of a die pushes an invalidation to its translation queue. -/
def pushInval (die : Nat) (i : BitVec 128) (s : State) : State :=
  enqueue (.tlbInvalidate die) (modDie die (fun d => { d with transQ := d.transQ ++ [i] }) s)

/-- R152, R170: the pager of a die writes words of HBM or host memory, page-table entries and migrated pages, whole words whose
poison they clear (R178), and pushes an invalidation. -/
def pagerWrites (die : Nat) (ws : List (Nat × Word)) (inval : Option (BitVec 128)) (s : State) : State :=
  let s := (ws.filter fun w => (keysFrom w.1 8).all fun k => !isLocalKey k).foldl
    (fun s w => writeNat (keysFrom w.1 8) w.2.toNat s) s
  match inval with
  | none => s
  | some i => pushInval die i s

/-- The bytes of a range of memory, moved to another. -/
def movedCells (src dst n : Nat) (m : List Host.Cell) : List (Nat × Byte) :=
  (m.filter fun c => decide (src ≤ c.1) && decide (c.1 < src + n)).map fun c => (dst + (c.1 - src), c.2)
/-- A range of memory as no write has left it. -/
def blankCells (dst n : Nat) (m : List Host.Cell) : List (Nat × Byte) :=
  (m.filter fun c => decide (dst ≤ c.1) && decide (c.1 < dst + n)).map fun c => (c.1, memDefault c.1)

/-- R170: an invalidation of one page of a job. -/
def pageInval (job : BitVec 16) (va lg : Nat) : BitVec 128 :=
  fieldNat 44 0 ++ fieldNat 1 0 ++
    fieldNat 3 ((List.range 4).foldl (fun n i => if pageLg i < lg then i + 1 else n) 0) ++ job ++ fieldNat 7 0 ++ fieldNat 57 va

/-- R412: the pager of a die copies the page of a COPY fault into a freshly granted frame of the same size, writes the leaf with
W = 1 and CW = 0, and invalidates. A page with poison is not copied. -/
def copyPage (die : Nat) (job : BitVec 16) (va frame : Nat) (s : State) : State :=
  match jobLeaf s die job va with
  | none => s
  | some (key, e, lg) =>
    let e' : Word := (e &&& ~~~(BitVec.ofNat 64 ((2 ^ 40 - 1) * 2 ^ 12 + 2 ^ 8))) ||| BitVec.ofNat 64 (frame * 2 ^ 12 + 4)
    if !e.getLsbD 8 ∨ pagePoisoned s e lg ∨ 2 ^ 40 ≤ frame ∨ pteMalformed 0 lg e' ∨
        (pageRanges e' lg).any (fun r => isHole r.1) then s
    else
      let rs := ((pageRanges e lg).map (·.1)).zip (pageRanges e' lg)
      let s := rs.foldl (fun s r => { s with
        mem := pokeBytes (movedCells r.1 r.2.1 r.2.2 s.mem) (pokeBytes (blankCells r.2.1 r.2.2 s.mem) s.mem)
        poison := s.poison.filter fun w => !(decide (r.2.1 ≤ w) && decide (w < r.2.1 + r.2.2)) }) s
      pushInval die (pageInval job va lg) (writeNat (keysFrom key 8) e'.toNat s)

/-- R170: does an invalidation name a TLB entry? -/
def invalHits (i : BitVec 128) (t : TlbEntry) : Bool :=
  let lg := pageLg (fld i 80 3)
  let lo := fld i 0 57 / 2 ^ lg * 2 ^ lg
  t.job == i.extractLsb' 64 16 &&
    (i.getLsbD 83 || (decide (t.va * 2 ^ t.lg < lo + 2 ^ lg) && decide (lo < (t.va + 1) * 2 ^ t.lg)))

/-- R170: the walker drops the matching entries of all TLBs of all four dies. -/
def dropTlb (i : BitVec 128) (s : State) : State :=
  let s := { s with tlbs := s.tlbs.map fun t => (t.1, t.2.filter fun x => !invalHits i x) }
  [0, 1, 2, 3].foldl (fun s d => modDie d (fun x => { x with ltlb := x.ltlb.filter fun t => !invalHits i t }) s) s

/-- R170: is a translated access of the job still in flight, of a strand or of an engine? -/
def jobInFlight (s : State) (job : BitVec 16) : Bool :=
  (s.pend.any fun p => (getTile s p.e.site).job == job) || unwritten [job] s ||
  (s.cellars.any fun p => p.2.pas.isSome && p.2.queue.head?.any fun c => c.job == job) ||
  s.strands.any fun p => (getTile s (p.1 / 8)).job == job && match p.2.flight with
    | some (.mem _ lanes _ _) => lanes.any fun l => l.keys.any fun k => !isLocalKey k
    | _ => false

/-- TLB_INVALIDATE (R170): the walker takes an invalidation, drops the matching entries, and completes it once the
accesses that translated through them are performed. -/
def execTlbInvalidate (die : Nat) (s : State) : Res :=
  match (getDie s die).transQ with
  | [] => .next s
  | i :: r =>
    let job := i.extractLsb' 64 16
    let s := dropTlb i s
    let s := drain (fun p => (getTile s p.e.site).job == job) s
    if jobInFlight s job then .next (enqueue (.tlbInvalidate die) s)
    else .next (modDie die (fun d => { d with transQ := r }) (wakeFences s))

/-! ### Steward trap code (R364, R407) -/

/-- R407: does the call INJECT apply? -/
def injectOk (e : SRef) (v : Word) (s : State) : Bool :=
  let b := fld v 0 6
  let t := getTile s e.site
  (getBlock s (yardOf e.site) b).booth == some (t.job, t.booth) && t.booth != 0 && minjOk v

/-- R364: the default action on a cause: the record, the host's entry, and the strand stopped. -/
def stewardStop (e : SRef) (s : State) : State :=
  let t := getStrand s (skey e)
  let cls := if t.cause = 8 then 4 else 1
  let die := dieOf e.site
  let s := logTile e.site 0x03 cls (some e.k) t.trapaddr (causeWord t) (t.trappc.zeroExtend 192) s
  let s := hostPost (getTile s e.site).job
    (mkEntry s cls 4 (getTile s e.site).logical die 0 ((endpoint s e).zeroExtend 64) (logAddr s die)) s
  stopStrand e s

/-- R364: does a strand of a user job stand at its steward vector, where the loader has installed the trap code? -/
def atTrapCode (e : SRef) (s : State) : Bool :=
  let t := getStrand s (skey e)
  t.handler && !t.uvec && t.pc == t.trapbase && (getTile s e.site).job != 0 && !t.reserve

/-- R364: what steward trap code does for a strand that has entered it. After UNCORR, and after RECOVER, the strand stands
there until the recovery of its booth stops it (R376). -/
def trapCode (e : SRef) (s : State) : State :=
  let t := getStrand s (skey e)
  let bk := boothOf s e.site
  let ret (s : State) : State := boundaryEdge bk (returnFrom (asStrand e s))
  if t.cause = 9 then s
  else if t.cause = 15 then
    match fld t.trapaddr 0 32 with
    | 1 => enqueueOnce (.boothRecovery (bk / 65536) (bk % 65536)) s
    | 2 => ret (logTile e.site 0x10 0 (some e.k) 0 (xGet t 1) ((xGet t 2).zeroExtend 192) s)
    | 3 => if injectOk e (xGet t 1) s then ret (modBlock (yardOf e.site) (fld (xGet t 1) 0 6) (injectBit (xGet t 1)) s)
      else stewardStop e s
    | _ => stewardStop e s
  else stewardStop e s

end Sys2Proof.Machine
end

