-- ==== Sys2Proof/Machine/Booths.lean ====
section
/-!
DEFINITION. Booths as a whole: recovery (R284, R376, R377), twins (R286), the quiescence detector (R32, R33), the
watchdog (R34), and the wait descriptor of their records (R366).
-/

namespace Sys2Proof.Machine

/-! ### Recovery (R284, R376, R377) -/

/-- R284: a queue of a booth that is recovered. -/
def rewindQueue (bk : Nat) (heads : List Nat) (k : Nat) (q : Queue) : Queue :=
  let q := if isInput bk q then { q with head := q.keep, inSt := q.edgeSt } else q
  if isOutA bk q || isOutB bk q || heads.contains k then
    let d := q.tail - q.commit
    let q := { q with
      tail := q.commit
      spilled := q.spilled - d
      marks := if isOutB bk q && !isOutA bk q then q.marks else []
      marksB := if isOutA bk q && !isOutB bk q then q.marksB else []
      twinA := if isOutA bk q then [] else q.twinA
      twinB := if isOutB bk q then [] else q.twinB }
    { q with pushers := keptPushers q }
  else q

/-- R284: the rewind of every queue of a booth, in one step. -/
def rewindBooth (bk : Nat) (s : State) : State :=
  let heads := (s.queues.filter fun p => isOutA bk p.2 && p.2.mcast).flatMap fun p => p.2.brs.map qkeyOf
  let touched := (s.queues.filter fun p => isInput bk p.2 || isOutA bk p.2 || isOutB bk p.2).map (·.1) ++ heads
  let s := { s with queues := s.queues.map fun p => (p.1, rewindQueue bk heads p.1 p.2) }
  touched.foldl (fun s k => wakeQueue k s) s

/-- R377: the loom commands into blocks of a booth are discarded at their next turn boundary. -/
def discardLoom (bk : Nat) (s : State) : State :=
  let key : BitVec 16 × Nat := (BitVec.ofNat 16 (bk / 65536), bk % 65536)
  let mark (l : Loom) (c : LoomCmd) : LoomCmd :=
    let hits := (loomNames c).any fun b => (tget Block.empty l.blocks b).booth == some key
    if hits then { c with fclass := some 5, stalled := false } else c
  let hit (l : Loom) : Bool := l.queues.any fun q => q.2.any fun c =>
    (loomNames c).any fun b => (tget Block.empty l.blocks b).booth == some key
  let ys : List Nat := (s.looms.filter fun p => hit p.2).map (·.1)
  let s := { s with looms := s.looms.map fun (p : Nat × Loom) =>
    (p.1, { p.2 with queues := p.2.queues.map fun (q : Nat × List LoomCmd) => (q.1, q.2.map (mark p.2)) }) }
  { s with internal := s.internal ++ ys.map Instr.loomTurn }

/-- R25, R32, R376: a record in transit between tiles of a booth, or a recovery that it is still owed. -/
def dueEvent (b : Booth) (job booth : Nat) (i : Instr) : Bool :=
  inTransit b.tiles i || i == .boothRecovery job booth

/-- R368: a record of the loader about a booth. -/
def boothLog (bk kind cls : Nat) (s : State) : State :=
  let b := getBooth s bk
  let die := dieOf (b.tiles.headD 0)
  logTo die [mkLog s kind cls (BitVec.ofNat 16 (bk / 65536)) 0 (stewardUnit s die 4) die 0 (BitVec.ofNat 64 (bk % 65536))
    (BitVec.ofNat 192 (b.round % 2 ^ 32))] s

/-- R385: a report of the loader about a booth to its job's host completion queue. -/
def boothReport (bk cls : Nat) (s : State) : State :=
  let b := getBooth s bk
  let job := BitVec.ofNat 16 (bk / 65536)
  let die := dieOf (b.tiles.headD 0)
  hostPost job (mkEntry s cls 4 (stewardUnit s die 4) die (getJob s job).tag (BitVec.ofNat 64 (bk % 65536)) (logAddr s die)) s

/-- Is every strand 0 to 6 of a booth OFF? -/
def boothOff (s : State) (b : Booth) : Bool := (boothStrands b).all fun e => (getStrand s (skey e)).run == .off

/-- R284: a second UNCORR in a round that was recovered leaves the booth halted and reported; its yards may change their frequency (R392). -/
def failBooth (bk : Nat) (s : State) : State :=
  let s := modBooth bk (fun b => { b with halted := true, finished := true, reported := true, recovering := false }) s
  boothReport bk 5 (boothLog bk 0x0B 5 (setYards ((getBooth s bk).tiles.map yardOf) s))

/-- R377 step 1: has a carter or cellar accepted a command of the booth that is still to run, or a loom one to discard, or is
a store handed off? A command that has only its entry still to push is not waited for, but those behind it are (log entry
82). -/
def boothBusy (s : State) (b : Booth) : Bool :=
  let mine (e : SRef) : Bool := b.tiles.contains e.site
  (s.carters.any fun p => (p.2.queue.drop (if p.2.entry.isSome then 1 else 0)).any fun c => mine c.e) ||
  (s.cellars.any fun p => (p.2.queue.drop (if p.2.entry.isSome then 1 else 0)).any fun c => mine c.e) ||
  (s.looms.any fun p => p.2.queues.any fun q => !p.2.pushing.any (·.1 == q.1) && q.2.any fun c => mine c.e && c.fclass.isSome) ||
  s.pend.any fun p => mine p.e

/-- R377 steps 2 to 5, once step 1 is done. A disagreement of twins leaves the count of UNCORR as it was (R286). -/
def restartBooth (bk : Nat) (s : State) : State :=
  let b := getBooth s bk
  let s := b.tiles.foldl (fun s t => modTile t clearReady s) (loadImage b (rewindBooth bk s))
  let s := modBooth bk (fun b =>
    { b with recovered := b.recovered || !b.byTwin, recovering := false, byTwin := false }) (startBooth b s)
  boothLog bk 0x0A 5 s

/-- The good sites of a die, and the one with a logical number. -/
def dieSites (s : State) (die : Nat) : List Nat := ((List.range 1024).map (1024 * die + ·)).filter (isGood s)
def logicalSite (s : State) (die n : Nat) : Option Nat := (dieSites s die).find? fun t => (getTile s t).logical == n

/-- R389: the bytes of one steward on its tile. -/
def loadSteward (die : Nat) (s : State) (x : Nat × Nat × List Byte) : State :=
  match logicalSite s die x.1 with
  | some t => writeBytes ((keysFrom (localKey t x.2.1) x.2.2.length).zip x.2.2) s
  | none => s
def startSteward (die : Nat) (s : State) (x : Nat × Nat) : State :=
  match logicalSite s die x.1 with
  | some t => startStrand ⟨t, 0⟩ (BitVec.ofNat 64 x.2) 0 false [] [] s
  | none => s

/-- R28: a steward whose tile raised an uncorrectable error starts anew on the lowest-numbered spare tile of its die on
which no steward runs; the strands 0 to 6 of its old tile halt (log entry 37). -/
def moveSteward (die r spare site : Nat) (s : State) : State :=
  let d := getDie s die
  let s := (List.range 7).foldl (fun s k => haltStrand ⟨site, k⟩ s) s
  let s := modDie die (fun d => { d with roles := d.roles.set r spare }) s
  let s := (d.images.filter fun x => x.1 == r).foldl (fun s x => loadSteward die s (spare, x.2)) s
  (d.entries.filter fun x => x.1 == r).foldl (fun s x => startSteward die s (spare, x.2)) s
def restartSteward (site : Nat) (s : State) : State :=
  let die := dieOf site
  let d := getDie s die
  match d.roles.findIdx? (· == (getTile s site).logical), [5, 6, 7].find? (fun n => !d.roles.contains n) with
  | some r, some spare => if d.phase = .ready then moveSteward die r spare site s else s
  | _, _ => s

/-- R284, R376: is the booth past recovery? It stands halted, or its job is being killed. -/
def pastRecovery (s : State) (bk : Nat) : Bool :=
  let b := getBooth s bk
  b.tiles == [] || b.halted || (getJob s (BitVec.ofNat 16 (bk / 65536))).killing

/-- BOOTH_RECOVERY (R284, R376, R377): every strand is halted, one with an instruction in flight when that instruction
completes, records in transit return to their senders (R25), and the commands that engines have accepted end; then the booth
is rewound, reloaded and restarted. A booth that stands halted is not recovered; a freeze suspends recovery (R378), and a
loader that stalls at a host completion queue goes on with it later (R283). A number from 65,536 on names the tile of a
steward (R28). -/
def execBoothRecovery (job booth : Nat) (s : State) : Res :=
  let bk := 65536 * job + booth
  let b := getBooth s bk
  if job = 0 ∧ 65536 ≤ booth then .next (restartSteward (booth - 65536) s)
  else if booth = 0 ∨ pastRecovery s bk then .next s
  else if (getJob s (BitVec.ofNat 16 job)).frozen ∨ roleHeld s (dieOf (b.tiles.headD 0)) 4 then
    .next (enqueueOnce (.boothRecovery job booth) s)
  else
    let s := modBooth bk (fun b => { b with recovering := true }) s
    let s := haltBooth b (discardLoom bk s)
    let s := { s with internal := s.internal.filter (· != .boothRecovery job booth) }
    let s := drain (fun p => b.tiles.contains p.e.site) (returnRecords b.tiles s)
    if !boothOff s b ∨ boothBusy s b then .next (enqueue (.boothRecovery job booth) s)
    else
      let s := resetBlocks bk (freeSlots b s)
      if b.recovered ∧ !b.byTwin then .next (failBooth bk s) else .next (restartBooth bk s)

/-! ### Twins (R286) -/

/-- R286: recovery of a twin after a disagreement: by R284, with no UNCORR. Its strands halt at once; a recovery that UNCORR
has started goes on as such. -/
def recoverTwin (bk : Nat) (s : State) : State :=
  if pastRecovery s bk then s
  else
    let b := getBooth s bk
    let s := modBooth bk (fun b => { b with recovering := true, byTwin := b.byTwin || !b.recovering }) s
    enqueueOnce (.boothRecovery (bk / 65536) (bk % 65536)) (haltBooth b (discardLoom bk s))

/-- R286, R368: the TWIN record and the two headerless records of the entries. -/
def twinLog (q n : Nat) (a b : List Byte) (s : State) : State :=
  let qu := getQueue s q
  let die := qcluster q / 8
  let hdr := mkLog s 0x0C 5 qu.job 0 (0x500 + qcluster q % 8) die 0 (BitVec.ofNat 64 (n % 2 ^ 32)) 0
  logTo die [hdr, BitVec.ofNat 512 (bytesNat a), BitVec.ofNat 512 (bytesNat b)] s

/-- R286: the third consecutive disagreement within a round: the merge queue is HELD and UNCORR reported. -/
def twinHeld (q : Nat) (s : State) : State :=
  let qu := getQueue s q
  let die := qcluster q / 8
  let s := modQueue q (fun q => { q with st := .held, heldAt := (getTile s (keySite q.ring)).cycle, late := false }) s
  let s := logTo die [mkLog s 0x09 5 qu.job 0 (0x500 + qcluster q % 8) die 0 0 0] s
  hostPost qu.job (mkEntry s 5 4 (stewardUnit s die 4) die (getJob s qu.job).tag ((handleOf q qu.gen).zeroExtend 64) (logAddr s die)) s

/-- R286: a pair that differs. -/
def twinDiffer (q : Nat) (a b : List Byte) (s : State) : State :=
  let qu := getQueue s q
  let s := twinLog q qu.tail a b s
  let s := recoverTwin (bkey qu.job qu.twinb) (recoverTwin (bkey qu.job qu.pbooth) s)
  let s := modQueue q (fun x => { x with
    twinA := []
    twinB := []
    marks := []
    marksB := []
    edgeA := 0
    edgeB := 0
    differ := qu.differ + 1 }) s
  if 3 ≤ qu.differ + 1 then twinHeld q s else wakeQueue q s

/-- TWIN_COMPARE (R286): the oldest pair of a merge queue is compared; if it agrees one copy is pushed, staged. A pair that a
HELD queue did not take, or that differs, has been left to this event. -/
def execTwinCompare (q : Nat) (s : State) : Res :=
  let qu := getQueue s q
  match oldestPair qu with
  | some p =>
    if qu.st ≠ .open_ ∨ !qu.twin then .next s
    else if pairAgrees p then
      let s := placePair q p.2.2.1 s
      .next (if (oldestPair (getQueue s q)).isSome ∧ (getQueue s q).st = .open_ then enqueue (.twinCompare q) s else s)
    else .next (twinDiffer q p.1.2.2 p.2.2.2 s)
  | none => .next s

/-! ### The wait descriptor (R366) -/

def runCode : Run → Nat
  | .run => 0 | .waitm => 1 | .waitq => 2 | .waitf => 3 | .paged => 4 | .parked => 5 | .off => 6

/-- R366: the kind of the object awaited, and OBJECT. -/
def waitObject (s : State) (t : Strand) : Nat × Nat :=
  match t.wait with
  | none => (0, 0)
  | some w => match w.obj with
    | .queue q _ => (1, (handleOf q (getQueue s q).gen).toNat)
    | .ready | .record => (2, 0)
    | .node h => (3, h.toNat)
    | .fence _ => (4, 0)
    | .rfence _ => (5, 0)
    | .cap => (6, match w.instr with
      | .scat _ _ sz _ _ mk _ _ _ => if w.next = 0 then ((List.range (64 / sizeBytes sz)).find? fun i =>
          (kGet t mk).getLsbD i).getD 0 else w.next
      | _ => 0)
    | .page va _ => (7, va / 2 ^ 12 % 2 ^ 45)
    | .mons => (9, 0)
    | .accept _ _ => (8, 0)

/-- R366. A strand whose engine command is not accepted, or that is in flight otherwise, is in RUN. -/
def waitWord (s : State) (t : Strand) : Word :=
  let o := waitObject s t
  let kind := match t.flight with
    | some (.acceptC ..) | some (.acceptL ..) => 8
    | _ => o.1
  let armed := (t.mons.toList.zipIdx.map fun p => if p.1.line.isSome then 2 ^ p.2 else 0).sum
  BitVec.ofNat 64 (runCode t.run + b2n t.handler * 2 ^ 3 + (armed ||| t.lostMons.toNat) * 2 ^ 4 + kind * 2 ^ 8 +
    o.2 * 2 ^ 16)

/-- R368: the headerless records that name strands, four to a record. -/
def strandRecords (s : State) : List SRef → List (BitVec 512)
  | a :: b :: c :: d :: r =>
    let en (e : SRef) : BitVec 128 := waitWord s (getStrand s (skey e)) ++ fieldNat 32 0 ++ endpoint s e
    (en d ++ en c ++ en b ++ en a) :: strandRecords s r
  | [] => []
  | l =>
    let en (n : Nat) : BitVec 128 := match l[n]? with
      | some e => waitWord s (getStrand s (skey e)) ++ fieldNat 32 0 ++ endpoint s e
      | none => 0
    [en 3 ++ en 2 ++ en 1 ++ en 0]

/-- R33, R34: a DEADLOCK or STALLED record to the scribe and to the job's host completion queue. -/
def declareBooth (bk kind : Nat) (es : List SRef) (s : State) : State :=
  let b := getBooth s bk
  let die := dieOf (b.tiles.headD 0)
  let job := BitVec.ofNat 16 (bk / 65536)
  let hdr := mkLog s kind 0 job 0 0 die 0 (BitVec.ofNat 64 es.length) 0
  let s' := logTo die [hdr] s
  let at' := logAddr s' die
  let s' := logTo die (strandRecords s es) s'
  hostPost job (mkEntry s' 0 5 0 die (BitVec.ofNat 32 kind) (BitVec.ofNat 64 (bk % 65536)) at') s'

/-! ### The detector (R32, R33) -/

/-- R283, R385: does the detector or watchdog of a booth stall at a host completion queue? -/
def detectorHeld (s : State) (bk : Nat) : Bool :=
  [0, 1].any fun p => (getPort s p).hcqs.any fun q => q.2.held.any fun e =>
    fld e 4 4 == 5 && fld e 64 16 == bk % 65536 && fld e 20 2 == dieOf ((getBooth s bk).tiles.headD 0)

/-- R32, R324: does the strand itself have a request outstanding, of the pager, for a waiter node, or of the gateway, which may
wait on a remote device? -/
def asks (t : Strand) : Bool :=
  t.run == .paged || (match t.wait with
    | some ⟨.node _, _, _, _⟩ | some ⟨.cap, _, _, _⟩ | some ⟨.rfence _, _, _, _⟩ => true
    | _ => false)

/-- R32: is a request of the booth outstanding? A queue of the booth in HELD is a request to the pager. -/
def outstanding (s : State) (bk : Nat) : Bool :=
  let b := getBooth s bk
  let mine (e : SRef) : Bool := b.tiles.contains e.site
  s.pend.any (fun p => mine p.e) ||
  (s.carters.any fun p => p.2.queue.any fun c => mine c.e) ||
  (s.cellars.any fun p => p.2.queue.any fun c => mine c.e) ||
  (s.looms.any fun p => p.2.queues.any fun q => q.2.any fun c => mine c.e) ||
  (s.wstores.any fun w => w.st == 0 && match w.sender with | .strand e => mine e | .carter _ => false) ||
  (b.tiles.any fun t => (getTile s t).heldFaults != [] || (getTile s t).rqHeld) ||
  ((boothStrands b).any fun e => asks (getStrand s (skey e))) ||
  (s.queues.any fun p => p.2.st == .held && (isInput bk p.2 || isOutA bk p.2 || isOutB bk p.2)) ||
  b.staged != [] || b.halted || b.recovering ||
  s.internal.any (dueEvent b (bk / 65536) (bk % 65536))

/-- R32: is the booth quiescent? -/
def quiescent (s : State) (bk : Nat) : Bool :=
  let b := getBooth s bk
  ((boothStrands b).all fun e => (getStrand s (skey e)).run != .run) && !outstanding s bk &&
  s.queues.all fun p => !isInput bk p.2 || p.2.head == p.2.commit

/-- DEADLOCK_SAMPLE (R33): one sample of a booth. -/
def execDeadlockSample (job booth : Nat) (s : State) : Res :=
  let bk := 65536 * job + booth
  let b := getBooth s bk
  if booth = 0 ∨ b.tiles = [] ∨ detectorHeld s bk then .next s
  else
    let quiet := quiescent s bk
    let declared := b.declared && quiet && !b.moved
    let now := quiet && b.lastQuiet && !b.moved && !declared
    let s := modBooth bk (fun b => { b with lastQuiet := quiet, moved := false, declared := declared || now }) s
    .next (if now then declareBooth bk 1 (boothStrands b) s else s)

/-! ### The watchdog (R34, R276) -/

/-- R34, R276: the watchdog period that governs a queue: that of its consuming booth, else of its producing booth; the default
for a queue without booth (log entry 70). -/
def heldLimit (s : State) (q : Queue) : Nat :=
  (getBooth s (bkey q.job (if q.cbooth ≠ 0 then q.cbooth else q.pbooth))).period

/-- R276: the pager posts an entry of class SPILL, once for each time in HELD, for a queue held longer than the watchdog
period, as the clock of its ring's tile finds. -/
def spillTimers (site : Nat) (s : State) : State :=
  let due := s.queues.filter fun p => p.2.st == .held && !p.2.late && ringSite p.1 p.2 == site &&
    decide (p.2.heldAt + heldLimit s p.2 < (getTile s site).cycle)
  due.foldl (fun s p =>
    let die := qcluster p.1 / 8
    hostPost p.2.job (mkEntry s 10 4 (stewardUnit s die 1) die (getJob s p.2.job).tag ((handleOf p.1 p.2.gen).zeroExtend 64) 0)
      (modQueue p.1 (fun q => { q with late := true }) s)) s

/-- R34, R366: a strand that waits, also one in RUN whose engine command is not accepted. -/
def blocked (t : Strand) : Bool :=
  (t.run != .run && t.run != .off) || (match t.flight with
    | some (.acceptC ..) | some (.acceptL ..) => true
    | _ => false)

/-- WATCHDOG_EXPIRY (R34): the STALLED record lists every blocked strand; the counter restarts. -/
def execWatchdogExpiry (job booth : Nat) (s : State) : Res :=
  let bk := 65536 * job + booth
  let b := getBooth s bk
  if booth = 0 ∨ b.tiles = [] ∨ b.watch < b.period ∨ detectorHeld s bk then .next s
  else
    let es := (boothStrands b).filter fun e => blocked (getStrand s (skey e))
    let s := modBooth bk (fun b => { b with watch := 0 }) s
    .next (declareBooth bk 2 es s)

end Sys2Proof.Machine
end

