-- ==== Sys2Proof/Machine/Context.lean ====
section
/-!
DEFINITION. The bytes of a context (R95, R126, R245, R366) and the HBM that backs context slots (R341).
-/

namespace Sys2Proof.Machine

/-! ### The image of a context (R95) -/

/-- R245: the header of a retry record. -/
def retryHeader (s : State) (yard blk : Nat) (r : Retry) : Nat :=
  blk + 2 ^ 6 + 2 ^ 7 * b2n (getBlock s yard blk).int + 2 ^ 8 * r.entries.length + 2 ^ 15 * b2n r.base +
  2 ^ 16 * (r.bdoff % 2 ^ 12) + 2 ^ 28 * (r.btile % 16) + 2 ^ 32 * (r.rpos.getD 0x7F) + 2 ^ 64 * (endpoint s r.owner).toNat +
  2 ^ 96 * r.gen.toNat

/-- R245: an entry: the format context in force at its command's start (R227) in bits [27:17]. -/
def retryEntryWord (e : RetryEntry) : Nat :=
  e.doff % 2 ^ 12 + 2 ^ 12 * (e.tile % 16) + 2 ^ 16 * b2n e.s + 2 ^ 17 * fld e.ctx 0 11

/-- R245: the 2,048 bytes of a strand's retry records, at most seven. -/
def retryBytes (s : State) (yard : Nat) (rs : List (Nat × Retry)) : List Byte :=
  let at_ (i : Nat) : Option (Nat × Retry) := if i < 7 then rs[i]? else none
  ((List.range 8).flatMap fun i => natBytes 16 (((at_ i).map fun r => retryHeader s yard r.1 r.2).getD 0)) ++
  ((List.range 7).flatMap fun i => (List.range 64).flatMap fun k =>
    natBytes 4 (((at_ i).bind fun r => (r.2.entries[k]?).map retryEntryWord).getD 0)) ++
  List.replicate 128 0

/-- R95: a port binding; an unbound port holds the handle that names no queue (R260). -/
def bindBytes (b : Option Bind) : List Byte :=
  match b with
  | some b => natBytes 4 b.handle.toNat ++ natBytes 4 b.vec.toNat
  | none => List.replicate 8 0

/-- R95: the 4 KiB image of a strand of a yard with its open retry records. -/
def ctxBytes (s : State) (yard : Nat) (t : Strand) (rs : List (Nat × Retry)) : List Byte :=
  let w8 (v : Word) : List Byte := natBytes 8 v.toNat
  let u := latchDue t
  ((List.range 32).flatMap fun i => w8 (if i = 0 then 0 else t.x.toList.getD i 0)) ++
  ((List.range 8).flatMap fun i => w8 (if i = 0 then BitVec.allOnes 64 else t.k.toList.getD i 0)) ++
  ((List.range 8).map fun i => BitVec.ofNat 8 (b2n (i == 7 || t.p.toList.getD i false))) ++
  w8 t.pc ++ w8 (statusWord t) ++ w8 (causeWord u) ++ w8 t.trapaddr ++ w8 t.trappc ++ w8 t.quantum ++
  w8 t.rnga ++ w8 t.rngb ++ w8 (waitWord s t) ++ t.ports.toList.flatMap bindBytes ++ w8 t.trapbase ++ w8 t.utrapbase ++
  List.replicate 64 0 ++ (t.seg.toList.flatMap fun g => natBytes 16 g.toNat) ++ List.replicate 384 0 ++
  (t.v.toList.flatMap fun v => natBytes 64 v.toNat) ++ retryBytes s yard rs

/-- R95: the registers of a strand as the bytes of its image hold them; the rest of the record, which the image's wait
descriptor and retry records stand for, is kept (log entry 38). -/
def ctxRead (bs : List Byte) (t : Strand) : Strand :=
  let at_ (off n : Nat) : Nat := bytesNat ((bs.drop off).take n)
  let w (off : Nat) : Word := BitVec.ofNat 64 (at_ off 8)
  let st := w 0x150
  let pend : BitVec 16 := BitVec.ofNat 16 (at_ 0x15A 2)
  let held := st.getLsbD 1
  { t with
    x := Vector.ofFn fun (i : Fin 32) => w (8 * i.val)
    k := Vector.ofFn fun (i : Fin 8) => if i.val = 0 then t.k[0] else w (0x100 + 8 * i.val)
    p := Vector.ofFn fun (i : Fin 8) => if i.val = 7 then t.p[7] else decide (at_ (0x140 + i.val) 1 % 2 = 1)
    pc := w 0x148
    priv := st.getLsbD 0
    handler := held
    uvec := st.getLsbD 2
    task := st.getLsbD 3
    reserve := st.getLsbD 4
    cause := BitVec.ofNat 4 (at_ 0x158 1 % 16)
    pending := if held then pend else pend &&& 0x9FFF
    timerDue := !held && pend.getLsbD 13
    wakeDue := t.wakeDue || (!held && pend.getLsbD 14)
    trapaddr := w 0x160
    trappc := w 0x168
    quantum := w 0x170
    rnga := w 0x178
    rngb := w 0x180
    ports := Vector.ofFn fun (i : Fin 4) =>
      let h : BitVec 32 := BitVec.ofNat 32 (at_ (0x190 + 8 * i.val) 4)
      if h = 0 then none else some ⟨h, BitVec.ofNat 32 (at_ (0x194 + 8 * i.val) 4)⟩
    trapbase := w 0x1B0
    utrapbase := w 0x1B8
    seg := Vector.ofFn fun (i : Fin 8) => BitVec.ofNat 128 (at_ (0x200 + 16 * i.val) 16)
    v := Vector.ofFn fun (i : Fin 16) => BitVec.ofNat 512 (at_ (0x400 + 64 * i.val) 64) }

/-! ### The backing of slots (R341) -/

/-- R341: the bytes of a slot with its backing in HBM. -/
def slotImage (s : State) (key : Nat) (v : Slot) : List (Nat × Byte) :=
  match v.backing, v.ctx with
  | some f, some (t, rs) => (keysFrom f 4096).zip (ctxBytes s (key / 64) t rs)
  | _, _ => []

/-- R341, R372, R392: the full slots that `f` selects are written to their backing. -/
def backSlots (f : Nat → Slot → Bool) (s : State) : State :=
  (s.slots.filter fun p => p.2.full && f p.1 p.2).foldl (fun u p => putBytes (slotImage s p.1 p.2) u) s

/-- R341, R374, R392: the full slots that `f` selects are read back from their backing. -/
def readSlots (f : Nat → Slot → Bool) (s : State) : State :=
  { s with slots := s.slots.map fun p =>
      match p.2.full && f p.1 p.2, p.2.backing with
      | true, some b => (p.1, { p.2 with ctx := p.2.ctx.map fun c => (ctxRead (readKeys s (keysFrom b 4096)) c.1, c.2) })
      | _, _ => p }

/-- R95, R372: the images that a freeze writes of the strands of some keys that hold a context. -/
def liveImages (ks : List Nat) (s : State) : Tab (List Byte) :=
  (ks.filter fun k => (getStrand s k).run != .off && (getStrand s k).run != .parked).map fun k =>
    let e := srefOf k
    (k, ctxBytes s (yardOf e.site) (saveStrand (getStrand s k)) (recordsOf s e))

end Sys2Proof.Machine
end

