-- ==== Sys2Proof/Machine/Reflection.lean ====
section
/-!
DEFINITION. The receiving side of reflection and the events of paths (R199 to R201, R287, R328 to R334, R372, R410).
-/

namespace Sys2Proof.Machine

/-! ### The receiver (R199, R287, R329) -/

/-- R329, R409: does the receiving job hold the transmit side, the jobs of one domain job counting as one? -/
def sameJob (s : State) (w : RWrite) (job : BitVec 16) : Bool :=
  (w.from_ == s.device && w.job == job) || ((getJob s job).seed == w.seed && (w.job == 0) == (job == 0))

/-- R375, R409: does the domain job of a job span device `dev`: have the link stewards told of it, or does a window send
there? -/
def spansDevice (s : State) (dev : Nat) (job : BitVec 16) : Bool :=
  (getJob s job).devices.contains dev ||
  s.txwin.any fun w => txValid w.2 && (getJob s (txJob w.2)).seed == (getJob s job).seed &&
    (List.range (txBranches w.2)).any fun b => txDevice w.2 b == dev

/-- R409: the link stewards tell that a domain job has started on another device. -/
def joinDevice (seed : Word) (dev : Nat) (s : State) : State :=
  { s with jobs := s.jobs.map fun j =>
      if j.2.seed = seed ∧ !j.2.devices.contains dev then (j.1, { j.2 with devices := j.2.devices ++ [dev] }) else j }

/-- R329, R372: the checks of a receive entry that do not depend on its kind. A frozen job accepts only what comes from a
device of the freeze: this one, and the others of its domain job. -/
def rxAccepts (s : State) (w : RWrite) (e : BitVec 256) : Bool :=
  rxValid e && sameJob s w (rxJob e) && rxW e && decide (w.offset + w.size ≤ rxLimit e) &&
  (!(getJob s (rxJob e)).frozen || w.from_ == s.device || spansDevice s w.from_ (rxJob e))

/-- What a receiver does with a store whose sequence is the expected one. -/
inductive Arrival where
  | hold (s : State)
  | answer (a : RAnswer) (s : State)

/-- R178, R199, R347: the bytes performed are counted into the landing word; poison met there is logged. -/
def rxCount (e : BitVec 256) (n : Nat) (s : State) : State :=
  if !rxLwen e then s
  else
    let s := publish (fun o => o.cls == 4) s
    let r := lwCount (rxLw e) n s
    if r.1 then r.2 else
      let die := rxCluster e / 8
      let k := (rxLw e).headD 0
      logTo die [mkLog s 0x09 5 (rxJob e) 0 (getTile s (keySite k)).logical die (localAbs k) 0 0] s

/-- R199, R204: a write at a memory target. A local target lies in the entry's cluster. One across two pages of different order
kinds is refused (log entry 96). -/
def rxMemory (w : RWrite) (e : BitVec 256) (s : State) : Arrival :=
  let t := (rxTarget e).toNat
  let put (ks : List Nat) (s : State) : Arrival :=
    let l := w.bytes.filterMap fun b => (ks[b.1 - w.offset]?).map fun k => (k, b.2)
    .answer .ack (rxCount e w.bytes.length (engineWrite 4 0 l (if w.poison then l.map (·.1) else []) s))
  if tagOf (rxTarget e) = 0 then
    match virtBytes (fun va => translate (rxCluster e) (rxJob e) va true) (t + w.offset) w.size s with
    | .ok ⟨.bytes ks, _, s⟩ => put ks s
    | _ => .answer .refuse s
  else
    let off := t % 2 ^ 18 + w.offset
    if 0x40000 < off + w.size then .answer .refuse s
    else put (keysFrom (localKey (siteInCluster (rxCluster e) (t / 2 ^ 18 % 8) (t / 2 ^ 21 % 16)) off) w.size) s

/-- R287: the kind of the entry that a write at this offset pushes. -/
def rxKindAt (off : Nat) : Option QKind :=
  match off with
  | 0x000 => some .data
  | 0x100 => some .bell
  | 0x200 => some .shutter
  | 0x300 => some .stop
  | _ => none

/-- R287: the link steward of the receiving device's die 0 reports a write of another size or offset to the sender, with
class ACCESS. The manual gives the report no form: it travels as a message that names the path (log entry 73). -/
def reportBadWrite (w : RWrite) (s : State) : State := emit (.report w.from_ w.path w.seq 1) s

/-- R287: a write at a queue target pushes one entry; a full queue holds the write at the gateway. A write of fewer
bytes than the entry is a write of another size. -/
def rxQueue (w : RWrite) (e : BitVec 256) (s : State) : Arrival :=
  let h := (rxTarget e).extractLsb' 0 32
  let q := getQueue s (qkeyOf h)
  let by_ : Pusher := .path w.from_ w.path
  match handleFail s (rxJob e) h, rxKindAt w.offset with
  | some _, _ => .answer .refuse s
  | none, none => .answer .refuse (reportBadWrite w s)
  | none, some kind =>
    if w.size ≠ entryBytes q ∨ w.bytes.length ≠ w.size then .answer .refuse (reportBadWrite w s)
    else
      let r := pushReady s (qkeyOf h) kind by_ 0
      if r.1 then
        let n := q.tail
        let s := push (qkeyOf h) kind (w.bytes.map (·.2)) by_ 0 r.2
        let s := if w.poison ∧ inRing q n then poisonKeys (ringKeys q n) s else s
        .answer .ack (tryEdge (bkey q.job q.cbooth) (rxCount e w.bytes.length s))
      else .hold r.2

/-- R329: what the receive entry makes of a store that is due. -/
def rxPerform (w : RWrite) (s : State) : Arrival :=
  let e := rxEntry s w.rxwin
  if !rxAccepts s w e then .answer .refuse s
  else if rxKind e = 1 then rxQueue w e s
  else rxMemory w e s

/-! ### Sequences at the receiver (R330, R331) -/

/-- R314, R330: the state of a path at this receiver; a path that it does not know has no epoch yet. A path leads to one receive
window at a time: where it opens at another, its state there begins anew (log entry 100). -/
def rpathGet (s : State) (k : RPath) : Option PathR := (s.pathR.find? (·.1 = k)).map (·.2)
def rpathSet (k : RPath) (v : PathR) (s : State) : State :=
  { s with pathR := (s.pathR.filter fun q => !(q.1.dev == k.dev && q.1.path == k.path)) ++ [(k, v)] }
/-- R314: the path of a store at its receiver. -/
def rpathOf (w : RWrite) : RPath := ⟨w.from_, w.path, w.rxwin⟩

/-- R330: an answer leaves for the sender. -/
def rxAnswer (w : RWrite) (a : RAnswer) (s : State) : State :=
  if w.from_ = s.device then enqueue (.reflectionAck w.path w.epoch w.seq a none) s
  else emit (.answer w.from_ w.path w.epoch w.seq a) s

/-- R330: a request for retransmission from the expected sequence. -/
def rxResend (w : RWrite) (n : Nat) (s : State) : State :=
  if w.from_ = s.device then enqueue (.retransmitRequest w.path n) s else emit (.resend w.from_ w.path n) s

/-- R331: does the gateway hold a store of the path's earlier epoch? -/
def rxHolds (s : State) (w : RWrite) (r : PathR) : Bool :=
  s.internal.any fun i => match i with
    | .reflectedWriteArrival v => rpathOf v == rpathOf w && v.epoch == r.epoch && v.seq == r.expected
    | _ => false

/-- R330, R331: the path as the receiver sees it when the store arrives: an open flag starts the next epoch. None for a
store of a closed epoch. -/
def rxEpoch (s : State) (w : RWrite) : Option PathR :=
  match rpathGet s (rpathOf w) with
  | none => if w.open_ then some ⟨0, w.epoch, []⟩ else none
  | some r =>
    if w.epoch = r.epoch then some r
    else if w.open_ ∧ w.epoch = (r.epoch + 1) % 256 then some ⟨0, w.epoch, []⟩
    else none

/-- REFLECTED_WRITE_ARRIVAL (R330): the expected store is performed, refused, or held; a duplicate is answered again; a
later one asks for retransmission; one of a closed epoch is dropped. A held store is looked at again. -/
def execReflectedWriteArrival (w : RWrite) (s : State) : Res :=
  match rxEpoch s w with
  | none => .next s
  | some r =>
    let old := rpathGet s (rpathOf w)
    if (match old with | some o => o.epoch != w.epoch && rxHolds s w o | none => false) then
      .next (enqueue (.reflectedWriteArrival w) s)
    else if w.seq < r.expected then
      .next (rxAnswer w (if r.refused.contains w.seq then .refuse else .ack) s)
    else if r.expected < w.seq then .next (rxResend w r.expected (rpathSet (rpathOf w) r s))
    else match rxPerform w s with
      | .hold s => .next (enqueue (.reflectedWriteArrival w) (rpathSet (rpathOf w) r s))
      | .answer a s =>
        let refused := match a with | .refuse => w.seq :: r.refused | .ack => r.refused
        .next (rxAnswer w a (rpathSet (rpathOf w) ⟨w.seq + 1, r.epoch, refused⟩ s))

/-! ### The sender (R330 to R334) -/

/-- R334: CAP and BASE of a peer after a sample, times in ns. -/
def peerSample (t : Nat) (p : Peer) : Peer :=
  let base := p.base.getD t
  let cap :=
    if t ≤ base + 2000 then min (4 * 2 ^ 20) (p.cap + 16 * 2 ^ 10)
    else if base + 8000 < t then max (16 * 2 ^ 10) (p.cap / 2)
    else p.cap
  { p with cap := cap, base := some (min base t) }

/-- R330: the receiving device of a path. -/
def pathDevice (s : State) (p : PathId) : Nat := txDevice (txEntry s p.win) p.branch

/-- R331: the stores that wait for a path to empty leave, the path opening again at sequence 2^48. -/
def sendQueued (p : PathId) (s : State) : State :=
  let v := pathGet s p
  if v.held = [] ∧ v.queued ≠ [] then
    v.queued.foldl (fun s w => sendOn (pathDevice s p) w.1 w.2 s) (pathSet p { v with queued := [] } s)
  else s

/-- REFLECTION_ACK (R330, R334): the store is free, a round-trip sample is taken, and what waited may go on. `rtt` is the
time that the gateway measured, by default the difference in DEVTIME. -/
def execReflectionAck (p : PathId) (epoch seq : Nat) (a : RAnswer) (rtt : Option Nat) (s : State) : Res :=
  let v := pathGet s p
  match v.held.find? fun h => h.w.seq == seq && h.w.epoch == epoch with
  | none => .next s
  | some h =>
    let dev := pathDevice s p
    let s := setStore h.id (match a with | .ack => 1 | .refuse => 2) s
    let s := modPeer dev (fun q => { q with out := q.out - h.w.size }) s
    let s := match (getPeer s dev).timing with
      | some (q, ep, n, t) => if q = p ∧ ep = epoch ∧ n = seq then
          modPeer dev (fun x => { peerSample (rtt.getD (s.devtime.toNat - t)) x with timing := none }) s else s
      | none => s
    let s := pathSet p { v with held := v.held.filter fun h => !(h.w.seq == seq && h.w.epoch == epoch) } s
    .next (wakeWindows (sendQueued p s))

/-- RETRANSMIT_REQUEST (R330): the held stores from the expected sequence on leave again. -/
def execRetransmitRequest (p : PathId) (expected : Nat) (s : State) : Res :=
  let v := pathGet s p
  let now := s.devtime.toNat
  let s := pathSet p { v with held := v.held.map fun h => if expected ≤ h.w.seq then { h with sent := now } else h } s
  .next (v.held.foldl (fun s h => if expected ≤ h.w.seq then transmit (pathDevice s p) h.w s else s) s)

/-- R332: a path closes: what is sent and unacknowledged, and what is queued behind it, is INDETERMINATE. -/
def closePath (p : PathId) (s : State) : State :=
  let v := pathGet s p
  let dev := pathDevice s p
  let s := v.held.foldl (fun s h => modPeer dev (fun q => { q with out := q.out - h.w.size }) (setStore h.id 3 s)) s
  let s := v.queued.foldl (fun s h => setStore h.2 3 s) s
  let s := modPeer dev (fun q => { q with timing := if q.timing.any (·.1 == p) then none else q.timing }) s
  wakeWindows (pathSet p { v with held := [], queued := [], closed := true } s)

/-- R330: is a held store due for retransmission at DEVTIME `now`, 4 × BASE after it last left? Without a sample of its peer
there is no BASE, and the timer of the event decides alone (log entry 74). -/
def overdue (base : Option Nat) (now : Nat) (h : HeldStore) : Bool :=
  match base with
  | some b => decide (h.sent + 4 * b ≤ now)
  | none => true

/-- RETRANSMIT_TIMEOUT (R330, R332): every store of the path that has gone 4 × BASE unacknowledged leaves again; one that has
done so 8 times closes the path. -/
def execRetransmitTimeout (p : PathId) (s : State) : Res :=
  let v := pathGet s p
  let dev := pathDevice s p
  let now := s.devtime.toNat
  let due := overdue (getPeer s dev).base now
  if v.held.any fun h => due h && decide (8 ≤ h.n) then .next (closePath p s)
  else
    let s := pathSet p { v with held := v.held.map fun h => if due h then { h with n := h.n + 1, sent := now } else h } s
    .next (v.held.foldl (fun s h => if due h then transmit dev h.w s else s) s)

/-- R9: the die and the gateway of the die to which a Spahe link attaches. -/
def linkDie (link : Nat) : Nat := link / 6
def linkGateway (link : Nat) : Nat := link % 6

/-- SPAHE_LINK_DOWN (R9, R332): of the paths routed over the link, those with a store sent and unacknowledged close; the link
steward reroutes the others, and BASE of their peers starts anew (R334). The link steward has assigned the routes, so
`paths` names them; a link that the device does not have carries none. -/
def execSpaheLinkDown (link : Nat) (paths : List PathId) (s : State) : Res :=
  if 4 ≤ linkDie link then .next s
  else .next (paths.foldl (fun s p =>
    let s := modPeer (pathDevice s p) (fun q => { q with base := none }) s
    if (pathGet s p).held = [] then s else closePath p s) s)

/-- R327, R409: the entry of a transmit window of `job` with these receivers (device, receive window, LIMIT); SIZE is the
least LIMIT. -/
def txImage (job : BitVec 16) (peers : List (Nat × Nat × Nat)) : BitVec 640 :=
  let size := (peers.map (·.2.2)).foldl min (2 ^ 44 - 1)
  let n := peers.length
  let head := 1 + (if 1 < n then 2 + 4 * (n - 1) else 0) + 2 ^ 16 * job.toNat + 2 ^ 32 * size
  BitVec.ofNat 640 ((peers.zipIdx.map fun p => (p.1.1 + 2 ^ 16 * p.1.2.1 + 2 ^ 28) * 2 ^ (128 + 32 * p.2)).foldl (· + ·) head)

/-- R410: is this receiver valid? One on this device is seen in its window table; the link stewards know the others. -/
def peerValid (s : State) (job : BitVec 16) (p : Nat × Nat × Nat) : Bool :=
  s.domain.contains p.1 && decide (p.2.1 < 4096) && decide (0 < p.2.2) && decide (p.2.2 < 2 ^ 44) &&
  (p.1 != s.device ||
    (let e := rxEntry s p.2.1
     rxValid e && rxLimit e == p.2.2 && (getJob s (rxJob e)).seed == (getJob s job).seed))

/-- R409: the link steward of this device reports a receiver that will never be valid to the job's host. -/
def reportWindow (job : BitVec 16) (s : State) : State :=
  hostPost job (mkEntry s 11 4 (stewardUnit s 0 2) 0 (getJob s job).tag (Config.refusedAddr 1) (Config.requestAux 1)) s

/-- PENDING_WINDOW_VALID (R409, R410): the receivers of a pending transmit window are known. When every one is valid the
window becomes valid, and the stores that wait at it go on; `none` says that a receiving booth has been accepted without
the window named. -/
def execPendingWindowValid (w : Nat) (peers : Option (List (Nat × Nat × Nat))) (s : State) : Res :=
  match s.pendWin.find? (·.1 == w) with
  | none => .next s
  | some (_, rs) =>
    let job := txJob (txEntry s w)
    (match peers with
      | none => .next (reportWindow job s)
      | some ps =>
        if ps.length = rs.length ∧ ps.all (peerValid s job) then .next (wakeWindows (mapTx w (txImage job ps) s))
        else .next s)

end Sys2Proof.Machine
end

