-- ==== Sys2Proof/Machine/HostPorts.lean ====
section
/-!
DEFINITION. The host ports as the host and the links drive them: BAR0 (R380), the semaphore (R381), host queues (R281,
R282, R382), host completion queues (R283, R383, R385, R387) and the links (R162, R387).
-/

namespace Sys2Proof.Machine

/-- R9: host port 0 attaches to die 0 and host port 1 to die 3. -/
def portDie (p : Nat) : Nat := if p = 0 then 0 else 3

/-- R380, R381: a refused request is dropped and logged as an ACCESS record. -/
def refuseLog (die unit req : Nat) (job : BitVec 16) (s : State) : State :=
  logTo die [mkLog s 0x0F 1 job 0 unit die (Config.recordAddr 0x0F req) (Config.requestKind req) 0] s
/-- R278: the unit id of a host port. -/
def portUnit (p : Nat) : Nat := 0x4F8 + p

/-! ### The semaphore (R381) -/

/-- R381: the value of the owner field that names a port. -/
def portOwner (p : Nat) : BitVec 2 := BitVec.ofNat 2 (p + 1)
def holdsSema (s : State) (p : Nat) : Bool := s.sema == portOwner p

/-- R381: a port whose link goes down or which is reset loses the semaphore. -/
def loseSema (p : Nat) (s : State) : State :=
  if holdsSema s p then refuseLog (portDie p) (portUnit p) 0x10 0 (freeSema s) else s

/-- R380: a write marked S takes effect only while the writing port holds the semaphore. -/
def hostWrite (p off : Nat) (f : State → State) (s : State) : State :=
  if holdsSema s p then f s else refuseLog (portDie p) (portUnit p) off 0 s

/-- R381: a host read of HSEMA, which takes the semaphore where it is free. -/
def semaRead (p : Nat) (s : State) : State :=
  let s' := emit (.read p (s.sema.zeroExtend 64)) s
  if s.sema = 0 then { s' with sema := portOwner p } else s'
/-- HSEMA_READ (R381). -/
def execHsemaRead (p : Nat) (s : State) : Res := .next (semaRead p s)

/-- HSEMA_WRITE (R381). -/
def execHsemaWrite (p : Nat) (v : Word) (s : State) : Res :=
  .next (if v = 0 ∧ holdsSema s p then freeSema s else s)

/-! ### Host queues (R281, R282, R382) -/

/-- R382: the host address of the entry at the queue's position, and R281: the tag that it must carry. -/
def hqAddr (q : HostQueue) : Nat := q.base.toNat + 64 * (q.pos % 2 ^ q.logsize)
def hqTag (q : HostQueue) : Nat := q.pos % 255 + 1

/-- R278, R382: the unit id of the serving carter, carter 1 of the yard that holds logical tile 4 of the port's die. -/
def hqUnit (s : State) (p : Nat) : Nat :=
  let die := portDie p
  let site := ((List.range 1024).find? fun i =>
    isGood s (1024 * die + i) && (getTile s (1024 * die + i)).logical == 4).getD 0
  0x440 + 2 * (yardOf (1024 * die + site) % 64) + 1

/-- R282: the entry is stale: STALE is posted to host completion queue `q` of the port (R385), and the carter stops. -/
def hqStale (p q : Nat) (s : State) : State :=
  let h := getHq s p q
  let en := mkEntry s 9 3 (hqUnit s p) (portDie p) (BitVec.ofNat 32 (hqTag h)) (BitVec.ofNat 64 (hqAddr h))
    (BitVec.ofNat 64 h.accepted)
  hcqPut p q en (modHq p q (fun h => { h with kick := h.pos }) s)

/-- The position advances. -/
def hqAccept (p q : Nat) (s : State) : State :=
  modHq p q (fun h => { h with pos := h.pos + 1, rereads := 0, accepted := h.accepted + 1 }) s

/-- R384: the request that 64 bytes hold; reserved bits are bits 13 to 15 and 256 to 503. -/
def parseReq (p : Nat) (e : BitVec 512) : HostReq where
  port := p
  op := e.extractLsb' 0 8
  hcq := fld e 8 4
  hport := fld e 12 1
  job := e.extractLsb' 16 16
  tag := e.extractLsb' 32 32
  arg0 := e.extractLsb' 64 64
  arg1 := e.extractLsb' 128 64
  arg2 := e.extractLsb' 192 64
  rsv := fld e 13 3 != 0 || fld e 256 248 != 0

/-- R384: the host queue to which an OP belongs, none if it is listed for no queue. -/
def opQueue (op : BitVec 8) : Option Nat :=
  match op.toNat with
  | 0x01 | 0x02 | 0x08 | 0x09 => some 0
  | 0x03 | 0x04 | 0x05 => some 1
  | 0x06 => some 2
  | 0x07 | 0x0A => some 3
  | _ => none

/-- R384: a request that completes with FORMAT whatever the stewards hold: an OP of another queue, a reserved bit, or a
JOB where none belongs. -/
def reqBad (q : Nat) (r : HostReq) : Bool :=
  opQueue r.op != some q || r.rsv ||
  ([0x01#8, 0x07#8, 0x08#8, 0x0A#8].contains r.op && r.job != 0) ||
  (r.op == 0x07#8 && fld r.arg1 34 30 != 0) || (r.op == 0x0A#8 && fld r.arg0 2 62 != 0) ||
  (r.op == 0x09#8 && fld r.arg2 32 32 != 0)

/-- R28: the die and logical tile of the steward behind a host queue of a port. -/
def reqUnit (s : State) (q p : Nat) : Nat × Nat :=
  match q with
  | 0 => (0, stewardUnit s 0 4)
  | 1 => (0, stewardUnit s 0 1)
  | 2 => (0, stewardUnit s 0 0)
  | _ => (portDie p, stewardUnit s (portDie p) 3)

/-- R384: the completion of a request. That of a start goes to the other port while the link of its port is down (R385). -/
def complete (r : HostReq) (cls : Nat) (addr aux : Word) (s : State) : State :=
  let u := reqUnit s ((opQueue r.op).getD 3) r.port
  hcqPut (if r.op = 0x01 then reportPort s r.hport else r.hport) r.hcq (mkEntry s cls 4 u.2 u.1 r.tag addr aux) s
def completeOk (r : HostReq) (addr : Word) (s : State) : State := complete r 0 addr (Config.requestAux r.op) s
def completeFail (r : HostReq) (cls : Nat) (s : State) : State :=
  complete r cls (Config.refusedAddr r.op) (Config.requestAux r.op) s

/-- Do two requests go to one steward? Queues 0 to 2 of both ports do, and queue 3 goes to the scribe of its port's die
(R382). -/
def sameSteward (q : Nat) (r : HostReq) (t : Nat × HostReq) : Bool := t.1 == q && (q != 3 || t.2.port == r.port)

/-- R31: a steward serves its requests in order; is this the one that it has reached? -/
def isServed (q : Nat) (r : HostReq) (s : State) : Bool :=
  r.port == 2 || (s.requests.find? (sameSteward q r)) == some (q, r)

/-- The events that carry out requests which need no choice of a steward; the others come from outside (log entry 10). -/
def reqEvent (r : HostReq) : Option Instr :=
  match r.op.toNat with
  | 0x02 => some (.killJob r)
  | 0x03 => some (.urgentFreeze r)
  | 0x04 => some (.resumeJobs r)
  | 0x05 => some (.checkpoint r)
  | 0x06 => some (.grantHostQueue r)
  | 0x07 => some (.readLog r)
  | 0x08 => some (.stageFirmware r)
  | 0x0A => some (.readLogCount r)
  | _ => none

/-- R283: does the steward behind a request stall at a host completion queue? -/
def stewardHeld (s : State) (q : Nat) (r : HostReq) : Bool := unitHeld s 4 (reqUnit s q r.port).2 (reqUnit s q r.port).1

/-- The steward turns to the first of its requests, unless it stalls: a malformed one completes, for another its event is
due. -/
def serveNext : Nat → Nat → HostReq → State → State
  | 0, _, _, s => s
  | n + 1, q, r, s =>
    match s.requests.find? (sameSteward q r) with
    | none => s
    | some (_, t) =>
      if stewardHeld s q t then s
      else if reqBad q t then serveNext n q r (completeFail t 11 { s with requests := s.requests.erase (q, t) })
      else match reqEvent t with
        | some i => enqueueOnce i s
        | none => s

/-- A request has been carried out; the steward turns to the next. -/
def endReq (q : Nat) (r : HostReq) (s : State) : State :=
  if r.port = 2 then s else serveNext s.requests.length q r { s with requests := s.requests.erase (q, r) }

/-- R382, R384: an accepted entry of queues 0 to 3 reaches its steward. -/
def deliverReq (q : Nat) (r : HostReq) (s : State) : State :=
  let first := (s.requests.find? (sameSteward q r)).isNone
  let s := { s with requests := s.requests ++ [(q, r)] }
  if first then serveNext s.requests.length q r s else s

/-- R282: pushes an entry of host queue `q` of a port into its target; false while the target does not take it, in the state
that this may have held (R276). -/
def hqPush (p q : Nat) (h : BitVec 32) (bs : List Byte) (s : State) : Bool × State :=
  let qk := qkeyOf h
  if (handleFail s (getQueue s qk).job h).isSome then (false, s)
  else
    let r := pushReady s qk .data (.host p q) 0
    if r.1 then (true, push qk .data bs (.host p q) 0 r.2) else r

/-- R282: the carter reads one entry. True when it goes on to the next. -/
def hqEntry (p q : Nat) (s : State) : Bool × State :=
  let h := getHq s p q
  let bs := readKeys s (keysFrom (hostKey (hqAddr h)) 64)
  if (bs.getD 63 0).toNat ≠ hqTag h then
    if h.rereads < 64 then
      (false, enqueueOnce (.hostEntryReread p q)
        (modHq p q (fun h => { h with rereads := h.rereads + 1, since := s.devtime.toNat }) s))
    else (false, hqStale p q s)
  else
    let bs := bs.take 63 ++ [0]
    if q < 4 then (true, deliverReq q (parseReq p (BitVec.ofNat 512 (bytesNat bs))) (hqAccept p q s))
    else
      let r := hqPush p q h.target bs s
      if r.1 then (true, hqAccept p q r.2) else r

/-- R282: the carter reads entries up to the kicked position. -/
def hqServe (p q : Nat) : Nat → State → State
  | 0, s => s
  | n + 1, s =>
    let r := hqEntry p q s
    if r.1 then hqServe p q n r.2 else r.2

/-- Can the carter serve the queue? Not while it stalls at a host completion queue (R283). -/
def hqLive (s : State) (p q : Nat) : Bool :=
  (getPort s p).up && (getHq s p q).en && !unitHeld s 3 (hqUnit s p) (portDie p)

/-- HQKICK (R282, R382): a kick to a position behind the expected one is ignored. -/
def execHqkick (p q : Nat) (pos : BitVec 32) (s : State) : Res :=
  let at' := (getHq s p q).pos
  let n := (pos - BitVec.ofNat 32 at').toNat
  if !((getPort s p).up && (getHq s p q).en) ∨ 2 ^ 31 ≤ n then .next s
  else
    let s := modHq p q (fun h => { h with kick := at' + n, rereads := 0, accepted := 0 }) s
    .next (if hqLive s p q then hqServe p q n s else s)

/-- HOST_ENTRY_REREAD (R282): the entry is read again at least 128 ns after the last read, or pushed again where the
target had no room. -/
def execHostEntryReread (p q : Nat) (s : State) : Res :=
  let h := getHq s p q
  if !hqLive s p q ∨ h.kick = h.pos then .next s
  else if h.rereads ≠ 0 ∧ s.devtime.toNat < h.since + 128 then .next (enqueueOnce (.hostEntryReread p q) s)
  else .next (hqServe p q (h.kick - h.pos) s)

/-! ### Host completion queues (R283, R383, R385) -/

/-- R283, R385: units whose entries are no longer held go on: the stewards with their requests and the booths that wait for
the loader, the carters with their commands and queues. -/
def wakeWriters (s : State) : State :=
  let s := s.requests.foldl (fun s t => serveNext s.requests.length t.1 t.2 s) s
  let s := (s.booths.filter fun b => b.2.halted).foldl (fun s b => installVersion b.1 s) s
  let s := { s with internal := s.internal ++ (s.carters.filter fun c => c.2.queue != []).flatMap fun c =>
    [Instr.carterChunk c.1, Instr.carterCommandComplete c.1] }
  [0, 1].foldl (fun s p => ((getPort s p).hqs.filter fun q => q.2.en && q.2.pos != q.2.kick).foldl (fun s q =>
    enqueueOnce (.hostEntryReread p q.1) s) s) s

/-- R283: the entries that the queue holds are written as far as the host has released places. -/
def flushHeld (p m : Nat) (s : State) : State :=
  let es := (getHcq s p m).held
  if es = [] then s
  else wakeWriters (es.foldl (fun s e => hcqPut p m e s) (modHcq p m (fun q => { q with held := [] }) s))

/-- HCREL (R383): a write that moves HCREL backward is ignored. -/
def execHcrel (p m : Nat) (v : BitVec 32) (s : State) : Res :=
  if (v - (getHcq s p m).rel).toNat < 2 ^ 31 then .next (flushHeld p m (modHcq p m (fun q => { q with rel := v }) s))
  else .next s

/-- R383: a write of HCCTL; a LOGSIZE outside 4 to 16 leaves EN clear. -/
def writeHcctl (p m : Nat) (v : Word) (s : State) : State :=
  let lg := fld v 0 5
  flushHeld p m (modHcq p m (fun q =>
    { q with
      logsize := lg
      en := v.getLsbD 8 && decide (4 ≤ lg) && decide (lg ≤ 16)
      vector := fld v 9 6
      ien := v.getLsbD 15
      lost := false }) s)

/-- COMPLETION_HOLD_TIMEOUT (R385, R387): an entry held for 1 s at a queue that is not enabled, or whose port lost its
link, is dropped and logged, and the entries behind it go on. -/
def execCompletionHoldTimeout (p m : Nat) (s : State) : Res :=
  let q := getHcq s p m
  match q.held with
  | [] => .next s
  | e :: r =>
    if ((getPort s p).up ∧ q.en) ∨ (s.devtime - e.extractLsb' 128 64).toNat < 10 ^ 9 then .next s
    else
      let die := portDie p
      let cls := if q.lost ∨ !(getPort s p).up then 6 else 1
      let data : BitVec 192 := e.extractLsb' 128 128 ++ e.extractLsb' 0 64
      .next (wakeWriters (logTo die [mkLog s 0x06 cls 0 0 (portUnit p) die (e.extractLsb' 64 64) (Config.hostQueueHandle p m) data]
        (modHcq p m (fun q => { q with held := r }) s)))

/-- R382, R384: may a handle be the target of queues 4 to 15? -/
def targetOkHost (s : State) (h : BitVec 32) : Bool :=
  (s.jobs.any fun j => j.2.hostq.contains h) && entryBytes (getQueue s (qkeyOf h)) == 64

/-- R382: may the queue be enabled? Queues 0 to 3 are once their die's stewards are ready (R389). -/
def mayEnable (s : State) (p q lg : Nat) (target : BitVec 32) : Bool :=
  decide (4 ≤ lg) && decide (lg ≤ 16) &&
  (if q < 4 then (getDie s 0).phase == .ready && (getDie s (portDie p)).phase == .ready else targetOkHost s target)

/-- HQCTL_WRITE (R382): while EN is set only its clearing takes effect; setting it restarts at position 0. -/
def execHqctlWrite (p q : Nat) (v : Word) (s : State) : Res :=
  let h := getHq s p q
  if h.en then .next (if v.getLsbD 8 then s else modHq p q (fun h => { h with en := false }) s)
  else
    let lg := fld v 0 5
    let target := if q < 4 then h.target else v.extractLsb' 32 32
    let on := v.getLsbD 8 && mayEnable s p q lg target
    .next (modHq p q (fun h =>
      let h := { h with logsize := lg, target := target, en := on }
      if on then { h with pos := 0, kick := 0, rereads := 0, accepted := 0 } else h) s)

/-! ### Other registers (R380) -/

/-- R380: POWERCAP: 0 means 2,400 W, and a value above it reads back as 2,400. -/
def writePowercap (v : Word) (s : State) : State := { s with powercap := BitVec.ofNat 12 (min (fld v 0 12) 2400) }

/-- R382, R383: HQBASE and HCBASE are 4 KiB aligned; HQBASE is not written while EN is set. -/
def pageAligned (v : Word) : Word := v &&& ~~~(0xFFF : Word)
def writeHqbase (p q : Nat) (v : Word) (s : State) : State :=
  if (getHq s p q).en then s else modHq p q (fun h => { h with base := pageAligned v }) s

/-- R380: a word of the MSI-X table is written; a vector that it unmasks is sent if it is pending. -/
def writeMsix (p i : Nat) (v : Word) (s : State) : State :=
  let s := modPort p (fun t => { t with msix := tset t.msix i v }) s
  let n := i / 2
  if !msixMasked (getPort s p) n ∧ (getPort s p).pba.getLsbD n then
    emit (.msix p n) (modPort p (fun t => { t with pba := t.pba &&& ~~~((1 : Word) <<< n) }) s)
  else s


/-- DEVCTL_FWACT (R380, R388). -/
def execDevctlFwact (p : Nat) (s : State) : Res := .next (hostWrite p 0x18 (fun s => { s with fwact := true }) s)

/-- R380: PHASE of BOOTSTAT. -/
def phaseCode : Phase → Nat
  | .reset => 0 | .verify => 1 | .flood => 2 | .stewards => 3 | .ready => 4 | .failed => 5
def bootPhase (s : State) : Nat :=
  let ps := s.dies.toList.map fun d => phaseCode d.phase
  if ps.contains 5 then 5 else ps.foldl min 4
/-- R380: BOOTSTAT. -/
def bootstat (s : State) : Word :=
  let ds := s.dies.toList
  let fail := ((ds.find? fun d => d.phase == .failed).map (·.fail)).getD 0
  BitVec.ofNat 64 (bootPhase s + 2 ^ 8 * fail + 2 ^ 16 * (getDie s 0).nd + 2 ^ 27 * (getDie s 1).nd +
    2 ^ 38 * (getDie s 2).nd + 2 ^ 49 * (getDie s 3).nd)

/-- R382, R383: the control words as they read. -/
def hqctl (h : HostQueue) : Word := h.target ++ BitVec.ofNat 32 (h.logsize + 2 ^ 8 * b2n h.en)
def hcctl (q : HostCq) : Word := BitVec.ofNat 64 (q.logsize + 2 ^ 8 * b2n q.en + 2 ^ 9 * q.vector + 2 ^ 15 * b2n q.ien)

/-- R380: a host read of BAR0, but for HSEMA. -/
def barValue (p off : Nat) (s : State) : Word :=
  if off = 0 then BitVec.ofNat 64 (0x0940 + 2 ^ 16 * Config.siliconRevision.toNat)
  else if off = 8 then bootstat s
  else if off = 0x20 then
    BitVec.ofNat 64 (p + 2 * b2n (getPort s (1 - p)).up + 2 ^ 4 * (Config.portTraining p).toNat)
  else if off = 0x40 then s.powercap.zeroExtend 64
  else if off = 0x48 then (Config.powerNow s.fresh).zeroExtend 64
  else if 0x10000 ≤ off ∧ off < 0x10400 then
    let h := getHq s p ((off - 0x10000) / 0x40)
    match off % 0x40 with
    | 0x00 => h.base
    | 0x08 => hqctl h
    | 0x18 => (BitVec.ofNat 32 h.pos).zeroExtend 64
    | _ => 0
  else if 0x20000 ≤ off ∧ off < 0x20400 then
    let q := getHcq s p ((off - 0x20000) / 0x40)
    match off % 0x40 with
    | 0x00 => q.base
    | 0x08 => hcctl q
    | 0x10 => q.rel.zeroExtend 64
    | 0x18 => (BitVec.ofNat 32 q.pos).zeroExtend 64
    | _ => 0
  else if 0x30000 ≤ off ∧ off < 0x30400 ∧ off % 8 = 0 then msixWord (getPort s p) ((off - 0x30000) / 8)
  else if off = 0x31000 then (getPort s p).pba
  else 0

/-- R380, R381: the answer to a host read. -/
def barRead (p off : Nat) (s : State) : State :=
  if off = 0x10 then semaRead p s else { emit (.read p (barValue p off s)) s with fresh := s.fresh + 1 }

/-! ### The links (R162, R387) -/

/-- R173: kind HOSTERR: what waits because neither port is up. -/
def hostStrands (s : State) : List SRef :=
  s.strands.filterMap fun p => match p.2.run, p.2.wait with
    | .paged, some ⟨.page _ 5, _, _, _⟩ => some (srefOf p.1)
    | _, _ => none
def hostEngines (s : State) : List Engine :=
  (s.carters.filterMap fun p => if p.2.stalled ∧ p.2.skind = 5 then some (Engine.carter p.1) else none) ++
  s.looms.flatMap fun p => p.2.queues.filterMap fun q => match q.2 with
    | c :: _ => if c.stalled ∧ c.skind = 5 then some (Engine.loom p.1 q.1) else none
    | [] => none

/-- R162: the accesses that no link was up to perform: those handed off, and those in flight. -/
def hostReplies (s : State) : List Instr :=
  (s.pend.map fun p => .memoryReply p.e (some 0)) ++ s.strands.filterMap fun p => match p.2.flight with
    | some (.mem ..) | some (.held _) | some (.ctx _) => some (.memoryReply (srefOf p.1) none)
    | _ => none

/-- HOST_LINK_UP (R162): the pager answers REISSUE and RESUME to what waits, what was handed off is performed, and held
entries are written. -/
def execHostLinkUp (p : Nat) (s : State) : Res :=
  let s := modPort p (fun t => { t with up := true }) s
  let s := (hostStrands s).foldl (fun s e => enqueueOnce (.pagerReissue e) s) s
  let s := (hostEngines s).foldl (fun s e => enqueueOnce (.pagerResume e) s) s
  let s := { s with internal := s.internal ++ hostReplies s }
  .next (wakeWriters ((List.range 16).foldl (fun s m => flushHeld p m s) s))

/-- R387: the queues of a port stop at their positions, its EN bits clear, and it loses the semaphore. -/
def stopPort (p : Nat) (s : State) : State :=
  loseSema p (modPort p (fun t =>
    { t with
      hqs := t.hqs.map fun q => (q.1, { q.2 with en := false })
      hcqs := t.hcqs.map fun q => (q.1, { q.2 with en := false, lost := true }) }) s)

/-- HOST_LINK_DOWN (R387). -/
def execHostLinkDown (p : Nat) (s : State) : Res := .next (modPort p (fun t => { t with up := false }) (stopPort p s))

/-- FUNCTION_LEVEL_RESET (R387). -/
def execFunctionLevelReset (p : Nat) (s : State) : Res := .next (stopPort p s)

/-- HOST_ACCESS_TIMEOUT (R162): no link has come up within 1 s; strands get SEG, engines ABORT, and the scribe logs the
address. -/
def execHostAccessTimeout (s : State) : Res :=
  if !hostDown s then .next s
  else
    let s' := (hostStrands s).foldl (fun s e =>
      let va := match (getStrand s (skey e)).wait with
        | some ⟨.page va _, _, _, _⟩ => va
        | _ => 0
      let t := getTile s e.site
      enqueueOnce (.pagerDeliver e .seg)
        (pagerLog (dieOf e.site) t.logical t.job (endpoint s e) (BitVec.ofNat 64 va) 0xFF s)) s
    .next ((hostEngines s').foldl (fun s e =>
      let x := (engineStall s e).getD (0, 0, 0, 0)
      let u := engineUnit e
      enqueueOnce (.pagerAbort e) (pagerLog u.1 u.2 x.2.1 0 (BitVec.ofNat 64 x.2.2.1) 0xFF s)) s')

/-! ### Host memory (R173, R202) -/

/-- R202: a host port writes bytes of host memory. -/
def hostStore (p addr : Nat) (bs : List Byte) (s : State) : State :=
  let ks := (List.range bs.length).map fun i => hostKey (addr + i)
  if (getPort s p).up then noteOlds 5 0 none ks s (writeBytes (ks.zip bs) s) else s

/-- R171, R173: a host port reports a completion error for the access that strand `e` has in flight. -/
def hostErrorOf (e : SRef) (s : State) : State :=
  match (getStrand s (skey e)).flight with
  | some (.mem i lanes _ _) =>
    if lanes.any fun l => l.keys.any isHostPa then goPaged i (hostLane lanes) 5 (!isLoad i) (asStrand e s) else s
  | _ => s

/-- R173, R175: a host port reports a completion error for an access of the running command of a loom or carter, to the page
of `va`: the engine stalls. -/
def engineErrorAt (e : Engine) (va : Nat) (s : State) : State :=
  let onHost (cluster : Nat) (job : BitVec 16) : Bool := match translate cluster job va false s with
    | .ok x => isHostPa (leafPa x.leaf x.lg va)
    | .error _ => false
  match e with
  | .loom y t =>
    (match tget [] (getLoom s y).queues t with
      | c :: r =>
        if c.started ∧ !c.stalled ∧ onHost (y / 8) c.job then
          match loomErrorAt y c va s with
          | .more c s => modLoom y (fun l => { l with queues := tset l.queues t (c :: r) }) s
          | _ => s
        else s
      | [] => s)
  | .carter n =>
    let q := getCarter s n
    (match q.queue with
      | c :: _ =>
        if q.started ∧ !q.stalled ∧ q.cls.isNone ∧ onHost (n / 16) c.job then
          match carterStall n va 5 false s with
          | .go s | .wait s => s
          | .hole => s
        else s
      | [] => s)

/-! ### Soft errors (R178, R358) -/

/-- R358: one count of a die advances and saturates; counts 2 mem and 2 mem + 1 of memory `mem` of R368. -/
def countError (die n : Nat) (s : State) : State :=
  modDie die (fun d => { d with errs := tset d.errs n (min (tget 0 d.errs n + 1) (2 ^ 32 - 1)) }) s

/-- R278, R368: UNIT and ADDR of the record of a soft error: the tile and address of a local-store word, the loom of an
accumulator block, the physical address of a word of HBM or of its memory-side cache. -/
def errorPlace (s : State) (mem target : Nat) : Nat × Word :=
  match mem with
  | 0 => ((getTile s (keySite target)).logical, localAbs target)
  | 1 => (0x400 + target / 64 % 64, Config.recordAddr 0x09 target)
  | n => ((Config.recordUnit n).toNat, BitVec.ofNat 64 target)

/-- R178: a soft error. A corrected one changes no value; an uncorrectable word of a store is marked poisoned, and an
accumulator block with an uncorrectable cell is POISONED (`target` is 64 yard + block). -/
def softError (die mem : Nat) (corrected : Bool) (target : Nat) (s : State) : State :=
  let kind := if corrected then 0x08 else 0x09
  let at' := errorPlace s mem target
  let s := countError die (2 * mem + b2n (!corrected)) s
  let s := logTo die [mkLog s kind (if corrected then 0 else 5) 0 0 at'.1 die at'.2 (BitVec.ofNat 64 mem) 0] s
  if corrected then s
  else if mem = 1 then
    modLoom (target / 64) (fun l => { l with blocks := l.blocks.map fun b =>
      if b.1 = target % 64 ∧ b.2.st ≠ .empty then (b.1, { b.2 with st := .poisoned, fclass := 5 }) else b }) s
  else poisonKeys [target] s

/-- R358: the scribe of a die reads and clears the eight counts. -/
def readErrors (die : Nat) (s : State) : State :=
  emit (.counts die ((List.range 8).map fun n => tget 0 (getDie s die).errs n)) (modDie die (fun d => { d with errs := [] }) s)

/-! ### The watchdog period (R34) -/

/-- R34: the stewards set the watchdog period of a booth. -/
def setPeriod (job booth cycles : Nat) (s : State) : State :=
  let bk := 65536 * job + booth
  if (lookup s.booths bk).isSome then modBooth bk (fun b => { b with period := cycles }) s else s

end Sys2Proof.Machine
end

