-- ==== Sys2Proof/Machine/Image.lean ====
section
/-!
DEFINITION. Job descriptors and booth images (R386): their records, and the rules of R17, R78 to R81, R371, R397, R399 to
R402, R406 and R409 that a request must obey. A request that breaks one completes with FORMAT.
-/

namespace Sys2Proof.Machine

/-! ### Records (R386) -/

/-- One record of an image: TYPE and body. -/
structure Rec where
  type : Nat
  body : List Byte
  deriving DecidableEq, Repr

/-- A field of a body, its bits numbered from the first byte's bit 0; bytes past its end are zero. -/
def bfld (b : List Byte) (lo len : Nat) : Nat := bytesNat b / 2 ^ lo % 2 ^ len
/-- `len` bytes of a body from `off` on, filled with zeros. -/
def bslice (b : List Byte) (off len : Nat) : List Byte := fitBytes len (b.drop off)
/-- A name as its 48-byte field. -/
def nameAt (b : List Byte) (off : Nat) : List Byte := bslice b off 48

/-- R386: `n` records in front of a list of bytes, none when one overruns it or a head breaks its layout. -/
def parseRecs : Nat → List Byte → Option (List Rec)
  | 0, _ => some []
  | n + 1, bs =>
    let h := bs.take 16
    let len := bfld h 32 32
    let pad := (len + 15) / 16 * 16
    if bs.length < 16 + pad ∨ bfld h 8 24 ≠ 0 ∨ bfld h 64 64 ≠ 0 then none
    else match parseRecs n (bs.drop (16 + pad)) with
      | some r => some (⟨bfld h 0 8, (bs.drop 16).take len⟩ :: r)
      | none => none

/-- R386: the records of an image. -/
def parseImage (bs : List Byte) : Option (List Rec) :=
  let h := bs.take 64
  if bs.length < 64 ∨ bfld h 0 32 ≠ 1 ∨ bfld h 64 32 ≠ bs.length ∨ bfld h 96 416 ≠ 0 then none
  else parseRecs (bfld h 32 32) (bs.drop 64)

def ofType (t : Nat) (rs : List Rec) : List (List Byte) := (rs.filter (·.type == t)).map (·.body)

/-! ### BOOTH, TILE, STRAND, CTX (R78, R397, R406) -/

def boothBody (rs : List Rec) : List Byte := (ofType 1 rs).headD []
def boothName (rs : List Rec) : List Byte := nameAt (boothBody rs) 0
/-- R397: ROUTEMASK. -/
def boothMask (rs : List Rec) : Nat := if (boothBody rs).length = 64 then bfld (boothBody rs) 384 64 else 0

/-- R397: a mask has bits 8, 13, 14 and 15 only. -/
def maskOk (m : Nat) : Bool := m &&& 0xE100 == m

def boothOk (rs : List Rec) : Bool :=
  (ofType 1 rs).length == 1 && (decide ((boothBody rs).length ≤ 48) ||
    ((boothBody rs).length == 64 && bfld (boothBody rs) 448 64 == 0 && maskOk (boothMask rs)))

/-- R78: W, H and N of the booth; without a TILE record it takes one site. -/
def tileReq (rs : List Rec) : Nat × Nat × Nat :=
  match ofType 2 rs with
  | b :: _ => (bfld b 0 16, bfld b 16 16, bfld b 32 16)
  | [] => (1, 1, 0)

def tileOk (rs : List Rec) : Bool :=
  let (w, h, n) := tileReq rs
  decide ((ofType 2 rs).length ≤ 1) && (ofType 2 rs).all (fun b => bytesNat b < 2 ^ 48) &&
  ((decide (1 ≤ w) && decide (w ≤ 8) && decide (1 ≤ h) && decide (h ≤ 16) && n == 0) ||
    (w == 0 && h == 0 && decide (1 ≤ n) && decide (n ≤ 1024)))

/-- R386: the strands of a manifest: number, task mode, entry offset. -/
def strandRecs (rs : List Rec) : List (Nat × Bool × Nat) :=
  (ofType 3 rs).map fun b => (bfld b 0 3, bfld b 3 1 == 1, bfld b 4 18)

/-- R17, R78: a strand number is 0 to 6 and named once; an entry is an offset that a PC can hold. -/
def strandOk (rs : List Rec) : Bool :=
  (ofType 3 rs).all (fun b => bytesNat b < 2 ^ 22) &&
  (strandRecs rs).all (fun t => decide (t.1 < 7) && targetOk (BitVec.ofNat 64 t.2.2)) &&
  decide ((strandRecs rs).map (·.1)).Nodup

/-- R21, R77, R371: bytes of an image lie below the ranges reserved for the reserve strand and for the ready queue. -/
def clearOf (off n : Nat) : Bool := decide (off + n ≤ 0x3C000)

/-- R406: n and the offset of a context-slot request. -/
def ctxReq (rs : List Rec) : Option (Nat × Nat) :=
  match ofType 9 rs with
  | b :: _ => some (bfld b 0 8, bfld b 32 18)
  | [] => none

def ctxOk (rs : List Rec) : Bool :=
  decide ((ofType 9 rs).length ≤ 1) && (ofType 9 rs).all fun b =>
    let n := bfld b 0 8
    b.length == 16 && decide (1 ≤ n) && decide (n ≤ 64) && clearOf (bfld b 32 18) n &&
    bytesNat b == n + 2 ^ 32 * bfld b 32 18

/-! ### QUEUE (R79, R400) -/

/-- R386: a QUEUE record. -/
structure QRec where
  cap    : Nat
  esize  : Nat
  type   : Nat
  flow   : Nat
  prio   : Nat
  replay : Nat
  spill  : Nat
  bind   : Nat
  mask   : Nat
  marker : Nat
  out    : Bool
  name   : List Byte
  brs    : List (List Byte)
  deriving DecidableEq, Repr

def qrecOf (b : List Byte) : QRec where
  cap := bfld b 0 17
  esize := bfld b 17 2
  type := bfld b 19 4
  flow := bfld b 23 17
  prio := bfld b 40 2
  replay := bfld b 42 13
  spill := bfld b 55 32
  bind := bfld b 87 3
  mask := bfld b 90 8
  marker := bfld b 98 30
  out := bfld b 128 1 == 1
  name := nameAt b 32
  brs := (List.range (bfld b 129 4)).map fun k => nameAt b (80 + 48 * k)

/-- R386: the QUEUE and WINDOW records in order, each with its symbol number. -/
def symRecs (rs : List Rec) : List (Rec × Nat) := (rs.filter fun r => r.type == 4 || r.type == 5).zipIdx
def queueRecs (rs : List Rec) : List (QRec × Nat) :=
  ((symRecs rs).filter fun r => r.1.type == 4).map fun r => (qrecOf r.1.body, r.2)

def QRec.bytes (q : QRec) : Nat := 8 * 2 ^ q.esize
/-- R263: the slots of the ring, the bytes of ring and kind array, and what they take, rounded as R401 says. -/
def QRec.slots (q : QRec) : Nat := if q.spill = 0 then q.cap else min q.cap (65536 / q.bytes)
def QRec.ringSpan (q : QRec) : Nat := q.slots * q.bytes + (q.slots + 3) / 4
def QRec.ringBytes (q : QRec) : Nat := (q.ringSpan + 63) / 64 * 64

/-- R79, R386, R400: one QUEUE record by itself. -/
def QRec.ok (q : QRec) : Bool :=
  decide (1 ≤ q.cap) && decide (q.cap ≤ 65536) && decide (q.type < 10) && decide (1 ≤ q.flow) && decide (q.flow ≤ q.cap) &&
  decide (1 ≤ q.replay) && decide (q.replay ≤ 4096) && decide (q.bind ≤ 4) && decide (q.mask < 128) &&
  decide (q.brs.length ≤ 8) && (!q.out || decide (q.slots * q.bytes ≤ 65536)) &&
  (if q.out then (q.bind == 0 || decide (3 ≤ q.bind)) && (q.marker == 0 || q.marker == 0x3FFFFFFF)
    else decide (q.bind ≤ 2) && q.brs == [] && q.flow == q.cap && q.prio == 0 && q.replay == 4096 && q.spill == 0) &&
  (q.marker == 0x3FFFFFFF || decide (4 * q.marker ≤ 0x3FFF4))

def queueOk (rs : List Rec) : Bool :=
  (ofType 4 rs).all (fun b => bfld b 133 123 == 0 && decide (b.length = 80 + 48 * bfld b 129 4)) &&
  (queueRecs rs).all (·.1.ok)

/-! ### WINDOW (R80, R409) -/

/-- R386: a WINDOW record; `sym` is the target's symbol. -/
structure WRec where
  rx      : Bool
  name    : List Byte
  target  : Word
  sym     : Option Nat
  rights  : Nat
  ord     : Nat
  landing : Option Nat
  size    : Nat
  peers   : List (List Byte × List Byte)
  deriving DecidableEq, Repr

def wrecOf (b : List Byte) : WRec where
  rx := bfld b 0 1 == 1
  name := nameAt b 32
  target := BitVec.ofNat 64 (bfld b 64 64)
  sym := if bfld b 96 32 = 0xFFFFFFFF then some (bfld b 64 32) else none
  rights := bfld b 128 8
  ord := bfld b 136 2
  landing := if bfld b 138 22 = 0x3FFFFF then none else some (4 * bfld b 138 22)
  size := bfld b 160 44
  peers := (List.range (bfld b 1 8)).map fun k =>
    let w := nameAt b (128 + 96 * k)
    (nameAt b (80 + 96 * k), if w = nameAt [] 0 then nameAt b 32 else w)

def windowRecs (rs : List Rec) : List (WRec × Nat) :=
  ((symRecs rs).filter fun r => r.1.type == 5).map fun r => (wrecOf r.1.body, r.2)

/-- R80, R409: a transmit window has 1 to 16 receivers, a receive window none. -/
def windowOk (rs : List Rec) : Bool :=
  (ofType 5 rs).all fun b =>
    bfld b 9 55 == 0 && bfld b 204 52 == 0 && decide (bfld b 1 8 ≤ 16) && decide (b.length = 80 + 96 * bfld b 1 8) &&
    (if bfld b 0 1 = 1 then bfld b 1 8 == 0 else decide (1 ≤ bfld b 1 8))

/-! ### SEG, BYTES, FIXUP (R81, R386, R402) -/

/-- R386, R402: a SEG record. `keys` is the page word when the record carries one. -/
structure GRec where
  n    : Nat
  sym  : Option Nat
  seg  : BitVec 128
  keys : Option Nat
  deriving DecidableEq, Repr

def grecOf (b : List Byte) : GRec where
  n := bfld b 0 3
  sym := if bfld b 32 32 = 0xFFFFFFFF then none else some (bfld b 32 32)
  seg := BitVec.ofNat 128 (bfld b 128 128)
  keys := if b.length = 48 then some (bfld b 256 128) else none

def segRecs (rs : List Rec) : List GRec := (ofType 6 rs).map grecOf

/-- R402: the page keywords of a segment: size code, NB, PIN, kind; 2M and RC by default. -/
def GRec.pageCode (g : GRec) : Nat := (g.keys.map (· % 8)).getD 2
def GRec.nb (g : GRec) : Bool := (g.keys.map fun k => k / 8 % 2 == 1).getD false
def GRec.pin (g : GRec) : Bool := g.nb || (g.keys.map fun k => k / 16 % 2 == 1).getD false
def GRec.kind (g : GRec) : Nat := (g.keys.map fun k => k / 32 % 4).getD 1
def GRec.pageBytes (g : GRec) : Nat := 2 ^ pageLg g.pageCode

/-- R76: the segment with its base resolved. -/
def GRec.value (g : GRec) (syms : List Word) : BitVec 128 :=
  match g.sym with
  | some k => g.seg.extractLsb' 64 64 ++ (g.seg.extractLsb' 0 64 + syms.getD k 0)
  | none => g.seg

/-- Does the segment have a virtual extent? -/
def isVirt (v : BitVec 128) : Bool := tagOf (segBase v) == 0 && segLimit v != 0
/-- R340: the VA range of the tile map. -/
def mapVa : Nat := 0x01FFFFFFFFFFD000
def overlapsMap (va n : Nat) : Bool := decide (mapVa < va + n) && decide (va < mapVa + 0x3000)

/-- R81, R85, R166, R340, R402: one segment. -/
def GRec.ok (g : GRec) (syms : List Word) : Bool :=
  let v := g.value syms
  let base := (segBase v).toNat
  segValid v && (g.sym.map fun k => decide (k < syms.length)).getD true &&
  (if tagOf (segBase v) = 0 then
      decide (g.pageCode ≤ 4) && decide (g.kind < 3) && (g.keys.map fun k => decide (k < 2 ^ 7)).getD true &&
      (!g.nb || decide (2 ≤ g.pageCode)) && base % g.pageBytes == 0 && segLimit v % g.pageBytes == 0 &&
      !overlapsMap base (segLimit v) && decide (base + segLimit v ≤ 2 ^ 57)
    else g.keys.isNone)

def segBodyOk (rs : List Rec) : Bool :=
  (ofType 6 rs).all fun b => (b.length == 32 || b.length == 48) && bfld b 3 29 == 0 && bfld b 64 64 == 0

/-- R386: the bytes of an image, each run with its local-store offset. -/
def byteRecs (rs : List Rec) : List (Nat × List Byte) := (ofType 7 rs).map fun b => (bfld (b.take 8) 0 18, b.drop 8)

def bytesOk (rs : List Rec) : Bool :=
  (ofType 7 rs).all fun b => decide (8 ≤ b.length) && bfld (b.take 8) 18 46 == 0 &&
    clearOf (bfld (b.take 8) 0 18) (b.length - 8)

/-- R386: offset, width in bytes, symbol, addend. -/
def fixRecs (rs : List Rec) : List (Nat × Nat × Nat × Nat) :=
  (ofType 8 rs).map fun b => (bfld b 0 18, 4 * bfld b 18 2, bfld b 32 32, bfld b 64 64)
def fixOk (rs : List Rec) : Bool :=
  (ofType 8 rs).all fun b => b.length == 16 && (bfld b 18 2 == 1 || bfld b 18 2 == 2) && bfld b 20 12 == 0 &&
    decide (bfld b 32 32 < (symRecs rs).length) && clearOf (bfld b 0 18) (4 * bfld b 18 2)

/-- R78: the strands that a manifest starts. Strand 0 starts at the first bytes of the image when no record names it. -/
def startOf (rs : List Rec) (k : Nat) : Option (Bool × Nat) :=
  match (strandRecs rs).find? fun t => t.1 == k with
  | some t => some t.2
  | none => if k = 0 then some (false, ((byteRecs rs).map (·.1)).headD 0) else none

/-! ### One image -/

/-- R386: an image by itself, before its symbols are known. Strand 0 starts at an offset that a PC can hold (R58). -/
def imageOk (rs : List Rec) : Bool :=
  rs.all (fun r => decide (1 ≤ r.type) && decide (r.type ≤ 9)) && boothOk rs && tileOk rs && strandOk rs && ctxOk rs &&
  queueOk rs && windowOk rs && segBodyOk rs && bytesOk rs && fixOk rs &&
  (startOf rs 0).all fun t => targetOk (BitVec.ofNat 64 t.2)

/-- R403: what a QUEUE or WINDOW record declares: its body, in a window's the name of its target's symbol for the number. -/
def declRec (rs : List Rec) (r : Rec) : Nat × List Byte :=
  if r.type = 5 ∧ bfld r.body 96 32 = 0xFFFFFFFF then
    (5, r.body.take 8 ++ List.replicate 4 0 ++ r.body.drop 12 ++
      (match (symRecs rs)[bfld r.body 64 32]? with | some t => nameAt t.1.body 32 | none => []))
  else (r.type, r.body)

/-- R403: what a new version of a booth must repeat, in whatever order: the name, the tiles, and each queue and window, these
in the order of their symbols. -/
def declOf (rs : List Rec) : List (Nat × List Byte) :=
  let t := tileReq rs
  (1, boothName rs) :: (2, natBytes 2 t.1 ++ natBytes 2 t.2.1 ++ natBytes 2 t.2.2) :: (symRecs rs).map fun r => declRec rs r.1

/-- R386, R401: where an image has bytes in local store: offset and length. -/
def imageRuns (rs : List Rec) : List (Nat × Nat) :=
  ((byteRecs rs).map (fun p => (p.1, p.2.length)) ++ (fixRecs rs).map (fun f => (f.1, f.2.1)) ++
    ((ctxReq rs).map fun c => (c.2, c.1)).toList).filter fun r => r.2 != 0

/-- R76, R386, R406: the bytes of an image on one site: its runs, the fix-ups over them, and the context slots granted. -/
def siteImage (rs : List Rec) (syms : List Word) (slots : List Nat) (site : Nat) : List (Nat × List Byte) :=
  (byteRecs rs).map (fun p => (localKey site p.1, p.2)) ++
  (fixRecs rs).map (fun f => (localKey site f.1, natBytes f.2.1 ((syms.getD f.2.2.1 0).toNat + f.2.2.2))) ++
  (match ctxReq rs with
    | some (n, off) => [(localKey site off, (slots.take n).map fun k => BitVec.ofNat 8 (k % 64))]
    | none => [])

/-- R79, R83: the bindings of strand `k`. A marker field of all ones stands for a directive without `marker=` (log entry
20). -/
def bindsOf (rs : List Rec) (syms : List Word) (k : Nat) : List (Nat × BitVec 32 × BitVec 32) :=
  (queueRecs rs).filterMap fun q =>
    if q.1.bind ≠ 0 ∧ q.1.mask / 2 ^ k % 2 = 1 then
      some (q.1.bind - 1, (syms.getD q.2 0).extractLsb' 0 32, if q.1.marker = 0x3FFFFFFF then BitVec.allOnes 32 else BitVec.ofNat 32 (4 * q.1.marker))
    else none

/-- R83, R386: how the strands 0 to 6 of a site start. -/
def siteStarts (rs : List Rec) (syms : List Word) (site : Nat) : List Start :=
  (List.range 7).map fun k =>
    let t := startOf rs k
    { site := site
      k := k
      pc := (t.map (·.2)).getD 0
      task := (t.map (·.1)).getD false
      on := t.isSome
      segs := (segRecs rs).map fun g => (g.n, g.value syms)
      binds := bindsOf rs syms k }

end Sys2Proof.Machine
end

