-- ==== Sys2Proof/Machine/Loader.lean ====
section
/-!
DEFINITION. The start of a job (R30): the checks of its images together (R399 to R402, R409), the tiles, queues, pages,
windows and context slots that the stewards grant, and the start of its booths. Choices of the stewards are arguments
(log entry 10).
-/

namespace Sys2Proof.Machine

/-! ### Serving a request (R384) -/

/-- R162: a request that reads or writes host memory waits for a link. -/
def waitsLink (s : State) (op : BitVec 8) : Bool := hostDown s && [0x01#8, 0x07#8, 0x08#8, 0x09#8].contains op

/-- A steward carries out a request that it has reached and whose event names it, unless it stalls at a host completion
queue (R283) or for want of a link. -/
def serve (q : Nat) (op : BitVec 8) (r : HostReq) (s : State) (k : State → State) : Res :=
  if r.op ≠ op ∨ !isServed q r s ∨ reqBad q r ∨ (r.port ≠ 2 ∧ stewardHeld s q r) ∨ waitsLink s op then .next s
  else .next (k s)

/-! ### The request -/

/-- R386: the frequency code of a job descriptor, and its images by die. -/
structure Descriptor where
  fcode : Nat
  imgs  : List (Nat × List Rec)

/-- R386: the images of a descriptor, none where one does not parse. -/
def readImages (s : State) (d : List Byte) : List Nat → Option (List (Nat × List Rec))
  | [] => some []
  | k :: ks =>
    let e := bslice d (64 + 16 * k) 16
    match parseImage (readKeys s (keysFrom (hostKey (bfld e 0 64)) (bfld e 64 32))), readImages s d ks with
    | some rs, some r => if bfld e 98 30 = 0 then some ((bfld e 96 2, rs) :: r) else none
    | _, _ => none

/-- R386: the job descriptor. -/
def readDescriptor (s : State) (r : HostReq) : Option Descriptor :=
  let d := readKeys s (keysFrom (hostKey r.arg0.toNat) r.arg1.toNat)
  let h := d.take 64
  let n := bfld h 0 32
  let fen := bfld h 37 1 = 1
  if d.length < 64 ∨ n = 0 ∨ 256 < n ∨ d.length < 64 + 16 * n ∨ bfld h 38 474 ≠ 0 ∨ (fen ∧ 30 < bfld h 32 5) then none
  else (readImages s d (List.range n)).map fun imgs => ⟨if fen then bfld h 32 5 else 24, imgs⟩

/-! ### Queues across images (R399, R400) -/

/-- A QUEUE record with the index of its image, its index among the image's QUEUE records, and its symbol. -/
structure QUse where
  img : Nat
  j   : Nat
  sym : Nat
  q   : QRec
  deriving DecidableEq, Repr

def queueUses (imgs : List (Nat × List Rec)) : List QUse :=
  imgs.zipIdx.flatMap fun m => (queueRecs m.1.2).zipIdx.map fun q => ⟨m.2, q.2, q.1.2, q.1.1⟩

def imageNamed (imgs : List (Nat × List Rec)) (n : List Byte) : Option Nat := imgs.findIdx? fun m => boothName m.2 == n

/-- The record that declares the queue of this name `out`. -/
def outOf (us : List QUse) (name : List Byte) : Option QUse := us.find? fun u => u.q.out && u.q.name == name
def insOf (us : List QUse) (name : List Byte) : List QUse := us.filter fun u => !u.q.out && u.q.name == name

/-- R400: the attributes of a queue. -/
def attrOf (us : List QUse) (u : QUse) : QRec := ((outOf us u.q.name).map (·.q)).getD u.q

/-- R286: the records that declare a queue `out`: two for a twinned pair. -/
def outsOf (us : List QUse) (name : List Byte) : List QUse := us.filter fun u => u.q.out && u.q.name == name

/-- R286: two images that a pair of booths may run as twins: they agree in every record but BOOTH, and no output is
multicast (log entry 75). An input that no image declares `out` is each twin's own, mapped from a window to both. -/
def twinsAgree (imgs : List (Nat × List Rec)) (t : Nat × Nat) : Bool :=
  let rest (i : Nat) : List Rec := (imgs.getD i (0, [])).2.filter (·.type != 1)
  decide (t.1 < t.2) && decide (t.2 < imgs.length) && rest t.1 == rest t.2 &&
  (queueRecs (imgs.getD t.1 (0, [])).2).all fun q => !q.1.out || q.1.brs == []

/-- R400: the records of one name agree; only a twinned pair declares one queue `out` twice (R286). -/
def nameOk (tw : List (Nat × Nat)) (imgs : List (Nat × List Rec)) (us : List QUse) (name : List Byte) : Bool :=
  let ins := insOf us name
  let outs := outsOf us name
  (match outs with
    | [a, b] => tw.contains (a.img, b.img)
    | l => decide (l.length ≤ 1)) &&
  decide (ins.map (·.img)).Nodup &&
  (match outs.head? with
    | none => (match ins with
        | [a, b] => tw.contains (a.img, b.img)
        | l => l.length == 1) && ins.all fun u => decide (u.q.slots * u.q.bytes ≤ 65536)
    | some o =>
      ins.all (fun u => u.q.cap == o.q.cap && u.q.esize == o.q.esize && u.q.type == o.q.type) &&
      (if o.q.brs = [] then ins.length == 1
        else decide o.q.brs.Nodup && ins.length == o.q.brs.length && o.q.brs.all fun b =>
          match imageNamed imgs b with
          | some i => ins.any fun u => u.img == i
          | none => false))

def queuesAgree (tw : List (Nat × Nat)) (imgs : List (Nat × List Rec)) : Bool :=
  let us := queueUses imgs
  tw.all (twinsAgree imgs) && us.all fun u => nameOk tw imgs us u.q.name

/-! ### What was granted -/

/-- A start request with what the stewards grant it. -/
structure Plan where
  r    : HostReq
  gr   : Grants
  d    : Descriptor

def Plan.recs (p : Plan) (i : Nat) : List Rec := ((p.d.imgs.getD i (0, [])).2)
def Plan.grant (p : Plan) (i : Nat) : BoothGrant := p.gr.booths.getD i ⟨[], [], [], [], [], []⟩
def Plan.count (p : Plan) : List Nat := List.range p.d.imgs.length
/-- R401: the lowest-numbered tile of a booth. -/
def Plan.first (p : Plan) (i : Nat) : Nat := (p.grant i).sites.headD 0
def Plan.uses (p : Plan) : List QUse := queueUses p.d.imgs

/-- The keys granted for the queue that a record defines. -/
def Plan.keys (p : Plan) (u : QUse) : List Nat := (p.grant u.img).queues.getD u.j []

/-- R400: the key of the queue that a record names: for a branch of a multicast head its own. -/
def Plan.key (p : Plan) (u : QUse) : Nat :=
  if u.q.out then (p.keys ((outOf p.uses u.q.name).getD u)).headD 0
  else match outOf p.uses u.q.name with
    | none => (p.keys u).headD 0
    | some o =>
      if o.q.brs = [] then (p.keys o).headD 0
      else (p.keys o).getD (1 + (o.q.brs.findIdx fun b => b == boothName (p.recs u.img))) 0

/-- R76: the handle of a queue and the base of a window. -/
def handleAt (s : State) (k : Nat) : BitVec 32 := handleOf k (getQueue s k).gen
def winBase (w : Nat) : Word := BitVec.ofNat 64 (2 ^ 62 + w * 2 ^ 44)

/-- R76: the values of an image's symbols. -/
def Plan.syms (p : Plan) (s : State) (i : Nat) : List Word :=
  let us := p.uses
  let ws := (windowRecs (p.recs i)).zipIdx
  (symRecs (p.recs i)).map fun r =>
    match us.find? fun u => u.img == i && u.sym == r.2 with
    | some u => (handleAt s (p.key u)).zeroExtend 64
    | none => match ws.find? fun w => w.1.2 == r.2 with
      | some w => winBase ((p.grant i).windows.getD w.2 0)
      | none => 0

/-! ### Rings (R401) -/

/-- R401: the offsets of rings of these sizes, the first ending at `top`. -/
def ringOffs : List Nat → Nat → List Nat
  | [], _ => []
  | n :: r, top => (top - n) :: ringOffs r (top - n)

/-- R401: the `in` records of an image, each with the offset of its ring. -/
def Plan.rings (p : Plan) (i : Nat) : List (QUse × Nat) :=
  let us := p.uses
  let ins := us.filter fun u => u.img == i && !u.q.out
  ins.zip (ringOffs (ins.map fun u => (attrOf us u).ringBytes) 0x3C000)

/-- Does a segment that strands of `site` hold cover none of `n` bytes from an offset of the tile `t` on? -/
def segClear (s : State) (site t off n : Nat) (v : BitVec 128) : Bool :=
  decide (tagOf (segBase v) < 2) || segLimit v == 0 || localSite s site (segBase v) != some t ||
    !overlap (fld (segBase v) 0 18) (segLimit v) off n

/-- R401: a ring with its kind array, `n` bytes, overlaps no byte of the image, lies at or above 0x2_0000, and no local segment
covers a byte of it. -/
def Plan.ringOk (p : Plan) (s : State) (i off n : Nat) : Bool :=
  decide (0x20000 ≤ off) &&
  (imageRuns (p.recs i)).all (fun b => !overlap b.1 b.2 off n) &&
  p.count.all fun k => (p.grant k).sites.all fun site => (segRecs (p.recs k)).all fun g =>
    segClear s site (p.first i) off n (g.value (p.syms s k))

/-- R371: no user segment covers the reserved range. -/
def reservedOk (v : BitVec 128) : Bool :=
  decide (tagOf (segBase v) < 2) || segLimit v == 0 || !overlap (fld (segBase v) 0 18) (segLimit v) 0x3C000 0x2000

/-- R85, R263, R340, R371: the further segments that the stewards grant are valid and cover no ring, neither the
reserved range nor the tile map. -/
def Plan.segsOk (p : Plan) (s : State) : Bool :=
  p.count.all fun k => (p.grant k).segs.all fun v =>
    segValid v && reservedOk v && (!isVirt v || !overlapsMap (segBase v).toNat (segLimit v)) &&
    (p.grant k).sites.all fun site => p.count.all fun i => (p.rings i).all fun q =>
      segClear s site (p.first i) q.2 (attrOf p.uses q.1).ringSpan v

/-- R266, R289, R401: input bindings lie in the cluster of the rings, and output bindings on the die of the queue. -/
def Plan.bindOk (p : Plan) (i : Nat) : Bool :=
  (!((queueRecs (p.recs i)).any fun q => !q.1.out && q.1.bind != 0) ||
    (p.grant i).sites.all fun t => clusterOf t == clusterOf (p.first i)) &&
  p.uses.all fun u => u.img != i || !u.q.out || u.q.bind == 0 ||
    (p.grant i).sites.all fun t => qcluster (p.key u) / 8 == dieOf t

/-! ### Pages (R30, R402) -/

/-- The virtual extents of the request: base, limit, segment record, W and X. -/
def Plan.extents (p : Plan) (s : State) : List (Nat × Nat × GRec × BitVec 128) :=
  p.count.flatMap fun i => (segRecs (p.recs i)).filterMap fun g =>
    let v := g.value (p.syms s i)
    if isVirt v then some ((segBase v).toNat, segLimit v, g, v) else none

/-- R402: overlapping extents agree in every keyword. -/
def extentsAgree (l : List (Nat × Nat × GRec × BitVec 128)) : Bool :=
  l.all fun a => l.all fun b => !overlap a.1 a.2.1 b.1 b.2.1 ||
    (a.2.2.1.pageCode == b.2.2.1.pageCode && a.2.2.1.nb == b.2.2.1.nb && a.2.2.1.pin == b.2.2.1.pin &&
      a.2.2.1.kind == b.2.2.1.kind)

/-- R275: the spill area of a queue in units of 4 KiB. R79 gives `spill=` in KiB and no rounding: a size that is no
multiple of 4 KiB is rounded up (log entry 85). -/
def QRec.spsize (q : QRec) : Nat := (q.spill + 3) / 4
def Plan.spillVa (p : Plan) (k : Nat) : Nat := ((p.gr.spills.find? fun t => t.1 == k).map (·.2)).getD 0
/-- R79: the queues with a spill area: key and attributes. -/
def Plan.spilling (p : Plan) : List (Nat × QRec) :=
  (p.uses.filter fun u => !u.q.out).filterMap fun u =>
    let a := attrOf p.uses u
    if a.spill = 0 then none else some (p.key u, a)

/-- The bytes of a page from its VA on. -/
def pageBytes (g : PageGrant) : Nat := 2 ^ pageLg g.size
/-- R22, R275: the spill areas of the queues and the task spill areas of a booth: VA and length. -/
def Plan.areas (p : Plan) (i : Nat) : List (Nat × Nat) :=
  ((p.uses.filter fun u => !u.q.out && u.img == i).filterMap fun u =>
    let a := attrOf p.uses u
    if a.spill = 0 then none else some (p.spillVa (p.key u), a.spsize * 4096)) ++
  (p.grant i).tasks.map fun va => (va, 65536)

/-- R165, R402: the leaf of a page granted at `va`, less its frame; none where nothing of the job needs it. The pages of
spill areas are pinned (R22, R275). -/
def Plan.leafBits (p : Plan) (s : State) (g : PageGrant) : Option Nat :=
  let es := (p.extents s).filter fun e => overlap e.1 e.2.1 g.va 1
  match es with
  | e :: _ =>
    let w := es.any fun e => segW e.2.2.2
    let x := es.any fun e => segX e.2.2.2
    some (3 + 4 * b2n w + 8 * b2n x + 16 * e.2.2.1.kind + 64 * b2n e.2.2.1.nb + 128 * b2n e.2.2.1.pin)
  | [] =>
    if p.count.any fun i => (p.areas i).any fun a => overlap a.1 a.2 g.va (pageBytes g) then some (3 + 4 + 16 + 128) else none

/-! ### Where pages lie (R30 step 3) -/

/-- R161: the channel of a physical address, 96 to a die. -/
def channelOf (pa : Nat) : Nat := pa / 2 ^ 49 % 4 * 96 + pa / 2 ^ 47 % 4 * 32 + pa / 2 ^ 42 % 32

/-- R167: the pieces of a page: physical address and length. -/
def pagePieces (g : PageGrant) : List (Nat × Nat) :=
  let lg := pageLg g.size
  if lg ≤ 21 then [(g.frame, 2 ^ lg)]
  else (List.range (2 ^ (lg - 21))).map fun i => (leafPa (BitVec.ofNat 64 g.frame) lg (i * 2 ^ 21), 2 ^ 21)

/-- R30: what a page lies near to: the gateway of the receive window that fills it, as 32 + the window's number, else its
booth's cluster port (log entry 84). -/
def Plan.placeOf (p : Plan) (s : State) (g : PageGrant) : Nat :=
  let wins := p.count.flatMap fun i => (windowRecs (p.recs i)).zip (p.grant i).windows
  match wins.find? fun w => w.1.1.rx && w.1.1.sym.isNone && tagOf w.1.1.target == 0 &&
      overlap w.1.1.target.toNat w.1.1.size g.va (pageBytes g) with
  | some w => 32 + w.2
  | none =>
    let mine (i : Nat) : Bool := (p.areas i).any (fun a => overlap a.1 a.2 g.va (pageBytes g)) ||
      (segRecs (p.recs i)).any fun r =>
        let v := r.value (p.syms s i)
        isVirt v && overlap (segBase v).toNat (segLimit v) g.va (pageBytes g)
    clusterOf (p.first ((p.count.find? mine).getD 0))

/-- R161: the bytes that pages take of a channel. -/
def channelUse (ps : List PageGrant) (c : Nat) : Nat :=
  ((ps.flatMap pagePieces).filter fun x => channelOf x.1 == c).foldl (fun n x => n + x.2) 0

/-- R372: the jobs whose memory is theirs; what a freeze has saved is not. -/
def liveJobs (s : State) : Tab Job := s.jobs.filter fun j => !(j.2.frozen && s.frozen.any fun v => v.job.toNat == j.1)
/-- R30 step 3: the page lies on the nearest channel that has room for it. -/
def Plan.nearOk (p : Plan) (s : State) (g : PageGrant) : Bool :=
  let d := Config.channelDistance (p.placeOf s g)
  let all := (liveJobs s).flatMap (·.2.pages) ++ p.gr.pages
  (List.range 384).all fun c => decide (d (channelOf g.frame) ≤ d c) || isHole (c / 96 * 2 ^ 49 + c / 32 % 3 * 2 ^ 47 + c % 32 * 2 ^ 42) ||
    decide (Config.channelBytes < channelUse all c + 2 ^ min (pageLg g.size) 21)

/-- Ranges that do not overlap. -/
def apart : List (Nat × Nat) → Bool
  | [] => true
  | a :: r => (r.all fun b => !overlap a.1 a.2 b.1 b.2) && apart r

/-- R367: the HBM that holds the logs. -/
def logRanges (s : State) : List (Nat × Nat) := s.dies.toList.filterMap fun d => d.logAt.map fun b => (b, 2 ^ 26)

/-- R164: the entry at which a walk for `va` meets a table of this level. -/
def pteKey (t va lo w : Nat) : Nat := t + 8 * (va / 2 ^ lo % 2 ^ w)
def readPte (s : State) (k : Nat) : Word := BitVec.ofNat 64 (readNat s (keysFrom k 8))

/-- R164: the tables that the walk for a VA meets, with their lengths. -/
def walkTables (s : State) (va : Nat) : List (Nat × Nat × Nat) → Nat → List (Nat × Nat)
  | [], _ => []
  | (_, lo, w) :: rest, t =>
    let e := readPte s (pteKey t va lo w)
    (t, 8 * 2 ^ w) :: if e.getLsbD 0 && !e.getLsbD 1 then walkTables s va rest (fld e 7 45 * 128) else []
/-- R164: the tables of some trees that lead to these VAs and to the tile map (R340). -/
def treeTables (s : State) (roots vas : List Nat) : List (Nat × Nat) :=
  (roots.flatMap fun t => (mapVa :: vas).flatMap fun va => walkTables s va walkLevels t).dedup

/-- R402: the frames that a job holds: its pages and its page tables. -/
def jobFrames (s : State) (j : Nat × Job) : List (Nat × Nat) :=
  j.2.pages.flatMap pagePieces ++
    treeTables s ((s.roots.filter fun r => r.1 % 65536 == j.1).map (·.2)) (j.2.pages.map (·.va))
/-- R340, R341, R367: the HBM in use: that of the jobs, the logs, the backing of context slots, and the tile map. -/
def heldFrames (s : State) : List (Nat × Nat) :=
  (liveJobs s).flatMap (jobFrames s) ++ logRanges s ++ s.tileMap.map (fun f => (f, 4096)) ++
  (s.slots.filter fun k => (liveJobs s).any fun j => j.1 == k.2.job.toNat).filterMap fun k => k.2.backing.map fun f => (f, 4096)
/-- Do ranges overlap nothing of a list? -/
def clearFrames (l held : List (Nat × Nat)) : Bool := l.all fun a => held.all fun b => !overlap a.1 a.2 b.1 b.2

/-- The frames granted, of pages and of the backing of context slots. -/
def Plan.frames (p : Plan) : List (Nat × Nat) :=
  p.gr.pages.flatMap pagePieces ++ p.count.flatMap fun i => (p.grant i).backing.map fun f => (f, 4096)
/-- R341, R367, R402: they are free: they overlap one another nowhere, and nothing in use. -/
def Plan.framesOk (p : Plan) (s : State) : Bool := apart p.frames && clearFrames p.frames (heldFrames s)
/-- R164, R402: neither do the page tables that the pages have been mapped with, in `s1`. -/
def Plan.tablesOk (p : Plan) (s s1 : State) : Bool :=
  let ts := treeTables s1 (p.gr.roots.map (·.2)) (p.gr.pages.map (·.va))
  apart (ts ++ p.frames) && clearFrames ts (heldFrames s)

/-- R402: every page of every extent and spill area is granted with its size, on its channel. -/
def Plan.pagesOk (p : Plan) (s : State) : Bool :=
  let has (va code : Nat) : Bool := p.gr.pages.any fun g => g.va == va && g.size == code
  (p.extents s).all (fun e => (List.range (e.2.1 / e.2.2.1.pageBytes)).all fun i =>
    has (e.1 + i * e.2.2.1.pageBytes) e.2.2.1.pageCode) &&
  p.count.all (fun i => (p.grant i).tasks.length == (p.grant i).sites.length && (p.areas i).all fun a =>
    a.1 % 4096 == 0 && a.1 != 0 && !overlapsMap a.1 a.2 &&
    (List.range (a.2 / 4096)).all fun k => p.gr.pages.any fun g => g.va == (a.1 + 4096 * k) / pageBytes g * pageBytes g) &&
  p.framesOk s &&
  p.gr.pages.all fun g => decide (g.size ≤ 4) && g.va % pageBytes g == 0 &&
    g.frame % 2 ^ min (pageLg g.size) 21 == 0 && !isHole g.frame && decide (g.frame < 2 ^ 51) && p.nearOk s g

def writePte (k v : Nat) (s : State) : State := { s with mem := pokeBytes ((keysFrom k 8).zip (natBytes 8 v)) s.mem }

/-- HBM that has been granted anew reads as zero (R402). -/
def clearHbm (f : Nat → Bool) (s : State) : State :=
  { s with mem := s.mem.filter fun c => !f c.1, poison := s.poison.filter fun w => !f w }

/-- R164, R165: enters a leaf for a page of 2^lg bytes; new tables, aligned to their size, are taken from `free`. None when they
run out or an entry stands in the way. -/
def mapPage (va lg leaf : Nat) : List (Nat × Nat × Nat) → Nat → List Nat → State → Option (List Nat × State)
  | [], _, _, _ => none
  | (_, lo, w) :: rest, t, free, s =>
    let k := pteKey t va lo w
    let e := readPte s k
    if lo = lg then (if e.getLsbD 0 then none else some (free, writePte k leaf s))
    else if e.getLsbD 0 then
      (if e.getLsbD 1 then none else mapPage va lg leaf rest (fld e 7 45 * 128) free s)
    else match free, rest with
      | f :: fs, (_, _, w') :: _ =>
        if f % (8 * 2 ^ w') ≠ 0 then none
        else mapPage va lg leaf rest f fs
          (writePte k (f + 1) (clearHbm (fun a => decide (f ≤ a) && decide (a < f + 8 * 2 ^ w')) s))
      | _, _ => none

/-- R167: does a page hold a physical address? -/
def pageHas (frame lg a : Nat) : Bool :=
  if lg ≤ 21 then decide (frame ≤ a) && decide (a < frame + 2 ^ lg)
  else (List.range (2 ^ (lg - 21))).any fun i =>
    let b := leafPa (BitVec.ofNat 64 frame) lg (i * 2 ^ 21)
    decide (b ≤ a) && decide (a < b + 2 ^ 21)

/-- Maps a list of pages (VA, log2 of the size, leaf) in one tree. -/
def mapPages (root : Nat) : List (Nat × Nat × Nat) → List Nat → State → Option (List Nat × State)
  | [], free, s => some (free, s)
  | (va, lg, leaf) :: r, free, s =>
    match mapPage va lg leaf walkLevels root free s with
    | some (free, s) => mapPages root r free s
    | none => none

/-- Maps the same pages in the tree of every die. -/
def mapRoots (job : BitVec 16) (pages : List (Nat × Nat × Nat)) : List (Nat × Nat) → List Nat → State → Option State
  | [], _, s => some s
  | (die, root) :: r, free, s =>
    let s := clearHbm (fun a => decide (root ≤ a) && decide (a < root + 2 ^ 15)) s
    match mapPages root pages free s with
    | some (free, s) => mapRoots job pages r free { s with roots := tset s.roots (65536 * die + job.toNat) root }
    | none => none

/-- R340: the tile map's pages in every job: V, LEAF, SO, PIN, not writable. -/
def mapLeaves (s : State) : List (Nat × Nat × Nat) :=
  s.tileMap.zipIdx.map fun f => (mapVa + 4096 * f.2, 12, f.1 + 3 + 128)

/-- R30, R402: maps the job's pages, none where the grant does not serve. -/
def Plan.mapAll (p : Plan) (s : State) : Option State :=
  let ls := p.gr.pages.filterMap fun g => (p.leafBits s g).map fun b => (g, b)
  let pages := ls.map fun g => (g.1.va, pageLg g.1.size, g.1.frame + g.2)
  let s' := ls.foldl (fun s g => clearHbm (pageHas g.1.frame (pageLg g.1.size)) s) s
  mapRoots p.gr.job (mapLeaves s ++ pages) p.gr.roots p.gr.tables s'

/-! ### Tiles (R26, R78) -/

def isFreeTile (s : State) (t : Nat) : Bool :=
  isGood s t && (getTile s t).job == 0 && (getTile s t).booth == 0 && decide (8 ≤ (getTile s t).logical)

/-- R78: the sites have the shape that the TILE record asks for, in logical order. -/
def shapeOk (s : State) (die : Nat) (rs : List Rec) (sites : List Nat) : Bool :=
  let (w, h, n) := tileReq rs
  let x0 := (sites.map siteX).foldl min 31
  let y0 := (sites.map siteY).foldl min 31
  sites.all (fun t => isFreeTile s t && dieOf t == die) &&
  decide ((sites.map fun t => (getTile s t).logical).Pairwise (· < ·)) &&
  (if n = 0 then
      sites.length == w * h && sites.all fun t => clusterOf t == clusterOf (sites.headD 0) && decide (siteX t < x0 + w) &&
        decide (siteY t < y0 + h)
    else sites.length == n)

/-- R30: what the stewards grant serves the request: unused job id, tiles, queue and window numbers. -/
def Plan.grantsOk (p : Plan) (s : State) : Bool :=
  let ks := p.uses.flatMap p.keys
  let txs := p.count.flatMap fun i => ((windowRecs (p.recs i)).zip (p.grant i).windows).filterMap fun w =>
    if w.1.1.rx then none else some w.2
  let rxs := p.count.flatMap fun i => ((windowRecs (p.recs i)).zip (p.grant i).windows).filterMap fun w =>
    if w.1.1.rx then some w.2 else none
  p.gr.job != 0 && (lookup s.jobs p.gr.job.toNat).isNone && p.gr.booths.length == p.d.imgs.length &&
  p.count.all (fun i => shapeOk s (p.d.imgs.getD i (0, [])).1 (p.recs i) (p.grant i).sites &&
    (p.grant i).windows.length == (windowRecs (p.recs i)).length && decide ((p.grant i).segs.length ≤ 251) &&
    (p.grant i).backing.length == ((ctxReq (p.recs i)).map (·.1)).getD 0 &&
    (p.grant i).backing.all fun f => f % 4096 == 0 && !isHole f && decide (f < 2 ^ 51)) && p.segsOk s &&
  decide (p.count.flatMap fun i => (p.grant i).sites).Nodup &&
  p.uses.all (fun u => (p.keys u).length ==
    (if outOf p.uses u.q.name = some u then 1 + u.q.brs.length else if (outOf p.uses u.q.name).isSome then 0 else 1)) &&
  decide (ks ++ p.gr.qidx).Nodup &&
  (ks ++ p.gr.qidx).all (fun k => decide (k < 65536) && (getQueue s k).st == .free && (getQueue s k).gen != 0xFFFF &&
    s.jobs.all fun j => j.2.queues.all fun q => q.1 != k) &&
  p.uses.all (fun u => qcluster (p.key u) ==
    clusterOf (if u.q.out && u.q.brs == [] then p.first ((insOf p.uses u.q.name).headD u).img else p.first u.img)) &&
  decide txs.Nodup && decide rxs.Nodup &&
  txs.all (fun w => decide (w < 4096) && !txValid (txEntry s w) && !s.pendWin.any fun q => q.1 == w) &&
  rxs.all (fun w => decide (w < 4096) && !rxValid (rxEntry s w)) &&
  p.gr.futures.all (fun f => decide (f.1 < 32) && decide (f.2 < 65536) && (getFuture s (65536 * f.1 + f.2)).st == .free &&
    (getFuture s (65536 * f.1 + f.2)).job == 0 && !(getFuture s (65536 * f.1 + f.2)).quar) &&
  p.gr.roots.all (fun t => decide (t.1 < 4) && t.2 % 2 ^ 15 == 0 && !isHole t.2 && decide (t.2 < 2 ^ 51)) &&
  p.gr.tables.all (fun t => t % 128 == 0 && !isHole t && decide (t < 2 ^ 51)) &&
  p.count.all fun i => p.gr.roots.any fun t => t.1 == (p.d.imgs.getD i (0, [])).1

/-! ### Windows (R80, R409, R410) -/

/-- R410: a local target in absolute form, seen from a site; other targets stand as they are. -/
def absTarget (s : State) (site : Nat) (t : Word) : Option Word :=
  if tagOf t < 2 then some t
  else (localSite s site t).map fun u =>
    BitVec.ofNat 64 (2 ^ 63 + ylOf u * 2 ^ 21 + xlOf u * 2 ^ 18 + fld t 0 18)

/-- R328: the entry of a receive window of the booth of image `i`. -/
def Plan.rxImage (p : Plan) (s : State) (i : Nat) (w : WRec) : Option (BitVec 256) :=
  let site := p.first i
  let lw := match w.landing with
    | some off => 2 ^ 5 + 2 ^ 192 * (ylOf site * 2 ^ 21 + xlOf site * 2 ^ 18 + off)
    | none => 0
  let common := 1 + 2 ^ 6 * (w.rights / 2 % 2) + 2 ^ 16 * p.gr.job.toNat + 2 ^ 128 * w.size + lw
  match w.sym with
  | some k =>
    if (p.uses.any fun u => u.img == i && u.sym == k) then
      let h := ((p.syms s i).getD k 0).toNat
      some (BitVec.ofNat 256 (common + 2 + 2 ^ 32 * qcluster (h / 65536) + 2 ^ 64 * h))
    else none
  | none => (absTarget s site w.target).map fun t =>
      BitVec.ofNat 256 (common + 8 * w.ord + 2 ^ 32 * clusterOf site + 2 ^ 64 * t.toNat)

/-- R409: the receive window of a booth that this device knows for the domain job of this seed: device, number, LIMIT. -/
def knownWindow (s : State) (seed : Word) (n : List Byte × List Byte) : Option (Nat × Nat × Nat) :=
  (s.booths.find? fun b => (getJob s (BitVec.ofNat 16 (b.1 / 65536))).seed == seed && b.2.name == n.1).bind fun b =>
    (b.2.rxwins.find? fun w => w.1 == n.2).map fun w => (s.device, w.2, rxLimit (rxEntry s w.2))
def knownBooth (s : State) (seed : Word) (n : List Byte) : Bool :=
  s.booths.any fun b => (getJob s (BitVec.ofNat 16 (b.1 / 65536))).seed == seed && b.2.name == n

/-- R409: the receivers named in the request: a booth that is known, here or on another device of the domain job, has the
window; one that is not known is awaited (log entry 101). -/
def Plan.peersOk (p : Plan) (s : State) : Bool :=
  p.count.all fun i => (windowRecs (p.recs i)).all fun w => w.1.rx || w.1.peers.all fun n =>
    match imageNamed p.d.imgs n.1, p.gr.remote.find? fun b => b.name == n.1 with
    | some k, _ => (windowRecs (p.recs k)).any fun v => v.1.rx && v.1.name == n.2
    | none, some b => b.rx.contains n.2
    | none, none => !knownBooth s p.r.arg2 n.1 || (knownWindow s p.r.arg2 n).isSome

/-! ### What completes with FORMAT -/

/-- R386, R399, R400, R409: the images, before anything is granted; no booth has a name that the domain job knows, here or on
another device. -/
def descriptorOk (s : State) (r : HostReq) (gr : Grants) (d : Descriptor) : Bool :=
  d.imgs.all (fun m => imageOk m.2) && decide (d.imgs.map fun m => boothName m.2).Nodup &&
  d.imgs.all (fun m => !knownBooth s r.arg2 (boothName m.2) && !gr.remote.any fun b => b.name == boothName m.2) &&
  queuesAgree gr.twins d.imgs

/-- R401, R402, R409, R410: what depends on where the booths lie. -/
def Plan.formatOk (p : Plan) (s : State) : Bool :=
  p.count.all (fun i =>
    (segRecs (p.recs i)).all (fun g => g.ok (p.syms s i) && reservedOk (g.value (p.syms s i))) && p.bindOk i &&
    (p.rings i).all (fun q => p.ringOk s i q.2 (attrOf p.uses q.1).ringSpan) &&
    (windowRecs (p.recs i)).all fun w => !w.1.rx ||
      (match p.rxImage s i w.1 with
        | some e => !rxBad e
        | none => false)) &&
  extentsAgree (p.extents s) && p.peersOk s

/-! ### The steps of R30 -/

/-- R340, R371: the segment table of a user tile: the tile map first. -/
def mapSegment : BitVec 128 := BitVec.ofNat 128 (mapVa + 2 ^ 64 * 8256 + 2 ^ 104 + 2 ^ 109 * 3)
def writeSegtab (site : Nat) (more : List (BitVec 128)) (s : State) : State :=
  let es := mapSegment :: more
  let s := es.zipIdx.foldl (fun s e => writeNat (keysFrom (localKey site (0x3D000 + 16 * e.2)) 16) e.1.toNat s) s
  modTile site (fun t => { t with segtab := BitVec.ofNat 64 (0x3D000 + 2 ^ 32 * es.length) }) s

/-- R225, R227: the blocks at home on a site go to a booth, or to job 0, and are EMPTY; the site's format context takes
its reset value. -/
def assignBlocks (site : Nat) (b : Option (BitVec 16 × Nat)) (s : State) : State :=
  let t := inYard site
  modLoom (yardOf site) (fun l =>
    { l with
      ctxs := l.ctxs.filter fun c => c.1 != t
      blocks := (List.range 4).foldl (fun bs k => tset bs (4 * t + k) { Block.empty with booth := b }) l.blocks }) s

/-- R22, R26: a tile of a booth, with its task spill area of 64 KiB. -/
def takeTile (job : BitVec 16) (id : Nat) (segs : List (BitVec 128)) (s : State) (t : Nat × Nat) : State :=
  assignBlocks t.1 (some (job, id)) (writeSegtab t.1 segs
    (modTile t.1 (fun u => clearReady { u with job := job, booth := id, rqVa := some t.2, rqSpillKib := 64 }) s))

/-- R262, R400: a queue that an image declares `in`, at its ring. -/
def Plan.queueOf (p : Plan) (u : QUse) (off gen : Nat) : Queue :=
  let a := attrOf p.uses u
  let o := outOf p.uses u.q.name
  { Queue.free with
    st := .open_
    prio := a.prio
    type := a.type
    esize := a.esize
    twin := (outsOf p.uses u.q.name).length == 2
    twinb := (((outsOf p.uses u.q.name)[1]?).map fun o => o.img + 1).getD 0
    branch := a.brs != []
    stage := o.isSome
    gen := gen
    job := p.gr.job
    cap := a.cap
    flow := a.flow
    replay := a.replay
    slots := a.slots
    ring := localKey (p.first u.img) off
    spill := if a.spill = 0 then 0 else p.spillVa (p.key u)
    spsize := a.spsize
    pbooth := (o.map fun o => o.img + 1).getD 0
    cbooth := if o.isSome then u.img + 1 else 0 }

/-- R262, R400: a multicast head. -/
def Plan.headOf (p : Plan) (s : State) (u : QUse) (gen : Nat) : Queue :=
  { Queue.free with
    st := .open_
    prio := u.q.prio
    type := u.q.type
    esize := u.q.esize
    mcast := true
    stage := true
    gen := gen
    job := p.gr.job
    cap := u.q.cap
    flow := u.q.flow
    replay := u.q.replay
    slots := u.q.slots
    pbooth := u.img + 1
    brs := (p.keys u).tail.map (handleAt s) }

/-- R30 step 4, R400: defines the queues. -/
def Plan.defineQueues (p : Plan) (s : State) : State :=
  let s := p.count.foldl (fun s i => (p.rings i).foldl (fun s q =>
    modQueue (p.key q.1) (fun old => p.queueOf q.1 q.2 (nextGen old)) s) s) s
  (p.uses.filter fun u => u.q.out && u.q.brs != []).foldl (fun s u =>
    modQueue (p.key u) (fun old => p.headOf s u (nextGen old)) s) s

/-- R406: the context slots that a booth is granted: the lowest-numbered free ones of its yard. None when too few. -/
def Plan.ctxSlots (p : Plan) (s : State) (i : Nat) : Option (List Nat) :=
  match ctxReq (p.recs i) with
  | none => some []
  | some (n, _) =>
    let y := yardOf (p.first i)
    let free := ((List.range 64).map (64 * y + ·)).filter fun k => !(getSlot s k).grant
    if n ≤ free.length then some (free.take n) else none

/-- R30, R386, R397: the booth of image `i` on its tiles, with its image, before its strands start. -/
def Plan.makeBooth (p : Plan) (slots : List Nat) (i : Nat) (s : State) : State :=
  let rs := p.recs i
  let g := p.grant i
  let syms := p.syms s i
  let s := (g.sites.zip g.tasks).foldl (takeTile p.gr.job (i + 1) g.segs) s
  let s := (slots.zip g.backing).foldl (fun s k =>
    setSlot s k.1 { Slot.none with grant := true, job := p.gr.job, backing := some k.2 }) s
  let b : Booth :=
    { Booth.none with
      name := boothName rs
      tiles := g.sites
      routemask := BitVec.ofNat 64 (boothMask rs)
      version := 1
      decl := declOf rs
      syms := syms
      rxwins := ((windowRecs rs).zip g.windows).filterMap fun w => if w.1.1.rx then some (w.1.1.name, w.2) else none
      slots := slots
      image := g.sites.flatMap (siteImage rs syms slots)
      starts := g.sites.flatMap (siteStarts rs syms) }
  loadImage b (modBooth (bkey p.gr.job (i + 1)) (fun _ => b) s)

/-- The booths, with the context slots of each; none when a yard has too few. -/
def Plan.makeBooths (p : Plan) : List Nat → State → Option State
  | [], s => some s
  | i :: is, s =>
    match p.ctxSlots s i with
    | some sl => Plan.makeBooths p is (p.makeBooth sl i s)
    | none => none

/-- R30: the job and what it may define later. -/
def Plan.makeJob (p : Plan) (s : State) : State :=
  let keys := (p.uses.flatMap p.keys ++ p.gr.qidx).map fun k => (k, 0)
  let s := modJob p.gr.job (fun _ =>
    { Job.none with
      seed := p.r.arg2
      hport := p.r.hport
      hcq := p.r.hcq
      tag := p.r.tag
      fcode := p.d.fcode
      booths := p.count.map (· + 1)
      tiles := p.count.flatMap fun i => (p.grant i).sites
      queues := keys
      futures := p.gr.futures
      pages := p.gr.pages
      devices := (p.gr.remote.map (·.dev)).dedup }) s
  p.gr.futures.foldl (fun s f =>
    let k := 65536 * f.1 + f.2
    setFree f.1 p.gr.job (freeList s f.1 p.gr.job ++ [f.2]) (setFuture s k { getFuture s k with job := p.gr.job })) s

/-- R410: the receive windows become valid once the strands have started; false when a target is not held by the job
or not pinned (R336). -/
def Plan.mapRx (p : Plan) (s : State) : Bool × State :=
  let ws := p.count.flatMap fun i => ((windowRecs (p.recs i)).zip (p.grant i).windows).filterMap fun w =>
    if w.1.1.rx then (p.rxImage s i w.1.1).map fun e => (w.2, e) else none
  (ws.all fun w => !rxForeign s w.2, { s with rxwin := ws.foldl (fun t w => tset t w.1 w.2) s.rxwin })

/-- R409, R410: the transmit windows are pending. -/
def Plan.mapTx (p : Plan) (s : State) : State :=
  let ws := p.count.flatMap fun i => ((windowRecs (p.recs i)).zip (p.grant i).windows).filterMap fun w =>
    if w.1.1.rx then none else some (w.2, w.1.1.peers)
  { s with
    txwin := ws.foldl (fun t w => tset t w.1 (BitVec.ofNat 640 (2 ^ 16 * p.gr.job.toNat))) s.txwin
    pendWin := s.pendWin ++ ws }

/-- R409, R410: pending windows whose receivers are all known become valid, and one that names a new booth without the
window is reported. -/
def lookPending (fresh : List (List Byte)) (s : State) : State :=
  s.pendWin.foldl (fun s w =>
    let seed := (getJob s (txJob (txEntry s w.1))).seed
    let ks := w.2.map (knownWindow s seed)
    if ks.all (·.isSome) then enqueueOnce (.pendingWindowValid w.1 (some (ks.filterMap id))) s
    else if w.2.any fun n => fresh.contains n.1 && knownBooth s seed n.1 && (knownWindow s seed n).isNone then
      enqueueOnce (.pendingWindowValid w.1 none) s
    else s) s

/-! ### START_JOB -/

/-- R30: the steps in order; an error is the class of the first failure. -/
def Plan.run (p : Plan) (s : State) : Except Nat State :=
  match p.mapAll s with
  | none => .ok s
  | some s1 =>
    match p.makeBooths p.count (p.defineQueues (p.mapTx (p.makeJob s1))) with
    | none => .error 1
    | some s2 =>
      let s3 := p.count.foldl (fun s i => startBooth (getBooth s (bkey p.gr.job (i + 1))) s) s2
      let r := p.mapRx s3
      if r.1 then
        let s4 := lookPending (p.d.imgs.map fun m => boothName m.2) r.2
        .ok (setYards ((getJob s4 p.gr.job).tiles.map yardOf) (completeOk p.r (p.gr.job.zeroExtend 64) s4))
      else .error 1

/-- OP 0x01. A grant that does not serve the request is no choice of the stewards, and nothing happens. -/
def startTurn (r : HostReq) (gr : Grants) (s : State) : State :=
  match readDescriptor s r with
  | none => endReq 0 r (completeFail r 11 s)
  | some d =>
    if !descriptorOk s r gr d then endReq 0 r (completeFail r 11 s)
    else if !gr.ok then endReq 0 r (completeFail r (1 + Config.grantClass.val) s)
    else
      let p : Plan := ⟨r, gr, d⟩
      if !p.grantsOk s then s
      else if !p.formatOk s then endReq 0 r (completeFail r 11 s)
      else if !p.pagesOk s ∨ !((p.mapAll s).any (p.tablesOk s)) then s
      else match p.run s with
        | .ok s' => endReq 0 r s'
        | .error c => endReq 0 r (completeFail r c s)

/-- START_JOB (R30, R384, R386). -/
def execStartJob (r : HostReq) (gr : Grants) (s : State) : Res := serve 0 0x01 r s (startTurn r gr)

end Sys2Proof.Machine
end

