-- ==== Sys2Proof/Machine/Sha.lean ====
section
/-!
DEFINITION. SHA-512, and the verification of RSASSA-PSS signatures, which R388 and R391 name: FIPS 180-4 and PKCS#1 v2.2
(log entry 12).
-/

namespace Sys2Proof.Machine

/-! ### SHA-512 (FIPS 180-4) -/

/-- FIPS 180-4: the constants of the 80 rounds, the first 64 bits of the fractional parts of the cube roots of the first 80
primes. -/
def shaK0 : List Word := [
  0x428A2F98D728AE22, 0x7137449123EF65CD, 0xB5C0FBCFEC4D3B2F, 0xE9B5DBA58189DBBC,
  0x3956C25BF348B538, 0x59F111F1B605D019, 0x923F82A4AF194F9B, 0xAB1C5ED5DA6D8118,
  0xD807AA98A3030242, 0x12835B0145706FBE, 0x243185BE4EE4B28C, 0x550C7DC3D5FFB4E2,
  0x72BE5D74F27B896F, 0x80DEB1FE3B1696B1, 0x9BDC06A725C71235, 0xC19BF174CF692694]
def shaK1 : List Word := [
  0xE49B69C19EF14AD2, 0xEFBE4786384F25E3, 0x0FC19DC68B8CD5B5, 0x240CA1CC77AC9C65,
  0x2DE92C6F592B0275, 0x4A7484AA6EA6E483, 0x5CB0A9DCBD41FBD4, 0x76F988DA831153B5,
  0x983E5152EE66DFAB, 0xA831C66D2DB43210, 0xB00327C898FB213F, 0xBF597FC7BEEF0EE4,
  0xC6E00BF33DA88FC2, 0xD5A79147930AA725, 0x06CA6351E003826F, 0x142929670A0E6E70]
def shaK2 : List Word := [
  0x27B70A8546D22FFC, 0x2E1B21385C26C926, 0x4D2C6DFC5AC42AED, 0x53380D139D95B3DF,
  0x650A73548BAF63DE, 0x766A0ABB3C77B2A8, 0x81C2C92E47EDAEE6, 0x92722C851482353B,
  0xA2BFE8A14CF10364, 0xA81A664BBC423001, 0xC24B8B70D0F89791, 0xC76C51A30654BE30,
  0xD192E819D6EF5218, 0xD69906245565A910, 0xF40E35855771202A, 0x106AA07032BBD1B8]
def shaK3 : List Word := [
  0x19A4C116B8D2D0C8, 0x1E376C085141AB53, 0x2748774CDF8EEB99, 0x34B0BCB5E19B48A8,
  0x391C0CB3C5C95A63, 0x4ED8AA4AE3418ACB, 0x5B9CCA4F7763E373, 0x682E6FF3D6B2B8A3,
  0x748F82EE5DEFB2FC, 0x78A5636F43172F60, 0x84C87814A1F0AB72, 0x8CC702081A6439EC,
  0x90BEFFFA23631E28, 0xA4506CEBDE82BDE9, 0xBEF9A3F7B2C67915, 0xC67178F2E372532B]
def shaK4 : List Word := [
  0xCA273ECEEA26619C, 0xD186B8C721C0C207, 0xEADA7DD6CDE0EB1E, 0xF57D4F7FEE6ED178,
  0x06F067AA72176FBA, 0x0A637DC5A2C898A6, 0x113F9804BEF90DAE, 0x1B710B35131C471B,
  0x28DB77F523047D84, 0x32CAAB7B40C72493, 0x3C9EBE0A15C9BEBC, 0x431D67C49C100D4C,
  0x4CC5D4BECB3E42B6, 0x597F299CFC657E2A, 0x5FCB6FAB3AD6FAEC, 0x6C44198C4A475817]
def shaK : List Word := shaK0 ++ shaK1 ++ shaK2 ++ shaK3 ++ shaK4

/-- FIPS 180-4: the first hash value, from the square roots of the first eight primes. -/
def shaStart : List Word := [
  0x6A09E667F3BCC908, 0xBB67AE8584CAA73B, 0x3C6EF372FE94F82B, 0xA54FF53A5F1D36F1,
  0x510E527FADE682D1, 0x9B05688C2B3E6C1F, 0x1F83D9ABFB41BD6B, 0x5BE0CD19137E2179]

def octetsNat (bs : List Byte) : Nat := bs.foldl (fun n b => 256 * n + b.toNat) 0
/-- The `n` bytes of a number, the most significant first. -/
def natOctets (n v : Nat) : List Byte := (List.range n).map fun i => BitVec.ofNat 8 (v / 2 ^ (8 * (n - 1 - i)))

/-- `fuel` pieces of `n` elements each. -/
def pieces {α : Type} (n : Nat) : Nat → List α → List (List α)
  | 0, _ => []
  | fuel + 1, l => l.take n :: pieces n fuel (l.drop n)

/-- The message with its padding, in blocks of 128 bytes. -/
def shaBlocks (m : List Byte) : List (List Byte) :=
  let pad := (239 - m.length % 128) % 128
  let bs := m ++ [0x80] ++ List.replicate pad 0 ++ natOctets 16 (8 * m.length)
  pieces 128 (bs.length / 128) bs

def rotr (n : Nat) (x : Word) : Word := x.rotateRight n
def shaSum0 (x : Word) : Word := rotr 28 x ^^^ rotr 34 x ^^^ rotr 39 x
def shaSum1 (x : Word) : Word := rotr 14 x ^^^ rotr 18 x ^^^ rotr 41 x
def shaMix0 (x : Word) : Word := rotr 1 x ^^^ rotr 8 x ^^^ (x >>> 7)
def shaMix1 (x : Word) : Word := rotr 19 x ^^^ rotr 61 x ^^^ (x >>> 6)

/-- The message schedule of a block, newest word first: 16 words and 64 more. -/
def shaSchedule (block : List Byte) : List Word :=
  let w := ((pieces 8 16 block).map fun b => BitVec.ofNat 64 (octetsNat b)).reverse
  (List.range 64).foldl (fun w _ => (shaMix1 (w.getD 1 0) + w.getD 6 0 + shaMix0 (w.getD 14 0) + w.getD 15 0) :: w) w

/-- One round on the eight working variables. -/
def shaRound (h : List Word) (kw : Word × Word) : List Word :=
  match h with
  | [a, b, c, d, e, f, g, h] =>
    let t1 := h + shaSum1 e + ((e &&& f) ^^^ (~~~e &&& g)) + kw.1 + kw.2
    let t2 := shaSum0 a + ((a &&& b) ^^^ (a &&& c) ^^^ (b &&& c))
    [t1 + t2, a, b, c, d + t1, e, f, g]
  | h => h

def shaBlock (h : List Word) (block : List Byte) : List Word :=
  ((shaK.zip (shaSchedule block).reverse).foldl shaRound h).zipWith (· + ·) h

/-- The digest, 64 bytes. -/
def sha512 (m : List Byte) : List Byte :=
  ((shaBlocks m).foldl shaBlock shaStart).flatMap fun w => natOctets 8 w.toNat

/-! ### RSASSA-PSS with SHA-512, MGF1 with SHA-512 and a 64-byte salt (PKCS#1 v2.2) -/

/-- MGF1: the first `n` bytes of the mask. -/
def mgf1 (seed : List Byte) (n : Nat) : List Byte :=
  ((List.range ((n + 63) / 64)).flatMap fun c => sha512 (seed ++ natOctets 4 c)).take n

/-- The exponent 65,537: sixteen squarings and one product. -/
def rsaPublic (modulus v : Nat) : Nat :=
  (List.range 16).foldl (fun x _ => x * x % modulus) v * v % modulus

/-- EMSA-PSS-VERIFY of an encoded message of 512 bytes, whose top bit is unused. -/
def pssVerify (hash em : List Byte) : Bool :=
  let h := (em.drop 447).take 64
  let db := (em.take 447).zipWith (· ^^^ ·) (mgf1 h 447)
  let db := (db.headD 0 &&& 0x7F) :: db.drop 1
  em.length == 512 && em.getD 511 0 == 0xBC && decide ((em.headD 0).toNat < 128) &&
    db.take 382 == List.replicate 382 0 && db.getD 382 0 == 1 &&
    sha512 (List.replicate 8 0 ++ hash ++ db.drop 383) == h

/-- RSASSA-PSS-VERIFY under a key of 4096 bits; the key's modulus and the signature are 512 bytes each, the most significant
first. -/
def rsaVerify (key sig m : List Byte) : Bool :=
  let n := octetsNat key
  let v := octetsNat sig
  key.length == 512 && sig.length == 512 && decide (2 ^ 4095 ≤ n) && decide (v < n) &&
    pssVerify (sha512 m) (natOctets 512 (rsaPublic n v))

end Sys2Proof.Machine
end

