-- ==== Sys2Proof/Machine/Verify.lean ====
section
/-!
DEFINITION. The firmware slots (R388) and phase VERIFY of boot (R389).
-/

namespace Sys2Proof.Machine

/-! ### A slot (R388): a 4 KiB header, then the image -/

/-- A number of the header. -/
def headerNat (bs : List Byte) : Nat := if Config.headerBigEndian then octetsNat bs else bytesNat bs
def headerField (n : Fin 5) (len : Nat) (bs : List Byte) : List Byte := ((bs.take 4096).drop (Config.headerAt n)).take len

def slotVersion (bs : List Byte) : BitVec 64 := BitVec.ofNat 64 (headerNat (headerField 0 8 bs))
def slotLength (bs : List Byte) : Nat := headerNat (headerField 1 Config.headerLengthBytes bs)
def slotImageBytes (bs : List Byte) : List Byte := (bs.drop 4096).take (slotLength bs)
def slotModulus (bs : List Byte) : List Byte := headerField 3 512 bs

/-- R388: the slot is whole, its key is the one whose digest is fused, the signature over the header bytes that precede it
verifies, and the image has the digest that the header gives. -/
def slotSigned (bs : List Byte) : Bool :=
  decide (4096 + slotLength bs ≤ bs.length) && sha512 (slotModulus bs) == Config.rootHash &&
    rsaVerify (slotModulus bs) (headerField 4 512 bs) (bs.take (Config.headerAt 4)) &&
    sha512 (slotImageBytes bs) == headerField 2 64 bs

/-- R388: the fused minimum, raised by the slots that have reached READY. -/
def minVersion (s : State) : BitVec 64 := if s.minver.toNat < Config.fusedMinimum.toNat then Config.fusedMinimum else s.minver
/-- R388: is a slot valid? -/
def slotOk (s : State) (bs : List Byte) : Bool := slotSigned bs && decide ((minVersion s).toNat ≤ (slotVersion bs).toNat)

/-- R388: the slots in the order in which the boot ROM takes them: the staging slot first after FWACT. -/
def slotOrder (s : State) : List Nat := if s.bootStaged then [2, 0, 1] else [0, 1]
def slotBytes (s : State) (n : Nat) : List Byte := s.flash.toList.getD n []

/-! ### Phase VERIFY (R389) -/

/-- R389: a die fails, and its corner runs nothing more (log entry 58). -/
def failDie (code : Nat) (s : State) (die : Nat) : State :=
  setStrand (modDie die (fun d => { d with phase := .failed, fail := code }) s) (8 * siteAt die 0 0)
    (Strand.blank (8 * siteAt die 0 0))

/-- R389: the corner of a die verifies the slot and places the image's first 16 KiB in its local store; then the die floods.
With no valid slot the die fails: code 1, or 2 where only the version is too low (R380). -/
def verifyDie (die : Nat) (s : State) : State :=
  match (slotOrder s).find? fun n => slotOk s (slotBytes s n) with
  | some n =>
    let bs := slotBytes s n
    let loader := (slotImageBytes bs).take 16384
    modDie die (fun d => { d with phase := .flood })
      { s with
        mem := pokeBytes ((keysFrom (localKey (siteAt die 0 0) 0) loader.length).zip loader) s.mem
        booted := some n
        measured := (s.measured.filter fun m => m.1 != 2) ++ [(2, bs.take (4096 + slotLength bs))] }
  | none => failDie (if (slotOrder s).any fun n => slotSigned (slotBytes s n) then 2 else 1) s die

/-- R389: is a site the corner of a die that has not verified the firmware yet? -/
def verifies (s : State) (site : Nat) : Bool :=
  let p := (getDie s (dieOf site)).phase
  decide (site < 4096) && site % 1024 == 0 && (p == .reset || p == .verify)

/-- R389: the boot ROM of a die's corner enters phase VERIFY, and then ends it. -/
def verifyTurn (die : Nat) (s : State) : State :=
  if (getDie s die).phase = .reset then modDie die (fun d => { d with phase := .verify }) s else verifyDie die s

end Sys2Proof.Machine
end

