-- ==== Sys2Proof/Machine/Requests.lean ====
section
/-!
DEFINITION. The host requests other than a start (R384): kill, host queue grants, the log (R367), firmware and booth
versions (R388, R403). Steward work that the manual describes as one action is one event (log entry 10).
-/

namespace Sys2Proof.Machine

/-! ### The end of a request (R384) -/

/-- The request ends with OK or with a class; the link steward gets no entry (R372). -/
def doneOk (q : Nat) (r : HostReq) (addr : Word) (s : State) : State :=
  endReq q r (if r.port = 2 then s else completeOk r addr s)
def doneFail' (q : Nat) (r : HostReq) (cls : Nat) (s : State) : State :=
  endReq q r (if r.port = 2 then s else completeFail r cls s)

/-- R27, R384: JOB names a job that the device has granted. -/
def jobKnown (s : State) (job : BitVec 16) : Bool := job != 0 && (lookup s.jobs job.toNat).isSome

/-- The sites that the booths of a job hold now. -/
def heldTiles (s : State) (job : BitVec 16) : List Nat := (getJob s job).tiles.filter fun t => (getTile s t).job == job

/-! ### KILL_JOB -/

/-- R291: a queue of a killed job, whose waiting strands are flushed with their booths. -/
def killQueueOf (s : State) (k : Nat) : State :=
  wakeQueue k (modQueue k (fun q => { Queue.free with st := .killed, gen := q.gen, job := q.job }) s)

/-- The booths of a job are flushed; a booth that ends so is not reported complete. -/
def flushJob (job : BitVec 16) (s : State) : State :=
  (getJob s job).booths.foldl (fun s b =>
    let k := bkey job b
    let s := modBooth k (fun b => { b with reported := true, finished := true, staged := [] }) s
    flushBooth k (discardLoom k s)) s

/-- R381: the pager releases the semaphore that it holds, unless another freeze is still in progress. -/
def pagerReleases (s : State) : State := if s.pagerSema then freeSema s else s

/-- OP 0x02: the first part of a kill. A frozen job ends with what a freeze has saved of it, and a freeze of it with the
semaphore that the pager holds for it (R381). -/
def killStart (job : BitVec 16) (s : State) : State :=
  let ks := (s.queues.filter fun p => p.2.job == job && (p.2.st == .open_ || p.2.st == .held)).map (·.1)
  let s := modJob job (fun j => { j with killing := true, frozen := false }) s
  let s := pagerReleases { s with frozen := s.frozen.filter (·.job != job), checkpoint := s.checkpoint.filter (·.job != job) }
  let s := ks.foldl killQueueOf (flushJob job s)
  let cs := (s.carters.filter fun p => p.2.queue.any (·.job == job)).map fun p => Instr.carterChunk p.1
  let us := (s.cellars.filter fun p => p.2.queue.any (·.job == job)).map fun p => Instr.cellarCommandComplete p.1
  let ls := (s.looms.filter fun p => p.2.queues.any fun q => q.2.any (·.job == job)).map fun p => Instr.loomTurn p.1
  { s with internal := s.internal ++ cs ++ us ++ ls }

/-- Accepted commands run to completion, and handed-off stores settle, before the grants are released. -/
def jobBusy (s : State) (job : BitVec 16) : Bool :=
  (s.carters.any fun p => p.2.queue.any (·.job == job)) || (s.cellars.any fun p => p.2.queue.any (·.job == job)) ||
  (s.looms.any fun p => p.2.queues.any fun q => q.2.any (·.job == job)) ||
  (s.pend.any fun p => (getTile s p.e.site).job == job) ||
  s.wstores.any fun w => w.st == 0 && txJob (txEntry s w.win) == job

/-- The tile goes back to the stewards. -/
def freeTile (s : State) (site : Nat) : State :=
  assignBlocks site none (modTile site (fun t =>
    clearReady { t with job := 0, booth := 0, segtab := 0, rqVa := none, rqSpillKib := 64 }) s)

/-- R318, R320: an index of a job that ends is FREE; a handle to it is stale. -/
def freeFuture (s : State) (f : Future) : Future :=
  if f.st = .free then { f with job := 0 }
  else if f.gen = 2047 then { f with st := .free, job := 0, gen := 0, quar := true, since := s.devtime.toNat, wany := false }
  else { f with st := .free, job := 0, gen := f.gen + 1, wany := false }

/-- R30: the waiter nodes of a job that ends are free again, and instructions of other jobs may take them (log entry 77). -/
def freeNodes (job : BitVec 16) (s : State) : State :=
  let fs := (s.futures.filter fun p => p.2.job == job && p.2.wany).map (·.1)
  let s' := dropNodes (fs.flatMap fun k => (waitersOf s k).map (·.1)) s
  fs.foldl (fun s k => enqueueOnce (.waiterNodeFree (k / 65536)) s) s'

/-- R30: releases every grant of a job. -/
def releaseJob (job : BitVec 16) (s : State) : State :=
  let ts := heldTiles s job
  let qs := (s.queues.filter fun p => p.2.job == job && p.2.st != .free).map (·.1)
  let tx := (s.txwin.filter fun w => txJob w.2 == job).map (·.1)
  let rx := (s.rxwin.filter fun w => rxJob w.2 == job).map (·.1)
  let s := freeNodes job (qs.foldl (fun s k => releaseQueue k s) (ts.foldl freeTile s))
  let s := rx.foldl (fun s w => clearRx w s) (tx.foldl (fun s w => clearTx w s) s)
  let s := [0, 1, 2, 3].foldl (fun s d => modDie d (fun x => { x with ltlb := x.ltlb.filter (·.job != job) }) s) s
  dropTransit ts { s with
    futures := s.futures.map fun p => if p.2.job = job then (p.1, freeFuture s p.2) else p
    freeFut := s.freeFut.filter fun p => p.1 % 65536 != job.toNat
    roots := s.roots.filter fun p => p.1 % 65536 != job.toNat
    tlbs := s.tlbs.map fun p => (p.1, p.2.filter (·.job != job))
    pendWin := s.pendWin.filter fun w => !tx.contains w.1
    slots := s.slots.filter fun p => p.2.job != job
    booths := s.booths.filter fun p => p.1 / 65536 != job.toNat
    jobs := terase s.jobs job.toNat }

/-- OP 0x02. -/
def killTurn (r : HostReq) (s : State) : State :=
  if !jobKnown s r.job then doneFail' 0 r 1 s
  else
    let s := if (getJob s r.job).killing then s else killStart r.job s
    if jobBusy s r.job then enqueue (.killJob r) s
    else
      let ys := (getJob s r.job).tiles.map yardOf
      doneOk 0 r 0 (setYards ys (releaseJob r.job s))

/-- KILL_JOB (R384). -/
def execKillJob (r : HostReq) (s : State) : Res := serve 0 0x02 r s (killTurn r)

/-! ### GRANT_HOST_QUEUE -/

/-- OP 0x06. -/
def grantTurn (r : HostReq) (s : State) : State :=
  let h := r.arg0.extractLsb' 0 32
  let q := getQueue s (qkeyOf h)
  if !jobKnown s r.job ∨ (handleFail s r.job h).isSome ∨ q.st ≠ .open_ ∨ q.pbooth ≠ 0 then doneFail' 2 r 1 s
  else if entryBytes q ≠ 64 then doneFail' 2 r 11 s
  else doneOk 2 r (h.zeroExtend 64) (modJob r.job (fun j => { j with hostq := j.hostq ++ [h] }) s)

/-- GRANT_HOST_QUEUE (R384). -/
def execGrantHostQueue (r : HostReq) (s : State) : Res := serve 2 0x06 r s (grantTurn r)

/-! ### READ_LOG, READ_LOG_COUNT (R367) -/

/-- R367: the records from number `first` on, `count` numbers, that the log of a die still holds. -/
def logRange (d : Die) (first count : Nat) : List (BitVec 512) :=
  let base := d.logged + 2 ^ 64 - d.log.length
  (d.log.zipIdx.filter fun p => decide ((base + p.2 + 2 ^ 64 - first) % 2 ^ 64 < count)).map (·.1)

/-- Writes records one after another to host memory. -/
def copyRecords (addr : Nat) (rs : List (BitVec 512)) (s : State) : State :=
  rs.zipIdx.foldl (fun s p => writeNat ((List.range 64).map fun i => hostKey (addr + 64 * p.2 + i)) p.1.toNat s) s

/-- OP 0x07. -/
def readLogTurn (r : HostReq) (s : State) : State :=
  let rs := logRange (getDie s (fld r.arg1 32 2)) r.arg0.toNat (fld r.arg1 0 32)
  doneOk 3 r (BitVec.ofNat 64 rs.length) (copyRecords r.arg2.toNat rs s)

/-- READ_LOG (R367, R384). -/
def execReadLog (r : HostReq) (s : State) : Res := serve 3 0x07 r s (readLogTurn r)

/-- READ_LOG_COUNT (R367, R384). -/
def execReadLogCount (r : HostReq) (s : State) : Res :=
  serve 3 0x0A r s fun s => doneOk 3 r (BitVec.ofNat 64 (getDie s (fld r.arg0 0 2)).logged) s

/-! ### STAGE_FIRMWARE (R381, R388) -/

/-- OP 0x08: what is staged is verified before it is written. -/
def stageFirmwareTurn (r : HostReq) (s : State) : State :=
  if !holdsSema s r.port then doneFail' 0 r 1 s
  else
    let bs := readKeys s ((List.range r.arg1.toNat).map fun i => hostKey (r.arg0.toNat + i))
    let s := freeSema s
    if slotOk s bs then doneOk 0 r 0 { s with flash := s.flash.set 2 bs }
    else doneFail' 0 r (1 + Config.firmwareClass.val) s

/-- STAGE_FIRMWARE (R381, R384, R388): the stewards hold the semaphore from acceptance to completion. -/
def execStageFirmware (r : HostReq) (s : State) : Res := serve 0 0x08 r s (stageFirmwareTurn r)

/-! ### STAGE_VERSION (R285, R403, R404) -/

/-- R263: the bytes of a queue's ring with its kinds. -/
def ringSpan (q : Queue) : Nat := q.slots * entryBytes q + (q.slots + 3) / 4

/-- R263, R401: the rings of a job: local-store key of the first byte, and length. -/
def jobRings (job : BitVec 16) (s : State) : List (Nat × Nat) :=
  (s.queues.filter fun p => p.2.job == job && (p.2.st == .open_ || p.2.st == .held) && p.2.slots != 0 && !p.2.mcast).map fun p =>
    (p.2.ring, ringSpan p.2)

/-- R76, R403: the values of a new version's symbols: those of the same queues and windows of the running booth. -/
def versionSyms (b : Booth) (rs : List Rec) : List Word :=
  ((declOf rs).drop 2).map fun d => ((((b.decl.drop 2).zip b.syms).find? fun x => x.1 == d).map (·.2)).getD 0

/-- R402: does an extent agree with the pages that the job has been granted there? -/
def grantAgrees (s : State) (die : Nat) (job : BitVec 16) (e : Nat × Nat × GRec × BitVec 128) : Bool :=
  (getJob s job).pages.all fun g => !overlap e.1 e.2.1 g.va (pageBytes g) ||
    (g.size == e.2.2.1.pageCode && match jobLeaf s die job g.va with
      | some l => fld l.2.1 4 2 == e.2.2.1.kind && l.2.1.getLsbD 6 == e.2.2.1.nb && l.2.1.getLsbD 7 == e.2.2.1.pin
      | none => true)

/-- R81, R263, R371, R401, R402: does the image of a new version keep the rules that depend on its booth and job? -/
def versionFits (bk : Nat) (rs : List Rec) (s : State) : Bool :=
  let b := getBooth s bk
  let job := BitVec.ofNat 16 (bk / 65536)
  let syms := versionSyms b rs
  let es := (segRecs rs).filterMap fun g =>
    let v := g.value syms
    if isVirt v then some ((segBase v).toNat, segLimit v, g, v) else none
  (segRecs rs).all (fun g => g.ok syms && reservedOk (g.value syms)) && extentsAgree es &&
  es.all (grantAgrees s (dieOf (b.tiles.headD 0)) job) &&
  (jobRings job s).all fun r =>
    (!b.tiles.contains (keySite r.1) || (imageRuns rs).all fun x => !overlap x.1 x.2 (keyOff r.1) r.2) &&
    b.tiles.all fun site => (segRecs rs).all fun g => segClear s site (keySite r.1) (keyOff r.1) r.2 (g.value syms)

/-- R285: the loader owes each input queue of a booth a SHUTTER, placed at the next edge of the queue's producer; a
multicast branch gets it through its head, and a queue without a producing booth at once. -/
def oweShutters (bk tag : Nat) (s : State) : State :=
  let ks := (s.queues.filter fun p => isInput bk p.2).map (·.1)
  let heads := ks.map fun k =>
    if (getQueue s k).branch then
      ((s.queues.find? fun p => p.2.mcast && p.2.brs.any fun h => qkeyOf h == k).map (·.1)).getD k
    else k
  heads.dedup.foldl (fun s k =>
    placeOwed k (modQueue k (fun q =>
      if q.owed.any fun o => o.1 == bk % 65536 && o.2.1 == tag then q
      else { q with owed := q.owed ++ [(bk % 65536, tag, q.pbooth == 0)] }) s)) s

/-- R403: the version that a request stages. -/
def stagedOf (bk tag : Nat) (rs : List Rec) (r : HostReq) (s : State) : Staged :=
  let b := getBooth s bk
  let syms := versionSyms b rs
  { tag := tag
    image := b.tiles.flatMap (siteImage rs syms b.slots)
    starts := b.tiles.flatMap (siteStarts rs syms)
    route := BitVec.ofNat 64 (boothMask rs)
    hport := r.hport
    hcq := r.hcq
    rtag := r.tag }

/-- R403: an older request for the same booth and tag completes with ACCESS. -/
def replaceStaged (bk tag : Nat) (s : State) : State :=
  let olds := (getBooth s bk).staged.filter fun v => v.tag == tag
  let s := modBooth bk (fun b => { b with staged := b.staged.filter fun v => v.tag != tag }) s
  olds.foldl (fun s v => hcqPut v.hport v.hcq
    (mkEntry s 1 4 (stewardUnit s 0 4) 0 v.rtag (Config.refusedAddr 0x09) (Config.requestAux 0x09)) s) s

/-- OP 0x09 for a booth that may take a version: the image is kept, and installed at once in a booth that waits for it. -/
def keepVersion (bk tag : Nat) (place : Bool) (rs : List Rec) (r : HostReq) (s : State) : State :=
  let s := replaceStaged bk tag s
  let s := modBooth bk (fun b => { b with staged := b.staged ++ [stagedOf bk tag rs r s] }) s
  let b := getBooth s bk
  let s := if b.halted then (if b.haltTag = tag then installVersion bk s else s)
    else if place then oweShutters bk tag s else s
  endReq 0 r s

/-- OP 0x09. `place` says that the loader places the SHUTTERs itself (R285). -/
def stageVersionTurn (r : HostReq) (place : Bool) (s : State) : State :=
  let bk := bkey r.job (fld r.arg2 0 16)
  let tag := fld r.arg2 16 16
  let b := getBooth s bk
  if !jobKnown s r.job ∨ b.tiles = [] ∨ b.finished then doneFail' 0 r 1 s
  else if (getJob s r.job).frozen then enqueue (.stageVersion r place) s
  else match parseImage (readKeys s ((List.range r.arg1.toNat).map fun i => hostKey (r.arg0.toNat + i))) with
    | none => doneFail' 0 r 11 s
    | some rs =>
      if !imageOk rs ∨ !(declOf rs).isPerm b.decl ∨ tag = 0 ∨ tag = b.version ∨ !versionFits bk rs s then doneFail' 0 r 11 s
      else keepVersion bk tag place rs r s

/-- STAGE_VERSION (R384, R403, R404). -/
def execStageVersion (r : HostReq) (place : Bool) (s : State) : Res := serve 0 0x09 r s (stageVersionTurn r place)

end Sys2Proof.Machine
end

