-- ==== Sys2Proof/Machine/Freeze.lean ====
section
/-!
DEFINITION. The reserve strand's urgent line (R371), urgent freeze, resumption, checkpoints (R369 to R375), and the failure
of a device of the domain.
-/

namespace Sys2Proof.Machine

/-! ### The urgent line (R371) -/

def urgentKey (site : Nat) : Nat := localKey site 0x3DFC0
/-- A steward writes KIND and JOB into the urgent line. -/
def writeUrgent (kind : Nat) (job : BitVec 16) (s : State) (site : Nat) : State :=
  writeNat (keysFrom (urgentKey site) 8) (kind + 2 ^ 16 * job.toNat) s

/-- URGENT_RUN (R371): the reserve strand takes a RUN request from the line and starts the urgent code, at the multiple of 4
in ENTRY (log entry 76); KIND is then 0 again (log entry 105). -/
def execUrgentRun (site : Nat) (s : State) : Res :=
  let w := BitVec.ofNat 128 (readNat s (keysFrom (urgentKey site) 16))
  if fld w 0 4 = 2 ∧ isGood s site then
    let s := writeNat (keysFrom (urgentKey site) 1) ((readByte s (urgentKey site)).toNat / 16 * 16) s
    .next (startStrand ⟨site, 7⟩ (offsetBits (BitVec.ofNat 64 (fld w 32 18))) (w.extractLsb' 64 64) false [] [] s)
  else .next s

/-! ### Stopping (R369, R370) -/

/-- R384: the jobs that a request names. -/
def namedJobs (r : HostReq) (s : State) : List (BitVec 16) :=
  if r.job = 0 then s.jobs.map fun j => BitVec.ofNat 16 j.1 else if jobKnown s r.job then [r.job] else []

/-- The keys of the strands 0 to 6 of some tiles. -/
def userStrands (ts : List Nat) : List Nat := ts.flatMap fun t => (List.range 7).map fun k => 8 * t + k

/-- R370: an instruction that only waits is abandoned: it issues again after resumption. So is an access that waits for those
before it, which wait for a link (R162). -/
def abandon (t : Strand) : Strand :=
  let t := match t.flight with
    | some .pause | some (.acceptC ..) | some (.acceptL ..) | some (.ctx _) | some (.held _) => { t with flight := none }
    | _ => t
  match t.wait with
  | some ⟨.accept _ _, _, _, _⟩ => { t with run := .run, wait := none }
  | _ => t

/-- R370: a synchronous loom instruction that the loom has not reached leaves its tile queue. -/
def unreached (c : LoomCmd) : Bool := isSync c.instr && !c.started && c.e.k != 7
def abandonLoom (ts : List Nat) (s : State) : State :=
  let es := s.looms.flatMap fun p => p.2.queues.flatMap fun q =>
    (q.2.filter fun c => unreached c && ts.contains c.e.site).map fun c => skey c.e
  let s := es.foldl (fun s k => modStrand k (fun t => { t with flight := none }) s) s
  { s with looms := s.looms.map fun (p : Nat × Loom) => (p.1, { p.2 with
      queues := p.2.queues.map fun (q : Nat × List LoomCmd) =>
        (q.1, q.2.filter fun c => !(unreached c && ts.contains c.e.site)) }) }

def abandonAll (ts : List Nat) (s : State) : State :=
  let ks := userStrands ts
  abandonLoom ts { s with strands := s.strands.map fun p => if ks.contains p.1 then (p.1, abandon p.2) else p }

/-- R369: is an engine between two of its stopping points with a command of one of these jobs: a carter in a chunk, a cellar
unit or a loom before the lines of its row or drain? -/
def betweenStops (js : List (BitVec 16)) (s : State) : Bool :=
  unwritten js s ||
  s.carters.any fun p => !p.2.stalled && p.2.chunk + p.2.chunk2 != 0 && p.2.queue.head?.any fun c => js.contains c.job

/-- R370, R373: has the strand a result on its way to an output port whose queue is HELD? It is saved so (log entry 7). -/
def pushHeld (s : State) (t : Strand) : Bool :=
  match t.flight with
  | some (.push n _) =>
    (match t.ports.toList.getD (2 + n.val) none with
      | some b =>
        let q := getQueue s (qkeyOf b.handle)
        q.st == .held || q.brs.any fun h => (getQueue s (qkeyOf h)).st == .held
      | none => false)
  | _ => false

/-- R372 steps 2 and 4: an instruction in flight, an access handed off, a record in transit, an engine that has not
reached its stopping point, or an unsettled store. -/
def stopping (js : List (BitVec 16)) (ts : List Nat) (s : State) : Bool :=
  ((userStrands ts).any fun k => (getStrand s k).flight.isSome && !pushHeld s (getStrand s k)) ||
  (s.pend.any fun p => ts.contains p.e.site) ||
  betweenStops js s || (s.wstores.any fun w => w.st == 0 && js.contains (txJob (txEntry s w.win))) ||
  s.internal.any (inTransit ts)

/-! ### What a freeze saves (R373) -/

/-- R167: the HBM that a leaf maps, as ranges; a host page and a page of the tile map, which is the stewards', have none. -/
def leafRegions (s : State) (e : Word) (lg : Nat) : List (Nat × Nat) :=
  let frame := fld e 12 40 * 4096
  if isHostPa frame ∨ s.tileMap.contains frame then []
  else if lg ≤ 21 then [(frame, 2 ^ lg)]
  else (List.range (2 ^ (lg - 21))).map fun k => (leafPa e lg (2 ^ 21 * k), 2 ^ 21)

/-- R164, R166: the ranges of HBM that a page table and the tables and pages below it hold. -/
def tableRegions (s : State) : List (Nat × Nat × Nat) → Nat → List (Nat × Nat)
  | [], _ => []
  | (level, lo, w) :: rest, t =>
    (t, 8 * 2 ^ w) :: (List.range (2 ^ w)).flatMap fun i =>
      let e : Word := BitVec.ofNat 64 (readNat s (keysFrom (t + 8 * i) 8))
      if !e.getLsbD 0 ∨ pteMalformed level lo e then []
      else if e.getLsbD 1 then leafRegions s e lo
      else tableRegions s rest (fld e 7 45 * 128)

/-- R341, R373: the root tables of a job, and the HBM that its page tables, its pages and the backing of its context slots
take, as they stand now. -/
def jobRoots (s : State) (job : BitVec 16) : Tab Nat := s.roots.filter fun p => p.1 % 65536 == job.toNat
def jobRegions (s : State) (job : BitVec 16) : List (Nat × Nat) :=
  ((jobRoots s job).flatMap fun p => tableRegions s walkLevels p.2).dedup ++
    (s.slots.filter fun p => p.2.job == job).filterMap fun p => p.2.backing.map fun b => (b, 4096)

/-- Is a byte one of the job's local store or HBM? The urgent lines are the stewards'. -/
def savedKey (ts : List Nat) (rs : List (Nat × Nat)) (k : Nat) : Bool :=
  if isLocalKey k then
    ts.contains (keySite k) && !(decide (0x3DFC0 ≤ keyOff k) && decide (keyOff k < 0x3E000))
  else rs.any fun r => decide (r.1 ≤ k) && decide (k < r.1 + r.2)

/-- The commands of a job in a carter: the progress is the job's when its command runs. -/
def carterPart (job : BitVec 16) (c : Carter) : Carter :=
  let own := match c.queue with | h :: _ => h.job == job | [] => false
  if own then { c with queue := c.queue.filter (·.job == job) }
  else { Carter.idle with queue := c.queue.filter (·.job == job) }
def carterRest (job : BitVec 16) (c : Carter) : Carter :=
  let own := match c.queue with | h :: _ => h.job == job | [] => false
  let c' := if own then Carter.idle else c
  { c' with queue := c.queue.filter (·.job != job), done := c.done }

def cellarPart (job : BitVec 16) (c : Cellar) : Cellar :=
  let own := match c.queue with | h :: _ => h.job == job | [] => false
  { if own then c else Cellar.idle with queue := c.queue.filter (·.job == job) }
def cellarRest (job : BitVec 16) (c : Cellar) : Cellar :=
  let own := match c.queue with | h :: _ => h.job == job | [] => false
  { if own then Cellar.idle else c with queue := c.queue.filter (·.job != job) }

/-- The in-yard indices that the job's tiles have in a yard. -/
def yardTiles (ts : List Nat) (y : Nat) : List Nat := (ts.filter fun t => yardOf t == y).map inYard
def ofJob (job : BitVec 16) (b : Block) : Bool := match b.booth with | some k => k.1 == job | none => false
def loomPart (job : BitVec 16) (ts : List Nat) (y : Nat) (l : Loom) : Loom :=
  let is := yardTiles ts y
  { l with
    blocks := l.blocks.filter fun b => ofJob job b.2
    queues := l.queues.filter fun q => is.contains q.1
    ctxs := l.ctxs.filter fun c => is.contains c.1
    pushing := l.pushing.filter fun p => is.contains p.1
    lines := l.lines.filter fun p => is.contains p.1 }
def loomRest (job : BitVec 16) (ts : List Nat) (y : Nat) (l : Loom) : Loom :=
  let is := yardTiles ts y
  { l with
    blocks := l.blocks.filter fun b => !ofJob job b.2
    queues := l.queues.filter fun q => !is.contains q.1
    ctxs := l.ctxs.filter fun c => !is.contains c.1
    pushing := l.pushing.filter fun p => !is.contains p.1
    lines := l.lines.filter fun p => !is.contains p.1 }

/-- R317, R373: the waiter nodes of the job's futures. -/
def jobNodes (s : State) (job : BitVec 16) : Tab Node :=
  (s.futures.filter fun p => p.2.job == job).flatMap fun p => waitersOf s p.1

/-- R373: the image of a frozen job; `bytes` is what its freeze writes to host memory. -/
def saveJob (bytes : Nat) (s : State) (job : BitVec 16) : Saved :=
  let ts := heldTiles s job
  let ks := userStrands ts
  let rs := jobRegions s job
  let keep := savedKey ts rs
  let mine (w : Nat) : Bool := txJob (txEntry s w) == job
  { job := job
    device := s.device
    entry := getJob s job
    regions := rs
    roots := jobRoots s job
    pool := jobNodes s job
    pathS := (s.pathS.filter fun p => mine p.1.win).map fun p => (p.1, { p.2 with held := [], queued := [] })
    pathR := s.pathR
    wstores := s.wstores.filter fun w => mine w.win
    strands := ks.map fun k => (k, saveStrand (getStrand s k))
    ctxs := liveImages ks s
    tiles := ts.map fun t => (t, getTile s t)
    mem := s.mem.filter fun c => keep c.1
    poison := s.poison.filter keep
    looms := (ts.map yardOf).dedup.map fun y => (y, loomPart job ts y (getLoom s y))
    carters := (s.carters.filter fun p => p.2.queue.any (·.job == job)).map fun p => (p.1, carterPart job p.2)
    cellars := (s.cellars.filter fun p => p.2.queue.any (·.job == job)).map fun p => (p.1, cellarPart job p.2)
    queues := s.queues.filter fun p => p.2.job == job
    futures := s.futures.filter fun p => p.2.job == job
    slots := s.slots.filter fun p => p.2.job == job
    tx := s.txwin.filter fun w => txJob w.2 == job
    rx := s.rxwin.filter fun w => rxJob w.2 == job
    booths := s.booths.filter fun p => p.1 / 65536 == job.toNat
    free := s.freeFut.filter fun p => p.1 % 65536 == job.toNat
    bytes := bytes }

/-- The engines that may go on. -/
def wakeUnits (s : State) : State :=
  let cs := (s.carters.filter fun p => p.2.queue != []).map fun p =>
    if p.2.cls.isSome then Instr.carterCommandComplete p.1 else Instr.carterChunk p.1
  let us := (s.cellars.filter fun p => p.2.queue != []).map fun p => Instr.cellarCommandComplete p.1
  let ls := s.looms.flatMap fun p =>
    Instr.loomTurn p.1 :: p.2.pushing.map fun w => Instr.loomCommandComplete p.1 w.1
  wakeEngine { s with internal := s.internal ++ cs ++ us ++ ls }

/-- R372 step 6: the tiles, looms and engines go to urgent work; the strands are PARKED, the queues HELD. -/
def parkTile (s : State) (site : Nat) : State :=
  let ks := userStrands [site]
  freeTile (ks.foldl (fun s k => if (getStrand s k).run = .off then s
    else setStrand s k { Strand.blank k with run := .parked }) s) site
def parkJob (s : State) (job : BitVec 16) : State :=
  let ts := heldTiles s job
  let s := { s with
    looms := s.looms.map fun p => (p.1, loomRest job ts p.1 p.2)
    carters := s.carters.map fun p => (p.1, carterRest job p.2)
    cellars := s.cellars.map fun p => (p.1, cellarRest job p.2)
    slots := s.slots.map fun p => if p.2.job = job then (p.1, { p.2 with full := false, ctx := none }) else p
    queues := s.queues.map fun p =>
      if p.2.job = job ∧ p.2.st = .open_ then (p.1, { p.2 with st := .held }) else p }
  wakeUnits (ts.foldl parkTile s)

/-! ### URGENT_FREEZE (R372) -/

/-- R372: the link steward forwards a host's request to the other devices that a job spans. -/
def forwardFreeze (r : HostReq) (js : List (BitVec 16)) (s : State) : State :=
  if r.port = 2 then s
  else (s.domain.filter (· != s.device)).foldl (fun s d =>
    ((js.filter (spansDevice s d)).map fun j => (getJob s j).seed).dedup.foldl (fun s v => emit (.forward d v r.op) s) s) s

/-- Step 1: FREEZE in the urgent lines, and the engines hold at their next stopping point. -/
def startFreeze (r : HostReq) (js : List (BitVec 16)) (s : State) : State :=
  let s := js.foldl (fun s j => (heldTiles s j).foldl (writeUrgent 1 r.job) s) s
  forwardFreeze r js (js.foldl (fun s j => modJob j (fun x => { x with frozen := true }) s) s)

/-- R381: the pager takes the semaphore when it is free; it releases it when the freeze completes (`pagerReleases`). -/
def pagerTakes (s : State) : State := if s.sema = 0 then { s with sema := 3, pagerSema := true } else s

/-- R372, R384: the bytes that freeze `n` writes to the freeze area of its request. -/
def freezeArea (r : HostReq) (n : Nat) : List Byte := (Config.freezeImage n).take r.arg1.toNat

/-- Steps 3, 5 and 6: the context slots go to their backing (R341), the saved state to host memory, and the jobs' tiles to
urgent work. -/
def writeFreeze (r : HostReq) (js : List (BitVec 16)) (s : State) : State :=
  let bs := freezeArea r s.fresh
  let s := backSlots (fun _ v => js.contains v.job) { s with fresh := s.fresh + 1 }
  let vs := js.map (saveJob bs.length s)
  let s := js.foldl parkJob { s with frozen := s.frozen ++ vs }
  let s := writeBytes ((bs.zipIdx).map fun b => (hostKey (r.arg0.toNat + b.2), b.1)) s
  pagerReleases (logTo 0 [mkLog s 0x0D 0 r.job 0 (stewardUnit s 0 1) 0 (Config.recordAddr 0x0D 0) (BitVec.ofNat 64 js.length)
    (BitVec.ofNat 192 bs.length)] s)

/-- R372: has a freeze saved the job already? -/
def isSaved (s : State) (job : BitVec 16) : Bool := s.frozen.any fun v => v.job == job

/-- The bytes that the latest freeze of these jobs wrote; a request that names no job writes none. -/
def freezeCount (s : State) (js : List (BitVec 16)) : Word :=
  BitVec.ofNat 64 (((s.frozen.reverse.find? fun v => js.contains v.job).map (·.bytes)).getD 0)

/-- One look of the pager at a freeze that is due; `i` is looked at again while something still stops or no link is up for
step 5 (R162). None when it is not complete. -/
def freezeTurn (i : Instr) (r : HostReq) (s : State) : Option State × State :=
  let js := namedJobs r s
  let due := js.filter fun j => !isSaved s j
  if due = [] then (some s, s)
  else
    let s := if due.all fun j => (getJob s j).frozen then s else startFreeze r due s
    let ts := due.flatMap (heldTiles s)
    let s := pagerTakes (abandonAll ts s)
    if stopping due ts s ∨ hostDown s then (none, enqueue i s) else
      let s := writeFreeze r due s
      (some s, s)

/-- OP 0x03. -/
def freezeReq (r : HostReq) (s : State) : State :=
  if r.job ≠ 0 ∧ !jobKnown s r.job then doneFail' 1 r 1 s
  else match freezeTurn (.urgentFreeze r) r s with
    | (some s, _) => doneOk 1 r (freezeCount s (namedJobs r s)) s
    | (none, s) => s

/-- URGENT_FREEZE (R372, R384). -/
def execUrgentFreeze (r : HostReq) (s : State) : Res := serve 1 0x03 r s (freezeReq r)

/-! ### Resumption (R374) -/

/-- R339: an RFENCE that was saved waits for the stores listed now, all of its job settled (R372). -/
def resumeWait (s : State) (w : Wait) : Wait :=
  { w with
    ticket := s.ticket
    next := match w.obj with | .rfence _ => s.wstores.length | _ => w.next }

/-- R374: a saved strand goes on in its saved state; `wake` is a wake that came while it was frozen. -/
def resumeStrand (key : Nat) (t : Strand) (wake : Bool) (s : State) : State :=
  let e := srefOf key
  let cur := s.cur
  let put (t : Strand) : State := setStrand { s with ticket := s.ticket + 1 } key { t with
    wait := t.wait.map (resumeWait s)
    readyAt := (getTile s e.site).cycle + 1
    wakeDue := t.wakeDue || wake }
  match t.run with
  | .off => setStrand s key t
  | .parked =>
    let s := setStrand s key t
    if wake then asStrand cur (wakeParked e s) else s
  | _ =>
    let s := wakeWait e (asStrand cur (lostWait e (reissuePaged e (put t))))
    let s := asStrand cur s
    match (getStrand s key).wait with
    | some w => { s with internal := s.internal ++ lookAgain e w }
    | none => s

/-- R373, R374: a tile takes back what was saved of it. Its place and number, CYCLE, snapshots and what it holds for the pager
are its own. -/
def resumeTile (s : State) (p : Nat × Tile) : State :=
  modTile p.1 (fun t => { p.2 with
    tx := t.tx, ty := t.ty, logical := t.logical, cycle := t.cycle, snaps := t.snaps, heldFaults := t.heldFaults, last := t.last }) s

/-- Has a cellar unit begun its oldest command? -/
def cellarBegun (c : Cellar) : Bool := c.entry.isSome || c.pas.isSome
def resumeCarter (s : State) (p : Nat × Carter) : State :=
  modCarter p.1 (fun c =>
    if p.2.started ∨ p.2.cls.isSome then { p.2 with queue := p.2.queue ++ c.queue, stalled := false, done := c.done }
    else { c with queue := c.queue ++ p.2.queue }) s
def resumeCellar (s : State) (p : Nat × Cellar) : State :=
  modCellar p.1 (fun c => if cellarBegun p.2 then { p.2 with queue := p.2.queue ++ c.queue }
    else { c with queue := c.queue ++ p.2.queue }) s
def resumeLoom (s : State) (p : Nat × Loom) : State :=
  modLoom p.1 (fun l =>
    { l with
      blocks := p.2.blocks.foldl (fun t b => tset t b.1 b.2) l.blocks
      queues := p.2.queues.foldl (fun t q => tset t q.1 (q.2.map fun c => { c with stalled := false })) l.queues
      ctxs := p.2.ctxs.foldl (fun t c => tset t c.1 c.2) l.ctxs
      pushing := l.pushing ++ p.2.pushing
      lines := p.2.lines.foldl (fun t c => tset t c.1 c.2) l.lines
      serial := max l.serial p.2.serial
      gen := if l.gen.toNat < p.2.gen.toNat then p.2.gen else l.gen }) s

/-- R374: may the engines take back commands that they had begun? -/
def enginesFree (v : Saved) (s : State) : Bool :=
  (v.carters.all fun p => !(p.2.started || p.2.cls.isSome) || (getCarter s p.1).queue == []) &&
  v.cellars.all fun p => !cellarBegun p.2 || !cellarBegun (getCellar s p.1)

/-- R372, R374: are the tiles and the memory of a saved job free to take it back? -/
def tilesFree (v : Saved) (s : State) : Bool :=
  (v.tiles.all fun p => isGood s p.1 && (getTile s p.1).job == 0 && (getTile s p.1).booth == 0) &&
  clearFrames v.regions (heldFrames { s with jobs := terase s.jobs v.job.toNat })

/-- The monitored lines of the device. -/
def armedLines (s : State) : List Nat := s.strands.flatMap fun p => p.2.mons.toList.filterMap (·.line)

/-- R169: no TLB entry of a job is left. -/
def dropJobTlb (job : BitVec 16) (s : State) : State :=
  let s := { s with tlbs := s.tlbs.map fun p => (p.1, p.2.filter (·.job != job)) }
  [0, 1, 2, 3].foldl (fun s d => modDie d (fun x => { x with ltlb := x.ltlb.filter (·.job != job) }) s) s

/-- The bytes of an image: every byte that the image covers is as it was saved, and the monitors on these lines touch
(R351). -/
def restoreBytes (v : Saved) (s : State) : State :=
  let keep := savedKey (v.tiles.map (·.1)) v.regions
  let old := (s.mem.filter fun c => keep c.1).map fun c => (c.1, memDefault c.1)
  touch ((armedLines s).filter keep)
    { s with
      mem := pokeBytes v.mem (pokeBytes old s.mem)
      poison := (s.poison.filter fun w => !keep w) ++ v.poison
      olds := s.olds.filter fun o => !keep o.key }

/-- R284, R286, R378: a recovery that a freeze suspended, and the pairs of merge queues, go on. -/
def resumeEvents (v : Saved) (s : State) : State :=
  let s := (v.booths.filter fun b => b.2.recovering).foldl (fun s b =>
    enqueueOnce (.boothRecovery (b.1 / 65536) (b.1 % 65536)) s) s
  (v.queues.filter fun q => q.2.twin && (oldestPair q.2).isSome).foldl (fun s q => enqueueOnce (.twinCompare q.1) s) s

/-- R374 step 1 to 4 for one job. The contexts of strands and slots are read from their images (R95, R341). -/
def restoreJob (s : State) (v : Saved) : State :=
  let s := v.tiles.foldl resumeTile (dropJobTlb v.job (restoreBytes v s))
  let s := { s with
    queues := v.queues.foldl (fun t q => tset t q.1 q.2) s.queues
    slots := v.slots.foldl (fun t q => tset t q.1 q.2) s.slots
    booths := s.booths.map fun b => if b.1 / 65536 = v.job.toNat then (b.1, { b.2 with watch := 0 }) else b }
  let s := v.cellars.foldl resumeCellar (v.carters.foldl resumeCarter (v.looms.foldl resumeLoom s))
  let s := readSlots (fun _ x => x.job == v.job) (modJob v.job (fun j => { j with frozen := false }) s)
  let s := v.strands.foldl (fun s p =>
    let t := match lookup v.ctxs p.1 with | some bs => ctxRead bs p.2 | none => p.2
    resumeStrand p.1 t (getStrand s p.1).wakeDue s) s
  resumeEvents v (v.tiles.foldl (fun s t => writeUrgent 3 v.job s t.1) s)

/-- R374: RESUME, and everything that was held goes on. -/
def resumeSaved (vs : List Saved) (s : State) : State :=
  let s := vs.foldl restoreJob s
  let s := { s with frozen := s.frozen.filter fun v => !vs.any fun w => w.job == v.job }
  wakeUnits (vs.foldl (fun s v => v.queues.foldl (fun s q => wakeQueue q.1 s) s) s)

/-- R368: the RESUME record. -/
def resumeLog (r : HostReq) (n : Nat) (s : State) : State :=
  logTo 0 [mkLog s 0x0E 0 r.job 0 (stewardUnit s 0 1) 0 (Config.recordAddr 0x0E 0) (BitVec.ofNat 64 n) 0] s

/-- OP 0x04. A job whose tiles or memory urgent work still holds cannot resume. What the pager reads of the freeze area waits for a
link (R162). -/
def resumeReq (r : HostReq) (s : State) : State :=
  let js := namedJobs r s
  let vs := s.frozen.filter fun v => js.contains v.job
  if (r.job ≠ 0 ∧ !jobKnown s r.job) ∨ !(vs.all fun v => tilesFree v s) then doneFail' 1 r 1 s
  else if hostDown s ∨ (js.any fun j => (getJob s j).frozen && !isSaved s j) ∨ !(vs.all fun v => enginesFree v s) then
    enqueue (.resumeJobs r) s
  else doneOk 1 r 0 (if vs = [] then s else resumeLog r vs.length (resumeSaved vs s))

/-- RESUME_JOBS (R374, R384). -/
def execResumeJobs (r : HostReq) (s : State) : Res := serve 1 0x04 r s (resumeReq r)

/-! ### CHECKPOINT (R375) -/

/-- R375: the host keeps the images of jobs that go on, in the place of earlier ones of the same device and job. -/
def keepImages (vs : List Saved) (s : State) : State :=
  { s with checkpoint := (s.checkpoint.filter fun v => !vs.any fun w => w.job == v.job && w.device == v.device) ++
      vs.map fun v => { v with entry := { v.entry with frozen := false } } }

/-- OP 0x05: a checkpoint of jobs that are frozen already does nothing else than a freeze request would (R372). -/
def checkpointReq (r : HostReq) (s : State) : State :=
  let js := (namedJobs r s).filter fun j => !isSaved s j
  if r.job ≠ 0 ∧ !jobKnown s r.job then doneFail' 1 r 1 s
  else match freezeTurn (.checkpoint r) r s with
    | (none, s) => s
    | (some s, _) =>
      let n := freezeCount s (namedJobs r s)
      let vs := s.frozen.filter fun v => js.contains v.job
      doneOk 1 r n (if vs = [] then s else resumeLog r vs.length (resumeSaved vs (keepImages vs s)))

/-- CHECKPOINT (R375, R384). -/
def execCheckpoint (r : HostReq) (s : State) : Res := serve 1 0x05 r s (checkpointReq r)

/-! ### DEVICE_FAILURE (R374, R375, R332) -/

/-- R332, R334: a path starts again with a new epoch; what it held is lost, with the time of a store that was being timed. -/
def restartPath (s : State) (w : Nat) : State :=
  let size (p : PathS) : Nat := (p.held.map fun x => x.1.size).sum
  let s := s.pathS.foldl (fun s p => if p.1.win = w then
    modPeer (txDevice (txEntry s w) p.1.branch) (fun q =>
      { q with out := q.out - size p.2, timing := q.timing.filter fun x => x.1 != p.1 }) s else s) s
  { s with
    pathS := s.pathS.map fun p => if p.1.win = w then (p.1, { reopen p.2 with held := [], queued := [] }) else p
    wstores := s.wstores.map fun x => if x.win = w then { x with st := if x.st = 0 then 3 else x.st, plain := true } else x }

/-- R375: what the job did after its checkpoint is lost, its records in transit and its recoveries with it. -/
def dropLive (s : State) (job : BitVec 16) : State :=
  let ts := heldTiles s job
  let s := dropTransit ts { s with
    pend := s.pend.filter fun p => !ts.contains p.e.site
    wakes := s.wakes.filter fun w => !ts.contains w.from_.site
    internal := s.internal.filter fun i => match i with
      | .boothRecovery j b => !(j == job.toNat && decide (b < 65536))
      | _ => true }
  let s := (s.txwin.filter fun w => txJob w.2 == job).foldl (fun s w => restartPath s w.1) s
  parkJob { s with frozen := s.frozen.filter (·.job != job) } job

/-- R374: the waiters of a future that an image holds, in list order, at free nodes of the cluster's pool (log entry 77). -/
def restoreWaiters (v : Saved) (s : State) (p : Nat × Future) : State :=
  let ws := if p.2.wany then nodesFrom v.pool (p.1 / 65536) v.pool.length p.2.whead else []
  let s := dropNodes ((waitersOf s p.1).map (·.1)) s
  ws.foldl (fun s n => match freeNode s (p.1 / 65536) with
    | some i => appendNode p.1 i { n.2 with next := 0, nv := false } s
    | none => s) (setFuture s p.1 { p.2 with wany := false })

/-- R339: the stores of windows that an image restores are no longer looked at; their places in the list stay, as paths name
them by place. -/
def retireStore (v : Saved) (w : WStore) : WStore :=
  if v.tx.any (fun t => t.1 == w.win) then { w with win := 4096, plain := true, st := if w.st = 0 then 3 else w.st } else w

/-- R373, R374: the tables of a job as its image holds them. -/
def restoreTables (s : State) (v : Saved) : State :=
  let s := { s with
    jobs := tset s.jobs v.job.toNat v.entry
    roots := v.roots.foldl (fun t r => tset t r.1 r.2) (s.roots.filter fun r => r.1 % 65536 != v.job.toNat)
    booths := v.booths.foldl (fun t b => tset t b.1 b.2) s.booths
    freeFut := v.free.foldl (fun t f => tset t f.1 f.2) s.freeFut
    txwin := v.tx.foldl (fun t w => tset t w.1 w.2) s.txwin
    rxwin := v.rx.foldl (fun t w => tset t w.1 w.2) s.rxwin
    pathS := v.pathS.filter (fun p => !s.pathS.any fun q => q.1 == p.1) ++ s.pathS
    pathR := s.pathR ++ v.pathR.filter fun p => !s.pathR.any fun q => q.1 == p.1
    wstores := s.wstores.map (retireStore v) ++ v.wstores }
  v.futures.foldl (restoreWaiters v) s

/-- R374: an image of another device's job reaches the safe tier of this one. -/
def moveImage (v : Saved) (s : State) : State :=
  if v.device = s.device then s else { s with checkpoint := s.checkpoint ++ [v] }

/-- R374: the jobs of these images resume; one whose tiles, memory or engines other work holds stays frozen until a resumption
asks for it. -/
def adopt (vs : List Saved) (s : State) : State :=
  let live := vs.filter fun v => !v.entry.frozen && tilesFree v s && enginesFree v s
  let held := (vs.filter fun v => !live.contains v).map fun v => { v with entry := { v.entry with frozen := true } }
  resumeSaved live { (held.foldl (fun s v => modJob v.job (fun j => { j with frozen := true }) s) s) with
    frozen := s.frozen ++ held }

/-- R374, R375: the spare takes the number of the failed device, and its jobs, whose paths open with new epochs (R332): those
that were frozen wait for their resumption, and the others resume from their last checkpoints. -/
def takeOver (dev : Nat) (s : State) : State :=
  let vs := s.checkpoint.filter fun v => v.device == dev && !jobKnown s v.job
  let held := vs.filter (·.entry.frozen)
  let live := vs.filter fun v => !v.entry.frozen && !held.any fun w => w.job == v.job
  let restore (s : State) (v : Saved) : State := v.tx.foldl (fun s w => restartPath s w.1) (restoreTables s v)
  adopt (held ++ live) ((held ++ live).foldl restore { s with device := dev })

/-- R375: on a surviving device the jobs that span the failed one resume from their last checkpoints. -/
def fallBack (dev : Nat) (s : State) : State :=
  let vs := s.checkpoint.filter fun v => v.device == s.device && spansDevice s dev v.job
  adopt vs (vs.foldl restoreTables (vs.foldl (fun s v => dropLive s v.job) s))

/-- DEVICE_FAILURE (R374, R375): the link steward has found that device `dev` failed and has moved its number to `spare`.
The failed device does nothing more that the model shows. -/
def execDeviceFailure (dev spare : Nat) (s : State) : Res :=
  .next (if dev = s.device then s else if spare = s.device then takeOver dev s else fallBack dev s)

end Sys2Proof.Machine
end

