-- ==== Sys2Proof/Machine/Boot.lean ====
section
/-!
DEFINITION. Reset and boot (R388, R389, R394, R396), and the power controllers (R392, R393).
-/

namespace Sys2Proof.Machine

/-! ### DEVICE_RESET (R394) -/

/-- R7: the good sites of a die. -/
def goodCount (s : State) (die : Nat) : Nat := ((List.range 1024).filter fun i => isGood s (1024 * die + i)).length

/-- R7, R394: the strands that a reset with fused sites leaves other than `Strand.atReset` says: a fused site runs
nothing, and the corner of its die counts the good sites. -/
def fusedStrands (s : State) : Tab Strand :=
  let corners := (List.range 4).filter fun d => s.fused.any fun t => t / 1024 == d
  let t := s.fused.foldl (fun t f => tset t (8 * f) (Strand.blank (8 * f))) []
  corners.foldl (fun t d =>
    let k := 8 * siteAt d 0 0
    let c := Strand.atReset k
    tset t k { c with x := c.x.set 2 (BitVec.ofNat 64 (goodCount s d)) }) t

/-- R394: what is as device reset leaves it. Flash, fuses, the place in the domain, HBM, host memory, the images that the
host keeps, and what has already left the device are not the device's to reset (log entry 11). FWACT counts for this boot (R380). -/
def powerOn (s : State) : State :=
  { State.reset with
    strands := fusedStrands s
    mem := s.mem.filter fun c => !isLocalKey c.1
    poison := s.poison.filter fun w => !isLocalKey w
    minver := s.minver
    flash := s.flash
    bootStaged := s.fwact
    fused := s.fused
    device := s.device
    domain := s.domain
    checkpoint := s.checkpoint
    fresh := s.fresh
    inputs := s.inputs
    out := s.out }

/-- R380, R389: a die's flood does not complete (code 3), or the start of its stewards fails (code 4). -/
def bootFails (die code : Nat) (s : State) : State :=
  let p := (getDie s die).phase
  if die < 4 ∧ ((code = 3 ∧ p = .flood) ∨ (code = 4 ∧ p = .stewards)) then failDie code s die else s

/-- DEVICE_RESET (R394): the boot ROM of each die then verifies the firmware (R389). -/
def execDeviceReset (s : State) : Res := .next (powerOn s)

/-- DEVCTL_RESET (R380, R381). -/
def execDevctlReset (p : Nat) (s : State) : Res := .next (hostWrite p 0x18 powerOn s)

/-- R380: a write of DEVCTL by the owner of the semaphore: FWACT, then RESET. -/
def writeDevctl (v : Word) (s : State) : State :=
  let s := if v.getLsbD 1 then { s with fwact := true } else s
  if v.getLsbD 0 then powerOn s else s

/-- BAR_REGISTER_WRITE (R380, R382, R383): a write of 64 bits to a register of BAR0 that has no event of its own, and of DEVCTL
whatever its bits; others ignore the write. -/
def execBarRegisterWrite (p off : Nat) (v : Word) (s : State) : Res :=
  .next (
    if off = 0x18 then hostWrite p off (writeDevctl v) s
    else if off = 0x40 then hostWrite p off (writePowercap v) s
    else if 0x10000 ≤ off ∧ off < 0x10400 ∧ off % 0x40 = 0 then writeHqbase p ((off - 0x10000) / 0x40) v s
    else if 0x20000 ≤ off ∧ off < 0x20400 ∧ off % 0x40 = 0 then
      modHcq p ((off - 0x20000) / 0x40) (fun q => { q with base := pageAligned v }) s
    else if 0x20000 ≤ off ∧ off < 0x20400 ∧ off % 0x40 = 8 then writeHcctl p ((off - 0x20000) / 0x40) v s
    else if 0x30000 ≤ off ∧ off < 0x30400 ∧ off % 8 = 0 then writeMsix p ((off - 0x30000) / 8) v s
    else s)

/-! ### BOOT_END and phase STEWARDS (R389, R396) -/

/-- BOOT_END (R396): the store of a non-zero value has reached the corner's word. -/
def execBootEnd (die : Nat) (s : State) : Res :=
  if die < 4 ∧ bootMode s die ∧ readNat s (keysFrom (localKey (siteAt die 0 0) 0x3D0C0) 8) ≠ 0 then .next (endBoot die s)
  else .next s

/-- R340: the tile map: Nd of each die, then one word for each site. -/
def mapWord (s : State) (site : Nat) : Nat := if isGood s site then (getTile s site).logical % 1024 else 0x8000
def tileMapBytes (s : State) : List Byte :=
  ([0, 1, 2, 3].flatMap fun d => natBytes 2 (getDie s d).nd) ++ List.replicate 56 0 ++
    (List.range 4096).flatMap fun t => natBytes 2 (mapWord s t)

/-- R340: writes the tile map to its three pages. -/
def writeTileMap (s : State) : State :=
  let bs := tileMapBytes s
  s.tileMap.zipIdx.foldl (fun s f =>
    let part := (bs.drop (4096 * f.2)).take 4096
    putBytes ((keysFrom f.1 part.length).zip part) s) s

/-- R17, R371, R389: the idle code and a zero urgent line, and strand 7 at the idle code, which the model places at the start
of the reserved range (log entry 105); the first-stage loader has ended. -/
def startReserve (idle : List Byte) (s : State) (t : Nat) : State :=
  let s := writeBytes ((keysFrom (localKey t 0x3C000) idle.length).zip idle) s
  let s := writeBytes ((keysFrom (urgentKey t) 64).zip (List.replicate 64 0)) s
  startStrand ⟨t, 7⟩ 0x3C000 0 false [] [] (setStrand s (8 * t) (Strand.blank (8 * t)))

/-- R388: when all dies are READY, the minimum rises to the version of the slot booted. -/
def raiseMinimum (s : State) : State :=
  match s.booted with
  | some n =>
    let v := slotVersion (slotBytes s n)
    if bootPhase s = 4 ∧ (minVersion s).toNat < v.toNat then { s with minver := v } else s
  | none => s

/-- R391: what block 4 measures: the stewards as loaded. -/
def measureStewards (load : BootLoad) (s : State) : State :=
  let old := ((s.measured.find? fun m => m.1 == 4).map (·.2)).getD []
  { s with measured := (s.measured.filter fun m => m.1 != 4) ++ [(4, old ++ load.images.flatMap fun x => x.2.2)] }

/-- R367: 64 MiB of one HBM channel of the die, in which the scribe's log lies. -/
def logFits (die log : Nat) : Bool :=
  log % 64 == 0 && log / 2 ^ 49 == die && log / 2 ^ 47 % 4 != 3 &&
  decide (log % 2 ^ 42 + 2 ^ 26 ≤ Config.channelBytes)

/-- R340, R389: the three frames of the tile map: 4 KiB pages of HBM of die 0, apart from one another and from the log. -/
def mapFits (load : BootLoad) : Bool :=
  load.frames.length == 3 &&
  load.frames.all (fun f => f % 4096 == 0 && decide (f < 2 ^ 49) && !isHole f) &&
  apart ((load.log, 2 ^ 26) :: load.frames.map fun f => (f, 4096))

/-- R382: the targets of host queues 0 to 3 of both ports, fixed at boot: the request queues of the loader, the pager and the
allocator of die 0, and of the scribe of the port's die, each once its die's stewards start. -/
def fixTargets (die : Nat) (s : State) : State :=
  let fix (p : Nat) (s : State) (t : Nat × Nat × Nat) : State :=
    if t.2.2 = die then modHq p t.1 (fun h => { h with target := Config.requestQueue t.2.1 die }) s else s
  [0, 1].foldl (fun s p => [(0, 4, 0), (1, 1, 0), (2, 0, 0), (3, 3, portDie p)].foldl (fix p) s) s

/-- STEWARD_START (R389): what the first-stage loaders of a die do, as one action; `load` is what they bring. The allocator then
powers down the yards that nobody uses (R392; log entry 104). -/
def execStewardStart (die : Nat) (load : BootLoad) (s : State) : Res :=
  if die < 4 ∧ (getDie s die).phase = .stewards ∧ logFits die load.log ∧ (die = 0 → mapFits load) then
    let s := load.images.foldl (loadSteward die) s
    let s := (dieSites s die).foldl (startReserve load.idle) s
    let s := fixTargets die (load.entries.foldl (startSteward die) s)
    let s := writeTileMap (if die = 0 then { s with tileMap := load.frames } else s)
    let s := raiseMinimum (modDie die (fun d =>
      { d with phase := .ready, logAt := some load.log, images := load.images, entries := load.entries })
      (measureStewards load s))
    .next (setYards ((List.range 64).map (64 * die + ·)) s)
  else .next s

/-! ### Power commands (R392) -/

/-- R392: the yard of a command, its code, and whether it is well-formed. -/
def cmdYard (die : Nat) (c : BitVec 128) : Nat := 64 * die + fld c 0 8
def cmdCode (c : BitVec 128) : Nat := fld c 16 5
def cmdOk (die op : Nat) (c : BitVec 128) : Bool :=
  decide (die < 4) && decide (fld c 0 8 < 64) && fld c 8 2 == op && fld c 10 6 == 0 && fld c 21 107 == 0 &&
    decide (cmdCode c ≤ 30)

def yardStrands (y : Nat) : List SRef :=
  (List.range 16).flatMap fun t => (List.range 8).map fun k => ⟨siteInYard y t, k⟩

/-- R393: the code that an island runs at: 600 MHz while its die is hot. -/
def islandCode (s : State) (y code : Nat) : Nat := if (getDie s (y / 64)).hot then 0 else code

/-- SET_FREQUENCY (R392): the pause begins once no instruction of the yard is in flight; the loom stands at a turn
boundary between two steps. -/
def execSetFrequency (die : Nat) (cmd : BitVec 128) (s : State) : Res :=
  let y := cmdYard die cmd
  let i := getIsland s y
  if !cmdOk die 0 cmd then .next s
  else if !i.powered then .next (setIsland s y { i with setCode := cmdCode cmd, code := islandCode s y (cmdCode cmd) })
  else if (yardStrands y).any fun e => (getStrand s (skey e)).flight.isSome then .next (enqueue (.setFrequency die cmd) s)
  else .next (enqueue (.frequencyPauseEnd y)
    (setIsland s y { i with setCode := cmdCode cmd, code := islandCode s y (cmdCode cmd), paused := true }))

/-- The agents of a yard go on. -/
def wakeYard (y : Nat) (s : State) : State :=
  { s with internal := s.internal ++ [.loomTurn y, .carterChunk (2 * y), .carterChunk (2 * y + 1)] }

/-- FREQUENCY_PAUSE_END (R392). -/
def execFrequencyPauseEnd (yard : Nat) (s : State) : Res :=
  let i := getIsland s yard
  .next (if i.paused then wakeYard yard (setIsland s yard { i with paused := false }) else s)

/-- R392: are the looms and carters of a yard idle? -/
def yardIdle (s : State) (y : Nat) : Bool :=
  ((getLoom s y).queues.all fun q => q.2 == []) && (getCarter s (2 * y)).queue == [] && (getCarter s (2 * y + 1)).queue == []

/-- POWER_DOWN (R392): refused, with an ACCESS record, unless every strand is OFF or PARKED and the engines are idle. The
context slots go to their backing (R341). -/
def execPowerDown (die : Nat) (cmd : BitVec 128) (s : State) : Res :=
  let y := cmdYard die cmd
  if !cmdOk die 1 cmd then .next s
  else
    let still := (yardStrands y).all fun e =>
      !isGood s e.site || (getStrand s (skey e)).run == .off || (getStrand s (skey e)).run == .parked
    if still ∧ yardIdle s y then
      .next (backSlots (fun k _ => k / 64 == y) (setIsland s y { getIsland s y with powered := false, paused := false }))
    else .next (refuseLog die (Config.recordUnit (2 ^ 17 + 1)).toNat (2 ^ 17 + 1) 0 s)

/-- POWER_UP (R392, R393): the context slots are read back from their backing (R341); while the die is hot the island runs at
600 MHz. -/
def execPowerUp (die : Nat) (cmd : BitVec 128) (s : State) : Res :=
  let y := cmdYard die cmd
  let i := getIsland s y
  if !cmdOk die 2 cmd ∨ i.powered then .next s
  else .next (wakeYard y (readSlots (fun k _ => k / 64 == y)
    (setIsland s y { i with powered := true, code := islandCode s y i.code })))

/-! ### The cap and the thermal limit (R393) -/

/-- R380: the cap in watts. -/
def capWatts (s : State) : Nat := if s.powercap = 0 then 2400 else s.powercap.toNat

/-- A function of every island that runs. -/
def eachIsland (f : Nat → Island → Island) (s : State) : State :=
  (List.range 256).foldl (fun s y =>
    let i := getIsland s y
    let j := f y i
    if i.powered ∧ j ≠ i then setIsland s y j else s) s

/-- POWER_CHECK (R393): the comparison with the figure that POWERNOW has reached. -/
def execPowerCheck (watts : Nat) (s : State) : Res :=
  let cap := capWatts s
  if cap < watts then .next (eachIsland (fun _ i => { i with code := i.code - 1 }) s)
  else if 100 * watts < 95 * cap then
    .next (eachIsland (fun y i =>
      if (getDie s (y / 64)).hot ∨ i.setCode ≤ i.code then i else { i with code := i.code + 1 }) s)
  else .next s

/-- THERMAL_LIMIT (R393): the islands of the die go to 600 MHz. R368 lists no kind for the record (log entry 20). -/
def execThermalLimit (die : Nat) (s : State) : Res :=
  let s := modDie die (fun d => { d with hot := true }) s
  let s := eachIsland (fun y i => if y / 64 = die then { i with code := 0 } else i) s
  .next (logTo die [mkLog s (1 + Config.thermalKind.val) Config.thermalClass.val 0 0 0 die (Config.recordAddr 0 die)
    Config.thermalArg Config.thermalData] s)

/-- JUNCTION_COOLED (R393): the clamp ends; the codes rise again by R393's checks. -/
def execJunctionCooled (die : Nat) (s : State) : Res := .next (modDie die (fun d => { d with hot := false }) s)

end Sys2Proof.Machine
end

