-- ==== Sys2Proof/Machine/Attest.lean ====
section
/-!
DEFINITION. The SPDM responder of a port (R390, R391). The manual gives the exchanges and what they carry; DMTF's SPDM
gives their encoding, so replies are in SPDM's terms (log entry 12).
-/

namespace Sys2Proof.Machine

def getSpdm (s : State) (p : Nat) : Spdm := (getPort s p).spdm
def reply (p : Nat) (r : SpdmReply) (s : State) : State := { emit (.spdm p r) s with fresh := s.fresh + 1 }
def modSpdm (p : Nat) (f : Spdm → Spdm) (s : State) : State := modPort p (fun t => { t with spdm := f t.spdm }) s

/-- GET_VERSION (R390): versions 1.2 and 1.3; the exchange starts again. -/
def execGetVersion (p : Nat) (s : State) : Res :=
  .next (reply p (.version [0x12, 0x13]) (modSpdm p (fun _ => ⟨true, false, false⟩) s))

/-- GET_CAPABILITIES (R390): CERT_CAP, CHAL_CAP, MEAS_CAP with signature, MEAS_FRESH_CAP. -/
def execGetCapabilities (p : Nat) (s : State) : Res :=
  if (getSpdm s p).version then
    .next (reply p (.capabilities true true true true false false false) (modSpdm p (fun x => { x with caps := true }) s))
  else .next (reply p .unexpectedRequest s)

/-- NEGOTIATE_ALGORITHMS (R390). -/
def execNegotiateAlgorithms (p : Nat) (s : State) : Res :=
  if (getSpdm s p).caps then
    .next (reply p (.algorithms ["TPM_ALG_RSASSA_4096", "TPM_ALG_RSAPSS_4096"] ["TPM_ALG_SHA_512"])
      (modSpdm p (fun x => { x with algs := true }) s))
  else .next (reply p .unexpectedRequest s)

/-- A request that needs negotiated algorithms. -/
def negotiated (p : Nat) (s : State) (k : SpdmReply) : Res :=
  .next (reply p (if (getSpdm s p).algs then k else .unexpectedRequest) s)

/-- GET_DIGESTS (R390): slot 0 alone. -/
def execGetDigests (p : Nat) (s : State) : Res := negotiated p s (.digests (sha512 Config.certificateChain))

/-- GET_CERTIFICATE (R390): a portion of the chain of slot 0. -/
def execGetCertificate (p slot off len : Nat) (s : State) : Res :=
  let chain := Config.certificateChain
  negotiated p s (if slot = 0 ∧ off < chain.length then
    .certificate ((chain.drop off).take len) (chain.length - off - min len (chain.length - off))
  else .invalidRequest)

/-- CHALLENGE (R390). -/
def execChallenge (p : Nat) (nonce : List (BitVec 8)) (s : State) : Res :=
  negotiated p s (.challengeAuth (sha512 Config.certificateChain) (Config.nonce s.fresh)
    (Config.signature s.fresh nonce))

/-- R391: what the block of an index measures, none until its phase completes: VERIFY for block 2, FLOOD on all four dies for
block 3, and STEWARDS for block 4. -/
def measuredBytes (s : State) (n : Nat) : Option (List Byte) :=
  let kept := (s.measured.find? fun m => m.1 == n).map (·.2)
  match n with
  | 1 => some ((List.range 4096).map romByte)
  | 3 => if s.dies.toList.all (·.ended) then some (Config.fuseBytes (minVersion s) s.fused) else none
  | 4 => if bootPhase s = 4 then kept else none
  | _ => if s.dies.toList.any (fun d => d.phase == .reset || d.phase == .verify) then none else kept

/-- R391: the block of an index: its digest, or 64 zero bytes until its phase completes. -/
def measurement (s : State) (n : Nat) : List Byte :=
  match measuredBytes s n with
  | some b => sha512 b
  | none => List.replicate 64 0

/-- GET_MEASUREMENTS (R391): index 0 asks for their number, 255 for all. -/
def execGetMeasurements (p index : Nat) (sign : Bool) (s : State) : Res :=
  let sig := if sign then some (Config.signature s.fresh (natBytes 1 index)) else none
  let block (n : Nat) : Nat × List Byte := (n, measurement s n)
  negotiated p s (
    if index = 0 then .measurements [] 4 sig
    else if index = 255 then .measurements ([1, 2, 3, 4].map block) 4 sig
    else if index ≤ 4 then .measurements [block index] 1 sig
    else .invalidRequest)

/-- SPDM_UNSUPPORTED_REQUEST (R390). -/
def execSpdmUnsupportedRequest (p : Nat) (code : BitVec 8) (s : State) : Res := .next (reply p (.unsupportedRequest code) s)

end Sys2Proof.Machine
end

