-- ==== Sys2Proof/Machine/Control.lean ====
section
/-!
DEFINITION. Class 1: control transfer (R64, R115).
-/

namespace Sys2Proof.Machine

/-- R115: a transfer to `t`, the registers changed by `k`; ADDR with TRAPADDR = `t` when it is out of range. -/
def jump (t : Word) (k : State → State) (s : State) : Res :=
  if targetOk t then .next (finish t (k s)) else .next (raise .addr t s)

/-- R115: X31 ← PC + 12. -/
def link (s : State) : State := wx 31 ((me s).pc + 12) s

/-- BR (R64, R115). -/
def execBr (g : Guard) (tgt : BitVec 48) (s : State) : Res :=
  guarded g s fun s => jump (relTarget s tgt) id s

/-- BRL (R64, R115). -/
def execBrl (g : Guard) (tgt : BitVec 48) (s : State) : Res :=
  guarded g s fun s => jump (relTarget s tgt) link s

/-- BRX (R115). -/
def execBrx (g : Guard) (a : XReg) (s : State) : Res :=
  guarded g s fun s => jump (rx s a) id s

/-- BRXL (R115): the target is read before the link is written. -/
def execBrxl (g : Guard) (a : XReg) (s : State) : Res :=
  guarded g s fun s => jump (rx s a) link s

/-- RET (R115). -/
def execRet (g : Guard) (s : State) : Res :=
  guarded g s fun s => jump (rx s 31) id s

/-- LOOP (R115). -/
def execLoop (g : Guard) (a : XReg) (tgt : BitVec 48) (s : State) : Res :=
  guarded g s fun s =>
    let n := rx s a - 1
    if n ≠ 0 then jump (relTarget s tgt) (wx a n) s else .next (next (wx a n s))

end Sys2Proof.Machine
end

