-- ==== Sys2Proof/Machine/Vector.lean ====
section
/-!
DEFINITION. Classes A and B: vector arithmetic and vector data (R126 to R151).
-/

namespace Sys2Proof.Machine

/-- R130: lane `i` of a B operand. -/
def vopLane (w : Nat) (s : State) (b : VOpnd) (i : Nat) : Nat :=
  match b with
  | .v r => laneGet w (vGet (me s) r) i
  | .imm v => v.toNat % 2 ^ w
/-- Lane `i` of a v register of the executing strand. -/
def vLane (w : Nat) (s : State) (r : VReg) (i : Nat) : Nat := laneGet w (vGet (me s) r) i
/-- The value of a k register of the executing strand. -/
def kMask (s : State) (k : KReg) : Word := kGet (me s) k

/-- R131: `n` lanes of width `w` under a write mask; `op` takes the draw and the lane number. -/
def lanewise (g : Guard) (w : Nat) (r : Rnd) (mk : KReg) (d : VReg) (op : Nat → Nat → Nat) (s : State) : Res :=
  guarded g s fun s =>
    let x := takeDraws r (laneCount w) s
    let new := (List.range (laneCount w)).map fun i => op (x.1.getD i 0) i
    .next (next (wv d (mergeLanes w (kMask s mk) new (vGet (me s) d)) x.2))

/-- R133, R134: one arithmetic lane: the exact operation rounded, or the integer operation fitted. -/
def arithLane (f : Fmt) (r : Rnd) (sat : Bool) (dr : Nat) (fl : Ex → Ex → Ex) (int : Int → Int → Int) (a b : Nat) : Nat :=
  if f.isFloat then roundFloat f r sat dr (fl (decFloat f a) (decFloat f b))
  else fitInt f sat (int (decInt f a) (decInt f b))

/-- The shape of VADD, VSUB, VMUL and VDIV. -/
def vArith (g : Guard) (f : Fmt) (r : Rnd) (sat : Bool) (mk : KReg) (d a : VReg) (b : VOpnd)
    (fl : Ex → Ex → Ex) (int : Int → Int → Int) (s : State) : Res :=
  lanewise g f.width r mk d (fun dr i =>
    arithLane f r sat dr fl int (vLane f.width s a i) (vopLane f.width s b i)) s

/-- VADD (R133). -/
def execVadd (g : Guard) (f : Fmt) (r : Rnd) (sat : Bool) (mk : KReg) (d a : VReg) (b : VOpnd) (s : State) : Res :=
  vArith g f r sat mk d a b (addEx (r == .rni)) (· + ·) s

/-- VSUB (R133). -/
def execVsub (g : Guard) (f : Fmt) (r : Rnd) (sat : Bool) (mk : KReg) (d a : VReg) (b : VOpnd) (s : State) : Res :=
  vArith g f r sat mk d a b (fun x y => addEx (r == .rni) x (negEx y)) (· - ·) s

/-- VMUL (R133). -/
def execVmul (g : Guard) (f : Fmt) (r : Rnd) (sat : Bool) (mk : KReg) (d a : VReg) (b : VOpnd) (s : State) : Res :=
  vArith g f r sat mk d a b mulEx (· * ·) s

/-- VDIV (R133). -/
def execVdiv (g : Guard) (f : Fmt) (r : Rnd) (sat : Bool) (mk : KReg) (d a : VReg) (b : VOpnd) (s : State) : Res :=
  vArith g f r sat mk d a b divEx (fun x _ => x) s

/-- The shape of VFMA and VFMS: one rounding. -/
def vFused (g : Guard) (f : Fmt) (r : Rnd) (sat neg : Bool) (mk : KReg) (d a b c : VReg) (s : State) : Res :=
  lanewise g f.width r mk d (fun dr i =>
    let x := vLane f.width s a i
    let y := vLane f.width s b i
    let z := vLane f.width s c i
    if f.isFloat then
      let e := decFloat f z
      roundFloat f r sat dr (addEx (r == .rni) (mulEx (decFloat f x) (decFloat f y)) (if neg then negEx e else e))
    else
      let p := decInt f x * decInt f y
      fitInt f sat (if neg then p - decInt f z else p + decInt f z)) s

/-- VFMA (R133). -/
def execVfma (g : Guard) (f : Fmt) (r : Rnd) (sat : Bool) (mk : KReg) (d a b c : VReg) (s : State) : Res :=
  vFused g f r sat false mk d a b c s

/-- VFMS (R133). -/
def execVfms (g : Guard) (f : Fmt) (r : Rnd) (sat : Bool) (mk : KReg) (d a b c : VReg) (s : State) : Res :=
  vFused g f r sat true mk d a b c s

/-- R133: the lesser (`mx = false`) or greater lane. -/
def minmaxLane (f : Fmt) (mx : Bool) (a b : Nat) : Nat :=
  if f.isFloat then fminmax f mx a b
  else if (if mx then decInt f a < decInt f b else decInt f b < decInt f a) then b else a

/-- VMIN (R133). -/
def execVmin (g : Guard) (f : Fmt) (mk : KReg) (d a : VReg) (b : VOpnd) (s : State) : Res :=
  lanewise g f.width .rne mk d (fun _ i => minmaxLane f false (vLane f.width s a i) (vopLane f.width s b i)) s

/-- VMAX (R133). -/
def execVmax (g : Guard) (f : Fmt) (mk : KReg) (d a : VReg) (b : VOpnd) (s : State) : Res :=
  lanewise g f.width .rne mk d (fun _ i => minmaxLane f true (vLane f.width s a i) (vopLane f.width s b i)) s

/-- R135: |a|. -/
def absLane (f : Fmt) (sat : Bool) (a : Nat) : Nat :=
  if f.isFloat then
    (match decFloat f a with
      | .nan => canonNaN f
      | _ => a % 2 ^ (f.width - 1))
  else fitInt f sat (decInt f a).natAbs

/-- R135: −a. -/
def negLane (f : Fmt) (sat : Bool) (a : Nat) : Nat :=
  if f.isFloat then
    (match decFloat f a with
      | .nan => canonNaN f
      | _ => a ^^^ 2 ^ (f.width - 1))
  else fitInt f sat (-(decInt f a))

/-- VABS (R135). -/
def execVabs (g : Guard) (f : Fmt) (sat : Bool) (mk : KReg) (d a : VReg) (s : State) : Res :=
  lanewise g f.width .rne mk d (fun _ i => absLane f sat (vLane f.width s a i)) s

/-- VNEG (R135). -/
def execVneg (g : Guard) (f : Fmt) (sat : Bool) (mk : KReg) (d a : VReg) (s : State) : Res :=
  lanewise g f.width .rne mk d (fun _ i => negLane f sat (vLane f.width s a i)) s

/-- R136: the shape of the correctly rounded functions. -/
def vFunc (g : Guard) (f : Fmt) (r : Rnd) (sat : Bool) (mk : KReg) (d a : VReg) (fn : Ex → Ex) (s : State) : Res :=
  lanewise g f.width r mk d (fun dr i => roundFloat f r sat dr (fn (decFloat f (vLane f.width s a i)))) s

/-- VSQRT (R136). -/
def execVsqrt (g : Guard) (f : Fmt) (r : Rnd) (sat : Bool) (mk : KReg) (d a : VReg) (s : State) : Res :=
  vFunc g f r sat mk d a sqrtEx s

/-- VRCP (R136). -/
def execVrcp (g : Guard) (f : Fmt) (r : Rnd) (sat : Bool) (mk : KReg) (d a : VReg) (s : State) : Res :=
  vFunc g f r sat mk d a (divEx (intEx 1)) s

/-- VRSQ (R136). -/
def execVrsq (g : Guard) (f : Fmt) (r : Rnd) (sat : Bool) (mk : KReg) (d a : VReg) (s : State) : Res :=
  vFunc g f r sat mk d a rsqEx s

/-- VEXP2 (R136). -/
def execVexp2 (g : Guard) (f : Fmt) (r : Rnd) (sat : Bool) (mk : KReg) (d a : VReg) (s : State) : Res :=
  vFunc g f r sat mk d a exp2Ex s

/-- VLOG2 (R136). -/
def execVlog2 (g : Guard) (f : Fmt) (r : Rnd) (sat : Bool) (mk : KReg) (d a : VReg) (s : State) : Res :=
  vFunc g f r sat mk d a log2Ex s

/-- R137: one accumulator lane. -/
def dotLane (f : Fmt) (r : Rnd) (sat : Bool) (dr : Nat) (c : Nat) (ps : List (Nat × Nat)) : Nat :=
  if f.isFloat then
    roundFloat .f32 r sat dr
      (ps.foldl (fun acc p => addEx (r == .rni) acc (mulEx (decFloat f p.1) (decFloat f p.2))) (decFloat .f32 c))
  else fitInt .i32 sat (ps.foldl (fun acc p => acc + decInt f p.1 * decInt f p.2) (decInt .i32 c))

/-- VDOT (R137). -/
def execVdot (g : Guard) (f : Fmt) (r : Rnd) (sat : Bool) (mk : KReg) (d a b : VReg) (s : State) : Res :=
  let k := 32 / f.width
  lanewise g 32 r mk d (fun dr i =>
    dotLane f r sat dr (vLane 32 s d i)
      ((List.range k).map fun j => (vLane f.width s a (k * i + j), vLane f.width s b (k * i + j)))) s

/-! ### Compare, logic and shifts -/

/-- R138: a k register from one condition per active lane. -/
def laneMask (n : Nat) (act : Word) (c : Nat → Bool) : Word :=
  (List.range n).foldl (fun m i => if act.getLsbD i && c i then m ||| (1 <<< i) else m) 0

/-- R138: one compare. -/
def cmpLane (f : Fmt) (cc : FCond) (a b : Nat) : Bool := fcond cc (decFmt f a) (decFmt f b)

/-- VCMP (R138). -/
def execVcmp (g : Guard) (f : Fmt) (cc : FCond) (mk : KReg) (kd : KReg) (a : VReg) (b : VOpnd) (s : State) : Res :=
  guarded g s fun s =>
    .next (next (wk kd (laneMask (laneCount f.width) (kMask s mk) fun i =>
      cmpLane f cc (vLane f.width s a i) (vopLane f.width s b i)) s))

/-- R139: the shape of the bitwise instructions and shifts. -/
def vBits (g : Guard) (f : Fmt) (mk : KReg) (d a : VReg) (b : VOpnd) (op : Nat → Nat → Nat) (s : State) : Res :=
  lanewise g f.width .rne mk d (fun _ i => op (vLane f.width s a i) (vopLane f.width s b i)) s

/-- VAND (R139). -/
def execVand (g : Guard) (f : Fmt) (mk : KReg) (d a : VReg) (b : VOpnd) (s : State) : Res :=
  vBits g f mk d a b (· &&& ·) s

/-- VOR (R139). -/
def execVor (g : Guard) (f : Fmt) (mk : KReg) (d a : VReg) (b : VOpnd) (s : State) : Res :=
  vBits g f mk d a b (· ||| ·) s

/-- VXOR (R139). -/
def execVxor (g : Guard) (f : Fmt) (mk : KReg) (d a : VReg) (b : VOpnd) (s : State) : Res :=
  vBits g f mk d a b (· ^^^ ·) s

/-- VSHL (R139): by the low log2(w) bits. -/
def execVshl (g : Guard) (f : Fmt) (mk : KReg) (d a : VReg) (b : VOpnd) (s : State) : Res :=
  vBits g f mk d a b (fun x y => x * 2 ^ (y % f.width) % 2 ^ f.width) s

/-- VSHR (R139). -/
def execVshr (g : Guard) (f : Fmt) (mk : KReg) (d a : VReg) (b : VOpnd) (s : State) : Res :=
  vBits g f mk d a b (fun x y => x / 2 ^ (y % f.width)) s

/-- VSAR (R139). -/
def execVsar (g : Guard) (f : Fmt) (mk : KReg) (d a : VReg) (b : VOpnd) (s : State) : Res :=
  vBits g f mk d a b (fun x y => encInt f (decInt f x / 2 ^ (y % f.width))) s

/-! ### Moving and selecting lanes -/

/-- VMOV (R140). -/
def execVmov (g : Guard) (f : VMovForm) (s : State) : Res :=
  match f with
  | .vv f mk d a => lanewise g f.width .rne mk d (fun _ i => vLane f.width s a i) s
  | .kx kd a => guarded g s fun s => .next (next (wk kd (rx s a) s))
  | .xk d ka => guarded g s fun s => .next (next (wx d (kMask s ka) s))
  | .kk kd ka => guarded g s fun s => .next (next (wk kd (kMask s ka) s))

/-- VBCAST (R141). -/
def execVbcast (g : Guard) (f : Fmt) (mk : KReg) (d : VReg) (a : Option VReg) (b : XOpnd) (s : State) : Res :=
  lanewise g f.width .rne mk d (fun _ _ =>
    match a with
    | none => (rxo s b).toNat % 2 ^ f.width
    | some a => vLane f.width s a ((rxo s b).toNat % laneCount f.width)) s

/-- VPERM (R142). -/
def execVperm (g : Guard) (f : Fmt) (mk : KReg) (d a b : VReg) (s : State) : Res :=
  lanewise g f.width .rne mk d (fun _ i => vLane f.width s a (vLane f.width s b i % laneCount f.width)) s

/-- VSEL (R143). -/
def execVsel (g : Guard) (f : Fmt) (mk : KReg) (d a b : VReg) (s : State) : Res :=
  lanewise g f.width .rne 0 d (fun _ i =>
    if (kMask s mk).getLsbD i then vLane f.width s a i else vLane f.width s b i) s

/-- R144: a lane extended to 64 bits. -/
def laneExt (f : Fmt) (v : Nat) : Word := if f.isInt && f != .u8 then sextNat f.width v else BitVec.ofNat 64 v

/-- VEXTR (R144). -/
def execVextr (g : Guard) (f : Fmt) (d : XReg) (a : VReg) (b : XOpnd) (s : State) : Res :=
  guarded g s fun s =>
    .next (next (wx d (laneExt f (vLane f.width s a ((rxo s b).toNat % laneCount f.width))) s))

/-- VINS (R144). -/
def execVins (g : Guard) (f : Fmt) (d : VReg) (a : XReg) (b : XOpnd) (s : State) : Res :=
  guarded g s fun s =>
    .next (next (wv d (laneSet f.width (vGet (me s) d) ((rxo s b).toNat % laneCount f.width) (rx s a).toNat) s))

/-! ### Reductions and scans -/

/-- R57: the identity of a reduction, as a lane pattern. -/
def redIdentity (f : Fmt) (op : RedOp) : Nat :=
  match op with
  | .sum => if f.isFloat then signPat f true else 0
  | .min => if f.isFloat then canonNaN f else encInt f (intMax f)
  | .max => if f.isFloat then canonNaN f else encInt f (intMin f)

/-- R145: one application of a reduction's or scan's operation to lane patterns; integer sums are fitted. -/
def redOp (f : Fmt) (op : RedOp) (r : Rnd) (sat : Bool) (dr a b : Nat) : Nat :=
  match op with
  | .sum =>
    if f.isFloat then roundFloat f r false dr (addEx (r == .rni) (decFloat f a) (decFloat f b))
    else fitInt f sat (decInt f a + decInt f b)
  | .min => minmaxLane f false a b
  | .max => minmaxLane f true a b

/-- VRED (R57, R145). -/
def execVred (g : Guard) (f : Fmt) (op : RedOp) (r : Rnd) (mk : KReg) (d : XReg) (a : VReg) (s : State) : Res :=
  guarded g s fun s =>
    let n := laneCount f.width
    let act := kMask s mk
    let lanes := (List.range n).map fun i => if act.getLsbD i then some (vLane f.width s a i) else none
    if op = .sum ∧ f.isInt then
      .next (next (wx d (BitVec.ofInt 64 ((lanes.filterMap id).map (decInt f)).sum) s))
    else
      let x := takeDraws r (n - 1) s
      let v := (reduceTree (redOp f op r false) (Nat.log2 n) lanes x.1).getD (redIdentity f op)
      .next (next (wx d (laneExt f v) x.2))

/-- R146: the running value and the lanes of a scan. -/
def scanLanes (f : Fmt) (op : RedOp) (r : Rnd) (sat : Bool) : List (Option Nat) → List Nat → Option Nat → List Nat
  | [], _, _ => []
  | none :: l, gs, acc => 0 :: scanLanes f op r sat l gs.tail acc
  | some a :: l, gs, acc =>
    let v := match acc with
      | none => a
      | some c => redOp f op r sat (gs.headD 0) c a
    v :: scanLanes f op r sat l gs.tail (some v)

/-- VSCAN (R146). -/
def execVscan (g : Guard) (f : Fmt) (op : RedOp) (r : Rnd) (sat : Bool) (mk : KReg) (d a : VReg) (s : State) : Res :=
  guarded g s fun s =>
    let n := laneCount f.width
    let act := kMask s mk
    let lanes := (List.range n).map fun i => if act.getLsbD i then some (vLane f.width s a i) else none
    let x := takeDraws r n s
    .next (next (wv d (mergeLanes f.width act (scanLanes f op r sat lanes x.1 none) (vGet (me s) d)) x.2))

/-! ### Conversion and the N4 family -/

/-- VCVT (R47, R147). -/
def execVcvt (g : Guard) (t f : Fmt) (r : Rnd) (sat : Bool) (part : Fin 4) (mk : KReg) (d a : VReg) (s : State) : Res :=
  guarded g s fun s =>
    let nt := laneCount t.width
    let ns := laneCount f.width
    let m := min nt ns
    let x := if convDraws t f r then takeDraws r m s else ([], s)
    let srcOf (j : Nat) : Nat := if nt < ns then part.val * nt + j else j
    let base := if ns < nt then part.val * ns else 0
    let old := vGet (me s) d
    let lane (i : Nat) : Nat :=
      if base ≤ i ∧ i < base + m ∧ (kMask s mk).getLsbD (i - base) then
        convFmt t f r sat (x.1.getD (i - base) 0) (vLane f.width s a (srcOf (i - base)))
      else laneGet t.width old i
    .next (next (wv d (ofLanes t.width ((List.range nt).map lane)) x.2))

/-- R148: the 32 source elements of VPACK. -/
def packElems (f : Fmt) (s : State) (a : VReg) (b : Option VReg) : List Nat :=
  match b with
  | some b => (List.range 16).map (vLane 32 s a) ++ (List.range 16).map (vLane 32 s b)
  | none => (List.range 32).map (vLane f.width s a)

/-- R43, R148: an element that may have no finite value. -/
def finiteEx : Ex → Option Ex
  | .num n m e st => some (.num n m e st)
  | _ => none

/-- VPACK (R148). -/
def execVpack (g : Guard) (f : Fmt) (r : Rnd) (ty : NType) (part : Fin 4) (d a : VReg) (b : Option VReg) (c : XReg)
    (s : State) : Res :=
  guarded g s fun s =>
    let xs := (packElems f s a b).map (decFloat f)
    let e := packExp ty (xs.filterMap finiteEx)
    let x := takeDraws r 32 s
    let codes := (List.range 32).map fun j => encN4 ty e r (x.1.getD j 0) (xs.getD j .nan)
    let old := vGet (me s) d
    let quarter (q : Nat) : Nat := if q = part.val then packLanes 4 codes else laneGet 128 old q
    let s := wv d (ofLanes 128 ((List.range 4).map quarter)) x.2
    .next (next (wx c (BitVec.ofNat 64 (n4TypeCode ty * 64 + e)) s))

/-- VUNPK (R149). -/
def execVunpk (g : Guard) (t : Fmt) (r : Rnd) (sat : Bool) (part : Fin 4) (hi : Bool) (mk : KReg) (d a : VReg) (b : XReg)
    (s : State) : Res :=
  lanewise g t.width r mk d (fun dr j =>
    roundFloat t r sat dr (decN4 ((rx s b).toNat % 256) (vLane 4 s a (32 * part.val + (16 * b2n hi + j))))) s

/-! ### Compression and pruning -/

/-- VCOMP (R150). -/
def execVcomp (g : Guard) (f : Fmt) (mk : KReg) (d a : VReg) (s : State) : Res :=
  guarded g s fun s =>
    let kept := ((List.range (laneCount f.width)).filter fun i => (kMask s mk).getLsbD i).map (vLane f.width s a)
    .next (next (wv d (ofLanes f.width kept) s))

/-- R151: does lane value `a` rank strictly above `b`? A NaN ranks above every number. -/
def magAbove (f : Fmt) (a b : Nat) : Bool :=
  if f.isFloat then
    match decFloat f a, decFloat f b with
    | .nan, .nan => false
    | .nan, _ => true
    | _, .nan => false
    | _, _ => decide (b % 2 ^ (f.width - 1) < a % 2 ^ (f.width - 1))
  else decide ((decInt f b).natAbs < (decInt f a).natAbs)

/-- R151: is lane `i` of a group kept: fewer than `n` lanes rank before it. -/
def keptIn (f : Fmt) (n : Nat) (v : List Nat) (i : Nat) : Bool :=
  let x := v.getD i 0
  decide (((List.range v.length).filter fun j =>
    magAbove f (v.getD j 0) x || (decide (j < i) && !magAbove f x (v.getD j 0))).length < n)

/-- R151: the number kept for an N code. -/
def pruneN (n : Fin 3) : Nat := if n = 0 then 6 else if n = 1 then 8 else 12

/-- VPRUNE (R151). -/
def execVprune (g : Guard) (f : Fmt) (n : Fin 3) (d a : VReg) (c : XReg) (s : State) : Res :=
  guarded g s fun s =>
    let k := pruneN n
    let group (q : Nat) : List Nat := (List.range 24).map fun i => vLane f.width s a (24 * q + i)
    let kept (q : Nat) : List Nat := (List.range 24).filter (keptIn f k (group q))
    let qs := List.range (laneCount f.width / 24)
    let mask (q : Nat) : Nat := if qs.contains q then (kept q).foldl (fun m i => m + 2 ^ i) 0 else 0
    let lanes := qs.flatMap fun q => (kept q).map fun i => (group q).getD i 0
    .next (next (wx c (BitVec.ofNat 64 (mask 0 + 2 ^ 32 * mask 1)) (wv d (ofLanes f.width lanes) s)))

end Sys2Proof.Machine
end

