-- ==== Sys2Proof/Machine/Dispatch.lean ====
section
/-!
DEFINITION. The dispatch: one arm per constructor of `Instr`, each one call of its meaning.
-/

namespace Sys2Proof.Machine

def exec (i : Instr) (s : State) : Host.Outcome State Fault Refusal :=
  match i with
  | .nop x0 => Sys2Proof.Machine.execNop x0 s
  | .fork x0 x1 x2 x3 x4 => Sys2Proof.Machine.execFork x0 x1 x2 x3 x4 s
  | .stop x0 => Sys2Proof.Machine.execStop x0 s
  | .yield x0 x1 => Sys2Proof.Machine.execYield x0 x1 s
  | .yieldPauseEnd x0 => Sys2Proof.Machine.execYieldPauseEnd x0 s
  | .wake x0 x1 x2 => Sys2Proof.Machine.execWake x0 x1 x2 s
  | .wakeEventDelivery x0 x1 => Sys2Proof.Machine.execWakeEventDelivery x0 x1 s
  | .trap x0 x1 => Sys2Proof.Machine.execTrap x0 x1 s
  | .eret x0 => Sys2Proof.Machine.execEret x0 s
  | .sysrd x0 x1 x2 => Sys2Proof.Machine.execSysrd x0 x1 x2 s
  | .syswr x0 x1 x2 => Sys2Proof.Machine.execSyswr x0 x1 x2 s
  | .segld x0 x1 x2 => Sys2Proof.Machine.execSegld x0 x1 x2 s
  | .halt x0 => Sys2Proof.Machine.execHalt x0 s
  | .br x0 x1 => Sys2Proof.Machine.execBr x0 x1 s
  | .brl x0 x1 => Sys2Proof.Machine.execBrl x0 x1 s
  | .brx x0 x1 => Sys2Proof.Machine.execBrx x0 x1 s
  | .brxl x0 x1 => Sys2Proof.Machine.execBrxl x0 x1 s
  | .ret x0 => Sys2Proof.Machine.execRet x0 s
  | .loop x0 x1 x2 => Sys2Proof.Machine.execLoop x0 x1 x2 s
  | .add x0 x1 x2 x3 => Sys2Proof.Machine.execAdd x0 x1 x2 x3 s
  | .sub x0 x1 x2 x3 => Sys2Proof.Machine.execSub x0 x1 x2 x3 s
  | .mul x0 x1 x2 x3 => Sys2Proof.Machine.execMul x0 x1 x2 x3 s
  | .mulh x0 x1 x2 x3 => Sys2Proof.Machine.execMulh x0 x1 x2 x3 s
  | .mulhu x0 x1 x2 x3 => Sys2Proof.Machine.execMulhu x0 x1 x2 x3 s
  | .div x0 x1 x2 x3 => Sys2Proof.Machine.execDiv x0 x1 x2 x3 s
  | .divu x0 x1 x2 x3 => Sys2Proof.Machine.execDivu x0 x1 x2 x3 s
  | .rem x0 x1 x2 x3 => Sys2Proof.Machine.execRem x0 x1 x2 x3 s
  | .remu x0 x1 x2 x3 => Sys2Proof.Machine.execRemu x0 x1 x2 x3 s
  | .and x0 x1 x2 x3 => Sys2Proof.Machine.execAnd x0 x1 x2 x3 s
  | .or x0 x1 x2 x3 => Sys2Proof.Machine.execOr x0 x1 x2 x3 s
  | .xor x0 x1 x2 x3 => Sys2Proof.Machine.execXor x0 x1 x2 x3 s
  | .andn x0 x1 x2 x3 => Sys2Proof.Machine.execAndn x0 x1 x2 x3 s
  | .shl x0 x1 x2 x3 => Sys2Proof.Machine.execShl x0 x1 x2 x3 s
  | .shr x0 x1 x2 x3 => Sys2Proof.Machine.execShr x0 x1 x2 x3 s
  | .sar x0 x1 x2 x3 => Sys2Proof.Machine.execSar x0 x1 x2 x3 s
  | .rol x0 x1 x2 x3 => Sys2Proof.Machine.execRol x0 x1 x2 x3 s
  | .min x0 x1 x2 x3 => Sys2Proof.Machine.execMin x0 x1 x2 x3 s
  | .max x0 x1 x2 x3 => Sys2Proof.Machine.execMax x0 x1 x2 x3 s
  | .minu x0 x1 x2 x3 => Sys2Proof.Machine.execMinu x0 x1 x2 x3 s
  | .maxu x0 x1 x2 x3 => Sys2Proof.Machine.execMaxu x0 x1 x2 x3 s
  | .clz x0 x1 x2 => Sys2Proof.Machine.execClz x0 x1 x2 s
  | .ctz x0 x1 x2 => Sys2Proof.Machine.execCtz x0 x1 x2 s
  | .popc x0 x1 x2 => Sys2Proof.Machine.execPopc x0 x1 x2 s
  | .brev x0 x1 x2 => Sys2Proof.Machine.execBrev x0 x1 x2 s
  | .mov x0 x1 x2 => Sys2Proof.Machine.execMov x0 x1 x2 s
  | .movi x0 x1 x2 => Sys2Proof.Machine.execMovi x0 x1 x2 s
  | .ext x0 x1 x2 x3 => Sys2Proof.Machine.execExt x0 x1 x2 x3 s
  | .extu x0 x1 x2 x3 => Sys2Proof.Machine.execExtu x0 x1 x2 x3 s
  | .ins x0 x1 x2 x3 => Sys2Proof.Machine.execIns x0 x1 x2 x3 s
  | .sel x0 x1 x2 x3 x4 => Sys2Proof.Machine.execSel x0 x1 x2 x3 x4 s
  | .lea x0 x1 x2 => Sys2Proof.Machine.execLea x0 x1 x2 s
  | .caddr x0 x1 x2 => Sys2Proof.Machine.execCaddr x0 x1 x2 s
  | .crel x0 x1 x2 => Sys2Proof.Machine.execCrel x0 x1 x2 s
  | .fadd x0 x1 x2 x3 x4 x5 x6 => Sys2Proof.Machine.execFadd x0 x1 x2 x3 x4 x5 x6 s
  | .fsub x0 x1 x2 x3 x4 x5 x6 => Sys2Proof.Machine.execFsub x0 x1 x2 x3 x4 x5 x6 s
  | .fmul x0 x1 x2 x3 x4 x5 x6 => Sys2Proof.Machine.execFmul x0 x1 x2 x3 x4 x5 x6 s
  | .ffma x0 x1 x2 x3 x4 x5 x6 x7 => Sys2Proof.Machine.execFfma x0 x1 x2 x3 x4 x5 x6 x7 s
  | .fmin x0 x1 x2 x3 x4 => Sys2Proof.Machine.execFmin x0 x1 x2 x3 x4 s
  | .fmax x0 x1 x2 x3 x4 => Sys2Proof.Machine.execFmax x0 x1 x2 x3 x4 s
  | .fcmp x0 x1 x2 x3 x4 x5 => Sys2Proof.Machine.execFcmp x0 x1 x2 x3 x4 x5 s
  | .fcvt x0 x1 x2 x3 x4 x5 x6 x7 => Sys2Proof.Machine.execFcvt x0 x1 x2 x3 x4 x5 x6 x7 s
  | .fdiv x0 x1 x2 x3 x4 x5 x6 => Sys2Proof.Machine.execFdiv x0 x1 x2 x3 x4 x5 x6 s
  | .cmp x0 x1 x2 x3 x4 => Sys2Proof.Machine.execCmp x0 x1 x2 x3 x4 s
  | .pand x0 x1 x2 x3 x4 x5 => Sys2Proof.Machine.execPand x0 x1 x2 x3 x4 x5 s
  | .por x0 x1 x2 x3 x4 x5 => Sys2Proof.Machine.execPor x0 x1 x2 x3 x4 x5 s
  | .pxor x0 x1 x2 x3 x4 x5 => Sys2Proof.Machine.execPxor x0 x1 x2 x3 x4 x5 s
  | .pnot x0 x1 x2 => Sys2Proof.Machine.execPnot x0 x1 x2 s
  | .pmov x0 x1 => Sys2Proof.Machine.execPmov x0 x1 s
  | .ld x0 x1 x2 x3 x4 x5 x6 => Sys2Proof.Machine.execLd x0 x1 x2 x3 x4 x5 x6 s
  | .st x0 x1 x2 x3 x4 x5 => Sys2Proof.Machine.execSt x0 x1 x2 x3 x4 x5 s
  | .ldv x0 x1 x2 x3 x4 x5 x6 => Sys2Proof.Machine.execLdv x0 x1 x2 x3 x4 x5 x6 s
  | .stv x0 x1 x2 x3 x4 x5 x6 => Sys2Proof.Machine.execStv x0 x1 x2 x3 x4 x5 x6 s
  | .gath x0 x1 x2 x3 x4 x5 x6 x7 x8 => Sys2Proof.Machine.execGath x0 x1 x2 x3 x4 x5 x6 x7 x8 s
  | .scat x0 x1 x2 x3 x4 x5 x6 x7 x8 => Sys2Proof.Machine.execScat x0 x1 x2 x3 x4 x5 x6 x7 x8 s
  | .stn x0 x1 x2 x3 x4 x5 => Sys2Proof.Machine.execStn x0 x1 x2 x3 x4 x5 s
  | .aadd x0 x1 x2 x3 x4 x5 x6 => Sys2Proof.Machine.execAadd x0 x1 x2 x3 x4 x5 x6 s
  | .aand x0 x1 x2 x3 x4 x5 x6 => Sys2Proof.Machine.execAand x0 x1 x2 x3 x4 x5 x6 s
  | .aor x0 x1 x2 x3 x4 x5 x6 => Sys2Proof.Machine.execAor x0 x1 x2 x3 x4 x5 x6 s
  | .axor x0 x1 x2 x3 x4 x5 x6 => Sys2Proof.Machine.execAxor x0 x1 x2 x3 x4 x5 x6 s
  | .amin x0 x1 x2 x3 x4 x5 x6 => Sys2Proof.Machine.execAmin x0 x1 x2 x3 x4 x5 x6 s
  | .amax x0 x1 x2 x3 x4 x5 x6 => Sys2Proof.Machine.execAmax x0 x1 x2 x3 x4 x5 x6 s
  | .aminu x0 x1 x2 x3 x4 x5 x6 => Sys2Proof.Machine.execAminu x0 x1 x2 x3 x4 x5 x6 s
  | .amaxu x0 x1 x2 x3 x4 x5 x6 => Sys2Proof.Machine.execAmaxu x0 x1 x2 x3 x4 x5 x6 s
  | .axch x0 x1 x2 x3 x4 x5 x6 => Sys2Proof.Machine.execAxch x0 x1 x2 x3 x4 x5 x6 s
  | .acas x0 x1 x2 x3 x4 x5 x6 => Sys2Proof.Machine.execAcas x0 x1 x2 x3 x4 x5 x6 s
  | .afadd x0 x1 x2 x3 x4 x5 x6 => Sys2Proof.Machine.execAfadd x0 x1 x2 x3 x4 x5 x6 s
  | .afmin x0 x1 x2 x3 x4 x5 x6 => Sys2Proof.Machine.execAfmin x0 x1 x2 x3 x4 x5 x6 s
  | .afmax x0 x1 x2 x3 x4 x5 x6 => Sys2Proof.Machine.execAfmax x0 x1 x2 x3 x4 x5 x6 s
  | .fence x0 x1 x2 x3 => Sys2Proof.Machine.execFence x0 x1 x2 x3 s
  | .fenceComplete x0 => Sys2Proof.Machine.execFenceComplete x0 s
  | .memoryReply x0 x1 => Sys2Proof.Machine.execMemoryReply x0 x1 s
  | .poisonReport x0 x1 => Sys2Proof.Machine.execPoisonReport x0 x1 s
  | .nsum x0 x1 x2 x3 => Sys2Proof.Machine.execNsum x0 x1 x2 x3 s
  | .nmax x0 x1 x2 x3 => Sys2Proof.Machine.execNmax x0 x1 x2 x3 s
  | .naxpy x0 x1 x2 x3 x4 => Sys2Proof.Machine.execNaxpy x0 x1 x2 x3 x4 s
  | .nscale x0 x1 x2 x3 x4 => Sys2Proof.Machine.execNscale x0 x1 x2 x3 x4 s
  | .ncvt x0 x1 x2 x3 => Sys2Proof.Machine.execNcvt x0 x1 x2 x3 s
  | .ndot x0 x1 x2 x3 => Sys2Proof.Machine.execNdot x0 x1 x2 x3 s
  | .cellarCommandComplete x0 => Sys2Proof.Machine.execCellarCommandComplete x0 s
  | .landset x0 x1 x2 x3 => Sys2Proof.Machine.execLandset x0 x1 x2 x3 s
  | .landadd x0 x1 x2 x3 x4 => Sys2Proof.Machine.execLandadd x0 x1 x2 x3 x4 s
  | .marm x0 x1 x2 => Sys2Proof.Machine.execMarm x0 x1 x2 s
  | .mwait x0 x1 x2 => Sys2Proof.Machine.execMwait x0 x1 x2 s
  | .mwaitWake x0 => Sys2Proof.Machine.execMwaitWake x0 s
  | .mwaitLimitExpiry x0 => Sys2Proof.Machine.execMwaitLimitExpiry x0 s
  | .mclr x0 x1 => Sys2Proof.Machine.execMclr x0 x1 s
  | .rng x0 x1 => Sys2Proof.Machine.execRng x0 x1 s
  | .vrng x0 x1 x2 => Sys2Proof.Machine.execVrng x0 x1 x2 s
  | .qdef x0 x1 x2 => Sys2Proof.Machine.execQdef x0 x1 x2 s
  | .qkill x0 x1 => Sys2Proof.Machine.execQkill x0 x1 s
  | .qbind x0 x1 x2 x3 => Sys2Proof.Machine.execQbind x0 x1 x2 x3 s
  | .qpush x0 x1 x2 x3 x4 => Sys2Proof.Machine.execQpush x0 x1 x2 x3 x4 s
  | .qpop x0 x1 x2 x3 x4 x5 => Sys2Proof.Machine.execQpop x0 x1 x2 x3 x4 x5 s
  | .qpeek x0 x1 x2 x3 x4 x5 => Sys2Proof.Machine.execQpeek x0 x1 x2 x3 x4 x5 s
  | .qmark x0 x1 x2 x3 => Sys2Proof.Machine.execQmark x0 x1 x2 x3 s
  | .qstat x0 x1 x2 x3 => Sys2Proof.Machine.execQstat x0 x1 x2 x3 s
  | .queueWaitResume x0 => Sys2Proof.Machine.execQueueWaitResume x0 s
  | .queueHeldEnd x0 => Sys2Proof.Machine.execQueueHeldEnd x0 s
  | .roundEdge x0 x1 => Sys2Proof.Machine.execRoundEdge x0 x1 s
  | .twinCompare x0 => Sys2Proof.Machine.execTwinCompare x0 s
  | .tspawn x0 x1 x2 x3 x4 => Sys2Proof.Machine.execTspawn x0 x1 x2 x3 x4 s
  | .tend x0 => Sys2Proof.Machine.execTend x0 s
  | .readyQueueHeldEnd x0 x1 => Sys2Proof.Machine.execReadyQueueHeldEnd x0 x1 s
  | .tnext x0 x1 => Sys2Proof.Machine.execTnext x0 x1 s
  | .readyRecordArrival x0 => Sys2Proof.Machine.execReadyRecordArrival x0 s
  | .tjoin x0 x1 => Sys2Proof.Machine.execTjoin x0 x1 s
  | .balanceTick x0 => Sys2Proof.Machine.execBalanceTick x0 s
  | .balanceSnapshotArrival x0 x1 x2 => Sys2Proof.Machine.execBalanceSnapshotArrival x0 x1 x2 s
  | .recordMigrationArrival x0 x1 x2 x3 => Sys2Proof.Machine.execRecordMigrationArrival x0 x1 x2 x3 s
  | .fnew x0 x1 => Sys2Proof.Machine.execFnew x0 x1 s
  | .fset x0 x1 x2 => Sys2Proof.Machine.execFset x0 x1 x2 s
  | .fget x0 x1 x2 x3 x4 => Sys2Proof.Machine.execFget x0 x1 x2 x3 x4 s
  | .waiterNodeFree x0 => Sys2Proof.Machine.execWaiterNodeFree x0 s
  | .ffree x0 x1 => Sys2Proof.Machine.execFfree x0 x1 s
  | .fpoison x0 x1 x2 => Sys2Proof.Machine.execFpoison x0 x1 x2 s
  | .vadd x0 x1 x2 x3 x4 x5 x6 x7 => Sys2Proof.Machine.execVadd x0 x1 x2 x3 x4 x5 x6 x7 s
  | .vsub x0 x1 x2 x3 x4 x5 x6 x7 => Sys2Proof.Machine.execVsub x0 x1 x2 x3 x4 x5 x6 x7 s
  | .vmul x0 x1 x2 x3 x4 x5 x6 x7 => Sys2Proof.Machine.execVmul x0 x1 x2 x3 x4 x5 x6 x7 s
  | .vfma x0 x1 x2 x3 x4 x5 x6 x7 x8 => Sys2Proof.Machine.execVfma x0 x1 x2 x3 x4 x5 x6 x7 x8 s
  | .vfms x0 x1 x2 x3 x4 x5 x6 x7 x8 => Sys2Proof.Machine.execVfms x0 x1 x2 x3 x4 x5 x6 x7 x8 s
  | .vmin x0 x1 x2 x3 x4 x5 => Sys2Proof.Machine.execVmin x0 x1 x2 x3 x4 x5 s
  | .vmax x0 x1 x2 x3 x4 x5 => Sys2Proof.Machine.execVmax x0 x1 x2 x3 x4 x5 s
  | .vabs x0 x1 x2 x3 x4 x5 => Sys2Proof.Machine.execVabs x0 x1 x2 x3 x4 x5 s
  | .vneg x0 x1 x2 x3 x4 x5 => Sys2Proof.Machine.execVneg x0 x1 x2 x3 x4 x5 s
  | .vdiv x0 x1 x2 x3 x4 x5 x6 x7 => Sys2Proof.Machine.execVdiv x0 x1 x2 x3 x4 x5 x6 x7 s
  | .vsqrt x0 x1 x2 x3 x4 x5 x6 => Sys2Proof.Machine.execVsqrt x0 x1 x2 x3 x4 x5 x6 s
  | .vrcp x0 x1 x2 x3 x4 x5 x6 => Sys2Proof.Machine.execVrcp x0 x1 x2 x3 x4 x5 x6 s
  | .vrsq x0 x1 x2 x3 x4 x5 x6 => Sys2Proof.Machine.execVrsq x0 x1 x2 x3 x4 x5 x6 s
  | .vexp2 x0 x1 x2 x3 x4 x5 x6 => Sys2Proof.Machine.execVexp2 x0 x1 x2 x3 x4 x5 x6 s
  | .vlog2 x0 x1 x2 x3 x4 x5 x6 => Sys2Proof.Machine.execVlog2 x0 x1 x2 x3 x4 x5 x6 s
  | .vdot x0 x1 x2 x3 x4 x5 x6 x7 => Sys2Proof.Machine.execVdot x0 x1 x2 x3 x4 x5 x6 x7 s
  | .vcmp x0 x1 x2 x3 x4 x5 x6 => Sys2Proof.Machine.execVcmp x0 x1 x2 x3 x4 x5 x6 s
  | .vand x0 x1 x2 x3 x4 x5 => Sys2Proof.Machine.execVand x0 x1 x2 x3 x4 x5 s
  | .vor x0 x1 x2 x3 x4 x5 => Sys2Proof.Machine.execVor x0 x1 x2 x3 x4 x5 s
  | .vxor x0 x1 x2 x3 x4 x5 => Sys2Proof.Machine.execVxor x0 x1 x2 x3 x4 x5 s
  | .vshl x0 x1 x2 x3 x4 x5 => Sys2Proof.Machine.execVshl x0 x1 x2 x3 x4 x5 s
  | .vshr x0 x1 x2 x3 x4 x5 => Sys2Proof.Machine.execVshr x0 x1 x2 x3 x4 x5 s
  | .vsar x0 x1 x2 x3 x4 x5 => Sys2Proof.Machine.execVsar x0 x1 x2 x3 x4 x5 s
  | .vmov x0 x1 => Sys2Proof.Machine.execVmov x0 x1 s
  | .vbcast x0 x1 x2 x3 x4 x5 => Sys2Proof.Machine.execVbcast x0 x1 x2 x3 x4 x5 s
  | .vperm x0 x1 x2 x3 x4 x5 => Sys2Proof.Machine.execVperm x0 x1 x2 x3 x4 x5 s
  | .vsel x0 x1 x2 x3 x4 x5 => Sys2Proof.Machine.execVsel x0 x1 x2 x3 x4 x5 s
  | .vred x0 x1 x2 x3 x4 x5 x6 => Sys2Proof.Machine.execVred x0 x1 x2 x3 x4 x5 x6 s
  | .vscan x0 x1 x2 x3 x4 x5 x6 x7 => Sys2Proof.Machine.execVscan x0 x1 x2 x3 x4 x5 x6 x7 s
  | .vcvt x0 x1 x2 x3 x4 x5 x6 x7 x8 => Sys2Proof.Machine.execVcvt x0 x1 x2 x3 x4 x5 x6 x7 x8 s
  | .vpack x0 x1 x2 x3 x4 x5 x6 x7 x8 => Sys2Proof.Machine.execVpack x0 x1 x2 x3 x4 x5 x6 x7 x8 s
  | .vunpk x0 x1 x2 x3 x4 x5 x6 x7 x8 x9 => Sys2Proof.Machine.execVunpk x0 x1 x2 x3 x4 x5 x6 x7 x8 x9 s
  | .vextr x0 x1 x2 x3 x4 => Sys2Proof.Machine.execVextr x0 x1 x2 x3 x4 s
  | .vins x0 x1 x2 x3 x4 => Sys2Proof.Machine.execVins x0 x1 x2 x3 x4 s
  | .vcomp x0 x1 x2 x3 x4 => Sys2Proof.Machine.execVcomp x0 x1 x2 x3 x4 s
  | .vprune x0 x1 x2 x3 x4 x5 => Sys2Proof.Machine.execVprune x0 x1 x2 x3 x4 x5 s
  | .mcfg x0 x1 => Sys2Proof.Machine.execMcfg x0 x1 s
  | .mzero x0 x1 x2 x3 => Sys2Proof.Machine.execMzero x0 x1 x2 x3 s
  | .mmul x0 x1 x2 => Sys2Proof.Machine.execMmul x0 x1 x2 s
  | .mmuls x0 x1 x2 => Sys2Proof.Machine.execMmuls x0 x1 x2 s
  | .mloada x0 x1 x2 => Sys2Proof.Machine.execMloada x0 x1 x2 s
  | .mdrain x0 x1 x2 => Sys2Proof.Machine.execMdrain x0 x1 x2 s
  | .mchk x0 x1 x2 => Sys2Proof.Machine.execMchk x0 x1 x2 s
  | .mloc x0 x1 x2 x3 => Sys2Proof.Machine.execMloc x0 x1 x2 x3 s
  | .mcorr x0 x1 x2 => Sys2Proof.Machine.execMcorr x0 x1 x2 s
  | .mretry x0 x1 x2 => Sys2Proof.Machine.execMretry x0 x1 x2 s
  | .minj x0 x1 => Sys2Proof.Machine.execMinj x0 x1 s
  | .mstat x0 x1 x2 x3 => Sys2Proof.Machine.execMstat x0 x1 x2 x3 s
  | .engineAcceptance x0 => Sys2Proof.Machine.execEngineAcceptance x0 s
  | .loomTurn x0 => Sys2Proof.Machine.execLoomTurn x0 s
  | .loomCommandComplete x0 x1 => Sys2Proof.Machine.execLoomCommandComplete x0 x1 s
  | .ccopy x0 x1 x2 x3 x4 x5 x6 => Sys2Proof.Machine.execCcopy x0 x1 x2 x3 x4 x5 x6 s
  | .cfill x0 x1 x2 x3 x4 => Sys2Proof.Machine.execCfill x0 x1 x2 x3 x4 s
  | .cconv x0 x1 x2 x3 x4 x5 x6 => Sys2Proof.Machine.execCconv x0 x1 x2 x3 x4 x5 x6 s
  | .cgath x0 x1 x2 x3 x4 x5 => Sys2Proof.Machine.execCgath x0 x1 x2 x3 x4 x5 s
  | .cstat x0 x1 x2 x3 => Sys2Proof.Machine.execCstat x0 x1 x2 x3 s
  | .carterChunk x0 => Sys2Proof.Machine.execCarterChunk x0 s
  | .carterCommandComplete x0 => Sys2Proof.Machine.execCarterCommandComplete x0 s
  | .wmap x0 x1 x2 x3 x4 => Sys2Proof.Machine.execWmap x0 x1 x2 x3 x4 s
  | .wunmap x0 x1 x2 => Sys2Proof.Machine.execWunmap x0 x1 x2 s
  | .wstat x0 x1 x2 x3 => Sys2Proof.Machine.execWstat x0 x1 x2 x3 s
  | .rfence x0 x1 x2 => Sys2Proof.Machine.execRfence x0 x1 x2 s
  | .rfenceComplete x0 => Sys2Proof.Machine.execRfenceComplete x0 s
  | .ctxsv x0 x1 x2 x3 => Sys2Proof.Machine.execCtxsv x0 x1 x2 x3 s
  | .ctxld x0 x1 x2 x3 => Sys2Proof.Machine.execCtxld x0 x1 x2 x3 s
  | .quantumExpiry x0 => Sys2Proof.Machine.execQuantumExpiry x0 s
  | .pagerReissue x0 => Sys2Proof.Machine.execPagerReissue x0 s
  | .pagerDeliver x0 x1 => Sys2Proof.Machine.execPagerDeliver x0 x1 s
  | .pagerResume x0 => Sys2Proof.Machine.execPagerResume x0 s
  | .pagerAbort x0 => Sys2Proof.Machine.execPagerAbort x0 s
  | .faultRecordSend x0 => Sys2Proof.Machine.execFaultRecordSend x0 s
  | .tlbInvalidate x0 => Sys2Proof.Machine.execTlbInvalidate x0 s
  | .deadlockSample x0 x1 => Sys2Proof.Machine.execDeadlockSample x0 x1 s
  | .watchdogExpiry x0 x1 => Sys2Proof.Machine.execWatchdogExpiry x0 x1 s
  | .reflectedWriteArrival x0 => Sys2Proof.Machine.execReflectedWriteArrival x0 s
  | .reflectionAck x0 x1 x2 x3 x4 => Sys2Proof.Machine.execReflectionAck x0 x1 x2 x3 x4 s
  | .retransmitRequest x0 x1 => Sys2Proof.Machine.execRetransmitRequest x0 x1 s
  | .retransmitTimeout x0 => Sys2Proof.Machine.execRetransmitTimeout x0 s
  | .spaheLinkDown x0 x1 => Sys2Proof.Machine.execSpaheLinkDown x0 x1 s
  | .pendingWindowValid x0 x1 => Sys2Proof.Machine.execPendingWindowValid x0 x1 s
  | .hostLinkUp x0 => Sys2Proof.Machine.execHostLinkUp x0 s
  | .hostLinkDown x0 => Sys2Proof.Machine.execHostLinkDown x0 s
  | .functionLevelReset x0 => Sys2Proof.Machine.execFunctionLevelReset x0 s
  | .hostAccessTimeout => Sys2Proof.Machine.execHostAccessTimeout s
  | .completionHoldTimeout x0 x1 => Sys2Proof.Machine.execCompletionHoldTimeout x0 x1 s
  | .hqkick x0 x1 x2 => Sys2Proof.Machine.execHqkick x0 x1 x2 s
  | .hostEntryReread x0 x1 => Sys2Proof.Machine.execHostEntryReread x0 x1 s
  | .hqctlWrite x0 x1 x2 => Sys2Proof.Machine.execHqctlWrite x0 x1 x2 s
  | .hcrel x0 x1 x2 => Sys2Proof.Machine.execHcrel x0 x1 x2 s
  | .devctlFwact x0 => Sys2Proof.Machine.execDevctlFwact x0 s
  | .barRegisterWrite x0 x1 x2 => Sys2Proof.Machine.execBarRegisterWrite x0 x1 x2 s
  | .startJob x0 x1 => Sys2Proof.Machine.execStartJob x0 x1 s
  | .killJob x0 => Sys2Proof.Machine.execKillJob x0 s
  | .urgentFreeze x0 => Sys2Proof.Machine.execUrgentFreeze x0 s
  | .resumeJobs x0 => Sys2Proof.Machine.execResumeJobs x0 s
  | .checkpoint x0 => Sys2Proof.Machine.execCheckpoint x0 s
  | .grantHostQueue x0 => Sys2Proof.Machine.execGrantHostQueue x0 s
  | .readLog x0 => Sys2Proof.Machine.execReadLog x0 s
  | .stageFirmware x0 => Sys2Proof.Machine.execStageFirmware x0 s
  | .stageVersion x0 x1 => Sys2Proof.Machine.execStageVersion x0 x1 s
  | .readLogCount x0 => Sys2Proof.Machine.execReadLogCount x0 s
  | .urgentRun x0 => Sys2Proof.Machine.execUrgentRun x0 s
  | .boothRecovery x0 x1 => Sys2Proof.Machine.execBoothRecovery x0 x1 s
  | .bootEnd x0 => Sys2Proof.Machine.execBootEnd x0 s
  | .stewardStart x0 x1 => Sys2Proof.Machine.execStewardStart x0 x1 s
  | .setFrequency x0 x1 => Sys2Proof.Machine.execSetFrequency x0 x1 s
  | .frequencyPauseEnd x0 => Sys2Proof.Machine.execFrequencyPauseEnd x0 s
  | .powerDown x0 x1 => Sys2Proof.Machine.execPowerDown x0 x1 s
  | .powerUp x0 x1 => Sys2Proof.Machine.execPowerUp x0 x1 s
  | .getVersion x0 => Sys2Proof.Machine.execGetVersion x0 s
  | .getCapabilities x0 => Sys2Proof.Machine.execGetCapabilities x0 s
  | .negotiateAlgorithms x0 => Sys2Proof.Machine.execNegotiateAlgorithms x0 s
  | .getDigests x0 => Sys2Proof.Machine.execGetDigests x0 s
  | .getCertificate x0 x1 x2 x3 => Sys2Proof.Machine.execGetCertificate x0 x1 x2 x3 s
  | .challenge x0 x1 => Sys2Proof.Machine.execChallenge x0 x1 s
  | .getMeasurements x0 x1 x2 => Sys2Proof.Machine.execGetMeasurements x0 x1 x2 s
  | .spdmUnsupportedRequest x0 x1 => Sys2Proof.Machine.execSpdmUnsupportedRequest x0 x1 s
  | .deviceReset => Sys2Proof.Machine.execDeviceReset s
  | .hsemaRead x0 => Sys2Proof.Machine.execHsemaRead x0 s
  | .hsemaWrite x0 x1 => Sys2Proof.Machine.execHsemaWrite x0 x1 s
  | .devctlReset x0 => Sys2Proof.Machine.execDevctlReset x0 s
  | .powerCheck x0 => Sys2Proof.Machine.execPowerCheck x0 s
  | .thermalLimit x0 => Sys2Proof.Machine.execThermalLimit x0 s
  | .futureQuarantineEnd x0 x1 => Sys2Proof.Machine.execFutureQuarantineEnd x0 x1 s
  | .junctionCooled x0 => Sys2Proof.Machine.execJunctionCooled x0 s
  | .deviceFailure x0 x1 => Sys2Proof.Machine.execDeviceFailure x0 x1 s

end Sys2Proof.Machine
end

