-- ==== Sys2Proof/Machine/Issue.lean ====
section
/-!
DEFINITION. The barrel of a tile (R14, R15), the fetch and its checks (R18, R66, R178), QUANTUM (R91), completion
latencies (R101, R132, R411), what a tile's clock brings about, and the order in which the agents of the device act
(log entry 2). Step only composes these.
-/

namespace Sys2Proof.Machine

/-! ### The barrel (R15) -/

/-- R14: ready in the tile's present cycle. While a job is frozen, only the reserve strand issues (R371). -/
def readyNow (s : State) (site k : Nat) : Bool :=
  let t := getStrand s (8 * site + k)
  let u := getTile s site
  t.run == .run && t.flight.isNone && decide (t.readyAt ≤ u.cycle) && (k == 7 || !(getJob s u.job).frozen)

/-- R15: the strand that a tile selects, counting from the one after `last`. -/
def selectFrom (s : State) (site last : Nat) : Nat → Nat → Option Nat
  | 0, _ => none
  | n + 1, i =>
    let k := (last + i) % 8
    if readyNow s site k then some k else selectFrom s site last n (i + 1)
def select (s : State) (site : Nat) : Option Nat := selectFrom s site (getTile s site).last 8 1

/-- R392: does the clock of the site's island run? -/
def clocked (s : State) (site : Nat) : Bool :=
  let y := getIsland s (yardOf site)
  isGood s site && y.powered && !y.paused

/-! ### Latencies -/

/-- R132: the cycles of a vector instruction by its format. -/
def laneLatency : Fmt → Nat
  | .f32 | .bf16 | .f16 | .e4 | .e5 => 4
  | _ => 3

/-- R101, R132, R411: cycles from issue to completion. Memory and engine instructions set their own (R207, R411). -/
def latency : Instr → Nat
  | .mul .. | .mulh .. | .mulhu .. => 3
  | .div .. | .divu .. | .rem .. | .remu .. => 34
  | .fadd .. | .fsub .. | .fmul .. | .ffma .. | .fmin .. | .fmax .. | .fcmp .. | .fcvt .. => 4
  | .fdiv .. => 14
  | .segld .. | .lea .. | .syswr .. | .fork .. | .wake .. | .trap .. | .eret .. | .stop .. => 2
  | .tspawn .. | .tend .. | .tnext .. | .halt .. | .qbind .. | .wstat .. => 2
  | .mclr .. | .tjoin .. | .qpush .. | .qpop .. | .qpeek .. | .qmark .. | .qstat .. => 3
  | .qdef .. | .qkill .. | .fnew .. | .fset .. | .fget .. | .ffree .. | .fpoison .. => 6
  | .vand .. | .vor .. | .vxor .. | .vshl .. | .vshr .. | .vsar .. | .vmov .. | .vbcast .. | .vsel .. | .vperm ..
  | .vextr .. | .vins .. | .vcomp .. | .vabs .. | .vneg .. | .vmin .. | .vmax .. | .vcmp .. => 2
  | .vadd _ f _ _ _ _ _ _ => laneLatency f
  | .vsub _ f _ _ _ _ _ _ => laneLatency f
  | .vmul _ f _ _ _ _ _ _ => laneLatency f
  | .vfma _ f _ _ _ _ _ _ _ => laneLatency f
  | .vfms _ f _ _ _ _ _ _ _ => laneLatency f
  | .vcvt .. | .vunpk .. => 4
  | .vdot .. => 5
  | .vpack .. | .vprune .. => 6
  | .vred .. => 8
  | .vscan .. => 12
  | .vdiv .. | .vsqrt .. | .vrcp .. | .vrsq .. | .vexp2 .. | .vlog2 .. => 14
  | .rng .. | .vrng .. | .cstat .. => 2
  | _ => 1

/-! ### Fetch (R18, R58, R66) -/

/-- The keys of the 12 bytes at the PC of a strand. -/
def fetchKeys (s : State) (e : SRef) : List Nat := keysFrom (localKey e.site (getStrand s (skey e)).pc.toNat) 12

/-- What a tile's cycle does: nothing issues, the fetch or the decoder raises a cause, or an instruction runs. -/
inductive Issue where
  | idle (s : State)
  | run (i : Instr) (s : State)

/-- R91: QUANTUM at issue. -/
def countQuantum (t : Strand) : Strand :=
  { t with quantum := t.quantum - (if t.quantum = 0 then 0 else 1), timerDue := t.timerDue || t.quantum == 1 }

/-- R91: QUANTUM after `n` issues. -/
def countIssues : Nat → Strand → Strand
  | 0, t => t
  | n + 1, t => countIssues n (countQuantum t)

/-- R91, R361, R362: QUANTUM after the loader's trap code has run: its instructions and its ERET count. -/
def countTrapCode (t : Strand) : Strand := countQuantum (countIssues (Config.trapCodeIssues t.cause.toNat) t)

/-- R15, R18, R66, R91: the fetch of strand `e`, which has been selected. A user strand that stands at its steward vector runs
the loader's trap code there (R364; log entry 18). QUANTUM counts also the issue of an instruction that then raises ILLEGAL or
PRIV (log entry 91). -/
def fetch (e : SRef) (s : State) : Issue :=
  if atTrapCode e s then
    .idle (trapCode e (modStrand (skey e) countTrapCode (modTile e.site (fun u => { u with last := e.k }) s)))
  else
  let s := modTile e.site (fun u => { u with last := e.k }) (asStrand e s)
  let s := modMe countQuantum s
  let pc := (me s).pc
  if 0x40000 < pc.toNat + 12 then .idle (raise .addr pc s)
  else
    let ks := fetchKeys s e
    match poisonRead s ks with
    | some w => .idle (raise .uncorr (localAbs w) s)
    | none =>
      match decode (readKeys s ks) with
      | .error _ => .idle (raise .illegal pc s)
      | .ok (i, _) => .run i (readyIn (1 + latency i) s)

/-- One cycle of a tile, up to the execution of the instruction issued; the corner of a die first verifies the firmware (R389). -/
def issue (site : Nat) (s : State) : Issue :=
  if !clocked s site then .idle s
  else if verifies s site then .idle (verifyTurn (dieOf site) s)
  else match select s site with
    | none => .idle s
    | some k => fetch ⟨site, k⟩ s

/-! ### The clock of a tile -/

/-- R14, R97: the instruction of a strand completes: STOP (R119), a push to an output port (R98), SYSWR of a tile, booth or
device register (R124); one that has had its effect ends at its boundary, in the cycle `c` before the next can issue, where
HALT (R120) or a wake that came meanwhile (R118) acts. -/
def completeFlight (e : SRef) (c : Nat) (s : State) : State :=
  let t := getStrand s (skey e)
  match t.flight with
  | some .pause => enqueueOnce (.yieldPauseEnd e) s
  | some .stop => stopStrand e s
  | some (.push n v) => completePush n v (asStrand e s)
  | some (.sys r v n due) => completeSys e r v n due s
  | some (.mwait ..) => mwaitTouched e s
  | some _ => s
  | none => if t.run = .run ∧ t.readyAt = c + 1 ∧ (t.halting ∨ t.wakeDue) then boundary e s else s

/-- R14, R353: the completions and the limits of a tile's strands that its clock has reached. -/
def strandTimers (site : Nat) (s : State) : State :=
  let c := (getTile s site).cycle
  (List.range 8).foldl (fun s k =>
    let e : SRef := ⟨site, k⟩
    let t := getStrand s (skey e)
    let s := if t.readyAt ≤ c + 1 then completeFlight e c s else s
    match t.wait with
    | some ⟨.mons, _, _, n⟩ => if t.run = .waitm ∧ limitDue n c then mwaitEnd e (2 ^ 5) s else s
    | _ => s) s

/-- R33, R34: the detector and the watchdog of the booth whose lowest-numbered tile this is. -/
def boothTimers (site : Nat) (s : State) : State :=
  let u := getTile s site
  let bk := boothOf s site
  if u.booth = 0 ∨ (getBooth s bk).tiles.head? ≠ some site then s
  else
    let s := modBooth bk (fun b => { b with watch := b.watch + 1 }) s
    let s := if u.cycle % 1024 = 0 then enqueueOnce (.deadlockSample u.job.toNat u.booth) s else s
    if (getBooth s bk).period ≤ (getBooth s bk).watch then enqueueOnce (.watchdogExpiry u.job.toNat u.booth) s else s

/-- The end of a tile's cycle: CYCLE counts (R92), and what falls due is put on the agenda. -/
def endCycle (site : Nat) (s : State) : State :=
  if !clocked s site then s
  else
    let s := modTile site (fun u => { u with cycle := (u.cycle + 1) % 2 ^ 64 }) s
    let s := strandTimers site s
    let s := if (getTile s site).cycle % 256 = 0 then enqueueOnce (.balanceTick site) s else s
    settleEdges (spillTimers site (boothTimers site s))

/-- R271: what an event leads to, with the edges that it makes possible. -/
def settled (r : Res) : Res :=
  match r with
  | .next s => .next (settleEdges s)
  | r => r

/-! ### Which agent acts next (log entry 2) -/

/-- What one step does. -/
inductive Agenda where
  | done (s : State)
  | event (i : Instr) (s : State)
  | cycle (site : Nat) (s : State)
  | bad

/-- The next good site after `site`, at most `n` further; DEVTIME counts where the round begins again. -/
def nextSite (s : State) : Nat → Nat → Nat
  | 0, site => site
  | n + 1, site =>
    let t := if site + 1 < 4096 then site + 1 else 0
    if isGood s t then t else nextSite s n t
def advanceTurn (s : State) : State :=
  let t := nextSite s 4096 s.turn
  { s with turn := t, toggle := true, devtime := if t ≤ s.turn then s.devtime + 1 else s.devtime }

/-- What the environment gives next, of which `s` no longer lists it. -/
def takeInput (x : Input) (s : State) : Agenda :=
  match x with
  | .event i => if i.isEvent then .event i s else .bad
  | .issue site => .cycle site s
  | .take n =>
    match s.internal[n]? with
    | some i => .event i { s with internal := s.internal.eraseIdx n }
    | none => .done s
  | .elapse ns => .done { s with devtime := s.devtime + BitVec.ofNat 64 ns }
  | .pager die ws inval => .done (pagerWrites die ws inval s)
  | .barRead p off => .done (barRead p off s)
  | .softError die mem corrected target => .done (softError die mem corrected target s)
  | .readErrors die => .done (readErrors die s)
  | .bootFail die code => .done (bootFails die code s)
  | .setPeriod job booth cycles => .done (setPeriod job booth cycles s)
  | .hostWrite p addr bs => .done (hostStore p addr bs s)
  | .hostError e => .done (hostErrorOf e s)
  | .engineError e va => .done (engineErrorAt e va s)
  | .copyPage die job va frame => .done (copyPage die (BitVec.ofNat 16 job) va frame s)
  | .joined seed dev => .done (joinDevice seed dev s)
  | .takeExec die => .done (takeExec die s)
  | .enlarge q size => .done (enlargeSpill q size s)
  | .image v => .done (moveImage v s)

/-- The environment's inputs come first; else internal events and tile cycles alternate. -/
def agenda (s : State) : Agenda :=
  match s.inputs with
  | x :: r => takeInput x { s with inputs := r }
  | [] =>
    match s.toggle, s.internal with
    | true, i :: r => .event i { s with internal := r, toggle := false }
    | _, _ => .cycle s.turn (advanceTurn s)

/-! ### Placing an instruction (log entry 11) -/

/-- A strand of the tile that can issue, made ready if there is none: the strand after `last`. -/
def makeReady (site : Nat) (s : State) : Nat × State :=
  match select s site with
  | some k => (k, s)
  | none =>
    let k := ((getTile s site).last + 1) % 8
    let s := modStrand (8 * site + k) (fun t =>
      { t with run := .run, flight := none, wait := none, readyAt := (getTile s site).cycle }) s
    (k, modJob (getTile s site).job (fun j => { j with frozen := false }) s)

/-- The bytes of one instruction placed where the strand that issues next fetches them. -/
def placeWord (bs : List Byte) (s : State) : State :=
  let y := yardOf s.turn
  let s := if clocked s s.turn then s else setIsland s y { getIsland s y with powered := true, paused := false }
  let s := if verifies s s.turn then modDie (dieOf s.turn) (fun d => { d with phase := .flood }) s else s
  let r := makeReady s.turn s
  let e : SRef := ⟨s.turn, r.1⟩
  let s := if (getStrand r.2 (skey e)).pc.toNat + 12 ≤ 0x40000 then r.2 else modStrand (skey e) (fun t => { t with pc := 0 }) r.2
  let ks := fetchKeys s e
  { s with
    mem := pokeBytes (ks.zip bs) s.mem
    poison := s.poison.filter fun w => !ks.contains w && !ks.contains (w + 4)
    inputs := [.issue s.turn] }

end Sys2Proof.Machine
end

