-- ==== Sys2Proof/Machine/Step.lean ====
section
/-!
DEFINITION. One step of the device: the agenda chooses the agent, `exec` gives the meaning (log entry 2).
-/

namespace Sys2Proof.Machine

/-- R66: the instruction that a tile's cycle issues runs; then the cycle ends. -/
def stepCycle (site : Nat) (r : Issue) : Host.Outcome State Fault Refusal :=
  match r with
  | .idle s => .next (endCycle site s)
  | .run i s =>
    match exec i s with
    | .next t => .next (endCycle site t)
    | .fault f => .fault f
    | .refused q => .refused q

/-- One step. -/
def step (s : State) : Host.Outcome State Fault Refusal :=
  match agenda s with
  | .done t => .next (settleEdges t)
  | .event i t => settled (exec i t)
  | .cycle site t => stepCycle site (issue site t)
  | .bad => .refused .notAnEvent

/-- The state with one instruction at the place from which the next step fetches (log entry 11). -/
def State.withFetchWord (s : State) (nbits w : Nat) : State := placeWord (tableBytes nbits w) s

end Sys2Proof.Machine
end

