-- ==== Sys2Proof/Laws/Encoding.lean ====
section
/-!
SUPPORT. What the decoder reads back from the fields that the encoder writes: the operand codes (R59), the
B operand with its I form (R62), the memory form (R63) and the MOD sub-fields of every shape.
-/

namespace Sys2Proof

/-! ### Register codes -/

@[simp] theorem xOf_xCode : ∀ r, xOf (xCode r) = .ok r := by decide
@[simp] theorem vOf_vCode : ∀ r, vOf (vCode r) = .ok r := by decide
@[simp] theorem pOf_pCode : ∀ r, pOf (pCode r) = .ok r := by decide
@[simp] theorem kOf_kCode : ∀ r, kOf (kCode r) = .ok r := by decide
@[simp] theorem sOf_sCode : ∀ r, sOf (sCode r) = .ok r := by decide
@[simp] theorem vOf_xCode : ∀ r, vOf (xCode r) = .error .operandCode := by decide
@[simp] theorem vOf_kCode : ∀ r, vOf (kCode r) = .error .operandCode := by decide
@[simp] theorem kOf_xCode : ∀ r, kOf (xCode r) = .error .operandCode := by decide
@[simp] theorem pOf_xCode : ∀ r, pOf (xCode r) = .error .operandCode := by decide
theorem srcOf_x : ∀ r, srcOf (xCode r) = .ok (.x r) := by decide
theorem srcOf_iq : ∀ n : Fin 2, srcOf (BitVec.ofNat 8 (0x48 + n.val)) = .ok (.iq n) := by decide
theorem dstOf_x : ∀ r, dstOf (xCode r) = .ok (.x r) := by decide
theorem dstOf_oq : ∀ n : Fin 2, dstOf (BitVec.ofNat 8 (0x4A + n.val)) = .ok (.oq n) := by decide
theorem xvOf_x : ∀ r, xvOf (xCode r) = .ok (.x r) := by decide
theorem xvOf_v : ∀ r, xvOf (vCode r) = .ok (.v r) := by decide
theorem hportOf_x : ∀ r, hportOf (xCode r) = .ok (.x r) := by decide
theorem hportOf_oq : ∀ n : Fin 2, hportOf (BitVec.ofNat 8 (0x4A + n.val)) = .ok (.oq n) := by decide
theorem pOf_iq : ∀ n : Fin 2, pOf (BitVec.ofNat 8 (0x48 + n.val)) = .error .operandCode := by decide
theorem pOf_oq : ∀ n : Fin 2, pOf (BitVec.ofNat 8 (0x4A + n.val)) = .error .operandCode := by decide
theorem vCode_ne_zero : ∀ r, (vCode r == 0) = false := by decide

@[simp] theorem srcOf_code (s : Src) : srcOf s.code = .ok s := by
  cases s <;> simp only [Src.code, srcOf_x, srcOf_iq]
@[simp] theorem dstOf_code (d : Dst) : dstOf d.code = .ok d := by
  cases d <;> simp only [Dst.code, dstOf_x, dstOf_oq]
@[simp] theorem xvOf_code (b : XV) : xvOf b.code = .ok b := by
  cases b <;> simp only [XV.code, xvOf_x, xvOf_v]
@[simp] theorem hportOf_code (a : HPort) : hportOf a.code = .ok a := by
  cases a <;> simp only [HPort.code, hportOf_x, hportOf_oq]
@[simp] theorem pOf_src (s : Src) : pOf s.code = .error .operandCode := by
  cases s <;> simp only [Src.code, pOf_xCode, pOf_iq]
@[simp] theorem pOf_dst (d : Dst) : pOf d.code = .error .operandCode := by
  cases d <;> simp only [Dst.code, pOf_xCode, pOf_oq]

/-! ### Codes of the enumerations -/

@[simp] theorem Fmt.ofCode_code (f : Fmt) : Fmt.ofCode f.code = some f := by cases f <;> rfl
@[simp] theorem Rnd.ofCode_code (r : Rnd) : Rnd.ofCode r.code = some r := by cases r <;> rfl
@[simp] theorem Ordn.ofCode_code (o : Ordn) : Ordn.ofCode o.code = some o := by cases o <;> rfl
@[simp] theorem Size.ofCode_code (s : Size) : Size.ofCode s.code = some s := by cases s <;> rfl
@[simp] theorem Cond.ofCode_code (c : Cond) : Cond.ofCode c.code = some c := by cases c <;> rfl
@[simp] theorem FCond.ofCode_code (c : FCond) : FCond.ofCode c.code = some c := by cases c <;> rfl
@[simp] theorem RedOp.ofCode_code (o : RedOp) : RedOp.ofCode o.code = some o := by cases o <;> rfl
@[simp] theorem NType.ofCode_code (t : NType) : NType.ofCode t.code = some t := by cases t <;> rfl
@[simp] theorem QKind.ofCode_code (k : QKind) : QKind.ofCode k.code = some k := by cases k <;> rfl
@[simp] theorem QSel.ofCode_code (s : QSel) : QSel.ofCode s.code = some s := by cases s <;> rfl
@[simp] theorem SysReg.ofCode_code (r : SysReg) : SysReg.ofCode r.code = some r := by cases r <;> rfl
theorem Hint.ofCode_code (h : Hint) : Hint.ofCode (BitVec.ofNat 4 h.code).toNat = some h := by cases h <;> rfl
theorem Fmt.ofCode_imm (f : Fmt) : Fmt.ofCode (BitVec.ofNat 32 f.code).toNat = some f := by cases f <;> rfl
theorem RedOp.ofCode_imm (o : RedOp) : RedOp.ofCode (BitVec.ofNat 32 o.code).toNat = some o := by cases o <;> rfl
theorem SysReg.ofCode_imm (r : SysReg) : SysReg.ofCode (BitVec.ofNat 32 r.code).toNat = some r := by
  cases r <;> rfl

@[simp] theorem need_true (r : Reject) : need true r = .ok () := rfl
@[simp] theorem opt_some {α : Type} (a : α) : opt (some a) = .ok a := rfl

/-! ### Immediates and the words that carry them -/

theorem imm40_join (v : BitVec 40) : v.extractLsb' 32 8 ++ v.extractLsb' 0 32 = v := by
  apply BitVec.eq_of_getLsbD_eq; intro i hi
  simp only [BitVec.getLsbD_append, BitVec.getLsbD_extractLsb']
  split
  · simp_all
  · have h : i - 32 < 8 := by omega
    simp only [h, decide_true, Bool.true_and]
    congr 1; omega

theorem imm48_join (v : BitVec 48) : v.extractLsb' 40 8 ++ v.extractLsb' 32 8 ++ v.extractLsb' 0 32 = v := by
  apply BitVec.eq_of_getLsbD_eq; intro i hi
  simp only [BitVec.getLsbD_append, BitVec.getLsbD_extractLsb']
  split
  · simp_all
  · split
    · rename_i h1 h2
      simp only [h2, decide_true, Bool.true_and]
      congr 1; omega
    · have h : i - 32 - 8 < 8 := by omega
      simp only [h, decide_true, Bool.true_and]
      congr 1; omega

namespace Fields

/-! ### The B operand and its I form (R62) -/

/-- The I bit that a B operand sets in MOD. -/
def iOf : Opnd → BitVec 12
  | .src _ => 0
  | .imm _ => 0x800

def iOfX : XOpnd → BitVec 12
  | .x _ => 0
  | .imm _ => 0x800

def iOfV : VOpnd → BitVec 12
  | .v _ => 0
  | .imm _ => 0x800

@[simp] theorem setB_opc (f : Fields) (b : Opnd) : (f.setB b).opc = f.opc := by cases b <;> rfl
@[simp] theorem setB_gn (f : Fields) (b : Opnd) : (f.setB b).gn = f.gn := by cases b <;> rfl
@[simp] theorem setB_gp (f : Fields) (b : Opnd) : (f.setB b).gp = f.gp := by cases b <;> rfl
@[simp] theorem setB_hint (f : Fields) (b : Opnd) : (f.setB b).hint = f.hint := by cases b <;> rfl
@[simp] theorem setB_d (f : Fields) (b : Opnd) : (f.setB b).d = f.d := by cases b <;> rfl
@[simp] theorem setB_a (f : Fields) (b : Opnd) : (f.setB b).a = f.a := by cases b <;> rfl
@[simp] theorem setB_mod (f : Fields) (b : Opnd) : (f.setB b).mod = f.mod ||| iOf b := by
  cases b <;> simp [setB, iOf]

@[simp] theorem setX_opc (f : Fields) (b : XOpnd) : (f.setX b).opc = f.opc := by cases b <;> rfl
@[simp] theorem setX_gn (f : Fields) (b : XOpnd) : (f.setX b).gn = f.gn := by cases b <;> rfl
@[simp] theorem setX_gp (f : Fields) (b : XOpnd) : (f.setX b).gp = f.gp := by cases b <;> rfl
@[simp] theorem setX_hint (f : Fields) (b : XOpnd) : (f.setX b).hint = f.hint := by cases b <;> rfl
@[simp] theorem setX_d (f : Fields) (b : XOpnd) : (f.setX b).d = f.d := by cases b <;> rfl
@[simp] theorem setX_a (f : Fields) (b : XOpnd) : (f.setX b).a = f.a := by cases b <;> rfl
@[simp] theorem setX_mod (f : Fields) (b : XOpnd) : (f.setX b).mod = f.mod ||| iOfX b := by
  cases b <;> simp [setX, iOfX]

@[simp] theorem setV_opc (f : Fields) (b : VOpnd) : (f.setV b).opc = f.opc := by cases b <;> rfl
@[simp] theorem setV_gn (f : Fields) (b : VOpnd) : (f.setV b).gn = f.gn := by cases b <;> rfl
@[simp] theorem setV_gp (f : Fields) (b : VOpnd) : (f.setV b).gp = f.gp := by cases b <;> rfl
@[simp] theorem setV_hint (f : Fields) (b : VOpnd) : (f.setV b).hint = f.hint := by cases b <;> rfl
@[simp] theorem setV_d (f : Fields) (b : VOpnd) : (f.setV b).d = f.d := by cases b <;> rfl
@[simp] theorem setV_a (f : Fields) (b : VOpnd) : (f.setV b).a = f.a := by cases b <;> rfl
@[simp] theorem setV_mod (f : Fields) (b : VOpnd) : (f.setV b).mod = f.mod ||| iOfV b := by
  cases b <;> simp [setV, iOfV]

/-- A word whose B, C and IMM32 are still zero and whose I bit is clear. -/
structure Blank (f : Fields) : Prop where
  b   : f.b = 0
  c   : f.c = 0
  imm : f.imm = 0
  i   : f.mod.getLsbD 11 = false

theorem opnd_setB {f : Fields} (h : f.Blank) (b : Opnd) : opnd (f.setB b) = .ok b := by
  cases b with
  | src s => simp only [opnd, setB, iForm, h.i, h.c, h.imm, cZero, immZero, beq_self_eq_true, need_true, srcOf_code,
      bind, Except.bind, Except.map, Bool.false_eq_true, if_false]
  | imm v => simp [opnd, setB, iForm, imm40, bZero, h.b, imm40_join, bind, Except.bind, pure, Except.pure, Except.map]

theorem xopnd_setX {f : Fields} (h : f.Blank) (b : XOpnd) : xopnd (f.setX b) = .ok b := by
  cases b with
  | x s => simp only [xopnd, setX, iForm, h.i, h.c, h.imm, cZero, immZero, beq_self_eq_true, need_true, xOf_xCode,
      bind, Except.bind, Except.map, Bool.false_eq_true, if_false]
  | imm v => simp [xopnd, setX, iForm, imm40, bZero, h.b, imm40_join, bind, Except.bind, pure, Except.pure, Except.map]

theorem vopnd_setV {f : Fields} (h : f.Blank) (b : VOpnd) : vopnd (f.setV b) = .ok b := by
  cases b with
  | v s => simp only [vopnd, setV, iForm, h.i, h.c, h.imm, cZero, immZero, beq_self_eq_true, need_true, vOf_vCode,
      bind, Except.bind, Except.map, Bool.false_eq_true, if_false]
  | imm v => simp [vopnd, setV, iForm, imm40, bZero, h.b, imm40_join, bind, Except.bind, pure, Except.pure, Except.map]

/-! ### The memory form (R63) and the 48-bit immediate (R64) -/

theorem seg_code : ∀ s : SReg, (BitVec.ofNat 8 s.val).toNat < 8 ∧ Fin.ofNat 8 (BitVec.ofNat 8 s.val).toNat = s := by
  decide

theorem memOp_of {f : Fields} {m : MemOp} (ha : f.a = xCode m.idx) (hc : f.c = BitVec.ofNat 8 m.seg.val)
    (hi : f.imm = m.disp) : memOp f = .ok m := by
  have h := seg_code m.seg
  simp only [memOp, ha, hc, hi, h.1, decide_true, need_true, xOf_xCode, bind, Except.bind, pure, Except.pure, h.2]

theorem imm48_set48 (f : Fields) (v : BitVec 48) : imm48 (f.set48 v) = v := by
  simp only [imm48, set48, imm48_join]

theorem hintOf_code {f : Fields} {h : Hint} (hh : f.hint = BitVec.ofNat 4 h.code) : hintOf f = .ok h := by
  simp only [hintOf, hh, Hint.ofCode_code]

/-! ### MOD with the I bit or without it -/

theorem modOnly_of {f : Fields} {mask : Nat} (h : f.mod &&& ~~~(BitVec.ofNat 12 mask) = 0) :
    modOnly f mask = .ok () := by
  simp only [modOnly, h, beq_self_eq_true, need_true]

end Fields

theorem iBit_getLsbD {k : Nat} (h : k ≠ 11) : (0x800#12).getLsbD k = false := by
  rcases Nat.lt_or_ge k 12 with h' | h'
  · interval_cases k <;> first | rfl | exact absurd rfl h
  · exact BitVec.getLsbD_of_ge _ _ h'

/-- Every part of a MOD below the I bit that a shape reads, as the encoder wrote it. -/
theorem fld_or_i {m i : BitVec 12} {lo len : Nat} (hi : i = 0 ∨ i = 0x800) (h : lo + len ≤ 11) :
    fld (m ||| i) lo len = fld m lo len := by
  rcases hi with rfl | rfl
  · simp
  · have : (0x800#12).extractLsb' lo len = 0 := by
      apply BitVec.eq_of_getLsbD_eq; intro k hk
      rw [BitVec.getLsbD_extractLsb', iBit_getLsbD (by omega)]
      simp
    simp only [fld, BitVec.extractLsb'_or, this, BitVec.ofNat_eq_ofNat, BitVec.or_zero]

theorem bit_or_i {m i : BitVec 12} {k : Nat} (hi : i = 0 ∨ i = 0x800) (h : k ≠ 11) :
    (m ||| i).getLsbD k = m.getLsbD k := by
  rcases hi with rfl | rfl
  · simp
  · rw [BitVec.getLsbD_or, show (2048 : BitVec 12) = 0x800#12 from rfl, iBit_getLsbD h, Bool.or_false]

theorem Fields.iOf_cases (b : Opnd) : iOf b = 0 ∨ iOf b = 0x800 := by cases b <;> simp [iOf]
theorem Fields.iOfX_cases (b : XOpnd) : iOfX b = 0 ∨ iOfX b = 0x800 := by cases b <;> simp [iOfX]
theorem Fields.iOfV_cases (b : VOpnd) : iOfV b = 0 ∨ iOfV b = 0x800 := by cases b <;> simp [iOfV]

theorem mask_or_i {m i M : BitVec 12} (hi : i = 0 ∨ i = 0x800) (hM : 0x800#12 &&& ~~~M = 0)
    (h : m &&& ~~~M = 0) : (m ||| i) &&& ~~~M = 0 := by
  rcases hi with rfl | rfl
  · simpa using h
  · rw [BitVec.and_comm, BitVec.and_or_distrib_left, BitVec.and_comm, h, BitVec.and_comm (~~~M)]
    exact (by simpa using hM : (0 : BitVec 12) ||| (2048 &&& ~~~M) = 0)

end Sys2Proof
end

