-- ==== Sys2Proof/Laws/Mod.lean ====
section
/-!
SUPPORT. The MOD field (R58, R60, R68): what the decoder reads from each sum of sub-fields that the encoder writes,
and that no bit outside the entry's sub-fields is set.
-/

namespace Sys2Proof

/-- `m` sets nothing outside `mask` and leaves the I bit clear. -/
def Within (m : BitVec 12) (mask : Nat) : Prop :=
  m &&& ~~~(BitVec.ofNat 12 mask) = 0 ∧ m.getLsbD 11 = false

theorem Within.modOnly {f : Fields} {mask : Nat} (h : Within f.mod mask) : f.modOnly mask = .ok () :=
  Fields.modOnly_of h.1

theorem Within.modOnly_i {f : Fields} {m i : BitVec 12} {mask : Nat} (hf : f.mod = m ||| i)
    (hi : i = 0 ∨ i = 0x800) (hM : 0x800#12 &&& ~~~(BitVec.ofNat 12 mask) = 0)
    (h : m &&& ~~~(BitVec.ofNat 12 mask) = 0) : f.modOnly mask = .ok () :=
  Fields.modOnly_of (by rw [hf]; exact mask_or_i hi hM h)

theorem mod_zero : Within (BitVec.ofNat 12 0) 0 := by unfold Within; decide

theorem mod_fin8 : ∀ n : Fin 8, Within (BitVec.ofNat 12 n.val) 0x807 ∧
    BitVec.ofNat 12 n.val &&& ~~~(BitVec.ofNat 12 7) = 0 ∧ Fin.ofNat 8 (fld (BitVec.ofNat 12 n.val) 0 3) = n := by
  unfold Within; decide

theorem mod_fin4 : ∀ n : Fin 4, Within (BitVec.ofNat 12 n.val) 0x803 ∧
    BitVec.ofNat 12 n.val &&& ~~~(BitVec.ofNat 12 3) = 0 ∧ Fin.ofNat 4 (fld (BitVec.ofNat 12 n.val) 0 2) = n := by
  unfold Within; decide

theorem mod_fin3 : ∀ n : Fin 3, Within (BitVec.ofNat 12 n.val) 0x803 ∧ fld (BitVec.ofNat 12 n.val) 0 2 ≠ 3 ∧
    Fin.ofNat 3 (fld (BitVec.ofNat 12 n.val) 0 2) = n := by
  unfold Within; decide

theorem mod_wsel : ∀ n : Fin 3, Within (BitVec.ofNat 12 (2 * n.val)) 0x806 ∧
    fld (BitVec.ofNat 12 (2 * n.val)) 1 2 ≠ 3 ∧ Fin.ofNat 3 (fld (BitVec.ofNat 12 (2 * n.val)) 1 2) = n := by
  unfold Within; decide

theorem mod_bit (b : Bool) : Within (BitVec.ofNat 12 (b2n b)) 0x801 ∧ Within (BitVec.ofNat 12 (b2n b)) 1 ∧
    (BitVec.ofNat 12 (b2n b)).getLsbD 0 = b := by
  unfold Within; cases b <;> decide

theorem mod_fp (f : Fmt) (r : Rnd) (s : Bool) : Within (BitVec.ofNat 12 (f.code + 16 * r.code + 128 * b2n s)) 0x8FF ∧
    fld (BitVec.ofNat 12 (f.code + 16 * r.code + 128 * b2n s)) 0 4 = f.code ∧
    fld (BitVec.ofNat 12 (f.code + 16 * r.code + 128 * b2n s)) 4 3 = r.code ∧
    (BitVec.ofNat 12 (f.code + 16 * r.code + 128 * b2n s)).getLsbD 7 = s := by
  unfold Within; cases f <;> cases r <;> cases s <;> decide

theorem mod_fm (f : Fmt) : Within (BitVec.ofNat 12 (f.code + 16 * Rnd.rne.code + 128 * b2n false)) 0x80F ∧
    fld (BitVec.ofNat 12 (f.code + 16 * Rnd.rne.code + 128 * b2n false)) 0 4 = f.code := by
  unfold Within; cases f <;> decide

theorem mod_fcmp (f : Fmt) (c : FCond) : Within (BitVec.ofNat 12 (f.code + 256 * c.code)) 0xF0F ∧
    fld (BitVec.ofNat 12 (f.code + 256 * c.code)) 0 4 = f.code ∧
    fld (BitVec.ofNat 12 (f.code + 256 * c.code)) 8 3 = c.code := by
  unfold Within; cases f <;> cases c <;> decide

theorem mod_fcvt (f : Fmt) (r : Rnd) (s l : Bool) :
    Within (BitVec.ofNat 12 (f.code + 16 * r.code + 128 * b2n s + 256 * b2n l)) 0x1FF ∧
    fld (BitVec.ofNat 12 (f.code + 16 * r.code + 128 * b2n s + 256 * b2n l)) 0 4 = f.code ∧
    fld (BitVec.ofNat 12 (f.code + 16 * r.code + 128 * b2n s + 256 * b2n l)) 4 3 = r.code ∧
    (BitVec.ofNat 12 (f.code + 16 * r.code + 128 * b2n s + 256 * b2n l)).getLsbD 7 = s ∧
    (BitVec.ofNat 12 (f.code + 16 * r.code + 128 * b2n s + 256 * b2n l)).getLsbD 8 = l := by
  unfold Within; cases f <;> cases r <;> cases s <;> cases l <;> decide

theorem mod_cmp (c : Cond) : Within (BitVec.ofNat 12 c.code) 0x807 ∧ fld (BitVec.ofNat 12 c.code) 0 3 = c.code := by
  unfold Within; cases c <;> decide

theorem mod_pred (a b : Bool) : Within (BitVec.ofNat 12 (b2n a + 2 * b2n b)) 3 ∧
    (BitVec.ofNat 12 (b2n a + 2 * b2n b)).getLsbD 0 = a ∧ (BitVec.ofNat 12 (b2n a + 2 * b2n b)).getLsbD 1 = b := by
  unfold Within; cases a <;> cases b <;> decide

theorem mod_ld (z : Size) (s : Bool) (o : Ordn) :
    Within (BitVec.ofNat 12 (z.code + 4 * b2n s + 256 * o.code)) 0x307 ∧
    fld (BitVec.ofNat 12 (z.code + 4 * b2n s + 256 * o.code)) 0 2 = z.code ∧
    (BitVec.ofNat 12 (z.code + 4 * b2n s + 256 * o.code)).getLsbD 2 = s ∧
    fld (BitVec.ofNat 12 (z.code + 4 * b2n s + 256 * o.code)) 8 2 = o.code := by
  unfold Within; cases z <;> cases s <;> cases o <;> decide

theorem mod_st (z : Size) (o : Ordn) : Within (BitVec.ofNat 12 (z.code + 256 * o.code)) 0x303 ∧
    fld (BitVec.ofNat 12 (z.code + 256 * o.code)) 0 2 = z.code ∧
    fld (BitVec.ofNat 12 (z.code + 256 * o.code)) 8 2 = o.code := by
  unfold Within; cases z <;> cases o <;> decide

theorem mod_ldv (z : Size) (k : KReg) (o : Ordn) :
    Within (BitVec.ofNat 12 (z.code + 16 * k.val + 256 * o.code)) 0x373 ∧
    fld (BitVec.ofNat 12 (z.code + 16 * k.val + 256 * o.code)) 0 2 = z.code ∧
    Fin.ofNat 8 (fld (BitVec.ofNat 12 (z.code + 16 * k.val + 256 * o.code)) 4 3) = k ∧
    fld (BitVec.ofNat 12 (z.code + 16 * k.val + 256 * o.code)) 8 2 = o.code := by
  unfold Within; cases z <;> cases o <;> revert k <;> decide

theorem mod_gath (z : Size) (k : KReg) (s : Bool) (o : Ordn) :
    Within (BitVec.ofNat 12 (z.code + 16 * k.val + 128 * b2n s + 256 * o.code)) 0x3F3 ∧
    fld (BitVec.ofNat 12 (z.code + 16 * k.val + 128 * b2n s + 256 * o.code)) 0 2 = z.code ∧
    Fin.ofNat 8 (fld (BitVec.ofNat 12 (z.code + 16 * k.val + 128 * b2n s + 256 * o.code)) 4 3) = k ∧
    (BitVec.ofNat 12 (z.code + 16 * k.val + 128 * b2n s + 256 * o.code)).getLsbD 7 = s ∧
    fld (BitVec.ofNat 12 (z.code + 16 * k.val + 128 * b2n s + 256 * o.code)) 8 2 = o.code := by
  unfold Within; cases z <;> cases s <;> cases o <;> revert k <;> decide

theorem mod_stn (h : Bool) (o : Ordn) : Within (BitVec.ofNat 12 (b2n h + 256 * o.code)) 0x301 ∧
    (BitVec.ofNat 12 (b2n h + 256 * o.code)).getLsbD 0 = h ∧
    fld (BitVec.ofNat 12 (b2n h + 256 * o.code)) 8 2 = o.code := by
  unfold Within; cases h <;> cases o <;> decide

theorem mod_atom (z : Size) (o : Ordn) (n : Bool) :
    Within (BitVec.ofNat 12 (z.code + 256 * o.code + 1024 * b2n n)) 0x703 ∧
    fld (BitVec.ofNat 12 (z.code + 256 * o.code + 1024 * b2n n)) 0 2 = z.code ∧
    fld (BitVec.ofNat 12 (z.code + 256 * o.code + 1024 * b2n n)) 8 2 = o.code ∧
    (BitVec.ofNat 12 (z.code + 256 * o.code + 1024 * b2n n)).getLsbD 10 = n := by
  unfold Within; cases z <;> cases n <;> cases o <;> decide

theorem mod_acas (z : Size) (o : Ordn) :
    Within (BitVec.ofNat 12 (z.code + 256 * o.code + 1024 * b2n false)) 0x303 := by
  unfold Within; cases z <;> cases o <;> decide

theorem mod_af (f : Fmt) (o : Ordn) (n : Bool) :
    Within (BitVec.ofNat 12 (afLo f + 256 * o.code + 1024 * b2n n)) 0x7F3 ∧
    fld (BitVec.ofNat 12 (afLo f + 256 * o.code + 1024 * b2n n)) 4 4 = f.code ∧
    fld (BitVec.ofNat 12 (afLo f + 256 * o.code + 1024 * b2n n)) 8 2 = o.code ∧
    fld (BitVec.ofNat 12 (afLo f + 256 * o.code + 1024 * b2n n)) 0 2 = (if f == .f32 then 2 else 1) ∧
    (BitVec.ofNat 12 (afLo f + 256 * o.code + 1024 * b2n n)).getLsbD 10 = n := by
  unfold Within; cases f <;> cases n <;> cases o <;> decide

theorem mod_land (o : Ordn) (n : Bool) :
    Within (BitVec.ofNat 12 (0 + 256 * o.code + 1024 * b2n n)) 0x700 ∧
    fld (BitVec.ofNat 12 (0 + 256 * o.code + 1024 * b2n n)) 8 2 = o.code ∧
    (BitVec.ofNat 12 (0 + 256 * o.code + 1024 * b2n n)).getLsbD 10 = n := by
  unfold Within; cases n <;> cases o <;> decide

theorem mod_fence (o : Ordn) : Within (BitVec.ofNat 12 (256 * o.code)) 0x300 ∧
    fld (BitVec.ofNat 12 (256 * o.code)) 8 2 = o.code := by
  unfold Within; cases o <;> decide

theorem mod_push (t r : Bool) : Within (BitVec.ofNat 12 (b2n t + 512 * b2n r)) 0x201 ∧
    (BitVec.ofNat 12 (b2n t + 512 * b2n r)).getLsbD 0 = t ∧
    (BitVec.ofNat 12 (b2n t + 512 * b2n r)).getLsbD 9 = r := by
  unfold Within; cases t <;> cases r <;> decide

theorem mod_pop (t r : Bool) : Within (BitVec.ofNat 12 (b2n t + 256 * b2n r)) 0x101 ∧
    (BitVec.ofNat 12 (b2n t + 256 * b2n r)).getLsbD 0 = t ∧
    (BitVec.ofNat 12 (b2n t + 256 * b2n r)).getLsbD 8 = r := by
  unfold Within; cases t <;> cases r <;> decide

theorem mod_qkind (k : QKind) : Within (BitVec.ofNat 12 k.code) 0x803 ∧
    fld (BitVec.ofNat 12 k.code) 0 2 = k.code := by
  unfold Within; cases k <;> decide

theorem mod_qsel (k : QSel) : Within (BitVec.ofNat 12 k.code) 7 ∧ fld (BitVec.ofNat 12 k.code) 0 3 = k.code := by
  unfold Within; cases k <;> decide

theorem mod_v (f : Fmt) (r : Rnd) (s : Bool) (k : KReg) :
    Within (BitVec.ofNat 12 (f.code + 16 * r.code + 128 * b2n s + 256 * k.val)) 0x7FF ∧
    fld (BitVec.ofNat 12 (f.code + 16 * r.code + 128 * b2n s + 256 * k.val)) 0 4 = f.code ∧
    fld (BitVec.ofNat 12 (f.code + 16 * r.code + 128 * b2n s + 256 * k.val)) 4 3 = r.code ∧
    (BitVec.ofNat 12 (f.code + 16 * r.code + 128 * b2n s + 256 * k.val)).getLsbD 7 = s ∧
    Fin.ofNat 8 (fld (BitVec.ofNat 12 (f.code + 16 * r.code + 128 * b2n s + 256 * k.val)) 8 3) = k := by
  unfold Within; cases f <;> cases r <;> cases s <;> revert k <;> decide

/-- The vector MOD without RND (R127). -/
theorem mod_v_sat (f : Fmt) (s : Bool) (k : KReg) :
    Within (BitVec.ofNat 12 (f.code + 16 * Rnd.rne.code + 128 * b2n s + 256 * k.val)) 0x78F := by
  unfold Within; cases f <;> cases s <;> revert k <;> decide

/-- The vector MOD without RND and SAT. -/
theorem mod_v_plain (f : Fmt) (k : KReg) :
    Within (BitVec.ofNat 12 (f.code + 16 * Rnd.rne.code + 128 * b2n false + 256 * k.val)) 0x70F ∧
    Within (BitVec.ofNat 12 (f.code + 16 * Rnd.rne.code + 128 * b2n false + 256 * k.val)) 0xF0F := by
  unfold Within; cases f <;> revert k <;> decide

theorem mod_vcmp (f : Fmt) (c : FCond) (k : KReg) :
    Within (BitVec.ofNat 12 (f.code + 16 * c.code + 256 * k.val)) 0xF7F ∧
    fld (BitVec.ofNat 12 (f.code + 16 * c.code + 256 * k.val)) 0 4 = f.code ∧
    fld (BitVec.ofNat 12 (f.code + 16 * c.code + 256 * k.val)) 4 3 = c.code ∧
    Fin.ofNat 8 (fld (BitVec.ofNat 12 (f.code + 16 * c.code + 256 * k.val)) 8 3) = k := by
  unfold Within; cases f <;> cases c <;> revert k <;> decide

theorem mod_bcast (f : Fmt) (k : KReg) : Within (BitVec.ofNat 12 (f.code + 256 * k.val)) 0xF0F ∧
    fld (BitVec.ofNat 12 (f.code + 256 * k.val)) 0 4 = f.code ∧
    Fin.ofNat 8 (fld (BitVec.ofNat 12 (f.code + 256 * k.val)) 8 3) = k := by
  unfold Within; cases f <;> revert k <;> decide

theorem mod_vred (f : Fmt) (r : Rnd) (k : KReg) :
    Within (BitVec.ofNat 12 (f.code + 16 * r.code + 256 * k.val)) 0x77F ∧
    fld (BitVec.ofNat 12 (f.code + 16 * r.code + 256 * k.val)) 0 4 = f.code ∧
    fld (BitVec.ofNat 12 (f.code + 16 * r.code + 256 * k.val)) 4 3 = r.code ∧
    Fin.ofNat 8 (fld (BitVec.ofNat 12 (f.code + 16 * r.code + 256 * k.val)) 8 3) = k := by
  unfold Within; cases f <;> cases r <;> revert k <;> decide

theorem mod_vpack (f : Fmt) (r : Rnd) : Within (BitVec.ofNat 12 (f.code + 16 * r.code)) 0x07F ∧
    fld (BitVec.ofNat 12 (f.code + 16 * r.code)) 0 4 = f.code ∧
    fld (BitVec.ofNat 12 (f.code + 16 * r.code)) 4 3 = r.code := by
  unfold Within; cases f <;> cases r <;> decide

theorem mod_fmt (f : Fmt) : Within (BitVec.ofNat 12 f.code) 0x80F ∧ Within (BitVec.ofNat 12 f.code) 0x00F ∧
    fld (BitVec.ofNat 12 f.code) 0 4 = f.code := by
  unfold Within; cases f <;> decide

theorem mod_mk : ∀ k : KReg, Within (BitVec.ofNat 12 (256 * k.val)) 0x700 ∧
    Fin.ofNat 8 (fld (BitVec.ofNat 12 (256 * k.val)) 8 3) = k := by
  unfold Within; decide

theorem mod_mzero (i n : Bool) : Within (BitVec.ofNat 12 ((if i then 5 else 0) + 16 * b2n n)) 0x81F ∧
    (fld (BitVec.ofNat 12 ((if i then 5 else 0) + 16 * b2n n)) 0 4 == 0 || i) = true ∧
    (fld (BitVec.ofNat 12 ((if i then 5 else 0) + 16 * b2n n)) 0 4 == 5) = i ∧
    (BitVec.ofNat 12 ((if i then 5 else 0) + 16 * b2n n)).getLsbD 4 = n := by
  unfold Within; cases i <;> cases n <;> decide

theorem mod_carter (c s m : Bool) : Within (BitVec.ofNat 12 (b2n c + 2 * b2n s + 4 * b2n m)) 7 ∧
    (BitVec.ofNat 12 (b2n c + 2 * b2n s + 4 * b2n m)).getLsbD 0 = c ∧
    (BitVec.ofNat 12 (b2n c + 2 * b2n s + 4 * b2n m)).getLsbD 1 = s ∧
    (BitVec.ofNat 12 (b2n c + 2 * b2n s + 4 * b2n m)).getLsbD 2 = m := by
  unfold Within; cases c <;> cases s <;> cases m <;> decide

theorem mod_cgath (c m : Bool) : Within (BitVec.ofNat 12 (b2n c + 4 * b2n m)) 5 ∧
    (BitVec.ofNat 12 (b2n c + 4 * b2n m)).getLsbD 0 = c ∧
    (BitVec.ofNat 12 (b2n c + 4 * b2n m)).getLsbD 2 = m := by
  unfold Within; cases c <;> cases m <;> decide

/-! ### IMM32 sub-fields -/

theorem imm_vcvt (s : Fmt) (p : Fin 4) : (BitVec.ofNat 32 (s.code + 16 * p.val)).toNat < 64 ∧
    fld (BitVec.ofNat 32 (s.code + 16 * p.val)) 0 4 = s.code ∧
    Fin.ofNat 4 (fld (BitVec.ofNat 32 (s.code + 16 * p.val)) 4 2) = p := by
  cases s <;> revert p <;> decide

theorem imm_vpack (t : NType) (p : Fin 4) : (BitVec.ofNat 32 (p.val + 4 * t.code)).toNat < 16 ∧
    fld (BitVec.ofNat 32 (p.val + 4 * t.code)) 2 2 = t.code ∧
    Fin.ofNat 4 (fld (BitVec.ofNat 32 (p.val + 4 * t.code)) 0 2) = p := by
  cases t <;> revert p <;> decide

theorem imm_vunpk (h : Bool) (p : Fin 4) : (BitVec.ofNat 32 (p.val + 4 * b2n h)).toNat < 8 ∧
    (BitVec.ofNat 32 (p.val + 4 * b2n h)).getLsbD 2 = h ∧
    Fin.ofNat 4 (fld (BitVec.ofNat 32 (p.val + 4 * b2n h)) 0 2) = p := by
  cases h <;> revert p <;> decide

theorem imm_fin3 : ∀ n : Fin 3, (BitVec.ofNat 32 n.val).toNat < 3 ∧ Fin.ofNat 3 (BitVec.ofNat 32 n.val).toNat = n := by
  decide

theorem imm_fence : ∀ (m : Fin 64) (c : Fin 8),
    (BitVec.ofNat 32 (m.val + 256 * c.val)).extractLsb' 11 21 = 0 ∧
    (BitVec.ofNat 32 (m.val + 256 * c.val)).extractLsb' 6 2 = 0 ∧
    (BitVec.ofNat 32 (m.val + 256 * c.val)).extractLsb' 0 6 = BitVec.ofFin m ∧
    (BitVec.ofNat 32 (m.val + 256 * c.val)).extractLsb' 8 3 = BitVec.ofFin c := by
  decide

end Sys2Proof
end

