-- ==== Sys2Proof/Laws/Shapes.lean ====
section
/-!
SUPPORT. One lemma per operand shape of the encoding (R58 to R68): the shape's decoder reads back what the shape's
encoder wrote.
-/

namespace Sys2Proof

open Fields

theorem guard_eta (g : Guard) : (⟨g.neg, g.p⟩ : Guard) = g := rfl

/-! ### Shapes without MOD sub-fields -/

theorem decAlu_enc (opc : Nat) (g : Guard) (d : Dst) (a : Src) (b : Opnd) (mk : Guard → Dst → Src → Opnd → Instr) :
    decAlu (encAlu opc g d a b) mk = .ok (mk g d a b) := by
  have hB : Blank { base opc g with d := d.code, a := a.code } := ⟨rfl, rfl, rfl, mod_zero.2⟩
  have hb : Fields.opnd (encAlu opc g d a b) = .ok b := opnd_setB hB b
  have hm : modOnly (encAlu opc g d a b) 0x800 = .ok () :=
    Within.modOnly_i (setB_mod _ _) (iOf_cases b) (by decide) (by simp only [base]; decide)
  simp only [decAlu, hm, hb]
  simp only [encAlu, noHint, setB_hint, setB_d, setB_a, Fields.guard, setB_gn, setB_gp, base,
    beq_self_eq_true, need_true, dstOf_code, srcOf_code, bind, Except.bind, pure, Except.pure]

theorem decUn_enc (opc : Nat) (g : Guard) (d : Dst) (a : Src) (mk : Guard → Dst → Src → Instr) :
    decUn (encUn opc g d a) mk = .ok (mk g d a) := by
  have hm : modOnly (encUn opc g d a) 0 = .ok () := mod_zero.modOnly
  simp only [decUn, hm]
  simp only [encUn, noHint, bZero, cZero, immZero, Fields.guard, base,
    beq_self_eq_true, need_true, dstOf_code, srcOf_code, bind, Except.bind, pure, Except.pure]

theorem decNone_enc (opc : Nat) (g : Guard) (mk : Guard → Instr) : decNone (base opc g) mk = .ok (mk g) := by
  have hm : modOnly (base opc g) 0 = .ok () := mod_zero.modOnly
  simp only [decNone, hm]
  simp only [noHint, dZero, aZero, bZero, cZero, immZero, Fields.guard, base,
    beq_self_eq_true, need_true, bind, Except.bind, pure, Except.pure]

theorem decA_enc (opc : Nat) (g : Guard) (a : XReg) (mk : Guard → XReg → Instr) :
    decA { base opc g with a := xCode a } mk = .ok (mk g a) := by
  have hm : modOnly { base opc g with a := xCode a } 0 = .ok () := mod_zero.modOnly
  simp only [decA, hm]
  simp only [noHint, dZero, bZero, cZero, immZero, Fields.guard, base,
    beq_self_eq_true, need_true, xOf_xCode, bind, Except.bind, pure, Except.pure]

theorem decD_enc (opc : Nat) (g : Guard) (d : XReg) (mk : Guard → XReg → Instr) :
    decD { base opc g with d := xCode d } mk = .ok (mk g d) := by
  have hm : modOnly { base opc g with d := xCode d } 0 = .ok () := mod_zero.modOnly
  simp only [decD, hm]
  simp only [noHint, aZero, bZero, cZero, immZero, Fields.guard, base,
    beq_self_eq_true, need_true, xOf_xCode, bind, Except.bind, pure, Except.pure]

theorem decB_enc (opc : Nat) (g : Guard) (b : XOpnd) (mk : Guard → XOpnd → Instr) :
    decB ((base opc g).setX b) mk = .ok (mk g b) := by
  have hB : Blank (base opc g) := ⟨rfl, rfl, rfl, mod_zero.2⟩
  have hb : Fields.xopnd ((base opc g).setX b) = .ok b := xopnd_setX hB b
  have hm : modOnly ((base opc g).setX b) 0x800 = .ok () :=
    Within.modOnly_i (setX_mod _ _) (iOfX_cases b) (by decide) (by simp only [base]; decide)
  simp only [decB, hm, hb]
  simp only [noHint, dZero, aZero, Fields.guard, setX_hint, setX_d, setX_a, setX_gn, setX_gp, base,
    beq_self_eq_true, need_true, bind, Except.bind, pure, Except.pure]

theorem decBr_enc (opc : Nat) (g : Guard) (t : BitVec 48) (mk : Guard → BitVec 48 → Instr) :
    decBr ((base opc g).set48 t) mk = .ok (mk g t) := by
  have hm : modOnly ((base opc g).set48 t) 0 = .ok () := mod_zero.modOnly
  simp only [decBr, hm, imm48_set48]
  simp only [noHint, dZero, aZero, Fields.guard, set48, base,
    beq_self_eq_true, need_true, bind, Except.bind, pure, Except.pure]

/-! ### D or A with B, and MOD bits beside I -/

theorem decDB_enc (opc : Nat) (g : Guard) (m mask : Nat) (d : XReg) (b : XOpnd) (mk : Guard → XReg → XOpnd → Instr)
    (hM : 0x800#12 &&& ~~~(BitVec.ofNat 12 (0x800 + mask)) = 0) (h : Within (BitVec.ofNat 12 m) (0x800 + mask)) :
    decDB (encXB opc g m d b) mask mk = .ok (mk g d b) := by
  have hB : Blank { base opc g m with d := xCode d } := ⟨rfl, rfl, rfl, h.2⟩
  have hb : Fields.xopnd (encXB opc g m d b) = .ok b := xopnd_setX hB b
  have hm : modOnly (encXB opc g m d b) (0x800 + mask) = .ok () :=
    Within.modOnly_i (setX_mod _ _) (iOfX_cases b) hM h.1
  simp only [decDB, hm, hb]
  simp only [encXB, noHint, aZero, Fields.guard, setX_hint, setX_d, setX_a, setX_gn, setX_gp, base,
    beq_self_eq_true, need_true, xOf_xCode, bind, Except.bind, pure, Except.pure]

theorem decAB_enc (opc : Nat) (g : Guard) (m mask : Nat) (a : XReg) (b : XOpnd) (mk : Guard → XReg → XOpnd → Instr)
    (hM : 0x800#12 &&& ~~~(BitVec.ofNat 12 (0x800 + mask)) = 0) (h : Within (BitVec.ofNat 12 m) (0x800 + mask)) :
    decAB ({ base opc g m with a := xCode a }.setX b) mask mk = .ok (mk g a b) := by
  have hB : Blank { base opc g m with a := xCode a } := ⟨rfl, rfl, rfl, h.2⟩
  have hb : Fields.xopnd ({ base opc g m with a := xCode a }.setX b) = .ok b := xopnd_setX hB b
  have hm : modOnly ({ base opc g m with a := xCode a }.setX b) (0x800 + mask) = .ok () :=
    Within.modOnly_i (setX_mod _ _) (iOfX_cases b) hM h.1
  simp only [decAB, hm, hb]
  simp only [noHint, dZero, Fields.guard, setX_hint, setX_d, setX_a, setX_gn, setX_gp, base,
    beq_self_eq_true, need_true, xOf_xCode, bind, Except.bind, pure, Except.pure]

/-! ### Scalar floating point and predicates -/

theorem decFp_enc (opc : Nat) (g : Guard) (f : Fmt) (r : Rnd) (s : Bool) (d : Dst) (a : Src) (b : Opnd)
    (mk : Guard → Fmt → Rnd → Bool → Dst → Src → Opnd → Instr) :
    decFp (encFp opc g f r s d a b) mk = .ok (mk g f r s d a b) := by
  obtain ⟨h, h1, h2, h3⟩ := mod_fp f r s
  have hB : Blank { base opc g (f.code + 16 * r.code + 128 * b2n s) with d := d.code, a := a.code } :=
    ⟨rfl, rfl, rfl, h.2⟩
  have hb : Fields.opnd (encFp opc g f r s d a b) = .ok b := opnd_setB hB b
  have hm : modOnly (encFp opc g f r s d a b) 0x8FF = .ok () :=
    Within.modOnly_i (setB_mod _ _) (iOf_cases b) (by decide) h.1
  have hi := iOf_cases b
  simp only [decFp, hm, hb]
  simp only [encFp, noHint, modF, modB, setB_hint, setB_d, setB_a, setB_mod, Fields.guard, setB_gn, setB_gp, base,
    fld_or_i hi (show 0 + 4 ≤ 11 by decide), fld_or_i hi (show 4 + 3 ≤ 11 by decide),
    bit_or_i hi (show 7 ≠ 11 by decide), h1, h2, h3, Fmt.ofCode_code, Rnd.ofCode_code, opt_some,
    beq_self_eq_true, need_true, dstOf_code, srcOf_code, bind, Except.bind, pure, Except.pure]

theorem decFm_enc (opc : Nat) (g : Guard) (f : Fmt) (d : Dst) (a : Src) (b : Opnd)
    (mk : Guard → Fmt → Dst → Src → Opnd → Instr) :
    decFm (encFp opc g f .rne false d a b) mk = .ok (mk g f d a b) := by
  obtain ⟨h, h1⟩ := mod_fm f
  have hB : Blank { base opc g (f.code + 16 * Rnd.rne.code + 128 * b2n false) with d := d.code, a := a.code } :=
    ⟨rfl, rfl, rfl, h.2⟩
  have hb : Fields.opnd (encFp opc g f .rne false d a b) = .ok b := opnd_setB hB b
  have hm : modOnly (encFp opc g f .rne false d a b) 0x80F = .ok () :=
    Within.modOnly_i (setB_mod _ _) (iOf_cases b) (by decide) h.1
  have hi := iOf_cases b
  simp only [decFm, hm, hb]
  simp only [encFp, noHint, modF, setB_hint, setB_d, setB_a, setB_mod, Fields.guard, setB_gn, setB_gp, base,
    fld_or_i hi (show 0 + 4 ≤ 11 by decide), h1, Fmt.ofCode_code, opt_some,
    beq_self_eq_true, need_true, dstOf_code, srcOf_code, bind, Except.bind, pure, Except.pure]

theorem decPred_enc (opc : Nat) (g : Guard) (na nb : Bool) (pd pa pb : PReg)
    (mk : Guard → Bool → Bool → PReg → PReg → PReg → Instr) :
    decPred (encPred opc g na nb pd pa pb) mk = .ok (mk g na nb pd pa pb) := by
  obtain ⟨h, h1, h2⟩ := mod_pred na nb
  have hm : modOnly (encPred opc g na nb pd pa pb) 3 = .ok () := Within.modOnly h
  simp only [decPred, hm]
  simp only [encPred, noHint, cZero, immZero, Fields.guard, base, modB, h1, h2,
    beq_self_eq_true, need_true, pOf_pCode, bind, Except.bind, pure, Except.pure]

/-! ### Memory forms -/

theorem memOp_setM (f : Fields) (m : MemOp) : memOp (f.setM m) = .ok m := memOp_of rfl rfl rfl

theorem decMemX_enc (opc : Nat) (g : Guard) (h : Hint) (n mask : Nat) (d : XReg) (m : MemOp)
    (mk : Guard → Hint → XReg → MemOp → Except Reject Instr) (hw : Within (BitVec.ofNat 12 n) mask) :
    decMemX (encMem opc g h n (xCode d) m) mask mk = mk g h d m := by
  have hm : modOnly (encMem opc g h n (xCode d) m) mask = .ok () := Within.modOnly hw
  have hh : hintOf (encMem opc g h n (xCode d) m) = .ok h := hintOf_code rfl
  have ho : memOp (encMem opc g h n (xCode d) m) = .ok m := memOp_setM _ m
  simp only [decMemX, hm, hh, ho]
  simp only [encMem, setM, baseH, base, bZero, Fields.guard,
    beq_self_eq_true, need_true, xOf_xCode, bind, Except.bind]

theorem decMemV_enc (opc : Nat) (g : Guard) (h : Hint) (n mask : Nat) (d : VReg) (m : MemOp) (b : BitVec 8)
    (mk : Guard → Hint → VReg → MemOp → Except Reject Instr) (hw : Within (BitVec.ofNat 12 n) mask) :
    decMemV { encMem opc g h n (vCode d) m with b := b } mask mk = mk g h d m := by
  have hm : modOnly { encMem opc g h n (vCode d) m with b := b } mask = .ok () := Within.modOnly hw
  have hh : hintOf { encMem opc g h n (vCode d) m with b := b } = .ok h := hintOf_code rfl
  have ho : memOp { encMem opc g h n (vCode d) m with b := b } = .ok m := memOp_of rfl rfl rfl
  simp only [decMemV, hm, hh, ho]
  simp only [encMem, setM, baseH, base, Fields.guard, vOf_vCode, bind, Except.bind]

theorem decMem_enc (opc : Nat) (g : Guard) (d : XReg) (m : MemOp) (mk : Guard → XReg → MemOp → Instr) :
    decMem (encMem opc g .normal 0 (xCode d) m) mk = .ok (mk g d m) := by
  have hm : modOnly (encMem opc g .normal 0 (xCode d) m) 0 = .ok () := Within.modOnly mod_zero
  have ho : memOp (encMem opc g .normal 0 (xCode d) m) = .ok m := memOp_setM _ m
  have hh : noHint (encMem opc g .normal 0 (xCode d) m) = .ok () := rfl
  simp only [decMem, hm, ho, hh]
  simp only [encMem, setM, baseH, base, bZero, Fields.guard,
    beq_self_eq_true, need_true, xOf_xCode, bind, Except.bind, pure, Except.pure]

/-- R213: D of a form that may carry .NR. -/
theorem nrD_enc {f : Fields} {d : Option XReg} (h : f.mod.getLsbD 10 = d.isNone) (hd : f.d = xCode (d.getD 0)) :
    nrD f = .ok d := by
  cases d with
  | none =>
    have h0 : (xCode 0 == 0) = true := by decide
    simp only [nrD, modB, h, hd, Option.isNone, Option.getD, if_true, dZero, h0, need_true, bind, Except.bind, pure,
      Except.pure]
  | some d =>
    simp only [nrD, modB, h, hd, Option.isNone, Option.getD, Bool.false_eq_true, if_false, xOf_xCode, Except.map]

theorem decAtom_enc (opc : Nat) (g : Guard) (h : Hint) (z : Size) (o : Ordn) (d : Option XReg) (m : MemOp) (b : XReg)
    (mk : Guard → Hint → Size → Ordn → Option XReg → MemOp → XReg → Instr) :
    decAtom (encAtom opc g h z.code o d m b) mk = .ok (mk g h z o d m b) := by
  obtain ⟨hw, h1, h2, h3⟩ := mod_atom z o d.isNone
  have hm : modOnly (encAtom opc g h z.code o d m b) 0x703 = .ok () := Within.modOnly hw
  have hh : hintOf (encAtom opc g h z.code o d m b) = .ok h := hintOf_code rfl
  have ho : memOp (encAtom opc g h z.code o d m b) = .ok m := memOp_of rfl rfl rfl
  have hd : nrD (encAtom opc g h z.code o d m b) = .ok d := nrD_enc h3 rfl
  simp only [decAtom, hm, hh, ho, hd]
  simp only [encAtom, setM, baseH, base, modF, Fields.guard, h1, h2, Size.ofCode_code, Ordn.ofCode_code, opt_some, xOf_xCode,
    bind, Except.bind, pure, Except.pure]

theorem decAf_enc (opc : Nat) (g : Guard) (h : Hint) (f : Fmt) (o : Ordn) (d : Option XReg) (m : MemOp) (b : XReg)
    (mk : Guard → Hint → Fmt → Ordn → Option XReg → MemOp → XReg → Instr) :
    decAf (encAtom opc g h (afLo f) o d m b) mk = .ok (mk g h f o d m b) := by
  obtain ⟨hw, h1, h2, h4, h3⟩ := mod_af f o d.isNone
  have hm : modOnly (encAtom opc g h (afLo f) o d m b) 0x7F3 = .ok () := Within.modOnly hw
  have hh : hintOf (encAtom opc g h (afLo f) o d m b) = .ok h := hintOf_code rfl
  have ho : memOp (encAtom opc g h (afLo f) o d m b) = .ok m := memOp_of rfl rfl rfl
  have hd : nrD (encAtom opc g h (afLo f) o d m b) = .ok d := nrD_enc h3 rfl
  simp only [decAf, hm, hh, ho, hd]
  simp only [encAtom, setM, baseH, base, modF, Fields.guard, h1, h2, h4, Fmt.ofCode_code, Ordn.ofCode_code, opt_some, xOf_xCode,
    beq_self_eq_true, need_true, bind, Except.bind, pure, Except.pure]

/-! ### The vector forms -/

/-- The D and A slots and the MOD of a vector instruction, whatever B, C and IMM32 hold. -/
theorem decV_of {F : Fields} {g : Guard} {f : Fmt} {r : Rnd} {s : Bool} {k : KReg} {d a : VReg} {m i : BitVec 12}
    (mk : Guard → Fmt → Rnd → Bool → KReg → VReg → VReg → Except Reject Instr)
    (hm : m = BitVec.ofNat 12 (f.code + 16 * r.code + 128 * b2n s + 256 * k.val)) (hF : F.mod = m ||| i)
    (hi : i = 0 ∨ i = 0x800) (hg : F.guard = g) (hh : F.hint = 0) (hd : F.d = vCode d) (ha : F.a = vCode a) :
    decV F mk = mk g f r s k d a := by
  obtain ⟨-, h1, h2, h3, h4⟩ := mod_v f r s k
  subst hm
  simp only [decV, noHint, hh, hd, ha, hg, modF, modB, hF, fld_or_i hi (show 0 + 4 ≤ 11 by decide),
    fld_or_i hi (show 4 + 3 ≤ 11 by decide), fld_or_i hi (show 8 + 3 ≤ 11 by decide),
    bit_or_i hi (show 7 ≠ 11 by decide), h1, h2, h3, h4, Fmt.ofCode_code, Rnd.ofCode_code, opt_some,
    beq_self_eq_true, need_true, vOf_vCode, bind, Except.bind]

/-- The same for a word without the I form. -/
theorem decV_plain {F : Fields} {g : Guard} {f : Fmt} {r : Rnd} {s : Bool} {k : KReg} {d a : VReg}
    (mk : Guard → Fmt → Rnd → Bool → KReg → VReg → VReg → Except Reject Instr)
    (hF : F.mod = BitVec.ofNat 12 (f.code + 16 * r.code + 128 * b2n s + 256 * k.val))
    (hg : F.guard = g) (hh : F.hint = 0) (hd : F.d = vCode d) (ha : F.a = vCode a) :
    decV F mk = mk g f r s k d a :=
  decV_of mk rfl (i := 0) (by rw [hF]; simp) (.inl rfl) hg hh hd ha

theorem encV_blank (opc : Nat) (g : Guard) (f : Fmt) (r : Rnd) (s : Bool) (k : KReg) (d a : VReg) :
    Blank (encV opc g f r s k d a) := ⟨rfl, rfl, rfl, (mod_v f r s k).1.2⟩

theorem decVB_enc (opc : Nat) (g : Guard) (f : Fmt) (r : Rnd) (s : Bool) (k : KReg) (d a : VReg) (b : VOpnd)
    (mk : Guard → Fmt → Rnd → Bool → KReg → VReg → VReg → VOpnd → Instr) :
    decVB ((encV opc g f r s k d a).setV b) mk = .ok (mk g f r s k d a b) := by
  rw [decVB, decV_of _ rfl (setV_mod _ b) (iOfV_cases b) (g := g) (by simp only [Fields.guard, setV_gn, setV_gp]; rfl)
    (setV_hint _ b) (setV_d _ b) (setV_a _ b)]
  simp only [vopnd_setV (encV_blank opc g f r s k d a), bind, Except.bind, pure, Except.pure]

theorem decVB0_enc (opc : Nat) (g : Guard) (f : Fmt) (k : KReg) (d a : VReg) (b : VOpnd)
    (mk : Guard → Fmt → KReg → VReg → VReg → VOpnd → Instr) :
    decVB0 ((encV opc g f .rne false k d a).setV b) mk = .ok (mk g f k d a b) := by
  have hm : modOnly ((encV opc g f .rne false k d a).setV b) 0xF0F = .ok () :=
    Within.modOnly_i (setV_mod _ _) (iOfV_cases b) (by decide) (mod_v_plain f k).2.1
  rw [decVB0, decV_of _ rfl (setV_mod _ b) (iOfV_cases b) (g := g) (by simp only [Fields.guard, setV_gn, setV_gp]; rfl)
    (setV_hint _ b) (setV_d _ b) (setV_a _ b)]
  simp only [hm, vopnd_setV (encV_blank opc g f .rne false k d a), bind, Except.bind, pure, Except.pure]

theorem decVU_enc (opc : Nat) (g : Guard) (f : Fmt) (r : Rnd) (s : Bool) (k : KReg) (d a : VReg)
    (mk : Guard → Fmt → Rnd → Bool → KReg → VReg → VReg → Instr) :
    decVU (encV opc g f r s k d a) mk = .ok (mk g f r s k d a) := by
  have hm : modOnly (encV opc g f r s k d a) 0x7FF = .ok () := Within.modOnly (mod_v f r s k).1
  rw [decVU, decV_plain _ rfl rfl rfl rfl rfl, hm]
  simp only [encV, base, bZero, cZero, immZero, Fields.guard, beq_self_eq_true, need_true, bind, Except.bind, pure, Except.pure]

theorem decVU0_enc (opc : Nat) (g : Guard) (f : Fmt) (s : Bool) (k : KReg) (d a : VReg)
    (mk : Guard → Fmt → Bool → KReg → VReg → VReg → Instr) :
    decVU0 (encV opc g f .rne s k d a) mk = .ok (mk g f s k d a) := by
  have hm : modOnly (encV opc g f .rne s k d a) 0x78F = .ok () := Within.modOnly (mod_v_sat f s k)
  rw [decVU0, decV_plain _ rfl rfl rfl rfl rfl, hm]
  simp only [encV, base, bZero, cZero, immZero, Fields.guard, beq_self_eq_true, need_true, bind, Except.bind, pure, Except.pure]

theorem decVFma_enc (opc : Nat) (g : Guard) (f : Fmt) (r : Rnd) (s : Bool) (k : KReg) (d a b c : VReg)
    (mk : Guard → Fmt → Rnd → Bool → KReg → VReg → VReg → VReg → VReg → Instr) :
    decVFma { encV opc g f r s k d a with b := vCode b, c := vCode c } mk = .ok (mk g f r s k d a b c) := by
  have hm : modOnly { encV opc g f r s k d a with b := vCode b, c := vCode c } 0x7FF = .ok () :=
    Within.modOnly (mod_v f r s k).1
  rw [decVFma, decV_plain _ rfl rfl rfl rfl rfl, hm]
  simp only [encV, base, immZero, Fields.guard, vOf_vCode, beq_self_eq_true, need_true, bind, Except.bind, pure, Except.pure]

theorem decVPerm_enc (opc : Nat) (g : Guard) (f : Fmt) (k : KReg) (d a b : VReg)
    (mk : Guard → Fmt → KReg → VReg → VReg → VReg → Instr) :
    decVPerm { encV opc g f .rne false k d a with b := vCode b } mk = .ok (mk g f k d a b) := by
  have hm : modOnly { encV opc g f .rne false k d a with b := vCode b } 0x70F = .ok () :=
    Within.modOnly (mod_v_plain f k).1
  rw [decVPerm, decV_plain _ rfl rfl rfl rfl rfl, hm]
  simp only [encV, base, cZero, immZero, Fields.guard, vOf_vCode, beq_self_eq_true, need_true, bind, Except.bind, pure,
    Except.pure]

/-! ### The .TRY forms -/

theorem tryC_enc {f : Fields} {t : Option PReg} (h : f.mod.getLsbD 0 = t.isSome) (hc : f.c = tryCode t) :
    tryC f = .ok t := by
  cases t with
  | none =>
    simp only [tryC, modB, h, hc, Option.isSome, tryCode, Bool.false_eq_true, if_false, cZero, beq_self_eq_true, need_true,
      bind, Except.bind, pure, Except.pure]
  | some p => simp only [tryC, modB, h, hc, Option.isSome, tryCode, if_true, pOf_pCode, Except.map]

/-- R64: a cellar command with a scalar register in B. -/
theorem decCellarB_enc (opc : Nat) (g : Guard) (h : Hint) (d : XReg) (m : MemOp) (b : XReg)
    (mk : Guard → Hint → XReg → MemOp → XReg → Instr) :
    decCellarB { encMem opc g h 0 (xCode d) m with b := xCode b } mk = .ok (mk g h d m b) := by
  have hm : modOnly { encMem opc g h 0 (xCode d) m with b := xCode b } 0 = .ok () := Within.modOnly mod_zero
  have hh : hintOf { encMem opc g h 0 (xCode d) m with b := xCode b } = .ok h := hintOf_code rfl
  have ho : memOp { encMem opc g h 0 (xCode d) m with b := xCode b } = .ok m := memOp_of rfl rfl rfl
  simp only [decCellarB, hm, hh, ho]
  simp only [encMem, setM, baseH, base, Fields.guard, xOf_xCode, bind, Except.bind, pure, Except.pure]

end Sys2Proof
end

