-- ==== Sys2Proof/Laws/Words.lean ====
section
/-!
SUPPORT. Instruction words and their bytes (R1, R58): the 96 bits hold their fields, the 12 bytes hold their word,
and the class of an opcode picks its decoder (R69).
-/

namespace Sys2Proof

/-- R58: a word holds its fields. -/
theorem Fields.ofBits_toBits (f : Fields) : Fields.ofBits f.toBits = f := by
  have gpEq : ∀ p : PReg, (BitVec.ofNat 3 p.val).toNat = p.val := by decide
  obtain ⟨opc, gn, gp, hint, mod, d, a, b, c, imm⟩ := f
  have hgn : (Fields.toBits ⟨opc, gn, gp, hint, mod, d, a, b, c, imm⟩).getLsbD 19 = gn := by
    simp only [Fields.toBits, BitVec.getLsbD_append]
    simp
  have low := @BitVec.extractLsb'_append_eq_of_add_le
  have high := @BitVec.extractLsb'_append_eq_of_le
  simp (disch := decide) only [Fields.ofBits, Fields.mk.injEq, Fields.toBits, low, high, Nat.reduceSub, Nat.reduceAdd,
    BitVec.extractLsb'_eq_self, true_and, and_true]
  exact ⟨hgn, Fin.ext (gpEq gp)⟩

theorem natLE_lt (bs : List Byte) : natLE bs < 256 ^ bs.length := by
  induction bs with
  | nil => simp [natLE]
  | cons b bs ih => have := b.isLt; simp only [natLE, List.length_cons, Nat.pow_succ]; omega

/-- R1: the bytes of a value, from bit `8 k` on, read back as that part of the value. -/
theorem natLE_bytes {w : Nat} (v : BitVec w) (n k : Nat) :
    natLE ((List.range' k n).map fun i => v.extractLsb' (8 * i) 8) = v.toNat / 2 ^ (8 * k) % 2 ^ (8 * n) := by
  induction n generalizing k with
  | zero => simp [natLE, Nat.mod_one]
  | succ n ih =>
    simp only [List.range'_succ, List.map_cons, natLE, ih, BitVec.extractLsb'_toNat, Nat.shiftRight_eq_div_pow]
    have h1 : 2 ^ (8 * (k + 1)) = 2 ^ (8 * k) * 256 := by rw [Nat.mul_add, Nat.pow_add]
    have h2 : 2 ^ (8 * (n + 1)) = 256 * 2 ^ (8 * n) := by rw [Nat.mul_add, Nat.pow_add, Nat.mul_comm]
    rw [h1, h2, ← Nat.div_div_eq_div_mul, Nat.mod_mul]

@[simp] theorem wordBytes_length (w : BitVec 96) : (wordBytes w).length = 12 := rfl

/-- R58: the 12 bytes of a word hold it. -/
theorem wordOfBytes_wordBytes (w : BitVec 96) : wordOfBytes (wordBytes w) = w := by
  have h := natLE_bytes w 12 0
  simp only [Nat.mul_zero, Nat.pow_zero, Nat.div_one] at h
  simp only [wordOfBytes, wordBytes, bytesLE, List.range_eq_range', h]
  apply BitVec.eq_of_toNat_eq
  have := w.isLt
  simp only [BitVec.toNat_ofNat]
  omega

/-- The decoder reads exactly the 12 bytes of a word and leaves what follows. -/
theorem decode_wordBytes (w : BitVec 96) (rest : List Byte) :
    decode (wordBytes w ++ rest) = (decodeWord w).map fun i => (i, rest) := by
  have h1 : ¬(wordBytes w ++ rest).length < 12 := by simp
  have h2 : (wordBytes w ++ rest).take 12 = wordBytes w := List.take_left' (wordBytes_length w)
  have h3 : (wordBytes w ++ rest).drop 12 = rest := List.drop_left' (wordBytes_length w)
  simp only [decode, if_neg h1, h2, h3, wordOfBytes_wordBytes]
  cases decodeWord w <;> rfl

/-- A decoded word is legal. -/
theorem decodeWord_wf {w : BitVec 96} {i : Instr} (h : decodeWord w = .ok i) : i.wf = true := by
  simp only [decodeWord, bind, Except.bind] at h
  split at h
  · cases h
  · split at h
    · cases h; assumption
    · cases h

/-- A decoding decides its first 12 bytes only. -/
theorem decode_wf {bs rest : List Byte} {i : Instr} (h : decode bs = .ok (i, rest)) :
    i.wf = true ∧ rest = bs.drop 12 := by
  simp only [decode, bind, Except.bind, pure, Except.pure] at h
  split at h
  · cases h
  · split at h
    · cases h
    · rename_i hw
      cases h
      exact ⟨decodeWord_wf hw, rfl⟩

/-! ### R69: the class of an opcode -/

theorem fld_opc (c op : Nat) (hc : c < 16) (ho : op < 256) :
    fld (BitVec.ofNat 12 (256 * c + op)) 8 4 = c ∧ fld (BitVec.ofNat 12 (256 * c + op)) 0 8 = op := by
  simp only [fld, BitVec.extractLsb'_toNat, BitVec.toNat_ofNat, Nat.shiftRight_eq_div_pow, Nat.pow_zero, Nat.div_one]
  omega

theorem decodeFields_0 {f : Fields} (op : Nat) (ho : op < 256) (h : f.opc = BitVec.ofNat 12 (256 * 0 + op)) :
    decodeFields f = decClass0 op f := by
  simp only [decodeFields, h, (fld_opc 0 op (by decide) ho).1, (fld_opc 0 op (by decide) ho).2]

theorem decodeFields_1 {f : Fields} (op : Nat) (ho : op < 256) (h : f.opc = BitVec.ofNat 12 (256 * 1 + op)) :
    decodeFields f = decClass1 op f := by
  simp only [decodeFields, h, (fld_opc 1 op (by decide) ho).1, (fld_opc 1 op (by decide) ho).2]

theorem decodeFields_2 {f : Fields} (op : Nat) (ho : op < 256) (h : f.opc = BitVec.ofNat 12 (256 * 2 + op)) :
    decodeFields f = decClass2 op f := by
  simp only [decodeFields, h, (fld_opc 2 op (by decide) ho).1, (fld_opc 2 op (by decide) ho).2]

theorem decodeFields_3 {f : Fields} (op : Nat) (ho : op < 256) (h : f.opc = BitVec.ofNat 12 (256 * 3 + op)) :
    decodeFields f = decClass3 op f := by
  simp only [decodeFields, h, (fld_opc 3 op (by decide) ho).1, (fld_opc 3 op (by decide) ho).2]

theorem decodeFields_4 {f : Fields} (op : Nat) (ho : op < 256) (h : f.opc = BitVec.ofNat 12 (256 * 4 + op)) :
    decodeFields f = decClass4 op f := by
  simp only [decodeFields, h, (fld_opc 4 op (by decide) ho).1, (fld_opc 4 op (by decide) ho).2]

theorem decodeFields_5 {f : Fields} (op : Nat) (ho : op < 256) (h : f.opc = BitVec.ofNat 12 (256 * 5 + op)) :
    decodeFields f = decClass5 op f := by
  simp only [decodeFields, h, (fld_opc 5 op (by decide) ho).1, (fld_opc 5 op (by decide) ho).2]

theorem decodeFields_6 {f : Fields} (op : Nat) (ho : op < 256) (h : f.opc = BitVec.ofNat 12 (256 * 6 + op)) :
    decodeFields f = decClass6 op f := by
  simp only [decodeFields, h, (fld_opc 6 op (by decide) ho).1, (fld_opc 6 op (by decide) ho).2]

theorem decodeFields_7 {f : Fields} (op : Nat) (ho : op < 256) (h : f.opc = BitVec.ofNat 12 (256 * 7 + op)) :
    decodeFields f = decClass7 op f := by
  simp only [decodeFields, h, (fld_opc 7 op (by decide) ho).1, (fld_opc 7 op (by decide) ho).2]

theorem decodeFields_8 {f : Fields} (op : Nat) (ho : op < 256) (h : f.opc = BitVec.ofNat 12 (256 * 8 + op)) :
    decodeFields f = decClass8 op f := by
  simp only [decodeFields, h, (fld_opc 8 op (by decide) ho).1, (fld_opc 8 op (by decide) ho).2]

theorem decodeFields_9 {f : Fields} (op : Nat) (ho : op < 256) (h : f.opc = BitVec.ofNat 12 (256 * 9 + op)) :
    decodeFields f = decClass9 op f := by
  simp only [decodeFields, h, (fld_opc 9 op (by decide) ho).1, (fld_opc 9 op (by decide) ho).2]

theorem decodeFields_A {f : Fields} (op : Nat) (ho : op < 256) (h : f.opc = BitVec.ofNat 12 (256 * 10 + op)) :
    decodeFields f = decClassA op f := by
  simp only [decodeFields, h, (fld_opc 10 op (by decide) ho).1, (fld_opc 10 op (by decide) ho).2]

theorem decodeFields_B {f : Fields} (op : Nat) (ho : op < 256) (h : f.opc = BitVec.ofNat 12 (256 * 11 + op)) :
    decodeFields f = decClassB op f := by
  simp only [decodeFields, h, (fld_opc 11 op (by decide) ho).1, (fld_opc 11 op (by decide) ho).2]

theorem decodeFields_D {f : Fields} (op : Nat) (ho : op < 256) (h : f.opc = BitVec.ofNat 12 (256 * 13 + op)) :
    decodeFields f = decClassD op f := by
  simp only [decodeFields, h, (fld_opc 13 op (by decide) ho).1, (fld_opc 13 op (by decide) ho).2]

theorem decodeFields_E {f : Fields} (op : Nat) (ho : op < 256) (h : f.opc = BitVec.ofNat 12 (256 * 14 + op)) :
    decodeFields f = decClassE op f := by
  simp only [decodeFields, h, (fld_opc 14 op (by decide) ho).1, (fld_opc 14 op (by decide) ho).2]

/-- Class C, with MSTAT's selection 3 undefined (R252). -/
theorem decodeFields_C {f : Fields} (op : Nat) (ho : op < 256) (h : f.opc = BitVec.ofNat 12 (256 * 12 + op))
    (hs : (op == 0x0B && f.modF 0 2 == 3) = false) : decodeFields f = decClassC op f := by
  simp only [decodeFields, h, (fld_opc 12 op (by decide) ho).1, (fld_opc 12 op (by decide) ho).2, hs]
  rfl

end Sys2Proof
end

