-- ==== Sys2Proof/Laws/PerInstr.lean ====
section
/-!
SUPPORT. The family RoundTrip: for every constructor of `Instr`, decoding the encoded word of a well-formed instruction
gives the instruction back and leaves the bytes that follow (R58 to R69); an event has no word.
-/

set_option linter.unusedSimpArgs false

namespace Sys2Proof

open Fields

/-- An event has no word; every well-formed instruction has one, and its bytes decode to it whatever follows. -/
def Laws.RoundTrip.Statement (i : Instr) : Prop :=
  if i.isEvent then encode i = none
  else i.wf = true → ∃ w, encode i = some w ∧ ∀ rest, decode (wordBytes w ++ rest) = .ok (i, rest)

theorem Laws.RoundTrip.of_event {i : Instr} (h : i.isEvent = true) (he : encodeFields i = none) : Statement i := by
  simp only [Statement, h, if_true, encode, he, Option.map_none]

theorem Laws.RoundTrip.of_fields {i : Instr} {f : Fields} (he : encodeFields i = some f)
    (hd : decodeFields f = .ok i) (hev : i.isEvent = false) : Statement i := by
  simp only [Statement, hev, Bool.false_eq_true, if_false]
  intro hw
  refine ⟨f.toBits, by simp only [encode, he, Option.map_some], fun rest => ?_⟩
  rw [decode_wordBytes, decodeWord, Fields.ofBits_toBits, hd]
  simp only [bind, Except.bind, hw, if_true, Except.map]

theorem Laws.RoundTrip.nop (g : Guard) :
    Statement (.nop g) :=
  of_fields rfl ((decodeFields_0 0x00 (by decide) rfl).trans (decNone_enc _ g _)) rfl

theorem Laws.RoundTrip.fork (g : Guard) (n : Fin 8) (d a : XReg) (tgt : BitVec 48) :
    Statement (.fork g n d a tgt) := by
  obtain ⟨-, hm, hn⟩ := mod_fin8 n
  refine of_fields rfl ((decodeFields_0 0x01 (by decide) rfl).trans ?_) rfl
  simp only [decClass0, imm48_set48]
  simp only [set48, hm, hn, noHint, modOnly, modF, modB, iForm, dZero, aZero, bZero, cZero, immZero, Fields.guard,
      setM, base, baseH, encV, encMem, beq_self_eq_true, need_true, opt_some, xOf_xCode, vOf_vCode, pOf_pCode,
      kOf_kCode, sOf_sCode, srcOf_code, dstOf_code, imm48_join, bind, Except.bind, pure, Except.pure, Except.map,
      -BitVec.reduceNot]

theorem Laws.RoundTrip.stop (g : Guard) :
    Statement (.stop g) :=
  of_fields rfl ((decodeFields_0 0x02 (by decide) rfl).trans (decNone_enc _ g _)) rfl

theorem Laws.RoundTrip.yield (g : Guard) (b : XOpnd) :
    Statement (.yield g b) :=
  of_fields rfl ((decodeFields_0 0x03 (by decide) (setX_opc _ _)).trans (decB_enc _ g b _)) rfl

theorem Laws.RoundTrip.yieldPauseEnd (e : SRef) :
    Statement (.yieldPauseEnd e) :=
  of_event rfl rfl

theorem Laws.RoundTrip.wake (g : Guard) (a b : XReg) :
    Statement (.wake g a b) := by
  refine of_fields rfl ((decodeFields_0 0x04 (by decide) rfl).trans ?_) rfl
  simp only [decClass0]
  simp only [mod_zero.1, noHint, modOnly, modF, modB, iForm, dZero, aZero, bZero, cZero, immZero, Fields.guard,
      setM, base, baseH, encV, encMem, beq_self_eq_true, need_true, opt_some, xOf_xCode, vOf_vCode, pOf_pCode,
      kOf_kCode, sOf_sCode, srcOf_code, dstOf_code, imm48_join, bind, Except.bind, pure, Except.pure, Except.map,
      -BitVec.reduceNot]

theorem Laws.RoundTrip.wakeEventDelivery (e : SRef) (start : Word) :
    Statement (.wakeEventDelivery e start) :=
  of_event rfl rfl

theorem Laws.RoundTrip.trap (g : Guard) (n : BitVec 32) :
    Statement (.trap g n) := by
  refine of_fields rfl ((decodeFields_0 0x05 (by decide) rfl).trans ?_) rfl
  simp only [decClass0]
  simp only [mod_zero.1, noHint, modOnly, modF, modB, iForm, dZero, aZero, bZero, cZero, immZero, Fields.guard,
      setM, base, baseH, encV, encMem, beq_self_eq_true, need_true, opt_some, xOf_xCode, vOf_vCode, pOf_pCode,
      kOf_kCode, sOf_sCode, srcOf_code, dstOf_code, imm48_join, bind, Except.bind, pure, Except.pure, Except.map,
      -BitVec.reduceNot]

theorem Laws.RoundTrip.eret (g : Guard) :
    Statement (.eret g) :=
  of_fields rfl ((decodeFields_0 0x06 (by decide) rfl).trans (decNone_enc _ g _)) rfl

theorem Laws.RoundTrip.sysrd (g : Guard) (d : XReg) (r : SysReg) :
    Statement (.sysrd g d r) := by
  refine of_fields rfl ((decodeFields_0 0x07 (by decide) rfl).trans ?_) rfl
  simp only [decClass0]
  simp only [mod_zero.1, SysReg.ofCode_imm, noHint, modOnly, modF, modB, iForm, dZero, aZero, bZero, cZero, immZero,
      Fields.guard, setM, base, baseH, encV, encMem, beq_self_eq_true, need_true, opt_some, xOf_xCode, vOf_vCode,
      pOf_pCode, kOf_kCode, sOf_sCode, srcOf_code, dstOf_code, imm48_join, bind, Except.bind, pure, Except.pure,
      Except.map, -BitVec.reduceNot]

theorem Laws.RoundTrip.syswr (g : Guard) (r : SysReg) (a : XReg) :
    Statement (.syswr g r a) := by
  refine of_fields rfl ((decodeFields_0 0x08 (by decide) rfl).trans ?_) rfl
  simp only [decClass0]
  simp only [mod_zero.1, SysReg.ofCode_imm, noHint, modOnly, modF, modB, iForm, dZero, aZero, bZero, cZero, immZero,
      Fields.guard, setM, base, baseH, encV, encMem, beq_self_eq_true, need_true, opt_some, xOf_xCode, vOf_vCode,
      pOf_pCode, kOf_kCode, sOf_sCode, srcOf_code, dstOf_code, imm48_join, bind, Except.bind, pure, Except.pure,
      Except.map, -BitVec.reduceNot]

theorem Laws.RoundTrip.segld (g : Guard) (sd : SReg) (b : XOpnd) :
    Statement (.segld g sd b) := by
  have hi := iOfX_cases b
  have hB : Blank { base 0x009 g with d := sCode sd } := ⟨rfl, rfl, rfl, mod_zero.2⟩
  have hm : 0#12 &&& ~~~(BitVec.ofNat 12 0x800) = 0 := by decide
  refine of_fields rfl ((decodeFields_0 0x09 (by decide) (setX_opc _ _)).trans ?_) rfl
  simp only [decClass0, xopnd_setX hB]
  simp only [setX_mod, setX_d, setX_a, setX_hint, setX_gn, setX_gp, mask_or_i hi (by decide) hm, noHint, modOnly,
      modF, modB, iForm, dZero, aZero, bZero, cZero, immZero, Fields.guard, setM, base, baseH, encV, encMem,
      beq_self_eq_true, need_true, opt_some, xOf_xCode, vOf_vCode, pOf_pCode, kOf_kCode, sOf_sCode, srcOf_code,
      dstOf_code, imm48_join, bind, Except.bind, pure, Except.pure, Except.map, -BitVec.reduceNot]

theorem Laws.RoundTrip.halt (g : Guard) :
    Statement (.halt g) :=
  of_fields rfl ((decodeFields_0 0x0A (by decide) rfl).trans (decNone_enc _ g _)) rfl

theorem Laws.RoundTrip.br (g : Guard) (tgt : BitVec 48) :
    Statement (.br g tgt) :=
  of_fields rfl ((decodeFields_1 0x00 (by decide) rfl).trans (decBr_enc _ g tgt _)) rfl

theorem Laws.RoundTrip.brl (g : Guard) (tgt : BitVec 48) :
    Statement (.brl g tgt) :=
  of_fields rfl ((decodeFields_1 0x01 (by decide) rfl).trans (decBr_enc _ g tgt _)) rfl

theorem Laws.RoundTrip.brx (g : Guard) (a : XReg) :
    Statement (.brx g a) :=
  of_fields rfl ((decodeFields_1 0x02 (by decide) rfl).trans (decA_enc _ g a _)) rfl

theorem Laws.RoundTrip.brxl (g : Guard) (a : XReg) :
    Statement (.brxl g a) :=
  of_fields rfl ((decodeFields_1 0x03 (by decide) rfl).trans (decA_enc _ g a _)) rfl

theorem Laws.RoundTrip.ret (g : Guard) :
    Statement (.ret g) :=
  of_fields rfl ((decodeFields_1 0x04 (by decide) rfl).trans (decNone_enc _ g _)) rfl

theorem Laws.RoundTrip.loop (g : Guard) (a : XReg) (tgt : BitVec 48) :
    Statement (.loop g a tgt) := by
  refine of_fields rfl ((decodeFields_1 0x05 (by decide) rfl).trans ?_) rfl
  simp only [decClass1, imm48_set48]
  simp only [set48, mod_zero.1, noHint, modOnly, modF, modB, iForm, dZero, aZero, bZero, cZero, immZero,
      Fields.guard, setM, base, baseH, encV, encMem, beq_self_eq_true, need_true, opt_some, xOf_xCode, vOf_vCode,
      pOf_pCode, kOf_kCode, sOf_sCode, srcOf_code, dstOf_code, imm48_join, bind, Except.bind, pure, Except.pure,
      Except.map, -BitVec.reduceNot]

theorem Laws.RoundTrip.add (g : Guard) (d : Dst) (a : Src) (b : Opnd) :
    Statement (.add g d a b) :=
  of_fields rfl ((decodeFields_2 0x00 (by decide) (setB_opc _ _)).trans (decAlu_enc _ g d a b _)) rfl

theorem Laws.RoundTrip.sub (g : Guard) (d : Dst) (a : Src) (b : Opnd) :
    Statement (.sub g d a b) :=
  of_fields rfl ((decodeFields_2 0x01 (by decide) (setB_opc _ _)).trans (decAlu_enc _ g d a b _)) rfl

theorem Laws.RoundTrip.mul (g : Guard) (d : Dst) (a : Src) (b : Opnd) :
    Statement (.mul g d a b) :=
  of_fields rfl ((decodeFields_2 0x02 (by decide) (setB_opc _ _)).trans (decAlu_enc _ g d a b _)) rfl

theorem Laws.RoundTrip.mulh (g : Guard) (d : Dst) (a : Src) (b : Opnd) :
    Statement (.mulh g d a b) :=
  of_fields rfl ((decodeFields_2 0x03 (by decide) (setB_opc _ _)).trans (decAlu_enc _ g d a b _)) rfl

theorem Laws.RoundTrip.mulhu (g : Guard) (d : Dst) (a : Src) (b : Opnd) :
    Statement (.mulhu g d a b) :=
  of_fields rfl ((decodeFields_2 0x04 (by decide) (setB_opc _ _)).trans (decAlu_enc _ g d a b _)) rfl

theorem Laws.RoundTrip.div (g : Guard) (d : Dst) (a : Src) (b : Opnd) :
    Statement (.div g d a b) :=
  of_fields rfl ((decodeFields_2 0x05 (by decide) (setB_opc _ _)).trans (decAlu_enc _ g d a b _)) rfl

theorem Laws.RoundTrip.divu (g : Guard) (d : Dst) (a : Src) (b : Opnd) :
    Statement (.divu g d a b) :=
  of_fields rfl ((decodeFields_2 0x06 (by decide) (setB_opc _ _)).trans (decAlu_enc _ g d a b _)) rfl

theorem Laws.RoundTrip.rem (g : Guard) (d : Dst) (a : Src) (b : Opnd) :
    Statement (.rem g d a b) :=
  of_fields rfl ((decodeFields_2 0x07 (by decide) (setB_opc _ _)).trans (decAlu_enc _ g d a b _)) rfl

theorem Laws.RoundTrip.remu (g : Guard) (d : Dst) (a : Src) (b : Opnd) :
    Statement (.remu g d a b) :=
  of_fields rfl ((decodeFields_2 0x08 (by decide) (setB_opc _ _)).trans (decAlu_enc _ g d a b _)) rfl

theorem Laws.RoundTrip.and (g : Guard) (d : Dst) (a : Src) (b : Opnd) :
    Statement (.and g d a b) :=
  of_fields rfl ((decodeFields_2 0x09 (by decide) (setB_opc _ _)).trans (decAlu_enc _ g d a b _)) rfl

theorem Laws.RoundTrip.or (g : Guard) (d : Dst) (a : Src) (b : Opnd) :
    Statement (.or g d a b) :=
  of_fields rfl ((decodeFields_2 0x0A (by decide) (setB_opc _ _)).trans (decAlu_enc _ g d a b _)) rfl

theorem Laws.RoundTrip.xor (g : Guard) (d : Dst) (a : Src) (b : Opnd) :
    Statement (.xor g d a b) :=
  of_fields rfl ((decodeFields_2 0x0B (by decide) (setB_opc _ _)).trans (decAlu_enc _ g d a b _)) rfl

theorem Laws.RoundTrip.andn (g : Guard) (d : Dst) (a : Src) (b : Opnd) :
    Statement (.andn g d a b) :=
  of_fields rfl ((decodeFields_2 0x0C (by decide) (setB_opc _ _)).trans (decAlu_enc _ g d a b _)) rfl

theorem Laws.RoundTrip.shl (g : Guard) (d : Dst) (a : Src) (b : Opnd) :
    Statement (.shl g d a b) :=
  of_fields rfl ((decodeFields_2 0x0D (by decide) (setB_opc _ _)).trans (decAlu_enc _ g d a b _)) rfl

theorem Laws.RoundTrip.shr (g : Guard) (d : Dst) (a : Src) (b : Opnd) :
    Statement (.shr g d a b) :=
  of_fields rfl ((decodeFields_2 0x0E (by decide) (setB_opc _ _)).trans (decAlu_enc _ g d a b _)) rfl

theorem Laws.RoundTrip.sar (g : Guard) (d : Dst) (a : Src) (b : Opnd) :
    Statement (.sar g d a b) :=
  of_fields rfl ((decodeFields_2 0x0F (by decide) (setB_opc _ _)).trans (decAlu_enc _ g d a b _)) rfl

theorem Laws.RoundTrip.rol (g : Guard) (d : Dst) (a : Src) (b : Opnd) :
    Statement (.rol g d a b) :=
  of_fields rfl ((decodeFields_2 0x10 (by decide) (setB_opc _ _)).trans (decAlu_enc _ g d a b _)) rfl

theorem Laws.RoundTrip.min (g : Guard) (d : Dst) (a : Src) (b : Opnd) :
    Statement (.min g d a b) :=
  of_fields rfl ((decodeFields_2 0x11 (by decide) (setB_opc _ _)).trans (decAlu_enc _ g d a b _)) rfl

theorem Laws.RoundTrip.max (g : Guard) (d : Dst) (a : Src) (b : Opnd) :
    Statement (.max g d a b) :=
  of_fields rfl ((decodeFields_2 0x12 (by decide) (setB_opc _ _)).trans (decAlu_enc _ g d a b _)) rfl

theorem Laws.RoundTrip.minu (g : Guard) (d : Dst) (a : Src) (b : Opnd) :
    Statement (.minu g d a b) :=
  of_fields rfl ((decodeFields_2 0x13 (by decide) (setB_opc _ _)).trans (decAlu_enc _ g d a b _)) rfl

theorem Laws.RoundTrip.maxu (g : Guard) (d : Dst) (a : Src) (b : Opnd) :
    Statement (.maxu g d a b) :=
  of_fields rfl ((decodeFields_2 0x14 (by decide) (setB_opc _ _)).trans (decAlu_enc _ g d a b _)) rfl

theorem Laws.RoundTrip.clz (g : Guard) (d : Dst) (a : Src) :
    Statement (.clz g d a) :=
  of_fields rfl ((decodeFields_2 0x15 (by decide) rfl).trans (decUn_enc _ g d a _)) rfl

theorem Laws.RoundTrip.ctz (g : Guard) (d : Dst) (a : Src) :
    Statement (.ctz g d a) :=
  of_fields rfl ((decodeFields_2 0x16 (by decide) rfl).trans (decUn_enc _ g d a _)) rfl

theorem Laws.RoundTrip.popc (g : Guard) (d : Dst) (a : Src) :
    Statement (.popc g d a) :=
  of_fields rfl ((decodeFields_2 0x17 (by decide) rfl).trans (decUn_enc _ g d a _)) rfl

theorem Laws.RoundTrip.brev (g : Guard) (d : Dst) (a : Src) :
    Statement (.brev g d a) :=
  of_fields rfl ((decodeFields_2 0x18 (by decide) rfl).trans (decUn_enc _ g d a _)) rfl

theorem Laws.RoundTrip.mov (g : Guard) (d : Dst) (a : Src) :
    Statement (.mov g d a) :=
  of_fields rfl ((decodeFields_2 0x1D (by decide) rfl).trans (decUn_enc _ g d a _)) rfl

theorem Laws.RoundTrip.movi (g : Guard) (d : Dst) (v : BitVec 48) :
    Statement (.movi g d v) := by
  refine of_fields rfl ((decodeFields_2 0x1E (by decide) rfl).trans ?_) rfl
  simp only [decClass2, imm48_set48]
  simp only [set48, mod_zero.1, noHint, modOnly, modF, modB, iForm, dZero, aZero, bZero, cZero, immZero,
      Fields.guard, setM, base, baseH, encV, encMem, beq_self_eq_true, need_true, opt_some, xOf_xCode, vOf_vCode,
      pOf_pCode, kOf_kCode, sOf_sCode, srcOf_code, dstOf_code, imm48_join, bind, Except.bind, pure, Except.pure,
      Except.map, -BitVec.reduceNot]

theorem Laws.RoundTrip.ext (g : Guard) (d : Dst) (a : Src) (b : Opnd) :
    Statement (.ext g d a b) :=
  of_fields rfl ((decodeFields_2 0x19 (by decide) (setB_opc _ _)).trans (decAlu_enc _ g d a b _)) rfl

theorem Laws.RoundTrip.extu (g : Guard) (d : Dst) (a : Src) (b : Opnd) :
    Statement (.extu g d a b) :=
  of_fields rfl ((decodeFields_2 0x1A (by decide) (setB_opc _ _)).trans (decAlu_enc _ g d a b _)) rfl

theorem Laws.RoundTrip.ins (g : Guard) (d : XReg) (a : Src) (b : Opnd) :
    Statement (.ins g d a b) := by
  have hi := iOf_cases b
  have hB : Blank { base 0x21B g with d := xCode d, a := a.code } := ⟨rfl, rfl, rfl, mod_zero.2⟩
  have hm : 0#12 &&& ~~~(BitVec.ofNat 12 0x800) = 0 := by decide
  refine of_fields rfl ((decodeFields_2 0x1B (by decide) (setB_opc _ _)).trans ?_) rfl
  simp only [decClass2, encAlu, Dst.code, opnd_setB hB]
  simp only [setB_mod, setB_d, setB_a, setB_hint, setB_gn, setB_gp, mask_or_i hi (by decide) hm, noHint, modOnly,
      modF, modB, iForm, dZero, aZero, bZero, cZero, immZero, Fields.guard, setM, base, baseH, encV, encMem,
      beq_self_eq_true, need_true, opt_some, xOf_xCode, vOf_vCode, pOf_pCode, kOf_kCode, sOf_sCode, srcOf_code,
      dstOf_code, imm48_join, bind, Except.bind, pure, Except.pure, Except.map, -BitVec.reduceNot]

theorem Laws.RoundTrip.sel (g : Guard) (pn : PReg) (d : Dst) (a : Src) (b : Opnd) :
    Statement (.sel g pn d a b) := by
  obtain ⟨hm, -, hn⟩ := mod_fin8 pn
  have hi := iOf_cases b
  have hB : Blank { base 0x21C g pn.val with d := d.code, a := a.code } := ⟨rfl, rfl, rfl, hm.2⟩
  refine of_fields rfl ((decodeFields_2 0x1C (by decide) (setB_opc _ _)).trans ?_) rfl
  simp only [decClass2, opnd_setB hB]
  simp only [setB_mod, setB_d, setB_a, setB_hint, setB_gn, setB_gp, mask_or_i hi (by decide) hm.1, fld_or_i hi (show
      0 + 3 ≤ 11 by decide), hn, noHint, modOnly, modF, modB, iForm, dZero, aZero, bZero, cZero, immZero,
      Fields.guard, setM, base, baseH, encV, encMem, beq_self_eq_true, need_true, opt_some, xOf_xCode, vOf_vCode,
      pOf_pCode, kOf_kCode, sOf_sCode, srcOf_code, dstOf_code, imm48_join, bind, Except.bind, pure, Except.pure,
      Except.map, -BitVec.reduceNot]

theorem Laws.RoundTrip.lea (g : Guard) (d : Dst) (m : MemOp) :
    Statement (.lea g d m) := by
  refine of_fields rfl ((decodeFields_2 0x1F (by decide) rfl).trans ?_) rfl
  simp only [decClass2, memOp_setM]
  simp only [mod_zero.1, noHint, modOnly, modF, modB, iForm, dZero, aZero, bZero, cZero, immZero, Fields.guard,
      setM, base, baseH, encV, encMem, beq_self_eq_true, need_true, opt_some, xOf_xCode, vOf_vCode, pOf_pCode,
      kOf_kCode, sOf_sCode, srcOf_code, dstOf_code, imm48_join, bind, Except.bind, pure, Except.pure, Except.map,
      -BitVec.reduceNot]

theorem Laws.RoundTrip.caddr (g : Guard) (d : Dst) (a : Src) :
    Statement (.caddr g d a) :=
  of_fields rfl ((decodeFields_2 0x20 (by decide) rfl).trans (decUn_enc _ g d a _)) rfl

theorem Laws.RoundTrip.crel (g : Guard) (d : Dst) (a : Src) :
    Statement (.crel g d a) :=
  of_fields rfl ((decodeFields_2 0x21 (by decide) rfl).trans (decUn_enc _ g d a _)) rfl

theorem Laws.RoundTrip.fadd (g : Guard) (f : Fmt) (r : Rnd) (sat : Bool) (d : Dst) (a : Src) (b : Opnd) :
    Statement (.fadd g f r sat d a b) :=
  of_fields rfl ((decodeFields_3 0x00 (by decide) (setB_opc _ _)).trans (decFp_enc _ g f r sat d a b _)) rfl

theorem Laws.RoundTrip.fsub (g : Guard) (f : Fmt) (r : Rnd) (sat : Bool) (d : Dst) (a : Src) (b : Opnd) :
    Statement (.fsub g f r sat d a b) :=
  of_fields rfl ((decodeFields_3 0x01 (by decide) (setB_opc _ _)).trans (decFp_enc _ g f r sat d a b _)) rfl

theorem Laws.RoundTrip.fmul (g : Guard) (f : Fmt) (r : Rnd) (sat : Bool) (d : Dst) (a : Src) (b : Opnd) :
    Statement (.fmul g f r sat d a b) :=
  of_fields rfl ((decodeFields_3 0x02 (by decide) (setB_opc _ _)).trans (decFp_enc _ g f r sat d a b _)) rfl

theorem Laws.RoundTrip.ffma (g : Guard) (f : Fmt) (r : Rnd) (sat : Bool) (d : Dst) (a b c : Src) :
    Statement (.ffma g f r sat d a b c) := by
  obtain ⟨hm, h1, h2, h3⟩ := mod_fp f r sat
  have hm' : BitVec.ofNat 12 (f.code + 16 * r.code + 128 * b2n sat) &&& ~~~(BitVec.ofNat 12 0x0FF) = 0 := by
    cases f <;> cases r <;> cases sat <;> decide
  refine of_fields rfl ((decodeFields_3 0x03 (by decide) rfl).trans ?_) rfl
  simp only [decClass3]
  simp only [hm', h1, h2, h3, Fmt.ofCode_code, Rnd.ofCode_code, noHint, modOnly, modF, modB, iForm, dZero, aZero,
      bZero, cZero, immZero, Fields.guard, setM, base, baseH, encV, encMem, beq_self_eq_true, need_true, opt_some,
      xOf_xCode, vOf_vCode, pOf_pCode, kOf_kCode, sOf_sCode, srcOf_code, dstOf_code, imm48_join, bind, Except.bind,
      pure, Except.pure, Except.map, -BitVec.reduceNot]

theorem Laws.RoundTrip.fmin (g : Guard) (f : Fmt) (d : Dst) (a : Src) (b : Opnd) :
    Statement (.fmin g f d a b) :=
  of_fields rfl ((decodeFields_3 0x04 (by decide) (setB_opc _ _)).trans (decFm_enc _ g f d a b _)) rfl

theorem Laws.RoundTrip.fmax (g : Guard) (f : Fmt) (d : Dst) (a : Src) (b : Opnd) :
    Statement (.fmax g f d a b) :=
  of_fields rfl ((decodeFields_3 0x05 (by decide) (setB_opc _ _)).trans (decFm_enc _ g f d a b _)) rfl

theorem Laws.RoundTrip.fcmp (g : Guard) (f : Fmt) (cc : FCond) (pd : PReg) (a : Src) (b : Opnd) :
    Statement (.fcmp g f cc pd a b) := by
  obtain ⟨hm, h1, h2⟩ := mod_fcmp f cc
  have hi := iOf_cases b
  have hB : Blank { base 0x306 g (f.code + 256 * cc.code) with d := pCode pd, a := a.code } :=
    ⟨rfl, rfl, rfl, hm.2⟩
  refine of_fields rfl ((decodeFields_3 0x06 (by decide) (setB_opc _ _)).trans ?_) rfl
  simp only [decClass3, opnd_setB hB]
  simp only [setB_mod, setB_d, setB_a, setB_hint, setB_gn, setB_gp, mask_or_i hi (by decide) hm.1, fld_or_i hi (show
      0 + 4 ≤ 11 by decide), fld_or_i hi (show 8 + 3 ≤ 11 by decide), h1, h2, Fmt.ofCode_code, FCond.ofCode_code,
      noHint, modOnly, modF, modB, iForm, dZero, aZero, bZero, cZero, immZero, Fields.guard, setM, base, baseH,
      encV, encMem, beq_self_eq_true, need_true, opt_some, xOf_xCode, vOf_vCode, pOf_pCode, kOf_kCode, sOf_sCode,
      srcOf_code, dstOf_code, imm48_join, bind, Except.bind, pure, Except.pure, Except.map, -BitVec.reduceNot]

theorem Laws.RoundTrip.fcvt (g : Guard) (t s : Fmt) (r : Rnd) (sat l : Bool) (d : Dst) (a : Src) :
    Statement (.fcvt g t s r sat l d a) := by
  obtain ⟨hm, h1, h2, h3, h4⟩ := mod_fcvt t r sat l
  refine of_fields rfl ((decodeFields_3 0x07 (by decide) rfl).trans ?_) rfl
  simp only [decClass3]
  simp only [hm.1, h1, h2, h3, h4, Fmt.ofCode_code, Rnd.ofCode_code, Fmt.ofCode_imm, noHint, modOnly, modF, modB,
      iForm, dZero, aZero, bZero, cZero, immZero, Fields.guard, setM, base, baseH, encV, encMem, beq_self_eq_true,
      need_true, opt_some, xOf_xCode, vOf_vCode, pOf_pCode, kOf_kCode, sOf_sCode, srcOf_code, dstOf_code,
      imm48_join, bind, Except.bind, pure, Except.pure, Except.map, -BitVec.reduceNot]

theorem Laws.RoundTrip.fdiv (g : Guard) (f : Fmt) (r : Rnd) (sat : Bool) (d : Dst) (a : Src) (b : Opnd) :
    Statement (.fdiv g f r sat d a b) :=
  of_fields rfl ((decodeFields_3 0x08 (by decide) (setB_opc _ _)).trans (decFp_enc _ g f r sat d a b _)) rfl

theorem Laws.RoundTrip.cmp (g : Guard) (cc : Cond) (pd : PReg) (a : Src) (b : Opnd) :
    Statement (.cmp g cc pd a b) := by
  obtain ⟨hm, hn⟩ := mod_cmp cc
  have hi := iOf_cases b
  have hB : Blank { base 0x400 g cc.code with d := pCode pd, a := a.code } := ⟨rfl, rfl, rfl, hm.2⟩
  refine of_fields rfl ((decodeFields_4 0x00 (by decide) (setB_opc _ _)).trans ?_) rfl
  simp only [decClass4, opnd_setB hB]
  simp only [setB_mod, setB_d, setB_a, setB_hint, setB_gn, setB_gp, mask_or_i hi (by decide) hm.1, fld_or_i hi (show
      0 + 3 ≤ 11 by decide), hn, Cond.ofCode_code, noHint, modOnly, modF, modB, iForm, dZero, aZero, bZero, cZero,
      immZero, Fields.guard, setM, base, baseH, encV, encMem, beq_self_eq_true, need_true, opt_some, xOf_xCode,
      vOf_vCode, pOf_pCode, kOf_kCode, sOf_sCode, srcOf_code, dstOf_code, imm48_join, bind, Except.bind, pure,
      Except.pure, Except.map, -BitVec.reduceNot]

theorem Laws.RoundTrip.pand (g : Guard) (na nb : Bool) (pd pa pb : PReg) :
    Statement (.pand g na nb pd pa pb) :=
  of_fields rfl ((decodeFields_4 0x01 (by decide) rfl).trans (decPred_enc _ g na nb pd pa pb _)) rfl

theorem Laws.RoundTrip.por (g : Guard) (na nb : Bool) (pd pa pb : PReg) :
    Statement (.por g na nb pd pa pb) :=
  of_fields rfl ((decodeFields_4 0x02 (by decide) rfl).trans (decPred_enc _ g na nb pd pa pb _)) rfl

theorem Laws.RoundTrip.pxor (g : Guard) (na nb : Bool) (pd pa pb : PReg) :
    Statement (.pxor g na nb pd pa pb) :=
  of_fields rfl ((decodeFields_4 0x03 (by decide) rfl).trans (decPred_enc _ g na nb pd pa pb _)) rfl

theorem Laws.RoundTrip.pnot (g : Guard) (pd pa : PReg) :
    Statement (.pnot g pd pa) := by
  refine of_fields rfl ((decodeFields_4 0x04 (by decide) rfl).trans ?_) rfl
  simp only [decClass4]
  simp only [mod_zero.1, noHint, modOnly, modF, modB, iForm, dZero, aZero, bZero, cZero, immZero, Fields.guard,
      setM, base, baseH, encV, encMem, beq_self_eq_true, need_true, opt_some, xOf_xCode, vOf_vCode, pOf_pCode,
      kOf_kCode, sOf_sCode, srcOf_code, dstOf_code, imm48_join, bind, Except.bind, pure, Except.pure, Except.map,
      -BitVec.reduceNot]

theorem Laws.RoundTrip.pmov (g : Guard) (f : PMovForm) :
    Statement (.pmov g f) := by
  cases f <;>
  · refine of_fields rfl ((decodeFields_4 0x05 (by decide) rfl).trans ?_) rfl
    simp only [decClass4, decPMov]
    simp only [mod_zero.1, pOf_src, pOf_dst, noHint, modOnly, modF, modB, iForm, dZero, aZero, bZero, cZero,
        immZero, Fields.guard, setM, base, baseH, encV, encMem, beq_self_eq_true, need_true, opt_some, xOf_xCode,
        vOf_vCode, pOf_pCode, kOf_kCode, sOf_sCode, srcOf_code, dstOf_code, imm48_join, bind, Except.bind, pure,
        Except.pure, Except.map, -BitVec.reduceNot]

theorem Laws.RoundTrip.ld (g : Guard) (h : Hint) (sz : Size) (sgn : Bool) (o : Ordn) (d : XReg) (m : MemOp) :
    Statement (.ld g h sz sgn o d m) := by
  obtain ⟨hw, h1, h2, h3⟩ := mod_ld sz sgn o
  refine of_fields rfl ((decodeFields_5 0x00 (by decide) rfl).trans ?_) rfl
  simp only [decClass5]
  refine (decMemX_enc _ g h _ _ d m _ hw).trans ?_
  simp only [h1, h2, h3, Size.ofCode_code, Ordn.ofCode_code, noHint, modOnly, modF, modB, iForm, dZero, aZero,
      bZero, cZero, immZero, Fields.guard, setM, base, baseH, encV, encMem, beq_self_eq_true, need_true, opt_some,
      xOf_xCode, vOf_vCode, pOf_pCode, kOf_kCode, sOf_sCode, srcOf_code, dstOf_code, imm48_join, bind, Except.bind,
      pure, Except.pure, Except.map, -BitVec.reduceNot]

theorem Laws.RoundTrip.st (g : Guard) (h : Hint) (sz : Size) (o : Ordn) (d : XReg) (m : MemOp) :
    Statement (.st g h sz o d m) := by
  obtain ⟨hw, h1, h2⟩ := mod_st sz o
  refine of_fields rfl ((decodeFields_5 0x01 (by decide) rfl).trans ?_) rfl
  simp only [decClass5]
  refine (decMemX_enc _ g h _ _ d m _ hw).trans ?_
  simp only [h1, h2, Size.ofCode_code, Ordn.ofCode_code, noHint, modOnly, modF, modB, iForm, dZero, aZero, bZero,
      cZero, immZero, Fields.guard, setM, base, baseH, encV, encMem, beq_self_eq_true, need_true, opt_some,
      xOf_xCode, vOf_vCode, pOf_pCode, kOf_kCode, sOf_sCode, srcOf_code, dstOf_code, imm48_join, bind, Except.bind,
      pure, Except.pure, Except.map, -BitVec.reduceNot]

theorem Laws.RoundTrip.ldv (g : Guard) (h : Hint) (sz : Size) (o : Ordn) (mk : KReg) (d : VReg) (m : MemOp) :
    Statement (.ldv g h sz o mk d m) := by
  obtain ⟨hw, h1, h2, h3⟩ := mod_ldv sz mk o
  refine of_fields rfl ((decodeFields_5 0x02 (by decide) rfl).trans ?_) rfl
  simp only [decClass5]
  refine (decMemV_enc _ g h _ _ d m _ _ hw).trans ?_
  simp only [h1, h2, h3, Size.ofCode_code, Ordn.ofCode_code, noHint, modOnly, modF, modB, iForm, dZero, aZero,
      bZero, cZero, immZero, Fields.guard, setM, base, baseH, encV, encMem, beq_self_eq_true, need_true, opt_some,
      xOf_xCode, vOf_vCode, pOf_pCode, kOf_kCode, sOf_sCode, srcOf_code, dstOf_code, imm48_join, bind, Except.bind,
      pure, Except.pure, Except.map, -BitVec.reduceNot]

theorem Laws.RoundTrip.stv (g : Guard) (h : Hint) (sz : Size) (o : Ordn) (mk : KReg) (d : VReg) (m : MemOp) :
    Statement (.stv g h sz o mk d m) := by
  obtain ⟨hw, h1, h2, h3⟩ := mod_ldv sz mk o
  refine of_fields rfl ((decodeFields_5 0x03 (by decide) rfl).trans ?_) rfl
  simp only [decClass5]
  refine (decMemV_enc _ g h _ _ d m _ _ hw).trans ?_
  simp only [h1, h2, h3, Size.ofCode_code, Ordn.ofCode_code, noHint, modOnly, modF, modB, iForm, dZero, aZero,
      bZero, cZero, immZero, Fields.guard, setM, base, baseH, encV, encMem, beq_self_eq_true, need_true, opt_some,
      xOf_xCode, vOf_vCode, pOf_pCode, kOf_kCode, sOf_sCode, srcOf_code, dstOf_code, imm48_join, bind, Except.bind,
      pure, Except.pure, Except.map, -BitVec.reduceNot]

theorem Laws.RoundTrip.gath (g : Guard) (h : Hint) (sz : Size) (scl : Bool) (o : Ordn) (mk : KReg) (d : VReg) (m : MemOp) (b : VReg) :
    Statement (.gath g h sz scl o mk d m b) := by
  obtain ⟨hw, h1, h2, h3, h4⟩ := mod_gath sz mk scl o
  refine of_fields rfl ((decodeFields_5 0x04 (by decide) rfl).trans ?_) rfl
  simp only [decClass5]
  refine (decMemV_enc _ g h _ _ d m _ _ hw).trans ?_
  simp only [h1, h2, h3, h4, Size.ofCode_code, Ordn.ofCode_code, noHint, modOnly, modF, modB, iForm, dZero, aZero,
      bZero, cZero, immZero, Fields.guard, setM, base, baseH, encV, encMem, beq_self_eq_true, need_true, opt_some,
      xOf_xCode, vOf_vCode, pOf_pCode, kOf_kCode, sOf_sCode, srcOf_code, dstOf_code, imm48_join, bind, Except.bind,
      pure, Except.pure, Except.map, -BitVec.reduceNot]

theorem Laws.RoundTrip.scat (g : Guard) (h : Hint) (sz : Size) (scl : Bool) (o : Ordn) (mk : KReg) (d : VReg) (m : MemOp) (b : VReg) :
    Statement (.scat g h sz scl o mk d m b) := by
  obtain ⟨hw, h1, h2, h3, h4⟩ := mod_gath sz mk scl o
  refine of_fields rfl ((decodeFields_5 0x05 (by decide) rfl).trans ?_) rfl
  simp only [decClass5]
  refine (decMemV_enc _ g h _ _ d m _ _ hw).trans ?_
  simp only [h1, h2, h3, h4, Size.ofCode_code, Ordn.ofCode_code, noHint, modOnly, modF, modB, iForm, dZero, aZero,
      bZero, cZero, immZero, Fields.guard, setM, base, baseH, encV, encMem, beq_self_eq_true, need_true, opt_some,
      xOf_xCode, vOf_vCode, pOf_pCode, kOf_kCode, sOf_sCode, srcOf_code, dstOf_code, imm48_join, bind, Except.bind,
      pure, Except.pure, Except.map, -BitVec.reduceNot]

theorem Laws.RoundTrip.stn (g : Guard) (h : Hint) (hi : Bool) (o : Ordn) (d : XReg) (m : MemOp) :
    Statement (.stn g h hi o d m) := by
  obtain ⟨hw, h1, h2⟩ := mod_stn hi o
  refine of_fields rfl ((decodeFields_5 0x06 (by decide) rfl).trans ?_) rfl
  simp only [decClass5]
  refine (decMemX_enc _ g h _ _ d m _ hw).trans ?_
  simp only [h1, h2, Size.ofCode_code, Ordn.ofCode_code, noHint, modOnly, modF, modB, iForm, dZero, aZero, bZero,
      cZero, immZero, Fields.guard, setM, base, baseH, encV, encMem, beq_self_eq_true, need_true, opt_some,
      xOf_xCode, vOf_vCode, pOf_pCode, kOf_kCode, sOf_sCode, srcOf_code, dstOf_code, imm48_join, bind, Except.bind,
      pure, Except.pure, Except.map, -BitVec.reduceNot]

theorem Laws.RoundTrip.aadd (g : Guard) (h : Hint) (sz : Size) (o : Ordn) (d : Option XReg) (m : MemOp) (b : XReg) :
    Statement (.aadd g h sz o d m b) :=
  of_fields rfl ((decodeFields_6 0x00 (by decide) rfl).trans (decAtom_enc _ g h sz o d m b _)) rfl

theorem Laws.RoundTrip.aand (g : Guard) (h : Hint) (sz : Size) (o : Ordn) (d : Option XReg) (m : MemOp) (b : XReg) :
    Statement (.aand g h sz o d m b) :=
  of_fields rfl ((decodeFields_6 0x01 (by decide) rfl).trans (decAtom_enc _ g h sz o d m b _)) rfl

theorem Laws.RoundTrip.aor (g : Guard) (h : Hint) (sz : Size) (o : Ordn) (d : Option XReg) (m : MemOp) (b : XReg) :
    Statement (.aor g h sz o d m b) :=
  of_fields rfl ((decodeFields_6 0x02 (by decide) rfl).trans (decAtom_enc _ g h sz o d m b _)) rfl

theorem Laws.RoundTrip.axor (g : Guard) (h : Hint) (sz : Size) (o : Ordn) (d : Option XReg) (m : MemOp) (b : XReg) :
    Statement (.axor g h sz o d m b) :=
  of_fields rfl ((decodeFields_6 0x03 (by decide) rfl).trans (decAtom_enc _ g h sz o d m b _)) rfl

theorem Laws.RoundTrip.amin (g : Guard) (h : Hint) (sz : Size) (o : Ordn) (d : Option XReg) (m : MemOp) (b : XReg) :
    Statement (.amin g h sz o d m b) :=
  of_fields rfl ((decodeFields_6 0x04 (by decide) rfl).trans (decAtom_enc _ g h sz o d m b _)) rfl

theorem Laws.RoundTrip.amax (g : Guard) (h : Hint) (sz : Size) (o : Ordn) (d : Option XReg) (m : MemOp) (b : XReg) :
    Statement (.amax g h sz o d m b) :=
  of_fields rfl ((decodeFields_6 0x05 (by decide) rfl).trans (decAtom_enc _ g h sz o d m b _)) rfl

theorem Laws.RoundTrip.aminu (g : Guard) (h : Hint) (sz : Size) (o : Ordn) (d : Option XReg) (m : MemOp) (b : XReg) :
    Statement (.aminu g h sz o d m b) :=
  of_fields rfl ((decodeFields_6 0x06 (by decide) rfl).trans (decAtom_enc _ g h sz o d m b _)) rfl

theorem Laws.RoundTrip.amaxu (g : Guard) (h : Hint) (sz : Size) (o : Ordn) (d : Option XReg) (m : MemOp) (b : XReg) :
    Statement (.amaxu g h sz o d m b) :=
  of_fields rfl ((decodeFields_6 0x07 (by decide) rfl).trans (decAtom_enc _ g h sz o d m b _)) rfl

theorem Laws.RoundTrip.axch (g : Guard) (h : Hint) (sz : Size) (o : Ordn) (d : Option XReg) (m : MemOp) (b : XReg) :
    Statement (.axch g h sz o d m b) :=
  of_fields rfl ((decodeFields_6 0x08 (by decide) rfl).trans (decAtom_enc _ g h sz o d m b _)) rfl

theorem Laws.RoundTrip.acas (g : Guard) (h : Hint) (sz : Size) (o : Ordn) (d : XReg) (m : MemOp) (b : XReg) :
    Statement (.acas g h sz o d m b) := by
  obtain ⟨-, h1, h2, -⟩ := mod_atom sz o false
  have hm := mod_acas sz o
  have hh : hintOf (encAtom 0x609 g h sz.code o (some d) m b) = .ok h := hintOf_code rfl
  have ho : memOp (encAtom 0x609 g h sz.code o (some d) m b) = .ok m := memOp_of rfl rfl rfl
  refine of_fields rfl ((decodeFields_6 0x09 (by decide) rfl).trans ?_) rfl
  simp only [decClass6, hh, ho]
  simp only [encAtom, Option.isNone, Option.getD, hm.1, h1, h2, Size.ofCode_code, Ordn.ofCode_code, noHint, modOnly,
      modF, modB, iForm, dZero, aZero, bZero, cZero, immZero, Fields.guard, setM, base, baseH, encV, encMem,
      beq_self_eq_true, need_true, opt_some, xOf_xCode, vOf_vCode, pOf_pCode, kOf_kCode, sOf_sCode, srcOf_code,
      dstOf_code, imm48_join, bind, Except.bind, pure, Except.pure, Except.map, -BitVec.reduceNot]

theorem Laws.RoundTrip.afadd (g : Guard) (h : Hint) (f : Fmt) (o : Ordn) (d : Option XReg) (m : MemOp) (b : XReg) :
    Statement (.afadd g h f o d m b) :=
  of_fields rfl ((decodeFields_6 0x0A (by decide) rfl).trans (decAf_enc _ g h f o d m b _)) rfl

theorem Laws.RoundTrip.afmin (g : Guard) (h : Hint) (f : Fmt) (o : Ordn) (d : Option XReg) (m : MemOp) (b : XReg) :
    Statement (.afmin g h f o d m b) :=
  of_fields rfl ((decodeFields_6 0x0B (by decide) rfl).trans (decAf_enc _ g h f o d m b _)) rfl

theorem Laws.RoundTrip.afmax (g : Guard) (h : Hint) (f : Fmt) (o : Ordn) (d : Option XReg) (m : MemOp) (b : XReg) :
    Statement (.afmax g h f o d m b) :=
  of_fields rfl ((decodeFields_6 0x0C (by decide) rfl).trans (decAf_enc _ g h f o d m b _)) rfl

theorem Laws.RoundTrip.fence (g : Guard) (o : Ordn) (mask : BitVec 6) (scope : BitVec 3) :
    Statement (.fence g o mask scope) := by
  obtain ⟨hm, h1⟩ := mod_fence o
  obtain ⟨h2, h3, h4, h5⟩ := imm_fence mask.toFin scope.toFin
  change (BitVec.ofNat 32 (mask.toNat + 256 * scope.toNat)).extractLsb' 11 21 = 0 at h2
  change (BitVec.ofNat 32 (mask.toNat + 256 * scope.toNat)).extractLsb' 6 2 = 0 at h3
  change (BitVec.ofNat 32 (mask.toNat + 256 * scope.toNat)).extractLsb' 0 6 = mask at h4
  change (BitVec.ofNat 32 (mask.toNat + 256 * scope.toNat)).extractLsb' 8 3 = scope at h5
  refine of_fields rfl ((decodeFields_6 0x0D (by decide) rfl).trans ?_) rfl
  simp only [decClass6]
  simp only [hm.1, h1, h2, h3, h4, h5, Ordn.ofCode_code, Bool.and_self, noHint, modOnly, modF, modB, iForm, dZero,
      aZero, bZero, cZero, immZero, Fields.guard, setM, base, baseH, encV, encMem, beq_self_eq_true, need_true,
      opt_some, xOf_xCode, vOf_vCode, pOf_pCode, kOf_kCode, sOf_sCode, srcOf_code, dstOf_code, imm48_join, bind,
      Except.bind, pure, Except.pure, Except.map, -BitVec.reduceNot]

theorem Laws.RoundTrip.fenceComplete (e : SRef) :
    Statement (.fenceComplete e) :=
  of_event rfl rfl

theorem Laws.RoundTrip.memoryReply (e : SRef) (n : Option Nat) :
    Statement (.memoryReply e n) :=
  of_event rfl rfl

theorem Laws.RoundTrip.poisonReport (e : SRef) (addr : Nat) :
    Statement (.poisonReport e addr) :=
  of_event rfl rfl

theorem Laws.RoundTrip.nsum (g : Guard) (h : Hint) (d : XReg) (m : MemOp) :
    Statement (.nsum g h d m) := by
  refine of_fields rfl ((decodeFields_E 0x00 (by decide) rfl).trans ?_) rfl
  simp only [decClassE]
  exact decMemX_enc _ g h 0 _ d m _ mod_zero

theorem Laws.RoundTrip.nmax (g : Guard) (h : Hint) (d : XReg) (m : MemOp) :
    Statement (.nmax g h d m) := by
  refine of_fields rfl ((decodeFields_E 0x01 (by decide) rfl).trans ?_) rfl
  simp only [decClassE]
  exact decMemX_enc _ g h 0 _ d m _ mod_zero

theorem Laws.RoundTrip.naxpy (g : Guard) (h : Hint) (d : XReg) (m : MemOp) (b : XReg) :
    Statement (.naxpy g h d m b) :=
  of_fields rfl ((decodeFields_E 0x02 (by decide) rfl).trans (decCellarB_enc _ g h d m b _)) rfl

theorem Laws.RoundTrip.nscale (g : Guard) (h : Hint) (d : XReg) (m : MemOp) (b : XReg) :
    Statement (.nscale g h d m b) :=
  of_fields rfl ((decodeFields_E 0x03 (by decide) rfl).trans (decCellarB_enc _ g h d m b _)) rfl

theorem Laws.RoundTrip.ncvt (g : Guard) (h : Hint) (d : XReg) (m : MemOp) :
    Statement (.ncvt g h d m) := by
  refine of_fields rfl ((decodeFields_E 0x04 (by decide) rfl).trans ?_) rfl
  simp only [decClassE]
  exact decMemX_enc _ g h 0 _ d m _ mod_zero

theorem Laws.RoundTrip.ndot (g : Guard) (h : Hint) (d : XReg) (m : MemOp) :
    Statement (.ndot g h d m) := by
  refine of_fields rfl ((decodeFields_E 0x05 (by decide) rfl).trans ?_) rfl
  simp only [decClassE]
  exact decMemX_enc _ g h 0 _ d m _ mod_zero

theorem Laws.RoundTrip.cellarCommandComplete (u : Nat) :
    Statement (.cellarCommandComplete u) :=
  of_event rfl rfl

theorem Laws.RoundTrip.landset (g : Guard) (d : XReg) (m : MemOp) (b : XReg) :
    Statement (.landset g d m b) := by
  have hn : noHint { encMem 0x700 g .normal 0 (xCode d) m with b := xCode b } = .ok () := rfl
  have ho : memOp { encMem 0x700 g .normal 0 (xCode d) m with b := xCode b } = .ok m := memOp_of rfl rfl rfl
  refine of_fields rfl ((decodeFields_7 0x00 (by decide) rfl).trans ?_) rfl
  simp only [decClass7, hn, ho]
  simp only [mod_zero.1, noHint, modOnly, modF, modB, iForm, dZero, aZero, bZero, cZero, immZero, Fields.guard,
      setM, base, baseH, encV, encMem, beq_self_eq_true, need_true, opt_some, xOf_xCode, vOf_vCode, pOf_pCode,
      kOf_kCode, sOf_sCode, srcOf_code, dstOf_code, imm48_join, bind, Except.bind, pure, Except.pure, Except.map,
      -BitVec.reduceNot]

theorem Laws.RoundTrip.landadd (g : Guard) (o : Ordn) (d : Option XReg) (m : MemOp) (b : XReg) :
    Statement (.landadd g o d m b) := by
  obtain ⟨hm, h1, h2⟩ := mod_land o d.isNone
  have hd : nrD (encAtom 0x701 g .normal 0 o d m b) = .ok d := nrD_enc h2 rfl
  have hn : noHint (encAtom 0x701 g .normal 0 o d m b) = .ok () := rfl
  have ho : memOp (encAtom 0x701 g .normal 0 o d m b) = .ok m := memOp_of rfl rfl rfl
  refine of_fields rfl ((decodeFields_7 0x01 (by decide) rfl).trans ?_) rfl
  simp only [decClass7, hn, ho, hd]
  simp only [encAtom, hm.1, h1, Ordn.ofCode_code, noHint, modOnly, modF, modB, iForm, dZero, aZero, bZero, cZero,
      immZero, Fields.guard, setM, base, baseH, encV, encMem, beq_self_eq_true, need_true, opt_some, xOf_xCode,
      vOf_vCode, pOf_pCode, kOf_kCode, sOf_sCode, srcOf_code, dstOf_code, imm48_join, bind, Except.bind, pure,
      Except.pure, Except.map, -BitVec.reduceNot]

theorem Laws.RoundTrip.marm (g : Guard) (slot : Fin 4) (m : MemOp) :
    Statement (.marm g slot m) := by
  obtain ⟨-, hm, h1⟩ := mod_fin4 slot
  have hn : noHint (encMem 0x702 g .normal slot.val 0 m) = .ok () := rfl
  have ho : memOp (encMem 0x702 g .normal slot.val 0 m) = .ok m := memOp_of rfl rfl rfl
  refine of_fields rfl ((decodeFields_7 0x02 (by decide) rfl).trans ?_) rfl
  simp only [decClass7, hn, ho]
  simp only [hm, h1, noHint, modOnly, modF, modB, iForm, dZero, aZero, bZero, cZero, immZero, Fields.guard, setM,
      base, baseH, encV, encMem, beq_self_eq_true, need_true, opt_some, xOf_xCode, vOf_vCode, pOf_pCode, kOf_kCode,
      sOf_sCode, srcOf_code, dstOf_code, imm48_join, bind, Except.bind, pure, Except.pure, Except.map,
      -BitVec.reduceNot]

theorem Laws.RoundTrip.mwait (g : Guard) (d : XReg) (b : XOpnd) :
    Statement (.mwait g d b) :=
  of_fields rfl ((decodeFields_7 0x03 (by decide) (setX_opc _ _)).trans
    (decDB_enc _ g 0 0 d b _ (by decide) (by unfold Within; decide))) rfl

theorem Laws.RoundTrip.mwaitWake (e : SRef) :
    Statement (.mwaitWake e) :=
  of_event rfl rfl

theorem Laws.RoundTrip.mwaitLimitExpiry (e : SRef) :
    Statement (.mwaitLimitExpiry e) :=
  of_event rfl rfl

theorem Laws.RoundTrip.mclr (g : Guard) (b : XOpnd) :
    Statement (.mclr g b) :=
  of_fields rfl ((decodeFields_7 0x04 (by decide) (setX_opc _ _)).trans (decB_enc _ g b _)) rfl

theorem Laws.RoundTrip.rng (g : Guard) (d : XReg) :
    Statement (.rng g d) :=
  of_fields rfl ((decodeFields_7 0x05 (by decide) rfl).trans (decD_enc _ g d _)) rfl

theorem Laws.RoundTrip.vrng (g : Guard) (mk : KReg) (d : VReg) :
    Statement (.vrng g mk d) := by
  obtain ⟨hm, h1⟩ := mod_mk mk
  refine of_fields rfl ((decodeFields_7 0x06 (by decide) rfl).trans ?_) rfl
  simp only [decClass7]
  simp only [hm.1, h1, noHint, modOnly, modF, modB, iForm, dZero, aZero, bZero, cZero, immZero, Fields.guard, setM,
      base, baseH, encV, encMem, beq_self_eq_true, need_true, opt_some, xOf_xCode, vOf_vCode, pOf_pCode, kOf_kCode,
      sOf_sCode, srcOf_code, dstOf_code, imm48_join, bind, Except.bind, pure, Except.pure, Except.map,
      -BitVec.reduceNot]

theorem Laws.RoundTrip.qdef (g : Guard) (d : XReg) (m : MemOp) :
    Statement (.qdef g d m) :=
  of_fields rfl ((decodeFields_8 0x00 (by decide) rfl).trans (decMem_enc _ g d m _)) rfl

theorem Laws.RoundTrip.qkill (g : Guard) (a : XReg) :
    Statement (.qkill g a) :=
  of_fields rfl ((decodeFields_8 0x01 (by decide) rfl).trans (decA_enc _ g a _)) rfl

theorem Laws.RoundTrip.qbind (g : Guard) (port : Fin 4) (a : XReg) (b : XOpnd) :
    Statement (.qbind g port a b) := by
  obtain ⟨hw, -, hn⟩ := mod_fin4 port
  have hi := iOfX_cases b
  have hF : Fields.modF ({ base 0x802 g (port.val) with a := xCode a }.setX b) 0 2 = fld (BitVec.ofNat 12 (port.val)) 0 2 := by
    simp only [modF, encXB, setX_mod, fld_or_i hi (show 0 + 2 ≤ 11 by decide)]; rfl
  refine of_fields rfl ((decodeFields_8 0x02 (by decide) (setX_opc _ _)).trans ?_) rfl
  simp only [decClass8]
  refine (decAB_enc _ g _ 3 a b _ (by decide) hw).trans ?_
  rw [hF, hn]

theorem Laws.RoundTrip.qpush (g : Guard) (try_ : Option PReg) (rel : Bool) (a : XReg) (b : XV) :
    Statement (.qpush g try_ rel a b) := by
  obtain ⟨hm, h1, h2⟩ := mod_push try_.isSome rel
  have ht : tryC { base 0x803 g (tryMod try_ + 512 * b2n rel) with a := xCode a, b := b.code, c := tryCode try_ } = .ok try_ := tryC_enc h1 rfl
  refine of_fields rfl ((decodeFields_8 0x03 (by decide) rfl).trans ?_) rfl
  simp only [decClass8, ht]
  simp only [tryMod, hm.1, h2, xvOf_code, noHint, modOnly, modF, modB, iForm, dZero, aZero, bZero, cZero, immZero,
      Fields.guard, setM, base, baseH, encV, encMem, beq_self_eq_true, need_true, opt_some, xOf_xCode, vOf_vCode,
      pOf_pCode, kOf_kCode, sOf_sCode, srcOf_code, dstOf_code, imm48_join, bind, Except.bind, pure, Except.pure,
      Except.map, -BitVec.reduceNot]

theorem Laws.RoundTrip.qpop (g : Guard) (try_ : Option PReg) (acq : Bool) (d : XV) (a b : XReg) :
    Statement (.qpop g try_ acq d a b) := by
  obtain ⟨hm, h1, h2⟩ := mod_pop try_.isSome acq
  have ht : tryC { base 0x804 g (tryMod try_ + 256 * b2n acq) with
      d := d.code, a := xCode a, b := xCode b, c := tryCode try_ } = .ok try_ := tryC_enc h1 rfl
  refine of_fields rfl ((decodeFields_8 0x04 (by decide) rfl).trans ?_) rfl
  simp only [decClass8, ht]
  simp only [tryMod, hm.1, h2, xvOf_code, noHint, modOnly, modF, modB, iForm, dZero, aZero, bZero, cZero, immZero,
      Fields.guard, setM, base, baseH, encV, encMem, beq_self_eq_true, need_true, opt_some, xOf_xCode, vOf_vCode,
      pOf_pCode, kOf_kCode, sOf_sCode, srcOf_code, dstOf_code, imm48_join, bind, Except.bind, pure, Except.pure,
      Except.map, -BitVec.reduceNot]

theorem Laws.RoundTrip.qpeek (g : Guard) (try_ : Option PReg) (acq : Bool) (d : XV) (a b : XReg) :
    Statement (.qpeek g try_ acq d a b) := by
  obtain ⟨hm, h1, h2⟩ := mod_pop try_.isSome acq
  have ht : tryC { base 0x805 g (tryMod try_ + 256 * b2n acq) with
      d := d.code, a := xCode a, b := xCode b, c := tryCode try_ } = .ok try_ := tryC_enc h1 rfl
  refine of_fields rfl ((decodeFields_8 0x05 (by decide) rfl).trans ?_) rfl
  simp only [decClass8, ht]
  simp only [tryMod, hm.1, h2, xvOf_code, noHint, modOnly, modF, modB, iForm, dZero, aZero, bZero, cZero, immZero,
      Fields.guard, setM, base, baseH, encV, encMem, beq_self_eq_true, need_true, opt_some, xOf_xCode, vOf_vCode,
      pOf_pCode, kOf_kCode, sOf_sCode, srcOf_code, dstOf_code, imm48_join, bind, Except.bind, pure, Except.pure,
      Except.map, -BitVec.reduceNot]

theorem Laws.RoundTrip.qmark (g : Guard) (kind : QKind) (a : HPort) (b : XOpnd) :
    Statement (.qmark g kind a b) := by
  obtain ⟨hm, h1⟩ := mod_qkind kind
  have hi := iOfX_cases b
  have hB : Blank { base 0x806 g kind.code with a := a.code } := ⟨rfl, rfl, rfl, hm.2⟩
  refine of_fields rfl ((decodeFields_8 0x06 (by decide) (setX_opc _ _)).trans ?_) rfl
  simp only [decClass8, xopnd_setX hB]
  simp only [setX_mod, setX_d, setX_a, setX_hint, setX_gn, setX_gp, mask_or_i hi (by decide) hm.1, fld_or_i hi (show
      0 + 2 ≤ 11 by decide), h1, QKind.ofCode_code, hportOf_code, noHint, modOnly, modF, modB, iForm, dZero, aZero,
      bZero, cZero, immZero, Fields.guard, setM, base, baseH, encV, encMem, beq_self_eq_true, need_true, opt_some,
      xOf_xCode, vOf_vCode, pOf_pCode, kOf_kCode, sOf_sCode, srcOf_code, dstOf_code, imm48_join, bind, Except.bind,
      pure, Except.pure, Except.map, -BitVec.reduceNot]

theorem Laws.RoundTrip.qstat (g : Guard) (sel : QSel) (d a : XReg) :
    Statement (.qstat g sel d a) := by
  obtain ⟨hm, h1⟩ := mod_qsel sel
  refine of_fields rfl ((decodeFields_8 0x07 (by decide) rfl).trans ?_) rfl
  simp only [decClass8]
  simp only [hm.1, h1, QSel.ofCode_code, noHint, modOnly, modF, modB, iForm, dZero, aZero, bZero, cZero, immZero,
      Fields.guard, setM, base, baseH, encV, encMem, beq_self_eq_true, need_true, opt_some, xOf_xCode, vOf_vCode,
      pOf_pCode, kOf_kCode, sOf_sCode, srcOf_code, dstOf_code, imm48_join, bind, Except.bind, pure, Except.pure,
      Except.map, -BitVec.reduceNot]

theorem Laws.RoundTrip.queueWaitResume (q : Nat) :
    Statement (.queueWaitResume q) :=
  of_event rfl rfl

theorem Laws.RoundTrip.queueHeldEnd (q : Nat) :
    Statement (.queueHeldEnd q) :=
  of_event rfl rfl

theorem Laws.RoundTrip.roundEdge (job booth : Nat) :
    Statement (.roundEdge job booth) :=
  of_event rfl rfl

theorem Laws.RoundTrip.twinCompare (q : Nat) :
    Statement (.twinCompare q) :=
  of_event rfl rfl

theorem Laws.RoundTrip.tspawn (g : Guard) (prio : Fin 4) (a b c : XReg) :
    Statement (.tspawn g prio a b c) := by
  obtain ⟨-, hm, h1⟩ := mod_fin4 prio
  refine of_fields rfl ((decodeFields_9 0x00 (by decide) rfl).trans ?_) rfl
  simp only [decClass9]
  simp only [hm, h1, noHint, modOnly, modF, modB, iForm, dZero, aZero, bZero, cZero, immZero, Fields.guard, setM,
      base, baseH, encV, encMem, beq_self_eq_true, need_true, opt_some, xOf_xCode, vOf_vCode, pOf_pCode, kOf_kCode,
      sOf_sCode, srcOf_code, dstOf_code, imm48_join, bind, Except.bind, pure, Except.pure, Except.map,
      -BitVec.reduceNot]

theorem Laws.RoundTrip.tend (g : Guard) :
    Statement (.tend g) :=
  of_fields rfl ((decodeFields_9 0x01 (by decide) rfl).trans (decNone_enc _ g _)) rfl

theorem Laws.RoundTrip.readyQueueHeldEnd (site : Nat) (kib : Nat) :
    Statement (.readyQueueHeldEnd site kib) :=
  of_event rfl rfl

theorem Laws.RoundTrip.tnext (g : Guard) (try_ : Option PReg) :
    Statement (.tnext g try_) := by
  cases try_ with
  | none =>
    obtain ⟨-, hm, h1⟩ := mod_bit false
    refine of_fields rfl ((decodeFields_9 0x02 (by decide) rfl).trans ?_) rfl
    simp only [decClass9]
    simp only [tryMod, tryCode, Option.isSome, hm.1, h1, Bool.false_eq_true, if_false, noHint, modOnly, modF, modB,
        iForm, dZero, aZero, bZero, cZero, immZero, Fields.guard, setM, base, baseH, encV, encMem, beq_self_eq_true,
        need_true, opt_some, xOf_xCode, vOf_vCode, pOf_pCode, kOf_kCode, sOf_sCode, srcOf_code, dstOf_code,
        imm48_join, bind, Except.bind, pure, Except.pure, Except.map, -BitVec.reduceNot]
  | some p =>
    obtain ⟨-, hm, h1⟩ := mod_bit true
    refine of_fields rfl ((decodeFields_9 0x02 (by decide) rfl).trans ?_) rfl
    simp only [decClass9]
    simp only [tryMod, tryCode, Option.isSome, hm.1, h1, if_true, noHint, modOnly, modF, modB, iForm, dZero, aZero,
        bZero, cZero, immZero, Fields.guard, setM, base, baseH, encV, encMem, beq_self_eq_true, need_true, opt_some,
        xOf_xCode, vOf_vCode, pOf_pCode, kOf_kCode, sOf_sCode, srcOf_code, dstOf_code, imm48_join, bind,
        Except.bind, pure, Except.pure, Except.map, -BitVec.reduceNot]

theorem Laws.RoundTrip.readyRecordArrival (site : Nat) :
    Statement (.readyRecordArrival site) :=
  of_event rfl rfl

theorem Laws.RoundTrip.tjoin (g : Guard) (m : MemOp) :
    Statement (.tjoin g m) := by
  have hn : noHint (encMem 0x903 g .normal 0 0 m) = .ok () := rfl
  have ho : memOp (encMem 0x903 g .normal 0 0 m) = .ok m := memOp_of rfl rfl rfl
  refine of_fields rfl ((decodeFields_9 0x03 (by decide) rfl).trans ?_) rfl
  simp only [decClass9, hn, ho]
  simp only [mod_zero.1, noHint, modOnly, modF, modB, iForm, dZero, aZero, bZero, cZero, immZero, Fields.guard,
      setM, base, baseH, encV, encMem, beq_self_eq_true, need_true, opt_some, xOf_xCode, vOf_vCode, pOf_pCode,
      kOf_kCode, sOf_sCode, srcOf_code, dstOf_code, imm48_join, bind, Except.bind, pure, Except.pure, Except.map,
      -BitVec.reduceNot]

theorem Laws.RoundTrip.balanceTick (site : Nat) :
    Statement (.balanceTick site) :=
  of_event rfl rfl

theorem Laws.RoundTrip.balanceSnapshotArrival (site : Nat) (dir : Fin 4) (n : Nat) :
    Statement (.balanceSnapshotArrival site dir n) :=
  of_event rfl rfl

theorem Laws.RoundTrip.recordMigrationArrival (site sender : Nat) (prio : Fin 4) (r : BitVec 128) :
    Statement (.recordMigrationArrival site sender prio r) :=
  of_event rfl rfl

theorem Laws.RoundTrip.fnew (g : Guard) (d : XReg) :
    Statement (.fnew g d) :=
  of_fields rfl ((decodeFields_9 0x04 (by decide) rfl).trans (decD_enc _ g d _)) rfl

theorem Laws.RoundTrip.fset (g : Guard) (a : XReg) (b : XOpnd) :
    Statement (.fset g a b) :=
  of_fields rfl ((decodeFields_9 0x05 (by decide) (setX_opc _ _)).trans
    (decAB_enc _ g 0 0 a b _ (by decide) (by unfold Within; decide))) rfl

theorem Laws.RoundTrip.fget (g : Guard) (try_ : Bool) (d a b : XReg) :
    Statement (.fget g try_ d a b) := by
  obtain ⟨-, hm, h1⟩ := mod_bit try_
  refine of_fields rfl ((decodeFields_9 0x06 (by decide) rfl).trans ?_) rfl
  simp only [decClass9]
  simp only [hm.1, h1, noHint, modOnly, modF, modB, iForm, dZero, aZero, bZero, cZero, immZero, Fields.guard, setM,
      base, baseH, encV, encMem, beq_self_eq_true, need_true, opt_some, xOf_xCode, vOf_vCode, pOf_pCode, kOf_kCode,
      sOf_sCode, srcOf_code, dstOf_code, imm48_join, bind, Except.bind, pure, Except.pure, Except.map,
      -BitVec.reduceNot]

theorem Laws.RoundTrip.waiterNodeFree (cluster : Nat) :
    Statement (.waiterNodeFree cluster) :=
  of_event rfl rfl

theorem Laws.RoundTrip.ffree (g : Guard) (a : XReg) :
    Statement (.ffree g a) :=
  of_fields rfl ((decodeFields_9 0x07 (by decide) rfl).trans (decA_enc _ g a _)) rfl

theorem Laws.RoundTrip.fpoison (g : Guard) (a : XReg) (b : XOpnd) :
    Statement (.fpoison g a b) :=
  of_fields rfl ((decodeFields_9 0x08 (by decide) (setX_opc _ _)).trans
    (decAB_enc _ g 0 0 a b _ (by decide) (by unfold Within; decide))) rfl

theorem Laws.RoundTrip.vadd (g : Guard) (f : Fmt) (r : Rnd) (sat : Bool) (mk : KReg) (d a : VReg) (b : VOpnd) :
    Statement (.vadd g f r sat mk d a b) :=
  of_fields rfl ((decodeFields_A 0x00 (by decide) (setV_opc _ _)).trans (decVB_enc _ g f r sat mk d a b _)) rfl

theorem Laws.RoundTrip.vsub (g : Guard) (f : Fmt) (r : Rnd) (sat : Bool) (mk : KReg) (d a : VReg) (b : VOpnd) :
    Statement (.vsub g f r sat mk d a b) :=
  of_fields rfl ((decodeFields_A 0x01 (by decide) (setV_opc _ _)).trans (decVB_enc _ g f r sat mk d a b _)) rfl

theorem Laws.RoundTrip.vmul (g : Guard) (f : Fmt) (r : Rnd) (sat : Bool) (mk : KReg) (d a : VReg) (b : VOpnd) :
    Statement (.vmul g f r sat mk d a b) :=
  of_fields rfl ((decodeFields_A 0x02 (by decide) (setV_opc _ _)).trans (decVB_enc _ g f r sat mk d a b _)) rfl

theorem Laws.RoundTrip.vfma (g : Guard) (f : Fmt) (r : Rnd) (sat : Bool) (mk : KReg) (d a b c : VReg) :
    Statement (.vfma g f r sat mk d a b c) :=
  of_fields rfl ((decodeFields_A 0x03 (by decide) rfl).trans (decVFma_enc _ g f r sat mk d a b c _)) rfl

theorem Laws.RoundTrip.vfms (g : Guard) (f : Fmt) (r : Rnd) (sat : Bool) (mk : KReg) (d a b c : VReg) :
    Statement (.vfms g f r sat mk d a b c) :=
  of_fields rfl ((decodeFields_A 0x04 (by decide) rfl).trans (decVFma_enc _ g f r sat mk d a b c _)) rfl

theorem Laws.RoundTrip.vmin (g : Guard) (f : Fmt) (mk : KReg) (d a : VReg) (b : VOpnd) :
    Statement (.vmin g f mk d a b) :=
  of_fields rfl ((decodeFields_A 0x05 (by decide) (setV_opc _ _)).trans (decVB0_enc _ g f mk d a b _)) rfl

theorem Laws.RoundTrip.vmax (g : Guard) (f : Fmt) (mk : KReg) (d a : VReg) (b : VOpnd) :
    Statement (.vmax g f mk d a b) :=
  of_fields rfl ((decodeFields_A 0x06 (by decide) (setV_opc _ _)).trans (decVB0_enc _ g f mk d a b _)) rfl

theorem Laws.RoundTrip.vabs (g : Guard) (f : Fmt) (sat : Bool) (mk : KReg) (d a : VReg) :
    Statement (.vabs g f sat mk d a) :=
  of_fields rfl ((decodeFields_A 0x07 (by decide) rfl).trans (decVU0_enc _ g f sat mk d a _)) rfl

theorem Laws.RoundTrip.vneg (g : Guard) (f : Fmt) (sat : Bool) (mk : KReg) (d a : VReg) :
    Statement (.vneg g f sat mk d a) :=
  of_fields rfl ((decodeFields_A 0x08 (by decide) rfl).trans (decVU0_enc _ g f sat mk d a _)) rfl

theorem Laws.RoundTrip.vdiv (g : Guard) (f : Fmt) (r : Rnd) (sat : Bool) (mk : KReg) (d a : VReg) (b : VOpnd) :
    Statement (.vdiv g f r sat mk d a b) :=
  of_fields rfl ((decodeFields_A 0x09 (by decide) (setV_opc _ _)).trans (decVB_enc _ g f r sat mk d a b _)) rfl

theorem Laws.RoundTrip.vsqrt (g : Guard) (f : Fmt) (r : Rnd) (sat : Bool) (mk : KReg) (d a : VReg) :
    Statement (.vsqrt g f r sat mk d a) :=
  of_fields rfl ((decodeFields_A 0x0A (by decide) rfl).trans (decVU_enc _ g f r sat mk d a _)) rfl

theorem Laws.RoundTrip.vrcp (g : Guard) (f : Fmt) (r : Rnd) (sat : Bool) (mk : KReg) (d a : VReg) :
    Statement (.vrcp g f r sat mk d a) :=
  of_fields rfl ((decodeFields_A 0x0B (by decide) rfl).trans (decVU_enc _ g f r sat mk d a _)) rfl

theorem Laws.RoundTrip.vrsq (g : Guard) (f : Fmt) (r : Rnd) (sat : Bool) (mk : KReg) (d a : VReg) :
    Statement (.vrsq g f r sat mk d a) :=
  of_fields rfl ((decodeFields_A 0x0C (by decide) rfl).trans (decVU_enc _ g f r sat mk d a _)) rfl

theorem Laws.RoundTrip.vexp2 (g : Guard) (f : Fmt) (r : Rnd) (sat : Bool) (mk : KReg) (d a : VReg) :
    Statement (.vexp2 g f r sat mk d a) :=
  of_fields rfl ((decodeFields_A 0x0D (by decide) rfl).trans (decVU_enc _ g f r sat mk d a _)) rfl

theorem Laws.RoundTrip.vlog2 (g : Guard) (f : Fmt) (r : Rnd) (sat : Bool) (mk : KReg) (d a : VReg) :
    Statement (.vlog2 g f r sat mk d a) :=
  of_fields rfl ((decodeFields_A 0x0E (by decide) rfl).trans (decVU_enc _ g f r sat mk d a _)) rfl

theorem Laws.RoundTrip.vdot (g : Guard) (f : Fmt) (r : Rnd) (sat : Bool) (mk : KReg) (d a b : VReg) :
    Statement (.vdot g f r sat mk d a b) := by
  have hm := (mod_v f r sat mk).1
  refine of_fields rfl ((decodeFields_A 0x0F (by decide) rfl).trans ?_) rfl
  simp only [decClassA]
  refine ((decV_plain (g := g) (f := f) (r := r) (s := sat) (k := mk) (d := d) (a := a) _ rfl rfl rfl rfl rfl).trans ?_)
  simp only [hm.1, noHint, modOnly, modF, modB, iForm, dZero, aZero, bZero, cZero, immZero, Fields.guard, setM,
      base, baseH, encV, encMem, beq_self_eq_true, need_true, opt_some, xOf_xCode, vOf_vCode, pOf_pCode, kOf_kCode,
      sOf_sCode, srcOf_code, dstOf_code, imm48_join, bind, Except.bind, pure, Except.pure, Except.map,
      -BitVec.reduceNot]

theorem Laws.RoundTrip.vcmp (g : Guard) (f : Fmt) (cc : FCond) (mk : KReg) (kd : KReg) (a : VReg) (b : VOpnd) :
    Statement (.vcmp g f cc mk kd a b) := by
  obtain ⟨hm, h1, h2, h3⟩ := mod_vcmp f cc mk
  have hi := iOfV_cases b
  have hB : Blank { base 0xA10 g (f.code + 16 * cc.code + 256 * mk.val) with d := kCode kd, a := vCode a } :=
    ⟨rfl, rfl, rfl, hm.2⟩
  refine of_fields rfl ((decodeFields_A 0x10 (by decide) (setV_opc _ _)).trans ?_) rfl
  simp only [decClassA, vopnd_setV hB]
  simp only [setV_mod, setV_d, setV_a, setV_hint, setV_gn, setV_gp, mask_or_i hi (by decide) hm.1, fld_or_i hi (show
      0 + 4 ≤ 11 by decide), fld_or_i hi (show 4 + 3 ≤ 11 by decide), fld_or_i hi (show 8 + 3 ≤ 11 by decide), h1,
      h2, h3, Fmt.ofCode_code, FCond.ofCode_code, noHint, modOnly, modF, modB, iForm, dZero, aZero, bZero, cZero,
      immZero, Fields.guard, setM, base, baseH, encV, encMem, beq_self_eq_true, need_true, opt_some, xOf_xCode,
      vOf_vCode, pOf_pCode, kOf_kCode, sOf_sCode, srcOf_code, dstOf_code, imm48_join, bind, Except.bind, pure,
      Except.pure, Except.map, -BitVec.reduceNot]

theorem Laws.RoundTrip.vand (g : Guard) (f : Fmt) (mk : KReg) (d a : VReg) (b : VOpnd) :
    Statement (.vand g f mk d a b) :=
  of_fields rfl ((decodeFields_A 0x11 (by decide) (setV_opc _ _)).trans (decVB0_enc _ g f mk d a b _)) rfl

theorem Laws.RoundTrip.vor (g : Guard) (f : Fmt) (mk : KReg) (d a : VReg) (b : VOpnd) :
    Statement (.vor g f mk d a b) :=
  of_fields rfl ((decodeFields_A 0x12 (by decide) (setV_opc _ _)).trans (decVB0_enc _ g f mk d a b _)) rfl

theorem Laws.RoundTrip.vxor (g : Guard) (f : Fmt) (mk : KReg) (d a : VReg) (b : VOpnd) :
    Statement (.vxor g f mk d a b) :=
  of_fields rfl ((decodeFields_A 0x13 (by decide) (setV_opc _ _)).trans (decVB0_enc _ g f mk d a b _)) rfl

theorem Laws.RoundTrip.vshl (g : Guard) (f : Fmt) (mk : KReg) (d a : VReg) (b : VOpnd) :
    Statement (.vshl g f mk d a b) :=
  of_fields rfl ((decodeFields_A 0x14 (by decide) (setV_opc _ _)).trans (decVB0_enc _ g f mk d a b _)) rfl

theorem Laws.RoundTrip.vshr (g : Guard) (f : Fmt) (mk : KReg) (d a : VReg) (b : VOpnd) :
    Statement (.vshr g f mk d a b) :=
  of_fields rfl ((decodeFields_A 0x15 (by decide) (setV_opc _ _)).trans (decVB0_enc _ g f mk d a b _)) rfl

theorem Laws.RoundTrip.vsar (g : Guard) (f : Fmt) (mk : KReg) (d a : VReg) (b : VOpnd) :
    Statement (.vsar g f mk d a b) :=
  of_fields rfl ((decodeFields_A 0x16 (by decide) (setV_opc _ _)).trans (decVB0_enc _ g f mk d a b _)) rfl

theorem Laws.RoundTrip.vmov (g : Guard) (f : VMovForm) :
    Statement (.vmov g f) := by
  cases f with
  | vv f mk d a =>
    obtain ⟨-, h1, -, -, h4⟩ := mod_v f .rne false mk
    have hm := (mod_v_plain f mk).1
    refine of_fields rfl ((decodeFields_B 0x00 (by decide) rfl).trans ?_) rfl
    simp only [decClassB, decVMov]
    simp only [hm.1, h1, h4, Fmt.ofCode_code, noHint, modOnly, modF, modB, iForm, dZero, aZero, bZero, cZero,
        immZero, Fields.guard, setM, base, baseH, encV, encMem, beq_self_eq_true, need_true, opt_some, xOf_xCode,
        vOf_vCode, pOf_pCode, kOf_kCode, sOf_sCode, srcOf_code, dstOf_code, imm48_join, bind, Except.bind, pure,
        Except.pure, Except.map, -BitVec.reduceNot]
  | kx kd a =>
    refine of_fields rfl ((decodeFields_B 0x00 (by decide) rfl).trans ?_) rfl
    simp only [decClassB, decVMov]
    simp only [mod_zero.1, vOf_kCode, vOf_xCode, kOf_xCode, noHint, modOnly, modF, modB, iForm, dZero, aZero, bZero,
        cZero, immZero, Fields.guard, setM, base, baseH, encV, encMem, beq_self_eq_true, need_true, opt_some,
        xOf_xCode, vOf_vCode, pOf_pCode, kOf_kCode, sOf_sCode, srcOf_code, dstOf_code, imm48_join, bind,
        Except.bind, pure, Except.pure, Except.map, -BitVec.reduceNot]
  | xk d ka =>
    refine of_fields rfl ((decodeFields_B 0x00 (by decide) rfl).trans ?_) rfl
    simp only [decClassB, decVMov]
    simp only [mod_zero.1, vOf_kCode, vOf_xCode, kOf_xCode, noHint, modOnly, modF, modB, iForm, dZero, aZero, bZero,
        cZero, immZero, Fields.guard, setM, base, baseH, encV, encMem, beq_self_eq_true, need_true, opt_some,
        xOf_xCode, vOf_vCode, pOf_pCode, kOf_kCode, sOf_sCode, srcOf_code, dstOf_code, imm48_join, bind,
        Except.bind, pure, Except.pure, Except.map, -BitVec.reduceNot]
  | kk kd ka =>
    refine of_fields rfl ((decodeFields_B 0x00 (by decide) rfl).trans ?_) rfl
    simp only [decClassB, decVMov]
    simp only [mod_zero.1, vOf_kCode, vOf_xCode, kOf_xCode, noHint, modOnly, modF, modB, iForm, dZero, aZero, bZero,
        cZero, immZero, Fields.guard, setM, base, baseH, encV, encMem, beq_self_eq_true, need_true, opt_some,
        xOf_xCode, vOf_vCode, pOf_pCode, kOf_kCode, sOf_sCode, srcOf_code, dstOf_code, imm48_join, bind,
        Except.bind, pure, Except.pure, Except.map, -BitVec.reduceNot]

theorem Laws.RoundTrip.vbcast (g : Guard) (f : Fmt) (mk : KReg) (d : VReg) (a : Option VReg) (b : XOpnd) :
    Statement (.vbcast g f mk d a b) := by
  obtain ⟨hm, h1, h2⟩ := mod_bcast f mk
  have hi := iOfX_cases b
  have hz : ((0 : BitVec 8) == 0) = true := rfl
  cases a with
  | none =>
    have hB : Blank { base 0xB01 g (f.code + 256 * mk.val) with d := vCode d, a := 0 } := ⟨rfl, rfl, rfl, hm.2⟩
    refine of_fields rfl ((decodeFields_B 0x01 (by decide) (setX_opc _ _)).trans ?_) rfl
    simp only [decClassB, xopnd_setX hB]
    simp only [setX_mod, setX_d, setX_a, setX_hint, setX_gn, setX_gp, mask_or_i hi (by decide) hm.1, fld_or_i hi
        (show 0 + 4 ≤ 11 by decide), fld_or_i hi (show 8 + 3 ≤ 11 by decide), h1, h2, Fmt.ofCode_code, hz, if_true,
        noHint, modOnly, modF, modB, iForm, dZero, aZero, bZero, cZero, immZero, Fields.guard, setM, base, baseH,
        encV, encMem, beq_self_eq_true, need_true, opt_some, xOf_xCode, vOf_vCode, pOf_pCode, kOf_kCode, sOf_sCode,
        srcOf_code, dstOf_code, imm48_join, bind, Except.bind, pure, Except.pure, Except.map, -BitVec.reduceNot]
  | some r =>
    have hB : Blank { base 0xB01 g (f.code + 256 * mk.val) with d := vCode d, a := vCode r } := ⟨rfl, rfl, rfl, hm.2⟩
    refine of_fields rfl ((decodeFields_B 0x01 (by decide) (setX_opc _ _)).trans ?_) rfl
    simp only [decClassB, xopnd_setX hB]
    simp only [setX_mod, setX_d, setX_a, setX_hint, setX_gn, setX_gp, mask_or_i hi (by decide) hm.1, fld_or_i hi
        (show 0 + 4 ≤ 11 by decide), fld_or_i hi (show 8 + 3 ≤ 11 by decide), h1, h2, Fmt.ofCode_code,
        vCode_ne_zero, Bool.false_eq_true, if_false, noHint, modOnly, modF, modB, iForm, dZero, aZero, bZero, cZero,
        immZero, Fields.guard, setM, base, baseH, encV, encMem, beq_self_eq_true, need_true, opt_some, xOf_xCode,
        vOf_vCode, pOf_pCode, kOf_kCode, sOf_sCode, srcOf_code, dstOf_code, imm48_join, bind, Except.bind, pure,
        Except.pure, Except.map, -BitVec.reduceNot]

theorem Laws.RoundTrip.vperm (g : Guard) (f : Fmt) (mk : KReg) (d a b : VReg) :
    Statement (.vperm g f mk d a b) :=
  of_fields rfl ((decodeFields_B 0x02 (by decide) rfl).trans (decVPerm_enc _ g f mk d a b _)) rfl

theorem Laws.RoundTrip.vsel (g : Guard) (f : Fmt) (mk : KReg) (d a b : VReg) :
    Statement (.vsel g f mk d a b) :=
  of_fields rfl ((decodeFields_B 0x03 (by decide) rfl).trans (decVPerm_enc _ g f mk d a b _)) rfl

theorem Laws.RoundTrip.vred (g : Guard) (f : Fmt) (op : RedOp) (r : Rnd) (mk : KReg) (d : XReg) (a : VReg) :
    Statement (.vred g f op r mk d a) := by
  obtain ⟨hm, h1, h2, h3⟩ := mod_vred f r mk
  refine of_fields rfl ((decodeFields_B 0x04 (by decide) rfl).trans ?_) rfl
  simp only [decClassB]
  simp only [hm.1, h1, h2, h3, Fmt.ofCode_code, Rnd.ofCode_code, RedOp.ofCode_imm, noHint, modOnly, modF, modB,
      iForm, dZero, aZero, bZero, cZero, immZero, Fields.guard, setM, base, baseH, encV, encMem, beq_self_eq_true,
      need_true, opt_some, xOf_xCode, vOf_vCode, pOf_pCode, kOf_kCode, sOf_sCode, srcOf_code, dstOf_code,
      imm48_join, bind, Except.bind, pure, Except.pure, Except.map, -BitVec.reduceNot]

theorem Laws.RoundTrip.vscan (g : Guard) (f : Fmt) (op : RedOp) (r : Rnd) (sat : Bool) (mk : KReg) (d a : VReg) :
    Statement (.vscan g f op r sat mk d a) := by
  have hm := (mod_v f r sat mk).1
  refine of_fields rfl ((decodeFields_B 0x05 (by decide) rfl).trans ?_) rfl
  simp only [decClassB]
  refine ((decV_plain (g := g) (f := f) (r := r) (s := sat) (k := mk) (d := d) (a := a) _ rfl rfl rfl rfl rfl).trans ?_)
  simp only [hm.1, RedOp.ofCode_imm, noHint, modOnly, modF, modB, iForm, dZero, aZero, bZero, cZero, immZero,
      Fields.guard, setM, base, baseH, encV, encMem, beq_self_eq_true, need_true, opt_some, xOf_xCode, vOf_vCode,
      pOf_pCode, kOf_kCode, sOf_sCode, srcOf_code, dstOf_code, imm48_join, bind, Except.bind, pure, Except.pure,
      Except.map, -BitVec.reduceNot]

theorem Laws.RoundTrip.vcvt (g : Guard) (t s : Fmt) (r : Rnd) (sat : Bool) (part : Fin 4) (mk : KReg) (d a : VReg) :
    Statement (.vcvt g t s r sat part mk d a) := by
  have hm := (mod_v t r sat mk).1
  obtain ⟨h1, h2, h3⟩ := imm_vcvt s part
  refine of_fields rfl ((decodeFields_B 0x06 (by decide) rfl).trans ?_) rfl
  simp only [decClassB]
  refine ((decV_plain (g := g) (f := t) (r := r) (s := sat) (k := mk) (d := d) (a := a) _ rfl rfl rfl rfl rfl).trans ?_)
  simp only [hm.1, h1, h2, h3, decide_true, Fmt.ofCode_code, noHint, modOnly, modF, modB, iForm, dZero, aZero,
      bZero, cZero, immZero, Fields.guard, setM, base, baseH, encV, encMem, beq_self_eq_true, need_true, opt_some,
      xOf_xCode, vOf_vCode, pOf_pCode, kOf_kCode, sOf_sCode, srcOf_code, dstOf_code, imm48_join, bind, Except.bind,
      pure, Except.pure, Except.map, -BitVec.reduceNot]

theorem Laws.RoundTrip.vpack (g : Guard) (s : Fmt) (r : Rnd) (ty : NType) (part : Fin 4) (d a : VReg) (b : Option VReg) (c : XReg) :
    Statement (.vpack g s r ty part d a b c) := by
  obtain ⟨hm, h1, h2⟩ := mod_vpack s r
  obtain ⟨h3, h4, h5⟩ := imm_vpack ty part
  have hz : ((0 : BitVec 8) == 0) = true := rfl
  cases b with
  | none =>
    refine of_fields rfl ((decodeFields_B 0x07 (by decide) rfl).trans ?_) rfl
    simp only [decClassB]
    simp only [hm.1, h1, h2, h3, h4, h5, decide_true, Fmt.ofCode_code, Rnd.ofCode_code, NType.ofCode_code, hz,
        if_true, noHint, modOnly, modF, modB, iForm, dZero, aZero, bZero, cZero, immZero, Fields.guard, setM, base,
        baseH, encV, encMem, beq_self_eq_true, need_true, opt_some, xOf_xCode, vOf_vCode, pOf_pCode, kOf_kCode,
        sOf_sCode, srcOf_code, dstOf_code, imm48_join, bind, Except.bind, pure, Except.pure, Except.map,
        -BitVec.reduceNot]
  | some v =>
    refine of_fields rfl ((decodeFields_B 0x07 (by decide) rfl).trans ?_) rfl
    simp only [decClassB]
    simp only [hm.1, h1, h2, h3, h4, h5, decide_true, Fmt.ofCode_code, Rnd.ofCode_code, NType.ofCode_code,
        vCode_ne_zero, Bool.false_eq_true, if_false, noHint, modOnly, modF, modB, iForm, dZero, aZero, bZero, cZero,
        immZero, Fields.guard, setM, base, baseH, encV, encMem, beq_self_eq_true, need_true, opt_some, xOf_xCode,
        vOf_vCode, pOf_pCode, kOf_kCode, sOf_sCode, srcOf_code, dstOf_code, imm48_join, bind, Except.bind, pure,
        Except.pure, Except.map, -BitVec.reduceNot]

theorem Laws.RoundTrip.vunpk (g : Guard) (t : Fmt) (r : Rnd) (sat : Bool) (part : Fin 4) (hi : Bool) (mk : KReg) (d a : VReg) (b : XReg) :
    Statement (.vunpk g t r sat part hi mk d a b) := by
  have hm := (mod_v t r sat mk).1
  obtain ⟨h1, h2, h3⟩ := imm_vunpk hi part
  refine of_fields rfl ((decodeFields_B 0x08 (by decide) rfl).trans ?_) rfl
  simp only [decClassB]
  refine ((decV_plain (g := g) (f := t) (r := r) (s := sat) (k := mk) (d := d) (a := a) _ rfl rfl rfl rfl rfl).trans ?_)
  simp only [hm.1, h1, h2, h3, decide_true, noHint, modOnly, modF, modB, iForm, dZero, aZero, bZero, cZero, immZero,
      Fields.guard, setM, base, baseH, encV, encMem, beq_self_eq_true, need_true, opt_some, xOf_xCode, vOf_vCode,
      pOf_pCode, kOf_kCode, sOf_sCode, srcOf_code, dstOf_code, imm48_join, bind, Except.bind, pure, Except.pure,
      Except.map, -BitVec.reduceNot]

theorem Laws.RoundTrip.vextr (g : Guard) (f : Fmt) (d : XReg) (a : VReg) (b : XOpnd) :
    Statement (.vextr g f d a b) := by
  obtain ⟨hm, -, h1⟩ := mod_fmt f
  have hi := iOfX_cases b
  have hB : Blank { base 0xB09 g f.code with d := xCode d, a := vCode a } := ⟨rfl, rfl, rfl, hm.2⟩
  refine of_fields rfl ((decodeFields_B 0x09 (by decide) (setX_opc _ _)).trans ?_) rfl
  simp only [decClassB, xopnd_setX hB]
  simp only [setX_mod, setX_d, setX_a, setX_hint, setX_gn, setX_gp, mask_or_i hi (by decide) hm.1, fld_or_i hi (show
      0 + 4 ≤ 11 by decide), h1, Fmt.ofCode_code, noHint, modOnly, modF, modB, iForm, dZero, aZero, bZero, cZero,
      immZero, Fields.guard, setM, base, baseH, encV, encMem, beq_self_eq_true, need_true, opt_some, xOf_xCode,
      vOf_vCode, pOf_pCode, kOf_kCode, sOf_sCode, srcOf_code, dstOf_code, imm48_join, bind, Except.bind, pure,
      Except.pure, Except.map, -BitVec.reduceNot]

theorem Laws.RoundTrip.vins (g : Guard) (f : Fmt) (d : VReg) (a : XReg) (b : XOpnd) :
    Statement (.vins g f d a b) := by
  obtain ⟨hm, -, h1⟩ := mod_fmt f
  have hi := iOfX_cases b
  have hB : Blank { base 0xB0A g f.code with d := vCode d, a := xCode a } := ⟨rfl, rfl, rfl, hm.2⟩
  refine of_fields rfl ((decodeFields_B 0x0A (by decide) (setX_opc _ _)).trans ?_) rfl
  simp only [decClassB, xopnd_setX hB]
  simp only [setX_mod, setX_d, setX_a, setX_hint, setX_gn, setX_gp, mask_or_i hi (by decide) hm.1, fld_or_i hi (show
      0 + 4 ≤ 11 by decide), h1, Fmt.ofCode_code, noHint, modOnly, modF, modB, iForm, dZero, aZero, bZero, cZero,
      immZero, Fields.guard, setM, base, baseH, encV, encMem, beq_self_eq_true, need_true, opt_some, xOf_xCode,
      vOf_vCode, pOf_pCode, kOf_kCode, sOf_sCode, srcOf_code, dstOf_code, imm48_join, bind, Except.bind, pure,
      Except.pure, Except.map, -BitVec.reduceNot]

theorem Laws.RoundTrip.vcomp (g : Guard) (f : Fmt) (mk : KReg) (d a : VReg) :
    Statement (.vcomp g f mk d a) := by
  have hm := (mod_v_plain f mk).1
  refine of_fields rfl ((decodeFields_B 0x0B (by decide) rfl).trans ?_) rfl
  simp only [decClassB]
  refine ((decV_plain (g := g) (f := f) (r := .rne) (s := false) (k := mk) (d := d) (a := a) _ rfl rfl rfl rfl rfl).trans ?_)
  simp only [hm.1, noHint, modOnly, modF, modB, iForm, dZero, aZero, bZero, cZero, immZero, Fields.guard, setM,
      base, baseH, encV, encMem, beq_self_eq_true, need_true, opt_some, xOf_xCode, vOf_vCode, pOf_pCode, kOf_kCode,
      sOf_sCode, srcOf_code, dstOf_code, imm48_join, bind, Except.bind, pure, Except.pure, Except.map,
      -BitVec.reduceNot]

theorem Laws.RoundTrip.vprune (g : Guard) (f : Fmt) (n : Fin 3) (d a : VReg) (c : XReg) :
    Statement (.vprune g f n d a c) := by
  obtain ⟨-, hm, h1⟩ := mod_fmt f
  obtain ⟨h2, h3⟩ := imm_fin3 n
  refine of_fields rfl ((decodeFields_B 0x0C (by decide) rfl).trans ?_) rfl
  simp only [decClassB]
  simp only [hm.1, h1, h2, h3, decide_true, Fmt.ofCode_code, noHint, modOnly, modF, modB, iForm, dZero, aZero,
      bZero, cZero, immZero, Fields.guard, setM, base, baseH, encV, encMem, beq_self_eq_true, need_true, opt_some,
      xOf_xCode, vOf_vCode, pOf_pCode, kOf_kCode, sOf_sCode, srcOf_code, dstOf_code, imm48_join, bind, Except.bind,
      pure, Except.pure, Except.map, -BitVec.reduceNot]

theorem Laws.RoundTrip.mcfg (g : Guard) (b : XOpnd) :
    Statement (.mcfg g b) :=
  of_fields rfl ((decodeFields_C 0x00 (by decide) (setX_opc _ _) rfl).trans (decB_enc _ g b _)) rfl

theorem Laws.RoundTrip.mzero (g : Guard) (int : Bool) (nort : Bool) (b : XOpnd) :
    Statement (.mzero g int nort b) := by
  obtain ⟨hm, h1, h2, h3⟩ := mod_mzero int nort
  have hi := iOfX_cases b
  have hB : Blank (base 0xC01 g ((if int then 5 else 0) + 16 * b2n nort)) := ⟨rfl, rfl, rfl, hm.2⟩
  refine of_fields rfl ((decodeFields_C 0x01 (by decide) (setX_opc _ _) rfl).trans ?_) rfl
  simp only [decClassC, xopnd_setX hB]
  simp only [setX_mod, setX_d, setX_a, setX_hint, setX_gn, setX_gp, mask_or_i hi (by decide) hm.1, fld_or_i hi (show
      0 + 4 ≤ 11 by decide), bit_or_i hi (show 4 ≠ 11 by decide), h1, h2, h3, noHint, modOnly, modF, modB, iForm,
      dZero, aZero, bZero, cZero, immZero, Fields.guard, setM, base, baseH, encV, encMem, beq_self_eq_true,
      need_true, opt_some, xOf_xCode, vOf_vCode, pOf_pCode, kOf_kCode, sOf_sCode, srcOf_code, dstOf_code,
      imm48_join, bind, Except.bind, pure, Except.pure, Except.map, -BitVec.reduceNot]

theorem Laws.RoundTrip.mmul (g : Guard) (d : XReg) (m : MemOp) :
    Statement (.mmul g d m) :=
  of_fields rfl ((decodeFields_C 0x02 (by decide) rfl rfl).trans (decMem_enc _ g d m _)) rfl

theorem Laws.RoundTrip.mmuls (g : Guard) (d : XReg) (m : MemOp) :
    Statement (.mmuls g d m) :=
  of_fields rfl ((decodeFields_C 0x03 (by decide) rfl rfl).trans (decMem_enc _ g d m _)) rfl

theorem Laws.RoundTrip.mloada (g : Guard) (d : XReg) (m : MemOp) :
    Statement (.mloada g d m) :=
  of_fields rfl ((decodeFields_C 0x04 (by decide) rfl rfl).trans (decMem_enc _ g d m _)) rfl

theorem Laws.RoundTrip.mdrain (g : Guard) (d : XReg) (m : MemOp) :
    Statement (.mdrain g d m) :=
  of_fields rfl ((decodeFields_C 0x05 (by decide) rfl rfl).trans (decMem_enc _ g d m _)) rfl

theorem Laws.RoundTrip.mchk (g : Guard) (d : XReg) (b : XOpnd) :
    Statement (.mchk g d b) :=
  of_fields rfl ((decodeFields_C 0x06 (by decide) (setX_opc _ _) rfl).trans
    (decDB_enc _ g 0 0 d b _ (by decide) (by unfold Within; decide))) rfl

theorem Laws.RoundTrip.mloc (g : Guard) (d : XReg) (m : MemOp) (b : XReg) :
    Statement (.mloc g d m b) := by
  have hn : noHint { encMem 0xC07 g .normal 0 (xCode d) m with b := xCode b } = .ok () := rfl
  have ho : memOp { encMem 0xC07 g .normal 0 (xCode d) m with b := xCode b } = .ok m := memOp_of rfl rfl rfl
  refine of_fields rfl ((decodeFields_C 0x07 (by decide) rfl rfl).trans ?_) rfl
  simp only [decClassC, hn, ho]
  simp only [mod_zero.1, noHint, modOnly, modF, modB, iForm, dZero, aZero, bZero, cZero, immZero, Fields.guard,
      setM, base, baseH, encV, encMem, beq_self_eq_true, need_true, opt_some, xOf_xCode, vOf_vCode, pOf_pCode,
      kOf_kCode, sOf_sCode, srcOf_code, dstOf_code, imm48_join, bind, Except.bind, pure, Except.pure, Except.map,
      -BitVec.reduceNot]

theorem Laws.RoundTrip.mcorr (g : Guard) (d : XReg) (b : XOpnd) :
    Statement (.mcorr g d b) :=
  of_fields rfl ((decodeFields_C 0x08 (by decide) (setX_opc _ _) rfl).trans
    (decDB_enc _ g 0 0 d b _ (by decide) (by unfold Within; decide))) rfl

theorem Laws.RoundTrip.mretry (g : Guard) (d : XReg) (b : XOpnd) :
    Statement (.mretry g d b) :=
  of_fields rfl ((decodeFields_C 0x09 (by decide) (setX_opc _ _) rfl).trans
    (decDB_enc _ g 0 0 d b _ (by decide) (by unfold Within; decide))) rfl

theorem Laws.RoundTrip.minj (g : Guard) (a : XReg) :
    Statement (.minj g a) :=
  of_fields rfl ((decodeFields_C 0x0A (by decide) rfl rfl).trans (decA_enc _ g a _)) rfl

theorem Laws.RoundTrip.mstat (g : Guard) (sel : Fin 3) (d : XReg) (b : XOpnd) :
    Statement (.mstat g sel d b) := by
  obtain ⟨hw, h3, hn⟩ := mod_fin3 sel
  have hi := iOfX_cases b
  have hF : Fields.modF (encXB 0xC0B g (sel.val) d b) 0 2 = fld (BitVec.ofNat 12 (sel.val)) 0 2 := by
    simp only [modF, encXB, setX_mod, fld_or_i hi (show 0 + 2 ≤ 11 by decide)]; rfl
  have hs : (0x0B == 0x0B && Fields.modF (encXB 0xC0B g (sel.val) d b) 0 2 == 3) = false := by
    rw [hF]; simpa using h3
  refine of_fields rfl ((decodeFields_C 0x0B (by decide) (setX_opc _ _) hs).trans ?_) rfl
  simp only [decClassC]
  refine (decDB_enc _ g _ 3 d b _ (by decide) hw).trans ?_
  rw [hF, hn]

theorem Laws.RoundTrip.engineAcceptance (e : SRef) :
    Statement (.engineAcceptance e) :=
  of_event rfl rfl

theorem Laws.RoundTrip.loomTurn (yard : Nat) :
    Statement (.loomTurn yard) :=
  of_event rfl rfl

theorem Laws.RoundTrip.loomCommandComplete (yard t : Nat) :
    Statement (.loomCommandComplete yard t) :=
  of_event rfl rfl

theorem Laws.RoundTrip.ccopy (g : Guard) (h : Hint) (c stripe m : Bool) (d : XReg) (mm : MemOp) :
    Statement (.ccopy g h c stripe m d mm) := by
  obtain ⟨hw, h1, h2, h3⟩ := mod_carter c stripe m
  refine of_fields rfl ((decodeFields_D 0x00 (by decide) rfl).trans ?_) rfl
  simp only [decClassD]
  refine (decMemX_enc _ g h _ _ d mm _ hw).trans ?_
  simp only [h1, h2, h3, noHint, modOnly, modF, modB, iForm, dZero, aZero, bZero, cZero, immZero, Fields.guard,
      setM, base, baseH, encV, encMem, beq_self_eq_true, need_true, opt_some, xOf_xCode, vOf_vCode, pOf_pCode,
      kOf_kCode, sOf_sCode, srcOf_code, dstOf_code, imm48_join, bind, Except.bind, pure, Except.pure, Except.map,
      -BitVec.reduceNot]

theorem Laws.RoundTrip.cfill (g : Guard) (h : Hint) (c : Bool) (d : XReg) (mm : MemOp) :
    Statement (.cfill g h c d mm) := by
  obtain ⟨-, hw, h1⟩ := mod_bit c
  refine of_fields rfl ((decodeFields_D 0x01 (by decide) rfl).trans ?_) rfl
  simp only [decClassD]
  refine (decMemX_enc _ g h _ _ d mm _ hw).trans ?_
  simp only [h1, noHint, modOnly, modF, modB, iForm, dZero, aZero, bZero, cZero, immZero, Fields.guard, setM, base,
      baseH, encV, encMem, beq_self_eq_true, need_true, opt_some, xOf_xCode, vOf_vCode, pOf_pCode, kOf_kCode,
      sOf_sCode, srcOf_code, dstOf_code, imm48_join, bind, Except.bind, pure, Except.pure, Except.map,
      -BitVec.reduceNot]

theorem Laws.RoundTrip.cconv (g : Guard) (h : Hint) (c stripe m : Bool) (d : XReg) (mm : MemOp) :
    Statement (.cconv g h c stripe m d mm) := by
  obtain ⟨hw, h1, h2, h3⟩ := mod_carter c stripe m
  refine of_fields rfl ((decodeFields_D 0x02 (by decide) rfl).trans ?_) rfl
  simp only [decClassD]
  refine (decMemX_enc _ g h _ _ d mm _ hw).trans ?_
  simp only [h1, h2, h3, noHint, modOnly, modF, modB, iForm, dZero, aZero, bZero, cZero, immZero, Fields.guard,
      setM, base, baseH, encV, encMem, beq_self_eq_true, need_true, opt_some, xOf_xCode, vOf_vCode, pOf_pCode,
      kOf_kCode, sOf_sCode, srcOf_code, dstOf_code, imm48_join, bind, Except.bind, pure, Except.pure, Except.map,
      -BitVec.reduceNot]

theorem Laws.RoundTrip.cgath (g : Guard) (h : Hint) (c m : Bool) (d : XReg) (mm : MemOp) :
    Statement (.cgath g h c m d mm) := by
  obtain ⟨hw, h1, h2⟩ := mod_cgath c m
  refine of_fields rfl ((decodeFields_D 0x03 (by decide) rfl).trans ?_) rfl
  simp only [decClassD]
  refine (decMemX_enc _ g h _ _ d mm _ hw).trans ?_
  simp only [h1, h2, noHint, modOnly, modF, modB, iForm, dZero, aZero, bZero, cZero, immZero, Fields.guard, setM,
      base, baseH, encV, encMem, beq_self_eq_true, need_true, opt_some, xOf_xCode, vOf_vCode, pOf_pCode, kOf_kCode,
      sOf_sCode, srcOf_code, dstOf_code, imm48_join, bind, Except.bind, pure, Except.pure, Except.map,
      -BitVec.reduceNot]

theorem Laws.RoundTrip.cstat (g : Guard) (h : Hint) (c : Bool) (d : XReg) :
    Statement (.cstat g h c d) := by
  obtain ⟨-, hm, h1⟩ := mod_bit c
  have hh : hintOf { baseH 0xD04 g h (b2n c) with d := xCode d } = .ok h := hintOf_code rfl
  refine of_fields rfl ((decodeFields_D 0x04 (by decide) rfl).trans ?_) rfl
  simp only [decClassD, hh]
  simp only [hm.1, h1, noHint, modOnly, modF, modB, iForm, dZero, aZero, bZero, cZero, immZero, Fields.guard, setM,
      base, baseH, encV, encMem, beq_self_eq_true, need_true, opt_some, xOf_xCode, vOf_vCode, pOf_pCode, kOf_kCode,
      sOf_sCode, srcOf_code, dstOf_code, imm48_join, bind, Except.bind, pure, Except.pure, Except.map,
      -BitVec.reduceNot]

theorem Laws.RoundTrip.carterChunk (n : Nat) :
    Statement (.carterChunk n) :=
  of_event rfl rfl

theorem Laws.RoundTrip.carterCommandComplete (n : Nat) :
    Statement (.carterCommandComplete n) :=
  of_event rfl rfl

theorem Laws.RoundTrip.wmap (g : Guard) (rx : Bool) (d : XReg) (m : MemOp) (b : XReg) :
    Statement (.wmap g rx d m b) := by
  obtain ⟨-, hm, h1⟩ := mod_bit rx
  have hn : noHint { encMem 0xE06 g .normal (b2n rx) (xCode d) m with b := xCode b } = .ok () := rfl
  have ho : memOp { encMem 0xE06 g .normal (b2n rx) (xCode d) m with b := xCode b } = .ok m := memOp_of rfl rfl rfl
  refine of_fields rfl ((decodeFields_E 0x06 (by decide) rfl).trans ?_) rfl
  simp only [decClassE, hn, ho]
  simp only [hm.1, h1, noHint, modOnly, modF, modB, iForm, dZero, aZero, bZero, cZero, immZero, Fields.guard, setM,
      base, baseH, encV, encMem, beq_self_eq_true, need_true, opt_some, xOf_xCode, vOf_vCode, pOf_pCode, kOf_kCode,
      sOf_sCode, srcOf_code, dstOf_code, imm48_join, bind, Except.bind, pure, Except.pure, Except.map,
      -BitVec.reduceNot]

theorem Laws.RoundTrip.wunmap (g : Guard) (rx : Bool) (b : XOpnd) :
    Statement (.wunmap g rx b) := by
  obtain ⟨hm, -, h1⟩ := mod_bit rx
  have hi := iOfX_cases b
  have hB : Blank (base 0xE07 g (b2n rx)) := ⟨rfl, rfl, rfl, hm.2⟩
  refine of_fields rfl ((decodeFields_E 0x07 (by decide) (setX_opc _ _)).trans ?_) rfl
  simp only [decClassE, xopnd_setX hB]
  simp only [setX_mod, setX_d, setX_a, setX_hint, setX_gn, setX_gp, mask_or_i hi (by decide) hm.1, bit_or_i hi (show
      0 ≠ 11 by decide), h1, noHint, modOnly, modF, modB, iForm, dZero, aZero, bZero, cZero, immZero, Fields.guard,
      setM, base, baseH, encV, encMem, beq_self_eq_true, need_true, opt_some, xOf_xCode, vOf_vCode, pOf_pCode,
      kOf_kCode, sOf_sCode, srcOf_code, dstOf_code, imm48_join, bind, Except.bind, pure, Except.pure, Except.map,
      -BitVec.reduceNot]

theorem Laws.RoundTrip.wstat (g : Guard) (sel : Fin 3) (d : XReg) (b : XOpnd) :
    Statement (.wstat g sel d b) := by
  obtain ⟨hw, h3, hn⟩ := mod_wsel sel
  have hi := iOfX_cases b
  have hF : Fields.modF (encXB 0xE08 g (2 * sel.val) d b) 1 2 = fld (BitVec.ofNat 12 (2 * sel.val)) 1 2 := by
    simp only [modF, encXB, setX_mod, fld_or_i hi (show 1 + 2 ≤ 11 by decide)]; rfl
  have hs : (Fields.modF (encXB 0xE08 g (2 * sel.val) d b) 1 2 != 3) = true := by
    rw [hF]; simpa using h3
  refine of_fields rfl ((decodeFields_E 0x08 (by decide) (setX_opc _ _)).trans ?_) rfl
  simp only [decClassE, hs, need_true, bind, Except.bind]
  refine (decDB_enc _ g _ 6 d b _ (by decide) hw).trans ?_
  rw [hF, hn]

theorem Laws.RoundTrip.rfence (g : Guard) (d : XReg) (w : Option XOpnd) :
    Statement (.rfence g d w) := by
  cases w with
  | none =>
    have hb : Fields.modB { base 0xE09 g with d := xCode d } 0 = false := by simp only [modB, base]; decide
    refine of_fields rfl ((decodeFields_E 0x09 (by decide) rfl).trans ?_) rfl
    simp only [decClassE, hb, Bool.false_eq_true, if_false]
    exact decD_enc _ g d _
  | some b =>
    have hb : Fields.modB (encXB 0xE09 g 1 d b) 0 = true := by
      simp only [modB, encXB, setX_mod, bit_or_i (iOfX_cases b) (show 0 ≠ 11 by decide), base]; decide
    refine of_fields rfl ((decodeFields_E 0x09 (by decide) (setX_opc _ _)).trans ?_) rfl
    simp only [decClassE, hb, if_true]
    exact decDB_enc _ g 1 1 d b _ (by decide) (by unfold Within; decide)

theorem Laws.RoundTrip.rfenceComplete (e : SRef) :
    Statement (.rfenceComplete e) :=
  of_event rfl rfl

theorem Laws.RoundTrip.ctxsv (g : Guard) (n : Fin 8) (d : XReg) (b : XOpnd) :
    Statement (.ctxsv g n d b) := by
  obtain ⟨hw, -, hn⟩ := mod_fin8 n
  have hi := iOfX_cases b
  have hF : Fields.modF (encXB 0xE0A g (n.val) d b) 0 3 = fld (BitVec.ofNat 12 (n.val)) 0 3 := by
    simp only [modF, encXB, setX_mod, fld_or_i hi (show 0 + 3 ≤ 11 by decide)]; rfl
  refine of_fields rfl ((decodeFields_E 0x0A (by decide) (setX_opc _ _)).trans ?_) rfl
  simp only [decClassE]
  refine (decDB_enc _ g _ 7 d b _ (by decide) hw).trans ?_
  rw [hF, hn]

theorem Laws.RoundTrip.ctxld (g : Guard) (n : Fin 8) (d : XReg) (b : XOpnd) :
    Statement (.ctxld g n d b) := by
  obtain ⟨hw, -, hn⟩ := mod_fin8 n
  have hi := iOfX_cases b
  have hF : Fields.modF (encXB 0xE0B g (n.val) d b) 0 3 = fld (BitVec.ofNat 12 (n.val)) 0 3 := by
    simp only [modF, encXB, setX_mod, fld_or_i hi (show 0 + 3 ≤ 11 by decide)]; rfl
  refine of_fields rfl ((decodeFields_E 0x0B (by decide) (setX_opc _ _)).trans ?_) rfl
  simp only [decClassE]
  refine (decDB_enc _ g _ 7 d b _ (by decide) hw).trans ?_
  rw [hF, hn]

theorem Laws.RoundTrip.quantumExpiry (e : SRef) :
    Statement (.quantumExpiry e) :=
  of_event rfl rfl

theorem Laws.RoundTrip.pagerReissue (e : SRef) :
    Statement (.pagerReissue e) :=
  of_event rfl rfl

theorem Laws.RoundTrip.pagerDeliver (e : SRef) (c : Cause) :
    Statement (.pagerDeliver e c) :=
  of_event rfl rfl

theorem Laws.RoundTrip.pagerResume (e : Engine) :
    Statement (.pagerResume e) :=
  of_event rfl rfl

theorem Laws.RoundTrip.pagerAbort (e : Engine) :
    Statement (.pagerAbort e) :=
  of_event rfl rfl

theorem Laws.RoundTrip.faultRecordSend (die : Nat) :
    Statement (.faultRecordSend die) :=
  of_event rfl rfl

theorem Laws.RoundTrip.tlbInvalidate (die : Nat) :
    Statement (.tlbInvalidate die) :=
  of_event rfl rfl

theorem Laws.RoundTrip.deadlockSample (job booth : Nat) :
    Statement (.deadlockSample job booth) :=
  of_event rfl rfl

theorem Laws.RoundTrip.watchdogExpiry (job booth : Nat) :
    Statement (.watchdogExpiry job booth) :=
  of_event rfl rfl

theorem Laws.RoundTrip.reflectedWriteArrival (w : RWrite) :
    Statement (.reflectedWriteArrival w) :=
  of_event rfl rfl

theorem Laws.RoundTrip.reflectionAck (p : PathId) (epoch seq : Nat) (a : RAnswer) (rtt : Option Nat) :
    Statement (.reflectionAck p epoch seq a rtt) :=
  of_event rfl rfl

theorem Laws.RoundTrip.retransmitRequest (p : PathId) (expected : Nat) :
    Statement (.retransmitRequest p expected) :=
  of_event rfl rfl

theorem Laws.RoundTrip.retransmitTimeout (p : PathId) :
    Statement (.retransmitTimeout p) :=
  of_event rfl rfl

theorem Laws.RoundTrip.spaheLinkDown (link : Nat) (paths : List PathId) :
    Statement (.spaheLinkDown link paths) :=
  of_event rfl rfl

theorem Laws.RoundTrip.pendingWindowValid (w : Nat) (peers : Option (List (Nat × Nat × Nat))) :
    Statement (.pendingWindowValid w peers) :=
  of_event rfl rfl

theorem Laws.RoundTrip.hostLinkUp (port : Nat) :
    Statement (.hostLinkUp port) :=
  of_event rfl rfl

theorem Laws.RoundTrip.hostLinkDown (port : Nat) :
    Statement (.hostLinkDown port) :=
  of_event rfl rfl

theorem Laws.RoundTrip.functionLevelReset (port : Nat) :
    Statement (.functionLevelReset port) :=
  of_event rfl rfl

theorem Laws.RoundTrip.hostAccessTimeout : Statement .hostAccessTimeout :=
  of_event rfl rfl

theorem Laws.RoundTrip.completionHoldTimeout (port m : Nat) :
    Statement (.completionHoldTimeout port m) :=
  of_event rfl rfl

theorem Laws.RoundTrip.hqkick (port q : Nat) (pos : BitVec 32) :
    Statement (.hqkick port q pos) :=
  of_event rfl rfl

theorem Laws.RoundTrip.hostEntryReread (port q : Nat) :
    Statement (.hostEntryReread port q) :=
  of_event rfl rfl

theorem Laws.RoundTrip.hqctlWrite (port q : Nat) (v : Word) :
    Statement (.hqctlWrite port q v) :=
  of_event rfl rfl

theorem Laws.RoundTrip.hcrel (port m : Nat) (v : BitVec 32) :
    Statement (.hcrel port m v) :=
  of_event rfl rfl

theorem Laws.RoundTrip.devctlFwact (port : Nat) :
    Statement (.devctlFwact port) :=
  of_event rfl rfl

theorem Laws.RoundTrip.barRegisterWrite (port : Nat) (off : Nat) (v : Word) :
    Statement (.barRegisterWrite port off v) :=
  of_event rfl rfl

theorem Laws.RoundTrip.startJob (r : HostReq) (gr : Grants) :
    Statement (.startJob r gr) :=
  of_event rfl rfl

theorem Laws.RoundTrip.killJob (r : HostReq) :
    Statement (.killJob r) :=
  of_event rfl rfl

theorem Laws.RoundTrip.urgentFreeze (r : HostReq) :
    Statement (.urgentFreeze r) :=
  of_event rfl rfl

theorem Laws.RoundTrip.resumeJobs (r : HostReq) :
    Statement (.resumeJobs r) :=
  of_event rfl rfl

theorem Laws.RoundTrip.checkpoint (r : HostReq) :
    Statement (.checkpoint r) :=
  of_event rfl rfl

theorem Laws.RoundTrip.grantHostQueue (r : HostReq) :
    Statement (.grantHostQueue r) :=
  of_event rfl rfl

theorem Laws.RoundTrip.readLog (r : HostReq) :
    Statement (.readLog r) :=
  of_event rfl rfl

theorem Laws.RoundTrip.stageFirmware (r : HostReq) :
    Statement (.stageFirmware r) :=
  of_event rfl rfl

theorem Laws.RoundTrip.stageVersion (r : HostReq) (place : Bool) :
    Statement (.stageVersion r place) :=
  of_event rfl rfl

theorem Laws.RoundTrip.readLogCount (r : HostReq) :
    Statement (.readLogCount r) :=
  of_event rfl rfl

theorem Laws.RoundTrip.urgentRun (site : Nat) :
    Statement (.urgentRun site) :=
  of_event rfl rfl

theorem Laws.RoundTrip.boothRecovery (job booth : Nat) :
    Statement (.boothRecovery job booth) :=
  of_event rfl rfl

theorem Laws.RoundTrip.bootEnd (die : Nat) :
    Statement (.bootEnd die) :=
  of_event rfl rfl

theorem Laws.RoundTrip.stewardStart (die : Nat) (load : BootLoad) :
    Statement (.stewardStart die load) :=
  of_event rfl rfl

theorem Laws.RoundTrip.setFrequency (die : Nat) (cmd : BitVec 128) :
    Statement (.setFrequency die cmd) :=
  of_event rfl rfl

theorem Laws.RoundTrip.frequencyPauseEnd (yard : Nat) :
    Statement (.frequencyPauseEnd yard) :=
  of_event rfl rfl

theorem Laws.RoundTrip.powerDown (die : Nat) (cmd : BitVec 128) :
    Statement (.powerDown die cmd) :=
  of_event rfl rfl

theorem Laws.RoundTrip.powerUp (die : Nat) (cmd : BitVec 128) :
    Statement (.powerUp die cmd) :=
  of_event rfl rfl

theorem Laws.RoundTrip.getVersion (port : Nat) :
    Statement (.getVersion port) :=
  of_event rfl rfl

theorem Laws.RoundTrip.getCapabilities (port : Nat) :
    Statement (.getCapabilities port) :=
  of_event rfl rfl

theorem Laws.RoundTrip.negotiateAlgorithms (port : Nat) :
    Statement (.negotiateAlgorithms port) :=
  of_event rfl rfl

theorem Laws.RoundTrip.getDigests (port : Nat) :
    Statement (.getDigests port) :=
  of_event rfl rfl

theorem Laws.RoundTrip.getCertificate (port : Nat) (slot : Nat) (off len : Nat) :
    Statement (.getCertificate port slot off len) :=
  of_event rfl rfl

theorem Laws.RoundTrip.challenge (port : Nat) (nonce : List (BitVec 8)) :
    Statement (.challenge port nonce) :=
  of_event rfl rfl

theorem Laws.RoundTrip.getMeasurements (port : Nat) (index : Nat) (sign : Bool) :
    Statement (.getMeasurements port index sign) :=
  of_event rfl rfl

theorem Laws.RoundTrip.spdmUnsupportedRequest (port : Nat) (code : BitVec 8) :
    Statement (.spdmUnsupportedRequest port code) :=
  of_event rfl rfl

theorem Laws.RoundTrip.deviceReset : Statement .deviceReset :=
  of_event rfl rfl

theorem Laws.RoundTrip.hsemaRead (port : Nat) :
    Statement (.hsemaRead port) :=
  of_event rfl rfl

theorem Laws.RoundTrip.hsemaWrite (port : Nat) (v : Word) :
    Statement (.hsemaWrite port v) :=
  of_event rfl rfl

theorem Laws.RoundTrip.devctlReset (port : Nat) :
    Statement (.devctlReset port) :=
  of_event rfl rfl

theorem Laws.RoundTrip.powerCheck (watts : Nat) :
    Statement (.powerCheck watts) :=
  of_event rfl rfl

theorem Laws.RoundTrip.thermalLimit (die : Nat) :
    Statement (.thermalLimit die) :=
  of_event rfl rfl

theorem Laws.RoundTrip.futureQuarantineEnd (cluster index : Nat) :
    Statement (.futureQuarantineEnd cluster index) :=
  of_event rfl rfl

theorem Laws.RoundTrip.junctionCooled (die : Nat) :
    Statement (.junctionCooled die) :=
  of_event rfl rfl

theorem Laws.RoundTrip.deviceFailure (dev spare : Nat) :
    Statement (.deviceFailure dev spare) :=
  of_event rfl rfl

end Sys2Proof
end

