-- ==== Sys2Proof/Safety.lean ====
section
/-!
DEFINITION. The terms in which the claims of this model speak: the invariant that they may use as a premise, runs, and
what a strand must find for an instruction to execute normally.
-/

namespace Sys2Proof.Safety

open Sys2Proof.Machine

/-- Memory is in its canonical form. -/
def MemInv (s : State) : Prop := Memory.wf s.mem = true

/-- `s'` follows `s` by one step. -/
def Steps (s s' : State) : Prop := step s = .next s'

/-- No step of the run of `n` steps from `s` stops. -/
def RunsFor : Nat → State → Prop
  | 0, _ => True
  | n + 1, s => ∃ s', Steps s s' ∧ RunsFor n s'

/-- R65: the guard of an instruction; an event has none. -/
def guardOf (i : Instr) : Option Guard := (encodeFields i).map Fields.guard

/-- R97, R360: nothing is due at the strand's next boundary: no HALT reached it, and outside a handler no cause is
pending or due. -/
def Quiet (t : Strand) : Prop :=
  t.halting = false ∧ t.timerDue = false ∧ t.wakeDue = false ∧ (t.handler = true ∨ lowestPending t = none)

/-- The change `f` of the executing strand, with the PC at `npc` and the instruction ended. -/
def advanced (npc : Word) (f : Strand → Strand) (s : State) : State :=
  modMe (fun t => { f t with pc := npc, wait := none, flight := none }) s

/-- R61: every input port named holds a DATA entry and every output port accepts one: `v` are the values popped and
`s'` the state after the pops. With no port named it asks nothing and `s'` is `s`. -/
def Ports (s : State) (ins outs : List (Fin 2)) (v : PortVals) (s' : State) : Prop :=
  portFail s ins outs = none ∧ inputStop s ins = none ∧ popPorts ins (0, 0) s = some (v, s', none) ∧
    (outsReady outs .data s).1 = true

/-- R367: is a byte one of the 64 MiB of a die's log? -/
def logKey (s : State) (die k : Nat) : Bool :=
  match (getDie s die).logAt with
  | some b => decide (b ≤ k) && decide (k < b + 2 ^ 26)
  | none => false

/-- Two states differ at most in the context of strand `e`. -/
def SameBut (e : SRef) (s t : State) : Prop :=
  t = { s with strands := t.strands } ∧ ∀ k, k ≠ skey e → getStrand t k = getStrand s k

end Sys2Proof.Safety
end

