-- ==== Sys2Proof/Certificates/Slice0/Obligations.lean ====
section
/-!
DEFINITION. The statements for the provers. Each is a definition `Obligations.<Name>`, and OBLIGATIONS.json lists them.
The definitions before them name the shapes that several statements share.
-/

open Sys2Proof Sys2Proof.Machine Sys2Proof.Safety

/-! ### The machine: reset, encoding, fetch and step -/

/-- After reset strand 0 of every site runs in steward privilege at 0x3_C000 with s0 and s1 of the boot manifest, x1
and x2 as R394 gives (with no site fused, the model's choice, log entry 5), strands 1 to 7 are OFF, local store
outside the boot ROM is zero, every die is in boot mode, and HANDLER, UVEC and TASK of STATUS read 0. -/
def Obligations.ResetLeavesBootState : Prop :=
  (∀ site, site < 4096 →
    (getStrand State.reset (8 * site)).run = .run ∧ (getStrand State.reset (8 * site)).pc = 0x3C000 ∧
    (getStrand State.reset (8 * site)).priv = true ∧
    sGet (getStrand State.reset (8 * site)) 0 = bootSeg0 ∧ sGet (getStrand State.reset (8 * site)) 1 = bootSeg1 ∧
    xGet (getStrand State.reset (8 * site)) 1 = (if site % 1024 = 0 then 1 else 0) ∧
    xGet (getStrand State.reset (8 * site)) 2 = (if site % 1024 = 0 then 1024 else 0) ∧
    (∀ k, 1 ≤ k → k < 8 → (getStrand State.reset (8 * site + k)).run = .off) ∧
    (∀ off, off < 0x3C000 → readByte State.reset (localKey site off) = 0) ∧
    (∀ off, 0x3D000 ≤ off → off < 0x40000 → readByte State.reset (localKey site off) = 0)) ∧
  (∀ die, die < 4 → bootMode State.reset die = true) ∧
  (∀ k, statusWord (getStrand State.reset k) &&& 0xE = 0)

/-- The memory of State.reset is in the canonical form of this model (addresses rising, no entry equal to what an
unlisted byte reads as). -/
def Obligations.ResetMemoryIsCanonical : Prop :=
  MemInv State.reset

/-- For every state whose memory is in canonical form, the state after one step of the device, whichever agent acts,
has its memory in canonical form. -/
def Obligations.StepKeepsMemoryCanonical : Prop :=
  ∀ s t, MemInv s → Steps s t → MemInv t

/-- In a canonical memory, after a list of bytes is written a byte reads as the last value written to it, or as
before where the list does not name it. -/
def Obligations.WriteThenReadByte : Prop :=
  ∀ (l : List (Nat × Byte)) (s : State) (k : Nat), MemInv s →
    readByte (writeBytes l s) k = ((l.reverse.find? fun p => p.1 == k).map (·.2)).getD (readByte s k)

/-- An event has no word. Every well-formed instruction has one, and its 12 bytes, whatever follows them, decode to
exactly that instruction, operand by operand, and leave what follows. -/
def Obligations.DecodeOfEncodeIsIdentity : Prop :=
  ∀ i, Laws.RoundTrip.Statement i

/-- Whatever bytes are decoded, a decoded instruction is well-formed, is no event of the table, and takes exactly
the first 12 bytes. No word of class 0xF, with the guard pair GP = 7 and GN = 1, or with a HINT other than the three
policies is legal, and the operand codes 0x4C to 0xFF name no register of any kind. -/
def Obligations.DecoderAnswersOnlyLegalInstructions : Prop :=
  (∀ bs i rest, decode bs = .ok (i, rest) →
    i.wf = true ∧ i.isEvent = false ∧ 12 ≤ bs.length ∧ rest = bs.drop 12) ∧
  ((∀ f : Fields, f.opc.extractLsb' 8 4 = 0xF → decodeFields f = .error .unassignedOpcode) ∧
  (∀ (f : Fields) i, f.gn = true → f.gp = 7 → decodeFields f = .ok i → i.wf = false) ∧
  (∀ (f : Fields) i, decodeFields f = .ok i → f.hint.toNat < 3) ∧
  (∀ c : BitVec 8, 0x4C ≤ c.toNat → xOf c = .error .operandCode ∧ vOf c = .error .operandCode ∧
    pOf c = .error .operandCode ∧ kOf c = .error .operandCode ∧ sOf c = .error .operandCode ∧
    srcOf c = .error .operandCode ∧ dstOf c = .error .operandCode))

/-- The words that 03_encoding.md, R112, R115 and R116 write out bit by bit decode to the instructions they stand
for. -/
def Obligations.DecoderReadsTheTables : Prop :=
  decodeTableWord 96 0x0000000A_03000000_21E70000 = some (.movi .always (.x 3) 10) ∧
  decodeTableWord 96 0x00000000_00000000_00070000 = some (.nop .always) ∧
  decodeTableWord 96 0xFFFFFFFF_080900FF_21C90803 = some (.sel ⟨true, 1⟩ 3 (.x 8) (.x 9) (.imm (-1))) ∧
  decodeTableWord 96 0xFFFFFFF4_0003FFFF_10570000 = some (.loop .always 3 (-12)) ∧
  decodeTableWord 96 0x00000000_04050607_30370000 = some (.ffma .always .f32 .rne false (.x 4) (.x 5) (.x 6) (.x 7)) ∧
  decodeTableWord 96 0x00000004_02030000_30770012 =
    some (.fcvt .always .f16 .e5 .rze false false (.x 2) (.x 3))

/-- When the cycle of a tile is due, which is not that of a corner that has still to verify the firmware (R389), and its
barrel selects strand k, which does not stand at the loader's trap code (log entry 18), and the 12 bytes at the PC of
that strand lie in local store, hold no poisoned word and decode to i, the step is exec of i for that strand, with
LAST and QUANTUM advanced and the latency set before it, and the end of the tile's cycle after it. -/
def Obligations.StepRunsTheDecodedInstruction : Prop :=
  ∀ (s u : State) (site k : Nat) (i : Instr) (rest : List Byte),
    agenda s = .cycle site u → clocked u site = true → verifies u site = false → select u site = some k →
    atTrapCode ⟨site, k⟩ u = false →
    (let f := modMe countQuantum (modTile site (fun x => { x with last := k }) (asStrand ⟨site, k⟩ u))
     (me f).pc.toNat + 12 ≤ 0x40000 ∧ poisonRead f (fetchKeys f ⟨site, k⟩) = none ∧
     decode (readKeys f (fetchKeys f ⟨site, k⟩)) = .ok (i, rest)) →
    step s =
      (let f := modMe countQuantum (modTile site (fun x => { x with last := k }) (asStrand ⟨site, k⟩ u))
       match exec i (readyIn (1 + latency i) f) with
       | .next t => .next (endCycle site t)
       | .fault x => .fault x
       | .refused q => .refused q)

/-- A fetch that does not lie in local store raises ADDR with the PC as TRAPADDR, one that meets a poisoned word
raises UNCORR with its address, and one whose word the decoder refuses raises ILLEGAL with the PC as TRAPADDR. A user
strand selected at its steward vector in a handler that the user vector did not take runs the loader's trap code there
instead of a fetch, and QUANTUM counts the issues of that code (the model's choice, log entry 18). That QUANTUM counts also
an instruction that raises ILLEGAL is the model's choice (log entry 91). -/
def Obligations.FetchFaultsBeforeDecoding : Prop :=
  ∀ (s u : State) (site k : Nat),
    agenda s = .cycle site u → clocked u site = true → verifies u site = false → select u site = some k →
    (atTrapCode ⟨site, k⟩ u = true →
      step s = .next (endCycle site (trapCode ⟨site, k⟩ (modStrand (8 * site + k) countTrapCode
        (modTile site (fun x => { x with last := k }) u))))) ∧
    (atTrapCode ⟨site, k⟩ u = false →
     let f := modMe countQuantum (modTile site (fun x => { x with last := k }) (asStrand ⟨site, k⟩ u))
     (0x40000 < (me f).pc.toNat + 12 → step s = .next (endCycle site (raise .addr (me f).pc f))) ∧
     ((me f).pc.toNat + 12 ≤ 0x40000 →
       (∀ w, poisonRead f (fetchKeys f ⟨site, k⟩) = some w →
         step s = .next (endCycle site (raise .uncorr (localAbs w) f))) ∧
       (poisonRead f (fetchKeys f ⟨site, k⟩) = none →
         (∀ r, decode (readKeys f (fetchKeys f ⟨site, k⟩)) = .error r →
           step s = .next (endCycle site (raise .illegal (me f).pc f))))))


/-! ### Boundaries, guards, traps -/

/-- The forms that user privilege may not execute (R66, R69): HALT, FORK.ST7, MINJ, WMAP, WUNMAP, SYSWR of TRAPBASE,
ROUTEMASK, SEGTAB or SEMA, and a WAKE that names a reserve strand of the strand's own job. -/
def Sys2Proof.StewardForm (s : State) (i : Instr) : Prop :=
  (∃ g, i = .halt g) ∨ (∃ g d a t, i = .fork g 7 d a t) ∨ (∃ g a, i = .minj g a) ∨
  (∃ g a b e, i = .wake g a b ∧ wakeTarget s (rx s a) = some e ∧ e.k = 7) ∨
  (∃ g rx d m b, i = .wmap g rx d m b) ∨ (∃ g rx b, i = .wunmap g rx b) ∨
  (∃ g r a, i = .syswr g r a ∧ (r = .trapbase ∨ r = .routemask ∨ r = .segtab ∨ r = .sema))

/-- For every guarded instruction where step 3 of R66 raises nothing, in steward privilege or, for a form that user privilege
may execute, in user privilege (and for an awaiting FGET with A = x1, which its entry asks at step 2): if the guard is false
the state after it is the state before with the PC advanced by 12 and the boundary taken; nothing else changes. In user
privilege, HALT, FORK.ST7, MINJ, WMAP, WUNMAP and SYSWR of TRAPBASE, ROUTEMASK, SEGTAB or SEMA, and a WAKE that names a
reserve strand of the strand's own job, take the exception PRIV, whatever the guard holds, with the PC of the instruction in
TRAPPC and TRAPADDR. -/
def Obligations.PrivilegeThenGuard : Prop :=
  (∀ (i : Instr) (g : Guard) (s : State), guardOf i = some g → guardVal g s = false →
    ((me s).priv = true ∨ ¬StewardForm s i) →
    (∀ h t d a b, i = .fget h t d a b → awaits t s = true → a = 1) → exec i s = .next (next s)) ∧
  (∀ (s : State), (me s).priv = false →
    (∀ g, exec (.halt g) s = .next (raise .priv (me s).pc s)) ∧
    (∀ g d a t, exec (.fork g 7 d a t) s = .next (raise .priv (me s).pc s)) ∧
    (∀ g a, exec (.minj g a) s = .next (raise .priv (me s).pc s)) ∧
    (∀ g a b e, wakeTarget s (rx s a) = some e → e.k = 7 → exec (.wake g a b) s = .next (raise .priv (me s).pc s)) ∧
    (∀ g rx d m b, exec (.wmap g rx d m b) s = .next (raise .priv (me s).pc s)) ∧
    (∀ g rx b, exec (.wunmap g rx b) s = .next (raise .priv (me s).pc s)) ∧
    (∀ g r a, r = .trapbase ∨ r = .routemask ∨ r = .segtab ∨ r = .sema →
      exec (.syswr g r a) s = .next (raise .priv (me s).pc s)))

/-- When no HALT reached the strand and, outside a handler, no cause is pending or due, the completion of an
instruction changes nothing but the PC and the record of the instruction in flight. TIMER and WAKE that are due
become pending; in a handler nothing is taken; outside one TIMER, else WAKE, is entered with the next PC in TRAPPC
and 0 in TRAPADDR, at the vector that ROUTEMASK selects, and its PENDING bit is cleared. -/
def Obligations.InstructionBoundary : Prop :=
  (∀ (npc : Word) (s : State), Quiet (me s) → finish npc s = advanced npc id s) ∧
  (∀ (npc : Word) (s : State), (me s).halting = false →
    (let p := (me s).pending ||| (if (me s).timerDue then 0x2000 else 0) ||| (if (me s).wakeDue then 0x4000 else 0)
     let user (c : Nat) := (routeOf s s.cur).getLsbD c && !(me s).reserve
     ((me s).handler = true → finish npc s =
       advanced npc (fun t => { t with pending := p, timerDue := false, wakeDue := false }) s) ∧
     ((me s).handler = false → p.getLsbD 13 = true → finish npc s =
       advanced (if user 13 then (me s).utrapbase else (me s).trapbase) (fun t =>
         { t with pending := p &&& ~~~0x2000, timerDue := false, wakeDue := false, cause := 13,
                  trappc := npc &&& 0x3FFFC, trapaddr := 0, handler := true, uvec := user 13,
                  priv := if user 13 then t.priv else true, readyAt := t.readyAt + 1 }) s) ∧
     ((me s).handler = false → p.getLsbD 13 = false → p.getLsbD 14 = true → finish npc s =
       advanced (if user 14 then (me s).utrapbase else (me s).trapbase) (fun t =>
         { t with pending := p &&& ~~~0x4000, timerDue := false, wakeDue := false, cause := 14,
                  trappc := npc &&& 0x3FFFC, trapaddr := 0, handler := true, uvec := user 14,
                  priv := if user 14 then t.priv else true, readyAt := t.readyAt + 1 }) s)))

/-- A synchronous cause other than UNCORR, raised outside a handler, saves the cause, the PC and the address,
latches the asynchronous causes due, sets HANDLER and UVEC, raises the privilege unless the user vector is selected,
sets the PC to UTRAPBASE or TRAPBASE, and changes nothing else of the machine (that TRAPPC keeps bits 17 to 2 is
R89; that waits end is R14). -/
def Obligations.TrapEntryChangesOnlyItsRegisters : Prop :=
  ∀ (c : Cause) (addr : Word) (s : State), (me s).handler = false → (me s).halting = false → c ≠ .uncorr →
    raise c addr s =
      (let user := (routeOf s s.cur).getLsbD (causeCode c) && !(me s).reserve
       modMe (fun t => { t with
         cause := BitVec.ofNat 4 (causeCode c),
         pending := (t.pending ||| (if t.timerDue then 0x2000 else 0) ||| (if t.wakeDue then 0x4000 else 0)) &&&
           ~~~((1 : BitVec 16) <<< causeCode c),
         timerDue := false, wakeDue := false,
         trappc := t.pc &&& 0x3FFFC, trapaddr := addr,
         handler := true, uvec := user, priv := if user then t.priv else true,
         pc := if user then t.utrapbase else t.trapbase,
         run := .run, wait := none, flight := none, readyAt := (getTile s s.cur.site).cycle + 3 }) s)

/-- A synchronous cause other than UNCORR raised in a handler leaves the strand OFF with its registers discarded,
and changes no queue, no future, and no other strand. -/
def Obligations.FaultInAHandlerStopsTheStrand : Prop :=
  ∀ (c : Cause) (addr : Word) (s : State), (me s).handler = true → c ≠ .uncorr →
    (getStrand (raise c addr s) (skey s.cur)).run = .off ∧
    (getStrand (raise c addr s) (skey s.cur)).x = Vector.replicate 32 0 ∧
    (raise c addr s).queues = s.queues ∧ (raise c addr s).futures = s.futures ∧
    ∀ e, e ≠ s.cur → e.k < 8 → s.cur.k < 8 → getStrand (raise c addr s) (skey e) = getStrand s (skey e)

/-- In a handler ERET sets the PC from TRAPPC, clears HANDLER and UVEC, sets PRIV from the strand's identity (the
reserve strand or job 0), and then takes the boundary, at which a latched cause or a round edge may be due; with
none due nothing else changes. Outside a handler it raises ILLEGAL. Outside a handler TRAP enters the vector that
ROUTEMASK bit 15 selects, with cause 15, n zero-extended in TRAPADDR and PC + 12 in TRAPPC, and changes no register
file and nothing outside the strand. -/
def Obligations.TrapAndEret : Prop :=
  (∀ (g : Guard) (s : State), guardVal g s = true →
    ((me s).handler = true → exec (.eret g) s = .next (boundaryEdge (boothOf s s.cur.site)
      (modMe (fun t => { t with
        pc := t.trappc, handler := false, uvec := false,
        priv := s.cur.k == 7 || (getTile s s.cur.site).job == 0, wait := none, flight := none }) s))) ∧
    ((me s).handler = false → exec (.eret g) s = .next (raise .illegal (me s).pc s)) ∧
    ((me s).handler = true → (me s).halting = false →
      (me s).timerDue = false → (me s).wakeDue = false → lowestPending (me s) = none →
      edgeOf (returnFrom s) (boothOf s s.cur.site) = none →
      exec (.eret g) s = .next (modMe (fun t => { t with
        pc := t.trappc, handler := false, uvec := false,
        priv := s.cur.k == 7 || (getTile s s.cur.site).job == 0, wait := none, flight := none }) s))) ∧
  (∀ (g : Guard) (n : BitVec 32) (s : State), guardVal g s = true → (me s).handler = false → (me s).halting = false →
    ∃ t, exec (.trap g n) s = .next t ∧ SameBut s.cur s t ∧ (me t).cause = 15 ∧
      (me t).trapaddr = n.zeroExtend 64 ∧ (me t).trappc = ((me s).pc + 12) &&& 0x3FFFC ∧ (me t).handler = true ∧
      (me t).uvec = ((routeOf s s.cur).getLsbD 15 && !(me s).reserve) ∧
      (me t).pc = (if (routeOf s s.cur).getLsbD 15 && !(me s).reserve then (me s).utrapbase else (me s).trapbase) ∧
      (me t).x = (me s).x ∧ (me t).v = (me s).v ∧ (me t).p = (me s).p ∧ (me t).k = (me s).k ∧ (me t).seg = (me s).seg)


/-! ### Classes 2 to 4: integer, floating point, predicates -/

/-- A two-source instruction completes with a result that `P` relates to the operands, in every form: operands are
registers, immediates or input ports, and the result goes to a register or an output port. -/
def Sys2Proof.Completes2 (mk : Guard → Dst → Src → Opnd → Instr) (P : Word → Word → Word → Prop) : Prop :=
  ∀ g d a b v s s', guardVal g s = true → Ports s (srcPorts a ++ opndPorts b) (dstPorts d) v s' →
    ∃ r, exec (mk g d a b) s = .next (retire d r s') ∧ P (srcVal v s' a) (opndVal v s' b) r

/-- The same for a one-source instruction. -/
def Sys2Proof.Completes1 (mk : Guard → Dst → Src → Instr) (P : Word → Word → Prop) : Prop :=
  ∀ g d a v s s', guardVal g s = true → Ports s (srcPorts a) (dstPorts d) v s' →
    ∃ r, exec (mk g d a) s = .next (retire d r s') ∧ P (srcVal v s' a) r

/-- With a true guard and every named port ready, ADD to MAXU (but the divisions) complete: the result that the
table of R102 gives for the operand values goes to D, and the instruction ends at PC + 12 (with an output port as D it
stays in flight until its completion pushes the result). -/
def Obligations.IntegerArithmeticResults : Prop :=
  Completes2 .add (fun a b r => r.toNat = (a.toNat + b.toNat) % 2 ^ 64) ∧
  Completes2 .sub (fun a b r => r.toInt = (a.toInt - b.toInt).bmod (2 ^ 64)) ∧
  Completes2 .mul (fun a b r => r.toNat = a.toNat * b.toNat % 2 ^ 64) ∧
  Completes2 .mulh (fun a b r => r = (a.signExtend 128 * b.signExtend 128).extractLsb' 64 64) ∧
  Completes2 .mulhu (fun a b r => r = (a.zeroExtend 128 * b.zeroExtend 128).extractLsb' 64 64) ∧
  Completes2 .and (fun a b r => ∀ i, r.getLsbD i = (a.getLsbD i && b.getLsbD i)) ∧
  Completes2 .or (fun a b r => ∀ i, r.getLsbD i = (a.getLsbD i || b.getLsbD i)) ∧
  Completes2 .xor (fun a b r => ∀ i, r.getLsbD i = (a.getLsbD i ^^ b.getLsbD i)) ∧
  Completes2 .andn (fun a b r => ∀ i, r.getLsbD i = (a.getLsbD i && !b.getLsbD i)) ∧
  Completes2 .shl (fun a b r => r.toNat = a.toNat * 2 ^ (b.toNat % 64) % 2 ^ 64) ∧
  Completes2 .shr (fun a b r => r.toNat = a.toNat / 2 ^ (b.toNat % 64)) ∧
  Completes2 .sar (fun a b r => r.toInt = a.toInt / 2 ^ (b.toNat % 64)) ∧
  Completes2 .rol (fun a b r => ∀ i, i < 64 → r.getLsbD ((i + b.toNat) % 64) = a.getLsbD i) ∧
  Completes2 .min (fun a b r => r.toInt = min a.toInt b.toInt) ∧
  Completes2 .max (fun a b r => r.toInt = max a.toInt b.toInt) ∧
  Completes2 .minu (fun a b r => r.toNat = min a.toNat b.toNat) ∧
  Completes2 .maxu (fun a b r => r.toNat = max a.toNat b.toNat)

/-- For all operand values, DIV, REM, DIVU and REMU complete with the values of R103: a zero divisor gives all ones
or the dividend, −2^63 by −1 gives −2^63 or 0, and otherwise the quotient is truncated toward zero. -/
def Obligations.DivisionTruncatesAndNeverTraps : Prop :=
  Completes2 .div (fun a b r => r = if b = 0 then 0xFFFFFFFFFFFFFFFF
    else if a.toInt = -(2 ^ 63) ∧ b.toInt = -1 then a else BitVec.ofInt 64 (a.toInt.tdiv b.toInt)) ∧
  Completes2 .rem (fun a b r => r = if b = 0 then a
    else if a.toInt = -(2 ^ 63) ∧ b.toInt = -1 then 0 else BitVec.ofInt 64 (a.toInt - b.toInt * a.toInt.tdiv b.toInt)) ∧
  Completes2 .divu (fun a b r => r.toNat = if b = 0 then 0xFFFFFFFFFFFFFFFF else a.toNat / b.toNat) ∧
  Completes2 .remu (fun a b r => r.toNat = if b = 0 then a.toNat else a.toNat % b.toNat)

/-- With a true guard and every named port ready, the bit instructions and the field instructions complete with the
values of R104 and R106, bit by bit; INS keeps the bits of D outside the field. -/
def Obligations.BitAndFieldResults : Prop :=
  Completes1 .clz (fun a r => (a = 0 → r = 64) ∧
    (a ≠ 0 → r.toNat < 64 ∧ 2 ^ 63 ≤ a.toNat * 2 ^ r.toNat ∧ a.toNat * 2 ^ r.toNat < 2 ^ 64)) ∧
  Completes1 .ctz (fun a r => (a = 0 → r = 64) ∧
    (a ≠ 0 → a.getLsbD r.toNat = true ∧ ∀ i, i < r.toNat → a.getLsbD i = false)) ∧
  Completes1 .popc (fun a r => r.toNat = ((List.range 64).map fun i => b2n (a.getLsbD i)).sum) ∧
  Completes1 .brev (fun a r => ∀ i, i < 64 → r.getLsbD i = a.getLsbD (63 - i)) ∧
  Completes1 .mov (fun a r => r = a) ∧
  Completes2 .extu (fun a b r => ∀ j, j < 64 → r.getLsbD j =
    (decide (b.toNat % 64 + j ≤ min (b.toNat % 64 + (b.toNat / 64 % 64 + 1)) 64 - 1) && a.getLsbD (b.toNat % 64 + j))) ∧
  Completes2 .ext (fun a b r => ∀ j, j < 64 → r.getLsbD j =
    a.getLsbD (min (b.toNat % 64 + j) (min (b.toNat % 64 + (b.toNat / 64 % 64 + 1)) 64 - 1))) ∧
  (∀ g (d : XReg) a b v s s', guardVal g s = true → Ports s (srcPorts a ++ opndPorts b) [] v s' →
    ∃ r, exec (.ins g d a b) s = .next (next (wx d r s')) ∧
      (let lsb := (opndVal v s' b).toNat % 64
       let hi := min (lsb + ((opndVal v s' b).toNat / 64 % 64 + 1)) 64 - 1
       ∀ j, j < 64 → r.getLsbD j =
         if lsb ≤ j ∧ j ≤ hi then (srcVal v s' a).getLsbD (j - lsb) else (rx s d).getLsbD j))

/-- MOVI (0x21E) writes SignExtend({B, C, IMM32}, 64) to D, a register or a ready port, and completes; A holds 0x00
and MOD is zero. -/
def Obligations.MoviWritesTheSignExtendedImmediate : Prop :=
  ∀ (g : Guard) (d : Dst) (imm : BitVec 48) (s : State), guardVal g s = true →
    (∀ v s', Ports s [] (dstPorts d) v s' → exec (.movi g d imm) s = .next (retire d (imm.signExtend 64) s')) ∧
    (∃ f, encodeFields (.movi g d imm) = some f ∧ f.opc = 0x21E ∧ f.b ++ f.c ++ f.imm = imm ∧ f.a = 0 ∧ f.mod = 0)

/-- With a true guard and the named ports ready, SEL completes and writes the value of A to D when the predicate
named is true or is p7, and the value of B otherwise; a false guard suppresses it whatever the predicate holds;
MOD[2:0] name the predicate and MOD[10:3] are zero. -/
def Obligations.SelectTakesAOnTrueAndBOnFalse : Prop :=
  ∀ (g : Guard) (n : PReg) (d : Dst) (a : Src) (b : Opnd) (v : PortVals) (s s' : State), guardVal g s = true →
    Ports s (srcPorts a ++ opndPorts b) (dstPorts d) v s' →
    (n = 7 ∨ (me s).p.get n = true → exec (.sel g n d a b) s = .next (retire d (srcVal v s' a) s')) ∧
    (n ≠ 7 ∧ (me s).p.get n = false → exec (.sel g n d a b) s = .next (retire d (opndVal v s' b) s')) ∧
    (∀ s'', guardVal g s'' = false → exec (.sel g n d a b) s'' = .next (next s'')) ∧
    (∃ f, encodeFields (.sel g n d a b) = some f ∧ f.opc = 0x21C ∧ f.mod.extractLsb' 0 3 = BitVec.ofNat 3 n.val ∧
      f.mod.extractLsb' 3 8 = 0)

/-- LEA writes the address that an access of one byte at its offset would use, raises SEG with the offset at or
above LIMIT, and ADDR where the address cannot be formed. CADDR and CREL write the other form of a local address,
leave any other value as it is, and raise ADDR with TRAPADDR = a, popping nothing, where the site named does not
exist or lies out of reach. -/
def Obligations.AddressConversionResults : Prop :=
  (∀ g d m s, guardVal g s = true →
    (segLimit (memSeg s m) ≤ (memOffset s m).toNat → exec (.lea g d m) s = .next (raise .seg (memOffset s m) s)) ∧
    ((memOffset s m).toNat < segLimit (memSeg s m) →
      (∀ a v s', form s s.cur.site (me s).priv (segBase (memSeg s m)) (memOffset s m).toNat 1 = some a →
        Ports s [] (dstPorts d) v s' → exec (.lea g d m) s = .next (retire d a s')) ∧
      (form s s.cur.site (me s).priv (segBase (memSeg s m)) (memOffset s m).toNat 1 = none →
        exec (.lea g d m) s = .next (raise .addr (segBase (memSeg s m) + memOffset s m) s)))) ∧
  (∀ g d a v s s', guardVal g s = true → Ports s (srcPorts a) (dstPorts d) v s' →
    (let w := srcVal v s' a
     let y : Int := ylOf s.cur.site + (w.extractLsb' 21 4).toInt
     let x : Int := xlOf s.cur.site + (w.extractLsb' 18 3).toInt
     (w.extractLsb' 62 2 ≠ 3 → exec (.caddr g d a) s = .next (retire d w s')) ∧
     (w.extractLsb' 62 2 = 3 → w.extractLsb' 25 37 ≠ 0 ∨ y < 0 ∨ 15 < y ∨ x < 0 ∨ 7 < x ∨
       isGood s (siteInCluster (clusterOf s.cur.site) x.toNat y.toNat) = false →
       exec (.caddr g d a) s = .next (raise .addr w s)) ∧
     (w.extractLsb' 62 2 = 3 → w.extractLsb' 25 37 = 0 → 0 ≤ y → y ≤ 15 → 0 ≤ x → x ≤ 7 →
       isGood s (siteInCluster (clusterOf s.cur.site) x.toNat y.toNat) = true →
       exec (.caddr g d a) s = .next (retire d
         (2#2 ++ 0#37 ++ BitVec.ofInt 4 y ++ BitVec.ofInt 3 x ++ w.extractLsb' 0 18) s')))) ∧
  (∀ g d a v s s', guardVal g s = true → Ports s (srcPorts a) (dstPorts d) v s' →
    (let w := srcVal v s' a
     let good := isGood s (siteInCluster (clusterOf s.cur.site) (fld w 18 3) (fld w 21 4))
     let dy : Int := (fld w 21 4 : Int) - ylOf s.cur.site
     let dx : Int := (fld w 18 3 : Int) - xlOf s.cur.site
     (w.extractLsb' 62 2 ≠ 2 → exec (.crel g d a) s = .next (retire d w s')) ∧
     (w.extractLsb' 62 2 = 2 → w.extractLsb' 25 37 ≠ 0 ∨ good = false ∨ dy < -8 ∨ 7 < dy ∨ dx < -4 ∨ 3 < dx →
       exec (.crel g d a) s = .next (raise .addr w s)) ∧
     (w.extractLsb' 62 2 = 2 → w.extractLsb' 25 37 = 0 → good = true → -8 ≤ dy → dy ≤ 7 → -4 ≤ dx → dx ≤ 3 →
       exec (.crel g d a) s = .next (retire d
         (3#2 ++ 0#37 ++ BitVec.ofInt 4 dy ++ BitVec.ofInt 3 dx ++ w.extractLsb' 0 18) s'))))

/-- A scalar floating-point instruction with RND completes: one draw is taken under .RST and none otherwise, and the
result is the exact value `ex` rounded by R45 to the format. -/
def Sys2Proof.CompletesFp (mk : Guard → Fmt → Rnd → Bool → Dst → Src → Opnd → Instr) (ex : Rnd → Ex → Ex → Ex) : Prop :=
  ∀ g f r sat d a b v s s', guardVal g s = true → Ports s (srcPorts a ++ opndPorts b) (dstPorts d) v s' →
    exec (mk g f r sat d a b) s =
      .next (retire d (fround f r sat ((takeDraws r 1 s').1.headD 0)
        (ex r (fval f (srcVal v s' a)) (fval f (opndVal v s' b)))) (takeDraws r 1 s').2)

/-- With a true guard and the named ports ready the arithmetic instructions of class 3 complete with the exact sum,
difference, product, quotient or fused result rounded once by RND and SAT, taking one draw of the strand's generator
under .RST and none otherwise; FMIN and FMAX give the lesser or the greater by R54 without a draw. FCVT completes
for every pair of formats with the conversion of the source; an integer source and destination take no draw (R47);
INT32 to UINT8 saturates and is zero-extended; with .L a NaN source gives 0. That FCVT under .RST takes its draw also for a
NaN, an infinite or a zero source, for which R46 has none and R51 one, is the model's choice (log entry 9). -/
def Obligations.ScalarFloatResults : Prop :=
  (CompletesFp .fadd (fun r x y => addEx (r == .rni) x y) ∧
  CompletesFp .fsub (fun r x y => addEx (r == .rni) x (negEx y)) ∧
  CompletesFp .fmul (fun _ x y => mulEx x y) ∧
  CompletesFp .fdiv (fun _ x y => divEx x y) ∧
  (∀ g f r sat d a b c v s s', guardVal g s = true →
    Ports s (srcPorts a ++ srcPorts b ++ srcPorts c) (dstPorts d) v s' →
    exec (.ffma g f r sat d a b c) s =
      .next (retire d (fround f r sat ((takeDraws r 1 s').1.headD 0)
        (addEx (r == .rni) (mulEx (fval f (srcVal v s' a)) (fval f (srcVal v s' b))) (fval f (srcVal v s' c))))
        (takeDraws r 1 s').2)) ∧
  (∀ f, Completes2 (fun g d a b => .fmin g f d a b) (fun a b r =>
    r.toNat = fminmax f false (a.toNat % 2 ^ f.width) (b.toNat % 2 ^ f.width) % 2 ^ 64)) ∧
  (∀ f, Completes2 (fun g d a b => .fmax g f d a b) (fun a b r =>
    r.toNat = fminmax f true (a.toNat % 2 ^ f.width) (b.toNat % 2 ^ f.width) % 2 ^ 64)) ∧
  (∀ r n s, r ≠ .rst → takeDraws r n s = ([], s)) ∧
  (∀ s, (takeDraws .rst 1 s).1.length = 1 ∧ (takeDraws .rst 1 s).2 =
    modMe (fun t => { t with
      rnga := (rngSteps 1 t.rnga t.rngb).2.1, rngb := (rngSteps 1 t.rnga t.rngb).2.2 }) s)) ∧
  ((∀ g (t f : Fmt) r sat l d a v s s', guardVal g s = true → Ports s (srcPorts a) (dstPorts d) v s' →
    (let x := if convDraws t f r then takeDraws r 1 s' else ([], s')
     exec (.fcvt g t f r sat l d a) s =
       .next (retire d (fcvtVal t f r sat l (x.1.headD 0) (srcVal v s' a)) x.2))) ∧
  (∀ (t f : Fmt), (t.isInt = true ∧ f.isInt = true) → convDraws t f .rst = false) ∧
  (∀ r sat dr (x : Word), ((fcvtVal .u8 .i32 r sat false dr x).toNat : Int) =
    max 0 (min 255 (x.extractLsb' 0 32).toInt)) ∧
  (∀ (f : Fmt) r sat dr x, f.isFloat = true → fval f x = .nan → fcvtVal .i32 f r sat true dr x = 0))

/-- The number that an exact value of R4 is, as a rational; an infinity and a NaN are none. -/
def Sys2Proof.exNumber : Ex → Option ℚ
  | .num neg m e _ => some ((if neg then -1 else 1) * m * (2 : ℚ) ^ e)
  | _ => none

/-- R111: x < y and x = y of two values that are no NaN: −∞ is below and +∞ above every number, and −0 equals +0. -/
def Sys2Proof.FloatLess (x y : Ex) : Prop :=
  match exNumber x, exNumber y with
  | some p, some q => p < q
  | some _, none => y = .inf false
  | none, some _ => x = .inf true
  | none, none => x = .inf true ∧ y = .inf false
def Sys2Proof.FloatSame (x y : Ex) : Prop :=
  match exNumber x, exNumber y with
  | some p, some q => p = q
  | none, none => x = y
  | _, _ => False

/-- CMP completes and writes to pd the truth of the condition on the operand values (bit patterns, signed or unsigned).
FCMP completes and writes one predicate: with a NaN operand NE and UN are true and the others false; with none EQ, NE,
LT and LE hold as the exact values of the operands compare, UN is false and OR true. A write of p7 is discarded. The
predicate instructions complete with the effects of R114: NA and NB invert the operands before use, PMOV copies a
predicate, tests a register or a popped entry against zero, or writes 1 or 0 to a register or port; p7 reads true. -/
def Obligations.PredicateResults : Prop :=
  ((∀ g cc pd a b v s s', guardVal g s = true → Ports s (srcPorts a ++ opndPorts b) [] v s' →
    exec (.cmp g cc pd a b) s = .next (next (wp pd
      (let x := srcVal v s' a
       let y := opndVal v s' b
       match cc with
       | .eq => decide (x = y)
       | .ne => decide (x ≠ y)
       | .lt => decide (x.toInt < y.toInt)
       | .le => decide (x.toInt ≤ y.toInt)
       | .ltu => decide (x.toNat < y.toNat)
       | .leu => decide (x.toNat ≤ y.toNat)) s'))) ∧
  (∀ g f cc pd a b v s s', guardVal g s = true → Ports s (srcPorts a ++ opndPorts b) [] v s' →
    ∃ r, exec (.fcmp g f cc pd a b) s = .next (next (wp pd r s')) ∧
      ((fval f (srcVal v s' a) = .nan ∨ fval f (opndVal v s' b) = .nan) → (r = true ↔ cc = .ne ∨ cc = .un)) ∧
      (fval f (srcVal v s' a) ≠ .nan → fval f (opndVal v s' b) ≠ .nan →
        (cc = .un → r = false) ∧ (cc = .or → r = true) ∧
        (cc = .eq → (r = true ↔ FloatSame (fval f (srcVal v s' a)) (fval f (opndVal v s' b)))) ∧
        (cc = .ne → (r = true ↔ ¬FloatSame (fval f (srcVal v s' a)) (fval f (opndVal v s' b)))) ∧
        (cc = .lt → (r = true ↔ FloatLess (fval f (srcVal v s' a)) (fval f (opndVal v s' b)))) ∧
        (cc = .le → (r = true ↔ FloatLess (fval f (srcVal v s' a)) (fval f (opndVal v s' b)) ∨
          FloatSame (fval f (srcVal v s' a)) (fval f (opndVal v s' b)))))) ∧
  (∀ pd r s, pd ≠ 7 → (me (wp pd r s)).p = (me s).p.set pd r) ∧ (∀ r s, wp 7 r s = modMe id s)) ∧
  ((∀ g na nb pd pa pb s, guardVal g s = true →
    (let a' := pGet (me s) pa ^^ na
     let b' := pGet (me s) pb ^^ nb
     exec (.pand g na nb pd pa pb) s = .next (next (wp pd (a' && b') s)) ∧
     exec (.por g na nb pd pa pb) s = .next (next (wp pd (a' || b') s)) ∧
     exec (.pxor g na nb pd pa pb) s = .next (next (wp pd (a' ^^ b') s)))) ∧
  (∀ g pd pa s, guardVal g s = true →
    exec (.pnot g pd pa) s = .next (next (wp pd (!pGet (me s) pa) s)) ∧
    exec (.pmov g (.pp pd pa)) s = .next (next (wp pd (pGet (me s) pa) s))) ∧
  (∀ g pd a v s s', guardVal g s = true → Ports s (srcPorts a) [] v s' →
    exec (.pmov g (.px pd a)) s = .next (next (wp pd (decide (srcVal v s' a ≠ 0)) s'))) ∧
  (∀ g d pa v s s', guardVal g s = true → Ports s [] (dstPorts d) v s' →
    exec (.pmov g (.xp d pa)) s = .next (retire d (if pGet (me s') pa then 1 else 0) s')) ∧
  (∀ t, pGet t 7 = true))

/-- A form that names no port finds its ports ready with nothing popped; writing its result to an x register or a
predicate and ending at a quiet boundary changes only that register and the PC of the executing strand: every other
register, the special registers, all memory, queues and other strands stay as they were. A write of x0 is discarded
and x0 reads zero. -/
def Obligations.RegisterFormsChangeOnlyTheirDestination : Prop :=
  ∀ (s : State), Quiet (me s) →
    (∀ (a : XReg) (b : XOpnd), Ports s (srcPorts (.x a) ++ opndPorts (match b with | .x r => .src (.x r) | .imm i => .imm i))
      (dstPorts (.x a)) (0, 0) s) ∧
    (∀ (d : XReg) (v : Word), retire (.x d) v s = advanced ((me s).pc + 12) (xSet d v) s) ∧
    (∀ (d : PReg) (v : Bool), next (wp d v s) = advanced ((me s).pc + 12) (pSet d v) s) ∧
    (∀ (d : XReg) v t, d ≠ 0 → (xSet d v t).x.get d = v ∧ ∀ r, r ≠ d → (xSet d v t).x.get r = t.x.get r) ∧
    (∀ v t, xSet 0 v t = t) ∧ (∀ t, xGet t 0 = 0) ∧
    (∀ npc f, SameBut s.cur s (advanced npc f s))


/-! ### Classes 0 and 1: control, strands, system registers -/

/-- With a true guard and a target that is a multiple of 4 from 0 to 0x3_FFF4, the control instructions complete at
it; the linking forms write PC + 12 to x31 after the target is read; LOOP decrements its counter, falls through when
the result is 0 and branches otherwise. A target out of range raises ADDR with the target in TRAPADDR, from the
state before the instruction: no link and no counter is written. -/
def Obligations.ControlTransfers : Prop :=
  (∀ (g : Guard) (tgt : BitVec 48) (a : XReg) (s : State), guardVal g s = true →
    (let rel := (me s).pc + 4 * tgt.signExtend 64
     let ok (t : Word) := t.toNat % 4 = 0 ∧ t.toNat ≤ 0x3FFF4
     (ok rel → exec (.br g tgt) s = .next (finish rel s) ∧
       exec (.brl g tgt) s = .next (finish rel (wx 31 ((me s).pc + 12) s))) ∧
     (ok (rx s a) → exec (.brx g a) s = .next (finish (rx s a) s) ∧
       exec (.brxl g a) s = .next (finish (rx s a) (wx 31 ((me s).pc + 12) s))) ∧
     (ok (rx s 31) → exec (.ret g) s = .next (finish (rx s 31) s)) ∧
     (rx s a = 1 → exec (.loop g a tgt) s = .next (next (wx a 0 s))) ∧
     (rx s a ≠ 1 → ok rel → exec (.loop g a tgt) s = .next (finish rel (wx a (rx s a - 1) s))))) ∧
  (∀ (g : Guard) (tgt : BitVec 48) (a : XReg) (s : State), guardVal g s = true →
    (let rel := (me s).pc + 4 * tgt.signExtend 64
     let bad (t : Word) := ¬(t.toNat % 4 = 0 ∧ t.toNat ≤ 0x3FFF4)
     (bad rel → exec (.br g tgt) s = .next (raise .addr rel s) ∧ exec (.brl g tgt) s = .next (raise .addr rel s) ∧
       (rx s a ≠ 1 → exec (.loop g a tgt) s = .next (raise .addr rel s))) ∧
     (bad (rx s a) → exec (.brx g a) s = .next (raise .addr (rx s a) s) ∧
       exec (.brxl g a) s = .next (raise .addr (rx s a) s)) ∧
     (bad (rx s 31) → exec (.ret g) s = .next (raise .addr (rx s 31) s))))

/-- NOP has no effect beyond PC + 12, whatever its guard; every slot, MOD and IMM32 of its word are zero; with guard
"always" w0 is 0x0007_0000. -/
def Obligations.NopHasNoEffectBeyondThePc : Prop :=
  (∀ (g : Guard) (s : State), exec (.nop g) s = .next (next s)) ∧
  (∀ (g : Guard), encodeFields (.nop g) = some { opc := 0, gn := g.neg, gp := g.p }) ∧
  encode (.nop .always) = some 0x00070000

/-- STOP stays in flight until its tile's clock reaches its completion, when the strand is OFF and its registers,
bindings, latched causes and monitors are discarded (that they then read as zero is the model's choice, log entry
3); on strand 7 it raises ILLEGAL. YIELD with a count of at most 1 completes at once; with a larger one it stays in
flight for min(count, 65,535) cycles, and the end of the pause completes it. In steward privilege HALT completes:
every strand of the tile but the reserve strand is OFF, or, with an instruction that has not completed, is marked to
stop, and is OFF when its tile's clock reaches the completion; the issuing strand is among them unless it is strand 7,
which goes on. -/
def Obligations.StopYieldAndHalt : Prop :=
  ((∀ (g : Guard) (s : State), guardVal g s = true → s.cur.k ≠ 7 →
    exec (.stop g) s = .next (modMe (fun t => { t with flight := some .stop }) s)) ∧
  (∀ (g : Guard) (s : State), guardVal g s = true → s.cur.k = 7 →
    exec (.stop g) s = .next (raise .illegal (me s).pc s)) ∧
  (∀ (e : SRef) (s : State), e.k < 8 → getStrand (stopStrand e s) (skey e) = Strand.blank (skey e)) ∧
  (∀ (e : SRef) (s : State), e.k < 8 → (getStrand s (skey e)).run = .run → (getStrand s (skey e)).flight = some .stop →
    (getStrand s (skey e)).readyAt ≤ (getTile s e.site).cycle + 1 → (getStrand s (skey e)).wait = none →
    (getStrand (strandTimers e.site s) (skey e)).run = .off)) ∧
  ((∀ (g : Guard) (b : XOpnd) (s : State), guardVal g s = true → (rxo s b).toNat ≤ 1 →
    exec (.yield g b) s = .next (next s)) ∧
  (∀ (g : Guard) (b : XOpnd) (s : State), guardVal g s = true → 1 < (rxo s b).toNat →
    exec (.yield g b) s = .next (modMe (fun t => { t with
      readyAt := (getTile s s.cur.site).cycle + (min (rxo s b).toNat 65535 + 1), flight := some .pause }) s)) ∧
  (∀ (e : SRef) (s : State), (getStrand s (skey e)).flight = some .pause →
    (getStrand s (skey e)).readyAt ≤ (getTile s e.site).cycle + 1 →
    exec (.yieldPauseEnd e) s = .next (next (asStrand e s)))) ∧
  (∀ (g : Guard) (s : State), guardVal g s = true → (me s).priv = true → s.cur.k < 8 →
    (s.cur.k = 7 → exec (.halt g) s =
      .next (next ((List.range 7).foldl (fun u k => haltStrand ⟨s.cur.site, k⟩ u) s))) ∧
    (s.cur.k ≠ 7 → exec (.halt g) s =
      .next ((List.range 7).foldl (fun u k => haltStrand ⟨s.cur.site, k⟩ u) s)) ∧
    (∀ k, k < 7 →
      (let t := getStrand s (8 * s.cur.site + k)
       let t' := getStrand ((List.range 7).foldl (fun u k => haltStrand ⟨s.cur.site, k⟩ u) s) (8 * s.cur.site + k)
       let inFlight := t.flight.isSome = true ∨ (getTile s s.cur.site).cycle + 1 < t.readyAt
       (t.run = .run ∧ inFlight → t' = { t with halting := true }) ∧ (¬(t.run = .run ∧ inFlight) → t'.run = .off)))) ∧
  (∀ (e : SRef) (s : State), e.k < 8 → (getStrand s (skey e)).run = .run → (getStrand s (skey e)).flight = none →
    (getStrand s (skey e)).halting = true → (getStrand s (skey e)).readyAt = (getTile s e.site).cycle + 1 →
    (getStrand s (skey e)).wait = none → (getStrand (strandTimers e.site s) (skey e)).run = .off)

/-- With its target in range FORK completes: a strand that is not OFF is left alone and D receives 1; an OFF strand
starts in RUN and thread mode at the target with x1 = X[A], and D receives 0 (stated for a strand with no store of
its own still to perform). A target out of range raises ADDR. -/
def Obligations.ForkStartsAnOffStrand : Prop :=
  ∀ (g : Guard) (n : Fin 8) (d a : XReg) (tgt : BitVec 48) (s : State), guardVal g s = true → (n = 7 → (me s).priv = true) →
    (let rel := (me s).pc + 4 * tgt.signExtend 64
     let e : SRef := ⟨s.cur.site, n.val⟩
     (rel.toNat % 4 = 0 ∧ rel.toNat ≤ 0x3FFF4 →
       ((getStrand s (skey e)).run ≠ .off → exec (.fork g n d a tgt) s = .next (next (wx d 1 s))) ∧
       ((getStrand s (skey e)).run = .off → skey e ≠ skey s.cur → Quiet (me s) → s.pend = [] →
         ∃ t, exec (.fork g n d a tgt) s = .next t ∧ (d ≠ 0 → rx t d = 0) ∧ (me t).pc = (me s).pc + 12 ∧
           (getStrand t (skey e)).run = .run ∧ (getStrand t (skey e)).pc = rel ∧
           (getStrand t (skey e)).x.get 1 = rx s a ∧ (getStrand t (skey e)).task = false ∧
           (getStrand t (skey e)).priv = (n.val == 7 || (getTile s s.cur.site).job == 0) ∧
           t.mem = s.mem ∧ t.queues = s.queues)) ∧
     (¬(rel.toNat % 4 = 0 ∧ rel.toNat ≤ 0x3FFF4) → exec (.fork g n d a tgt) s = .next (raise .addr rel s)))

/-- WAKE of a reserve strand in user privilege raises PRIV, whatever its guard. Else, with a true guard, it raises ADDR
for an endpoint that names no strand it may wake, then ADDR for a start offset out of range, and otherwise completes
with the wake event on its way, after the strand's earlier stores; while one of these waits for a host link the event
waits with it. Delivered to an OFF strand a wake event starts it in thread mode at the offset with x1 = 0; to a strand in
WAITM it completes the MWAIT; to a strand in RUN it makes WAKE due, which is taken at once where no instruction is in
flight, at the completion of one that is, and ends a YIELD pause; a WAITQ or WAITF wait outside a handler it abandons, but
for those that R118 keeps; to a PAGED strand it is latched. That a WAKE that is due is taken at once where no instruction is
in flight, and that the event completes an MWAIT also inside a handler, is the model's choice (log entry 36). -/
def Obligations.WakeAndItsEvent : Prop :=
  (∀ (g : Guard) (a b : XReg) (s : State),
    (guardVal g s = true → wakeTarget s (rx s a) = none → exec (.wake g a b) s = .next (raise .addr (rx s a) s)) ∧
    (∀ e, wakeTarget s (rx s a) = some e →
      (e.k = 7 → (me s).priv = false → exec (.wake g a b) s = .next (raise .priv (me s).pc s)) ∧
      (¬(e.k = 7 ∧ (me s).priv = false) → guardVal g s = true →
        (targetOk (rx s b) = false → exec (.wake g a b) s = .next (raise .addr (rx s b) s)) ∧
        (targetOk (rx s b) = true →
          (unperformed (drainAll s.cur s) (drainAll s.cur s).cur = false → exec (.wake g a b) s =
            .next (next (enqueue (.wakeEventDelivery e (rx s b)) (drainAll s.cur s)))) ∧
          (unperformed (drainAll s.cur s) (drainAll s.cur s).cur = true → exec (.wake g a b) s =
            .next (next { drainAll s.cur s with
              wakes := (drainAll s.cur s).wakes ++ [⟨(drainAll s.cur s).cur, e, rx s b⟩] })))))) ∧
  (∀ s, (sendWakes s).internal = s.internal ++
    (s.wakes.filter fun w => !unperformed s w.from_).map fun w => .wakeEventDelivery w.dest w.start) ∧
  (∀ (e : SRef) (start : Word) (s : State), e.k < 8 →
    ((getStrand s (skey e)).run = .off → ∃ t, exec (.wakeEventDelivery e start) s = .next t ∧
      (getStrand t (skey e)).run = .run ∧ (getStrand t (skey e)).pc = start ∧
      (getStrand t (skey e)).x.get 1 = 0 ∧ (getStrand t (skey e)).task = false) ∧
    ((getStrand s (skey e)).run = .run → (getStrand s (skey e)).flight = none →
      (getStrand s (skey e)).readyAt ≤ (getTile s e.site).cycle + 1 →
      exec (.wakeEventDelivery e start) s = .next (boundary e (modStrand (skey e) (fun t => { t with wakeDue := true }) s))) ∧
    ((getStrand s (skey e)).run = .run → (getStrand s (skey e)).flight = none →
      (getTile s e.site).cycle + 1 < (getStrand s (skey e)).readyAt →
      exec (.wakeEventDelivery e start) s = .next (modStrand (skey e) (fun t => { t with wakeDue := true }) s)) ∧
    ((getStrand s (skey e)).run = .waitq ∨ (getStrand s (skey e)).run = .waitf → (getStrand s (skey e)).handler = false →
      (∀ w, (getStrand s (skey e)).wait = some w → wakeKept w = false →
        exec (.wakeEventDelivery e start) s =
          .next (boundary e (modStrand (skey e) (fun t => { t with wakeDue := true }) (endWait e s))))) ∧
    ((getStrand s (skey e)).run = .run → (getStrand s (skey e)).flight = some .pause →
      exec (.wakeEventDelivery e start) s =
        .next (next (readyIn 1 (asStrand e (modStrand (skey e) (fun t => { t with wakeDue := true }) s))))) ∧
    ((getStrand s (skey e)).run = .paged →
      exec (.wakeEventDelivery e start) s = .next (modStrand (skey e) (fun t => { t with wakeDue := true }) s)) ∧
    ((getStrand s (skey e)).run = .waitm → exec (.wakeEventDelivery e start) s = .next (mwaitEnd e 16 s)))

/-- SYSRD completes for every register of R87 and writes its value to D. SYSWR completes for every writable one, in
steward privilege where the register asks it: a strand register is written with the instruction, a tile, booth or device
register when its completion comes (until then the instruction is in flight; a SYSWR of the same register that was issued
earlier is performed first, and one that was so performed writes nothing more), and the register then reads as the value
written without its reserved bits (SEMA changes only by the steward's two transitions of R381, and one that an urgent
freeze awaits goes to the pager at once); a negative, infinite or NaN FLOOR raises ILLEGAL.
Writing a system register changes no other system register, no x register, not the PC, and no memory. -/
def Obligations.SystemRegisters : Prop :=
  (∀ (g : Guard) (a d : XReg) (s : State), guardVal g s = true →
    (∀ r, exec (.sysrd g d r) s = .next (next (wx d (readSys s r) s))) ∧
    (∀ r, r.writable = true → (r.steward = true → (me s).priv = true) →
      ((tolIndex r).isSome = true → floorBad (rx s a) = false) →
      (sharedReg r = false → exec (.syswr g r a) s = .next (next (writeSys r (rx s a) s))) ∧
      (sharedReg r = true → exec (.syswr g r a) s = .next
        { modMe (fun t => { t with flight := some (.sys r (rx s a) s.ticket true) }) s with ticket := s.ticket + 1 }) ∧
      (∀ e c v n, (getStrand s (skey e)).flight = some (.sys r v n true) →
        (∀ p ∈ s.strands, ∀ w m, p.2.flight = some (.sys r w m true) → n ≤ m) →
        completeFlight e c s = next (writeSys r v (asStrand e s))) ∧
      (∀ e c v n, (getStrand s (skey e)).flight = some (.sys r v n false) → completeFlight e c s = next (asStrand e s)) ∧
      readSys (writeSys r (rx s a) s) r = (match r with
        | .trapbase => rx s a &&& 0x3FFFC
        | .utrapbase => rx s a &&& 0x3FFFC
        | .trappc => rx s a &&& 0x3FFFC
        | .routemask => rx s a &&& 0xE100
        | .segtab => rx s a &&& 0xFF0003FFF0
        | .sema => if (rx s a).extractLsb' 0 2 = 3 ∧ s.sema = 0 then 3
          else if (rx s a).extractLsb' 0 2 = 0 ∧ s.sema = 3 then (if freezing s then 3 else 0) else readSys s .sema
        | .tolbf16 => rx s a &&& 0xFFFFFFFF0000003F
        | .tolfp16 => rx s a &&& 0xFFFFFFFF0000003F
        | .tole4 => rx s a &&& 0xFFFFFFFF0000003F
        | .tole5 => rx s a &&& 0xFFFFFFFF0000003F
        | .toln4 => rx s a &&& 0xFFFFFFFF0000003F
        | _ => rx s a)) ∧
    (∀ r, (tolIndex r).isSome = true → floorBad (rx s a) = true →
      exec (.syswr g r a) s = .next (raise .illegal (me s).pc s))) ∧
  (∀ (r q : SysReg) (v : Word) (s : State), r.writable = true → q ≠ r →
    readSys (writeSys r v s) q = readSys s q ∧ (writeSys r v s).mem = s.mem ∧
    (me (writeSys r v s)).x = (me s).x ∧ (me (writeSys r v s)).pc = (me s).pc)

/-- SEGLD reads entry U(b) of the tile's segment table, after the strand's own earlier stores to it: an index at or
above COUNT, an entry that reaches the ready-queue reserve and an invalid value raise SEG with the index; a valid
value goes to the segment register named and to no other. -/
def Obligations.SegldLoadsAValidEntry : Prop :=
  ∀ (g : Guard) (sd : SReg) (b : XOpnd) (s : State), guardVal g s = true →
    (let n := rxo s b
     let tab := (myTile s).segtab
     let off := 16 * fld tab 4 14 + 16 * n.toNat
     let ks := keysFrom (localKey s.cur.site off) 16
     let u := drainFor s.cur ks false s
     let w := BitVec.ofNat 128 (readNat u ks)
     (fld tab 32 8 ≤ n.toNat ∨ 0x3E000 < off + 16 → exec (.segld g sd b) s = .next (raise .seg n s)) ∧
     (n.toNat < fld tab 32 8 → off + 16 ≤ 0x3E000 → poisonRead u ks = none →
       (segValid w = false → exec (.segld g sd b) s = .next (raise .seg n u)) ∧
       (segValid w = true → ∃ t, exec (.segld g sd b) s = .next (next t) ∧ sGet (me t) sd = w ∧
         (∀ r, r ≠ sd → sGet (me t) r = sGet (me u) r) ∧ SameBut s.cur u t)))


/-! ### Classes 5 and 6: memory -/

/-- A null segment, a missing right and an access beyond LIMIT raise SEG with the offset; a load or atomic in window
space raises WINDOW with the address; an access that meets none of these raises ADDR with BASE + offset where Form gives no
address, and ALIGN with the address as formed where that is no multiple of the alignment asked; otherwise it passes with the
address that Form gives. But for a mesh base of boot mode, whose form is R395's, Form gives BASE + offset unless the base is
malformed, the access reaches beyond 2^57 of virtual, 2^44 of window or 0x4_0000 of local space, or the local target is no
good site of the cluster or, in user privilege, a tile that is not granted to the job. -/
def Obligations.SegmentCheckFaults : Prop :=
  ∀ (s : State) (g : BitVec 128) (off : Word) (size align : Nat) (kind : AKind),
    (segLimit g = 0 → check s g off size align kind = .error (.trap .seg off)) ∧
    (segLimit g ≠ 0 → tagOf (segBase g) = 1 → kind ≠ .store →
      check s g off size align kind = .error (.trap .window (segBase g + off))) ∧
    (tagOf (segBase g) ≠ 1 → (kind = .load ∧ segR g = false) ∨ (kind = .store ∧ segW g = false) ∨
        (kind = .atomic ∧ (segR g && segW g && segA g) = false) →
      check s g off size align kind = .error (.trap .seg off)) ∧
    (tagOf (segBase g) = 1 → kind = .store → segT g = false → check s g off size align kind = .error (.trap .seg off)) ∧
    (segLimit g < off.toNat + size → (kind = .store ∨ tagOf (segBase g) ≠ 1) →
      check s g off size align kind = .error (.trap .seg off)) ∧
    (∀ a, check s g off size align kind = .ok a → a.toNat % align = 0 ∧ off.toNat + size ≤ segLimit g ∧
      form s s.cur.site (me s).priv (segBase g) off.toNat size = some a) ∧
    (segLimit g ≠ 0 → off.toNat + size ≤ segLimit g → (tagOf (segBase g) = 1 → kind = .store ∧ segT g = true) →
      (tagOf (segBase g) ≠ 1 → (kind = .load → segR g = true) ∧ (kind = .store → segW g = true) ∧
        (kind = .atomic → (segR g && segW g && segA g) = true)) →
      (form s s.cur.site (me s).priv (segBase g) off.toNat size = none →
        check s g off size align kind = .error (.trap .addr (segBase g + off))) ∧
      (∀ a, form s s.cur.site (me s).priv (segBase g) off.toNat size = some a →
        check s g off size align kind = (if a.toNat % align = 0 then .ok a else .error (.trap .align a)))) ∧
    (isMesh s s.cur.site (segBase g) = false →
      (let b := segBase g
       let f := form s s.cur.site (me s).priv b off.toNat size
       (tagOf b = 0 → f = if fld b 57 5 = 0 ∧ fld b 0 57 + off.toNat + size ≤ 2 ^ 57 then some (b + off) else none) ∧
       (tagOf b = 1 → f = if fld b 56 6 = 0 ∧ fld b 0 44 + off.toNat + size ≤ 2 ^ 44 then some (b + off) else none) ∧
       (tagOf b = 2 ∨ tagOf b = 3 →
         (fld b 25 37 ≠ 0 → f = none) ∧
         (localSite s s.cur.site b = none → f = none) ∧
         (∀ t, localSite s s.cur.site b = some t → isGood s t = true ∧
           f = if fld b 0 18 + off.toNat + size ≤ 0x40000 ∧
             ((me s).priv = true ∨ (getTile s t).job = (getTile s s.cur.site).job) then some (b + off) else none))))

/-- The access of `size` bytes through `m` passes Check and names the bytes `ks` of the strand's own tile at the address
`a`; the strand has no access of its own still to perform, the bytes hold no poison, and they are not the word
that ends boot mode while the die is in it (R396). -/
def Sys2Proof.OwnAccess (s : State) (sg : BitVec 128) (off : Word) (size align : Nat) (kind : AKind) (a : Word) (ks : List Nat) : Prop :=
  check s sg off size align kind = .ok a ∧
  (∃ ord, access a size (kind != .load) sg s = .ok ⟨.bytes ks, ord, s⟩) ∧
  ks.length = size ∧ ownTile s ks = true ∧ (∀ p, p ∈ s.pend → p.e ≠ s.cur) ∧ poisonRead s ks = none ∧
  (∀ d, d < 4 → bootMode s d = true → (keysFrom (localKey (siteAt d 0 0) 0x3D0C0) 8).any ks.contains = false)

/-- The value that a byte holds, or one that it held before a write that plain loads may still miss (R184 to R186; the model's
choice of what they find is log entry 87). -/
def Sys2Proof.FindsByte (s : State) (k : Nat) (b : Byte) : Prop :=
  b = readByte s k ∨ ∃ o, o ∈ s.olds ∧ o.key = k ∧ o.value = b

/-- `u` is `s` but for what plain loads may still find, and the counter of the free values. -/
def Sys2Proof.ButFound (s u : State) : Prop := u = { s with olds := u.olds, fresh := u.fresh }

/-- An instruction completes from `s`, but for what plain loads may still find. -/
def Sys2Proof.CompletesFrom (r : Res) (s : State) : Prop := ∃ u, r = .next (next u) ∧ ButFound s u

/-- A load of the strand's own tile completes: LD writes the bytes, sign- or zero-extended, to D; LDV writes the
bytes of the active lanes and keeps the others; GATH writes to each active lane the element at its own offset. Each byte is
the one that memory holds, or for a plain load one that it held before a write that R184 to R186 let the load miss; an
annotated load, and every load while no such write stands, reads what memory holds. -/
def Obligations.LoadsReadTheirBytes : Prop :=
  (∀ g h sz sgn o d m s a ks, guardVal g s = true →
    OwnAccess s (memSeg s m) (memOffset s m) (sizeBytes sz) (alignOf o (sizeBytes sz)) .load a ks →
    ∃ bs u, exec (.ld g h sz sgn o d m) s = .next (next (wx d
        (if sgn then (BitVec.ofNat (8 * sizeBytes sz) (bytesNat bs)).signExtend 64 else BitVec.ofNat 64 (bytesNat bs)) u)) ∧
      ButFound (readyIn 4 s) u ∧ bs.length = sizeBytes sz ∧
      (∀ j, j < sizeBytes sz → FindsByte s (ks.getD j 0) (bs.getD j 0)) ∧
      (s.olds = [] ∨ o ≠ .plain → bs = readKeys s ks)) ∧
  (∀ g h sz o mk d m s a ks, guardVal g s = true →
    OwnAccess s (memSeg s m) (memOffset s m) 64 (alignOf o 64) .load a ks →
    ∃ r u, exec (.ldv g h sz o mk d m) s = .next (next (wv d r u)) ∧ ButFound (readyIn 4 s) u ∧
      ∀ j, j < 64 →
        ((kGet (me s) mk).getLsbD (j / sizeBytes sz) = false →
          r.extractLsb' (8 * j) 8 = (vGet (me s) d).extractLsb' (8 * j) 8) ∧
        ((kGet (me s) mk).getLsbD (j / sizeBytes sz) = true →
          FindsByte s (ks.getD j 0) (r.extractLsb' (8 * j) 8) ∧
          (s.olds = [] ∨ o ≠ .plain → r.extractLsb' (8 * j) 8 = readByte s (ks.getD j 0)))) ∧
  (∀ g h sz scl o mk d m b s (a : Nat → Word) (ks : Nat → List Nat), guardVal g s = true →
    sz = .w ∨ sz = .d → tagOf (segBase (memSeg s m)) ≠ 1 →
    (∀ i, i < 64 / sizeBytes sz → (kGet (me s) mk).getLsbD i = true →
      OwnAccess s (memSeg s m) (elemOffset s m b (sizeBytes sz) scl i) (sizeBytes sz) (alignOf o (sizeBytes sz)) .load
        (a i) (ks i)) →
    (∀ p, p ∈ s.pend → p.e ≠ s.cur) →
    ∃ r u, exec (.gath g h sz scl o mk d m b) s = .next (next (wv d r u)) ∧ ButFound (readyIn 4 s) u ∧
      ∀ i, i < 64 / sizeBytes sz →
        ((kGet (me s) mk).getLsbD i = false →
          laneGet (8 * sizeBytes sz) r i = laneGet (8 * sizeBytes sz) (vGet (me s) d) i) ∧
        ((kGet (me s) mk).getLsbD i = true → ∃ bs, laneGet (8 * sizeBytes sz) r i = bytesNat bs ∧
          bs.length = sizeBytes sz ∧ (∀ j, j < sizeBytes sz → FindsByte s ((ks i).getD j 0) (bs.getD j 0)) ∧
          (s.olds = [] ∨ o ≠ .plain → bs = readKeys s (ks i))))

/-- A store to the strand's own tile completes: ST writes the low bytes of X[D], STV the bytes of the active lanes,
SCAT each active element at its own offset in lane order, and STN one half of a byte, keeping the other half. -/
def Obligations.StoresWriteExactlyTheirBytes : Prop :=
  (∀ g h sz o d m s a ks, guardVal g s = true →
    OwnAccess s (memSeg s m) (memOffset s m) (sizeBytes sz) (alignOf o (sizeBytes sz)) .store a ks →
    CompletesFrom (exec (.st g h sz o d m) s) (writeBytes (ks.zip (bytesLE (sizeBytes sz) (rx s d))) (readyIn 4 s))) ∧
  (∀ g h sz o mk d m s a ks, guardVal g s = true →
    OwnAccess s (memSeg s m) (memOffset s m) 64 (alignOf o 64) .store a ks →
    CompletesFrom (exec (.stv g h sz o mk d m) s) (writeBytes
      (((List.range 64).filter fun j => (kGet (me s) mk).getLsbD (j / sizeBytes sz)).map fun j =>
        (ks.getD j 0, (vGet (me s) d).extractLsb' (8 * j) 8)) (readyIn 4 s))) ∧
  (∀ g h sz scl o mk d m b s (a : Nat → Word) (ks : Nat → List Nat), guardVal g s = true →
    sz = .w ∨ sz = .d → tagOf (segBase (memSeg s m)) ≠ 1 →
    (∀ i, i < 64 / sizeBytes sz → (kGet (me s) mk).getLsbD i = true →
      OwnAccess s (memSeg s m) (elemOffset s m b (sizeBytes sz) scl i) (sizeBytes sz) (alignOf o (sizeBytes sz)) .store
        (a i) (ks i)) →
    (∀ p, p ∈ s.pend → p.e ≠ s.cur) →
    CompletesFrom (exec (.scat g h sz scl o mk d m b) s)
      (((List.range (64 / sizeBytes sz)).filter fun i => (kGet (me s) mk).getLsbD i).foldl (fun u i =>
        writeBytes ((ks i).zip (bytesLE (sizeBytes sz)
          ((vGet (me s) d).extractLsb' (8 * sizeBytes sz * i) (8 * sizeBytes sz)))) u) (readyIn 4 s))) ∧
  (∀ g h hi o d m s a ks, guardVal g s = true → tagOf (segBase (memSeg s m)) ≠ 1 →
    OwnAccess s (memSeg s m) (memOffset s m) 1 1 .store a ks →
    CompletesFrom (exec (.stn g h hi o d m) s) (writeNat ks
      (if hi then readNat s ks % 16 + 16 * ((rx s d).toNat % 16) else readNat s ks / 16 * 16 + (rx s d).toNat % 16)
      (readyIn 4 s)))

/-- `t` is `s` after an instruction that stores to the bytes `ks` and writes register `d` at most: every other byte and
register, the queues, the futures and the tiles are as before; of the executing strand only the PC, the record of the
instruction and what its monitors saw have changed. -/
def Sys2Proof.OnlyStores (s t : State) (d : Option XReg) (ks : List Nat) : Prop :=
  (∀ k, k ∉ ks → readByte t k = readByte s k) ∧ (∀ r, d ≠ some r → rx t r = rx s r) ∧
  me t = { me s with
    x := (me t).x, pc := (me s).pc + 12, mons := (me t).mons, readyAt := (me t).readyAt, wait := none, flight := none } ∧
  t.queues = s.queues ∧ t.futures = s.futures ∧ t.tiles = s.tiles

/-- The frame of an atomic on `n` bytes of the strand's own tile. -/
def Sys2Proof.AtomicFrame (mk : Option XReg → MemOp → XReg → Instr) (g : Guard) (n : Nat) : Prop :=
  ∀ d m b s a ks t, guardVal g s = true → Quiet (me s) → MemInv s →
    OwnAccess s (memSeg s m) (memOffset s m) n n .atomic a ks → exec (mk d m b) s = .next t → OnlyStores s t d ks

/-- Two states differ at most in the context of strand `e` and in what plain loads may still find. -/
def Sys2Proof.SameButFound (e : SRef) (s t : State) : Prop :=
  t = { s with strands := t.strands, olds := t.olds, fresh := t.fresh } ∧ ∀ k, k ≠ skey e → getStrand t k = getStrand s k

/-- On the strand's own tile a completed ST, STV, STN or atomic changes no byte outside those of its access
(computed by Check and translation from its own operands), no register but the D of an atomic, no special register
and no queue; a completed LD or LDV changes D and the PC of its strand, and what plain loads may still find, and nothing else,
no byte of memory among them. -/
def Obligations.MemoryInstructionFrame : Prop :=
  (∀ g h sz o d m s a ks t, guardVal g s = true → Quiet (me s) → MemInv s →
    OwnAccess s (memSeg s m) (memOffset s m) (sizeBytes sz) (alignOf o (sizeBytes sz)) .store a ks →
    exec (.st g h sz o d m) s = .next t → OnlyStores s t none ks) ∧
  (∀ g h sz o mk d m s a ks t, guardVal g s = true → Quiet (me s) → MemInv s →
    OwnAccess s (memSeg s m) (memOffset s m) 64 (alignOf o 64) .store a ks →
    exec (.stv g h sz o mk d m) s = .next t → OnlyStores s t none ks) ∧
  (∀ g h hi o d m s a ks t, guardVal g s = true → Quiet (me s) → MemInv s → tagOf (segBase (memSeg s m)) ≠ 1 →
    OwnAccess s (memSeg s m) (memOffset s m) 1 1 .store a ks →
    exec (.stn g h hi o d m) s = .next t → OnlyStores s t none ks) ∧
  (∀ g h (sz : Size) o, sz = .w ∨ sz = .d →
    (let n := sizeBytes sz
     AtomicFrame (.aadd g h sz o) g n ∧ AtomicFrame (.aand g h sz o) g n ∧ AtomicFrame (.aor g h sz o) g n ∧
     AtomicFrame (.axor g h sz o) g n ∧ AtomicFrame (.amin g h sz o) g n ∧ AtomicFrame (.amax g h sz o) g n ∧
     AtomicFrame (.aminu g h sz o) g n ∧ AtomicFrame (.amaxu g h sz o) g n ∧ AtomicFrame (.axch g h sz o) g n ∧
     AtomicFrame (fun d m b => .acas g h sz o (d.getD 0) m b) g n)) ∧
  (∀ g h f o, f = .f32 ∨ f = .bf16 ∨ f = .f16 →
    AtomicFrame (.afadd g h f o) g (f.width / 8) ∧ AtomicFrame (.afmin g h f o) g (f.width / 8) ∧
    AtomicFrame (.afmax g h f o) g (f.width / 8)) ∧
  (∀ g h sz sgn o d m s a ks t, guardVal g s = true → Quiet (me s) →
    OwnAccess s (memSeg s m) (memOffset s m) (sizeBytes sz) (alignOf o (sizeBytes sz)) .load a ks →
    exec (.ld g h sz sgn o d m) s = .next t → SameButFound s.cur s t ∧ (∀ r, r ≠ d → rx t r = rx s r) ∧
      me t = { me s with x := (me t).x, pc := (me s).pc + 12, readyAt := (me t).readyAt, wait := none, flight := none }) ∧
  (∀ g h sz o mk d m s a ks t, guardVal g s = true → Quiet (me s) →
    OwnAccess s (memSeg s m) (memOffset s m) 64 (alignOf o 64) .load a ks →
    exec (.ldv g h sz o mk d m) s = .next t → SameButFound s.cur s t ∧ (∀ r, r ≠ d → vGet (me t) r = vGet (me s) r) ∧
      me t = { me s with v := (me t).v, pc := (me s).pc + 12, readyAt := (me t).readyAt, wait := none, flight := none })

/-- An atomic on `n` bytes of the strand's own tile completes: the place receives `new` of the old value and of the low
bytes of X[B], and D, if the form has one, the old value as `ext` extends it (but for what plain loads may still find). -/
def Sys2Proof.AtomicDoes (mk : Option XReg → MemOp → XReg → Instr) (g : Guard) (n : Nat) (new : Nat → Nat → Nat)
    (ext : Nat → Word) : Prop :=
  ∀ d m b s a ks, guardVal g s = true → OwnAccess s (memSeg s m) (memOffset s m) n n .atomic a ks →
    CompletesFrom (exec (mk d m b) s) (wxo d (ext (readNat s ks))
      (writeNat ks (new (readNat s ks) ((rx s b).toNat % 2 ^ (8 * n))) (readyIn 4 s)))

/-- On the strand's own tile each atomic completes: the place receives the result of the operation on its old value
and X[B], D (unless .NR) the old value, sign-extended for AMIN and AMAX; ACAS writes X[B] only when the old value
equals X[D], and D receives the old value in both cases. -/
def Obligations.AtomicsReadAndUpdateOnePlace : Prop :=
  (∀ g h (sz : Size) o, sz = .w ∨ sz = .d →
    (let n := sizeBytes sz
     let z (v : Nat) := BitVec.ofNat 64 v
     let x (v : Nat) := (BitVec.ofNat (8 * n) v).signExtend 64
     let i (v : Nat) : Int := (BitVec.ofNat (8 * n) v).toInt
     AtomicDoes (.aadd g h sz o) g n (fun a b => (a + b) % 2 ^ (8 * n)) z ∧
     AtomicDoes (.aand g h sz o) g n (fun a b => a &&& b) z ∧
     AtomicDoes (.aor g h sz o) g n (fun a b => a ||| b) z ∧
     AtomicDoes (.axor g h sz o) g n (fun a b => a ^^^ b) z ∧
     AtomicDoes (.amin g h sz o) g n (fun a b => if i b < i a then b else a) x ∧
     AtomicDoes (.amax g h sz o) g n (fun a b => if i a < i b then b else a) x ∧
     AtomicDoes (.aminu g h sz o) g n (fun a b => min a b) z ∧
     AtomicDoes (.amaxu g h sz o) g n (fun a b => max a b) z ∧
     AtomicDoes (.axch g h sz o) g n (fun _ b => b) z)) ∧
  (∀ g h f o, f = .f32 ∨ f = .bf16 ∨ f = .f16 →
    (let n := f.width / 8
     let z (v : Nat) := BitVec.ofNat 64 v
     AtomicDoes (.afadd g h f o) g n (fun a b => roundFloat f .rne false 0 (addEx false (decFloat f a) (decFloat f b))) z ∧
     AtomicDoes (.afmin g h f o) g n (fminmax f false) z ∧
     AtomicDoes (.afmax g h f o) g n (fminmax f true) z)) ∧
  (∀ g h (sz : Size) o d m b s a ks, sz = .w ∨ sz = .d → guardVal g s = true →
    OwnAccess s (memSeg s m) (memOffset s m) (sizeBytes sz) (sizeBytes sz) .atomic a ks →
    (readNat s ks = (rx s d).toNat % 2 ^ (8 * sizeBytes sz) → CompletesFrom (exec (.acas g h sz o d m b) s)
      (wx d (BitVec.ofNat 64 (readNat s ks))
        (writeNat ks ((rx s b).toNat % 2 ^ (8 * sizeBytes sz)) (readyIn 4 s)))) ∧
    (readNat s ks ≠ (rx s d).toNat % 2 ^ (8 * sizeBytes sz) → CompletesFrom (exec (.acas g h sz o d m b) s)
      (wx d (BitVec.ofNat 64 (readNat s ks)) (readyIn 4 s))))

/-- A load of bytes outside the strand's own tile stays in flight until its reply, which completes it with the bytes
then read, after the handed-off accesses that must come first; a plain store completes at once and stands in the order
of the strand's handed-off accesses until it is performed, when it leaves that list (and only performed accesses leave
it). While no host link is up an access to a host page enters PAGED with kind 5 instead, and one behind a handed-off access
that waits for a link stays in flight. A .REL access waits for all that its strand has handed off. -/
def Obligations.AccessesElsewhereAreHandedOffOrInFlight : Prop :=
  (∀ g h sz sgn o d m s a ks ord u, guardVal g s = true →
    check s (memSeg s m) (memOffset s m) (sizeBytes sz) (alignOf o (sizeBytes sz)) .load = .ok a →
    access a (sizeBytes sz) false (memSeg s m) s = .ok ⟨.bytes ks, ord, u⟩ → ownTile u ks = false →
    exec (.ld g h sz sgn o d m) s = .next (enqueue (.memoryReply u.cur none)
      (inFlight (.mem (.ld g h sz sgn o d m) [⟨0, a, ks⟩] (ordRel o) ord) u))) ∧
  (∀ g h sz d m s a ks ord u, guardVal g s = true →
    check s (memSeg s m) (memOffset s m) (sizeBytes sz) 1 .store = .ok a →
    access a (sizeBytes sz) true (memSeg s m) s = .ok ⟨.bytes ks, ord, u⟩ → ownTile u ks = false →
    exec (.st g h sz .plain d m) s = .next (next (enqueue (.memoryReply u.cur (some 0)) (readyIn 3
      { u with pend := u.pend ++ [⟨u.cur, .st g h sz .plain d m, [⟨0, a, ks⟩], rx u d, 0, 0, ord == 0⟩] })))) ∧
  (∀ e s i lanes rel ord, (getStrand s (skey e)).flight = some (.mem i lanes rel ord) →
    (let ks := lanes.flatMap (·.keys)
     let u := if rel then drainAll e s else drainFor e ks (ord == 0) s
     let behind := u.pend.any fun p => p.e == e && (rel || comesFirst e ks (ord == 0) p)
     ((∀ g m, i ≠ .tjoin g m) → hostDown u = false ∨ ks.any isHostPa = false → behind = false →
       exec (.memoryReply e none) s = .next (completeMem i lanes ord (readyIn 1 (asStrand e u)))) ∧
     (hostDown u = false ∨ ks.any isHostPa = false → behind = true → exec (.memoryReply e none) s = .next u) ∧
     (hostDown u = true → ks.any isHostPa = true →
       exec (.memoryReply e none) s = .next (goPaged i (hostLane lanes) 5 (!isLoad i) (asStrand e u))))) ∧
  (∀ e k s q, hostDown s = false → (s.pend.filter fun p => p.e == e)[k]? = some q →
    ∃ t, exec (.memoryReply e (some k)) s = .next t ∧ t.pend.length < s.pend.length ∧ ∀ p, p ∈ t.pend → p ∈ s.pend) ∧
  (∀ g h sz sgn o d m a ks ord (s : State), (∀ p, p ∈ s.pend → p.e ≠ s.cur) → poisonRead s ks = none →
    ∃ bs u, completeMem (.ld g h sz sgn o d m) [⟨0, a, ks⟩] ord s = next (wx d
        (if sgn then (BitVec.ofNat (8 * sizeBytes sz) (bytesNat bs)).signExtend 64 else BitVec.ofNat 64 (bytesNat bs)) u) ∧
      ButFound s u ∧ bs.length = ks.length ∧ (∀ j, j < ks.length → FindsByte s (ks.getD j 0) (bs.getD j 0)) ∧
      (s.olds = [] ∨ ord = 0 ∨ o ≠ .plain → bs = readKeys s ks))

/-- A FENCE with nothing outstanding advances the PC, and one that is no FENCE.REL lets the strand find no older value of the
writes that it names (log entry 87); otherwise the strand waits in WAITF until, at an acknowledgement, nothing remains; a fence
that names path S waits while an access of its strand is not performed. -/
def Obligations.FenceWaitsForWhatItNames : Prop :=
  (∀ g o mask scope s, guardVal g s = true → fenceWaits s s.cur o mask scope = false →
    exec (.fence g o mask scope) s =
      .next (next (if o = .rel then s else acquire s.cur (fenceNames mask scope.toNat s.cur) s)) ∧
    (∀ x, x ∈ (acquire s.cur (fenceNames mask scope.toNat s.cur) s).olds →
      fenceNames mask scope.toNat s.cur x = true → mayFind s.cur x = false)) ∧
  (∀ g o mask scope s, guardVal g s = true → fenceWaits s s.cur o mask scope = true →
    ∃ t, exec (.fence g o mask scope) s = .next t ∧ (me t).run = .waitf ∧ (me t).pc = (me s).pc ∧ t.mem = s.mem) ∧
  (∀ e f g o mask scope n k s, (getStrand s (skey e)).wait = some ⟨.fence f, .fence g o mask scope, n, k⟩ →
    (fenceWaits s f o mask scope = true → exec (.fenceComplete e) s = .next s) ∧
    (fenceWaits s f o mask scope = false → ∃ u, exec (.fenceComplete e) s = .next (next u) ∧
      ButFound (endWait e (asStrand e s)) u)) ∧
  (∀ s e mask scope, mask.getLsbD 0 = true → (∃ p, p ∈ s.pend ∧ p.e = e) → ∀ o, fenceWaits s e o mask scope = true)

/-- A load that meets a poisoned word raises UNCORR with its address; the report of a store that met poison logs it,
writing no byte outside the log area of its die, and starts the recovery of the strand's booth; a write clears the
poison of exactly the words all of whose bytes it writes. -/
def Obligations.PoisonStopsLoadsAndIsReported : Prop :=
  (∀ g h sz sgn o d m a ks so w (s : State), (∀ p, p ∈ s.pend → p.e ≠ s.cur) → poisonRead s ks = some w →
    completeMem (.ld g h sz sgn o d m) [⟨0, a, ks⟩] so s = raiseLate .uncorr (poisonAddr ⟨0, a, ks⟩ w) s) ∧
  (∀ e addr s, ∃ t, exec (.poisonReport e addr) s = .next t ∧
    t.internal = s.internal ++ [recoveryOf s e.site] ∧ ((getTile s e.site).booth ≠ 0 →
      t.internal = s.internal ++ [.boothRecovery (getTile s e.site).job.toNat (getTile s e.site).booth]) ∧
    t.strands = s.strands ∧ (MemInv s → ∀ k, logKey s (dieOf e.site) k = false → readByte t k = readByte s k)) ∧
  (∀ l (s : State) w, w ∈ (writeBytes l s).poison ↔
    w ∈ s.poison ∧ ¬(∀ k, k ∈ keysFrom w 8 → k ∈ l.map (·.1)))


/-! ### Class 8: queues -/

/-- With a usable handle: a push that the queue admits completes (a QPUSH.REL once all that its strand has handed off is
performed); a pop or peek that finds an entry completes with the entry in D and its kind and payload in B (a pop of a marker
without a kind register raises QUEUE, and a poisoned entry UNCORR with its address); what must wait waits in WAITQ, or
completes with predicate 0 in a .TRY form; QMARK marks the queue that its handle or its output port names; QSTAT and QBIND
complete. A stale handle raises HANDLE. A result on its way to an output port is pushed when its instruction completes. (A pop
or marker that lets the booth pass an edge also passes it: see the round edge.) -/
def Obligations.QueueInstructionsComplete : Prop :=
  ∀ (g : Guard) (a b d : XReg) (s : State), guardVal g s = true →
    (let h := regHandle s a
     let k := qkeyOf h
     (∀ (o : Option PReg) (rel : Bool) (v : XV), useFail s s.cur false h = none →
       (let u := if rel then drainAll s.cur s else s
        let booth := (myTile u).booth
        let r := pushReady u k .data (.strand (skey u.cur)) booth
        (rel = true → unperformed u u.cur = true →
          exec (.qpush g o rel a v) s = .next (inFlight (.held (.qpush g o rel a v)) u)) ∧
        ((rel = true → unperformed u u.cur = false) →
        (r.1 = true → exec (.qpush g o rel a v) s = .next (next (wTry o true
          (push k .data (pushBytes u (entryBytes (getQueue u k)) v) (.strand (skey u.cur)) booth u)))) ∧
        (r.1 = false → ∀ p, exec (.qpush g (some p) rel a v) s = .next (next (wp p false r.2))) ∧
        (r.1 = false → exec (.qpush g none rel a v) s =
          .next (waitFor .waitq (.queue k []) (.qpush g none rel a v) 0 r.2))))) ∧
     (∀ (o : Option PReg) (acq : Bool) (v : XV), useFail s s.cur true h = none →
       (mayPop s k (skey s.cur) = false →
         (∀ p, exec (.qpop g (some p) acq v a b) s = .next (next (wp p false s))) ∧
         (∀ p, exec (.qpeek g (some p) acq v a b) s = .next (next (wp p false s))) ∧
         exec (.qpop g none acq v a b) s = .next (waitFor .waitq (.queue k []) (.qpop g none acq v a b) 0 s) ∧
         exec (.qpeek g none acq v a b) s = .next (waitFor .waitq (.queue k []) (.qpeek g none acq v a b) 0 s)) ∧
       (mayPop s k (skey s.cur) = true → (headEntry s (getQueue s k)).1 ≠ .data → b = 0 →
         exec (.qpop g o acq v a b) s = .next (raiseLate .queue (h.zeroExtend 64) s)) ∧
       (mayPop s k (skey s.cur) = true → poisonRead s (ringKeys (getQueue s k) (getQueue s k).head) = none →
         (let en := headEntry s (getQueue s k)
          let u := if acq then acquireS s.cur s else s
          exec (.qpeek g o acq v a b) s =
            .next (next (wTry o true (wx b (kindWord en.1 en.2) (writeEntry v en.2 u)))) ∧
          (en.1 = .data ∨ b ≠ 0 →
            (let t := wTry o true (wx b (kindWord en.1 en.2) (writeEntry v en.2 (pop k u).2))
             edgeOf t (boothOf t t.cur.site) = none → exec (.qpop g o acq v a b) s = .next (next t))))) ∧
       (∀ w, mayPop s k (skey s.cur) = true → poisonRead s (ringKeys (getQueue s k) (getQueue s k).head) = some w →
         exec (.qpeek g o acq v a b) s = .next (raiseLate .uncorr (localAbs w) s) ∧
         ((headEntry s (getQueue s k)).1 = .data ∨ b ≠ 0 →
           exec (.qpop g o acq v a b) s = .next (raiseLate .uncorr (localAbs w) s)))) ∧
     (∀ (kind : QKind) (n : Fin 2) (v : XOpnd),
       (∀ c w, portFail s [] [n] = some (c, w) → exec (.qmark g kind (.oq n) v) s = .next (raise c w s)) ∧
       (portFail s [] [n] = none →
         (let q := oqKey s n
          let booth := (myTile s).booth
          let r := pushReady s q kind (.strand (skey s.cur)) booth
          let t := push q kind (natBytes 4 (rxo s v).toNat) (.strand (skey s.cur)) booth s
          (r.1 = true → edgeOf t (boothOf t t.cur.site) = none → exec (.qmark g kind (.oq n) v) s = .next (next t)) ∧
          (r.1 = false → exec (.qmark g kind (.oq n) v) s =
            .next (waitFor .waitq (.queue q []) (.qmark g kind (.oq n) v) 0 r.2))))) ∧
     (∀ (kind : QKind) (v : XOpnd), useFail s s.cur false h = none →
       (let booth := (myTile s).booth
        let r := pushReady s k kind (.strand (skey s.cur)) booth
        let t := push k kind (natBytes 4 (rxo s v).toNat) (.strand (skey s.cur)) booth s
        (r.1 = true → edgeOf t (boothOf t t.cur.site) = none → exec (.qmark g kind (.x a) v) s = .next (next t)) ∧
        (r.1 = false → exec (.qmark g kind (.x a) v) s =
          .next (waitFor .waitq (.queue k []) (.qmark g kind (.x a) v) 0 r.2)))) ∧
     (∀ (sel : QSel), clusterFail s h = none →
       (let q := getQueue s k
        exec (.qstat g sel d a) s = .next (next (wx d (qstatValue s k sel) s)) ∧
        (q.mcast = false → qstatValue s k .depth = BitVec.ofNat 64 (q.commit - q.head) ∧
          qstatValue s k .space = BitVec.ofNat 64 (q.cap - (q.tail - q.keep)) ∧
          qstatValue s k .cnt = BitVec.ofNat 32 q.tail ++ BitVec.ofNat 32 q.head ∧
          qstatValue s k .cmt = BitVec.ofNat 32 q.commit ++ BitVec.ofNat 32 q.keep ∧
          (q.head = q.commit → qstatValue s k .headk = 4) ∧
          (q.head ≠ q.commit → q.head < q.tail - q.spilled →
            qstatValue s k .headk = BitVec.ofNat 64 (kindCode (headEntry s q).1))))) ∧
     (∀ e c n v b, (getStrand s (skey e)).flight = some (.push n v) → oqBind (asStrand e s) n = some b →
       (let q := qkeyOf b.handle
        let r := pushReady (asStrand e s) q .data (.strand (skey e)) (getTile s e.site).booth
        r.1 = true → completeFlight e c s =
          next (push q .data (natBytes 8 v.toNat) (.strand (skey e)) (getTile s e.site).booth r.2))) ∧
     (∀ (port : Fin 4) (v : XOpnd),
       (h = 0 → (port.val < 2 → vecOk ((rxo s v).extractLsb' 0 32) = true) → exec (.qbind g port a v) s =
         .next (next (modMe (fun t => { t with ports := t.ports.set port none }) s))) ∧
       (h ≠ 0 → useFail s s.cur (port.val < 2) h = none →
         (port.val < 2 → vecOk ((rxo s v).extractLsb' 0 32) = true) → exec (.qbind g port a v) s =
         .next (next (modMe (fun t =>
           { t with ports := t.ports.set port (some ⟨h, (rxo s v).extractLsb' 0 32⟩) }) s)))) ∧
     ((handleFail s (myTile s).job h = some .handle →
        (∀ o rel v, exec (.qpush g o rel a v) s = .next (raise .handle (h.zeroExtend 64) s)) ∧
        (∀ o acq v, exec (.qpop g o acq v a b) s = .next (raise .handle (h.zeroExtend 64) s)) ∧
        (∀ o acq v, exec (.qpeek g o acq v a b) s = .next (raise .handle (h.zeroExtend 64) s)) ∧
        (∀ kind v, exec (.qmark g kind (.x a) v) s = .next (raise .handle (h.zeroExtend 64) s)) ∧
        (∀ sel, exec (.qstat g sel d a) s = .next (raise .handle (h.zeroExtend 64) s)))))

/-- On an ordinary queue whose ring has room a push writes the entry and its kind at TAIL, from where they read back,
and advances TAIL, and COMMIT unless the queue is staged; the payload of a BELL that a strand pushes is the round number
plus one. A pop takes the entry at HEAD and advances HEAD, and KEEP unless staged; a popped marker changes the input
state by its kind. No other queue changes, and of the queue itself a push changes nothing else but the record of its pushers
and markers, a pop with nothing spilled nothing else but that of its pushers; a push writes no other byte, and a pop with
nothing spilled none. -/
def Obligations.PushAndPopMoveOneEntry : Prop :=
  (∀ (k : Nat) (kind : QKind) (bs : List Byte) (by_ : Pusher) (booth : Nat) (s : State),
    (let q := getQueue s k
     let t := push k kind bs by_ booth s
     MemInv s → q.mcast = false → q.twin = false → 0 < q.slots → inRing q q.tail = true → q.spilled = 0 →
      (getQueue t k).tail = q.tail + 1 ∧ (getQueue t k).head = q.head ∧ (getQueue t k).keep = q.keep ∧
      (getQueue t k).commit = (if q.stage then q.commit else q.tail + 1) ∧
      (readRing (getQueue t k) q.tail t).1 = kind ∧
      (kind ≠ .bell ∨ by_.key = none → (readRing (getQueue t k) q.tail t).2 = fitBytes (entryBytes q) bs) ∧
      (kind = .bell → by_.key ≠ none → payload (readRing (getQueue t k) q.tail t).2 =
        BitVec.ofNat 32 ((getBooth s (bkey q.job booth)).round + 1)) ∧
      (∀ n, n ≠ k → getQueue t n = getQueue s n) ∧
      getQueue t k = { q with
        tail := q.tail + 1, commit := if q.stage then q.commit else q.tail + 1,
        pushers := (getQueue t k).pushers, marks := (getQueue t k).marks } ∧
      (∀ a, a ∉ ringKeys q q.tail → a ≠ kindKey q q.tail → readByte t a = readByte s a) ∧
      t.strands.map (·.1) = s.strands.map (·.1) ∧
      (∀ e, (getStrand t e).x = (getStrand s e).x ∧ (getStrand t e).pc = (getStrand s e).pc))) ∧
  (∀ (k : Nat) (s : State),
    (let q := getQueue s k
     let r := pop k s
     r.1 = headEntry s q ∧ (getQueue r.2 k).head = q.head + 1 ∧ (getQueue r.2 k).tail = q.tail ∧
      (getQueue r.2 k).commit = q.commit ∧ (getQueue r.2 k).keep = (if q.stage then q.keep else q.head + 1) ∧
      (getQueue r.2 k).inSt = (if q.cbooth = 0 then q.inSt else match r.1.1 with
        | .data => q.inSt
        | .bell => .belled
        | .shutter => if (payload r.1.2).toNat % 65536 = q.cbooth then .shut else .belled
        | .stop => .ended) ∧
      (q.spilled = 0 → r.2.mem = s.mem ∧ getQueue r.2 k = { q with
        head := q.head + 1, keep := if q.stage then q.keep else q.head + 1,
        inSt := (getQueue r.2 k).inSt, pushers := (getQueue r.2 k).pushers }) ∧
      (∀ n, n ≠ k → getQueue r.2 n = getQueue s n)))

/-- QDEF reads a descriptor and completes: where `QDesc.reason` finds a reason of R290 it writes its number to D[63:32]; else
an entry of the job's grant that is free, or killed and named no more, becomes an OPEN, empty queue with the descriptor's
values, a head with its branches marked, and D receives its handle (which of several free entries it takes is the model's
choice, log entry 40, and when a killed one is released log entry 67). QKILL completes, after which every use of the handle is
refused. A waiting push that the queue now admits completes. A HELD queue with nothing spilled goes back to OPEN with its
entries. An ordinary edge counts the round, commits every output's entries, keeps every input from HEAD on and opens the
belled inputs. Of two equal twin entries one is pushed; two that differ are discarded, and the third such time in a round
leaves the queue HELD. -/
def Obligations.QueueDefinitionRemovalAndEvents : Prop :=
  ((∀ (g : Guard) (d : XReg) (m : MemOp) (s : State) (a : Word), guardVal g s = true → s.pend = [] →
    checkLocal s m 32 32 .load = .ok a →
    (let mc := (BitVec.ofNat 256 (readNat s (localKeys s a 32))).getLsbD 9
     let ks := localKeys s a (if mc then 64 else 32)
     let q := QDesc.ofBits (BitVec.ofNat 512 (readNat s ks))
     let u := releaseKilled s
     (mc = true → checkLocal s m 64 32 .load = .ok a) → poisonRead s ks = none →
     (q.reason u ≠ 0 →
       exec (.qdef g d m) s = .next (next (wx d (BitVec.ofNat 64 (q.reason u * 2 ^ 32)) u))) ∧
     (q.reason u = 0 → ∃ k t, q.index u = some k ∧
       exec (.qdef g d m) s = .next (next (wx d ((handleOf k (nextGen (getQueue u k))).zeroExtend 64) t)) ∧
       (getQueue u k).st = .free ∧ t.mem = s.mem ∧ t.strands = s.strands ∧
       (let e := getQueue t k
        (q.mcast = false ∨ k ∉ q.brs.map qkeyOf →
          e.st = .open_ ∧ e.gen = max 1 (getQueue u k).gen ∧ e.job = (myTile s).job ∧ e.cap = q.cap ∧ e.flow = q.flow ∧
          e.replay = q.replay ∧ e.esize = q.esize ∧ e.type = q.type ∧ e.prio = q.prio ∧ e.stage = q.stage ∧
          e.mcast = q.mcast ∧ e.slots = q.slots ∧ e.spill = q.spill ∧ e.spsize = q.spsize ∧ e.pbooth = q.pbooth ∧
          e.cbooth = q.cbooth ∧ e.brs = q.brs ∧ e.head = 0 ∧ e.tail = 0 ∧ e.commit = 0 ∧ e.keep = 0) ∧
        (∀ n, n ∈ q.brs.map qkeyOf → (getQueue t n).branch = true) ∧
        (∀ n, n ≠ k → n ∉ q.brs.map qkeyOf → getQueue t n = getQueue u n))))) ∧
  (∀ (g : Guard) (a : XReg) (s : State), guardVal g s = true →
    (let h := regHandle s a
     (∀ c, clusterFail s h = some c → exec (.qkill g a) s = .next (raise c (h.zeroExtend 64) s)) ∧
     (clusterFail s h = none → (getQueue s (qkeyOf h)).branch = true →
       exec (.qkill g a) s = .next (raise .queue (h.zeroExtend 64) s)) ∧
     (clusterFail s h = none → (getQueue s (qkeyOf h)).branch = false →
       exec (.qkill g a) s = .next (next (killQueue h s)) ∧
       (∀ job, (handleFail (killQueue h s) job h).isSome = true))))) ∧
  ((∀ (k : Nat) (s : State), (getQueue s k).owed = [] → (getQueue s k).st ≠ .killed →
    (queueWaiters k s = [] → exec (.queueWaitResume k) s = .next s) ∧
    (∀ e g rel a v n m, queueWaiters k s = [e] →
      (getStrand s (skey e)).wait = some ⟨.queue k [], .qpush g none rel a v, n, m⟩ →
      (let s1 := modMe (fun t => { t with run := .run, readyAt := (getTile s e.site).cycle + 1 }) (asStrand e s)
       let u := if rel then drainAll s1.cur s1 else s1
       let q := qkeyOf (regHandle s1 a)
       (rel = true → unperformed u u.cur = false) →
       guardVal g s1 = true → useFail s1 s1.cur false (regHandle s1 a) = none →
       (pushReady u q .data (.strand (skey u.cur)) (myTile u).booth).1 = true →
       exec (.queueWaitResume k) s = .next (next
         (push q .data (pushBytes u (entryBytes (getQueue u q)) v) (.strand (skey u.cur)) (myTile u).booth u))))) ∧
  (∀ (k : Nat) (s : State),
    (roleHeld s (qcluster k / 8) 1 = false → (getQueue s k).st ≠ .held → exec (.queueHeldEnd k) s = .next s) ∧
    (roleHeld s (qcluster k / 8) 1 = false → (getQueue s k).st = .held → (getJob s (getQueue s k).job).frozen = false →
      ∃ t, exec (.queueHeldEnd k) s = .next t ∧ (getQueue t k).head = (getQueue s k).head ∧
        (getQueue t k).tail = (getQueue s k).tail ∧ (getQueue t k).commit = (getQueue s k).commit ∧
        ((getQueue s k).spilled = 0 → (getQueue t k).st = .open_ ∧ t.mem = s.mem))) ∧
  (∀ (job booth : Nat) (s : State),
    (let bk := 65536 * job + booth
     (edgeOf s bk = none → exec (.roundEdge job booth) s = .next s) ∧
     (edgeOf s bk = some .ordinary → (∀ p, p ∈ s.queues → p.2.owed = []) →
       ∃ t, exec (.roundEdge job booth) s = .next t ∧ (getBooth t bk).round = (getBooth s bk).round + 1 ∧
         ∀ k, (isInput bk (getQueue s k) = true → (getQueue t k).keep = (getQueue s k).head ∧
             (getQueue t k).inSt = (if (getQueue s k).inSt = .belled then .open_ else (getQueue s k).inSt)) ∧
           (isOutA bk (getQueue s k) = true → (getQueue s k).twin = false →
             (getQueue t k).commit = (getQueue s k).tail ∧ (getQueue t k).marks = []) ∧
           (getQueue t k).head = (getQueue s k).head ∧ (getQueue t k).tail = (getQueue s k).tail))) ∧
  (∀ (k : Nat) (s : State) ka kb pa pb ba bb ra rb,
    (let q := getQueue s k
     q.st = .open_ → q.twin = true → q.twinA = (ka, pa, ba) :: ra → q.twinB = (kb, pb, bb) :: rb →
     (ka = kb → ba = bb → MemInv s → inRing q q.tail = true → q.spilled = 0 → 0 < q.slots →
       ba.length = entryBytes q →
       ∃ t, exec (.twinCompare k) s = .next t ∧ (getQueue t k).twinA = ra ∧ (getQueue t k).twinB = rb ∧
         (getQueue t k).tail = q.tail + 1 ∧ readRing (getQueue t k) q.tail t = (ka, ba)) ∧
     (ka ≠ kb ∨ ba ≠ bb → ∃ t, exec (.twinCompare k) s = .next t ∧ (getQueue t k).twinA = [] ∧ (getQueue t k).twinB = [] ∧
       (getQueue t k).differ = q.differ + 1 ∧
       (getQueue t k).st = (if 3 ≤ q.differ + 1 then .held else .open_)))))


/-! ### Class 9: tasks and futures -/

/-- While the ring of a tile's ready queue has room a record spawned stands last of its priority, its 16 bytes in a slot of
the ring that no record holds; a pop takes the oldest of the lowest-numbered priority with records, or of priority 3 after
63 pops without it, and reads it from its bytes (stated for a queue with nothing spilled). TSPAWN, TEND, TNEXT and TJOIN
complete, wait or raise as the rules say, an asynchronous trap that is due coming before a pop; a record started sets PC,
x1 and x30 from itself, keeps every other register, and TJOIN goes on only when its counter reaches 0. -/
def Obligations.TasksEnterAndLeaveTheReadyQueue : Prop :=
  (∀ (site p : Nat) (r : BitVec 128) (s : State), MemInv s → p < 4 →
    (let t := getTile s site
     (t.rqHeld = true → appendReady site p r s = (false, s)) ∧
     (t.rqHeld = false → readyLocal t < 512 → spillHeld t p = 0 →
       ∃ k u, appendReady site p r s = (true, u) ∧ k < 512 ∧ (∀ q, q < 4 → k ∉ readySlots t q) ∧
         readySlots (getTile u site) p = readySlots t p ++ [k] ∧
         (∀ q, q < 4 → q ≠ p → readySlots (getTile u site) q = readySlots t q) ∧
         readNat u (readyKeys site k) = r.toNat ∧ (∀ a, a ∉ readyKeys site k → readByte u a = readByte s a)))) ∧
  ((∀ t p, popPrio t = some p → readyCount t p ≠ 0 ∧ ((p = 3 ∧ 63 ≤ t.guard) ∨ ∀ q, q < p → readyCount t q = 0)) ∧
   (∀ (s : State) p k l, popPrio (myTile s) = some p → readySlots (myTile s) p = k :: l →
    (∀ q, q < 4 → spillHeld (myTile s) q = 0) →
    ∃ u, popReady s = (some ⟨p, BitVec.ofNat 128 (readNat s (readyKeys s.cur.site k)),
        poisonRead s (readyKeys s.cur.site k)⟩, u) ∧
      readySlots (getTile u s.cur.site) p = l ∧
      (∀ q, q < 4 → q ≠ p → readySlots (getTile u s.cur.site) q = readySlots (myTile s) q) ∧
      u.strands = s.strands ∧ u.mem = s.mem)) ∧
  (∀ (g : Guard) (prio : Fin 4) (a b c : XReg) (s : State), guardVal g s = true →
    (let i : Instr := .tspawn g prio a b c
     let r := mkRecord (rx s a) (rx s b) ((rx s c).extractLsb' 0 32)
     (targetOk (rx s a) = false → exec i s = .next (raise .addr (rx s a) s)) ∧
     (targetOk (rx s a) = true → s.pend = [] → readyWaiters s.cur.site s = [] → ∀ u,
       (appendReady s.cur.site prio.val r s = (true, u) → exec i s = .next (next u)) ∧
       (appendReady s.cur.site prio.val r s = (false, u) → exec i s = .next (waitFor .waitq .ready i 0 u))))) ∧
  (∀ (g : Guard) (pd : PReg) (s : State), guardVal g s = true →
    ((me s).task = false ∨ (me s).handler = true → exec (.tend g) s = .next (raise .illegal (me s).pc s)) ∧
    ((me s).handler = true → ∀ o, exec (.tnext g o) s = .next (raise .illegal (me s).pc s)) ∧
    ((me s).handler = false → readyWaiters s.cur.site s = [] →
      (asyncDue s = true → (popPrio (myTile s)).isSome = true →
        ((me s).task = true → exec (.tend g) s = .next (trapFirst s)) ∧ ∀ o, exec (.tnext g o) s = .next (trapFirst s)) ∧
      (asyncDue s = false ∨ popPrio (myTile s) = none →
        (∀ u, popReady s = (none, u) →
          ((me s).task = true → exec (.tend g) s = .next (waitFor .waitq .ready (.tend g) 0 u)) ∧
          exec (.tnext g none) s = .next (waitFor .waitq .ready (.tnext g none) 0 u) ∧
          exec (.tnext g (some pd)) s = .next (next (wp pd false u))) ∧
        (∀ r u, popReady s = (some r, u) →
          ((me s).task = true → exec (.tend g) s = .next (startRecord r u)) ∧
          exec (.tnext g none) s = .next (startRecord r u) ∧
          exec (.tnext g (some pd)) s = .next (startRecord r (if r.bad.isSome then u else wp pd true u)))))) ∧
  (∀ (r : Popped) (s : State),
    (∀ k, r.bad = some k → isLocalKey k = true → startRecord r s = raiseLate .uncorr (localAbs k) s) ∧
    (r.bad = none → recBad r.rec_ = false → Quiet (me s) →
      (let t := startRecord r s
       (me t).pc.toNat = r.rec_.toNat % 2 ^ 18 ∧ rx t 1 = (r.rec_.extractLsb' 96 32).zeroExtend 64 ∧
       rx t 30 = r.rec_.extractLsb' 32 64 ∧ (me t).task = true ∧ (me t).run = .run ∧ (me t).hprio = r.prio ∧
       (∀ x, x ≠ 0 → x ≠ 1 → x ≠ 30 → rx t x = rx s x) ∧ (me t).v = (me s).v ∧ (me t).seg = (me s).seg ∧
       SameButFound s.cur s t))) ∧
  (∀ (g : Guard) (m : MemOp) (s : State) (a : Word) (ks : List Nat), guardVal g s = true → MemInv s →
    (me s).handler = false → (me s).task = true → s.pend = [] → checkLocal s m 8 8 .atomic = .ok a →
    localKeys s a 8 = ks → ks ≠ [] → ownTile s ks = true → poisonRead s ks = none →
    (readNat s ks = 1 → CompletesFrom (exec (.tjoin g m) s) (writeNat ks 0 (readyIn 4 s))) ∧
    (readNat s ks ≠ 1 → readyWaiters s.cur.site s = [] → ∃ u, exec (.tjoin g m) s =
        .next (endTask (.tjoin g m) .record u) ∧
      ButFound (writeNat ks ((readNat s ks + (2 ^ 64 - 1)) % 2 ^ 64) (readyIn 4 s)) u))

/-- An arrived record goes to the strand that waits; HELD ends with the records kept; a balance tick sends the
tile's figure to each neighbour, discards the snapshots, and gives a neighbour with fewer records min(8, a quarter
of the difference) of them, priorities 2 and 3 only; a migrated record is appended at its destination, or at its
sender when the booth has changed, and kept there while that queue is HELD; the poison of its bytes goes with it. -/
def Obligations.TaskEvents : Prop :=
  (∀ (site : Nat) (s : State) w r u, readyWaiters site s = [w] → popWaits (asStrand w s) = false →
    popReady (asStrand w s) = (some r, u) →
    exec (.readyRecordArrival site) s = .next (asStrand s.cur (startRecord r (endWait w u)))) ∧
  (∀ (site kib : Nat) (s : State),
    (let t := getTile s site
     roleHeld s (dieOf site) 1 = false →
     (t.rqHeld = false → exec (.readyQueueHeldEnd site kib) s = .next s) ∧
     (t.rqHeld = true → t.rqKept = [] → spawnWaiters site s = [] → readyWaiters site s = [] →
       (getJob s t.job).frozen = false → (∀ p, p < 4 → spillHeld t p = 0) → 0 < max t.rqSpillKib (min 1024 kib) →
       ∃ u, exec (.readyQueueHeldEnd site kib) s = .next u ∧ (getTile u site).rqHeld = false ∧
         (getTile u site).rqSpillKib = max t.rqSpillKib (min 1024 kib) ∧
         (∀ p, readySlots (getTile u site) p = readySlots t p) ∧ u.strands = s.strands ∧ u.mem = s.mem))) ∧
  (∀ (site : Nat) (s : State), ∃ t, exec (.balanceTick site) s = .next t ∧
    (getTile t site).snaps = Vector.replicate 4 none ∧
    ((getTile s site).rqHeld = true → t.internal = s.internal ∧ t.strands = s.strands ∧ t.mem = s.mem ∧
      ∀ p, readySlots (getTile t site) p = readySlots (getTile s site) p) ∧
    ((getTile s site).rqHeld = false → (getTile s site).snaps = Vector.replicate 4 none →
      t.strands = s.strands ∧ t.mem = s.mem ∧
      (∀ p, readySlots (getTile t site) p = readySlots (getTile s site) p) ∧
      ∀ (d : Fin 4) n, neighbour s site d.val = some n →
        .balanceSnapshotArrival n (d + 2) (migratable (getTile s site)) ∈ t.internal)) ∧
  (∀ (site dir n mine theirs : Nat) (s : State), neighbour s site dir = some n →
    (getTile s site).snaps.toList.getD dir none = some theirs → mine ≤ migratable (getTile s site) →
    (∀ p, p < 4 → spillHeld (getTile s site) p = 0) →
    (let r := serveLink site (mine, s) dir
     let k := if theirs < mine then min 8 ((mine - theirs) / 4) else 0
     r.1 = mine - k ∧ r.2.internal.length = s.internal.length + k ∧
     migratable (getTile r.2 site) = migratable (getTile s site) - k ∧
     readySlots (getTile r.2 site) 0 = readySlots (getTile s site) 0 ∧
     readySlots (getTile r.2 site) 1 = readySlots (getTile s site) 1)) ∧
  (∀ (site n : Nat) (dir : Fin 4) (s : State), ∃ t, exec (.balanceSnapshotArrival site dir n) s = .next t ∧
    (getTile t site).snaps.get dir = some n ∧ t.strands = s.strands ∧ t.internal = s.internal) ∧
  (∀ (site sender : Nat) (prio : Fin 4) (r : BitVec 128) (s : State),
    (let dest := if (getTile s site).booth ≠ 0 ∧ boothOf s site = boothOf s sender then site else sender
     let found := s.moved.find? (·.1 == ⟨site, sender, prio.val, r⟩)
     (found = none →
       (∀ u, appendReady dest prio.val r s = (true, u) → exec (.recordMigrationArrival site sender prio r) s = .next u) ∧
       (∀ u, appendReady dest prio.val r s = (false, u) → exec (.recordMigrationArrival site sender prio r) s =
         .next (modTile dest (fun t => { t with rqKept := t.rqKept ++ [(prio.val, r, [])] }) u))) ∧
     (∀ y, found = some y → exec (.recordMigrationArrival site sender prio r) s =
       .next (deliverTainted dest prio.val r y.2 { s with moved := s.moved.erase y }))))

/-- FNEW takes the first free index or writes bit 32; FSET and FPOISON set an EMPTY future once and deliver its
waiters' records in order, and raise FSTATE for any other; FGET, with .TRY or plain, completes with the value and the state of
a FULL or POISON future, writes the state of an EMPTY one where it does not await, raises FSTATE where it has no register for
the state, or awaits with a record on the list and ends the task; FFREE releases with a new generation, or into quarantine at
the wrap. A stale handle or another job's raises HANDLE. (Stated for a strand that has handed off nothing; what an FGET that
returns a value orders before the strand's later loads is log entry 87.) -/
def Obligations.FuturesAreSetOnceAndRead : Prop :=
  ∀ (g : Guard) (a b d : XReg) (v : XOpnd) (s : State), guardVal g s = true → s.pend = [] →
    (let h := (rx s a).extractLsb' 0 32
     let key := futKey h
     let f := getFuture s key
     let ok := f.gen = futGen h ∧ f.job = (myTile s).job
     let ws := waitersOf s key
     let set (st : FState) :=
       ws.foldl (fun s n => deliverRecord n.2.home n.2.prio n.2.record s)
         (setFuture (dropNodes (ws.map (·.1)) s) key { f with st := st, value := rxo s v, wany := false })
     let stays (tr : Bool) := tr = true ∨ (me s).task = false ∨ (me s).handler = true
     (¬ok →
       exec (.fset g a v) s = .next (raiseFut .handle h s) ∧ exec (.fpoison g a v) s = .next (raiseFut .handle h s) ∧
       (∀ tr, stays tr ∨ a = 1 → exec (.fget g tr d a b) s = .next (raiseFut .handle h s)) ∧
       exec (.ffree g a) s = .next (raiseFut .handle h s)) ∧
     (ok →
       (f.st = .empty →
         (f.wany = false → exec (.fset g a v) s = .next (next (set .full)) ∧
           exec (.fpoison g a v) s = .next (next (set .poison))) ∧
         (f.wany = true →
           exec (.fset g a v) s = .next (next (enqueue (.waiterNodeFree (fld h 27 5)) (set .full))) ∧
           exec (.fpoison g a v) s = .next (next (enqueue (.waiterNodeFree (fld h 27 5)) (set .poison)))) ∧
         (∀ tr, stays tr → (b ≠ 0 → exec (.fget g tr d a b) s = .next (next (wx b 1 s))) ∧
           (b = 0 → exec (.fget g tr d a b) s = .next (raiseFut .fstate h s))) ∧
         (∀ n, (me s).task = true → (me s).handler = false → a = 1 → freeNode s (fld h 27 5) = some n →
           readyWaiters s.cur.site s = [] → exec (.fget g false d a b) s =
             .next (endTask (.fget g false d a b) .record (modMe (fun t => { t with wait := none, run := .run })
               (appendNode key n ⟨mkRecord (me s).pc (rx s 30) h, (me s).home, (me s).hprio, 0, false⟩ s)))) ∧
         ((me s).task = true → (me s).handler = false → a = 1 → freeNode s (fld h 27 5) = none →
           exec (.fget g false d a b) s = .next (waitFor .waitq (.node h) (.fget g false d a b) 0 s))) ∧
       (f.st ≠ .empty → exec (.fset g a v) s = .next (raiseFut .fstate h s) ∧
         exec (.fpoison g a v) s = .next (raiseFut .fstate h s)) ∧
       (∀ tr, stays tr ∨ a = 1 →
         (f.st = .full →
           exec (.fget g tr d a b) s = .next (next (wState b 2 (wx d f.value (acquireS s.cur s))))) ∧
         (f.st = .poison →
           (b ≠ 0 → exec (.fget g tr d a b) s = .next (next (wx b 3 (wx d f.value (acquireS s.cur s))))) ∧
           (b = 0 → exec (.fget g tr d a b) s = .next (raiseFut .fstate h s)))) ∧
       (∀ tr, ¬stays tr → a ≠ 1 → exec (.fget g tr d a b) s = .next (raise .illegal (me s).pc s)) ∧
       (f.st = .free ∨ f.wany = true → exec (.ffree g a) s = .next (raiseFut .fstate h s)) ∧
       (f.st ≠ .free → f.wany = false → exec (.ffree g a) s = .next (next (releaseFuture key s)))) ∧
     (∀ st, (getFuture (set st) key).st = st ∧ (getFuture (set st) key).value = rxo s v) ∧
     (let cl := clusterOf s.cur.site
      let job := (myTile s).job
      (freeList s cl job = [] → exec (.fnew g d) s = .next (next (wx d 0x100000000 s))) ∧
      (∀ i r, freeList s cl job = i :: r →
        (let k := 65536 * cl + i
         let t := setFuture (setFree cl job r s) k { getFuture s k with st := .empty, value := 0 }
         exec (.fnew g d) s = .next (next (wx d ((futHandle k (getFuture s k).gen).zeroExtend 64) t)) ∧
         freeList t cl job = r ∧ (getFuture t k).st = .empty)))) ∧
  (∀ (key i cl : Nat) (n : Node) (s : State),
    ((getFuture s key).wany = false → n.nv = false →
      waitersOf (appendNode key i n s) key = [(65536 * (key / 65536) + i, n)]) ∧
    (freeNode s cl = some i → i < 65536 ∧ lookup s.pool (65536 * cl + i) = none)) ∧
  (∀ (k : Nat) (s : State),
    (let f := getFuture s k
     let t := releaseFuture k s
     (getFuture t k).st = .free ∧
     (f.gen ≠ 2047 → (getFuture t k).gen = f.gen + 1 ∧
       freeList t (k / 65536) f.job = freeList s (k / 65536) f.job ++ [k % 65536]) ∧
     (f.gen = 2047 → (getFuture t k).gen = 0 ∧ (getFuture t k).quar = true ∧ t.freeFut = s.freeFut))) ∧
  (∀ (cl i : Nat) (s : State),
    (let k := 65536 * cl + i
     let f := getFuture s k
     (f.quar = false ∨ s.devtime.toNat < f.since + 2 ^ 30 → exec (.futureQuarantineEnd cl i) s = .next s) ∧
     (f.quar = true → f.since + 2 ^ 30 ≤ s.devtime.toNat → (getJob s f.job).frozen = false → f.job ≠ 0 →
       ∃ t, exec (.futureQuarantineEnd cl i) s = .next t ∧ (getFuture t k).quar = false ∧
         freeList t cl f.job = freeList s cl f.job ++ [i]))) ∧
  (∀ (cl : Nat) (s : State) e g d a b h n m, nodeWaiters cl s = [e] →
    (getStrand s (skey e)).wait = some ⟨.node h, .fget g false d a b, n, m⟩ →
    (let u := modMe (fun t => { t with run := .run, readyAt := (getTile s e.site).cycle + 1 }) (asStrand e s)
     let h := (rx u a).extractLsb' 0 32
     (getFuture u (futKey h)).gen = futGen h → (getFuture u (futKey h)).job = (myTile u).job →
     (getFuture u (futKey h)).st = .full →
     exec (.waiterNodeFree cl) s =
       .next (asStrand s.cur (next (wState b 2 (wx d (getFuture u (futKey h)).value (acquireS u.cur u)))))))


/-! ### Class 7: landing words, monitors and the generator -/

/-- As `OwnAccess`, for the forms that ask a local base (R349, R352). -/
def Sys2Proof.OwnLocal (s : State) (m : MemOp) (size : Nat) (kind : AKind) (ks : List Nat) : Prop :=
  ∃ a, checkLocal s m size size kind = .ok a ∧ OwnAccess s (memSeg s m) (memOffset s m) size size kind a ks

/-- An update counts its bytes, steps GEN at each full TARGET and leaves the reserved bits (that an update of no bytes steps
GEN where COUNT stands at or above TARGET is the model's choice, log entry 57). LANDSET and LANDADD
complete with the word so changed and GEN, or COUNT and GEN, in D. MARM arms a slot on one line; exactly the writes
to that line touch it; MWAIT completes with the touched bits, waits in WAITM otherwise, and ends at a touch, with the
bits of that moment, or at its limit (bit 5); MCLR disarms the slots of its mask. RNG takes one Step of R49, VRNG eight. -/
def Obligations.LandingWordsMonitorsAndGenerators : Prop :=
  (∀ (v n : Nat), v < 2 ^ 128 → n < 2 ^ 32 →
    (let w := lwUpdate v n
     let target := v % 2 ^ 32
     let count := v / 2 ^ 32 % 2 ^ 32
     w % 2 ^ 32 = target ∧ w / 2 ^ 97 = v / 2 ^ 97 ∧
     (target = 0 → w / 2 ^ 32 % 2 ^ 32 = (count + n) % 2 ^ 32 ∧ w / 2 ^ 64 = v / 2 ^ 64) ∧
     (target ≠ 0 → count + n < target → w / 2 ^ 32 % 2 ^ 32 = count + n ∧ w / 2 ^ 64 = v / 2 ^ 64) ∧
     (target ≠ 0 → target ≤ count + n → w / 2 ^ 32 % 2 ^ 32 = (count + n) % target ∧
       w / 2 ^ 64 % 2 ^ 32 = (v / 2 ^ 64 + (count + n) / target) % 2 ^ 32 ∧
       w / 2 ^ 96 % 2 = (if (count + n) % target = 0 then v / 2 ^ 96 % 2 else 1)))) ∧
  (∀ (g : Guard) (d b : XReg) (m : MemOp) (s : State) (ks : List Nat), guardVal g s = true →
    OwnLocal s m 16 .atomic ks →
    (let v := readNat s ks
     let w := lwUpdate v ((rx s b).toNat % 2 ^ 32)
     let gen := v / 2 ^ 64 % 2 ^ 32
     CompletesFrom (exec (.landset g d m b) s) (wx d (BitVec.ofNat 64 gen)
       (writeNat ks ((rx s b).toNat % 2 ^ 32 + gen * 2 ^ 64) (readyIn 4 s))) ∧
     ∀ o e, o = .plain ∨ o = .rel → CompletesFrom (exec (.landadd g o e m b) s) (wxo e
       (BitVec.ofNat 64 (w / 2 ^ 64 % 2 ^ 32 + w / 2 ^ 32 % 2 ^ 32 * 2 ^ 32)) (writeNat ks w (readyIn 4 s))))) ∧
  (∀ (g : Guard) (slot : Fin 4) (m : MemOp) (s : State) (k : Nat), guardVal g s = true →
    OwnLocal s m 1 .load [k] →
    ∃ t, exec (.marm g slot m) s = .next (next t) ∧ (me t).mons.get slot = ⟨some (k / 64 * 64), false⟩ ∧
      (∀ i, i ≠ slot → (me t).mons.get i = (me s).mons.get i) ∧ SameBut s.cur s t) ∧
  (∀ (l : List (Nat × Byte)) (s : State) (e : SRef) (slot : Fin 4) line, (lookup s.strands (skey e)).isSome →
    ((getStrand s (skey e)).mons.get slot).line = some line →
    (((getStrand (writeBytes l s) (skey e)).mons.get slot).touched = true ↔
      ((getStrand s (skey e)).mons.get slot).touched = true ∨ ∃ p, p ∈ l ∧ isLocalKey p.1 = true ∧ p.1 / 64 * 64 = line) ∧
    ((getStrand s (skey e)).run = .waitm → ∀ w, (getStrand s (skey e)).wait = some w →
      (∃ p, p ∈ l ∧ isLocalKey p.1 = true ∧ p.1 / 64 * 64 = line) →
      (let t := getStrand (writeBytes l s) (skey e)
       t.run = .run ∧ t.wait = none ∧ t.flight = some (.mwait w.instr (touchedBits t))))) ∧
  (∀ (e : SRef) (s : State) g d b bits, (getStrand s (skey e)).run = .run →
    (getStrand s (skey e)).flight = some (.mwait (.mwait g d b) bits) →
    exec (.mwaitWake e) s = .next (next (wx d (BitVec.ofNat 64 bits) (readyIn 1 (asStrand e s))))) ∧
  (∀ (g : Guard) (d : XReg) (b : XOpnd) (s : State), guardVal g s = true →
    (touchedBits (me s) ≠ 0 → exec (.mwait g d b) s = .next (next (wx d (BitVec.ofNat 64 (touchedBits (me s))) s))) ∧
    (touchedBits (me s) = 0 → exec (.mwait g d b) s = .next (waitFor .waitm .mons (.mwait g d b)
      (if (rxo s b).toNat = 0 then 0 else (myTile s).cycle + (rxo s b).toNat) s))) ∧
  (∀ (e : SRef) (s : State) g d b n lim,
    (getStrand s (skey e)).wait = some ⟨.mons, .mwait g d b, n, lim⟩ → (getStrand s (skey e)).run = .waitm →
    (let bits := touchedBits (getStrand s (skey e))
     let u := endWait e (asStrand e s)
     (bits ≠ 0 → exec (.mwaitWake e) s = .next (next (wx d (BitVec.ofNat 64 bits) u))) ∧
     (bits = 0 → (getStrand s (skey e)).flight = none → exec (.mwaitWake e) s = .next s) ∧
     (lim ≠ 0 → lim ≤ (getTile s e.site).cycle ∨ lim % 2 ^ 64 = (getTile s e.site).cycle →
       exec (.mwaitLimitExpiry e) s = .next (next (wx d (BitVec.ofNat 64 (bits + 2 ^ 5)) u))) ∧
     (lim = 0 ∨ ((getTile s e.site).cycle < lim ∧ lim % 2 ^ 64 ≠ (getTile s e.site).cycle) →
       exec (.mwaitLimitExpiry e) s = .next s))) ∧
  (∀ (g : Guard) (b : XOpnd) (s : State), guardVal g s = true →
    ∃ t, exec (.mclr g b) s = .next (next t) ∧ SameBut s.cur s t ∧
      ∀ i : Fin 4, (me t).mons.get i = if (rxo s b).getLsbD i.val then ⟨none, false⟩ else (me s).mons.get i) ∧
  (∀ (g : Guard) (d : XReg) (v : VReg) (mk : KReg) (s : State), guardVal g s = true →
    (let a := (me s).rnga
     let b := if a = 0 ∧ (me s).rngb = 0 then 1 else (me s).rngb
     let s1 := a ^^^ (a <<< 23)
     let b' := s1 ^^^ b ^^^ (s1 >>> 17) ^^^ (b >>> 26)
     exec (.rng g d) s = .next (next (wx d (b' + b) (modMe (fun t => { t with rnga := b, rngb := b' }) s))) ∧
     ∃ t, exec (.vrng g mk v) s = .next (next t) ∧
       ((me t).rnga, (me t).rngb) = (rngSteps 8 a (me s).rngb).2 ∧
       (∀ i, i < 8 → laneGet 64 (vGet (me t) v) i = if (kGet (me s) mk).getLsbD i
         then ((rngSteps 8 a (me s).rngb).1.getD i 0).toNat else laneGet 64 (vGet (me s) v) i) ∧
       (∀ r, r ≠ v → vGet (me t) r = vGet (me s) r) ∧ (me t).x = (me s).x ∧ SameBut s.cur s t))


/-! ### Classes A and B: vectors -/

/-- R131, R51: `i` completes; lane `j` of `d`, of width `w`, receives the low `w` bits of `op` of its draw and `j` where the
mask is set and keeps its value elsewhere; under RST the generator takes one Step for each lane, masked or not; nothing
else changes before the PC advances. -/
def Sys2Proof.LanesDo (i : Instr) (s : State) (w : Nat) (r : Rnd) (mk : KReg) (d : VReg) (op : Nat → Nat → Nat) : Prop :=
  ∃ t, exec i s = .next (next t) ∧ SameBut s.cur s t ∧
    (∀ j, j < 512 / w → laneGet w (vGet (me t) d) j =
      if (kGet (me s) mk).getLsbD j then
        op (if r = .rst then (draws16 (rngSteps (512 / w) (me s).rnga (me s).rngb).1).getD j 0 else 0) j % 2 ^ w
      else laneGet w (vGet (me s) d) j) ∧
    (∀ q, q ≠ d → vGet (me t) q = vGet (me s) q) ∧ (me t).x = (me s).x ∧ (me t).p = (me s).p ∧ (me t).k = (me s).k ∧
    (me t).seg = (me s).seg ∧ (me t).pc = (me s).pc ∧
    ((me t).rnga, (me t).rngb) =
      (if r = .rst then (rngSteps (512 / w) (me s).rnga (me s).rngb).2 else ((me s).rnga, (me s).rngb))

/-- Each vector arithmetic instruction completes. In a floating-point format an active lane is the exact operation
of its operands, with the lane's draw, rounded once; in an integer format the exact integer, wrapped or saturated; a
NaN gives the canonical NaN; VDOT adds the products of 32-bit groups to lane i of D. Inactive lanes keep their value
but take their draw; no other register changes. -/
def Obligations.VectorArithmeticResults : Prop :=
  ∀ (g : Guard) (f : Fmt) (r : Rnd) (sat : Bool) (mk : KReg) (d a c : VReg) (b : VOpnd) (s : State), guardVal g s = true →
    (let w := f.width
     let A (j : Nat) := laneGet w (vGet (me s) a) j
     let C (j : Nat) := laneGet w (vGet (me s) c) j
     let B (j : Nat) : Nat := match b with
       | .v q => laneGet w (vGet (me s) q) j
       | .imm v => v.toNat % 2 ^ w
     let F (n : Nat) := decFloat f n
     let I (n : Nat) := decInt f n
     let rnd (dr : Nat) (e : Ex) := roundFloat f r sat dr e
     let fit (v : Int) := fitInt f sat v
     let z := r == .rni
     (f.isFloat = true →
       LanesDo (.vadd g f r sat mk d a b) s w r mk d (fun x j => rnd x (addEx z (F (A j)) (F (B j)))) ∧
       LanesDo (.vsub g f r sat mk d a b) s w r mk d (fun x j => rnd x (addEx z (F (A j)) (negEx (F (B j))))) ∧
       LanesDo (.vmul g f r sat mk d a b) s w r mk d (fun x j => rnd x (mulEx (F (A j)) (F (B j)))) ∧
       LanesDo (.vdiv g f r sat mk d a b) s w r mk d (fun x j => rnd x (divEx (F (A j)) (F (B j)))) ∧
       (∀ q, LanesDo (.vfma g f r sat mk d a q c) s w r mk d (fun x j =>
         rnd x (addEx z (mulEx (F (A j)) (F (laneGet w (vGet (me s) q) j))) (F (C j))))) ∧
       (∀ q, LanesDo (.vfms g f r sat mk d a q c) s w r mk d (fun x j =>
         rnd x (addEx z (mulEx (F (A j)) (F (laneGet w (vGet (me s) q) j))) (negEx (F (C j)))))) ∧
       LanesDo (.vmin g f mk d a b) s w .rne mk d (fun _ j => fminmax f false (A j) (B j)) ∧
       LanesDo (.vmax g f mk d a b) s w .rne mk d (fun _ j => fminmax f true (A j) (B j)) ∧
       LanesDo (.vabs g f sat mk d a) s w .rne mk d (fun _ j =>
         if F (A j) = .nan then canonNaN f else A j % 2 ^ (w - 1)) ∧
       LanesDo (.vneg g f sat mk d a) s w .rne mk d (fun _ j =>
         if F (A j) = .nan then canonNaN f else A j ^^^ 2 ^ (w - 1)) ∧
       LanesDo (.vsqrt g f r sat mk d a) s w r mk d (fun x j => rnd x (sqrtEx (F (A j)))) ∧
       LanesDo (.vrcp g f r sat mk d a) s w r mk d (fun x j => rnd x (divEx (.num false 1 0 false) (F (A j)))) ∧
       LanesDo (.vrsq g f r sat mk d a) s w r mk d (fun x j => rnd x (rsqEx (F (A j)))) ∧
       LanesDo (.vexp2 g f r sat mk d a) s w r mk d (fun x j => rnd x (exp2Ex (F (A j)))) ∧
       LanesDo (.vlog2 g f r sat mk d a) s w r mk d (fun x j => rnd x (log2Ex (F (A j))))) ∧
     (f.isInt = true →
       LanesDo (.vadd g f r sat mk d a b) s w r mk d (fun _ j => fit (I (A j) + I (B j))) ∧
       LanesDo (.vsub g f r sat mk d a b) s w r mk d (fun _ j => fit (I (A j) - I (B j))) ∧
       LanesDo (.vmul g f r sat mk d a b) s w r mk d (fun _ j => fit (I (A j) * I (B j))) ∧
       (∀ q, LanesDo (.vfma g f r sat mk d a q c) s w r mk d (fun _ j =>
         fit (I (A j) * I (laneGet w (vGet (me s) q) j) + I (C j)))) ∧
       (∀ q, LanesDo (.vfms g f r sat mk d a q c) s w r mk d (fun _ j =>
         fit (I (A j) * I (laneGet w (vGet (me s) q) j) - I (C j)))) ∧
       LanesDo (.vmin g f mk d a b) s w .rne mk d (fun _ j => if I (B j) < I (A j) then B j else A j) ∧
       LanesDo (.vmax g f mk d a b) s w .rne mk d (fun _ j => if I (A j) < I (B j) then B j else A j) ∧
       LanesDo (.vabs g f sat mk d a) s w .rne mk d (fun _ j => fit (I (A j)).natAbs) ∧
       LanesDo (.vneg g f sat mk d a) s w .rne mk d (fun _ j => fit (-(I (A j))))) ∧
     (let n := 32 / w
      let X (i j : Nat) := laneGet w (vGet (me s) a) (n * i + j)
      let Y (i j : Nat) := laneGet w (vGet (me s) c) (n * i + j)
      let D (i : Nat) := laneGet 32 (vGet (me s) d) i
      (f.isFloat = true → LanesDo (.vdot g f r sat mk d a c) s 32 r mk d (fun x i =>
        roundFloat .f32 r sat x ((List.range n).foldl (fun e j => addEx z e (mulEx (F (X i j)) (F (Y i j))))
          (decFloat .f32 (D i))))) ∧
      (f.isInt = true → LanesDo (.vdot g f r sat mk d a c) s 32 r mk d (fun _ i =>
        fitInt .i32 sat ((List.range n).foldl (fun e j => e + I (X i j) * I (Y i j)) (decInt .i32 (D i)))))))

/-- Each completes with the lanes that the rules give: bitwise and shift lanes; VCMP a mask of the active lanes that
meet the condition; VMOV, VBCAST, VPERM (indices modulo the lane count) and VSEL; VEXTR and VINS one lane; VRED an
exact integer sum or the fixed tree; VSCAN inclusive over the active lanes; VCOMP the active lanes first, zeros
after. -/
def Obligations.VectorDataResults : Prop :=
  ∀ (g : Guard) (f : Fmt) (mk : KReg) (d a : VReg) (b : VOpnd) (s : State), guardVal g s = true →
    (let w := f.width
     let n := 512 / w
     let A (j : Nat) := laneGet w (vGet (me s) a) j
     let B (j : Nat) : Nat := match b with
       | .v q => laneGet w (vGet (me s) q) j
       | .imm v => v.toNat % 2 ^ w
     let act (j : Nat) := (kGet (me s) mk).getLsbD j
     LanesDo (.vand g f mk d a b) s w .rne mk d (fun _ j => A j &&& B j) ∧
     LanesDo (.vor g f mk d a b) s w .rne mk d (fun _ j => A j ||| B j) ∧
     LanesDo (.vxor g f mk d a b) s w .rne mk d (fun _ j => A j ^^^ B j) ∧
     LanesDo (.vshl g f mk d a b) s w .rne mk d (fun _ j => A j * 2 ^ (B j % w)) ∧
     LanesDo (.vshr g f mk d a b) s w .rne mk d (fun _ j => A j / 2 ^ (B j % w)) ∧
     LanesDo (.vsar g f mk d a b) s w .rne mk d (fun _ j => encInt f (decInt f (A j) / 2 ^ (B j % w))) ∧
     (∀ kd cc, ∃ t, exec (.vcmp g f cc mk kd a b) s = .next (next t) ∧ SameBut s.cur s t ∧ (me t).x = (me s).x ∧
       (me t).v = (me s).v ∧ (kd ≠ 0 → f.isFloat || f.isInt → ∀ j, (kGet (me t) kd).getLsbD j =
         (decide (j < n) && act j && fcond cc (decFmt f (A j)) (decFmt f (B j))))) ∧
     LanesDo (.vmov g (.vv f mk d a)) s w .rne mk d (fun _ j => A j) ∧
     (∀ kd x, exec (.vmov g (.kx kd x)) s = .next (next (wk kd (rx s x) s)) ∧
       exec (.vmov g (.xk x kd)) s = .next (next (wx x (kGet (me s) kd) s))) ∧
     (∀ kd ka, exec (.vmov g (.kk kd ka)) s = .next (next (wk kd (kGet (me s) ka) s))) ∧
     (∀ x, LanesDo (.vbcast g f mk d none x) s w .rne mk d (fun _ _ => (rxo s x).toNat) ∧
       LanesDo (.vbcast g f mk d (some a) x) s w .rne mk d (fun _ _ => A ((rxo s x).toNat % n))) ∧
     (∀ q, LanesDo (.vperm g f mk d a q) s w .rne mk d (fun _ j => A (laneGet w (vGet (me s) q) j % n)) ∧
       LanesDo (.vsel g f mk d a q) s w .rne 0 d (fun _ j => if act j then A j else laneGet w (vGet (me s) q) j)) ∧
     (∀ x y, exec (.vextr g f x a y) s = .next (next (wx x
         (if f.isInt && f != .u8 then (BitVec.ofNat w (A ((rxo s y).toNat % n))).signExtend 64
          else BitVec.ofNat 64 (A ((rxo s y).toNat % n))) s))) ∧
     (∀ x y, ∃ v, exec (.vins g f d x y) s = .next (next (wv d v s)) ∧ ∀ j, j < n → laneGet w v j =
       if j = (rxo s y).toNat % n then (rx s x).toNat % 2 ^ w else laneGet w (vGet (me s) d) j) ∧
     (let lanes := (List.range n).map fun j => if act j then some (A j) else none
      ∀ (op : RedOp) (r : Rnd) (sat : Bool) (x : XReg),
       (f.isInt = true → exec (.vred g f .sum r mk x a) s =
         .next (next (wx x (BitVec.ofInt 64 ((lanes.filterMap id).map (decInt f)).sum) s))) ∧
       (¬(op = .sum ∧ f.isInt = true) → ∃ t, exec (.vred g f op r mk x a) s = .next (next t) ∧ SameBut s.cur s t ∧
         (x ≠ 0 → rx t x = laneExt f ((reduceTree (redOp f op r false) (Nat.log2 n) lanes
           (if r = .rst then draws16 (rngSteps (n - 1) (me s).rnga (me s).rngb).1 else [])).getD (redIdentity f op)))) ∧
       LanesDo (.vscan g f op r sat mk d a) s w r mk d (fun _ j =>
         (scanLanes f op r sat lanes (if r = .rst then draws16 (rngSteps n (me s).rnga (me s).rngb).1 else []) none).getD j 0)) ∧
     (∀ j, j < n → ∃ t, exec (.vcomp g f mk d a) s = .next (next t) ∧
       laneGet w (vGet (me t) d) j = (((List.range n).filter act).map A).getD j 0 ∧ (me t).x = (me s).x))

/-- VCVT converts lane by lane, from a part of the wider source or into a part of the wider destination, with a draw
for each element only where it rounds. VPACK encodes 32 elements in one quarter of D under the least scale exponent
that fits, and VUNPK decodes them. VPRUNE keeps in each 24-lane group exactly N lanes, none of smaller magnitude
than a lane it drops, in ascending order, with their mask. -/
def Obligations.VectorFormatConversions : Prop :=
  (∀ (g : Guard) (f u : Fmt) (r : Rnd) (sat : Bool) (part : Fin 4) (mk : KReg) (d a : VReg) (s : State), guardVal g s = true →
    ∃ t, exec (.vcvt g f u r sat part mk d a) s = .next (next t) ∧ SameBut s.cur s t ∧ (me t).x = (me s).x ∧
      (let n := 512 / f.width
       let m := 512 / u.width
       let dr := if convDraws f u r then draws16 (rngSteps (min n m) (me s).rnga (me s).rngb).1 else []
       (n = m → LanesDo (.vcvt g f u r sat part mk d a) s f.width (if convDraws f u r then .rst else .rne) mk d
         (fun x j => convFmt f u r sat x (laneGet u.width (vGet (me s) a) j))) ∧
       (n < m → ∀ j, j < n → laneGet f.width (vGet (me t) d) j = if (kGet (me s) mk).getLsbD j then
         convFmt f u r sat (dr.getD j 0) (laneGet u.width (vGet (me s) a) (part.val * n + j)) % 2 ^ f.width
         else laneGet f.width (vGet (me s) d) j) ∧
       (m < n → ∀ j, j < n → laneGet f.width (vGet (me t) d) j =
         if part.val * m ≤ j ∧ j < part.val * m + m ∧ (kGet (me s) mk).getLsbD (j - part.val * m) then
           convFmt f u r sat (dr.getD (j - part.val * m) 0) (laneGet u.width (vGet (me s) a) (j - part.val * m)) % 2 ^ f.width
         else laneGet f.width (vGet (me s) d) j))) ∧
  (∀ (g : Guard) (f : Fmt) (r : Rnd) (ty : NType) (part : Fin 4) (d a b : VReg) (c : XReg) (s : State), guardVal g s = true →
    (let xs := ((List.range 16).map (laneGet 32 (vGet (me s) a)) ++
       (List.range 16).map (laneGet 32 (vGet (me s) b))).map (decFloat .f32)
     let ys := ((List.range 32).map (laneGet f.width (vGet (me s) a))).map (decFloat f)
     let dr := if r = .rst then draws16 (rngSteps 32 (me s).rnga (me s).rngb).1 else []
     let packs (i : Instr) (zs : List Ex) := ∃ t, exec i s = .next (next t) ∧ SameBut s.cur s t ∧
       (c ≠ 0 → (rx t c).toNat = n4TypeCode ty * 64 + packExp ty (zs.filterMap finiteEx)) ∧
       (∀ j, j < 128 → laneGet 4 (vGet (me t) d) j = if j / 32 = part.val then
         encN4 ty (packExp ty (zs.filterMap finiteEx)) r (dr.getD (j % 32) 0) (zs.getD (j % 32) .nan) % 16
         else laneGet 4 (vGet (me s) d) j)
     packs (.vpack g .f32 r ty part d a (some b) c) xs ∧ packs (.vpack g f r ty part d a none c) ys)) ∧
  (∀ (g : Guard) (f : Fmt) (r : Rnd) (sat hi : Bool) (part : Fin 4) (mk : KReg) (d a : VReg) (b : XReg) (s : State),
    guardVal g s = true → LanesDo (.vunpk g f r sat part hi mk d a b) s f.width r mk d (fun x j =>
      roundFloat f r sat x (decN4 ((rx s b).toNat % 256)
        (laneGet 4 (vGet (me s) a) (32 * part.val + (if hi then 16 else 0) + j))))) ∧
  (∀ (g : Guard) (f : Fmt) (n : Fin 3) (d a : VReg) (c : XReg) (s : State), guardVal g s = true → f.width = 8 ∨ f.width = 16 →
    (let k := if n = 0 then 6 else if n = 1 then 8 else 12
     let A (q i : Nat) := laneGet f.width (vGet (me s) a) (24 * q + i)
     ∃ t, exec (.vprune g f n d a c) s = .next (next t) ∧ SameBut s.cur s t ∧
      ∀ q, q < 512 / f.width / 24 → c ≠ 0 →
       (((List.range 24).filter fun i => (rx t c).getLsbD (32 * q + i)).length = k ∧
        (∀ i j, i < 24 → j < 24 → (rx t c).getLsbD (32 * q + i) = true → (rx t c).getLsbD (32 * q + j) = false →
          magAbove f (A q j) (A q i) = false) ∧
        (∀ m, m < k → laneGet f.width (vGet (me t) d) (k * q + m) =
          A q (((List.range 24).filter fun i => (rx t c).getLsbD (32 * q + i)).getD m 0)))))


/-! ### Class E: the cellar, and the acceptance of engine commands -/

/-- R218: a cellar command passes its checks; `i` completes with the command at the tail of its unit's queue, after a Step
of the strand's generator where it is an NCVT that rounds with RST; with the queue full it waits in WAITQ. -/
def Sys2Proof.CellarTakes (i : Instr) (g : Guard) (d : XReg) (m : MemOp) (alpha : BitVec 32) (s : State) : Prop :=
  ∀ a, guardVal g s = true → checkLocal s m 32 32 .load = .ok a → s.pend = [] →
    (let desc := BitVec.ofNat 256 (readNat s (localKeys s a 32))
     let u := cellarUnit s s.cur.site (myTile s).job (cdSrc0 desc)
     let c : CellarCmd := ⟨i, s.cur, desc, a, doneHandle s d, alpha, (myTile s).job, 0⟩
     let rst := cellarOp i == .cvt && fld desc 232 3 == 4
     let x := if rst then takeStep s.cur (readyIn 5 s) else (0, readyIn 5 s)
     (∀ k, doneFail s d = some k → exec i s = .next (raise k ((doneHandle s d).zeroExtend 64) s)) ∧
     (doneFail s d = none → poisonRead s (localKeys s a 32) = none →
       (cellarRoom s u = true → (∀ p, p ∈ s.strands → ∀ w, p.2.wait = some w → ∀ v, w.obj = .accept u v → False) → exec i s =
         .next (next (enqueue (.cellarCommandComplete u)
           (modCellar u (fun q => { q with queue := q.queue ++ [{ c with step := x.1 }] }) x.2)))) ∧
       (cellarRoom s u = false → exec i s = .next (waitFor .waitq (.accept u c) i 0 s))))

/-- Each cellar instruction completes when its unit accepts the command, waits while the queue is full, and raises
the cause of a bad completion handle. The unit's oldest command goes on at every look of the unit: it completes with
the class of its first failed check, or its operands are read stripe row by stripe row, its results written line by
line, and it completes with OK, or with UNCORR if an element was poisoned; nothing but a frozen job holds it. Elements of
a striped matrix lie in its extent and never share a byte; NSUM rounds the exact sum of a row or column once, NSCALE
each product; a line of results changes no byte outside its 64. A waiting command is accepted as soon as its engine has
room. -/
def Obligations.CellarCommandsAreAcceptedAndRun : Prop :=
  (∀ (g : Guard) (h : Hint) (d b : XReg) (m : MemOp) (s : State),
    CellarTakes (.nsum g h d m) g d m 0 s ∧ CellarTakes (.nmax g h d m) g d m 0 s ∧
    CellarTakes (.ncvt g h d m) g d m 0 s ∧ CellarTakes (.ndot g h d m) g d m 0 s ∧
    CellarTakes (.naxpy g h d m b) g d m ((rx s b).extractLsb' 0 32) s ∧
    CellarTakes (.nscale g h d m b) g d m ((rx s b).extractLsb' 0 32) s) ∧
  (∀ (u : Nat) (s : State) c r, (getCellar s u).queue = c :: r →
    (let q := getCellar s u
     let again (t : State) := enqueue (.cellarCommandComplete u) t
     let ends (f : Fail) (t : State) :=
       (let en := mkEntry t f.1 2 (0x4C0 + u % 48) (u / 48) 0 f.2 0
        cellarFinish u (wakeFences (modCellar u (fun q => { q with entry := some (c.handle, en) }) (engineLog c.job en t))))
     (q.entry.isSome = true → exec (.cellarCommandComplete u) s = .next (cellarFinish u s)) ∧
     (q.entry = none → q.lines ≠ [] → exec (.cellarCommandComplete u) s = .next (again (cellarLine u s))) ∧
     (q.entry = none → q.lines = [] → (getJob s c.job).frozen = true → exec (.cellarCommandComplete u) s = .next s) ∧
     (q.entry = none → q.lines = [] → (getJob s c.job).frozen = false →
       (q.pas = none →
         (∀ f t, cellarCheck u c s = (.inl f, t) → exec (.cellarCommandComplete u) s = .next (ends f t)) ∧
         (∀ pas t, cellarCheck u c s = (.inr pas, t) → cellarHole c pas = false →
           exec (.cellarCommandComplete u) s = .next (again (modCellar u (fun k =>
             { k with pas := some pas, rnga := (seedEngine c.step).1, rngb := (seedEngine c.step).2 }) t)))) ∧
       (∀ pas f t r, q.pas = some pas → cdFmts c.desc = some (f, t) → Rnd.ofCode (cdRnd c.desc) = some r →
         (q.pos < cdM c.desc * cdN c.desc →
           exec (.cellarCommandComplete u) s = .next (again (cellarRow u c f t r pas s))) ∧
         (cdM c.desc * cdN c.desc ≤ q.pos → q.bad = none →
           exec (.cellarCommandComplete u) s = .next (ends (0, cdDst c.desc) s)) ∧
         (∀ a, cdM c.desc * cdN c.desc ≤ q.pos → q.bad = some a →
           exec (.cellarCommandComplete u) s = .next (ends (5, a) s)))))) ∧
  (∀ (u : Nat) (c : CellarCmd) (s : State),
    (cdM c.desc = 0 ∨ cdN c.desc % 32 ≠ 0 → cellarCheck u c s = (.inl (11, c.daddr), s)) ∧
    (∀ f t, cdFmts c.desc = some (f, t) → cellarStep1 c = none →
      (let ops := cellarOperands (cellarOp c.instr) c.desc f t
       (∀ x, ops.find? (fun o => o.1.toNat / 2 ^ 21 != (o.1.toNat + o.2 - 1) / 2 ^ 21) = some x →
         cellarCheck u c s = (.inl (12, x.1), s))))) ∧
  (∀ (m n e i j i' j' : Nat), e = 1 ∨ e = 2 ∨ e = 4 → n % 32 = 0 → i < m → j < n → i' < m → j' < n →
    stripedOff n e i j + e ≤ stripedExtent m n e ∧
    (stripedOff n e i j < stripedOff n e i' j' + e → stripedOff n e i' j' < stripedOff n e i j + e →
      i = i' ∧ j = j')) ∧
  (∀ (c : CellarCmd) (f t : Fmt) (r : Rnd) (dst : Nat) (xs : List (Nat × Nat × Bool)), f.isFloat = true →
    (let m := cdM c.desc
     let n := cdN c.desc
     let at_ (q : Nat) := xs.getD q (0, 0, false)
     (∀ g h d mo, c.instr = .nsum g h d mo →
       (cdAxis c.desc = false → denseResults c f t r dst xs = (List.range n).flatMap fun k =>
         resultBytes dst (k * fmtBytes t) (fmtBytes t)
           (reduceExact t r (cdSat c.desc) ((List.range m).map fun i => decFloat f (at_ (i * n + k)).1))
           ((List.range m).any fun i => (at_ (i * n + k)).2.2)) ∧
       (cdAxis c.desc = true → xs.length = m * n → denseResults c f t r dst xs = (List.range m).flatMap fun k =>
         resultBytes dst (k * fmtBytes t) (fmtBytes t)
           (reduceExact t r (cdSat c.desc) ((List.range n).map fun j => decFloat f (at_ (k * n + j)).1))
           ((List.range n).any fun j => (at_ (k * n + j)).2.2))) ∧
     (∀ g h d mo b draw x y, c.instr = .nscale g h d mo b →
       mapCell c f t r draw x y = roundFloat t r (cdSat c.desc) 0 (mulEx (decFloat .f32 c.alpha.toNat) (decFloat f x))))) ∧
  (∀ (u : Nat) (s : State) x r, MemInv s → (getCellar s u).lines = x :: r →
    (∀ k, k / 64 ≠ x.key / 64 → readByte (cellarLine u s) k = readByte s k) ∧
    (getCellar (cellarLine u s) u).lines = r.filter fun y => y.key / 64 != x.key / 64) ∧
  (∀ (e : SRef) (s : State),
    (∀ u c i n k, (getStrand s (skey e)).wait = some ⟨.accept u c, i, n, k⟩ →
      (cellarRoom s u = true → exec (.engineAcceptance e) s =
        .next (cellarAccept u { c with e := e } (endWait e (asStrand e s)))) ∧
      (cellarRoom s u = false → exec (.engineAcceptance e) s = .next s)) ∧
    (∀ n c k, (getStrand s (skey e)).wait = none → (getStrand s (skey e)).flight = some (.acceptC n c k) →
      (carterRoom s n = true → exec (.engineAcceptance e) s =
        .next (carterAccept n { c with e := e } (readyIn 1 (asStrand e s)))) ∧
      (carterRoom s n = false → exec (.engineAcceptance e) s = .next s)) ∧
    (∀ c k, (getStrand s (skey e)).wait = none → (getStrand s (skey e)).flight = some (.acceptL c k) →
      (loomRoom s e.site = true → exec (.engineAcceptance e) s =
        .next (loomAccept { c with e := e } (readyIn 1 (asStrand e s)))) ∧
      (loomRoom s e.site = false → exec (.engineAcceptance e) s = .next s)))


/-! ### Class C: the loom -/

/-- R226, R252: the loom accepts `i`, with what the strand fixed in `c`: a queued instruction completes, a synchronous one
stays in flight until the loom's reply. -/
def Sys2Proof.LoomTakes (i : Instr) (c : LoomCmd) (s : State) : Prop :=
  s.pend = [] → loomRoom s s.cur.site = true →
  (∀ k, k < 8 → (getStrand s (8 * s.cur.site + k)).flight = none) →
  (let y := yardOf s.cur.site
   let t := inYard s.cur.site
   let l := getLoom s y
   let c' : LoomCmd := { c with
     serial := l.serial + 1, tol := (myTile s).tol.toList,
     recd := isProduct i && recordRoom (readyIn 5 s) y (pdC (descOf c)) }
   let u := enqueue (.loomTurn y) (modLoom y (fun l =>
     { l with serial := l.serial + 1, queues := tset l.queues t (tget [] l.queues t ++ [c']) }) (readyIn 5 s))
   exec i s = .next (if isSync i then inFlight (.loom i) u else next u))

/-- With room in the tile's queue each loom instruction is accepted with its descriptor, handle, privilege and the
tile's tolerance registers: the queued ones complete, MCHK, MCORR, MLOC, MSTAT and MDRAIN stay in flight until the
loom replies. A block that the strand may not name raises ADDR; an illegal format context ILLEGAL; MINJ is for
stewards and inverts one bit. -/
def Obligations.LoomInstructionsAreAccepted : Prop :=
  ∀ (g : Guard) (d : XReg) (m : MemOp) (b : XOpnd) (s : State), guardVal g s = true →
    (let new (i : Instr) (desc : Option (BitVec 512)) (a : Word) (h : BitVec 32) (v w : Word) : LoomCmd :=
       ⟨i, s.cur, desc, a, h, (me s).priv, (myTile s).job, (myTile s).booth, [], v, w, 0, false, false, 0, 0, false, false,
         0, 0, [], none, none⟩
     let v := rxo s b
     (fld v 11 53 = 0 → (LCtx.ofWord v).isSome = true → LoomTakes (.mcfg g b) (new (.mcfg g b) none 0 0 v 0) s) ∧
     (fld v 11 53 ≠ 0 → exec (.mcfg g b) s = .next (raise .illegal (me s).pc s)) ∧
     (∀ int nort, LoomTakes (.mzero g int nort b) (new (.mzero g int nort b) none 0 0 v 0) s) ∧
     (∀ a, checkLocal s m 64 64 .load = .ok a → s.pend = [] →
       (let ks := localKeys s a 64
        let desc := some (BitVec.ofNat 512 (readNat s ks))
        ks ≠ [] → ownTile s ks = true → doneFail s d = none → poisonRead s ks = none →
         LoomTakes (.mmul g d m) (new (.mmul g d m) desc a (doneHandle s d) 0 0) s ∧
         LoomTakes (.mmuls g d m) (new (.mmuls g d m) desc a (doneHandle s d) 0 0) s ∧
         LoomTakes (.mloada g d m) (new (.mloada g d m) desc a (doneHandle s d) 0 0) s ∧
         LoomTakes (.mdrain g d m) (new (.mdrain g d m) desc a (doneHandle s d) 0 0) s)) ∧
     (doneFail s d = none → LoomTakes (.mretry g d b) (new (.mretry g d b) none 0 (doneHandle s d) v 0) s) ∧
     (let blk := fld v 0 6
      let may := (me s).priv = true ∨ ((myTile s).booth ≠ 0 ∧
        (getBlock s (yardOf s.cur.site) blk).booth = some ((myTile s).job, (myTile s).booth))
      (may → LoomTakes (.mchk g d b) (new (.mchk g d b) none 0 0 v 0) s ∧
        LoomTakes (.mcorr g d b) (new (.mcorr g d b) none 0 0 v 0) s ∧
        ∀ sel, LoomTakes (.mstat g sel d b) (new (.mstat g sel d b) none 0 0 v 0) s) ∧
      (¬may → exec (.mchk g d b) s = .next (raise .addr (BitVec.ofNat 64 blk) s) ∧
        exec (.mcorr g d b) s = .next (raise .addr (BitVec.ofNat 64 blk) s) ∧
        ∀ sel, exec (.mstat g sel d b) s = .next (raise .addr (BitVec.ofNat 64 blk) s))) ∧
     (∀ q a, checkLocal s m 1088 64 .store = .ok a → (me s).priv = true →
       LoomTakes (.mloc g d m q) (new (.mloc g d m q) none 0 0 (rx s q) a) s) ∧
     ((me s).priv = false → exec (.minj g d) s = .next (raise .priv (me s).pc s)) ∧
     ((me s).priv = true → minjOk (rx s d) = true → s.pend = [] → exec (.minj g d) s = .next (next
       (modBlock (yardOf s.cur.site) (fld (rx s d) 0 6) (injectBit (rx s d)) s))))

/-- A turn of MCFG sets the tile's format context; MZERO opens a block of zeros that its strand may name; MCHK replies with the
status of an empty or clean block and raises ASSAY for a mismatch or a failed block, UNCORR for a poisoned one; MSTAT replies
with the word selected; MRETRY completes with class ASSAY without a record and with ACCESS on a block that its strand may not
name; the lines of a drain are written one by one, each changing no byte outside its 64, and a command's completion is pushed
after them. A product group adds the group's exact sum to each cell by R56; a loaded block has the image's cells and lanes
that agree with them. -/
def Obligations.LoomTurnsDoTheirCommands : Prop :=
  (∀ (y t : Nat) (s : State) (c : LoomCmd), (getIsland s y).powered = true → (getIsland s y).paused = false →
    loomPick s (getLoom s y) = some (t, c) → c.fclass = none →
    (let s1 := modLoom y (fun l => { l with rr := (t + 1) % 16 }) s
     let put (c : LoomCmd) (s : State) :=
       modLoom y (fun l => { l with queues := tset l.queues t (c :: (tget [] l.queues t).tail) }) s
     let c1 := { c with started := true }
     (∀ g b, c.instr = .mcfg g b → exec (.loomTurn y) s = .next (asStrand s.cur (loomPop y t
       (put c1 (modLoom y (fun l => { l with ctxs := tset l.ctxs t c.value }) s1))))) ∧
     (∀ g sel d b, c.instr = .mstat g sel d b → (getStrand s (skey c.e)).flight = some (.loom c.instr) →
       (let k := getBlock s y (fld c.value 0 6)
        let v := if sel = 0 then blockStatus s k else if sel = 1 then k.rowmask else k.colmask
        exec (.loomTurn y) s = .next (asStrand s.cur (loomPop y t (put c1
          (next (wx d v (readyIn 1 (asStrand c.e s1))))))))))) ∧
  (∀ (y : Nat) (s : State), loomPick s (getLoom s y) = none → exec (.loomTurn y) s = .next s) ∧
  (∀ (y t : Nat) (s : State) c r en, tget [] (getLoom s y).queues t = c :: r →
    (tget [] (getLoom s y).lines t = [] → (getLoom s y).pushing.find? (fun p => p.1 == t) = some (t, 0, en) →
      exec (.loomCommandComplete y t) s = .next (loomPop y t s)) ∧
    (∀ l ls, tget [] (getLoom s y).lines t = l :: ls →
      exec (.loomCommandComplete y t) s = .next (drainLine y t s) ∧
      (lineStop s (l :: ls) = none → MemInv s →
        (∀ k, k / 64 ≠ l.key / 64 → readByte (drainLine y t s) k = readByte s k) ∧
        tget [] (getLoom (drainLine y t s) y).lines t = ls.filter (fun x => x.key / 64 != l.key / 64) ∧
        .loomCommandComplete y t ∈ (drainLine y t s).internal)) ∧
    (tget [] (getLoom s y).lines t = [] → (getLoom s y).pushing.find? (fun p => p.1 == t) = none → drainFormed c = true →
      c.stalled = false → c.fclass = none →
      exec (.loomCommandComplete y t) s = .next (loomEnd y t (some 0) c (drainEnd y c s)))) ∧
  (∀ (y t : Nat) (s : State) (c : LoomCmd),
    (let blk := fld c.value 0 6
     let b := getBlock s y blk
     (∀ g int nort o, c.instr = .mzero g int nort o → mayName s y c blk = true → ∃ u, loomCmdTurn y t c s = .fin none c u ∧
       (getBlock u y blk).st = .open_ ∧ (getBlock u y blk).int = int ∧ (∀ i j, cellAt (getBlock u y blk) i j = 0) ∧
       (nort = true → (getBlock u y blk).record = none ∧ (getBlock u y blk).noretry = true)) ∧
     (∀ g d o, c.instr = .mchk g d o →
       (let b1 := applyAssay (assay (tolFor c.tol b) b) true b
        let u := modBlock y blk (fun _ => b1) s
        let zero := (assay (tolFor c.tol b) b).1 = 0 ∧ (assay (tolFor c.tol b) b).2.1 = 0
        let replies (w : Word) := loomCmdTurn y t c s = .fin none c (loomReply c (fun s => next (wx d w s)) s)
        let traps (k : Cause) (w : Word) (s' : State) := loomCmdTurn y t c s = .fin none c (loomReply c (fun s =>
          raiseLate k (BitVec.ofNat 64 blk) (wx d w s)) s')
        (b.st = .empty → replies (blockStatus s b)) ∧
        (b.st = .failed → traps .assay (blockStatus s b) s) ∧
        (b.st = .poisoned → traps .uncorr (blockStatus s b) s) ∧
        (b.st = .open_ ∨ b.st = .clean → zero → b1.st = .clean ∧ loomCmdTurn y t c s =
          .fin none c (loomReply c (fun s => next (wx d (blockStatus u b1) s)) u)) ∧
        (b.st = .open_ ∨ b.st = .clean → ¬zero → b1.st = .mismatch ∧ traps .assay (blockStatus u b1) u) ∧
        (b.st = .mismatch → b1.st = .mismatch ∧ traps .assay (blockStatus u b1) u))) ∧
     (∀ g d o, c.instr = .mretry g d o → c.replay = none →
       (mayName s y c blk = false → loomCmdTurn y t c s = .fin (some 1) c s) ∧
       (mayName s y c blk = true → b.record = none → loomCmdTurn y t c s = .fin (some 4) c s)))) ∧
  (∀ (int : Bool) (n : Nat) (a : List (List Ex)) (kept : List (List (Nat × Ex))) (dense : List (List Ex)) (b : Block)
    (i j : Nat), a.length = 64 → kept.length = 64 → i < 64 → j < 64 →
    cellAt (productGroup int n a kept dense b) i j = laneAdd int (cellAt b i j)
      ((kept.getD j []).map fun p => mulEx ((a.getD i []).getD p.1 .nan) p.2)) ∧
  (∀ (int : Bool) (cells : List (BitVec 32)) (b : Block) (i j : Nat), i < 64 → j < 64 →
    (let l := loadedBlock int cells b
     l.st = .open_ ∧ cellAt l i j = cells.getD (64 * i + j) 0 ∧ l.pr.getD i 0 = actual int (rowOf l i) ∧
     l.pc.getD j 0 = actual int (colOf l j)))

/-- For every integer block whose row and column sums agree with its checksum lanes, the assay reports nothing;
after any change of one cell it reports exactly that cell's row and column, and the correction of R243 gives back
the value that the cell had. -/
def Obligations.OneFlippedCellIsFoundAndCorrected : Prop :=
  ∀ (t : Word) (b : Block) (i j : Nat) (v : BitVec 32), b.int = true → i < 64 → j < 64 →
    (∀ n, n < 64 → actual true (rowOf b n) = b.pr.getD n 0 ∧ actual true (colOf b n) = b.pc.getD n 0) →
    (assay t b = (0, 0, false)) ∧
    (v ≠ cellAt b i j →
      (let b' := { b with cells := putAt b.cells (64 * i + j) v }
       assay t b' = (1#64 <<< i, 1#64 <<< j, false) ∧ oneBit (1#64 <<< i) = some i ∧ oneBit (1#64 <<< j) = some j ∧
       correction t b' i j = some (cellAt b i j)))


/-! ### Class D: the carters -/

/-- R303, R280: a carter command passes its checks; `i` completes with the command at the tail of its carter's queue, with a
number of its own and, where it is a CCONV that rounds with RST, a private generator seeded from one Step; with the
queue full the instruction stays in flight. -/
def Sys2Proof.CarterTakes (i : Instr) (g : Guard) (d : XReg) (m : MemOp) (s : State) : Prop :=
  ∀ a, guardVal g s = true → checkLocal s m 64 64 .load = .ok a → s.pend = [] →
    (let ks := localKeys s a 64
     let desc := BitVec.ofNat 512 (readNat s ks)
     let n := 2 * yardOf s.cur.site + (if carterOf i then 1 else 0)
     let c : CarterCmd := ⟨i, s.cur, desc, a, doneHandle s d, (myTile s).job, (myTile s).booth, (me s).priv, 0, 0, 0⟩
     let x := if carterOp i = .conv ∧ fld desc 434 3 = 4 then takeStep s.cur (readyIn 5 s) else (0, readyIn 5 s)
     let sd := seedEngine x.1
     (ks = [] ∨ ownTile s ks = false → exec i s = .next (raise .seg (memOffset s m) s)) ∧
     (∀ k, ks ≠ [] → ownTile s ks = true → doneFail s d = some k →
       exec i s = .next (raise k ((doneHandle s d).zeroExtend 64) s)) ∧
     (ks ≠ [] → ownTile s ks = true → doneFail s d = none → poisonRead s ks = none →
       (carterRoom s n = true → (∀ p, p ∈ s.strands → p.2.flight = none) → exec i s = .next (next (enqueue (.carterChunk n)
         { (modCarter n (fun q => { q with queue := q.queue ++ [{ c with rnga := sd.1, rngb := sd.2, id := s.fresh }] }) x.2)
           with fresh := s.fresh + 1 }))) ∧
       (carterRoom s n = false → exec i s =
         .next { inFlight (.acceptC n c s.ticket) s with ticket := s.ticket + 1 })))

/-- A carter command of one row that neither starts nor ends inside another line: its destination, and its source unless it
is a CFILL, lie in local stores of the cluster, within one 64-byte line each, without landing word. -/
def Sys2Proof.OneLine (s : State) (n : Nat) (c : CarterCmd) (src dst : Nat) : Prop :=
  (∃ r d, getCarter s n = { Carter.idle with queue := c :: r, done := d }) ∧ (getIsland s (n / 2)).powered = true ∧
  (getJob s c.job).frozen = false ∧ unitHeld s 3 (0x440 + n % 128) (n / 128) = false ∧ carterCheck s n c = (.pass, s) ∧
  carterStripe c.instr = false ∧ kdLwen c.desc = false ∧
  0 < kdLen c.desc ∧ kdCnt c.desc 0 = 1 ∧ kdCnt c.desc 1 = 1 ∧ kdCnt c.desc 2 = 1 ∧
  2 ≤ tagOf (kdDst c.desc) ∧ localSite s c.e.site (kdDst c.desc) = some dst ∧
  (kdDst c.desc).toNat % 64 + kdLen c.desc ≤ 64 ∧
  (carterOp c.instr = .copy → 2 ≤ tagOf (kdSrc c.desc) ∧ localSite s c.e.site (kdSrc c.desc) = some src ∧
    (kdSrc c.desc).toNat % 64 + kdLen c.desc ≤ 64 ∧
    poisonRead s (keysFrom (localKey src (fld (kdSrc c.desc) 0 18)) (kdLen c.desc)) = none)

/-- Each carter instruction completes when its carter accepts the command, stays in flight while the queue is full, and
raises SEG for a descriptor outside the own store; CSTAT completes. A one-line CCOPY or CFILL between local stores
writes exactly its bytes and, at the carter's next look, ends with class OK; a malformed descriptor ends with FORMAT and
writes nothing. Completion forms the entry with the deciding class, hands on the follow-on only under OK, and lets the
next command start. -/
def Obligations.CarterCommandsAreAcceptedAndRun : Prop :=
  (∀ (g : Guard) (h : Hint) (c st f : Bool) (d : XReg) (m : MemOp) (s : State),
    CarterTakes (.ccopy g h c st f d m) g d m s ∧ CarterTakes (.cfill g h c d m) g d m s ∧
    CarterTakes (.cconv g h c st f d m) g d m s ∧ CarterTakes (.cgath g h c f d m) g d m s ∧
    (guardVal g s = true → exec (.cstat g h c d) s =
      .next (next (wx d (carterWord s (2 * yardOf s.cur.site + (if c then 1 else 0))) s)))) ∧
  (∀ (s : State) (n : Nat) (c : CarterCmd) (src dst : Nat), MemInv s → OneLine s n c src dst →
    carterOp c.instr = .copy ∨ carterOp c.instr = .fill →
    (let to_ := keysFrom (localKey dst (fld (kdDst c.desc) 0 18)) (kdLen c.desc)
     ∃ v u, exec (.carterChunk n) s = .next v ∧ exec (.carterChunk n) v = .next u ∧ (getCarter u n).cls = some (0, c.daddr) ∧
       (getCarter u n).bytes = kdLen c.desc ∧ (getCarter u n).poison = false ∧
       (∀ k, k ∉ to_ → readByte u k = readByte s k) ∧
       (∀ i, i < kdLen c.desc → readByte u (localKey dst (fld (kdDst c.desc) 0 18) + i) =
         if carterOp c.instr = .copy then readByte s (localKey src (fld (kdSrc c.desc) 0 18) + i)
         else (kdSrc c.desc).extractLsb' (8 * (((kdDst c.desc).toNat + i) % 8)) 8))) ∧
  (∀ (s : State) (n : Nat) (c : CarterCmd) (r : List CarterCmd), (getCarter s n).queue = c :: r →
    (getIsland s (n / 2)).powered = true → unitHeld s 3 (0x440 + n % 128) (n / 128) = false → (getCarter s n).lines = [] →
    (getCarter s n).cls = none → (getCarter s n).stalled = false → (getJob s c.job).frozen = false →
    (getCarter s n).started = false → carterFieldsOk c.instr c.desc = false →
    yardLive s (n / 2) = true →
    ∃ u, exec (.carterChunk n) s = .next u ∧ (getCarter u n).cls = some (11, c.daddr) ∧ u.mem = s.mem) ∧
  (∀ (s : State) (n : Nat) (c : CarterCmd) (r : List CarterCmd) cls a, (getCarter s n).queue = c :: r →
    (getCarter s n).cls = some (cls, a) → (getCarter s n).entry = none → (getCarter s n).lines = [] →
    (cmdStores s n c).any (·.st == 0) = false →
    (let x := carterClass s n (getCarter s n) c cls a
     (x.1 ≠ 0 ∨ carterFollow c.instr = false ∨ (getCarter s n).handed = true →
       exec (.carterCommandComplete n) s = .next (carterForm n (getCarter s n) c x s) ∧
       (c.handle = 0 → (getCarter (carterForm n (getCarter s n) c x s) n).queue = r ∧
         (getCarter (carterForm n (getCarter s n) c x s) n).done = (getCarter s n).done + 1)) ∧
     (x.1 = 0 → carterFollow c.instr = true → (getCarter s n).handed = false → ∀ f, followOn s c = some f →
       loomRoom s c.e.site = true → exec (.carterCommandComplete n) s =
         .next (carterForm n (getCarter s n) c x (modCarter n (fun q => { q with handed := true }) (loomEnqueue f s)))))) ∧
  (∀ (s : State) (n : Nat) (q : Carter) (c : CarterCmd) cls a,
    (cls ≠ 0 → carterClass s n q c cls a = (cls, a)) ∧
    (q.drop = true → (carterClass s n q c 0 a).1 = 1) ∧
    (q.drop = false → q.poison = true → (carterClass s n q c 0 a).1 = 5) ∧
    (q.drop = false → q.poison = false → (∀ w, w ∈ cmdStores s n c → w.st = 1) → carterClass s n q c 0 a = (0, c.daddr)))


/-! ### Windows, contexts and reflection -/

/-- WMAP maps the image it reads or writes the reason and changes nothing; WUNMAP clears V, waiting for unsettled
stores; both are for stewards. RFENCE waits for every covered store of the strand that issued it to settle, and while
its job is frozen, and writes the status, 0 if all were performed. CTXSV and CTXLD complete with 0, or 1 or 2 where slot
or strand do not fit, raise ADDR for a slot not granted and ILLEGAL for strand 7; a context saved and loaded again is
the same but for its monitors, which are disarmed. -/
def Obligations.WindowsFencesAndContexts : Prop :=
  (∀ (g : Guard) (rx_ : Bool) (d b : XReg) (m : MemOp) (s : State) a,
    ((me s).priv = false → exec (.wmap g rx_ d m b) s = .next (raise .priv (me s).pc s)) ∧
    ((me s).priv = true → guardVal g s = true → checkLocal s m (if rx_ then 32 else 80) 16 .load = .ok a → s.pend = [] →
      (let ks := localKeys s a (if rx_ then 32 else 80)
       let w := (rx s b).toNat % 2 ^ 12
       let r := wmapWith rx_ w (readNat s ks) s
       poisonRead s ks = none →
       exec (.wmap g rx_ d m b) s = .next (next (wx d (BitVec.ofNat 64 r.1) (wakeWindows r.2))) ∧
       (r.1 ≠ 0 → r.2 = s) ∧
       (r.1 = 0 → rx_ = true → rxEntry r.2 w = BitVec.ofNat 256 (readNat s ks) ∧ rxValid (rxEntry r.2 w) = true ∧
         ∀ v, v ≠ w → rxEntry r.2 v = rxEntry s v) ∧
       (r.1 = 0 → rx_ = false → txEntry r.2 w = BitVec.ofNat 640 (readNat s ks) ∧ txValid (txEntry r.2 w) = true ∧
         ∀ v, v ≠ w → txEntry r.2 v = txEntry s v)))) ∧
  (∀ (g : Guard) (b : XOpnd) (s : State),
    (let w := (rxo s b).toNat % 2 ^ 12
     ((me s).priv = false → ∀ r, exec (.wunmap g r b) s = .next (raise .priv (me s).pc s)) ∧
     ((me s).priv = true → guardVal g s = true →
       (exec (.wunmap g true b) s = .next (next (clearRx w s)) ∧ rxValid (rxEntry (clearRx w s) w) = false) ∧
       (windowBusy s w s.wstores.length = true →
         exec (.wunmap g false b) s = .next (inFlight (.unmap w s.wstores.length) s)) ∧
       (windowBusy s w s.wstores.length = false → exec (.wunmap g false b) s = .next (next (clearTx w s)) ∧
         txValid (txEntry (clearTx w s) w) = false)))) ∧
  (∀ (g : Guard) (d : XReg) (b : XOpnd) (sel : Fin 3) (s : State), guardVal g s = true →
    exec (.wstat g sel d b) s = .next (next (wx d (wstatValue s sel (rxo s b)) s)) ∧
    ((me s).priv = false → txJob (txEntry s ((rxo s b).toNat % 2 ^ 12)) ≠ (myTile s).job →
      wstatValue s 0 (rxo s b) = 0)) ∧
  (∀ (g : Guard) (d : XReg) (w : Option XOpnd) (s : State), guardVal g s = true →
    (let win := w.map fun b => (rxo s b).toNat % 2 ^ 12
     let n := s.wstores.length
     let cov := s.wstores.filter (covered s.cur win)
     ((∃ x, x ∈ cov ∧ x.st = 0) → exec (.rfence g d w) s = .next (waitFor .waitf (.rfence s.cur) (.rfence g d w) n s)) ∧
     ((∀ x, x ∈ cov → x.st ≠ 0) →
       CompletesFrom (exec (.rfence g d w) s) (wx d (rfenceStatus cov) (rfenceMark s.cur win n s))) ∧
     ((∀ x, x ∈ cov → x.st = 1) → rfenceStatus cov = 0))) ∧
  (∀ (e : SRef) (s : State),
    (∀ f g d w k n, (getStrand s (skey e)).wait = some ⟨.rfence f, .rfence g d w, k, n⟩ →
      (let win := w.map fun b => (rxo (asStrand e s) b).toNat % 2 ^ 12
       let frozen := (getJob s (getTile s e.site).job).frozen
       (rfencePending s f win n = true ∨ frozen = true → exec (.rfenceComplete e) s = .next s) ∧
       (rfencePending s f win n = false → frozen = false → exec (.rfenceComplete e) s =
         .next (rfenceEnd f d win n (endWait e (asStrand e s)))))) ∧
    (∀ w n, (getStrand s (skey e)).wait = none → (getStrand s (skey e)).flight = some (.unmap w n) →
      windowBusy s w n = false → exec (.rfenceComplete e) s = .next (next (clearTx w (readyIn 1 (asStrand e s)))))) ∧
  (∀ (g : Guard) (n : Fin 8) (d : XReg) (b : XOpnd) (s : State), guardVal g s = true → s.pend = [] →
    (let k := 64 * yardOf s.cur.site + (rxo s b).toNat % 64
     let e : SRef := ⟨s.cur.site, n.val⟩
     let t := getStrand s (skey e)
     (n = 7 → exec (.ctxsv g n d b) s = .next (raise .illegal (me s).pc s) ∧
       exec (.ctxld g n d b) s = .next (raise .illegal (me s).pc s)) ∧
     (n ≠ 7 → (getSlot s k).grant = false ∨ (getSlot s k).job ≠ (myTile s).job →
       exec (.ctxsv g n d b) s = .next (raise .addr (rxo s b) s) ∧
       exec (.ctxld g n d b) s = .next (raise .addr (rxo s b) s)) ∧
     (n ≠ 7 → (getSlot s k).grant = true → (getSlot s k).job = (myTile s).job →
       ((getSlot s k).full = true → exec (.ctxsv g n d b) s = .next (next (wx d 1 s)) ∧
         (t.run ≠ .off → t.run ≠ .parked → exec (.ctxld g n d b) s = .next (next (wx d 2 s))) ∧
         (t.run = .off ∨ t.run = .parked →
           exec (.ctxld g n d b) s = .next (next (readyIn 73 (wx d 0 (loadFrom k e s)))))) ∧
       ((getSlot s k).full = false → exec (.ctxld g n d b) s = .next (next (wx d 1 s)) ∧
         (t.run = .off ∨ t.run = .parked → exec (.ctxsv g n d b) s = .next (next (wx d 2 s))) ∧
         (t.run ≠ .off → t.run ≠ .parked → e ≠ s.cur → t.flight = none →
           exec (.ctxsv g n d b) s = .next (next (wx d 0 (parkIn k e (readyIn 73 s))))))))) ∧
  (∀ (k : Nat) (e : SRef) (s : State), (getStrand s (skey e)).run = .run → (getStrand s (skey e)).wait = none →
    (let t := getStrand s (skey e)
     let u := parkIn k e s
     let v := getStrand (loadFrom k e u) (skey e)
     (getStrand u (skey e)).run = .parked ∧ (getSlot u k).full = true ∧ (getSlot u k).from_ = endpoint s e ∧
     v.run = .run ∧ v.pc = t.pc ∧ v.x = t.x ∧ v.v = t.v ∧ v.p = t.p ∧ v.k = t.k ∧ v.seg = t.seg ∧ v.ports = t.ports ∧
     v.priv = t.priv ∧ v.handler = t.handler ∧ v.trapbase = t.trapbase ∧ v.trappc = t.trappc ∧ v.quantum = t.quantum ∧
     v.rnga = t.rnga ∧ v.rngb = t.rngb ∧ (∀ i : Fin 4, v.mons.get i = ⟨none, false⟩) ∧
     (getSlot (loadFrom k e u) k).full = false))

/-- A store of the expected sequence is performed or refused, after which the same store only is answered again; a later
one asks for retransmission; one of a closed epoch is dropped; a store accepted writes exactly its bytes. An answer
settles its store and frees OUT; samples move CAP within its bounds. A timeout sends again every store that has gone
four times BASE unacknowledged, and the ninth closes the path with its stores indeterminate, as a link failure does. A
pending window becomes valid when every receiver is. (The model's choices: that the first sample of a peer is its BASE and
that a link failure leaves it without one is log entry 44; that without BASE every store is overdue is log entry 74; the
receiver's key of a path is log entry 100.) -/
def Obligations.ReflectedStoresArriveOnceInOrder : Prop :=
  (∀ (w : RWrite) (s : State),
    (rxEpoch s w = none → exec (.reflectedWriteArrival w) s = .next s) ∧
    (∀ r, rxEpoch s w = some r → (∀ o, rpathGet s (rpathOf w) = some o → o.epoch = w.epoch) →
      (w.seq < r.expected → exec (.reflectedWriteArrival w) s =
        .next (rxAnswer w (if r.refused.contains w.seq then .refuse else .ack) s)) ∧
      (r.expected < w.seq → exec (.reflectedWriteArrival w) s =
        .next (rxResend w r.expected (rpathSet (rpathOf w) r s))) ∧
      (w.seq = r.expected → ∀ a t, rxPerform w s = .answer a t → ∃ u, exec (.reflectedWriteArrival w) s = .next u ∧
        u.mem = t.mem ∧ (rpathGet u (rpathOf w)).map (·.expected) = some (w.seq + 1) ∧
        ∃ v, exec (.reflectedWriteArrival w) u = .next v ∧ v.mem = u.mem ∧ v.queues = u.queues ∧ v.strands = u.strands))) ∧
  (∀ (w : RWrite) (s : State),
    (let e := rxEntry s w.rxwin
     let t := (rxTarget e).toNat
     (rxAccepts s w e = false → rxPerform w s = .answer .refuse s) ∧
     (MemInv s → rxAccepts s w e = true → rxKind e = 0 → 2 ≤ tagOf (rxTarget e) → t % 2 ^ 18 + w.offset + w.size ≤ 0x40000 →
       w.bytes.length = w.size → (∀ i, i < w.size → (w.bytes.map (·.1))[i]? = some (w.offset + i)) → rxLwen e = false →
       (let base := localKey (siteInCluster (rxCluster e) (t / 2 ^ 18 % 8) (t / 2 ^ 21 % 16)) (t % 2 ^ 18 + w.offset)
        ∃ u, rxPerform w s = .answer .ack u ∧ (∀ i, i < w.size → some (readByte u (base + i)) = (w.bytes.map (·.2))[i]?) ∧
          (∀ k, k < base ∨ base + w.size ≤ k → readByte u k = readByte s k))))) ∧
  (∀ (p : PathId) (epoch seq : Nat) (a : RAnswer) rtt (s : State),
    (let v := pathGet s p
     let dev := pathDevice s p
     (v.held.find? (fun h => h.w.seq == seq && h.w.epoch == epoch) = none →
       exec (.reflectionAck p epoch seq a rtt) s = .next s) ∧
     (∀ h, v.held.find? (fun h => h.w.seq == seq && h.w.epoch == epoch) = some h → v.queued = [] →
       h.id < s.wstores.length → ∃ t, exec (.reflectionAck p epoch seq a rtt) s = .next t ∧
         (t.wstores[h.id]?).map (·.st) = some (if a = .ack then 1 else 2) ∧
         (∀ j, j ≠ h.id → t.wstores[j]? = s.wstores[j]?) ∧
         (pathGet t p).held = v.held.filter (fun h => !(h.w.seq == seq && h.w.epoch == epoch)) ∧
         (getPeer t dev).out = (getPeer s dev).out - h.w.size ∧ t.mem = s.mem))) ∧
  (∀ (t : Nat) (p : Peer),
    (let base := p.base.getD t
     (peerSample t p).base = some (min base t) ∧
     (t ≤ base + 2000 → (peerSample t p).cap = min (4 * 2 ^ 20) (p.cap + 16 * 2 ^ 10)) ∧
     (base + 8000 < t → (peerSample t p).cap = max (16 * 2 ^ 10) (p.cap / 2)) ∧
     (base + 2000 < t → t ≤ base + 8000 → (peerSample t p).cap = p.cap))) ∧
  (∀ (p : PathId) (n : Nat) (s : State), pathDevice s p ≠ s.device → ∃ t, exec (.retransmitRequest p n) s = .next t ∧
    t.out = s.out ++ (((pathGet s p).held.filter fun h => decide (n ≤ h.w.seq)).map fun h => .write (pathDevice s p) h.w) ∧
    t.mem = s.mem ∧ (pathGet t p).held = (pathGet s p).held.map fun h =>
      if n ≤ h.w.seq then { h with sent := s.devtime.toNat } else h) ∧
  (∀ (p : PathId) (s : State),
    (let v := pathGet s p
     let dev := pathDevice s p
     let due (h : HeldStore) := overdue (getPeer s dev).base s.devtime.toNat h
     ((∀ h, h ∈ v.held → due h = true → h.n < 8) → ∃ t, exec (.retransmitTimeout p) s = .next t ∧
       (pathGet t p).held = v.held.map (fun h => if due h then { h with n := h.n + 1, sent := s.devtime.toNat } else h) ∧
       (pathGet t p).closed = v.closed ∧ t.wstores = s.wstores ∧
       (dev ≠ s.device → t.out = s.out ++ (v.held.filter due).map fun h => .write dev h.w)) ∧
     ((∃ h, h ∈ v.held ∧ due h = true ∧ 8 ≤ h.n) → ∃ t, exec (.retransmitTimeout p) s = .next t ∧
       (pathGet t p).held = [] ∧ (pathGet t p).closed = true ∧
       ((∀ h, h ∈ v.held → h.id < s.wstores.length) → ∀ h, h ∈ v.held → (t.wstores[h.id]?).map (·.st) = some 3)))) ∧
  (∀ (l : Nat) (p : PathId) (s : State), l < 24 → ∃ t, exec (.spaheLinkDown l [p]) s = .next t ∧
    (getPeer t (pathDevice s p)).base = none ∧
    ((pathGet s p).held = [] → t.wstores = s.wstores ∧ (pathGet t p).closed = (pathGet s p).closed) ∧
    ((pathGet s p).held ≠ [] → (pathGet t p).closed = true ∧ (pathGet t p).held = [])) ∧
  (∀ (w : Nat) (ps : List (Nat × Nat × Nat)) (rs : List (List Byte × List Byte)) (s : State),
    (s.pendWin.find? (fun q => q.1 == w) = none → ∀ o, exec (.pendingWindowValid w o) s = .next s) ∧
    (s.pendWin.find? (fun q => q.1 == w) = some (w, rs) →
      (let job := txJob (txEntry s w)
       (ps.length = rs.length ∧ ps.all (peerValid s job) = true → exec (.pendingWindowValid w (some ps)) s =
         .next (wakeWindows (mapTx w (txImage job ps) s))) ∧
       (¬(ps.length = rs.length ∧ ps.all (peerValid s job) = true) →
         exec (.pendingWindowValid w (some ps)) s = .next s) ∧
       exec (.pendingWindowValid w none) s = .next (reportWindow job s))))


/-! ### Events: quantum, pager, TLBs, detectors, recovery -/

/-- A TIMER that is due at a boundary is taken. Once the pager has its fault record, and where R412 allows the answer,
REISSUE returns a PAGED strand to RUN with nothing done, DELIVER raises its cause with the VA, and RESUME and ABORT let a
stalled command go on or end it with TRANSLATE; an answer that R412 does not allow does nothing (the model's choice, log
entry 10). A held record goes to a queue with room (which tile's first is log entry 93); an invalidation removes exactly the
entries it names. Two quiet samples declare a deadlock; the watchdog restarts. Recovery, once the strands are OFF and the
engines done, rewinds inputs to KEEP and outputs to COMMIT and restarts the strands; after a second UNCORR in a recovered round
it leaves the booth halted. (Stated for a pager and a loader that do not stall at a host completion queue, and a recovery for
a booth with no record in transit.) -/
def Obligations.PagerTimerAndBoothEvents : Prop :=
  (∀ (e : SRef) (s : State),
    (let t := getStrand s (skey e)
     let job := (getTile s e.site).job
     let die := dieOf e.site
     (t.timerDue = false → exec (.quantumExpiry e) s = .next s) ∧
     (t.timerDue = true → t.run = .run → t.flight = none → t.readyAt ≤ (getTile s e.site).cycle + 1 →
       t.handler = false → t.halting = false →
       ∃ u, exec (.quantumExpiry e) s = .next u ∧ (getStrand u (skey e)).cause = 13 ∧
         (getStrand u (skey e)).handler = true ∧ (getStrand u (skey e)).trappc = t.pc &&& 0x3FFFC ∧
         (getStrand u (skey e)).trapaddr = 0 ∧ (getStrand u (skey e)).x = t.x ∧ SameBut e s u) ∧
     (roleHeld s die 1 = false → t.run ≠ .paged →
       exec (.pagerReissue e) s = .next s ∧ ∀ c, exec (.pagerDeliver e c) s = .next s) ∧
     (∀ va kind i n m, roleHeld s die 1 = false → t.run = .paged → t.wait = some ⟨.page va kind, i, n, m⟩ →
       (recordSent e s = false ∨ reissueOk s die job va kind = false → exec (.pagerReissue e) s = .next s) ∧
       (recordSent e s = true → reissueOk s die job va kind = true → ∃ u, exec (.pagerReissue e) s = .next u ∧
         (getStrand u (skey e)).run = .run ∧ (getStrand u (skey e)).wait = none ∧ (getStrand u (skey e)).pc = t.pc ∧
         (getStrand u (skey e)).x = t.x ∧ u.mem = s.mem) ∧
       (∀ c, recordSent e s = false ∨ deliverOk s die job va kind c = false → exec (.pagerDeliver e c) s = .next s) ∧
       (∀ c, recordSent e s = true → deliverOk s die job va kind c = true → t.handler = false → t.halting = false →
         ∃ u, exec (.pagerDeliver e c) s = .next u ∧ (getStrand u (skey e)).run = .run ∧
           (getStrand u (skey e)).cause = BitVec.ofNat 4 (causeCode c) ∧
           (getStrand u (skey e)).trapaddr = BitVec.ofNat 64 va ∧ (getStrand u (skey e)).trappc = t.pc &&& 0x3FFFC ∧
           (getStrand u (skey e)).handler = true ∧ (getStrand u (skey e)).wait = none ∧
           (getStrand u (skey e)).x = t.x)))) ∧
  (∀ (s : State) (y t n : Nat) c r,
    (roleHeld s (y / 64) 1 = false → tget [] (getLoom s y).queues t = c :: r → c.stalled = true →
      engineSent (.loom y t) s = true →
      (reissueOk s (y / 64) c.job c.va c.skind = true → ∃ u, exec (.pagerResume (.loom y t)) s = .next u ∧
        tget [] (getLoom u y).queues t = { c with stalled := false, fclass := none } :: r) ∧
      (reissueOk s (y / 64) c.job c.va c.skind = false → exec (.pagerResume (.loom y t)) s = .next s) ∧
      ((∃ k, deliverOk s (y / 64) c.job c.va c.skind k = true) → ∃ u, exec (.pagerAbort (.loom y t)) s = .next u ∧
        tget [] (getLoom u y).queues t = { c with stalled := false, fclass := some 2 } :: r)) ∧
    (∀ c r, roleHeld s (n / 128) 1 = false → (getCarter s n).stalled = true → (getCarter s n).queue = c :: r → engineSent (.carter n) s = true →
      (let q := getCarter s n
       (reissueOk s (n / 128) c.job q.va.toNat q.skind = true → ∃ u, exec (.pagerResume (.carter n)) s = .next u ∧
         (getCarter u n).stalled = false ∧ (getCarter u n).cls = q.cls ∧ Instr.carterChunk n ∈ u.internal) ∧
       (reissueOk s (n / 128) c.job q.va.toNat q.skind = false → exec (.pagerResume (.carter n)) s = .next s) ∧
       ((∃ k, deliverOk s (n / 128) c.job q.va.toNat q.skind k = true) → ∃ u, exec (.pagerAbort (.carter n)) s = .next u ∧
         (getCarter u n).stalled = false ∧ (getCarter u n).cls = some (2, q.va))))) ∧
  (∀ (die site : Nat) (t : Tile) r rest (s : State), die < 4 →
    (s.tiles.find? (fun t => t.1 / 1024 == die && t.2.heldFaults != []) = none →
      exec (.faultRecordSend die) s = .next s) ∧
    (s.tiles.find? (fun t => t.1 / 1024 == die && t.2.heldFaults != []) = some (site, t) → t.heldFaults = r :: rest →
      ((getDie s die).faultQ.length < 4096 → ∃ u, exec (.faultRecordSend die) s = .next u ∧
        (getDie u die).faultQ = (getDie s die).faultQ ++ [r] ∧ (getTile u site).heldFaults = rest) ∧
      (4096 ≤ (getDie s die).faultQ.length → exec (.faultRecordSend die) s = .next s))) ∧
  (∀ (die : Nat) (i : BitVec 128) (r : List (BitVec 128)) (s : State), (getDie s die).transQ = i :: r → s.pend = [] →
    jobInFlight s (i.extractLsb' 64 16) = false →
    ∃ u, exec (.tlbInvalidate die) s = .next u ∧ (getDie u die).transQ = r ∧
      (∀ cl, tget [] u.tlbs cl = (tget [] s.tlbs cl).filter fun x => !invalHits i x) ∧
      (∀ d, d < 4 → (getDie u d).ltlb = (getDie s d).ltlb.filter fun x => !invalHits i x) ∧ u.mem = s.mem) ∧
  (∀ (job booth : Nat) (s : State), booth ≠ 0 →
    (let bk := 65536 * job + booth
     let b := getBooth s bk
     b.tiles ≠ [] → detectorHeld s bk = false →
      (let q := quiescent s bk
       let still := q && b.lastQuiet && !b.moved
       (still = true → b.declared = false → exec (.deadlockSample job booth) s =
         .next (declareBooth bk 1 (boothStrands b) (modBooth bk (fun b => { b with
           lastQuiet := true, moved := false, declared := true }) s))) ∧
       (still = false ∨ b.declared = true → exec (.deadlockSample job booth) s =
         .next (modBooth bk (fun b => { b with
           lastQuiet := q, moved := false, declared := b.declared && q && !b.moved }) s))) ∧
      (b.watch < b.period → exec (.watchdogExpiry job booth) s = .next s) ∧
      (b.period ≤ b.watch → ∃ u, exec (.watchdogExpiry job booth) s = .next u ∧ (getBooth u bk).watch = 0 ∧
        u.strands = s.strands ∧ u.queues = s.queues))) ∧
  (∀ (job booth : Nat) (s : State), booth ≠ 0 → booth < 65536 →
    (let bk := 65536 * job + booth
     let b := getBooth s bk
     (pastRecovery s bk = true → exec (.boothRecovery job booth) s = .next s) ∧
     (pastRecovery s bk = false →
      ((getJob s (BitVec.ofNat 16 job)).frozen = true ∨ roleHeld s (dieOf (b.tiles.headD 0)) 4 = true → ∃ t, exec (.boothRecovery job booth) s = .next t ∧
        Instr.boothRecovery job booth ∈ t.internal ∧ t.strands = s.strands ∧ t.queues = s.queues) ∧
      ((getJob s (BitVec.ofNat 16 job)).frozen = false → roleHeld s (dieOf (b.tiles.headD 0)) 4 = false →
       boothOff s b = true → s.pend = [] → (∀ i, i ∈ s.internal → inTransit b.tiles i = false) →
       boothBusy (discardLoom bk s) b = false →
       (b.recovered = true → b.byTwin = false → ∃ t, exec (.boothRecovery job booth) s = .next t ∧
         (getBooth t bk).halted = true ∧ (getBooth t bk).reported = true ∧ t.strands = s.strands ∧ t.queues = s.queues) ∧
       (b.recovered = false ∨ b.byTwin = true → ∃ t, exec (.boothRecovery job booth) s = .next t ∧
         (getBooth t bk).recovered = (b.recovered || !b.byTwin) ∧ (getBooth t bk).recovering = false ∧
         (∀ k, isInput bk (getQueue s k) = true → (getQueue t k).head = (getQueue s k).keep ∧
           (getQueue t k).inSt = (getQueue s k).edgeSt) ∧
         (∀ k, isOutA bk (getQueue s k) = true → (getQueue t k).tail = (getQueue s k).commit ∧
           (getQueue t k).marks = []) ∧
         (∀ st, b.starts = [st] → st.on = true → st.k < 7 → (getStrand t (8 * st.site + st.k)).run = .run ∧
           (getStrand t (8 * st.site + st.k)).pc = BitVec.ofNat 64 st.pc))))))


/-! ### The host ports -/

/-- HSEMA is granted to a reader while free and freed by its owner (to the pager while an urgent freeze is in progress); S
registers change only for the owner. A link that goes down or a reset clears the EN bits, keeps the positions and loses the
semaphore; a time-out gives SEG to the strands and ABORT to the engines that wait. HCREL moves only forward; an admitted
completion entry goes to its place with its sequence tag, another is held. A kicked entry is accepted if its tag fits, else
read again, and after 64 times the queue stops; while the serving carter stalls at a completion queue the kick is only
recorded; an enabled queue only lets EN be cleared. (That HQBASE keeps bits 63 to 12 and that the 64 rereads are counted after
the first read are the model's choices, log entry 21.) -/
def Obligations.HostPortEvents : Prop :=
  (∀ (p : Nat) (v : Word) (s : State), p < 2 →
    (∃ t, exec (.hsemaRead p) s = .next t ∧ t.out = s.out ++ [.read p (s.sema.zeroExtend 64)] ∧
      (s.sema = 0 → t.sema = BitVec.ofNat 2 (p + 1)) ∧ (s.sema ≠ 0 → t.sema = s.sema) ∧ t.mem = s.mem) ∧
    (v = 0 → s.sema = BitVec.ofNat 2 (p + 1) → exec (.hsemaWrite p v) s =
      .next { s with sema := if freezing s then 3 else 0, pagerSema := freezing s }) ∧
    (v ≠ 0 ∨ s.sema ≠ BitVec.ofNat 2 (p + 1) → exec (.hsemaWrite p v) s = .next s) ∧
    (s.sema = BitVec.ofNat 2 (p + 1) → exec (.devctlFwact p) s = .next { s with fwact := true }) ∧
    (s.sema ≠ BitVec.ofNat 2 (p + 1) → ∃ t, exec (.devctlFwact p) s = .next t ∧ t.fwact = s.fwact ∧
      (MemInv s → ∀ k, logKey s (if p = 0 then 0 else 3) k = false → readByte t k = readByte s k)) ∧
    (s.sema = BitVec.ofNat 2 (p + 1) → exec (.barRegisterWrite p 0x40 v) s =
      .next { s with powercap := BitVec.ofNat 12 (min (v.toNat % 4096) 2400) }) ∧
    (s.sema ≠ BitVec.ofNat 2 (p + 1) → ∃ t, exec (.barRegisterWrite p 0x40 v) s = .next t ∧ t.powercap = s.powercap) ∧
    (∀ q, q < 16 → (getHq s p q).en = false → ∃ t, exec (.barRegisterWrite p (0x10000 + 0x40 * q) v) s = .next t ∧
      (getHq t p q).base = v &&& ~~~0xFFF ∧ (getHq t p q).pos = (getHq s p q).pos) ∧
    (∀ q, q < 16 → (getHq s p q).en = true → exec (.barRegisterWrite p (0x10000 + 0x40 * q) v) s = .next s)) ∧
  (∀ (p : Nat) (s : State), p < 2 →
    (∃ t, exec (.hostLinkUp p) s = .next t ∧ (getPort t p).up = true ∧
      ((∀ b, b ∈ s.booths → b.2.halted = false) → t.strands = s.strands)) ∧
    (∃ t, exec (.hostLinkDown p) s = .next t ∧ (getPort t p).up = false ∧
      (∀ q, (getHq t p q).en = false ∧ (getHq t p q).pos = (getHq s p q).pos ∧ (getHcq t p q).en = false ∧
        (getHcq t p q).pos = (getHcq s p q).pos) ∧
      (s.sema = BitVec.ofNat 2 (p + 1) → t.sema = if freezing s then 3 else 0) ∧
      (s.sema ≠ BitVec.ofNat 2 (p + 1) → t.sema = s.sema)) ∧
    (∃ t, exec (.functionLevelReset p) s = .next t ∧ (getPort t p).up = (getPort s p).up ∧
      (∀ q, (getHq t p q).en = false ∧ (getHcq t p q).en = false) ∧
      (s.sema = BitVec.ofNat 2 (p + 1) → t.sema = if freezing s then 3 else 0)) ∧
    ((getPort s 0).up = true ∨ (getPort s 1).up = true → exec .hostAccessTimeout s = .next s) ∧
    ((getPort s 0).up = false → (getPort s 1).up = false → ∃ t, exec .hostAccessTimeout s = .next t ∧
      t.strands = s.strands ∧ (∀ e, e ∈ hostStrands s → Instr.pagerDeliver e .seg ∈ t.internal) ∧
      (∀ e, e ∈ hostEngines s → Instr.pagerAbort e ∈ t.internal))) ∧
  (∀ (p m : Nat) (v : BitVec 32) (s : State), p < 2 →
    ((v - (getHcq s p m).rel).toNat < 2 ^ 31 → ∃ t, exec (.hcrel p m v) s = .next t ∧ (getHcq t p m).rel = v) ∧
    (2 ^ 31 ≤ (v - (getHcq s p m).rel).toNat → exec (.hcrel p m v) s = .next s) ∧
    ((getHcq s p m).held = [] ∨ ((getPort s p).up = true ∧ (getHcq s p m).en = true) →
      exec (.completionHoldTimeout p m) s = .next s) ∧
    (∀ e r, (getHcq s p m).held = e :: r → (getPort s p).up = false →
      10 ^ 9 ≤ (s.devtime - e.extractLsb' 128 64).toNat →
      ∃ t, exec (.completionHoldTimeout p m) s = .next t ∧ (∃ more, (getHcq t p m).held = r ++ more) ∧
        (s.requests = [] → (∀ b, b ∈ s.booths → b.2.halted = false) → (getHcq t p m).held = r ∧
          (MemInv s → ∀ k, logKey s (if p = 0 then 0 else 3) k = false → readByte t k = readByte s k)))) ∧
  (∀ (p m : Nat) (en : BitVec 256) (s : State), p < 2 → MemInv s →
    (let q := getHcq s p m
     let ks := keysFrom (hostKey (q.base.toNat + 32 * (q.pos % 2 ^ q.logsize))) 32
     ((getPort s p).up = true → q.en = true → q.held = [] → (BitVec.ofNat 32 q.pos - q.rel).toNat < 2 ^ q.logsize →
       (getHcq (hcqPut p m en s) p m).pos = q.pos + 1 ∧
       (readNat (hcqPut p m en s) ks / 2 ^ 24 % 2 ^ 8 = q.pos % 255 + 1) ∧
       (readNat (hcqPut p m en s) ks % 2 ^ 24 = en.toNat % 2 ^ 24) ∧
       (readNat (hcqPut p m en s) ks / 2 ^ 32 = en.toNat / 2 ^ 32)) ∧
     ((getPort s p).up = false ∨ q.en = false ∨ 2 ^ q.logsize ≤ (BitVec.ofNat 32 q.pos - q.rel).toNat →
       (getHcq (hcqPut p m en s) p m).held = q.held ++ [en] ∧ (hcqPut p m en s).mem = s.mem))) ∧
  (∀ (p q : Nat) (pos : BitVec 32) (v : Word) (s : State), p < 2 →
    (let h := getHq s p q
     let live := (getPort s p).up = true ∧ h.en = true
     let held := unitHeld s 3 (hqUnit s p) (if p = 0 then 0 else 3)
     let bs := readKeys s (keysFrom (hostKey (h.base.toNat + 64 * (h.pos % 2 ^ h.logsize))) 64)
     let good := (bs.getD 63 0).toNat = h.pos % 255 + 1
     let ahead := pos = BitVec.ofNat 32 h.pos + 1
     (¬live → exec (.hqkick p q pos) s = .next s ∧ exec (.hostEntryReread p q) s = .next s) ∧
     (2 ^ 31 ≤ (pos - BitVec.ofNat 32 h.pos).toNat → exec (.hqkick p q pos) s = .next s) ∧
     (live → held = true → ahead → ∃ t, exec (.hqkick p q pos) s = .next t ∧ (getHq t p q).pos = h.pos ∧
       (getHq t p q).kick = h.pos + 1 ∧ t.requests = s.requests) ∧
     (live → held = false → ahead → good → q < 4 → ∃ t, exec (.hqkick p q pos) s = .next t ∧
       (getHq t p q).pos = h.pos + 1) ∧
     (live → held = false → ahead → ¬good → ∃ t, exec (.hqkick p q pos) s = .next t ∧ (getHq t p q).pos = h.pos ∧
       (getHq t p q).kick = h.pos + 1 ∧ Instr.hostEntryReread p q ∈ t.internal) ∧
     (live → held = false → h.kick = h.pos + 1 → h.rereads = 0 ∨ h.since + 128 ≤ s.devtime.toNat →
       (good → q < 4 → ∃ t, exec (.hostEntryReread p q) s = .next t ∧ (getHq t p q).pos = h.pos + 1) ∧
       (¬good → 64 ≤ h.rereads → ∃ t, exec (.hostEntryReread p q) s = .next t ∧ (getHq t p q).pos = h.pos ∧
         (getHq t p q).kick = h.pos)) ∧
     (h.en = true → v.getLsbD 8 = true → exec (.hqctlWrite p q v) s = .next s) ∧
     (h.en = true → v.getLsbD 8 = false → ∃ t, exec (.hqctlWrite p q v) s = .next t ∧ (getHq t p q).en = false ∧
       (getHq t p q).logsize = h.logsize) ∧
     (h.en = false → ∃ t, exec (.hqctlWrite p q v) s = .next t ∧ (getHq t p q).logsize = v.toNat % 32 ∧
       ((getHq t p q).en = true → v.getLsbD 8 = true ∧ 4 ≤ v.toNat % 32 ∧ v.toNat % 32 ≤ 16 ∧
         (getHq t p q).pos = 0))))


/-! ### Host requests -/

/-- R384: the steward has reached the request, which is well-formed, and stalls neither at a host completion queue (R283) nor
for want of a link (R162). -/
def Sys2Proof.Served (q : Nat) (op : BitVec 8) (r : HostReq) (s : State) : Prop :=
  r.op = op ∧ isServed q r s = true ∧ reqBad q r = false ∧ (r.port = 2 ∨ stewardHeld s q r = false) ∧
    waitsLink s op = false

/-- An event of a request that its steward has not reached, or at which it stalls, or of a malformed one, does nothing.
START_JOB with a fit grant makes the job; a bad descriptor completes with FORMAT. KILL_JOB ends with the job unknown; a
freeze that has stopped everything saves the job and frees its tiles, resumption and checkpoint bring it back, or
complete with ACCESS while its tiles are taken. The grant, log, firmware and version requests do what they name or
complete with their class; RUN in the urgent line starts strand 7 at the multiple of 4 that ENTRY names and clears KIND.
(The model's choices: that such an event does nothing and the request stays, log entry 10; ACCESS for a freeze of a job that
is not granted, the earlier freeze's count for one that is frozen, and which resumptions wait, log entry 53; the cut of ENTRY,
log entry 76; that KIND is cleared once the strand runs, log entry 105.) -/
def Obligations.HostRequests : Prop :=
  (∀ (r : HostReq) (gr : Grants) (place : Bool) (s : State),
    (¬Served 0 0x01 r s → exec (.startJob r gr) s = .next s) ∧ (¬Served 0 0x02 r s → exec (.killJob r) s = .next s) ∧
    (¬Served 1 0x03 r s → exec (.urgentFreeze r) s = .next s) ∧ (¬Served 1 0x04 r s → exec (.resumeJobs r) s = .next s) ∧
    (¬Served 1 0x05 r s → exec (.checkpoint r) s = .next s) ∧ (¬Served 2 0x06 r s → exec (.grantHostQueue r) s = .next s) ∧
    (¬Served 3 0x07 r s → exec (.readLog r) s = .next s) ∧ (¬Served 0 0x08 r s → exec (.stageFirmware r) s = .next s) ∧
    (¬Served 0 0x09 r s → exec (.stageVersion r place) s = .next s) ∧
    (¬Served 3 0x0A r s → exec (.readLogCount r) s = .next s)) ∧
  (∀ (r : HostReq) (gr : Grants) (s : State), Served 0 0x01 r s →
    (readDescriptor s r = none → exec (.startJob r gr) s = .next (endReq 0 r (completeFail r 11 s))) ∧
    (∀ d, readDescriptor s r = some d →
      (let p : Plan := ⟨r, gr, d⟩
       (descriptorOk s r gr d = false → exec (.startJob r gr) s = .next (endReq 0 r (completeFail r 11 s))) ∧
       (descriptorOk s r gr d = true → gr.ok = true → p.grantsOk s = true → p.formatOk s = true → p.pagesOk s = true →
         (p.mapAll s).any (p.tablesOk s) = true → ∀ t, p.run s = .ok t → exec (.startJob r gr) s = .next (endReq 0 r t) ∧
           (getJob t gr.job).seed = r.arg2 ∧ (getJob t gr.job).tag = r.tag ∧ (getJob t gr.job).hcq = r.hcq)))) ∧
  (∀ (r : HostReq) (s : State), Served 0 0x02 r s →
    (jobKnown s r.job = false → exec (.killJob r) s = .next (doneFail' 0 r 1 s)) ∧
    (jobKnown s r.job = true → (getJob s r.job).killing = true →
      (jobBusy s r.job = true → exec (.killJob r) s = .next (enqueue (.killJob r) s)) ∧
      (jobBusy s r.job = false → ∃ t, exec (.killJob r) s = .next t ∧ jobKnown t r.job = false))) ∧
  (∀ (r : HostReq) (s : State), r.job ≠ 0 →
    (let j := r.job
     (Served 1 0x03 r s → jobKnown s j = false → exec (.urgentFreeze r) s = .next (doneFail' 1 r 1 s)) ∧
     (Served 1 0x03 r s → jobKnown s j = true → isSaved s j = true →
       exec (.urgentFreeze r) s = .next (doneOk 1 r (freezeCount s [j]) s)) ∧
     (jobKnown s j = true → isSaved s j = false → (getJob s j).frozen = true →
       (let ts := heldTiles s j
        let u := pagerTakes (abandonAll ts s)
        let w := writeFreeze r [j] u
        stopping [j] ts u = false → hostDown s = false →
         (Served 1 0x03 r s → exec (.urgentFreeze r) s = .next (doneOk 1 r (freezeCount w [j]) w) ∧
           isSaved w j = true ∧ ∀ t, t ∈ ts → (getTile w t).job = 0) ∧
         (Served 1 0x05 r s →
           (let vs := w.frozen.filter fun v => [j].contains v.job
            exec (.checkpoint r) s = .next (doneOk 1 r (freezeCount w [j])
              (resumeLog r vs.length (resumeSaved vs (keepImages vs w)))))))) ∧
     (Served 1 0x04 r s → jobKnown s j = true → isSaved s j = true →
       (let vs := s.frozen.filter fun v => [j].contains v.job
        (vs.all (fun v => tilesFree v s) = false → exec (.resumeJobs r) s = .next (doneFail' 1 r 1 s)) ∧
        (vs.all (fun v => tilesFree v s) = true → vs.all (fun v => enginesFree v s) = true → hostDown s = false →
          exec (.resumeJobs r) s = .next (doneOk 1 r 0 (resumeLog r vs.length (resumeSaved vs s))) ∧
          isSaved (resumeSaved vs s) j = false ∧ (getJob (resumeSaved vs s) j).frozen = false))))) ∧
  (∀ (r : HostReq) (s : State),
    (let h := r.arg0.extractLsb' 0 32
     let q := getQueue s (qkeyOf h)
     Served 2 0x06 r s → jobKnown s r.job = true → handleFail s r.job h = none → q.st = .open_ → q.pbooth = 0 →
      (entryBytes q = 64 → exec (.grantHostQueue r) s = .next (doneOk 2 r (h.zeroExtend 64)
        (modJob r.job (fun j => { j with hostq := j.hostq ++ [h] }) s))) ∧
      (entryBytes q ≠ 64 → exec (.grantHostQueue r) s = .next (doneFail' 2 r 11 s))) ∧
    (Served 3 0x07 r s →
      (let rs := logRange (getDie s (fld r.arg1 32 2)) r.arg0.toNat (fld r.arg1 0 32)
       exec (.readLog r) s = .next (doneOk 3 r (BitVec.ofNat 64 rs.length) (copyRecords r.arg2.toNat rs s)))) ∧
    (Served 3 0x0A r s → exec (.readLogCount r) s =
      .next (doneOk 3 r (BitVec.ofNat 64 (getDie s (fld r.arg0 0 2)).logged) s)) ∧
    (Served 0 0x08 r s →
      (let bs := readKeys s ((List.range r.arg1.toNat).map fun i => hostKey (r.arg0.toNat + i))
       (s.sema ≠ BitVec.ofNat 2 (r.port + 1) → exec (.stageFirmware r) s = .next (doneFail' 0 r 1 s)) ∧
       (s.sema = BitVec.ofNat 2 (r.port + 1) → slotOk s bs = true → exec (.stageFirmware r) s =
         .next (doneOk 0 r 0 { freeSema s with flash := s.flash.set 2 bs })) ∧
       (s.sema = BitVec.ofNat 2 (r.port + 1) → slotOk s bs = false → ∃ c, exec (.stageFirmware r) s =
         .next (doneFail' 0 r c (freeSema s))))) ∧
    (∀ place rs, Served 0 0x09 r s →
      (let bk := bkey r.job (fld r.arg2 0 16)
       let tag := fld r.arg2 16 16
       let b := getBooth s bk
       let im := parseImage (readKeys s ((List.range r.arg1.toNat).map fun i => hostKey (r.arg0.toNat + i)))
       (jobKnown s r.job = false ∨ b.tiles = [] ∨ b.finished = true →
         exec (.stageVersion r place) s = .next (doneFail' 0 r 1 s)) ∧
       (jobKnown s r.job = true → b.tiles ≠ [] → b.finished = false → (getJob s r.job).frozen = false →
         (im = none → exec (.stageVersion r place) s = .next (doneFail' 0 r 11 s)) ∧
         (im = some rs → imageOk rs = true → (declOf rs).isPerm b.decl = true → tag ≠ 0 → tag ≠ b.version →
           versionFits bk rs s = true → exec (.stageVersion r place) s = .next (keepVersion bk tag place rs r s)))))) ∧
  (∀ (site : Nat) (s : State),
    (let w := BitVec.ofNat 128 (readNat s (keysFrom (localKey site 0x3DFC0) 16))
     (fld w 0 4 ≠ 2 → exec (.urgentRun site) s = .next s) ∧
     (fld w 0 4 = 2 → isGood s site = true → MemInv s → ∃ t, exec (.urgentRun site) s = .next t ∧
       (getStrand t (8 * site + 7)).run = .run ∧ (getStrand t (8 * site + 7)).pc = BitVec.ofNat 64 (fld w 32 18 / 4 * 4) ∧
       (getStrand t (8 * site + 7)).x.get 1 = w.extractLsb' 64 64 ∧ (getStrand t (8 * site + 7)).priv = true ∧
       (readByte t (localKey site 0x3DFC0)).toNat % 16 = 0 ∧
       ∀ k, k ≠ 8 * site + 7 → (getStrand t k).x = (getStrand s k).x)))


/-! ### Boot, power, attestation -/

/-- At boot end every good site starts its strand 0 at 0 with the logical number written. The stewards' start makes
the die READY with every reserve strand at the idle code. DEVICE_RESET keeps HBM, host memory, flash and fuses,
clears local stores but for ROM, and leaves all dies in boot mode before their verification, the corner's boot ROM to run; fused
sites run nothing and the corner counts the good ones (R7); a port asks for it only with the semaphore. The corner of each die
then verifies the slots in R388's order and places the first 16 KiB of the first that is valid in its local store, after which
the die floods, or fails with code 1 or 2. A spare takes a failed device's number and the jobs whose images it holds. A steward
whose tile raised an uncorrectable error runs on the lowest-numbered free spare tile. (The model's choices: what reset keeps and
that verification takes two turns of the corner, log entry 11; that the corner of a die that has failed runs nothing, log entry
58; the form of a steward's restart and that a tile without a steward needs none, log entry 37; which jobs the spare takes, log
entry 59; that the idle code starts at 0x3_C000, log entry 105.) -/
def Obligations.BootAndReset : Prop :=
  (∀ (die : Nat) (s : State), die < 4 →
    (bootMode s die = false → exec (.bootEnd die) s = .next s) ∧
    (bootMode s die = true → readNat s (keysFrom (localKey (1024 * die) 0x3D0C0) 8) ≠ 0 →
      ∃ t, exec (.bootEnd die) s = .next t ∧ bootMode t die = false ∧ t.mem = s.mem ∧
        (getDie t die).phase = (if (getDie s die).phase = .failed then .failed else .stewards) ∧
        ∀ i, i < 1024 → isGood s (1024 * die + i) = true →
          (getStrand t (8 * (1024 * die + i))).run = .run ∧ (getStrand t (8 * (1024 * die + i))).pc = 0 ∧
          (getTile t (1024 * die + i)).logical =
            readNat s (keysFrom (localKey (1024 * die + i) 0x3D050) 8) % 2 ^ 64 % 1024)) ∧
  (∀ (die : Nat) (load : BootLoad) (s : State), die < 4 →
    (let fits := logFits die load.log = true ∧ (die = 0 → mapFits load = true)
     ((getDie s die).phase ≠ .stewards ∨ ¬fits → exec (.stewardStart die load) s = .next s) ∧
     ((getDie s die).phase = .stewards → fits → ∃ t, exec (.stewardStart die load) s = .next t ∧
       (getDie t die).phase = .ready ∧ (getDie t die).logAt = some load.log ∧ (die = 0 → t.tileMap = load.frames) ∧
       ∀ i, i < 1024 → isGood s (1024 * die + i) = true →
         (getStrand t (8 * (1024 * die + i) + 7)).run = .run ∧ (getStrand t (8 * (1024 * die + i) + 7)).pc = 0x3C000 ∧
         (getStrand t (8 * (1024 * die + i) + 7)).priv = true))) ∧
  (∀ (p : Nat) (s : State),
    (s.sema = BitVec.ofNat 2 (p + 1) → exec (.devctlReset p) s = exec .deviceReset s) ∧
    (s.sema ≠ BitVec.ofNat 2 (p + 1) → ∃ t, exec (.devctlReset p) s = .next t ∧ t.strands = s.strands ∧
      (MemInv s → ∀ k, logKey s (if p = 0 then 0 else 3) k = false → readByte t k = readByte s k))) ∧
  (∀ (s : State), MemInv s → ∃ t, exec .deviceReset s = .next t ∧ t.fused = s.fused ∧ t.flash = s.flash ∧ t.queues = [] ∧
    t.jobs = [] ∧ t.sema = 0 ∧ t.devtime = 0 ∧ t.fwact = false ∧ t.bootStaged = s.fwact ∧ t.booted = none ∧
    (∀ k, k < 2 ^ 52 → readByte t k = readByte s k) ∧
    (∀ site off, off < 2 ^ 18 → readByte t (localKey site off) =
      if 0x3C000 ≤ off ∧ off < 0x3D000 then romByte (off - 0x3C000) else 0) ∧
    (s.fused = [] → t.strands = []) ∧
    (∀ d, d < 4 → (getDie t d).phase = .reset ∧ bootMode t d = true ∧
      (1024 * d ∉ s.fused → (getStrand t (8 * (1024 * d))).run = .run ∧ (getStrand t (8 * (1024 * d))).x.get 2 =
        BitVec.ofNat 64 ((List.range 1024).filter fun i => !s.fused.contains (1024 * d + i)).length)) ∧
    (∀ site, site ∈ s.fused → (getStrand t (8 * site)).run = .off ∨ site % 1024 = 0)) ∧
  (∀ (d : Nat) (s : State), d < 4 → clocked s (1024 * d) = true →
    (let order := if s.bootStaged then [2, 0, 1] else [0, 1]
     let slot (n : Nat) := s.flash.toList.getD n []
     ((getDie s d).phase = .reset → ∃ t, issue (1024 * d) s = .idle t ∧ (getDie t d).phase = .verify ∧ t.mem = s.mem ∧
       t.strands = s.strands) ∧
     ((getDie s d).phase = .verify →
       (∀ n, order.find? (fun n => slotOk s (slot n)) = some n → ∃ t, issue (1024 * d) s = .idle t ∧
         (getDie t d).phase = .flood ∧ t.booted = some n ∧ t.strands = s.strands ∧
         (let l := (slotImageBytes (slot n)).take 16384
          (MemInv s → (∀ i, i < l.length → readByte t (localKey (1024 * d) i) = l.getD i 0) ∧
            ∀ k, k < localKey (1024 * d) 0 ∨ localKey (1024 * d) 0 + l.length ≤ k → readByte t k = readByte s k))) ∧
       (order.find? (fun n => slotOk s (slot n)) = none → ∃ t, issue (1024 * d) s = .idle t ∧
         (getDie t d).phase = .failed ∧ (getDie t d).fail = (if order.any fun n => slotSigned (slot n) then 2 else 1) ∧
         (getStrand t (8 * (1024 * d))).run = .off ∧ t.mem = s.mem)))) ∧
  (∀ (dev spare : Nat) (s : State),
    (dev = s.device → exec (.deviceFailure dev spare) s = .next s) ∧
    (dev ≠ s.device → spare = s.device → s.checkpoint.filter (fun v => v.device == dev) = [] →
      ∃ t, exec (.deviceFailure dev spare) s = .next t ∧ t.device = dev ∧ t.strands = s.strands ∧ t.mem = s.mem) ∧
    (dev ≠ s.device → spare = s.device → ∀ v, s.checkpoint = [v] → v.device = dev → v.job ≠ 0 →
      jobKnown s v.job = false →
      ∃ t, exec (.deviceFailure dev spare) s = .next t ∧ t.device = dev ∧ jobKnown t v.job = true) ∧
    (dev ≠ s.device → spare ≠ s.device → s.checkpoint = [] →
      ∃ t, exec (.deviceFailure dev spare) s = .next t ∧ t.device = s.device ∧ t.strands = s.strands ∧ t.mem = s.mem)) ∧
  (∀ (site : Nat) (s : State), site < 4096 → (getDie s (dieOf site)).phase = .ready →
    (let d := getDie s (dieOf site)
     let role := d.roles.findIdx? (· == (getTile s site).logical)
     (role = none → exec (.boothRecovery 0 (65536 + site)) s = .next s) ∧
     (∀ r n, role = some r → [5, 6, 7].find? (fun n => !d.roles.contains n) = some n →
       ∃ t, exec (.boothRecovery 0 (65536 + site)) s = .next t ∧ stewardUnit t (dieOf site) r = n)))

/-- A frequency command pauses the island once nothing is in flight, and the pause ends; power-down is refused with
a record unless all strands are OFF or PARKED. Above the cap every island steps down, well below it up again towards
its set code, unless its die is hot, whose islands go to 600 MHz. The responder answers each request of R390 and
R391 in their order, and an unexpected or unsupported one as such (the values of certificate, nonce and signature are free,
log entry 12). -/
def Obligations.PowerAndAttestation : Prop :=
  (∀ (die : Nat) (cmd : BitVec 128) (s : State), die < 4 → fld cmd 0 8 < 64 → fld cmd 10 6 = 0 → fld cmd 21 107 = 0 →
    fld cmd 16 5 ≤ 30 →
    (let y := 64 * die + fld cmd 0 8
     let i := getIsland s y
     (fld cmd 8 2 = 0 → i.powered = true →
       ((∀ e, e ∈ yardStrands y → (getStrand s (skey e)).flight = none) → ∃ t, exec (.setFrequency die cmd) s = .next t ∧
         (getIsland t y).paused = true ∧ (getIsland t y).setCode = fld cmd 16 5 ∧
         (getIsland t y).code = (if (getDie s die).hot then 0 else fld cmd 16 5) ∧
         Instr.frequencyPauseEnd y ∈ t.internal ∧ t.strands = s.strands) ∧
       ((∃ e, e ∈ yardStrands y ∧ (getStrand s (skey e)).flight ≠ none) →
         exec (.setFrequency die cmd) s = .next (enqueue (.setFrequency die cmd) s))) ∧
     (i.paused = true → ∃ t, exec (.frequencyPauseEnd y) s = .next t ∧ (getIsland t y).paused = false ∧
       (getIsland t y).code = i.code ∧ t.strands = s.strands) ∧
     (i.paused = false → exec (.frequencyPauseEnd y) s = .next s) ∧
     (fld cmd 8 2 = 1 →
       ((∀ e, e ∈ yardStrands y → (getStrand s (skey e)).run = .off ∨ (getStrand s (skey e)).run = .parked) →
         yardIdle s y = true → ∃ t, exec (.powerDown die cmd) s = .next t ∧ (getIsland t y).powered = false ∧
           t.strands = s.strands ∧ t.slots = s.slots ∧
           (MemInv s → ∀ k, (∀ n v f, (n, v) ∈ s.slots → n / 64 = y → v.full = true → v.backing = some f →
             k < f ∨ f + 4096 ≤ k) → readByte t k = readByte s k)) ∧
       ((∃ e, e ∈ yardStrands y ∧ isGood s e.site = true ∧ (getStrand s (skey e)).run = .run) →
         ∃ t, exec (.powerDown die cmd) s = .next t ∧ t.islands = s.islands ∧
           (getDie t die).logged = ((getDie s die).logged + 1) % 2 ^ 64)) ∧
     (fld cmd 8 2 = 2 → i.powered = false → ∃ t, exec (.powerUp die cmd) s = .next t ∧ (getIsland t y).powered = true ∧
       t.strands = s.strands))) ∧
  (∀ (watts y : Nat) (s : State), y < 256 → (getIsland s y).powered = true →
    (let cap := if s.powercap = 0 then 2400 else s.powercap.toNat
     let i := getIsland s y
     ∃ t, exec (.powerCheck watts) s = .next t ∧ (getIsland t y).setCode = i.setCode ∧ t.strands = s.strands ∧
       (cap < watts → (getIsland t y).code = i.code - 1) ∧
       (watts ≤ cap → 95 * cap ≤ 100 * watts → (getIsland t y).code = i.code) ∧
       (100 * watts < 95 * cap → (getIsland t y).code =
         if (getDie s (y / 64)).hot = false ∧ i.code < i.setCode then i.code + 1 else i.code))) ∧
  (∀ (die y : Nat) (s : State), die < 4 → y < 256 →
    (∃ t, exec (.thermalLimit die) s = .next t ∧ (getDie t die).hot = true ∧ t.strands = s.strands ∧
      ((getIsland s y).powered = true → y / 64 = die → (getIsland t y).code = 0) ∧
      (y / 64 ≠ die → getIsland t y = getIsland s y)) ∧
    (∃ t, exec (.junctionCooled die) s = .next t ∧ (getDie t die).hot = false ∧ t.islands = s.islands)) ∧
  (∀ (p slot off len index : Nat) (nonce : List (BitVec 8)) (sign : Bool) (code : BitVec 8) (s : State), p < 2 →
    (let answers (i : Instr) (r : SpdmReply) := ∃ t, exec i s = .next t ∧ t.out = s.out ++ [.spdm p r] ∧ t.mem = s.mem ∧
       t.strands = s.strands
     let m (n : Nat) := (n, measurement s n)
     let sig := if sign then some (Config.signature s.fresh (natBytes 1 index)) else none
     let chain := Config.certificateChain
     answers (.getVersion p) (.version [0x12, 0x13]) ∧
     answers (.spdmUnsupportedRequest p code) (.unsupportedRequest code) ∧
     ((getSpdm s p).version = true → answers (.getCapabilities p) (.capabilities true true true true false false false)) ∧
     ((getSpdm s p).version = false → answers (.getCapabilities p) .unexpectedRequest) ∧
     ((getSpdm s p).caps = true → answers (.negotiateAlgorithms p)
       (.algorithms ["TPM_ALG_RSASSA_4096", "TPM_ALG_RSAPSS_4096"] ["TPM_ALG_SHA_512"])) ∧
     ((getSpdm s p).algs = true →
       answers (.getDigests p) (.digests (sha512 chain)) ∧
       (slot = 0 → off < chain.length → answers (.getCertificate p slot off len) (.certificate ((chain.drop off).take len)
         (chain.length - off - min len (chain.length - off)))) ∧
       (slot ≠ 0 → answers (.getCertificate p slot off len) .invalidRequest) ∧
       answers (.challenge p nonce) (.challengeAuth (sha512 chain) (Config.nonce s.fresh)
         (Config.signature s.fresh nonce)) ∧
       (index = 0 → answers (.getMeasurements p index sign) (.measurements [] 4 sig)) ∧
       (index = 255 → answers (.getMeasurements p index sign) (.measurements [m 1, m 2, m 3, m 4] 4 sig)) ∧
       (1 ≤ index → index ≤ 4 → answers (.getMeasurements p index sign) (.measurements [m index] 1 sig))) ∧
     ((getSpdm s p).algs = false →
       answers (.getDigests p) .unexpectedRequest ∧ answers (.getCertificate p slot off len) .unexpectedRequest ∧
       answers (.challenge p nonce) .unexpectedRequest ∧ answers (.getMeasurements p index sign) .unexpectedRequest)))
end

