-- ==== Sys2Proof/Laws/State.lean ====
section
/-!
SUPPORT. One lemma per field of State per update, so that no proof unfolds a record update; what the tables answer
after an update; and what each update leaves of a strand's context.
-/

namespace Sys2Proof.Machine

/-! ### setStrand -/

@[simp] theorem setStrand_tiles (s : State) (k : Nat) (v : Strand) : (setStrand s k v).tiles = s.tiles := rfl
@[simp] theorem setStrand_booths (s : State) (k : Nat) (v : Strand) : (setStrand s k v).booths = s.booths := rfl
@[simp] theorem setStrand_mem (s : State) (k : Nat) (v : Strand) : (setStrand s k v).mem = s.mem := rfl
@[simp] theorem setStrand_poison (s : State) (k : Nat) (v : Strand) : (setStrand s k v).poison = s.poison := rfl
@[simp] theorem setStrand_pend (s : State) (k : Nat) (v : Strand) : (setStrand s k v).pend = s.pend := rfl
@[simp] theorem setStrand_tlbs (s : State) (k : Nat) (v : Strand) : (setStrand s k v).tlbs = s.tlbs := rfl
@[simp] theorem setStrand_roots (s : State) (k : Nat) (v : Strand) : (setStrand s k v).roots = s.roots := rfl
@[simp] theorem setStrand_queues (s : State) (k : Nat) (v : Strand) : (setStrand s k v).queues = s.queues := rfl
@[simp] theorem setStrand_futures (s : State) (k : Nat) (v : Strand) : (setStrand s k v).futures = s.futures := rfl
@[simp] theorem setStrand_freeFut (s : State) (k : Nat) (v : Strand) : (setStrand s k v).freeFut = s.freeFut := rfl
@[simp] theorem setStrand_txwin (s : State) (k : Nat) (v : Strand) : (setStrand s k v).txwin = s.txwin := rfl
@[simp] theorem setStrand_rxwin (s : State) (k : Nat) (v : Strand) : (setStrand s k v).rxwin = s.rxwin := rfl
@[simp] theorem setStrand_pendWin (s : State) (k : Nat) (v : Strand) : (setStrand s k v).pendWin = s.pendWin := rfl
@[simp] theorem setStrand_wstores (s : State) (k : Nat) (v : Strand) : (setStrand s k v).wstores = s.wstores := rfl
@[simp] theorem setStrand_pathS (s : State) (k : Nat) (v : Strand) : (setStrand s k v).pathS = s.pathS := rfl
@[simp] theorem setStrand_pathR (s : State) (k : Nat) (v : Strand) : (setStrand s k v).pathR = s.pathR := rfl
@[simp] theorem setStrand_peers (s : State) (k : Nat) (v : Strand) : (setStrand s k v).peers = s.peers := rfl
@[simp] theorem setStrand_slots (s : State) (k : Nat) (v : Strand) : (setStrand s k v).slots = s.slots := rfl
@[simp] theorem setStrand_tileMap (s : State) (k : Nat) (v : Strand) : (setStrand s k v).tileMap = s.tileMap := rfl
@[simp] theorem setStrand_looms (s : State) (k : Nat) (v : Strand) : (setStrand s k v).looms = s.looms := rfl
@[simp] theorem setStrand_carters (s : State) (k : Nat) (v : Strand) : (setStrand s k v).carters = s.carters := rfl
@[simp] theorem setStrand_cellars (s : State) (k : Nat) (v : Strand) : (setStrand s k v).cellars = s.cellars := rfl
@[simp] theorem setStrand_islands (s : State) (k : Nat) (v : Strand) : (setStrand s k v).islands = s.islands := rfl
@[simp] theorem setStrand_ports (s : State) (k : Nat) (v : Strand) : (setStrand s k v).ports = s.ports := rfl
@[simp] theorem setStrand_jobs (s : State) (k : Nat) (v : Strand) : (setStrand s k v).jobs = s.jobs := rfl
@[simp] theorem setStrand_requests (s : State) (k : Nat) (v : Strand) : (setStrand s k v).requests = s.requests := rfl
@[simp] theorem setStrand_dies (s : State) (k : Nat) (v : Strand) : (setStrand s k v).dies = s.dies := rfl
@[simp] theorem setStrand_sema (s : State) (k : Nat) (v : Strand) : (setStrand s k v).sema = s.sema := rfl
@[simp] theorem setStrand_pagerSema (s : State) (k : Nat) (v : Strand) : (setStrand s k v).pagerSema = s.pagerSema := rfl
@[simp] theorem setStrand_devtime (s : State) (k : Nat) (v : Strand) : (setStrand s k v).devtime = s.devtime := rfl
@[simp] theorem setStrand_powercap (s : State) (k : Nat) (v : Strand) : (setStrand s k v).powercap = s.powercap := rfl
@[simp] theorem setStrand_fwact (s : State) (k : Nat) (v : Strand) : (setStrand s k v).fwact = s.fwact := rfl
@[simp] theorem setStrand_minver (s : State) (k : Nat) (v : Strand) : (setStrand s k v).minver = s.minver := rfl
@[simp] theorem setStrand_flash (s : State) (k : Nat) (v : Strand) : (setStrand s k v).flash = s.flash := rfl
@[simp] theorem setStrand_booted (s : State) (k : Nat) (v : Strand) : (setStrand s k v).booted = s.booted := rfl
@[simp] theorem setStrand_measured (s : State) (k : Nat) (v : Strand) : (setStrand s k v).measured = s.measured := rfl
@[simp] theorem setStrand_fused (s : State) (k : Nat) (v : Strand) : (setStrand s k v).fused = s.fused := rfl
@[simp] theorem setStrand_device (s : State) (k : Nat) (v : Strand) : (setStrand s k v).device = s.device := rfl
@[simp] theorem setStrand_domain (s : State) (k : Nat) (v : Strand) : (setStrand s k v).domain = s.domain := rfl
@[simp] theorem setStrand_frozen (s : State) (k : Nat) (v : Strand) : (setStrand s k v).frozen = s.frozen := rfl
@[simp] theorem setStrand_checkpoint (s : State) (k : Nat) (v : Strand) : (setStrand s k v).checkpoint = s.checkpoint := rfl
@[simp] theorem setStrand_ticket (s : State) (k : Nat) (v : Strand) : (setStrand s k v).ticket = s.ticket := rfl
@[simp] theorem setStrand_fresh (s : State) (k : Nat) (v : Strand) : (setStrand s k v).fresh = s.fresh := rfl
@[simp] theorem setStrand_inputs (s : State) (k : Nat) (v : Strand) : (setStrand s k v).inputs = s.inputs := rfl
@[simp] theorem setStrand_internal (s : State) (k : Nat) (v : Strand) : (setStrand s k v).internal = s.internal := rfl
@[simp] theorem setStrand_turn (s : State) (k : Nat) (v : Strand) : (setStrand s k v).turn = s.turn := rfl
@[simp] theorem setStrand_toggle (s : State) (k : Nat) (v : Strand) : (setStrand s k v).toggle = s.toggle := rfl
@[simp] theorem setStrand_cur (s : State) (k : Nat) (v : Strand) : (setStrand s k v).cur = s.cur := rfl
@[simp] theorem setStrand_out (s : State) (k : Nat) (v : Strand) : (setStrand s k v).out = s.out := rfl
@[simp] theorem setStrand_stalls (s : State) (k : Nat) (v : Strand) : (setStrand s k v).stalls = s.stalls := rfl
@[simp] theorem setStrand_pool (s : State) (k : Nat) (v : Strand) : (setStrand s k v).pool = s.pool := rfl
@[simp] theorem setStrand_bootStaged (s : State) (k : Nat) (v : Strand) : (setStrand s k v).bootStaged = s.bootStaged := rfl
@[simp] theorem setStrand_moved (s : State) (k : Nat) (v : Strand) : (setStrand s k v).moved = s.moved := rfl
@[simp] theorem setStrand_wakes (s : State) (k : Nat) (v : Strand) : (setStrand s k v).wakes = s.wakes := rfl
@[simp] theorem setStrand_olds (s : State) (k : Nat) (v : Strand) : (setStrand s k v).olds = s.olds := rfl

/-! ### modStrand -/

@[simp] theorem modStrand_tiles (k : Nat) (f : Strand → Strand) (s : State) : (modStrand k f s).tiles = s.tiles := rfl
@[simp] theorem modStrand_booths (k : Nat) (f : Strand → Strand) (s : State) : (modStrand k f s).booths = s.booths := rfl
@[simp] theorem modStrand_mem (k : Nat) (f : Strand → Strand) (s : State) : (modStrand k f s).mem = s.mem := rfl
@[simp] theorem modStrand_poison (k : Nat) (f : Strand → Strand) (s : State) : (modStrand k f s).poison = s.poison := rfl
@[simp] theorem modStrand_pend (k : Nat) (f : Strand → Strand) (s : State) : (modStrand k f s).pend = s.pend := rfl
@[simp] theorem modStrand_tlbs (k : Nat) (f : Strand → Strand) (s : State) : (modStrand k f s).tlbs = s.tlbs := rfl
@[simp] theorem modStrand_roots (k : Nat) (f : Strand → Strand) (s : State) : (modStrand k f s).roots = s.roots := rfl
@[simp] theorem modStrand_queues (k : Nat) (f : Strand → Strand) (s : State) : (modStrand k f s).queues = s.queues := rfl
@[simp] theorem modStrand_futures (k : Nat) (f : Strand → Strand) (s : State) : (modStrand k f s).futures = s.futures := rfl
@[simp] theorem modStrand_freeFut (k : Nat) (f : Strand → Strand) (s : State) : (modStrand k f s).freeFut = s.freeFut := rfl
@[simp] theorem modStrand_txwin (k : Nat) (f : Strand → Strand) (s : State) : (modStrand k f s).txwin = s.txwin := rfl
@[simp] theorem modStrand_rxwin (k : Nat) (f : Strand → Strand) (s : State) : (modStrand k f s).rxwin = s.rxwin := rfl
@[simp] theorem modStrand_pendWin (k : Nat) (f : Strand → Strand) (s : State) : (modStrand k f s).pendWin = s.pendWin := rfl
@[simp] theorem modStrand_wstores (k : Nat) (f : Strand → Strand) (s : State) : (modStrand k f s).wstores = s.wstores := rfl
@[simp] theorem modStrand_pathS (k : Nat) (f : Strand → Strand) (s : State) : (modStrand k f s).pathS = s.pathS := rfl
@[simp] theorem modStrand_pathR (k : Nat) (f : Strand → Strand) (s : State) : (modStrand k f s).pathR = s.pathR := rfl
@[simp] theorem modStrand_peers (k : Nat) (f : Strand → Strand) (s : State) : (modStrand k f s).peers = s.peers := rfl
@[simp] theorem modStrand_slots (k : Nat) (f : Strand → Strand) (s : State) : (modStrand k f s).slots = s.slots := rfl
@[simp] theorem modStrand_tileMap (k : Nat) (f : Strand → Strand) (s : State) : (modStrand k f s).tileMap = s.tileMap := rfl
@[simp] theorem modStrand_looms (k : Nat) (f : Strand → Strand) (s : State) : (modStrand k f s).looms = s.looms := rfl
@[simp] theorem modStrand_carters (k : Nat) (f : Strand → Strand) (s : State) : (modStrand k f s).carters = s.carters := rfl
@[simp] theorem modStrand_cellars (k : Nat) (f : Strand → Strand) (s : State) : (modStrand k f s).cellars = s.cellars := rfl
@[simp] theorem modStrand_islands (k : Nat) (f : Strand → Strand) (s : State) : (modStrand k f s).islands = s.islands := rfl
@[simp] theorem modStrand_ports (k : Nat) (f : Strand → Strand) (s : State) : (modStrand k f s).ports = s.ports := rfl
@[simp] theorem modStrand_jobs (k : Nat) (f : Strand → Strand) (s : State) : (modStrand k f s).jobs = s.jobs := rfl
@[simp] theorem modStrand_requests (k : Nat) (f : Strand → Strand) (s : State) : (modStrand k f s).requests = s.requests := rfl
@[simp] theorem modStrand_dies (k : Nat) (f : Strand → Strand) (s : State) : (modStrand k f s).dies = s.dies := rfl
@[simp] theorem modStrand_sema (k : Nat) (f : Strand → Strand) (s : State) : (modStrand k f s).sema = s.sema := rfl
@[simp] theorem modStrand_pagerSema (k : Nat) (f : Strand → Strand) (s : State) : (modStrand k f s).pagerSema = s.pagerSema := rfl
@[simp] theorem modStrand_devtime (k : Nat) (f : Strand → Strand) (s : State) : (modStrand k f s).devtime = s.devtime := rfl
@[simp] theorem modStrand_powercap (k : Nat) (f : Strand → Strand) (s : State) : (modStrand k f s).powercap = s.powercap := rfl
@[simp] theorem modStrand_fwact (k : Nat) (f : Strand → Strand) (s : State) : (modStrand k f s).fwact = s.fwact := rfl
@[simp] theorem modStrand_minver (k : Nat) (f : Strand → Strand) (s : State) : (modStrand k f s).minver = s.minver := rfl
@[simp] theorem modStrand_flash (k : Nat) (f : Strand → Strand) (s : State) : (modStrand k f s).flash = s.flash := rfl
@[simp] theorem modStrand_booted (k : Nat) (f : Strand → Strand) (s : State) : (modStrand k f s).booted = s.booted := rfl
@[simp] theorem modStrand_measured (k : Nat) (f : Strand → Strand) (s : State) : (modStrand k f s).measured = s.measured := rfl
@[simp] theorem modStrand_fused (k : Nat) (f : Strand → Strand) (s : State) : (modStrand k f s).fused = s.fused := rfl
@[simp] theorem modStrand_device (k : Nat) (f : Strand → Strand) (s : State) : (modStrand k f s).device = s.device := rfl
@[simp] theorem modStrand_domain (k : Nat) (f : Strand → Strand) (s : State) : (modStrand k f s).domain = s.domain := rfl
@[simp] theorem modStrand_frozen (k : Nat) (f : Strand → Strand) (s : State) : (modStrand k f s).frozen = s.frozen := rfl
@[simp] theorem modStrand_checkpoint (k : Nat) (f : Strand → Strand) (s : State) : (modStrand k f s).checkpoint = s.checkpoint := rfl
@[simp] theorem modStrand_ticket (k : Nat) (f : Strand → Strand) (s : State) : (modStrand k f s).ticket = s.ticket := rfl
@[simp] theorem modStrand_fresh (k : Nat) (f : Strand → Strand) (s : State) : (modStrand k f s).fresh = s.fresh := rfl
@[simp] theorem modStrand_inputs (k : Nat) (f : Strand → Strand) (s : State) : (modStrand k f s).inputs = s.inputs := rfl
@[simp] theorem modStrand_internal (k : Nat) (f : Strand → Strand) (s : State) : (modStrand k f s).internal = s.internal := rfl
@[simp] theorem modStrand_turn (k : Nat) (f : Strand → Strand) (s : State) : (modStrand k f s).turn = s.turn := rfl
@[simp] theorem modStrand_toggle (k : Nat) (f : Strand → Strand) (s : State) : (modStrand k f s).toggle = s.toggle := rfl
@[simp] theorem modStrand_cur (k : Nat) (f : Strand → Strand) (s : State) : (modStrand k f s).cur = s.cur := rfl
@[simp] theorem modStrand_out (k : Nat) (f : Strand → Strand) (s : State) : (modStrand k f s).out = s.out := rfl
@[simp] theorem modStrand_stalls (k : Nat) (f : Strand → Strand) (s : State) : (modStrand k f s).stalls = s.stalls := rfl
@[simp] theorem modStrand_pool (k : Nat) (f : Strand → Strand) (s : State) : (modStrand k f s).pool = s.pool := rfl
@[simp] theorem modStrand_bootStaged (k : Nat) (f : Strand → Strand) (s : State) : (modStrand k f s).bootStaged = s.bootStaged := rfl
@[simp] theorem modStrand_moved (k : Nat) (f : Strand → Strand) (s : State) : (modStrand k f s).moved = s.moved := rfl
@[simp] theorem modStrand_wakes (k : Nat) (f : Strand → Strand) (s : State) : (modStrand k f s).wakes = s.wakes := rfl
@[simp] theorem modStrand_olds (k : Nat) (f : Strand → Strand) (s : State) : (modStrand k f s).olds = s.olds := rfl

/-! ### modMe -/

@[simp] theorem modMe_tiles (f : Strand → Strand) (s : State) : (modMe f s).tiles = s.tiles := rfl
@[simp] theorem modMe_booths (f : Strand → Strand) (s : State) : (modMe f s).booths = s.booths := rfl
@[simp] theorem modMe_mem (f : Strand → Strand) (s : State) : (modMe f s).mem = s.mem := rfl
@[simp] theorem modMe_poison (f : Strand → Strand) (s : State) : (modMe f s).poison = s.poison := rfl
@[simp] theorem modMe_pend (f : Strand → Strand) (s : State) : (modMe f s).pend = s.pend := rfl
@[simp] theorem modMe_tlbs (f : Strand → Strand) (s : State) : (modMe f s).tlbs = s.tlbs := rfl
@[simp] theorem modMe_roots (f : Strand → Strand) (s : State) : (modMe f s).roots = s.roots := rfl
@[simp] theorem modMe_queues (f : Strand → Strand) (s : State) : (modMe f s).queues = s.queues := rfl
@[simp] theorem modMe_futures (f : Strand → Strand) (s : State) : (modMe f s).futures = s.futures := rfl
@[simp] theorem modMe_freeFut (f : Strand → Strand) (s : State) : (modMe f s).freeFut = s.freeFut := rfl
@[simp] theorem modMe_txwin (f : Strand → Strand) (s : State) : (modMe f s).txwin = s.txwin := rfl
@[simp] theorem modMe_rxwin (f : Strand → Strand) (s : State) : (modMe f s).rxwin = s.rxwin := rfl
@[simp] theorem modMe_pendWin (f : Strand → Strand) (s : State) : (modMe f s).pendWin = s.pendWin := rfl
@[simp] theorem modMe_wstores (f : Strand → Strand) (s : State) : (modMe f s).wstores = s.wstores := rfl
@[simp] theorem modMe_pathS (f : Strand → Strand) (s : State) : (modMe f s).pathS = s.pathS := rfl
@[simp] theorem modMe_pathR (f : Strand → Strand) (s : State) : (modMe f s).pathR = s.pathR := rfl
@[simp] theorem modMe_peers (f : Strand → Strand) (s : State) : (modMe f s).peers = s.peers := rfl
@[simp] theorem modMe_slots (f : Strand → Strand) (s : State) : (modMe f s).slots = s.slots := rfl
@[simp] theorem modMe_tileMap (f : Strand → Strand) (s : State) : (modMe f s).tileMap = s.tileMap := rfl
@[simp] theorem modMe_looms (f : Strand → Strand) (s : State) : (modMe f s).looms = s.looms := rfl
@[simp] theorem modMe_carters (f : Strand → Strand) (s : State) : (modMe f s).carters = s.carters := rfl
@[simp] theorem modMe_cellars (f : Strand → Strand) (s : State) : (modMe f s).cellars = s.cellars := rfl
@[simp] theorem modMe_islands (f : Strand → Strand) (s : State) : (modMe f s).islands = s.islands := rfl
@[simp] theorem modMe_ports (f : Strand → Strand) (s : State) : (modMe f s).ports = s.ports := rfl
@[simp] theorem modMe_jobs (f : Strand → Strand) (s : State) : (modMe f s).jobs = s.jobs := rfl
@[simp] theorem modMe_requests (f : Strand → Strand) (s : State) : (modMe f s).requests = s.requests := rfl
@[simp] theorem modMe_dies (f : Strand → Strand) (s : State) : (modMe f s).dies = s.dies := rfl
@[simp] theorem modMe_sema (f : Strand → Strand) (s : State) : (modMe f s).sema = s.sema := rfl
@[simp] theorem modMe_pagerSema (f : Strand → Strand) (s : State) : (modMe f s).pagerSema = s.pagerSema := rfl
@[simp] theorem modMe_devtime (f : Strand → Strand) (s : State) : (modMe f s).devtime = s.devtime := rfl
@[simp] theorem modMe_powercap (f : Strand → Strand) (s : State) : (modMe f s).powercap = s.powercap := rfl
@[simp] theorem modMe_fwact (f : Strand → Strand) (s : State) : (modMe f s).fwact = s.fwact := rfl
@[simp] theorem modMe_minver (f : Strand → Strand) (s : State) : (modMe f s).minver = s.minver := rfl
@[simp] theorem modMe_flash (f : Strand → Strand) (s : State) : (modMe f s).flash = s.flash := rfl
@[simp] theorem modMe_booted (f : Strand → Strand) (s : State) : (modMe f s).booted = s.booted := rfl
@[simp] theorem modMe_measured (f : Strand → Strand) (s : State) : (modMe f s).measured = s.measured := rfl
@[simp] theorem modMe_fused (f : Strand → Strand) (s : State) : (modMe f s).fused = s.fused := rfl
@[simp] theorem modMe_device (f : Strand → Strand) (s : State) : (modMe f s).device = s.device := rfl
@[simp] theorem modMe_domain (f : Strand → Strand) (s : State) : (modMe f s).domain = s.domain := rfl
@[simp] theorem modMe_frozen (f : Strand → Strand) (s : State) : (modMe f s).frozen = s.frozen := rfl
@[simp] theorem modMe_checkpoint (f : Strand → Strand) (s : State) : (modMe f s).checkpoint = s.checkpoint := rfl
@[simp] theorem modMe_ticket (f : Strand → Strand) (s : State) : (modMe f s).ticket = s.ticket := rfl
@[simp] theorem modMe_fresh (f : Strand → Strand) (s : State) : (modMe f s).fresh = s.fresh := rfl
@[simp] theorem modMe_inputs (f : Strand → Strand) (s : State) : (modMe f s).inputs = s.inputs := rfl
@[simp] theorem modMe_internal (f : Strand → Strand) (s : State) : (modMe f s).internal = s.internal := rfl
@[simp] theorem modMe_turn (f : Strand → Strand) (s : State) : (modMe f s).turn = s.turn := rfl
@[simp] theorem modMe_toggle (f : Strand → Strand) (s : State) : (modMe f s).toggle = s.toggle := rfl
@[simp] theorem modMe_cur (f : Strand → Strand) (s : State) : (modMe f s).cur = s.cur := rfl
@[simp] theorem modMe_out (f : Strand → Strand) (s : State) : (modMe f s).out = s.out := rfl
@[simp] theorem modMe_stalls (f : Strand → Strand) (s : State) : (modMe f s).stalls = s.stalls := rfl
@[simp] theorem modMe_pool (f : Strand → Strand) (s : State) : (modMe f s).pool = s.pool := rfl
@[simp] theorem modMe_bootStaged (f : Strand → Strand) (s : State) : (modMe f s).bootStaged = s.bootStaged := rfl
@[simp] theorem modMe_moved (f : Strand → Strand) (s : State) : (modMe f s).moved = s.moved := rfl
@[simp] theorem modMe_wakes (f : Strand → Strand) (s : State) : (modMe f s).wakes = s.wakes := rfl
@[simp] theorem modMe_olds (f : Strand → Strand) (s : State) : (modMe f s).olds = s.olds := rfl

/-! ### modTile -/

@[simp] theorem modTile_strands (k : Nat) (f : Tile → Tile) (s : State) : (modTile k f s).strands = s.strands := rfl
@[simp] theorem modTile_booths (k : Nat) (f : Tile → Tile) (s : State) : (modTile k f s).booths = s.booths := rfl
@[simp] theorem modTile_mem (k : Nat) (f : Tile → Tile) (s : State) : (modTile k f s).mem = s.mem := rfl
@[simp] theorem modTile_poison (k : Nat) (f : Tile → Tile) (s : State) : (modTile k f s).poison = s.poison := rfl
@[simp] theorem modTile_pend (k : Nat) (f : Tile → Tile) (s : State) : (modTile k f s).pend = s.pend := rfl
@[simp] theorem modTile_tlbs (k : Nat) (f : Tile → Tile) (s : State) : (modTile k f s).tlbs = s.tlbs := rfl
@[simp] theorem modTile_roots (k : Nat) (f : Tile → Tile) (s : State) : (modTile k f s).roots = s.roots := rfl
@[simp] theorem modTile_queues (k : Nat) (f : Tile → Tile) (s : State) : (modTile k f s).queues = s.queues := rfl
@[simp] theorem modTile_futures (k : Nat) (f : Tile → Tile) (s : State) : (modTile k f s).futures = s.futures := rfl
@[simp] theorem modTile_freeFut (k : Nat) (f : Tile → Tile) (s : State) : (modTile k f s).freeFut = s.freeFut := rfl
@[simp] theorem modTile_txwin (k : Nat) (f : Tile → Tile) (s : State) : (modTile k f s).txwin = s.txwin := rfl
@[simp] theorem modTile_rxwin (k : Nat) (f : Tile → Tile) (s : State) : (modTile k f s).rxwin = s.rxwin := rfl
@[simp] theorem modTile_pendWin (k : Nat) (f : Tile → Tile) (s : State) : (modTile k f s).pendWin = s.pendWin := rfl
@[simp] theorem modTile_wstores (k : Nat) (f : Tile → Tile) (s : State) : (modTile k f s).wstores = s.wstores := rfl
@[simp] theorem modTile_pathS (k : Nat) (f : Tile → Tile) (s : State) : (modTile k f s).pathS = s.pathS := rfl
@[simp] theorem modTile_pathR (k : Nat) (f : Tile → Tile) (s : State) : (modTile k f s).pathR = s.pathR := rfl
@[simp] theorem modTile_peers (k : Nat) (f : Tile → Tile) (s : State) : (modTile k f s).peers = s.peers := rfl
@[simp] theorem modTile_slots (k : Nat) (f : Tile → Tile) (s : State) : (modTile k f s).slots = s.slots := rfl
@[simp] theorem modTile_tileMap (k : Nat) (f : Tile → Tile) (s : State) : (modTile k f s).tileMap = s.tileMap := rfl
@[simp] theorem modTile_looms (k : Nat) (f : Tile → Tile) (s : State) : (modTile k f s).looms = s.looms := rfl
@[simp] theorem modTile_carters (k : Nat) (f : Tile → Tile) (s : State) : (modTile k f s).carters = s.carters := rfl
@[simp] theorem modTile_cellars (k : Nat) (f : Tile → Tile) (s : State) : (modTile k f s).cellars = s.cellars := rfl
@[simp] theorem modTile_islands (k : Nat) (f : Tile → Tile) (s : State) : (modTile k f s).islands = s.islands := rfl
@[simp] theorem modTile_ports (k : Nat) (f : Tile → Tile) (s : State) : (modTile k f s).ports = s.ports := rfl
@[simp] theorem modTile_jobs (k : Nat) (f : Tile → Tile) (s : State) : (modTile k f s).jobs = s.jobs := rfl
@[simp] theorem modTile_requests (k : Nat) (f : Tile → Tile) (s : State) : (modTile k f s).requests = s.requests := rfl
@[simp] theorem modTile_dies (k : Nat) (f : Tile → Tile) (s : State) : (modTile k f s).dies = s.dies := rfl
@[simp] theorem modTile_sema (k : Nat) (f : Tile → Tile) (s : State) : (modTile k f s).sema = s.sema := rfl
@[simp] theorem modTile_pagerSema (k : Nat) (f : Tile → Tile) (s : State) : (modTile k f s).pagerSema = s.pagerSema := rfl
@[simp] theorem modTile_devtime (k : Nat) (f : Tile → Tile) (s : State) : (modTile k f s).devtime = s.devtime := rfl
@[simp] theorem modTile_powercap (k : Nat) (f : Tile → Tile) (s : State) : (modTile k f s).powercap = s.powercap := rfl
@[simp] theorem modTile_fwact (k : Nat) (f : Tile → Tile) (s : State) : (modTile k f s).fwact = s.fwact := rfl
@[simp] theorem modTile_minver (k : Nat) (f : Tile → Tile) (s : State) : (modTile k f s).minver = s.minver := rfl
@[simp] theorem modTile_flash (k : Nat) (f : Tile → Tile) (s : State) : (modTile k f s).flash = s.flash := rfl
@[simp] theorem modTile_booted (k : Nat) (f : Tile → Tile) (s : State) : (modTile k f s).booted = s.booted := rfl
@[simp] theorem modTile_measured (k : Nat) (f : Tile → Tile) (s : State) : (modTile k f s).measured = s.measured := rfl
@[simp] theorem modTile_fused (k : Nat) (f : Tile → Tile) (s : State) : (modTile k f s).fused = s.fused := rfl
@[simp] theorem modTile_device (k : Nat) (f : Tile → Tile) (s : State) : (modTile k f s).device = s.device := rfl
@[simp] theorem modTile_domain (k : Nat) (f : Tile → Tile) (s : State) : (modTile k f s).domain = s.domain := rfl
@[simp] theorem modTile_frozen (k : Nat) (f : Tile → Tile) (s : State) : (modTile k f s).frozen = s.frozen := rfl
@[simp] theorem modTile_checkpoint (k : Nat) (f : Tile → Tile) (s : State) : (modTile k f s).checkpoint = s.checkpoint := rfl
@[simp] theorem modTile_ticket (k : Nat) (f : Tile → Tile) (s : State) : (modTile k f s).ticket = s.ticket := rfl
@[simp] theorem modTile_fresh (k : Nat) (f : Tile → Tile) (s : State) : (modTile k f s).fresh = s.fresh := rfl
@[simp] theorem modTile_inputs (k : Nat) (f : Tile → Tile) (s : State) : (modTile k f s).inputs = s.inputs := rfl
@[simp] theorem modTile_internal (k : Nat) (f : Tile → Tile) (s : State) : (modTile k f s).internal = s.internal := rfl
@[simp] theorem modTile_turn (k : Nat) (f : Tile → Tile) (s : State) : (modTile k f s).turn = s.turn := rfl
@[simp] theorem modTile_toggle (k : Nat) (f : Tile → Tile) (s : State) : (modTile k f s).toggle = s.toggle := rfl
@[simp] theorem modTile_cur (k : Nat) (f : Tile → Tile) (s : State) : (modTile k f s).cur = s.cur := rfl
@[simp] theorem modTile_out (k : Nat) (f : Tile → Tile) (s : State) : (modTile k f s).out = s.out := rfl
@[simp] theorem modTile_stalls (k : Nat) (f : Tile → Tile) (s : State) : (modTile k f s).stalls = s.stalls := rfl
@[simp] theorem modTile_pool (k : Nat) (f : Tile → Tile) (s : State) : (modTile k f s).pool = s.pool := rfl
@[simp] theorem modTile_bootStaged (k : Nat) (f : Tile → Tile) (s : State) : (modTile k f s).bootStaged = s.bootStaged := rfl
@[simp] theorem modTile_moved (k : Nat) (f : Tile → Tile) (s : State) : (modTile k f s).moved = s.moved := rfl
@[simp] theorem modTile_wakes (k : Nat) (f : Tile → Tile) (s : State) : (modTile k f s).wakes = s.wakes := rfl
@[simp] theorem modTile_olds (k : Nat) (f : Tile → Tile) (s : State) : (modTile k f s).olds = s.olds := rfl

/-! ### modBooth -/

@[simp] theorem modBooth_strands (k : Nat) (f : Booth → Booth) (s : State) : (modBooth k f s).strands = s.strands := rfl
@[simp] theorem modBooth_tiles (k : Nat) (f : Booth → Booth) (s : State) : (modBooth k f s).tiles = s.tiles := rfl
@[simp] theorem modBooth_mem (k : Nat) (f : Booth → Booth) (s : State) : (modBooth k f s).mem = s.mem := rfl
@[simp] theorem modBooth_poison (k : Nat) (f : Booth → Booth) (s : State) : (modBooth k f s).poison = s.poison := rfl
@[simp] theorem modBooth_pend (k : Nat) (f : Booth → Booth) (s : State) : (modBooth k f s).pend = s.pend := rfl
@[simp] theorem modBooth_tlbs (k : Nat) (f : Booth → Booth) (s : State) : (modBooth k f s).tlbs = s.tlbs := rfl
@[simp] theorem modBooth_roots (k : Nat) (f : Booth → Booth) (s : State) : (modBooth k f s).roots = s.roots := rfl
@[simp] theorem modBooth_queues (k : Nat) (f : Booth → Booth) (s : State) : (modBooth k f s).queues = s.queues := rfl
@[simp] theorem modBooth_futures (k : Nat) (f : Booth → Booth) (s : State) : (modBooth k f s).futures = s.futures := rfl
@[simp] theorem modBooth_freeFut (k : Nat) (f : Booth → Booth) (s : State) : (modBooth k f s).freeFut = s.freeFut := rfl
@[simp] theorem modBooth_txwin (k : Nat) (f : Booth → Booth) (s : State) : (modBooth k f s).txwin = s.txwin := rfl
@[simp] theorem modBooth_rxwin (k : Nat) (f : Booth → Booth) (s : State) : (modBooth k f s).rxwin = s.rxwin := rfl
@[simp] theorem modBooth_pendWin (k : Nat) (f : Booth → Booth) (s : State) : (modBooth k f s).pendWin = s.pendWin := rfl
@[simp] theorem modBooth_wstores (k : Nat) (f : Booth → Booth) (s : State) : (modBooth k f s).wstores = s.wstores := rfl
@[simp] theorem modBooth_pathS (k : Nat) (f : Booth → Booth) (s : State) : (modBooth k f s).pathS = s.pathS := rfl
@[simp] theorem modBooth_pathR (k : Nat) (f : Booth → Booth) (s : State) : (modBooth k f s).pathR = s.pathR := rfl
@[simp] theorem modBooth_peers (k : Nat) (f : Booth → Booth) (s : State) : (modBooth k f s).peers = s.peers := rfl
@[simp] theorem modBooth_slots (k : Nat) (f : Booth → Booth) (s : State) : (modBooth k f s).slots = s.slots := rfl
@[simp] theorem modBooth_tileMap (k : Nat) (f : Booth → Booth) (s : State) : (modBooth k f s).tileMap = s.tileMap := rfl
@[simp] theorem modBooth_looms (k : Nat) (f : Booth → Booth) (s : State) : (modBooth k f s).looms = s.looms := rfl
@[simp] theorem modBooth_carters (k : Nat) (f : Booth → Booth) (s : State) : (modBooth k f s).carters = s.carters := rfl
@[simp] theorem modBooth_cellars (k : Nat) (f : Booth → Booth) (s : State) : (modBooth k f s).cellars = s.cellars := rfl
@[simp] theorem modBooth_islands (k : Nat) (f : Booth → Booth) (s : State) : (modBooth k f s).islands = s.islands := rfl
@[simp] theorem modBooth_ports (k : Nat) (f : Booth → Booth) (s : State) : (modBooth k f s).ports = s.ports := rfl
@[simp] theorem modBooth_jobs (k : Nat) (f : Booth → Booth) (s : State) : (modBooth k f s).jobs = s.jobs := rfl
@[simp] theorem modBooth_requests (k : Nat) (f : Booth → Booth) (s : State) : (modBooth k f s).requests = s.requests := rfl
@[simp] theorem modBooth_dies (k : Nat) (f : Booth → Booth) (s : State) : (modBooth k f s).dies = s.dies := rfl
@[simp] theorem modBooth_sema (k : Nat) (f : Booth → Booth) (s : State) : (modBooth k f s).sema = s.sema := rfl
@[simp] theorem modBooth_pagerSema (k : Nat) (f : Booth → Booth) (s : State) : (modBooth k f s).pagerSema = s.pagerSema := rfl
@[simp] theorem modBooth_devtime (k : Nat) (f : Booth → Booth) (s : State) : (modBooth k f s).devtime = s.devtime := rfl
@[simp] theorem modBooth_powercap (k : Nat) (f : Booth → Booth) (s : State) : (modBooth k f s).powercap = s.powercap := rfl
@[simp] theorem modBooth_fwact (k : Nat) (f : Booth → Booth) (s : State) : (modBooth k f s).fwact = s.fwact := rfl
@[simp] theorem modBooth_minver (k : Nat) (f : Booth → Booth) (s : State) : (modBooth k f s).minver = s.minver := rfl
@[simp] theorem modBooth_flash (k : Nat) (f : Booth → Booth) (s : State) : (modBooth k f s).flash = s.flash := rfl
@[simp] theorem modBooth_booted (k : Nat) (f : Booth → Booth) (s : State) : (modBooth k f s).booted = s.booted := rfl
@[simp] theorem modBooth_measured (k : Nat) (f : Booth → Booth) (s : State) : (modBooth k f s).measured = s.measured := rfl
@[simp] theorem modBooth_fused (k : Nat) (f : Booth → Booth) (s : State) : (modBooth k f s).fused = s.fused := rfl
@[simp] theorem modBooth_device (k : Nat) (f : Booth → Booth) (s : State) : (modBooth k f s).device = s.device := rfl
@[simp] theorem modBooth_domain (k : Nat) (f : Booth → Booth) (s : State) : (modBooth k f s).domain = s.domain := rfl
@[simp] theorem modBooth_frozen (k : Nat) (f : Booth → Booth) (s : State) : (modBooth k f s).frozen = s.frozen := rfl
@[simp] theorem modBooth_checkpoint (k : Nat) (f : Booth → Booth) (s : State) : (modBooth k f s).checkpoint = s.checkpoint := rfl
@[simp] theorem modBooth_ticket (k : Nat) (f : Booth → Booth) (s : State) : (modBooth k f s).ticket = s.ticket := rfl
@[simp] theorem modBooth_fresh (k : Nat) (f : Booth → Booth) (s : State) : (modBooth k f s).fresh = s.fresh := rfl
@[simp] theorem modBooth_inputs (k : Nat) (f : Booth → Booth) (s : State) : (modBooth k f s).inputs = s.inputs := rfl
@[simp] theorem modBooth_internal (k : Nat) (f : Booth → Booth) (s : State) : (modBooth k f s).internal = s.internal := rfl
@[simp] theorem modBooth_turn (k : Nat) (f : Booth → Booth) (s : State) : (modBooth k f s).turn = s.turn := rfl
@[simp] theorem modBooth_toggle (k : Nat) (f : Booth → Booth) (s : State) : (modBooth k f s).toggle = s.toggle := rfl
@[simp] theorem modBooth_cur (k : Nat) (f : Booth → Booth) (s : State) : (modBooth k f s).cur = s.cur := rfl
@[simp] theorem modBooth_out (k : Nat) (f : Booth → Booth) (s : State) : (modBooth k f s).out = s.out := rfl
@[simp] theorem modBooth_stalls (k : Nat) (f : Booth → Booth) (s : State) : (modBooth k f s).stalls = s.stalls := rfl
@[simp] theorem modBooth_pool (k : Nat) (f : Booth → Booth) (s : State) : (modBooth k f s).pool = s.pool := rfl
@[simp] theorem modBooth_bootStaged (k : Nat) (f : Booth → Booth) (s : State) : (modBooth k f s).bootStaged = s.bootStaged := rfl
@[simp] theorem modBooth_moved (k : Nat) (f : Booth → Booth) (s : State) : (modBooth k f s).moved = s.moved := rfl
@[simp] theorem modBooth_wakes (k : Nat) (f : Booth → Booth) (s : State) : (modBooth k f s).wakes = s.wakes := rfl
@[simp] theorem modBooth_olds (k : Nat) (f : Booth → Booth) (s : State) : (modBooth k f s).olds = s.olds := rfl

/-! ### modQueue -/

@[simp] theorem modQueue_strands (k : Nat) (f : Queue → Queue) (s : State) : (modQueue k f s).strands = s.strands := rfl
@[simp] theorem modQueue_tiles (k : Nat) (f : Queue → Queue) (s : State) : (modQueue k f s).tiles = s.tiles := rfl
@[simp] theorem modQueue_booths (k : Nat) (f : Queue → Queue) (s : State) : (modQueue k f s).booths = s.booths := rfl
@[simp] theorem modQueue_mem (k : Nat) (f : Queue → Queue) (s : State) : (modQueue k f s).mem = s.mem := rfl
@[simp] theorem modQueue_poison (k : Nat) (f : Queue → Queue) (s : State) : (modQueue k f s).poison = s.poison := rfl
@[simp] theorem modQueue_pend (k : Nat) (f : Queue → Queue) (s : State) : (modQueue k f s).pend = s.pend := rfl
@[simp] theorem modQueue_tlbs (k : Nat) (f : Queue → Queue) (s : State) : (modQueue k f s).tlbs = s.tlbs := rfl
@[simp] theorem modQueue_roots (k : Nat) (f : Queue → Queue) (s : State) : (modQueue k f s).roots = s.roots := rfl
@[simp] theorem modQueue_futures (k : Nat) (f : Queue → Queue) (s : State) : (modQueue k f s).futures = s.futures := rfl
@[simp] theorem modQueue_freeFut (k : Nat) (f : Queue → Queue) (s : State) : (modQueue k f s).freeFut = s.freeFut := rfl
@[simp] theorem modQueue_txwin (k : Nat) (f : Queue → Queue) (s : State) : (modQueue k f s).txwin = s.txwin := rfl
@[simp] theorem modQueue_rxwin (k : Nat) (f : Queue → Queue) (s : State) : (modQueue k f s).rxwin = s.rxwin := rfl
@[simp] theorem modQueue_pendWin (k : Nat) (f : Queue → Queue) (s : State) : (modQueue k f s).pendWin = s.pendWin := rfl
@[simp] theorem modQueue_wstores (k : Nat) (f : Queue → Queue) (s : State) : (modQueue k f s).wstores = s.wstores := rfl
@[simp] theorem modQueue_pathS (k : Nat) (f : Queue → Queue) (s : State) : (modQueue k f s).pathS = s.pathS := rfl
@[simp] theorem modQueue_pathR (k : Nat) (f : Queue → Queue) (s : State) : (modQueue k f s).pathR = s.pathR := rfl
@[simp] theorem modQueue_peers (k : Nat) (f : Queue → Queue) (s : State) : (modQueue k f s).peers = s.peers := rfl
@[simp] theorem modQueue_slots (k : Nat) (f : Queue → Queue) (s : State) : (modQueue k f s).slots = s.slots := rfl
@[simp] theorem modQueue_tileMap (k : Nat) (f : Queue → Queue) (s : State) : (modQueue k f s).tileMap = s.tileMap := rfl
@[simp] theorem modQueue_looms (k : Nat) (f : Queue → Queue) (s : State) : (modQueue k f s).looms = s.looms := rfl
@[simp] theorem modQueue_carters (k : Nat) (f : Queue → Queue) (s : State) : (modQueue k f s).carters = s.carters := rfl
@[simp] theorem modQueue_cellars (k : Nat) (f : Queue → Queue) (s : State) : (modQueue k f s).cellars = s.cellars := rfl
@[simp] theorem modQueue_islands (k : Nat) (f : Queue → Queue) (s : State) : (modQueue k f s).islands = s.islands := rfl
@[simp] theorem modQueue_ports (k : Nat) (f : Queue → Queue) (s : State) : (modQueue k f s).ports = s.ports := rfl
@[simp] theorem modQueue_jobs (k : Nat) (f : Queue → Queue) (s : State) : (modQueue k f s).jobs = s.jobs := rfl
@[simp] theorem modQueue_requests (k : Nat) (f : Queue → Queue) (s : State) : (modQueue k f s).requests = s.requests := rfl
@[simp] theorem modQueue_dies (k : Nat) (f : Queue → Queue) (s : State) : (modQueue k f s).dies = s.dies := rfl
@[simp] theorem modQueue_sema (k : Nat) (f : Queue → Queue) (s : State) : (modQueue k f s).sema = s.sema := rfl
@[simp] theorem modQueue_pagerSema (k : Nat) (f : Queue → Queue) (s : State) : (modQueue k f s).pagerSema = s.pagerSema := rfl
@[simp] theorem modQueue_devtime (k : Nat) (f : Queue → Queue) (s : State) : (modQueue k f s).devtime = s.devtime := rfl
@[simp] theorem modQueue_powercap (k : Nat) (f : Queue → Queue) (s : State) : (modQueue k f s).powercap = s.powercap := rfl
@[simp] theorem modQueue_fwact (k : Nat) (f : Queue → Queue) (s : State) : (modQueue k f s).fwact = s.fwact := rfl
@[simp] theorem modQueue_minver (k : Nat) (f : Queue → Queue) (s : State) : (modQueue k f s).minver = s.minver := rfl
@[simp] theorem modQueue_flash (k : Nat) (f : Queue → Queue) (s : State) : (modQueue k f s).flash = s.flash := rfl
@[simp] theorem modQueue_booted (k : Nat) (f : Queue → Queue) (s : State) : (modQueue k f s).booted = s.booted := rfl
@[simp] theorem modQueue_measured (k : Nat) (f : Queue → Queue) (s : State) : (modQueue k f s).measured = s.measured := rfl
@[simp] theorem modQueue_fused (k : Nat) (f : Queue → Queue) (s : State) : (modQueue k f s).fused = s.fused := rfl
@[simp] theorem modQueue_device (k : Nat) (f : Queue → Queue) (s : State) : (modQueue k f s).device = s.device := rfl
@[simp] theorem modQueue_domain (k : Nat) (f : Queue → Queue) (s : State) : (modQueue k f s).domain = s.domain := rfl
@[simp] theorem modQueue_frozen (k : Nat) (f : Queue → Queue) (s : State) : (modQueue k f s).frozen = s.frozen := rfl
@[simp] theorem modQueue_checkpoint (k : Nat) (f : Queue → Queue) (s : State) : (modQueue k f s).checkpoint = s.checkpoint := rfl
@[simp] theorem modQueue_ticket (k : Nat) (f : Queue → Queue) (s : State) : (modQueue k f s).ticket = s.ticket := rfl
@[simp] theorem modQueue_fresh (k : Nat) (f : Queue → Queue) (s : State) : (modQueue k f s).fresh = s.fresh := rfl
@[simp] theorem modQueue_inputs (k : Nat) (f : Queue → Queue) (s : State) : (modQueue k f s).inputs = s.inputs := rfl
@[simp] theorem modQueue_internal (k : Nat) (f : Queue → Queue) (s : State) : (modQueue k f s).internal = s.internal := rfl
@[simp] theorem modQueue_turn (k : Nat) (f : Queue → Queue) (s : State) : (modQueue k f s).turn = s.turn := rfl
@[simp] theorem modQueue_toggle (k : Nat) (f : Queue → Queue) (s : State) : (modQueue k f s).toggle = s.toggle := rfl
@[simp] theorem modQueue_cur (k : Nat) (f : Queue → Queue) (s : State) : (modQueue k f s).cur = s.cur := rfl
@[simp] theorem modQueue_out (k : Nat) (f : Queue → Queue) (s : State) : (modQueue k f s).out = s.out := rfl
@[simp] theorem modQueue_stalls (k : Nat) (f : Queue → Queue) (s : State) : (modQueue k f s).stalls = s.stalls := rfl
@[simp] theorem modQueue_pool (k : Nat) (f : Queue → Queue) (s : State) : (modQueue k f s).pool = s.pool := rfl
@[simp] theorem modQueue_bootStaged (k : Nat) (f : Queue → Queue) (s : State) : (modQueue k f s).bootStaged = s.bootStaged := rfl
@[simp] theorem modQueue_moved (k : Nat) (f : Queue → Queue) (s : State) : (modQueue k f s).moved = s.moved := rfl
@[simp] theorem modQueue_wakes (k : Nat) (f : Queue → Queue) (s : State) : (modQueue k f s).wakes = s.wakes := rfl
@[simp] theorem modQueue_olds (k : Nat) (f : Queue → Queue) (s : State) : (modQueue k f s).olds = s.olds := rfl

/-! ### setFuture -/

@[simp] theorem setFuture_strands (s : State) (k : Nat) (v : Future) : (setFuture s k v).strands = s.strands := rfl
@[simp] theorem setFuture_tiles (s : State) (k : Nat) (v : Future) : (setFuture s k v).tiles = s.tiles := rfl
@[simp] theorem setFuture_booths (s : State) (k : Nat) (v : Future) : (setFuture s k v).booths = s.booths := rfl
@[simp] theorem setFuture_mem (s : State) (k : Nat) (v : Future) : (setFuture s k v).mem = s.mem := rfl
@[simp] theorem setFuture_poison (s : State) (k : Nat) (v : Future) : (setFuture s k v).poison = s.poison := rfl
@[simp] theorem setFuture_pend (s : State) (k : Nat) (v : Future) : (setFuture s k v).pend = s.pend := rfl
@[simp] theorem setFuture_tlbs (s : State) (k : Nat) (v : Future) : (setFuture s k v).tlbs = s.tlbs := rfl
@[simp] theorem setFuture_roots (s : State) (k : Nat) (v : Future) : (setFuture s k v).roots = s.roots := rfl
@[simp] theorem setFuture_queues (s : State) (k : Nat) (v : Future) : (setFuture s k v).queues = s.queues := rfl
@[simp] theorem setFuture_freeFut (s : State) (k : Nat) (v : Future) : (setFuture s k v).freeFut = s.freeFut := rfl
@[simp] theorem setFuture_txwin (s : State) (k : Nat) (v : Future) : (setFuture s k v).txwin = s.txwin := rfl
@[simp] theorem setFuture_rxwin (s : State) (k : Nat) (v : Future) : (setFuture s k v).rxwin = s.rxwin := rfl
@[simp] theorem setFuture_pendWin (s : State) (k : Nat) (v : Future) : (setFuture s k v).pendWin = s.pendWin := rfl
@[simp] theorem setFuture_wstores (s : State) (k : Nat) (v : Future) : (setFuture s k v).wstores = s.wstores := rfl
@[simp] theorem setFuture_pathS (s : State) (k : Nat) (v : Future) : (setFuture s k v).pathS = s.pathS := rfl
@[simp] theorem setFuture_pathR (s : State) (k : Nat) (v : Future) : (setFuture s k v).pathR = s.pathR := rfl
@[simp] theorem setFuture_peers (s : State) (k : Nat) (v : Future) : (setFuture s k v).peers = s.peers := rfl
@[simp] theorem setFuture_slots (s : State) (k : Nat) (v : Future) : (setFuture s k v).slots = s.slots := rfl
@[simp] theorem setFuture_tileMap (s : State) (k : Nat) (v : Future) : (setFuture s k v).tileMap = s.tileMap := rfl
@[simp] theorem setFuture_looms (s : State) (k : Nat) (v : Future) : (setFuture s k v).looms = s.looms := rfl
@[simp] theorem setFuture_carters (s : State) (k : Nat) (v : Future) : (setFuture s k v).carters = s.carters := rfl
@[simp] theorem setFuture_cellars (s : State) (k : Nat) (v : Future) : (setFuture s k v).cellars = s.cellars := rfl
@[simp] theorem setFuture_islands (s : State) (k : Nat) (v : Future) : (setFuture s k v).islands = s.islands := rfl
@[simp] theorem setFuture_ports (s : State) (k : Nat) (v : Future) : (setFuture s k v).ports = s.ports := rfl
@[simp] theorem setFuture_jobs (s : State) (k : Nat) (v : Future) : (setFuture s k v).jobs = s.jobs := rfl
@[simp] theorem setFuture_requests (s : State) (k : Nat) (v : Future) : (setFuture s k v).requests = s.requests := rfl
@[simp] theorem setFuture_dies (s : State) (k : Nat) (v : Future) : (setFuture s k v).dies = s.dies := rfl
@[simp] theorem setFuture_sema (s : State) (k : Nat) (v : Future) : (setFuture s k v).sema = s.sema := rfl
@[simp] theorem setFuture_pagerSema (s : State) (k : Nat) (v : Future) : (setFuture s k v).pagerSema = s.pagerSema := rfl
@[simp] theorem setFuture_devtime (s : State) (k : Nat) (v : Future) : (setFuture s k v).devtime = s.devtime := rfl
@[simp] theorem setFuture_powercap (s : State) (k : Nat) (v : Future) : (setFuture s k v).powercap = s.powercap := rfl
@[simp] theorem setFuture_fwact (s : State) (k : Nat) (v : Future) : (setFuture s k v).fwact = s.fwact := rfl
@[simp] theorem setFuture_minver (s : State) (k : Nat) (v : Future) : (setFuture s k v).minver = s.minver := rfl
@[simp] theorem setFuture_flash (s : State) (k : Nat) (v : Future) : (setFuture s k v).flash = s.flash := rfl
@[simp] theorem setFuture_booted (s : State) (k : Nat) (v : Future) : (setFuture s k v).booted = s.booted := rfl
@[simp] theorem setFuture_measured (s : State) (k : Nat) (v : Future) : (setFuture s k v).measured = s.measured := rfl
@[simp] theorem setFuture_fused (s : State) (k : Nat) (v : Future) : (setFuture s k v).fused = s.fused := rfl
@[simp] theorem setFuture_device (s : State) (k : Nat) (v : Future) : (setFuture s k v).device = s.device := rfl
@[simp] theorem setFuture_domain (s : State) (k : Nat) (v : Future) : (setFuture s k v).domain = s.domain := rfl
@[simp] theorem setFuture_frozen (s : State) (k : Nat) (v : Future) : (setFuture s k v).frozen = s.frozen := rfl
@[simp] theorem setFuture_checkpoint (s : State) (k : Nat) (v : Future) : (setFuture s k v).checkpoint = s.checkpoint := rfl
@[simp] theorem setFuture_ticket (s : State) (k : Nat) (v : Future) : (setFuture s k v).ticket = s.ticket := rfl
@[simp] theorem setFuture_fresh (s : State) (k : Nat) (v : Future) : (setFuture s k v).fresh = s.fresh := rfl
@[simp] theorem setFuture_inputs (s : State) (k : Nat) (v : Future) : (setFuture s k v).inputs = s.inputs := rfl
@[simp] theorem setFuture_internal (s : State) (k : Nat) (v : Future) : (setFuture s k v).internal = s.internal := rfl
@[simp] theorem setFuture_turn (s : State) (k : Nat) (v : Future) : (setFuture s k v).turn = s.turn := rfl
@[simp] theorem setFuture_toggle (s : State) (k : Nat) (v : Future) : (setFuture s k v).toggle = s.toggle := rfl
@[simp] theorem setFuture_cur (s : State) (k : Nat) (v : Future) : (setFuture s k v).cur = s.cur := rfl
@[simp] theorem setFuture_out (s : State) (k : Nat) (v : Future) : (setFuture s k v).out = s.out := rfl
@[simp] theorem setFuture_stalls (s : State) (k : Nat) (v : Future) : (setFuture s k v).stalls = s.stalls := rfl
@[simp] theorem setFuture_pool (s : State) (k : Nat) (v : Future) : (setFuture s k v).pool = s.pool := rfl
@[simp] theorem setFuture_bootStaged (s : State) (k : Nat) (v : Future) : (setFuture s k v).bootStaged = s.bootStaged := rfl
@[simp] theorem setFuture_moved (s : State) (k : Nat) (v : Future) : (setFuture s k v).moved = s.moved := rfl
@[simp] theorem setFuture_wakes (s : State) (k : Nat) (v : Future) : (setFuture s k v).wakes = s.wakes := rfl
@[simp] theorem setFuture_olds (s : State) (k : Nat) (v : Future) : (setFuture s k v).olds = s.olds := rfl

/-! ### modLoom -/

@[simp] theorem modLoom_strands (k : Nat) (f : Loom → Loom) (s : State) : (modLoom k f s).strands = s.strands := rfl
@[simp] theorem modLoom_tiles (k : Nat) (f : Loom → Loom) (s : State) : (modLoom k f s).tiles = s.tiles := rfl
@[simp] theorem modLoom_booths (k : Nat) (f : Loom → Loom) (s : State) : (modLoom k f s).booths = s.booths := rfl
@[simp] theorem modLoom_mem (k : Nat) (f : Loom → Loom) (s : State) : (modLoom k f s).mem = s.mem := rfl
@[simp] theorem modLoom_poison (k : Nat) (f : Loom → Loom) (s : State) : (modLoom k f s).poison = s.poison := rfl
@[simp] theorem modLoom_pend (k : Nat) (f : Loom → Loom) (s : State) : (modLoom k f s).pend = s.pend := rfl
@[simp] theorem modLoom_tlbs (k : Nat) (f : Loom → Loom) (s : State) : (modLoom k f s).tlbs = s.tlbs := rfl
@[simp] theorem modLoom_roots (k : Nat) (f : Loom → Loom) (s : State) : (modLoom k f s).roots = s.roots := rfl
@[simp] theorem modLoom_queues (k : Nat) (f : Loom → Loom) (s : State) : (modLoom k f s).queues = s.queues := rfl
@[simp] theorem modLoom_futures (k : Nat) (f : Loom → Loom) (s : State) : (modLoom k f s).futures = s.futures := rfl
@[simp] theorem modLoom_freeFut (k : Nat) (f : Loom → Loom) (s : State) : (modLoom k f s).freeFut = s.freeFut := rfl
@[simp] theorem modLoom_txwin (k : Nat) (f : Loom → Loom) (s : State) : (modLoom k f s).txwin = s.txwin := rfl
@[simp] theorem modLoom_rxwin (k : Nat) (f : Loom → Loom) (s : State) : (modLoom k f s).rxwin = s.rxwin := rfl
@[simp] theorem modLoom_pendWin (k : Nat) (f : Loom → Loom) (s : State) : (modLoom k f s).pendWin = s.pendWin := rfl
@[simp] theorem modLoom_wstores (k : Nat) (f : Loom → Loom) (s : State) : (modLoom k f s).wstores = s.wstores := rfl
@[simp] theorem modLoom_pathS (k : Nat) (f : Loom → Loom) (s : State) : (modLoom k f s).pathS = s.pathS := rfl
@[simp] theorem modLoom_pathR (k : Nat) (f : Loom → Loom) (s : State) : (modLoom k f s).pathR = s.pathR := rfl
@[simp] theorem modLoom_peers (k : Nat) (f : Loom → Loom) (s : State) : (modLoom k f s).peers = s.peers := rfl
@[simp] theorem modLoom_slots (k : Nat) (f : Loom → Loom) (s : State) : (modLoom k f s).slots = s.slots := rfl
@[simp] theorem modLoom_tileMap (k : Nat) (f : Loom → Loom) (s : State) : (modLoom k f s).tileMap = s.tileMap := rfl
@[simp] theorem modLoom_carters (k : Nat) (f : Loom → Loom) (s : State) : (modLoom k f s).carters = s.carters := rfl
@[simp] theorem modLoom_cellars (k : Nat) (f : Loom → Loom) (s : State) : (modLoom k f s).cellars = s.cellars := rfl
@[simp] theorem modLoom_islands (k : Nat) (f : Loom → Loom) (s : State) : (modLoom k f s).islands = s.islands := rfl
@[simp] theorem modLoom_ports (k : Nat) (f : Loom → Loom) (s : State) : (modLoom k f s).ports = s.ports := rfl
@[simp] theorem modLoom_jobs (k : Nat) (f : Loom → Loom) (s : State) : (modLoom k f s).jobs = s.jobs := rfl
@[simp] theorem modLoom_requests (k : Nat) (f : Loom → Loom) (s : State) : (modLoom k f s).requests = s.requests := rfl
@[simp] theorem modLoom_dies (k : Nat) (f : Loom → Loom) (s : State) : (modLoom k f s).dies = s.dies := rfl
@[simp] theorem modLoom_sema (k : Nat) (f : Loom → Loom) (s : State) : (modLoom k f s).sema = s.sema := rfl
@[simp] theorem modLoom_pagerSema (k : Nat) (f : Loom → Loom) (s : State) : (modLoom k f s).pagerSema = s.pagerSema := rfl
@[simp] theorem modLoom_devtime (k : Nat) (f : Loom → Loom) (s : State) : (modLoom k f s).devtime = s.devtime := rfl
@[simp] theorem modLoom_powercap (k : Nat) (f : Loom → Loom) (s : State) : (modLoom k f s).powercap = s.powercap := rfl
@[simp] theorem modLoom_fwact (k : Nat) (f : Loom → Loom) (s : State) : (modLoom k f s).fwact = s.fwact := rfl
@[simp] theorem modLoom_minver (k : Nat) (f : Loom → Loom) (s : State) : (modLoom k f s).minver = s.minver := rfl
@[simp] theorem modLoom_flash (k : Nat) (f : Loom → Loom) (s : State) : (modLoom k f s).flash = s.flash := rfl
@[simp] theorem modLoom_booted (k : Nat) (f : Loom → Loom) (s : State) : (modLoom k f s).booted = s.booted := rfl
@[simp] theorem modLoom_measured (k : Nat) (f : Loom → Loom) (s : State) : (modLoom k f s).measured = s.measured := rfl
@[simp] theorem modLoom_fused (k : Nat) (f : Loom → Loom) (s : State) : (modLoom k f s).fused = s.fused := rfl
@[simp] theorem modLoom_device (k : Nat) (f : Loom → Loom) (s : State) : (modLoom k f s).device = s.device := rfl
@[simp] theorem modLoom_domain (k : Nat) (f : Loom → Loom) (s : State) : (modLoom k f s).domain = s.domain := rfl
@[simp] theorem modLoom_frozen (k : Nat) (f : Loom → Loom) (s : State) : (modLoom k f s).frozen = s.frozen := rfl
@[simp] theorem modLoom_checkpoint (k : Nat) (f : Loom → Loom) (s : State) : (modLoom k f s).checkpoint = s.checkpoint := rfl
@[simp] theorem modLoom_ticket (k : Nat) (f : Loom → Loom) (s : State) : (modLoom k f s).ticket = s.ticket := rfl
@[simp] theorem modLoom_fresh (k : Nat) (f : Loom → Loom) (s : State) : (modLoom k f s).fresh = s.fresh := rfl
@[simp] theorem modLoom_inputs (k : Nat) (f : Loom → Loom) (s : State) : (modLoom k f s).inputs = s.inputs := rfl
@[simp] theorem modLoom_internal (k : Nat) (f : Loom → Loom) (s : State) : (modLoom k f s).internal = s.internal := rfl
@[simp] theorem modLoom_turn (k : Nat) (f : Loom → Loom) (s : State) : (modLoom k f s).turn = s.turn := rfl
@[simp] theorem modLoom_toggle (k : Nat) (f : Loom → Loom) (s : State) : (modLoom k f s).toggle = s.toggle := rfl
@[simp] theorem modLoom_cur (k : Nat) (f : Loom → Loom) (s : State) : (modLoom k f s).cur = s.cur := rfl
@[simp] theorem modLoom_out (k : Nat) (f : Loom → Loom) (s : State) : (modLoom k f s).out = s.out := rfl
@[simp] theorem modLoom_stalls (k : Nat) (f : Loom → Loom) (s : State) : (modLoom k f s).stalls = s.stalls := rfl
@[simp] theorem modLoom_pool (k : Nat) (f : Loom → Loom) (s : State) : (modLoom k f s).pool = s.pool := rfl
@[simp] theorem modLoom_bootStaged (k : Nat) (f : Loom → Loom) (s : State) : (modLoom k f s).bootStaged = s.bootStaged := rfl
@[simp] theorem modLoom_moved (k : Nat) (f : Loom → Loom) (s : State) : (modLoom k f s).moved = s.moved := rfl
@[simp] theorem modLoom_wakes (k : Nat) (f : Loom → Loom) (s : State) : (modLoom k f s).wakes = s.wakes := rfl
@[simp] theorem modLoom_olds (k : Nat) (f : Loom → Loom) (s : State) : (modLoom k f s).olds = s.olds := rfl

/-! ### modCarter -/

@[simp] theorem modCarter_strands (k : Nat) (f : Carter → Carter) (s : State) : (modCarter k f s).strands = s.strands := rfl
@[simp] theorem modCarter_tiles (k : Nat) (f : Carter → Carter) (s : State) : (modCarter k f s).tiles = s.tiles := rfl
@[simp] theorem modCarter_booths (k : Nat) (f : Carter → Carter) (s : State) : (modCarter k f s).booths = s.booths := rfl
@[simp] theorem modCarter_mem (k : Nat) (f : Carter → Carter) (s : State) : (modCarter k f s).mem = s.mem := rfl
@[simp] theorem modCarter_poison (k : Nat) (f : Carter → Carter) (s : State) : (modCarter k f s).poison = s.poison := rfl
@[simp] theorem modCarter_pend (k : Nat) (f : Carter → Carter) (s : State) : (modCarter k f s).pend = s.pend := rfl
@[simp] theorem modCarter_tlbs (k : Nat) (f : Carter → Carter) (s : State) : (modCarter k f s).tlbs = s.tlbs := rfl
@[simp] theorem modCarter_roots (k : Nat) (f : Carter → Carter) (s : State) : (modCarter k f s).roots = s.roots := rfl
@[simp] theorem modCarter_queues (k : Nat) (f : Carter → Carter) (s : State) : (modCarter k f s).queues = s.queues := rfl
@[simp] theorem modCarter_futures (k : Nat) (f : Carter → Carter) (s : State) : (modCarter k f s).futures = s.futures := rfl
@[simp] theorem modCarter_freeFut (k : Nat) (f : Carter → Carter) (s : State) : (modCarter k f s).freeFut = s.freeFut := rfl
@[simp] theorem modCarter_txwin (k : Nat) (f : Carter → Carter) (s : State) : (modCarter k f s).txwin = s.txwin := rfl
@[simp] theorem modCarter_rxwin (k : Nat) (f : Carter → Carter) (s : State) : (modCarter k f s).rxwin = s.rxwin := rfl
@[simp] theorem modCarter_pendWin (k : Nat) (f : Carter → Carter) (s : State) : (modCarter k f s).pendWin = s.pendWin := rfl
@[simp] theorem modCarter_wstores (k : Nat) (f : Carter → Carter) (s : State) : (modCarter k f s).wstores = s.wstores := rfl
@[simp] theorem modCarter_pathS (k : Nat) (f : Carter → Carter) (s : State) : (modCarter k f s).pathS = s.pathS := rfl
@[simp] theorem modCarter_pathR (k : Nat) (f : Carter → Carter) (s : State) : (modCarter k f s).pathR = s.pathR := rfl
@[simp] theorem modCarter_peers (k : Nat) (f : Carter → Carter) (s : State) : (modCarter k f s).peers = s.peers := rfl
@[simp] theorem modCarter_slots (k : Nat) (f : Carter → Carter) (s : State) : (modCarter k f s).slots = s.slots := rfl
@[simp] theorem modCarter_tileMap (k : Nat) (f : Carter → Carter) (s : State) : (modCarter k f s).tileMap = s.tileMap := rfl
@[simp] theorem modCarter_looms (k : Nat) (f : Carter → Carter) (s : State) : (modCarter k f s).looms = s.looms := rfl
@[simp] theorem modCarter_cellars (k : Nat) (f : Carter → Carter) (s : State) : (modCarter k f s).cellars = s.cellars := rfl
@[simp] theorem modCarter_islands (k : Nat) (f : Carter → Carter) (s : State) : (modCarter k f s).islands = s.islands := rfl
@[simp] theorem modCarter_ports (k : Nat) (f : Carter → Carter) (s : State) : (modCarter k f s).ports = s.ports := rfl
@[simp] theorem modCarter_jobs (k : Nat) (f : Carter → Carter) (s : State) : (modCarter k f s).jobs = s.jobs := rfl
@[simp] theorem modCarter_requests (k : Nat) (f : Carter → Carter) (s : State) : (modCarter k f s).requests = s.requests := rfl
@[simp] theorem modCarter_dies (k : Nat) (f : Carter → Carter) (s : State) : (modCarter k f s).dies = s.dies := rfl
@[simp] theorem modCarter_sema (k : Nat) (f : Carter → Carter) (s : State) : (modCarter k f s).sema = s.sema := rfl
@[simp] theorem modCarter_pagerSema (k : Nat) (f : Carter → Carter) (s : State) : (modCarter k f s).pagerSema = s.pagerSema := rfl
@[simp] theorem modCarter_devtime (k : Nat) (f : Carter → Carter) (s : State) : (modCarter k f s).devtime = s.devtime := rfl
@[simp] theorem modCarter_powercap (k : Nat) (f : Carter → Carter) (s : State) : (modCarter k f s).powercap = s.powercap := rfl
@[simp] theorem modCarter_fwact (k : Nat) (f : Carter → Carter) (s : State) : (modCarter k f s).fwact = s.fwact := rfl
@[simp] theorem modCarter_minver (k : Nat) (f : Carter → Carter) (s : State) : (modCarter k f s).minver = s.minver := rfl
@[simp] theorem modCarter_flash (k : Nat) (f : Carter → Carter) (s : State) : (modCarter k f s).flash = s.flash := rfl
@[simp] theorem modCarter_booted (k : Nat) (f : Carter → Carter) (s : State) : (modCarter k f s).booted = s.booted := rfl
@[simp] theorem modCarter_measured (k : Nat) (f : Carter → Carter) (s : State) : (modCarter k f s).measured = s.measured := rfl
@[simp] theorem modCarter_fused (k : Nat) (f : Carter → Carter) (s : State) : (modCarter k f s).fused = s.fused := rfl
@[simp] theorem modCarter_device (k : Nat) (f : Carter → Carter) (s : State) : (modCarter k f s).device = s.device := rfl
@[simp] theorem modCarter_domain (k : Nat) (f : Carter → Carter) (s : State) : (modCarter k f s).domain = s.domain := rfl
@[simp] theorem modCarter_frozen (k : Nat) (f : Carter → Carter) (s : State) : (modCarter k f s).frozen = s.frozen := rfl
@[simp] theorem modCarter_checkpoint (k : Nat) (f : Carter → Carter) (s : State) : (modCarter k f s).checkpoint = s.checkpoint := rfl
@[simp] theorem modCarter_ticket (k : Nat) (f : Carter → Carter) (s : State) : (modCarter k f s).ticket = s.ticket := rfl
@[simp] theorem modCarter_fresh (k : Nat) (f : Carter → Carter) (s : State) : (modCarter k f s).fresh = s.fresh := rfl
@[simp] theorem modCarter_inputs (k : Nat) (f : Carter → Carter) (s : State) : (modCarter k f s).inputs = s.inputs := rfl
@[simp] theorem modCarter_internal (k : Nat) (f : Carter → Carter) (s : State) : (modCarter k f s).internal = s.internal := rfl
@[simp] theorem modCarter_turn (k : Nat) (f : Carter → Carter) (s : State) : (modCarter k f s).turn = s.turn := rfl
@[simp] theorem modCarter_toggle (k : Nat) (f : Carter → Carter) (s : State) : (modCarter k f s).toggle = s.toggle := rfl
@[simp] theorem modCarter_cur (k : Nat) (f : Carter → Carter) (s : State) : (modCarter k f s).cur = s.cur := rfl
@[simp] theorem modCarter_out (k : Nat) (f : Carter → Carter) (s : State) : (modCarter k f s).out = s.out := rfl
@[simp] theorem modCarter_stalls (k : Nat) (f : Carter → Carter) (s : State) : (modCarter k f s).stalls = s.stalls := rfl
@[simp] theorem modCarter_pool (k : Nat) (f : Carter → Carter) (s : State) : (modCarter k f s).pool = s.pool := rfl
@[simp] theorem modCarter_bootStaged (k : Nat) (f : Carter → Carter) (s : State) : (modCarter k f s).bootStaged = s.bootStaged := rfl
@[simp] theorem modCarter_moved (k : Nat) (f : Carter → Carter) (s : State) : (modCarter k f s).moved = s.moved := rfl
@[simp] theorem modCarter_wakes (k : Nat) (f : Carter → Carter) (s : State) : (modCarter k f s).wakes = s.wakes := rfl
@[simp] theorem modCarter_olds (k : Nat) (f : Carter → Carter) (s : State) : (modCarter k f s).olds = s.olds := rfl

/-! ### modCellar -/

@[simp] theorem modCellar_strands (k : Nat) (f : Cellar → Cellar) (s : State) : (modCellar k f s).strands = s.strands := rfl
@[simp] theorem modCellar_tiles (k : Nat) (f : Cellar → Cellar) (s : State) : (modCellar k f s).tiles = s.tiles := rfl
@[simp] theorem modCellar_booths (k : Nat) (f : Cellar → Cellar) (s : State) : (modCellar k f s).booths = s.booths := rfl
@[simp] theorem modCellar_mem (k : Nat) (f : Cellar → Cellar) (s : State) : (modCellar k f s).mem = s.mem := rfl
@[simp] theorem modCellar_poison (k : Nat) (f : Cellar → Cellar) (s : State) : (modCellar k f s).poison = s.poison := rfl
@[simp] theorem modCellar_pend (k : Nat) (f : Cellar → Cellar) (s : State) : (modCellar k f s).pend = s.pend := rfl
@[simp] theorem modCellar_tlbs (k : Nat) (f : Cellar → Cellar) (s : State) : (modCellar k f s).tlbs = s.tlbs := rfl
@[simp] theorem modCellar_roots (k : Nat) (f : Cellar → Cellar) (s : State) : (modCellar k f s).roots = s.roots := rfl
@[simp] theorem modCellar_queues (k : Nat) (f : Cellar → Cellar) (s : State) : (modCellar k f s).queues = s.queues := rfl
@[simp] theorem modCellar_futures (k : Nat) (f : Cellar → Cellar) (s : State) : (modCellar k f s).futures = s.futures := rfl
@[simp] theorem modCellar_freeFut (k : Nat) (f : Cellar → Cellar) (s : State) : (modCellar k f s).freeFut = s.freeFut := rfl
@[simp] theorem modCellar_txwin (k : Nat) (f : Cellar → Cellar) (s : State) : (modCellar k f s).txwin = s.txwin := rfl
@[simp] theorem modCellar_rxwin (k : Nat) (f : Cellar → Cellar) (s : State) : (modCellar k f s).rxwin = s.rxwin := rfl
@[simp] theorem modCellar_pendWin (k : Nat) (f : Cellar → Cellar) (s : State) : (modCellar k f s).pendWin = s.pendWin := rfl
@[simp] theorem modCellar_wstores (k : Nat) (f : Cellar → Cellar) (s : State) : (modCellar k f s).wstores = s.wstores := rfl
@[simp] theorem modCellar_pathS (k : Nat) (f : Cellar → Cellar) (s : State) : (modCellar k f s).pathS = s.pathS := rfl
@[simp] theorem modCellar_pathR (k : Nat) (f : Cellar → Cellar) (s : State) : (modCellar k f s).pathR = s.pathR := rfl
@[simp] theorem modCellar_peers (k : Nat) (f : Cellar → Cellar) (s : State) : (modCellar k f s).peers = s.peers := rfl
@[simp] theorem modCellar_slots (k : Nat) (f : Cellar → Cellar) (s : State) : (modCellar k f s).slots = s.slots := rfl
@[simp] theorem modCellar_tileMap (k : Nat) (f : Cellar → Cellar) (s : State) : (modCellar k f s).tileMap = s.tileMap := rfl
@[simp] theorem modCellar_looms (k : Nat) (f : Cellar → Cellar) (s : State) : (modCellar k f s).looms = s.looms := rfl
@[simp] theorem modCellar_carters (k : Nat) (f : Cellar → Cellar) (s : State) : (modCellar k f s).carters = s.carters := rfl
@[simp] theorem modCellar_islands (k : Nat) (f : Cellar → Cellar) (s : State) : (modCellar k f s).islands = s.islands := rfl
@[simp] theorem modCellar_ports (k : Nat) (f : Cellar → Cellar) (s : State) : (modCellar k f s).ports = s.ports := rfl
@[simp] theorem modCellar_jobs (k : Nat) (f : Cellar → Cellar) (s : State) : (modCellar k f s).jobs = s.jobs := rfl
@[simp] theorem modCellar_requests (k : Nat) (f : Cellar → Cellar) (s : State) : (modCellar k f s).requests = s.requests := rfl
@[simp] theorem modCellar_dies (k : Nat) (f : Cellar → Cellar) (s : State) : (modCellar k f s).dies = s.dies := rfl
@[simp] theorem modCellar_sema (k : Nat) (f : Cellar → Cellar) (s : State) : (modCellar k f s).sema = s.sema := rfl
@[simp] theorem modCellar_pagerSema (k : Nat) (f : Cellar → Cellar) (s : State) : (modCellar k f s).pagerSema = s.pagerSema := rfl
@[simp] theorem modCellar_devtime (k : Nat) (f : Cellar → Cellar) (s : State) : (modCellar k f s).devtime = s.devtime := rfl
@[simp] theorem modCellar_powercap (k : Nat) (f : Cellar → Cellar) (s : State) : (modCellar k f s).powercap = s.powercap := rfl
@[simp] theorem modCellar_fwact (k : Nat) (f : Cellar → Cellar) (s : State) : (modCellar k f s).fwact = s.fwact := rfl
@[simp] theorem modCellar_minver (k : Nat) (f : Cellar → Cellar) (s : State) : (modCellar k f s).minver = s.minver := rfl
@[simp] theorem modCellar_flash (k : Nat) (f : Cellar → Cellar) (s : State) : (modCellar k f s).flash = s.flash := rfl
@[simp] theorem modCellar_booted (k : Nat) (f : Cellar → Cellar) (s : State) : (modCellar k f s).booted = s.booted := rfl
@[simp] theorem modCellar_measured (k : Nat) (f : Cellar → Cellar) (s : State) : (modCellar k f s).measured = s.measured := rfl
@[simp] theorem modCellar_fused (k : Nat) (f : Cellar → Cellar) (s : State) : (modCellar k f s).fused = s.fused := rfl
@[simp] theorem modCellar_device (k : Nat) (f : Cellar → Cellar) (s : State) : (modCellar k f s).device = s.device := rfl
@[simp] theorem modCellar_domain (k : Nat) (f : Cellar → Cellar) (s : State) : (modCellar k f s).domain = s.domain := rfl
@[simp] theorem modCellar_frozen (k : Nat) (f : Cellar → Cellar) (s : State) : (modCellar k f s).frozen = s.frozen := rfl
@[simp] theorem modCellar_checkpoint (k : Nat) (f : Cellar → Cellar) (s : State) : (modCellar k f s).checkpoint = s.checkpoint := rfl
@[simp] theorem modCellar_ticket (k : Nat) (f : Cellar → Cellar) (s : State) : (modCellar k f s).ticket = s.ticket := rfl
@[simp] theorem modCellar_fresh (k : Nat) (f : Cellar → Cellar) (s : State) : (modCellar k f s).fresh = s.fresh := rfl
@[simp] theorem modCellar_inputs (k : Nat) (f : Cellar → Cellar) (s : State) : (modCellar k f s).inputs = s.inputs := rfl
@[simp] theorem modCellar_internal (k : Nat) (f : Cellar → Cellar) (s : State) : (modCellar k f s).internal = s.internal := rfl
@[simp] theorem modCellar_turn (k : Nat) (f : Cellar → Cellar) (s : State) : (modCellar k f s).turn = s.turn := rfl
@[simp] theorem modCellar_toggle (k : Nat) (f : Cellar → Cellar) (s : State) : (modCellar k f s).toggle = s.toggle := rfl
@[simp] theorem modCellar_cur (k : Nat) (f : Cellar → Cellar) (s : State) : (modCellar k f s).cur = s.cur := rfl
@[simp] theorem modCellar_out (k : Nat) (f : Cellar → Cellar) (s : State) : (modCellar k f s).out = s.out := rfl
@[simp] theorem modCellar_stalls (k : Nat) (f : Cellar → Cellar) (s : State) : (modCellar k f s).stalls = s.stalls := rfl
@[simp] theorem modCellar_pool (k : Nat) (f : Cellar → Cellar) (s : State) : (modCellar k f s).pool = s.pool := rfl
@[simp] theorem modCellar_bootStaged (k : Nat) (f : Cellar → Cellar) (s : State) : (modCellar k f s).bootStaged = s.bootStaged := rfl
@[simp] theorem modCellar_moved (k : Nat) (f : Cellar → Cellar) (s : State) : (modCellar k f s).moved = s.moved := rfl
@[simp] theorem modCellar_wakes (k : Nat) (f : Cellar → Cellar) (s : State) : (modCellar k f s).wakes = s.wakes := rfl
@[simp] theorem modCellar_olds (k : Nat) (f : Cellar → Cellar) (s : State) : (modCellar k f s).olds = s.olds := rfl

/-! ### setSlot -/

@[simp] theorem setSlot_strands (s : State) (k : Nat) (v : Slot) : (setSlot s k v).strands = s.strands := rfl
@[simp] theorem setSlot_tiles (s : State) (k : Nat) (v : Slot) : (setSlot s k v).tiles = s.tiles := rfl
@[simp] theorem setSlot_booths (s : State) (k : Nat) (v : Slot) : (setSlot s k v).booths = s.booths := rfl
@[simp] theorem setSlot_mem (s : State) (k : Nat) (v : Slot) : (setSlot s k v).mem = s.mem := rfl
@[simp] theorem setSlot_poison (s : State) (k : Nat) (v : Slot) : (setSlot s k v).poison = s.poison := rfl
@[simp] theorem setSlot_pend (s : State) (k : Nat) (v : Slot) : (setSlot s k v).pend = s.pend := rfl
@[simp] theorem setSlot_tlbs (s : State) (k : Nat) (v : Slot) : (setSlot s k v).tlbs = s.tlbs := rfl
@[simp] theorem setSlot_roots (s : State) (k : Nat) (v : Slot) : (setSlot s k v).roots = s.roots := rfl
@[simp] theorem setSlot_queues (s : State) (k : Nat) (v : Slot) : (setSlot s k v).queues = s.queues := rfl
@[simp] theorem setSlot_futures (s : State) (k : Nat) (v : Slot) : (setSlot s k v).futures = s.futures := rfl
@[simp] theorem setSlot_freeFut (s : State) (k : Nat) (v : Slot) : (setSlot s k v).freeFut = s.freeFut := rfl
@[simp] theorem setSlot_txwin (s : State) (k : Nat) (v : Slot) : (setSlot s k v).txwin = s.txwin := rfl
@[simp] theorem setSlot_rxwin (s : State) (k : Nat) (v : Slot) : (setSlot s k v).rxwin = s.rxwin := rfl
@[simp] theorem setSlot_pendWin (s : State) (k : Nat) (v : Slot) : (setSlot s k v).pendWin = s.pendWin := rfl
@[simp] theorem setSlot_wstores (s : State) (k : Nat) (v : Slot) : (setSlot s k v).wstores = s.wstores := rfl
@[simp] theorem setSlot_pathS (s : State) (k : Nat) (v : Slot) : (setSlot s k v).pathS = s.pathS := rfl
@[simp] theorem setSlot_pathR (s : State) (k : Nat) (v : Slot) : (setSlot s k v).pathR = s.pathR := rfl
@[simp] theorem setSlot_peers (s : State) (k : Nat) (v : Slot) : (setSlot s k v).peers = s.peers := rfl
@[simp] theorem setSlot_tileMap (s : State) (k : Nat) (v : Slot) : (setSlot s k v).tileMap = s.tileMap := rfl
@[simp] theorem setSlot_looms (s : State) (k : Nat) (v : Slot) : (setSlot s k v).looms = s.looms := rfl
@[simp] theorem setSlot_carters (s : State) (k : Nat) (v : Slot) : (setSlot s k v).carters = s.carters := rfl
@[simp] theorem setSlot_cellars (s : State) (k : Nat) (v : Slot) : (setSlot s k v).cellars = s.cellars := rfl
@[simp] theorem setSlot_islands (s : State) (k : Nat) (v : Slot) : (setSlot s k v).islands = s.islands := rfl
@[simp] theorem setSlot_ports (s : State) (k : Nat) (v : Slot) : (setSlot s k v).ports = s.ports := rfl
@[simp] theorem setSlot_jobs (s : State) (k : Nat) (v : Slot) : (setSlot s k v).jobs = s.jobs := rfl
@[simp] theorem setSlot_requests (s : State) (k : Nat) (v : Slot) : (setSlot s k v).requests = s.requests := rfl
@[simp] theorem setSlot_dies (s : State) (k : Nat) (v : Slot) : (setSlot s k v).dies = s.dies := rfl
@[simp] theorem setSlot_sema (s : State) (k : Nat) (v : Slot) : (setSlot s k v).sema = s.sema := rfl
@[simp] theorem setSlot_pagerSema (s : State) (k : Nat) (v : Slot) : (setSlot s k v).pagerSema = s.pagerSema := rfl
@[simp] theorem setSlot_devtime (s : State) (k : Nat) (v : Slot) : (setSlot s k v).devtime = s.devtime := rfl
@[simp] theorem setSlot_powercap (s : State) (k : Nat) (v : Slot) : (setSlot s k v).powercap = s.powercap := rfl
@[simp] theorem setSlot_fwact (s : State) (k : Nat) (v : Slot) : (setSlot s k v).fwact = s.fwact := rfl
@[simp] theorem setSlot_minver (s : State) (k : Nat) (v : Slot) : (setSlot s k v).minver = s.minver := rfl
@[simp] theorem setSlot_flash (s : State) (k : Nat) (v : Slot) : (setSlot s k v).flash = s.flash := rfl
@[simp] theorem setSlot_booted (s : State) (k : Nat) (v : Slot) : (setSlot s k v).booted = s.booted := rfl
@[simp] theorem setSlot_measured (s : State) (k : Nat) (v : Slot) : (setSlot s k v).measured = s.measured := rfl
@[simp] theorem setSlot_fused (s : State) (k : Nat) (v : Slot) : (setSlot s k v).fused = s.fused := rfl
@[simp] theorem setSlot_device (s : State) (k : Nat) (v : Slot) : (setSlot s k v).device = s.device := rfl
@[simp] theorem setSlot_domain (s : State) (k : Nat) (v : Slot) : (setSlot s k v).domain = s.domain := rfl
@[simp] theorem setSlot_frozen (s : State) (k : Nat) (v : Slot) : (setSlot s k v).frozen = s.frozen := rfl
@[simp] theorem setSlot_checkpoint (s : State) (k : Nat) (v : Slot) : (setSlot s k v).checkpoint = s.checkpoint := rfl
@[simp] theorem setSlot_ticket (s : State) (k : Nat) (v : Slot) : (setSlot s k v).ticket = s.ticket := rfl
@[simp] theorem setSlot_fresh (s : State) (k : Nat) (v : Slot) : (setSlot s k v).fresh = s.fresh := rfl
@[simp] theorem setSlot_inputs (s : State) (k : Nat) (v : Slot) : (setSlot s k v).inputs = s.inputs := rfl
@[simp] theorem setSlot_internal (s : State) (k : Nat) (v : Slot) : (setSlot s k v).internal = s.internal := rfl
@[simp] theorem setSlot_turn (s : State) (k : Nat) (v : Slot) : (setSlot s k v).turn = s.turn := rfl
@[simp] theorem setSlot_toggle (s : State) (k : Nat) (v : Slot) : (setSlot s k v).toggle = s.toggle := rfl
@[simp] theorem setSlot_cur (s : State) (k : Nat) (v : Slot) : (setSlot s k v).cur = s.cur := rfl
@[simp] theorem setSlot_out (s : State) (k : Nat) (v : Slot) : (setSlot s k v).out = s.out := rfl
@[simp] theorem setSlot_stalls (s : State) (k : Nat) (v : Slot) : (setSlot s k v).stalls = s.stalls := rfl
@[simp] theorem setSlot_pool (s : State) (k : Nat) (v : Slot) : (setSlot s k v).pool = s.pool := rfl
@[simp] theorem setSlot_bootStaged (s : State) (k : Nat) (v : Slot) : (setSlot s k v).bootStaged = s.bootStaged := rfl
@[simp] theorem setSlot_moved (s : State) (k : Nat) (v : Slot) : (setSlot s k v).moved = s.moved := rfl
@[simp] theorem setSlot_wakes (s : State) (k : Nat) (v : Slot) : (setSlot s k v).wakes = s.wakes := rfl
@[simp] theorem setSlot_olds (s : State) (k : Nat) (v : Slot) : (setSlot s k v).olds = s.olds := rfl

/-! ### setIsland -/

@[simp] theorem setIsland_strands (s : State) (k : Nat) (v : Island) : (setIsland s k v).strands = s.strands := rfl
@[simp] theorem setIsland_tiles (s : State) (k : Nat) (v : Island) : (setIsland s k v).tiles = s.tiles := rfl
@[simp] theorem setIsland_booths (s : State) (k : Nat) (v : Island) : (setIsland s k v).booths = s.booths := rfl
@[simp] theorem setIsland_mem (s : State) (k : Nat) (v : Island) : (setIsland s k v).mem = s.mem := rfl
@[simp] theorem setIsland_poison (s : State) (k : Nat) (v : Island) : (setIsland s k v).poison = s.poison := rfl
@[simp] theorem setIsland_pend (s : State) (k : Nat) (v : Island) : (setIsland s k v).pend = s.pend := rfl
@[simp] theorem setIsland_tlbs (s : State) (k : Nat) (v : Island) : (setIsland s k v).tlbs = s.tlbs := rfl
@[simp] theorem setIsland_roots (s : State) (k : Nat) (v : Island) : (setIsland s k v).roots = s.roots := rfl
@[simp] theorem setIsland_queues (s : State) (k : Nat) (v : Island) : (setIsland s k v).queues = s.queues := rfl
@[simp] theorem setIsland_futures (s : State) (k : Nat) (v : Island) : (setIsland s k v).futures = s.futures := rfl
@[simp] theorem setIsland_freeFut (s : State) (k : Nat) (v : Island) : (setIsland s k v).freeFut = s.freeFut := rfl
@[simp] theorem setIsland_txwin (s : State) (k : Nat) (v : Island) : (setIsland s k v).txwin = s.txwin := rfl
@[simp] theorem setIsland_rxwin (s : State) (k : Nat) (v : Island) : (setIsland s k v).rxwin = s.rxwin := rfl
@[simp] theorem setIsland_pendWin (s : State) (k : Nat) (v : Island) : (setIsland s k v).pendWin = s.pendWin := rfl
@[simp] theorem setIsland_wstores (s : State) (k : Nat) (v : Island) : (setIsland s k v).wstores = s.wstores := rfl
@[simp] theorem setIsland_pathS (s : State) (k : Nat) (v : Island) : (setIsland s k v).pathS = s.pathS := rfl
@[simp] theorem setIsland_pathR (s : State) (k : Nat) (v : Island) : (setIsland s k v).pathR = s.pathR := rfl
@[simp] theorem setIsland_peers (s : State) (k : Nat) (v : Island) : (setIsland s k v).peers = s.peers := rfl
@[simp] theorem setIsland_slots (s : State) (k : Nat) (v : Island) : (setIsland s k v).slots = s.slots := rfl
@[simp] theorem setIsland_tileMap (s : State) (k : Nat) (v : Island) : (setIsland s k v).tileMap = s.tileMap := rfl
@[simp] theorem setIsland_looms (s : State) (k : Nat) (v : Island) : (setIsland s k v).looms = s.looms := rfl
@[simp] theorem setIsland_carters (s : State) (k : Nat) (v : Island) : (setIsland s k v).carters = s.carters := rfl
@[simp] theorem setIsland_cellars (s : State) (k : Nat) (v : Island) : (setIsland s k v).cellars = s.cellars := rfl
@[simp] theorem setIsland_ports (s : State) (k : Nat) (v : Island) : (setIsland s k v).ports = s.ports := rfl
@[simp] theorem setIsland_jobs (s : State) (k : Nat) (v : Island) : (setIsland s k v).jobs = s.jobs := rfl
@[simp] theorem setIsland_requests (s : State) (k : Nat) (v : Island) : (setIsland s k v).requests = s.requests := rfl
@[simp] theorem setIsland_dies (s : State) (k : Nat) (v : Island) : (setIsland s k v).dies = s.dies := rfl
@[simp] theorem setIsland_sema (s : State) (k : Nat) (v : Island) : (setIsland s k v).sema = s.sema := rfl
@[simp] theorem setIsland_pagerSema (s : State) (k : Nat) (v : Island) : (setIsland s k v).pagerSema = s.pagerSema := rfl
@[simp] theorem setIsland_devtime (s : State) (k : Nat) (v : Island) : (setIsland s k v).devtime = s.devtime := rfl
@[simp] theorem setIsland_powercap (s : State) (k : Nat) (v : Island) : (setIsland s k v).powercap = s.powercap := rfl
@[simp] theorem setIsland_fwact (s : State) (k : Nat) (v : Island) : (setIsland s k v).fwact = s.fwact := rfl
@[simp] theorem setIsland_minver (s : State) (k : Nat) (v : Island) : (setIsland s k v).minver = s.minver := rfl
@[simp] theorem setIsland_flash (s : State) (k : Nat) (v : Island) : (setIsland s k v).flash = s.flash := rfl
@[simp] theorem setIsland_booted (s : State) (k : Nat) (v : Island) : (setIsland s k v).booted = s.booted := rfl
@[simp] theorem setIsland_measured (s : State) (k : Nat) (v : Island) : (setIsland s k v).measured = s.measured := rfl
@[simp] theorem setIsland_fused (s : State) (k : Nat) (v : Island) : (setIsland s k v).fused = s.fused := rfl
@[simp] theorem setIsland_device (s : State) (k : Nat) (v : Island) : (setIsland s k v).device = s.device := rfl
@[simp] theorem setIsland_domain (s : State) (k : Nat) (v : Island) : (setIsland s k v).domain = s.domain := rfl
@[simp] theorem setIsland_frozen (s : State) (k : Nat) (v : Island) : (setIsland s k v).frozen = s.frozen := rfl
@[simp] theorem setIsland_checkpoint (s : State) (k : Nat) (v : Island) : (setIsland s k v).checkpoint = s.checkpoint := rfl
@[simp] theorem setIsland_ticket (s : State) (k : Nat) (v : Island) : (setIsland s k v).ticket = s.ticket := rfl
@[simp] theorem setIsland_fresh (s : State) (k : Nat) (v : Island) : (setIsland s k v).fresh = s.fresh := rfl
@[simp] theorem setIsland_inputs (s : State) (k : Nat) (v : Island) : (setIsland s k v).inputs = s.inputs := rfl
@[simp] theorem setIsland_internal (s : State) (k : Nat) (v : Island) : (setIsland s k v).internal = s.internal := rfl
@[simp] theorem setIsland_turn (s : State) (k : Nat) (v : Island) : (setIsland s k v).turn = s.turn := rfl
@[simp] theorem setIsland_toggle (s : State) (k : Nat) (v : Island) : (setIsland s k v).toggle = s.toggle := rfl
@[simp] theorem setIsland_cur (s : State) (k : Nat) (v : Island) : (setIsland s k v).cur = s.cur := rfl
@[simp] theorem setIsland_out (s : State) (k : Nat) (v : Island) : (setIsland s k v).out = s.out := rfl
@[simp] theorem setIsland_stalls (s : State) (k : Nat) (v : Island) : (setIsland s k v).stalls = s.stalls := rfl
@[simp] theorem setIsland_pool (s : State) (k : Nat) (v : Island) : (setIsland s k v).pool = s.pool := rfl
@[simp] theorem setIsland_bootStaged (s : State) (k : Nat) (v : Island) : (setIsland s k v).bootStaged = s.bootStaged := rfl
@[simp] theorem setIsland_moved (s : State) (k : Nat) (v : Island) : (setIsland s k v).moved = s.moved := rfl
@[simp] theorem setIsland_wakes (s : State) (k : Nat) (v : Island) : (setIsland s k v).wakes = s.wakes := rfl
@[simp] theorem setIsland_olds (s : State) (k : Nat) (v : Island) : (setIsland s k v).olds = s.olds := rfl

/-! ### modPeer -/

@[simp] theorem modPeer_strands (k : Nat) (f : Peer → Peer) (s : State) : (modPeer k f s).strands = s.strands := rfl
@[simp] theorem modPeer_tiles (k : Nat) (f : Peer → Peer) (s : State) : (modPeer k f s).tiles = s.tiles := rfl
@[simp] theorem modPeer_booths (k : Nat) (f : Peer → Peer) (s : State) : (modPeer k f s).booths = s.booths := rfl
@[simp] theorem modPeer_mem (k : Nat) (f : Peer → Peer) (s : State) : (modPeer k f s).mem = s.mem := rfl
@[simp] theorem modPeer_poison (k : Nat) (f : Peer → Peer) (s : State) : (modPeer k f s).poison = s.poison := rfl
@[simp] theorem modPeer_pend (k : Nat) (f : Peer → Peer) (s : State) : (modPeer k f s).pend = s.pend := rfl
@[simp] theorem modPeer_tlbs (k : Nat) (f : Peer → Peer) (s : State) : (modPeer k f s).tlbs = s.tlbs := rfl
@[simp] theorem modPeer_roots (k : Nat) (f : Peer → Peer) (s : State) : (modPeer k f s).roots = s.roots := rfl
@[simp] theorem modPeer_queues (k : Nat) (f : Peer → Peer) (s : State) : (modPeer k f s).queues = s.queues := rfl
@[simp] theorem modPeer_futures (k : Nat) (f : Peer → Peer) (s : State) : (modPeer k f s).futures = s.futures := rfl
@[simp] theorem modPeer_freeFut (k : Nat) (f : Peer → Peer) (s : State) : (modPeer k f s).freeFut = s.freeFut := rfl
@[simp] theorem modPeer_txwin (k : Nat) (f : Peer → Peer) (s : State) : (modPeer k f s).txwin = s.txwin := rfl
@[simp] theorem modPeer_rxwin (k : Nat) (f : Peer → Peer) (s : State) : (modPeer k f s).rxwin = s.rxwin := rfl
@[simp] theorem modPeer_pendWin (k : Nat) (f : Peer → Peer) (s : State) : (modPeer k f s).pendWin = s.pendWin := rfl
@[simp] theorem modPeer_wstores (k : Nat) (f : Peer → Peer) (s : State) : (modPeer k f s).wstores = s.wstores := rfl
@[simp] theorem modPeer_pathS (k : Nat) (f : Peer → Peer) (s : State) : (modPeer k f s).pathS = s.pathS := rfl
@[simp] theorem modPeer_pathR (k : Nat) (f : Peer → Peer) (s : State) : (modPeer k f s).pathR = s.pathR := rfl
@[simp] theorem modPeer_slots (k : Nat) (f : Peer → Peer) (s : State) : (modPeer k f s).slots = s.slots := rfl
@[simp] theorem modPeer_tileMap (k : Nat) (f : Peer → Peer) (s : State) : (modPeer k f s).tileMap = s.tileMap := rfl
@[simp] theorem modPeer_looms (k : Nat) (f : Peer → Peer) (s : State) : (modPeer k f s).looms = s.looms := rfl
@[simp] theorem modPeer_carters (k : Nat) (f : Peer → Peer) (s : State) : (modPeer k f s).carters = s.carters := rfl
@[simp] theorem modPeer_cellars (k : Nat) (f : Peer → Peer) (s : State) : (modPeer k f s).cellars = s.cellars := rfl
@[simp] theorem modPeer_islands (k : Nat) (f : Peer → Peer) (s : State) : (modPeer k f s).islands = s.islands := rfl
@[simp] theorem modPeer_ports (k : Nat) (f : Peer → Peer) (s : State) : (modPeer k f s).ports = s.ports := rfl
@[simp] theorem modPeer_jobs (k : Nat) (f : Peer → Peer) (s : State) : (modPeer k f s).jobs = s.jobs := rfl
@[simp] theorem modPeer_requests (k : Nat) (f : Peer → Peer) (s : State) : (modPeer k f s).requests = s.requests := rfl
@[simp] theorem modPeer_dies (k : Nat) (f : Peer → Peer) (s : State) : (modPeer k f s).dies = s.dies := rfl
@[simp] theorem modPeer_sema (k : Nat) (f : Peer → Peer) (s : State) : (modPeer k f s).sema = s.sema := rfl
@[simp] theorem modPeer_pagerSema (k : Nat) (f : Peer → Peer) (s : State) : (modPeer k f s).pagerSema = s.pagerSema := rfl
@[simp] theorem modPeer_devtime (k : Nat) (f : Peer → Peer) (s : State) : (modPeer k f s).devtime = s.devtime := rfl
@[simp] theorem modPeer_powercap (k : Nat) (f : Peer → Peer) (s : State) : (modPeer k f s).powercap = s.powercap := rfl
@[simp] theorem modPeer_fwact (k : Nat) (f : Peer → Peer) (s : State) : (modPeer k f s).fwact = s.fwact := rfl
@[simp] theorem modPeer_minver (k : Nat) (f : Peer → Peer) (s : State) : (modPeer k f s).minver = s.minver := rfl
@[simp] theorem modPeer_flash (k : Nat) (f : Peer → Peer) (s : State) : (modPeer k f s).flash = s.flash := rfl
@[simp] theorem modPeer_booted (k : Nat) (f : Peer → Peer) (s : State) : (modPeer k f s).booted = s.booted := rfl
@[simp] theorem modPeer_measured (k : Nat) (f : Peer → Peer) (s : State) : (modPeer k f s).measured = s.measured := rfl
@[simp] theorem modPeer_fused (k : Nat) (f : Peer → Peer) (s : State) : (modPeer k f s).fused = s.fused := rfl
@[simp] theorem modPeer_device (k : Nat) (f : Peer → Peer) (s : State) : (modPeer k f s).device = s.device := rfl
@[simp] theorem modPeer_domain (k : Nat) (f : Peer → Peer) (s : State) : (modPeer k f s).domain = s.domain := rfl
@[simp] theorem modPeer_frozen (k : Nat) (f : Peer → Peer) (s : State) : (modPeer k f s).frozen = s.frozen := rfl
@[simp] theorem modPeer_checkpoint (k : Nat) (f : Peer → Peer) (s : State) : (modPeer k f s).checkpoint = s.checkpoint := rfl
@[simp] theorem modPeer_ticket (k : Nat) (f : Peer → Peer) (s : State) : (modPeer k f s).ticket = s.ticket := rfl
@[simp] theorem modPeer_fresh (k : Nat) (f : Peer → Peer) (s : State) : (modPeer k f s).fresh = s.fresh := rfl
@[simp] theorem modPeer_inputs (k : Nat) (f : Peer → Peer) (s : State) : (modPeer k f s).inputs = s.inputs := rfl
@[simp] theorem modPeer_internal (k : Nat) (f : Peer → Peer) (s : State) : (modPeer k f s).internal = s.internal := rfl
@[simp] theorem modPeer_turn (k : Nat) (f : Peer → Peer) (s : State) : (modPeer k f s).turn = s.turn := rfl
@[simp] theorem modPeer_toggle (k : Nat) (f : Peer → Peer) (s : State) : (modPeer k f s).toggle = s.toggle := rfl
@[simp] theorem modPeer_cur (k : Nat) (f : Peer → Peer) (s : State) : (modPeer k f s).cur = s.cur := rfl
@[simp] theorem modPeer_out (k : Nat) (f : Peer → Peer) (s : State) : (modPeer k f s).out = s.out := rfl
@[simp] theorem modPeer_stalls (k : Nat) (f : Peer → Peer) (s : State) : (modPeer k f s).stalls = s.stalls := rfl
@[simp] theorem modPeer_pool (k : Nat) (f : Peer → Peer) (s : State) : (modPeer k f s).pool = s.pool := rfl
@[simp] theorem modPeer_bootStaged (k : Nat) (f : Peer → Peer) (s : State) : (modPeer k f s).bootStaged = s.bootStaged := rfl
@[simp] theorem modPeer_moved (k : Nat) (f : Peer → Peer) (s : State) : (modPeer k f s).moved = s.moved := rfl
@[simp] theorem modPeer_wakes (k : Nat) (f : Peer → Peer) (s : State) : (modPeer k f s).wakes = s.wakes := rfl
@[simp] theorem modPeer_olds (k : Nat) (f : Peer → Peer) (s : State) : (modPeer k f s).olds = s.olds := rfl

/-! ### modJob -/

@[simp] theorem modJob_strands (j : BitVec 16) (f : Job → Job) (s : State) : (modJob j f s).strands = s.strands := rfl
@[simp] theorem modJob_tiles (j : BitVec 16) (f : Job → Job) (s : State) : (modJob j f s).tiles = s.tiles := rfl
@[simp] theorem modJob_booths (j : BitVec 16) (f : Job → Job) (s : State) : (modJob j f s).booths = s.booths := rfl
@[simp] theorem modJob_mem (j : BitVec 16) (f : Job → Job) (s : State) : (modJob j f s).mem = s.mem := rfl
@[simp] theorem modJob_poison (j : BitVec 16) (f : Job → Job) (s : State) : (modJob j f s).poison = s.poison := rfl
@[simp] theorem modJob_pend (j : BitVec 16) (f : Job → Job) (s : State) : (modJob j f s).pend = s.pend := rfl
@[simp] theorem modJob_tlbs (j : BitVec 16) (f : Job → Job) (s : State) : (modJob j f s).tlbs = s.tlbs := rfl
@[simp] theorem modJob_roots (j : BitVec 16) (f : Job → Job) (s : State) : (modJob j f s).roots = s.roots := rfl
@[simp] theorem modJob_queues (j : BitVec 16) (f : Job → Job) (s : State) : (modJob j f s).queues = s.queues := rfl
@[simp] theorem modJob_futures (j : BitVec 16) (f : Job → Job) (s : State) : (modJob j f s).futures = s.futures := rfl
@[simp] theorem modJob_freeFut (j : BitVec 16) (f : Job → Job) (s : State) : (modJob j f s).freeFut = s.freeFut := rfl
@[simp] theorem modJob_txwin (j : BitVec 16) (f : Job → Job) (s : State) : (modJob j f s).txwin = s.txwin := rfl
@[simp] theorem modJob_rxwin (j : BitVec 16) (f : Job → Job) (s : State) : (modJob j f s).rxwin = s.rxwin := rfl
@[simp] theorem modJob_pendWin (j : BitVec 16) (f : Job → Job) (s : State) : (modJob j f s).pendWin = s.pendWin := rfl
@[simp] theorem modJob_wstores (j : BitVec 16) (f : Job → Job) (s : State) : (modJob j f s).wstores = s.wstores := rfl
@[simp] theorem modJob_pathS (j : BitVec 16) (f : Job → Job) (s : State) : (modJob j f s).pathS = s.pathS := rfl
@[simp] theorem modJob_pathR (j : BitVec 16) (f : Job → Job) (s : State) : (modJob j f s).pathR = s.pathR := rfl
@[simp] theorem modJob_peers (j : BitVec 16) (f : Job → Job) (s : State) : (modJob j f s).peers = s.peers := rfl
@[simp] theorem modJob_slots (j : BitVec 16) (f : Job → Job) (s : State) : (modJob j f s).slots = s.slots := rfl
@[simp] theorem modJob_tileMap (j : BitVec 16) (f : Job → Job) (s : State) : (modJob j f s).tileMap = s.tileMap := rfl
@[simp] theorem modJob_looms (j : BitVec 16) (f : Job → Job) (s : State) : (modJob j f s).looms = s.looms := rfl
@[simp] theorem modJob_carters (j : BitVec 16) (f : Job → Job) (s : State) : (modJob j f s).carters = s.carters := rfl
@[simp] theorem modJob_cellars (j : BitVec 16) (f : Job → Job) (s : State) : (modJob j f s).cellars = s.cellars := rfl
@[simp] theorem modJob_islands (j : BitVec 16) (f : Job → Job) (s : State) : (modJob j f s).islands = s.islands := rfl
@[simp] theorem modJob_ports (j : BitVec 16) (f : Job → Job) (s : State) : (modJob j f s).ports = s.ports := rfl
@[simp] theorem modJob_requests (j : BitVec 16) (f : Job → Job) (s : State) : (modJob j f s).requests = s.requests := rfl
@[simp] theorem modJob_dies (j : BitVec 16) (f : Job → Job) (s : State) : (modJob j f s).dies = s.dies := rfl
@[simp] theorem modJob_sema (j : BitVec 16) (f : Job → Job) (s : State) : (modJob j f s).sema = s.sema := rfl
@[simp] theorem modJob_pagerSema (j : BitVec 16) (f : Job → Job) (s : State) : (modJob j f s).pagerSema = s.pagerSema := rfl
@[simp] theorem modJob_devtime (j : BitVec 16) (f : Job → Job) (s : State) : (modJob j f s).devtime = s.devtime := rfl
@[simp] theorem modJob_powercap (j : BitVec 16) (f : Job → Job) (s : State) : (modJob j f s).powercap = s.powercap := rfl
@[simp] theorem modJob_fwact (j : BitVec 16) (f : Job → Job) (s : State) : (modJob j f s).fwact = s.fwact := rfl
@[simp] theorem modJob_minver (j : BitVec 16) (f : Job → Job) (s : State) : (modJob j f s).minver = s.minver := rfl
@[simp] theorem modJob_flash (j : BitVec 16) (f : Job → Job) (s : State) : (modJob j f s).flash = s.flash := rfl
@[simp] theorem modJob_booted (j : BitVec 16) (f : Job → Job) (s : State) : (modJob j f s).booted = s.booted := rfl
@[simp] theorem modJob_measured (j : BitVec 16) (f : Job → Job) (s : State) : (modJob j f s).measured = s.measured := rfl
@[simp] theorem modJob_fused (j : BitVec 16) (f : Job → Job) (s : State) : (modJob j f s).fused = s.fused := rfl
@[simp] theorem modJob_device (j : BitVec 16) (f : Job → Job) (s : State) : (modJob j f s).device = s.device := rfl
@[simp] theorem modJob_domain (j : BitVec 16) (f : Job → Job) (s : State) : (modJob j f s).domain = s.domain := rfl
@[simp] theorem modJob_frozen (j : BitVec 16) (f : Job → Job) (s : State) : (modJob j f s).frozen = s.frozen := rfl
@[simp] theorem modJob_checkpoint (j : BitVec 16) (f : Job → Job) (s : State) : (modJob j f s).checkpoint = s.checkpoint := rfl
@[simp] theorem modJob_ticket (j : BitVec 16) (f : Job → Job) (s : State) : (modJob j f s).ticket = s.ticket := rfl
@[simp] theorem modJob_fresh (j : BitVec 16) (f : Job → Job) (s : State) : (modJob j f s).fresh = s.fresh := rfl
@[simp] theorem modJob_inputs (j : BitVec 16) (f : Job → Job) (s : State) : (modJob j f s).inputs = s.inputs := rfl
@[simp] theorem modJob_internal (j : BitVec 16) (f : Job → Job) (s : State) : (modJob j f s).internal = s.internal := rfl
@[simp] theorem modJob_turn (j : BitVec 16) (f : Job → Job) (s : State) : (modJob j f s).turn = s.turn := rfl
@[simp] theorem modJob_toggle (j : BitVec 16) (f : Job → Job) (s : State) : (modJob j f s).toggle = s.toggle := rfl
@[simp] theorem modJob_cur (j : BitVec 16) (f : Job → Job) (s : State) : (modJob j f s).cur = s.cur := rfl
@[simp] theorem modJob_out (j : BitVec 16) (f : Job → Job) (s : State) : (modJob j f s).out = s.out := rfl
@[simp] theorem modJob_stalls (j : BitVec 16) (f : Job → Job) (s : State) : (modJob j f s).stalls = s.stalls := rfl
@[simp] theorem modJob_pool (j : BitVec 16) (f : Job → Job) (s : State) : (modJob j f s).pool = s.pool := rfl
@[simp] theorem modJob_bootStaged (j : BitVec 16) (f : Job → Job) (s : State) : (modJob j f s).bootStaged = s.bootStaged := rfl
@[simp] theorem modJob_moved (j : BitVec 16) (f : Job → Job) (s : State) : (modJob j f s).moved = s.moved := rfl
@[simp] theorem modJob_wakes (j : BitVec 16) (f : Job → Job) (s : State) : (modJob j f s).wakes = s.wakes := rfl
@[simp] theorem modJob_olds (j : BitVec 16) (f : Job → Job) (s : State) : (modJob j f s).olds = s.olds := rfl

/-! ### enqueue -/

@[simp] theorem enqueue_strands (i : Instr) (s : State) : (enqueue i s).strands = s.strands := rfl
@[simp] theorem enqueue_tiles (i : Instr) (s : State) : (enqueue i s).tiles = s.tiles := rfl
@[simp] theorem enqueue_booths (i : Instr) (s : State) : (enqueue i s).booths = s.booths := rfl
@[simp] theorem enqueue_mem (i : Instr) (s : State) : (enqueue i s).mem = s.mem := rfl
@[simp] theorem enqueue_poison (i : Instr) (s : State) : (enqueue i s).poison = s.poison := rfl
@[simp] theorem enqueue_pend (i : Instr) (s : State) : (enqueue i s).pend = s.pend := rfl
@[simp] theorem enqueue_tlbs (i : Instr) (s : State) : (enqueue i s).tlbs = s.tlbs := rfl
@[simp] theorem enqueue_roots (i : Instr) (s : State) : (enqueue i s).roots = s.roots := rfl
@[simp] theorem enqueue_queues (i : Instr) (s : State) : (enqueue i s).queues = s.queues := rfl
@[simp] theorem enqueue_futures (i : Instr) (s : State) : (enqueue i s).futures = s.futures := rfl
@[simp] theorem enqueue_freeFut (i : Instr) (s : State) : (enqueue i s).freeFut = s.freeFut := rfl
@[simp] theorem enqueue_txwin (i : Instr) (s : State) : (enqueue i s).txwin = s.txwin := rfl
@[simp] theorem enqueue_rxwin (i : Instr) (s : State) : (enqueue i s).rxwin = s.rxwin := rfl
@[simp] theorem enqueue_pendWin (i : Instr) (s : State) : (enqueue i s).pendWin = s.pendWin := rfl
@[simp] theorem enqueue_wstores (i : Instr) (s : State) : (enqueue i s).wstores = s.wstores := rfl
@[simp] theorem enqueue_pathS (i : Instr) (s : State) : (enqueue i s).pathS = s.pathS := rfl
@[simp] theorem enqueue_pathR (i : Instr) (s : State) : (enqueue i s).pathR = s.pathR := rfl
@[simp] theorem enqueue_peers (i : Instr) (s : State) : (enqueue i s).peers = s.peers := rfl
@[simp] theorem enqueue_slots (i : Instr) (s : State) : (enqueue i s).slots = s.slots := rfl
@[simp] theorem enqueue_tileMap (i : Instr) (s : State) : (enqueue i s).tileMap = s.tileMap := rfl
@[simp] theorem enqueue_looms (i : Instr) (s : State) : (enqueue i s).looms = s.looms := rfl
@[simp] theorem enqueue_carters (i : Instr) (s : State) : (enqueue i s).carters = s.carters := rfl
@[simp] theorem enqueue_cellars (i : Instr) (s : State) : (enqueue i s).cellars = s.cellars := rfl
@[simp] theorem enqueue_islands (i : Instr) (s : State) : (enqueue i s).islands = s.islands := rfl
@[simp] theorem enqueue_ports (i : Instr) (s : State) : (enqueue i s).ports = s.ports := rfl
@[simp] theorem enqueue_jobs (i : Instr) (s : State) : (enqueue i s).jobs = s.jobs := rfl
@[simp] theorem enqueue_requests (i : Instr) (s : State) : (enqueue i s).requests = s.requests := rfl
@[simp] theorem enqueue_dies (i : Instr) (s : State) : (enqueue i s).dies = s.dies := rfl
@[simp] theorem enqueue_sema (i : Instr) (s : State) : (enqueue i s).sema = s.sema := rfl
@[simp] theorem enqueue_pagerSema (i : Instr) (s : State) : (enqueue i s).pagerSema = s.pagerSema := rfl
@[simp] theorem enqueue_devtime (i : Instr) (s : State) : (enqueue i s).devtime = s.devtime := rfl
@[simp] theorem enqueue_powercap (i : Instr) (s : State) : (enqueue i s).powercap = s.powercap := rfl
@[simp] theorem enqueue_fwact (i : Instr) (s : State) : (enqueue i s).fwact = s.fwact := rfl
@[simp] theorem enqueue_minver (i : Instr) (s : State) : (enqueue i s).minver = s.minver := rfl
@[simp] theorem enqueue_flash (i : Instr) (s : State) : (enqueue i s).flash = s.flash := rfl
@[simp] theorem enqueue_booted (i : Instr) (s : State) : (enqueue i s).booted = s.booted := rfl
@[simp] theorem enqueue_measured (i : Instr) (s : State) : (enqueue i s).measured = s.measured := rfl
@[simp] theorem enqueue_fused (i : Instr) (s : State) : (enqueue i s).fused = s.fused := rfl
@[simp] theorem enqueue_device (i : Instr) (s : State) : (enqueue i s).device = s.device := rfl
@[simp] theorem enqueue_domain (i : Instr) (s : State) : (enqueue i s).domain = s.domain := rfl
@[simp] theorem enqueue_frozen (i : Instr) (s : State) : (enqueue i s).frozen = s.frozen := rfl
@[simp] theorem enqueue_checkpoint (i : Instr) (s : State) : (enqueue i s).checkpoint = s.checkpoint := rfl
@[simp] theorem enqueue_ticket (i : Instr) (s : State) : (enqueue i s).ticket = s.ticket := rfl
@[simp] theorem enqueue_fresh (i : Instr) (s : State) : (enqueue i s).fresh = s.fresh := rfl
@[simp] theorem enqueue_inputs (i : Instr) (s : State) : (enqueue i s).inputs = s.inputs := rfl
@[simp] theorem enqueue_turn (i : Instr) (s : State) : (enqueue i s).turn = s.turn := rfl
@[simp] theorem enqueue_toggle (i : Instr) (s : State) : (enqueue i s).toggle = s.toggle := rfl
@[simp] theorem enqueue_cur (i : Instr) (s : State) : (enqueue i s).cur = s.cur := rfl
@[simp] theorem enqueue_out (i : Instr) (s : State) : (enqueue i s).out = s.out := rfl
@[simp] theorem enqueue_stalls (i : Instr) (s : State) : (enqueue i s).stalls = s.stalls := rfl
@[simp] theorem enqueue_pool (i : Instr) (s : State) : (enqueue i s).pool = s.pool := rfl
@[simp] theorem enqueue_bootStaged (i : Instr) (s : State) : (enqueue i s).bootStaged = s.bootStaged := rfl
@[simp] theorem enqueue_moved (i : Instr) (s : State) : (enqueue i s).moved = s.moved := rfl
@[simp] theorem enqueue_wakes (i : Instr) (s : State) : (enqueue i s).wakes = s.wakes := rfl
@[simp] theorem enqueue_olds (i : Instr) (s : State) : (enqueue i s).olds = s.olds := rfl

/-! ### emit -/

@[simp] theorem emit_strands (m : OutMsg) (s : State) : (emit m s).strands = s.strands := rfl
@[simp] theorem emit_tiles (m : OutMsg) (s : State) : (emit m s).tiles = s.tiles := rfl
@[simp] theorem emit_booths (m : OutMsg) (s : State) : (emit m s).booths = s.booths := rfl
@[simp] theorem emit_mem (m : OutMsg) (s : State) : (emit m s).mem = s.mem := rfl
@[simp] theorem emit_poison (m : OutMsg) (s : State) : (emit m s).poison = s.poison := rfl
@[simp] theorem emit_pend (m : OutMsg) (s : State) : (emit m s).pend = s.pend := rfl
@[simp] theorem emit_tlbs (m : OutMsg) (s : State) : (emit m s).tlbs = s.tlbs := rfl
@[simp] theorem emit_roots (m : OutMsg) (s : State) : (emit m s).roots = s.roots := rfl
@[simp] theorem emit_queues (m : OutMsg) (s : State) : (emit m s).queues = s.queues := rfl
@[simp] theorem emit_futures (m : OutMsg) (s : State) : (emit m s).futures = s.futures := rfl
@[simp] theorem emit_freeFut (m : OutMsg) (s : State) : (emit m s).freeFut = s.freeFut := rfl
@[simp] theorem emit_txwin (m : OutMsg) (s : State) : (emit m s).txwin = s.txwin := rfl
@[simp] theorem emit_rxwin (m : OutMsg) (s : State) : (emit m s).rxwin = s.rxwin := rfl
@[simp] theorem emit_pendWin (m : OutMsg) (s : State) : (emit m s).pendWin = s.pendWin := rfl
@[simp] theorem emit_wstores (m : OutMsg) (s : State) : (emit m s).wstores = s.wstores := rfl
@[simp] theorem emit_pathS (m : OutMsg) (s : State) : (emit m s).pathS = s.pathS := rfl
@[simp] theorem emit_pathR (m : OutMsg) (s : State) : (emit m s).pathR = s.pathR := rfl
@[simp] theorem emit_peers (m : OutMsg) (s : State) : (emit m s).peers = s.peers := rfl
@[simp] theorem emit_slots (m : OutMsg) (s : State) : (emit m s).slots = s.slots := rfl
@[simp] theorem emit_tileMap (m : OutMsg) (s : State) : (emit m s).tileMap = s.tileMap := rfl
@[simp] theorem emit_looms (m : OutMsg) (s : State) : (emit m s).looms = s.looms := rfl
@[simp] theorem emit_carters (m : OutMsg) (s : State) : (emit m s).carters = s.carters := rfl
@[simp] theorem emit_cellars (m : OutMsg) (s : State) : (emit m s).cellars = s.cellars := rfl
@[simp] theorem emit_islands (m : OutMsg) (s : State) : (emit m s).islands = s.islands := rfl
@[simp] theorem emit_ports (m : OutMsg) (s : State) : (emit m s).ports = s.ports := rfl
@[simp] theorem emit_jobs (m : OutMsg) (s : State) : (emit m s).jobs = s.jobs := rfl
@[simp] theorem emit_requests (m : OutMsg) (s : State) : (emit m s).requests = s.requests := rfl
@[simp] theorem emit_dies (m : OutMsg) (s : State) : (emit m s).dies = s.dies := rfl
@[simp] theorem emit_sema (m : OutMsg) (s : State) : (emit m s).sema = s.sema := rfl
@[simp] theorem emit_pagerSema (m : OutMsg) (s : State) : (emit m s).pagerSema = s.pagerSema := rfl
@[simp] theorem emit_devtime (m : OutMsg) (s : State) : (emit m s).devtime = s.devtime := rfl
@[simp] theorem emit_powercap (m : OutMsg) (s : State) : (emit m s).powercap = s.powercap := rfl
@[simp] theorem emit_fwact (m : OutMsg) (s : State) : (emit m s).fwact = s.fwact := rfl
@[simp] theorem emit_minver (m : OutMsg) (s : State) : (emit m s).minver = s.minver := rfl
@[simp] theorem emit_flash (m : OutMsg) (s : State) : (emit m s).flash = s.flash := rfl
@[simp] theorem emit_booted (m : OutMsg) (s : State) : (emit m s).booted = s.booted := rfl
@[simp] theorem emit_measured (m : OutMsg) (s : State) : (emit m s).measured = s.measured := rfl
@[simp] theorem emit_fused (m : OutMsg) (s : State) : (emit m s).fused = s.fused := rfl
@[simp] theorem emit_device (m : OutMsg) (s : State) : (emit m s).device = s.device := rfl
@[simp] theorem emit_domain (m : OutMsg) (s : State) : (emit m s).domain = s.domain := rfl
@[simp] theorem emit_frozen (m : OutMsg) (s : State) : (emit m s).frozen = s.frozen := rfl
@[simp] theorem emit_checkpoint (m : OutMsg) (s : State) : (emit m s).checkpoint = s.checkpoint := rfl
@[simp] theorem emit_ticket (m : OutMsg) (s : State) : (emit m s).ticket = s.ticket := rfl
@[simp] theorem emit_fresh (m : OutMsg) (s : State) : (emit m s).fresh = s.fresh := rfl
@[simp] theorem emit_inputs (m : OutMsg) (s : State) : (emit m s).inputs = s.inputs := rfl
@[simp] theorem emit_internal (m : OutMsg) (s : State) : (emit m s).internal = s.internal := rfl
@[simp] theorem emit_turn (m : OutMsg) (s : State) : (emit m s).turn = s.turn := rfl
@[simp] theorem emit_toggle (m : OutMsg) (s : State) : (emit m s).toggle = s.toggle := rfl
@[simp] theorem emit_cur (m : OutMsg) (s : State) : (emit m s).cur = s.cur := rfl
@[simp] theorem emit_stalls (m : OutMsg) (s : State) : (emit m s).stalls = s.stalls := rfl
@[simp] theorem emit_pool (m : OutMsg) (s : State) : (emit m s).pool = s.pool := rfl
@[simp] theorem emit_bootStaged (m : OutMsg) (s : State) : (emit m s).bootStaged = s.bootStaged := rfl
@[simp] theorem emit_moved (m : OutMsg) (s : State) : (emit m s).moved = s.moved := rfl
@[simp] theorem emit_wakes (m : OutMsg) (s : State) : (emit m s).wakes = s.wakes := rfl
@[simp] theorem emit_olds (m : OutMsg) (s : State) : (emit m s).olds = s.olds := rfl

/-! ### asStrand -/

@[simp] theorem asStrand_strands (e : SRef) (s : State) : (asStrand e s).strands = s.strands := rfl
@[simp] theorem asStrand_tiles (e : SRef) (s : State) : (asStrand e s).tiles = s.tiles := rfl
@[simp] theorem asStrand_booths (e : SRef) (s : State) : (asStrand e s).booths = s.booths := rfl
@[simp] theorem asStrand_mem (e : SRef) (s : State) : (asStrand e s).mem = s.mem := rfl
@[simp] theorem asStrand_poison (e : SRef) (s : State) : (asStrand e s).poison = s.poison := rfl
@[simp] theorem asStrand_pend (e : SRef) (s : State) : (asStrand e s).pend = s.pend := rfl
@[simp] theorem asStrand_tlbs (e : SRef) (s : State) : (asStrand e s).tlbs = s.tlbs := rfl
@[simp] theorem asStrand_roots (e : SRef) (s : State) : (asStrand e s).roots = s.roots := rfl
@[simp] theorem asStrand_queues (e : SRef) (s : State) : (asStrand e s).queues = s.queues := rfl
@[simp] theorem asStrand_futures (e : SRef) (s : State) : (asStrand e s).futures = s.futures := rfl
@[simp] theorem asStrand_freeFut (e : SRef) (s : State) : (asStrand e s).freeFut = s.freeFut := rfl
@[simp] theorem asStrand_txwin (e : SRef) (s : State) : (asStrand e s).txwin = s.txwin := rfl
@[simp] theorem asStrand_rxwin (e : SRef) (s : State) : (asStrand e s).rxwin = s.rxwin := rfl
@[simp] theorem asStrand_pendWin (e : SRef) (s : State) : (asStrand e s).pendWin = s.pendWin := rfl
@[simp] theorem asStrand_wstores (e : SRef) (s : State) : (asStrand e s).wstores = s.wstores := rfl
@[simp] theorem asStrand_pathS (e : SRef) (s : State) : (asStrand e s).pathS = s.pathS := rfl
@[simp] theorem asStrand_pathR (e : SRef) (s : State) : (asStrand e s).pathR = s.pathR := rfl
@[simp] theorem asStrand_peers (e : SRef) (s : State) : (asStrand e s).peers = s.peers := rfl
@[simp] theorem asStrand_slots (e : SRef) (s : State) : (asStrand e s).slots = s.slots := rfl
@[simp] theorem asStrand_tileMap (e : SRef) (s : State) : (asStrand e s).tileMap = s.tileMap := rfl
@[simp] theorem asStrand_looms (e : SRef) (s : State) : (asStrand e s).looms = s.looms := rfl
@[simp] theorem asStrand_carters (e : SRef) (s : State) : (asStrand e s).carters = s.carters := rfl
@[simp] theorem asStrand_cellars (e : SRef) (s : State) : (asStrand e s).cellars = s.cellars := rfl
@[simp] theorem asStrand_islands (e : SRef) (s : State) : (asStrand e s).islands = s.islands := rfl
@[simp] theorem asStrand_ports (e : SRef) (s : State) : (asStrand e s).ports = s.ports := rfl
@[simp] theorem asStrand_jobs (e : SRef) (s : State) : (asStrand e s).jobs = s.jobs := rfl
@[simp] theorem asStrand_requests (e : SRef) (s : State) : (asStrand e s).requests = s.requests := rfl
@[simp] theorem asStrand_dies (e : SRef) (s : State) : (asStrand e s).dies = s.dies := rfl
@[simp] theorem asStrand_sema (e : SRef) (s : State) : (asStrand e s).sema = s.sema := rfl
@[simp] theorem asStrand_pagerSema (e : SRef) (s : State) : (asStrand e s).pagerSema = s.pagerSema := rfl
@[simp] theorem asStrand_devtime (e : SRef) (s : State) : (asStrand e s).devtime = s.devtime := rfl
@[simp] theorem asStrand_powercap (e : SRef) (s : State) : (asStrand e s).powercap = s.powercap := rfl
@[simp] theorem asStrand_fwact (e : SRef) (s : State) : (asStrand e s).fwact = s.fwact := rfl
@[simp] theorem asStrand_minver (e : SRef) (s : State) : (asStrand e s).minver = s.minver := rfl
@[simp] theorem asStrand_flash (e : SRef) (s : State) : (asStrand e s).flash = s.flash := rfl
@[simp] theorem asStrand_booted (e : SRef) (s : State) : (asStrand e s).booted = s.booted := rfl
@[simp] theorem asStrand_measured (e : SRef) (s : State) : (asStrand e s).measured = s.measured := rfl
@[simp] theorem asStrand_fused (e : SRef) (s : State) : (asStrand e s).fused = s.fused := rfl
@[simp] theorem asStrand_device (e : SRef) (s : State) : (asStrand e s).device = s.device := rfl
@[simp] theorem asStrand_domain (e : SRef) (s : State) : (asStrand e s).domain = s.domain := rfl
@[simp] theorem asStrand_frozen (e : SRef) (s : State) : (asStrand e s).frozen = s.frozen := rfl
@[simp] theorem asStrand_checkpoint (e : SRef) (s : State) : (asStrand e s).checkpoint = s.checkpoint := rfl
@[simp] theorem asStrand_ticket (e : SRef) (s : State) : (asStrand e s).ticket = s.ticket := rfl
@[simp] theorem asStrand_fresh (e : SRef) (s : State) : (asStrand e s).fresh = s.fresh := rfl
@[simp] theorem asStrand_inputs (e : SRef) (s : State) : (asStrand e s).inputs = s.inputs := rfl
@[simp] theorem asStrand_internal (e : SRef) (s : State) : (asStrand e s).internal = s.internal := rfl
@[simp] theorem asStrand_turn (e : SRef) (s : State) : (asStrand e s).turn = s.turn := rfl
@[simp] theorem asStrand_toggle (e : SRef) (s : State) : (asStrand e s).toggle = s.toggle := rfl
@[simp] theorem asStrand_out (e : SRef) (s : State) : (asStrand e s).out = s.out := rfl
@[simp] theorem asStrand_stalls (e : SRef) (s : State) : (asStrand e s).stalls = s.stalls := rfl
@[simp] theorem asStrand_pool (e : SRef) (s : State) : (asStrand e s).pool = s.pool := rfl
@[simp] theorem asStrand_bootStaged (e : SRef) (s : State) : (asStrand e s).bootStaged = s.bootStaged := rfl
@[simp] theorem asStrand_moved (e : SRef) (s : State) : (asStrand e s).moved = s.moved := rfl
@[simp] theorem asStrand_wakes (e : SRef) (s : State) : (asStrand e s).wakes = s.wakes := rfl
@[simp] theorem asStrand_olds (e : SRef) (s : State) : (asStrand e s).olds = s.olds := rfl

/-! ### wx -/

@[simp] theorem wx_tiles (r : XReg) (v : Word) (s : State) : (wx r v s).tiles = s.tiles := rfl
@[simp] theorem wx_booths (r : XReg) (v : Word) (s : State) : (wx r v s).booths = s.booths := rfl
@[simp] theorem wx_mem (r : XReg) (v : Word) (s : State) : (wx r v s).mem = s.mem := rfl
@[simp] theorem wx_poison (r : XReg) (v : Word) (s : State) : (wx r v s).poison = s.poison := rfl
@[simp] theorem wx_pend (r : XReg) (v : Word) (s : State) : (wx r v s).pend = s.pend := rfl
@[simp] theorem wx_tlbs (r : XReg) (v : Word) (s : State) : (wx r v s).tlbs = s.tlbs := rfl
@[simp] theorem wx_roots (r : XReg) (v : Word) (s : State) : (wx r v s).roots = s.roots := rfl
@[simp] theorem wx_queues (r : XReg) (v : Word) (s : State) : (wx r v s).queues = s.queues := rfl
@[simp] theorem wx_futures (r : XReg) (v : Word) (s : State) : (wx r v s).futures = s.futures := rfl
@[simp] theorem wx_freeFut (r : XReg) (v : Word) (s : State) : (wx r v s).freeFut = s.freeFut := rfl
@[simp] theorem wx_txwin (r : XReg) (v : Word) (s : State) : (wx r v s).txwin = s.txwin := rfl
@[simp] theorem wx_rxwin (r : XReg) (v : Word) (s : State) : (wx r v s).rxwin = s.rxwin := rfl
@[simp] theorem wx_pendWin (r : XReg) (v : Word) (s : State) : (wx r v s).pendWin = s.pendWin := rfl
@[simp] theorem wx_wstores (r : XReg) (v : Word) (s : State) : (wx r v s).wstores = s.wstores := rfl
@[simp] theorem wx_pathS (r : XReg) (v : Word) (s : State) : (wx r v s).pathS = s.pathS := rfl
@[simp] theorem wx_pathR (r : XReg) (v : Word) (s : State) : (wx r v s).pathR = s.pathR := rfl
@[simp] theorem wx_peers (r : XReg) (v : Word) (s : State) : (wx r v s).peers = s.peers := rfl
@[simp] theorem wx_slots (r : XReg) (v : Word) (s : State) : (wx r v s).slots = s.slots := rfl
@[simp] theorem wx_tileMap (r : XReg) (v : Word) (s : State) : (wx r v s).tileMap = s.tileMap := rfl
@[simp] theorem wx_looms (r : XReg) (v : Word) (s : State) : (wx r v s).looms = s.looms := rfl
@[simp] theorem wx_carters (r : XReg) (v : Word) (s : State) : (wx r v s).carters = s.carters := rfl
@[simp] theorem wx_cellars (r : XReg) (v : Word) (s : State) : (wx r v s).cellars = s.cellars := rfl
@[simp] theorem wx_islands (r : XReg) (v : Word) (s : State) : (wx r v s).islands = s.islands := rfl
@[simp] theorem wx_ports (r : XReg) (v : Word) (s : State) : (wx r v s).ports = s.ports := rfl
@[simp] theorem wx_jobs (r : XReg) (v : Word) (s : State) : (wx r v s).jobs = s.jobs := rfl
@[simp] theorem wx_requests (r : XReg) (v : Word) (s : State) : (wx r v s).requests = s.requests := rfl
@[simp] theorem wx_dies (r : XReg) (v : Word) (s : State) : (wx r v s).dies = s.dies := rfl
@[simp] theorem wx_sema (r : XReg) (v : Word) (s : State) : (wx r v s).sema = s.sema := rfl
@[simp] theorem wx_pagerSema (r : XReg) (v : Word) (s : State) : (wx r v s).pagerSema = s.pagerSema := rfl
@[simp] theorem wx_devtime (r : XReg) (v : Word) (s : State) : (wx r v s).devtime = s.devtime := rfl
@[simp] theorem wx_powercap (r : XReg) (v : Word) (s : State) : (wx r v s).powercap = s.powercap := rfl
@[simp] theorem wx_fwact (r : XReg) (v : Word) (s : State) : (wx r v s).fwact = s.fwact := rfl
@[simp] theorem wx_minver (r : XReg) (v : Word) (s : State) : (wx r v s).minver = s.minver := rfl
@[simp] theorem wx_flash (r : XReg) (v : Word) (s : State) : (wx r v s).flash = s.flash := rfl
@[simp] theorem wx_booted (r : XReg) (v : Word) (s : State) : (wx r v s).booted = s.booted := rfl
@[simp] theorem wx_measured (r : XReg) (v : Word) (s : State) : (wx r v s).measured = s.measured := rfl
@[simp] theorem wx_fused (r : XReg) (v : Word) (s : State) : (wx r v s).fused = s.fused := rfl
@[simp] theorem wx_device (r : XReg) (v : Word) (s : State) : (wx r v s).device = s.device := rfl
@[simp] theorem wx_domain (r : XReg) (v : Word) (s : State) : (wx r v s).domain = s.domain := rfl
@[simp] theorem wx_frozen (r : XReg) (v : Word) (s : State) : (wx r v s).frozen = s.frozen := rfl
@[simp] theorem wx_checkpoint (r : XReg) (v : Word) (s : State) : (wx r v s).checkpoint = s.checkpoint := rfl
@[simp] theorem wx_ticket (r : XReg) (v : Word) (s : State) : (wx r v s).ticket = s.ticket := rfl
@[simp] theorem wx_fresh (r : XReg) (v : Word) (s : State) : (wx r v s).fresh = s.fresh := rfl
@[simp] theorem wx_inputs (r : XReg) (v : Word) (s : State) : (wx r v s).inputs = s.inputs := rfl
@[simp] theorem wx_internal (r : XReg) (v : Word) (s : State) : (wx r v s).internal = s.internal := rfl
@[simp] theorem wx_turn (r : XReg) (v : Word) (s : State) : (wx r v s).turn = s.turn := rfl
@[simp] theorem wx_toggle (r : XReg) (v : Word) (s : State) : (wx r v s).toggle = s.toggle := rfl
@[simp] theorem wx_cur (r : XReg) (v : Word) (s : State) : (wx r v s).cur = s.cur := rfl
@[simp] theorem wx_out (r : XReg) (v : Word) (s : State) : (wx r v s).out = s.out := rfl
@[simp] theorem wx_stalls (r : XReg) (v : Word) (s : State) : (wx r v s).stalls = s.stalls := rfl
@[simp] theorem wx_pool (r : XReg) (v : Word) (s : State) : (wx r v s).pool = s.pool := rfl
@[simp] theorem wx_bootStaged (r : XReg) (v : Word) (s : State) : (wx r v s).bootStaged = s.bootStaged := rfl
@[simp] theorem wx_moved (r : XReg) (v : Word) (s : State) : (wx r v s).moved = s.moved := rfl
@[simp] theorem wx_wakes (r : XReg) (v : Word) (s : State) : (wx r v s).wakes = s.wakes := rfl
@[simp] theorem wx_olds (r : XReg) (v : Word) (s : State) : (wx r v s).olds = s.olds := rfl

/-! ### wv -/

@[simp] theorem wv_tiles (r : VReg) (v : VWord) (s : State) : (wv r v s).tiles = s.tiles := rfl
@[simp] theorem wv_booths (r : VReg) (v : VWord) (s : State) : (wv r v s).booths = s.booths := rfl
@[simp] theorem wv_mem (r : VReg) (v : VWord) (s : State) : (wv r v s).mem = s.mem := rfl
@[simp] theorem wv_poison (r : VReg) (v : VWord) (s : State) : (wv r v s).poison = s.poison := rfl
@[simp] theorem wv_pend (r : VReg) (v : VWord) (s : State) : (wv r v s).pend = s.pend := rfl
@[simp] theorem wv_tlbs (r : VReg) (v : VWord) (s : State) : (wv r v s).tlbs = s.tlbs := rfl
@[simp] theorem wv_roots (r : VReg) (v : VWord) (s : State) : (wv r v s).roots = s.roots := rfl
@[simp] theorem wv_queues (r : VReg) (v : VWord) (s : State) : (wv r v s).queues = s.queues := rfl
@[simp] theorem wv_futures (r : VReg) (v : VWord) (s : State) : (wv r v s).futures = s.futures := rfl
@[simp] theorem wv_freeFut (r : VReg) (v : VWord) (s : State) : (wv r v s).freeFut = s.freeFut := rfl
@[simp] theorem wv_txwin (r : VReg) (v : VWord) (s : State) : (wv r v s).txwin = s.txwin := rfl
@[simp] theorem wv_rxwin (r : VReg) (v : VWord) (s : State) : (wv r v s).rxwin = s.rxwin := rfl
@[simp] theorem wv_pendWin (r : VReg) (v : VWord) (s : State) : (wv r v s).pendWin = s.pendWin := rfl
@[simp] theorem wv_wstores (r : VReg) (v : VWord) (s : State) : (wv r v s).wstores = s.wstores := rfl
@[simp] theorem wv_pathS (r : VReg) (v : VWord) (s : State) : (wv r v s).pathS = s.pathS := rfl
@[simp] theorem wv_pathR (r : VReg) (v : VWord) (s : State) : (wv r v s).pathR = s.pathR := rfl
@[simp] theorem wv_peers (r : VReg) (v : VWord) (s : State) : (wv r v s).peers = s.peers := rfl
@[simp] theorem wv_slots (r : VReg) (v : VWord) (s : State) : (wv r v s).slots = s.slots := rfl
@[simp] theorem wv_tileMap (r : VReg) (v : VWord) (s : State) : (wv r v s).tileMap = s.tileMap := rfl
@[simp] theorem wv_looms (r : VReg) (v : VWord) (s : State) : (wv r v s).looms = s.looms := rfl
@[simp] theorem wv_carters (r : VReg) (v : VWord) (s : State) : (wv r v s).carters = s.carters := rfl
@[simp] theorem wv_cellars (r : VReg) (v : VWord) (s : State) : (wv r v s).cellars = s.cellars := rfl
@[simp] theorem wv_islands (r : VReg) (v : VWord) (s : State) : (wv r v s).islands = s.islands := rfl
@[simp] theorem wv_ports (r : VReg) (v : VWord) (s : State) : (wv r v s).ports = s.ports := rfl
@[simp] theorem wv_jobs (r : VReg) (v : VWord) (s : State) : (wv r v s).jobs = s.jobs := rfl
@[simp] theorem wv_requests (r : VReg) (v : VWord) (s : State) : (wv r v s).requests = s.requests := rfl
@[simp] theorem wv_dies (r : VReg) (v : VWord) (s : State) : (wv r v s).dies = s.dies := rfl
@[simp] theorem wv_sema (r : VReg) (v : VWord) (s : State) : (wv r v s).sema = s.sema := rfl
@[simp] theorem wv_pagerSema (r : VReg) (v : VWord) (s : State) : (wv r v s).pagerSema = s.pagerSema := rfl
@[simp] theorem wv_devtime (r : VReg) (v : VWord) (s : State) : (wv r v s).devtime = s.devtime := rfl
@[simp] theorem wv_powercap (r : VReg) (v : VWord) (s : State) : (wv r v s).powercap = s.powercap := rfl
@[simp] theorem wv_fwact (r : VReg) (v : VWord) (s : State) : (wv r v s).fwact = s.fwact := rfl
@[simp] theorem wv_minver (r : VReg) (v : VWord) (s : State) : (wv r v s).minver = s.minver := rfl
@[simp] theorem wv_flash (r : VReg) (v : VWord) (s : State) : (wv r v s).flash = s.flash := rfl
@[simp] theorem wv_booted (r : VReg) (v : VWord) (s : State) : (wv r v s).booted = s.booted := rfl
@[simp] theorem wv_measured (r : VReg) (v : VWord) (s : State) : (wv r v s).measured = s.measured := rfl
@[simp] theorem wv_fused (r : VReg) (v : VWord) (s : State) : (wv r v s).fused = s.fused := rfl
@[simp] theorem wv_device (r : VReg) (v : VWord) (s : State) : (wv r v s).device = s.device := rfl
@[simp] theorem wv_domain (r : VReg) (v : VWord) (s : State) : (wv r v s).domain = s.domain := rfl
@[simp] theorem wv_frozen (r : VReg) (v : VWord) (s : State) : (wv r v s).frozen = s.frozen := rfl
@[simp] theorem wv_checkpoint (r : VReg) (v : VWord) (s : State) : (wv r v s).checkpoint = s.checkpoint := rfl
@[simp] theorem wv_ticket (r : VReg) (v : VWord) (s : State) : (wv r v s).ticket = s.ticket := rfl
@[simp] theorem wv_fresh (r : VReg) (v : VWord) (s : State) : (wv r v s).fresh = s.fresh := rfl
@[simp] theorem wv_inputs (r : VReg) (v : VWord) (s : State) : (wv r v s).inputs = s.inputs := rfl
@[simp] theorem wv_internal (r : VReg) (v : VWord) (s : State) : (wv r v s).internal = s.internal := rfl
@[simp] theorem wv_turn (r : VReg) (v : VWord) (s : State) : (wv r v s).turn = s.turn := rfl
@[simp] theorem wv_toggle (r : VReg) (v : VWord) (s : State) : (wv r v s).toggle = s.toggle := rfl
@[simp] theorem wv_cur (r : VReg) (v : VWord) (s : State) : (wv r v s).cur = s.cur := rfl
@[simp] theorem wv_out (r : VReg) (v : VWord) (s : State) : (wv r v s).out = s.out := rfl
@[simp] theorem wv_stalls (r : VReg) (v : VWord) (s : State) : (wv r v s).stalls = s.stalls := rfl
@[simp] theorem wv_pool (r : VReg) (v : VWord) (s : State) : (wv r v s).pool = s.pool := rfl
@[simp] theorem wv_bootStaged (r : VReg) (v : VWord) (s : State) : (wv r v s).bootStaged = s.bootStaged := rfl
@[simp] theorem wv_moved (r : VReg) (v : VWord) (s : State) : (wv r v s).moved = s.moved := rfl
@[simp] theorem wv_wakes (r : VReg) (v : VWord) (s : State) : (wv r v s).wakes = s.wakes := rfl
@[simp] theorem wv_olds (r : VReg) (v : VWord) (s : State) : (wv r v s).olds = s.olds := rfl

/-! ### wp -/

@[simp] theorem wp_tiles (r : PReg) (v : Bool) (s : State) : (wp r v s).tiles = s.tiles := rfl
@[simp] theorem wp_booths (r : PReg) (v : Bool) (s : State) : (wp r v s).booths = s.booths := rfl
@[simp] theorem wp_mem (r : PReg) (v : Bool) (s : State) : (wp r v s).mem = s.mem := rfl
@[simp] theorem wp_poison (r : PReg) (v : Bool) (s : State) : (wp r v s).poison = s.poison := rfl
@[simp] theorem wp_pend (r : PReg) (v : Bool) (s : State) : (wp r v s).pend = s.pend := rfl
@[simp] theorem wp_tlbs (r : PReg) (v : Bool) (s : State) : (wp r v s).tlbs = s.tlbs := rfl
@[simp] theorem wp_roots (r : PReg) (v : Bool) (s : State) : (wp r v s).roots = s.roots := rfl
@[simp] theorem wp_queues (r : PReg) (v : Bool) (s : State) : (wp r v s).queues = s.queues := rfl
@[simp] theorem wp_futures (r : PReg) (v : Bool) (s : State) : (wp r v s).futures = s.futures := rfl
@[simp] theorem wp_freeFut (r : PReg) (v : Bool) (s : State) : (wp r v s).freeFut = s.freeFut := rfl
@[simp] theorem wp_txwin (r : PReg) (v : Bool) (s : State) : (wp r v s).txwin = s.txwin := rfl
@[simp] theorem wp_rxwin (r : PReg) (v : Bool) (s : State) : (wp r v s).rxwin = s.rxwin := rfl
@[simp] theorem wp_pendWin (r : PReg) (v : Bool) (s : State) : (wp r v s).pendWin = s.pendWin := rfl
@[simp] theorem wp_wstores (r : PReg) (v : Bool) (s : State) : (wp r v s).wstores = s.wstores := rfl
@[simp] theorem wp_pathS (r : PReg) (v : Bool) (s : State) : (wp r v s).pathS = s.pathS := rfl
@[simp] theorem wp_pathR (r : PReg) (v : Bool) (s : State) : (wp r v s).pathR = s.pathR := rfl
@[simp] theorem wp_peers (r : PReg) (v : Bool) (s : State) : (wp r v s).peers = s.peers := rfl
@[simp] theorem wp_slots (r : PReg) (v : Bool) (s : State) : (wp r v s).slots = s.slots := rfl
@[simp] theorem wp_tileMap (r : PReg) (v : Bool) (s : State) : (wp r v s).tileMap = s.tileMap := rfl
@[simp] theorem wp_looms (r : PReg) (v : Bool) (s : State) : (wp r v s).looms = s.looms := rfl
@[simp] theorem wp_carters (r : PReg) (v : Bool) (s : State) : (wp r v s).carters = s.carters := rfl
@[simp] theorem wp_cellars (r : PReg) (v : Bool) (s : State) : (wp r v s).cellars = s.cellars := rfl
@[simp] theorem wp_islands (r : PReg) (v : Bool) (s : State) : (wp r v s).islands = s.islands := rfl
@[simp] theorem wp_ports (r : PReg) (v : Bool) (s : State) : (wp r v s).ports = s.ports := rfl
@[simp] theorem wp_jobs (r : PReg) (v : Bool) (s : State) : (wp r v s).jobs = s.jobs := rfl
@[simp] theorem wp_requests (r : PReg) (v : Bool) (s : State) : (wp r v s).requests = s.requests := rfl
@[simp] theorem wp_dies (r : PReg) (v : Bool) (s : State) : (wp r v s).dies = s.dies := rfl
@[simp] theorem wp_sema (r : PReg) (v : Bool) (s : State) : (wp r v s).sema = s.sema := rfl
@[simp] theorem wp_pagerSema (r : PReg) (v : Bool) (s : State) : (wp r v s).pagerSema = s.pagerSema := rfl
@[simp] theorem wp_devtime (r : PReg) (v : Bool) (s : State) : (wp r v s).devtime = s.devtime := rfl
@[simp] theorem wp_powercap (r : PReg) (v : Bool) (s : State) : (wp r v s).powercap = s.powercap := rfl
@[simp] theorem wp_fwact (r : PReg) (v : Bool) (s : State) : (wp r v s).fwact = s.fwact := rfl
@[simp] theorem wp_minver (r : PReg) (v : Bool) (s : State) : (wp r v s).minver = s.minver := rfl
@[simp] theorem wp_flash (r : PReg) (v : Bool) (s : State) : (wp r v s).flash = s.flash := rfl
@[simp] theorem wp_booted (r : PReg) (v : Bool) (s : State) : (wp r v s).booted = s.booted := rfl
@[simp] theorem wp_measured (r : PReg) (v : Bool) (s : State) : (wp r v s).measured = s.measured := rfl
@[simp] theorem wp_fused (r : PReg) (v : Bool) (s : State) : (wp r v s).fused = s.fused := rfl
@[simp] theorem wp_device (r : PReg) (v : Bool) (s : State) : (wp r v s).device = s.device := rfl
@[simp] theorem wp_domain (r : PReg) (v : Bool) (s : State) : (wp r v s).domain = s.domain := rfl
@[simp] theorem wp_frozen (r : PReg) (v : Bool) (s : State) : (wp r v s).frozen = s.frozen := rfl
@[simp] theorem wp_checkpoint (r : PReg) (v : Bool) (s : State) : (wp r v s).checkpoint = s.checkpoint := rfl
@[simp] theorem wp_ticket (r : PReg) (v : Bool) (s : State) : (wp r v s).ticket = s.ticket := rfl
@[simp] theorem wp_fresh (r : PReg) (v : Bool) (s : State) : (wp r v s).fresh = s.fresh := rfl
@[simp] theorem wp_inputs (r : PReg) (v : Bool) (s : State) : (wp r v s).inputs = s.inputs := rfl
@[simp] theorem wp_internal (r : PReg) (v : Bool) (s : State) : (wp r v s).internal = s.internal := rfl
@[simp] theorem wp_turn (r : PReg) (v : Bool) (s : State) : (wp r v s).turn = s.turn := rfl
@[simp] theorem wp_toggle (r : PReg) (v : Bool) (s : State) : (wp r v s).toggle = s.toggle := rfl
@[simp] theorem wp_cur (r : PReg) (v : Bool) (s : State) : (wp r v s).cur = s.cur := rfl
@[simp] theorem wp_out (r : PReg) (v : Bool) (s : State) : (wp r v s).out = s.out := rfl
@[simp] theorem wp_stalls (r : PReg) (v : Bool) (s : State) : (wp r v s).stalls = s.stalls := rfl
@[simp] theorem wp_pool (r : PReg) (v : Bool) (s : State) : (wp r v s).pool = s.pool := rfl
@[simp] theorem wp_bootStaged (r : PReg) (v : Bool) (s : State) : (wp r v s).bootStaged = s.bootStaged := rfl
@[simp] theorem wp_moved (r : PReg) (v : Bool) (s : State) : (wp r v s).moved = s.moved := rfl
@[simp] theorem wp_wakes (r : PReg) (v : Bool) (s : State) : (wp r v s).wakes = s.wakes := rfl
@[simp] theorem wp_olds (r : PReg) (v : Bool) (s : State) : (wp r v s).olds = s.olds := rfl

/-! ### wk -/

@[simp] theorem wk_tiles (r : KReg) (v : Word) (s : State) : (wk r v s).tiles = s.tiles := rfl
@[simp] theorem wk_booths (r : KReg) (v : Word) (s : State) : (wk r v s).booths = s.booths := rfl
@[simp] theorem wk_mem (r : KReg) (v : Word) (s : State) : (wk r v s).mem = s.mem := rfl
@[simp] theorem wk_poison (r : KReg) (v : Word) (s : State) : (wk r v s).poison = s.poison := rfl
@[simp] theorem wk_pend (r : KReg) (v : Word) (s : State) : (wk r v s).pend = s.pend := rfl
@[simp] theorem wk_tlbs (r : KReg) (v : Word) (s : State) : (wk r v s).tlbs = s.tlbs := rfl
@[simp] theorem wk_roots (r : KReg) (v : Word) (s : State) : (wk r v s).roots = s.roots := rfl
@[simp] theorem wk_queues (r : KReg) (v : Word) (s : State) : (wk r v s).queues = s.queues := rfl
@[simp] theorem wk_futures (r : KReg) (v : Word) (s : State) : (wk r v s).futures = s.futures := rfl
@[simp] theorem wk_freeFut (r : KReg) (v : Word) (s : State) : (wk r v s).freeFut = s.freeFut := rfl
@[simp] theorem wk_txwin (r : KReg) (v : Word) (s : State) : (wk r v s).txwin = s.txwin := rfl
@[simp] theorem wk_rxwin (r : KReg) (v : Word) (s : State) : (wk r v s).rxwin = s.rxwin := rfl
@[simp] theorem wk_pendWin (r : KReg) (v : Word) (s : State) : (wk r v s).pendWin = s.pendWin := rfl
@[simp] theorem wk_wstores (r : KReg) (v : Word) (s : State) : (wk r v s).wstores = s.wstores := rfl
@[simp] theorem wk_pathS (r : KReg) (v : Word) (s : State) : (wk r v s).pathS = s.pathS := rfl
@[simp] theorem wk_pathR (r : KReg) (v : Word) (s : State) : (wk r v s).pathR = s.pathR := rfl
@[simp] theorem wk_peers (r : KReg) (v : Word) (s : State) : (wk r v s).peers = s.peers := rfl
@[simp] theorem wk_slots (r : KReg) (v : Word) (s : State) : (wk r v s).slots = s.slots := rfl
@[simp] theorem wk_tileMap (r : KReg) (v : Word) (s : State) : (wk r v s).tileMap = s.tileMap := rfl
@[simp] theorem wk_looms (r : KReg) (v : Word) (s : State) : (wk r v s).looms = s.looms := rfl
@[simp] theorem wk_carters (r : KReg) (v : Word) (s : State) : (wk r v s).carters = s.carters := rfl
@[simp] theorem wk_cellars (r : KReg) (v : Word) (s : State) : (wk r v s).cellars = s.cellars := rfl
@[simp] theorem wk_islands (r : KReg) (v : Word) (s : State) : (wk r v s).islands = s.islands := rfl
@[simp] theorem wk_ports (r : KReg) (v : Word) (s : State) : (wk r v s).ports = s.ports := rfl
@[simp] theorem wk_jobs (r : KReg) (v : Word) (s : State) : (wk r v s).jobs = s.jobs := rfl
@[simp] theorem wk_requests (r : KReg) (v : Word) (s : State) : (wk r v s).requests = s.requests := rfl
@[simp] theorem wk_dies (r : KReg) (v : Word) (s : State) : (wk r v s).dies = s.dies := rfl
@[simp] theorem wk_sema (r : KReg) (v : Word) (s : State) : (wk r v s).sema = s.sema := rfl
@[simp] theorem wk_pagerSema (r : KReg) (v : Word) (s : State) : (wk r v s).pagerSema = s.pagerSema := rfl
@[simp] theorem wk_devtime (r : KReg) (v : Word) (s : State) : (wk r v s).devtime = s.devtime := rfl
@[simp] theorem wk_powercap (r : KReg) (v : Word) (s : State) : (wk r v s).powercap = s.powercap := rfl
@[simp] theorem wk_fwact (r : KReg) (v : Word) (s : State) : (wk r v s).fwact = s.fwact := rfl
@[simp] theorem wk_minver (r : KReg) (v : Word) (s : State) : (wk r v s).minver = s.minver := rfl
@[simp] theorem wk_flash (r : KReg) (v : Word) (s : State) : (wk r v s).flash = s.flash := rfl
@[simp] theorem wk_booted (r : KReg) (v : Word) (s : State) : (wk r v s).booted = s.booted := rfl
@[simp] theorem wk_measured (r : KReg) (v : Word) (s : State) : (wk r v s).measured = s.measured := rfl
@[simp] theorem wk_fused (r : KReg) (v : Word) (s : State) : (wk r v s).fused = s.fused := rfl
@[simp] theorem wk_device (r : KReg) (v : Word) (s : State) : (wk r v s).device = s.device := rfl
@[simp] theorem wk_domain (r : KReg) (v : Word) (s : State) : (wk r v s).domain = s.domain := rfl
@[simp] theorem wk_frozen (r : KReg) (v : Word) (s : State) : (wk r v s).frozen = s.frozen := rfl
@[simp] theorem wk_checkpoint (r : KReg) (v : Word) (s : State) : (wk r v s).checkpoint = s.checkpoint := rfl
@[simp] theorem wk_ticket (r : KReg) (v : Word) (s : State) : (wk r v s).ticket = s.ticket := rfl
@[simp] theorem wk_fresh (r : KReg) (v : Word) (s : State) : (wk r v s).fresh = s.fresh := rfl
@[simp] theorem wk_inputs (r : KReg) (v : Word) (s : State) : (wk r v s).inputs = s.inputs := rfl
@[simp] theorem wk_internal (r : KReg) (v : Word) (s : State) : (wk r v s).internal = s.internal := rfl
@[simp] theorem wk_turn (r : KReg) (v : Word) (s : State) : (wk r v s).turn = s.turn := rfl
@[simp] theorem wk_toggle (r : KReg) (v : Word) (s : State) : (wk r v s).toggle = s.toggle := rfl
@[simp] theorem wk_cur (r : KReg) (v : Word) (s : State) : (wk r v s).cur = s.cur := rfl
@[simp] theorem wk_out (r : KReg) (v : Word) (s : State) : (wk r v s).out = s.out := rfl
@[simp] theorem wk_stalls (r : KReg) (v : Word) (s : State) : (wk r v s).stalls = s.stalls := rfl
@[simp] theorem wk_pool (r : KReg) (v : Word) (s : State) : (wk r v s).pool = s.pool := rfl
@[simp] theorem wk_bootStaged (r : KReg) (v : Word) (s : State) : (wk r v s).bootStaged = s.bootStaged := rfl
@[simp] theorem wk_moved (r : KReg) (v : Word) (s : State) : (wk r v s).moved = s.moved := rfl
@[simp] theorem wk_wakes (r : KReg) (v : Word) (s : State) : (wk r v s).wakes = s.wakes := rfl
@[simp] theorem wk_olds (r : KReg) (v : Word) (s : State) : (wk r v s).olds = s.olds := rfl

/-! ### readyIn -/

@[simp] theorem readyIn_tiles (n : Nat) (s : State) : (readyIn n s).tiles = s.tiles := rfl
@[simp] theorem readyIn_booths (n : Nat) (s : State) : (readyIn n s).booths = s.booths := rfl
@[simp] theorem readyIn_mem (n : Nat) (s : State) : (readyIn n s).mem = s.mem := rfl
@[simp] theorem readyIn_poison (n : Nat) (s : State) : (readyIn n s).poison = s.poison := rfl
@[simp] theorem readyIn_pend (n : Nat) (s : State) : (readyIn n s).pend = s.pend := rfl
@[simp] theorem readyIn_tlbs (n : Nat) (s : State) : (readyIn n s).tlbs = s.tlbs := rfl
@[simp] theorem readyIn_roots (n : Nat) (s : State) : (readyIn n s).roots = s.roots := rfl
@[simp] theorem readyIn_queues (n : Nat) (s : State) : (readyIn n s).queues = s.queues := rfl
@[simp] theorem readyIn_futures (n : Nat) (s : State) : (readyIn n s).futures = s.futures := rfl
@[simp] theorem readyIn_freeFut (n : Nat) (s : State) : (readyIn n s).freeFut = s.freeFut := rfl
@[simp] theorem readyIn_txwin (n : Nat) (s : State) : (readyIn n s).txwin = s.txwin := rfl
@[simp] theorem readyIn_rxwin (n : Nat) (s : State) : (readyIn n s).rxwin = s.rxwin := rfl
@[simp] theorem readyIn_pendWin (n : Nat) (s : State) : (readyIn n s).pendWin = s.pendWin := rfl
@[simp] theorem readyIn_wstores (n : Nat) (s : State) : (readyIn n s).wstores = s.wstores := rfl
@[simp] theorem readyIn_pathS (n : Nat) (s : State) : (readyIn n s).pathS = s.pathS := rfl
@[simp] theorem readyIn_pathR (n : Nat) (s : State) : (readyIn n s).pathR = s.pathR := rfl
@[simp] theorem readyIn_peers (n : Nat) (s : State) : (readyIn n s).peers = s.peers := rfl
@[simp] theorem readyIn_slots (n : Nat) (s : State) : (readyIn n s).slots = s.slots := rfl
@[simp] theorem readyIn_tileMap (n : Nat) (s : State) : (readyIn n s).tileMap = s.tileMap := rfl
@[simp] theorem readyIn_looms (n : Nat) (s : State) : (readyIn n s).looms = s.looms := rfl
@[simp] theorem readyIn_carters (n : Nat) (s : State) : (readyIn n s).carters = s.carters := rfl
@[simp] theorem readyIn_cellars (n : Nat) (s : State) : (readyIn n s).cellars = s.cellars := rfl
@[simp] theorem readyIn_islands (n : Nat) (s : State) : (readyIn n s).islands = s.islands := rfl
@[simp] theorem readyIn_ports (n : Nat) (s : State) : (readyIn n s).ports = s.ports := rfl
@[simp] theorem readyIn_jobs (n : Nat) (s : State) : (readyIn n s).jobs = s.jobs := rfl
@[simp] theorem readyIn_requests (n : Nat) (s : State) : (readyIn n s).requests = s.requests := rfl
@[simp] theorem readyIn_dies (n : Nat) (s : State) : (readyIn n s).dies = s.dies := rfl
@[simp] theorem readyIn_sema (n : Nat) (s : State) : (readyIn n s).sema = s.sema := rfl
@[simp] theorem readyIn_pagerSema (n : Nat) (s : State) : (readyIn n s).pagerSema = s.pagerSema := rfl
@[simp] theorem readyIn_devtime (n : Nat) (s : State) : (readyIn n s).devtime = s.devtime := rfl
@[simp] theorem readyIn_powercap (n : Nat) (s : State) : (readyIn n s).powercap = s.powercap := rfl
@[simp] theorem readyIn_fwact (n : Nat) (s : State) : (readyIn n s).fwact = s.fwact := rfl
@[simp] theorem readyIn_minver (n : Nat) (s : State) : (readyIn n s).minver = s.minver := rfl
@[simp] theorem readyIn_flash (n : Nat) (s : State) : (readyIn n s).flash = s.flash := rfl
@[simp] theorem readyIn_booted (n : Nat) (s : State) : (readyIn n s).booted = s.booted := rfl
@[simp] theorem readyIn_measured (n : Nat) (s : State) : (readyIn n s).measured = s.measured := rfl
@[simp] theorem readyIn_fused (n : Nat) (s : State) : (readyIn n s).fused = s.fused := rfl
@[simp] theorem readyIn_device (n : Nat) (s : State) : (readyIn n s).device = s.device := rfl
@[simp] theorem readyIn_domain (n : Nat) (s : State) : (readyIn n s).domain = s.domain := rfl
@[simp] theorem readyIn_frozen (n : Nat) (s : State) : (readyIn n s).frozen = s.frozen := rfl
@[simp] theorem readyIn_checkpoint (n : Nat) (s : State) : (readyIn n s).checkpoint = s.checkpoint := rfl
@[simp] theorem readyIn_ticket (n : Nat) (s : State) : (readyIn n s).ticket = s.ticket := rfl
@[simp] theorem readyIn_fresh (n : Nat) (s : State) : (readyIn n s).fresh = s.fresh := rfl
@[simp] theorem readyIn_inputs (n : Nat) (s : State) : (readyIn n s).inputs = s.inputs := rfl
@[simp] theorem readyIn_internal (n : Nat) (s : State) : (readyIn n s).internal = s.internal := rfl
@[simp] theorem readyIn_turn (n : Nat) (s : State) : (readyIn n s).turn = s.turn := rfl
@[simp] theorem readyIn_toggle (n : Nat) (s : State) : (readyIn n s).toggle = s.toggle := rfl
@[simp] theorem readyIn_cur (n : Nat) (s : State) : (readyIn n s).cur = s.cur := rfl
@[simp] theorem readyIn_out (n : Nat) (s : State) : (readyIn n s).out = s.out := rfl
@[simp] theorem readyIn_stalls (n : Nat) (s : State) : (readyIn n s).stalls = s.stalls := rfl
@[simp] theorem readyIn_pool (n : Nat) (s : State) : (readyIn n s).pool = s.pool := rfl
@[simp] theorem readyIn_bootStaged (n : Nat) (s : State) : (readyIn n s).bootStaged = s.bootStaged := rfl
@[simp] theorem readyIn_moved (n : Nat) (s : State) : (readyIn n s).moved = s.moved := rfl
@[simp] theorem readyIn_wakes (n : Nat) (s : State) : (readyIn n s).wakes = s.wakes := rfl
@[simp] theorem readyIn_olds (n : Nat) (s : State) : (readyIn n s).olds = s.olds := rfl

/-! ### inFlight -/

@[simp] theorem inFlight_tiles (f : Flight) (s : State) : (inFlight f s).tiles = s.tiles := rfl
@[simp] theorem inFlight_booths (f : Flight) (s : State) : (inFlight f s).booths = s.booths := rfl
@[simp] theorem inFlight_mem (f : Flight) (s : State) : (inFlight f s).mem = s.mem := rfl
@[simp] theorem inFlight_poison (f : Flight) (s : State) : (inFlight f s).poison = s.poison := rfl
@[simp] theorem inFlight_pend (f : Flight) (s : State) : (inFlight f s).pend = s.pend := rfl
@[simp] theorem inFlight_tlbs (f : Flight) (s : State) : (inFlight f s).tlbs = s.tlbs := rfl
@[simp] theorem inFlight_roots (f : Flight) (s : State) : (inFlight f s).roots = s.roots := rfl
@[simp] theorem inFlight_queues (f : Flight) (s : State) : (inFlight f s).queues = s.queues := rfl
@[simp] theorem inFlight_futures (f : Flight) (s : State) : (inFlight f s).futures = s.futures := rfl
@[simp] theorem inFlight_freeFut (f : Flight) (s : State) : (inFlight f s).freeFut = s.freeFut := rfl
@[simp] theorem inFlight_txwin (f : Flight) (s : State) : (inFlight f s).txwin = s.txwin := rfl
@[simp] theorem inFlight_rxwin (f : Flight) (s : State) : (inFlight f s).rxwin = s.rxwin := rfl
@[simp] theorem inFlight_pendWin (f : Flight) (s : State) : (inFlight f s).pendWin = s.pendWin := rfl
@[simp] theorem inFlight_wstores (f : Flight) (s : State) : (inFlight f s).wstores = s.wstores := rfl
@[simp] theorem inFlight_pathS (f : Flight) (s : State) : (inFlight f s).pathS = s.pathS := rfl
@[simp] theorem inFlight_pathR (f : Flight) (s : State) : (inFlight f s).pathR = s.pathR := rfl
@[simp] theorem inFlight_peers (f : Flight) (s : State) : (inFlight f s).peers = s.peers := rfl
@[simp] theorem inFlight_slots (f : Flight) (s : State) : (inFlight f s).slots = s.slots := rfl
@[simp] theorem inFlight_tileMap (f : Flight) (s : State) : (inFlight f s).tileMap = s.tileMap := rfl
@[simp] theorem inFlight_looms (f : Flight) (s : State) : (inFlight f s).looms = s.looms := rfl
@[simp] theorem inFlight_carters (f : Flight) (s : State) : (inFlight f s).carters = s.carters := rfl
@[simp] theorem inFlight_cellars (f : Flight) (s : State) : (inFlight f s).cellars = s.cellars := rfl
@[simp] theorem inFlight_islands (f : Flight) (s : State) : (inFlight f s).islands = s.islands := rfl
@[simp] theorem inFlight_ports (f : Flight) (s : State) : (inFlight f s).ports = s.ports := rfl
@[simp] theorem inFlight_jobs (f : Flight) (s : State) : (inFlight f s).jobs = s.jobs := rfl
@[simp] theorem inFlight_requests (f : Flight) (s : State) : (inFlight f s).requests = s.requests := rfl
@[simp] theorem inFlight_dies (f : Flight) (s : State) : (inFlight f s).dies = s.dies := rfl
@[simp] theorem inFlight_sema (f : Flight) (s : State) : (inFlight f s).sema = s.sema := rfl
@[simp] theorem inFlight_pagerSema (f : Flight) (s : State) : (inFlight f s).pagerSema = s.pagerSema := rfl
@[simp] theorem inFlight_devtime (f : Flight) (s : State) : (inFlight f s).devtime = s.devtime := rfl
@[simp] theorem inFlight_powercap (f : Flight) (s : State) : (inFlight f s).powercap = s.powercap := rfl
@[simp] theorem inFlight_fwact (f : Flight) (s : State) : (inFlight f s).fwact = s.fwact := rfl
@[simp] theorem inFlight_minver (f : Flight) (s : State) : (inFlight f s).minver = s.minver := rfl
@[simp] theorem inFlight_flash (f : Flight) (s : State) : (inFlight f s).flash = s.flash := rfl
@[simp] theorem inFlight_booted (f : Flight) (s : State) : (inFlight f s).booted = s.booted := rfl
@[simp] theorem inFlight_measured (f : Flight) (s : State) : (inFlight f s).measured = s.measured := rfl
@[simp] theorem inFlight_fused (f : Flight) (s : State) : (inFlight f s).fused = s.fused := rfl
@[simp] theorem inFlight_device (f : Flight) (s : State) : (inFlight f s).device = s.device := rfl
@[simp] theorem inFlight_domain (f : Flight) (s : State) : (inFlight f s).domain = s.domain := rfl
@[simp] theorem inFlight_frozen (f : Flight) (s : State) : (inFlight f s).frozen = s.frozen := rfl
@[simp] theorem inFlight_checkpoint (f : Flight) (s : State) : (inFlight f s).checkpoint = s.checkpoint := rfl
@[simp] theorem inFlight_ticket (f : Flight) (s : State) : (inFlight f s).ticket = s.ticket := rfl
@[simp] theorem inFlight_fresh (f : Flight) (s : State) : (inFlight f s).fresh = s.fresh := rfl
@[simp] theorem inFlight_inputs (f : Flight) (s : State) : (inFlight f s).inputs = s.inputs := rfl
@[simp] theorem inFlight_internal (f : Flight) (s : State) : (inFlight f s).internal = s.internal := rfl
@[simp] theorem inFlight_turn (f : Flight) (s : State) : (inFlight f s).turn = s.turn := rfl
@[simp] theorem inFlight_toggle (f : Flight) (s : State) : (inFlight f s).toggle = s.toggle := rfl
@[simp] theorem inFlight_cur (f : Flight) (s : State) : (inFlight f s).cur = s.cur := rfl
@[simp] theorem inFlight_out (f : Flight) (s : State) : (inFlight f s).out = s.out := rfl
@[simp] theorem inFlight_stalls (f : Flight) (s : State) : (inFlight f s).stalls = s.stalls := rfl
@[simp] theorem inFlight_pool (f : Flight) (s : State) : (inFlight f s).pool = s.pool := rfl
@[simp] theorem inFlight_bootStaged (f : Flight) (s : State) : (inFlight f s).bootStaged = s.bootStaged := rfl
@[simp] theorem inFlight_moved (f : Flight) (s : State) : (inFlight f s).moved = s.moved := rfl
@[simp] theorem inFlight_wakes (f : Flight) (s : State) : (inFlight f s).wakes = s.wakes := rfl
@[simp] theorem inFlight_olds (f : Flight) (s : State) : (inFlight f s).olds = s.olds := rfl

/-! ### setPc -/

@[simp] theorem setPc_tiles (npc : Word) (s : State) : (setPc npc s).tiles = s.tiles := rfl
@[simp] theorem setPc_booths (npc : Word) (s : State) : (setPc npc s).booths = s.booths := rfl
@[simp] theorem setPc_mem (npc : Word) (s : State) : (setPc npc s).mem = s.mem := rfl
@[simp] theorem setPc_poison (npc : Word) (s : State) : (setPc npc s).poison = s.poison := rfl
@[simp] theorem setPc_pend (npc : Word) (s : State) : (setPc npc s).pend = s.pend := rfl
@[simp] theorem setPc_tlbs (npc : Word) (s : State) : (setPc npc s).tlbs = s.tlbs := rfl
@[simp] theorem setPc_roots (npc : Word) (s : State) : (setPc npc s).roots = s.roots := rfl
@[simp] theorem setPc_queues (npc : Word) (s : State) : (setPc npc s).queues = s.queues := rfl
@[simp] theorem setPc_futures (npc : Word) (s : State) : (setPc npc s).futures = s.futures := rfl
@[simp] theorem setPc_freeFut (npc : Word) (s : State) : (setPc npc s).freeFut = s.freeFut := rfl
@[simp] theorem setPc_txwin (npc : Word) (s : State) : (setPc npc s).txwin = s.txwin := rfl
@[simp] theorem setPc_rxwin (npc : Word) (s : State) : (setPc npc s).rxwin = s.rxwin := rfl
@[simp] theorem setPc_pendWin (npc : Word) (s : State) : (setPc npc s).pendWin = s.pendWin := rfl
@[simp] theorem setPc_wstores (npc : Word) (s : State) : (setPc npc s).wstores = s.wstores := rfl
@[simp] theorem setPc_pathS (npc : Word) (s : State) : (setPc npc s).pathS = s.pathS := rfl
@[simp] theorem setPc_pathR (npc : Word) (s : State) : (setPc npc s).pathR = s.pathR := rfl
@[simp] theorem setPc_peers (npc : Word) (s : State) : (setPc npc s).peers = s.peers := rfl
@[simp] theorem setPc_slots (npc : Word) (s : State) : (setPc npc s).slots = s.slots := rfl
@[simp] theorem setPc_tileMap (npc : Word) (s : State) : (setPc npc s).tileMap = s.tileMap := rfl
@[simp] theorem setPc_looms (npc : Word) (s : State) : (setPc npc s).looms = s.looms := rfl
@[simp] theorem setPc_carters (npc : Word) (s : State) : (setPc npc s).carters = s.carters := rfl
@[simp] theorem setPc_cellars (npc : Word) (s : State) : (setPc npc s).cellars = s.cellars := rfl
@[simp] theorem setPc_islands (npc : Word) (s : State) : (setPc npc s).islands = s.islands := rfl
@[simp] theorem setPc_ports (npc : Word) (s : State) : (setPc npc s).ports = s.ports := rfl
@[simp] theorem setPc_jobs (npc : Word) (s : State) : (setPc npc s).jobs = s.jobs := rfl
@[simp] theorem setPc_requests (npc : Word) (s : State) : (setPc npc s).requests = s.requests := rfl
@[simp] theorem setPc_dies (npc : Word) (s : State) : (setPc npc s).dies = s.dies := rfl
@[simp] theorem setPc_sema (npc : Word) (s : State) : (setPc npc s).sema = s.sema := rfl
@[simp] theorem setPc_pagerSema (npc : Word) (s : State) : (setPc npc s).pagerSema = s.pagerSema := rfl
@[simp] theorem setPc_devtime (npc : Word) (s : State) : (setPc npc s).devtime = s.devtime := rfl
@[simp] theorem setPc_powercap (npc : Word) (s : State) : (setPc npc s).powercap = s.powercap := rfl
@[simp] theorem setPc_fwact (npc : Word) (s : State) : (setPc npc s).fwact = s.fwact := rfl
@[simp] theorem setPc_minver (npc : Word) (s : State) : (setPc npc s).minver = s.minver := rfl
@[simp] theorem setPc_flash (npc : Word) (s : State) : (setPc npc s).flash = s.flash := rfl
@[simp] theorem setPc_booted (npc : Word) (s : State) : (setPc npc s).booted = s.booted := rfl
@[simp] theorem setPc_measured (npc : Word) (s : State) : (setPc npc s).measured = s.measured := rfl
@[simp] theorem setPc_fused (npc : Word) (s : State) : (setPc npc s).fused = s.fused := rfl
@[simp] theorem setPc_device (npc : Word) (s : State) : (setPc npc s).device = s.device := rfl
@[simp] theorem setPc_domain (npc : Word) (s : State) : (setPc npc s).domain = s.domain := rfl
@[simp] theorem setPc_frozen (npc : Word) (s : State) : (setPc npc s).frozen = s.frozen := rfl
@[simp] theorem setPc_checkpoint (npc : Word) (s : State) : (setPc npc s).checkpoint = s.checkpoint := rfl
@[simp] theorem setPc_ticket (npc : Word) (s : State) : (setPc npc s).ticket = s.ticket := rfl
@[simp] theorem setPc_fresh (npc : Word) (s : State) : (setPc npc s).fresh = s.fresh := rfl
@[simp] theorem setPc_inputs (npc : Word) (s : State) : (setPc npc s).inputs = s.inputs := rfl
@[simp] theorem setPc_internal (npc : Word) (s : State) : (setPc npc s).internal = s.internal := rfl
@[simp] theorem setPc_turn (npc : Word) (s : State) : (setPc npc s).turn = s.turn := rfl
@[simp] theorem setPc_toggle (npc : Word) (s : State) : (setPc npc s).toggle = s.toggle := rfl
@[simp] theorem setPc_cur (npc : Word) (s : State) : (setPc npc s).cur = s.cur := rfl
@[simp] theorem setPc_out (npc : Word) (s : State) : (setPc npc s).out = s.out := rfl
@[simp] theorem setPc_stalls (npc : Word) (s : State) : (setPc npc s).stalls = s.stalls := rfl
@[simp] theorem setPc_pool (npc : Word) (s : State) : (setPc npc s).pool = s.pool := rfl
@[simp] theorem setPc_bootStaged (npc : Word) (s : State) : (setPc npc s).bootStaged = s.bootStaged := rfl
@[simp] theorem setPc_moved (npc : Word) (s : State) : (setPc npc s).moved = s.moved := rfl
@[simp] theorem setPc_wakes (npc : Word) (s : State) : (setPc npc s).wakes = s.wakes := rfl
@[simp] theorem setPc_olds (npc : Word) (s : State) : (setPc npc s).olds = s.olds := rfl

/-! ### endWait -/

@[simp] theorem endWait_tiles (e : SRef) (s : State) : (endWait e s).tiles = s.tiles := rfl
@[simp] theorem endWait_booths (e : SRef) (s : State) : (endWait e s).booths = s.booths := rfl
@[simp] theorem endWait_mem (e : SRef) (s : State) : (endWait e s).mem = s.mem := rfl
@[simp] theorem endWait_poison (e : SRef) (s : State) : (endWait e s).poison = s.poison := rfl
@[simp] theorem endWait_pend (e : SRef) (s : State) : (endWait e s).pend = s.pend := rfl
@[simp] theorem endWait_tlbs (e : SRef) (s : State) : (endWait e s).tlbs = s.tlbs := rfl
@[simp] theorem endWait_roots (e : SRef) (s : State) : (endWait e s).roots = s.roots := rfl
@[simp] theorem endWait_queues (e : SRef) (s : State) : (endWait e s).queues = s.queues := rfl
@[simp] theorem endWait_futures (e : SRef) (s : State) : (endWait e s).futures = s.futures := rfl
@[simp] theorem endWait_freeFut (e : SRef) (s : State) : (endWait e s).freeFut = s.freeFut := rfl
@[simp] theorem endWait_txwin (e : SRef) (s : State) : (endWait e s).txwin = s.txwin := rfl
@[simp] theorem endWait_rxwin (e : SRef) (s : State) : (endWait e s).rxwin = s.rxwin := rfl
@[simp] theorem endWait_pendWin (e : SRef) (s : State) : (endWait e s).pendWin = s.pendWin := rfl
@[simp] theorem endWait_wstores (e : SRef) (s : State) : (endWait e s).wstores = s.wstores := rfl
@[simp] theorem endWait_pathS (e : SRef) (s : State) : (endWait e s).pathS = s.pathS := rfl
@[simp] theorem endWait_pathR (e : SRef) (s : State) : (endWait e s).pathR = s.pathR := rfl
@[simp] theorem endWait_peers (e : SRef) (s : State) : (endWait e s).peers = s.peers := rfl
@[simp] theorem endWait_slots (e : SRef) (s : State) : (endWait e s).slots = s.slots := rfl
@[simp] theorem endWait_tileMap (e : SRef) (s : State) : (endWait e s).tileMap = s.tileMap := rfl
@[simp] theorem endWait_looms (e : SRef) (s : State) : (endWait e s).looms = s.looms := rfl
@[simp] theorem endWait_carters (e : SRef) (s : State) : (endWait e s).carters = s.carters := rfl
@[simp] theorem endWait_cellars (e : SRef) (s : State) : (endWait e s).cellars = s.cellars := rfl
@[simp] theorem endWait_islands (e : SRef) (s : State) : (endWait e s).islands = s.islands := rfl
@[simp] theorem endWait_ports (e : SRef) (s : State) : (endWait e s).ports = s.ports := rfl
@[simp] theorem endWait_jobs (e : SRef) (s : State) : (endWait e s).jobs = s.jobs := rfl
@[simp] theorem endWait_requests (e : SRef) (s : State) : (endWait e s).requests = s.requests := rfl
@[simp] theorem endWait_dies (e : SRef) (s : State) : (endWait e s).dies = s.dies := rfl
@[simp] theorem endWait_sema (e : SRef) (s : State) : (endWait e s).sema = s.sema := rfl
@[simp] theorem endWait_pagerSema (e : SRef) (s : State) : (endWait e s).pagerSema = s.pagerSema := rfl
@[simp] theorem endWait_devtime (e : SRef) (s : State) : (endWait e s).devtime = s.devtime := rfl
@[simp] theorem endWait_powercap (e : SRef) (s : State) : (endWait e s).powercap = s.powercap := rfl
@[simp] theorem endWait_fwact (e : SRef) (s : State) : (endWait e s).fwact = s.fwact := rfl
@[simp] theorem endWait_minver (e : SRef) (s : State) : (endWait e s).minver = s.minver := rfl
@[simp] theorem endWait_flash (e : SRef) (s : State) : (endWait e s).flash = s.flash := rfl
@[simp] theorem endWait_booted (e : SRef) (s : State) : (endWait e s).booted = s.booted := rfl
@[simp] theorem endWait_measured (e : SRef) (s : State) : (endWait e s).measured = s.measured := rfl
@[simp] theorem endWait_fused (e : SRef) (s : State) : (endWait e s).fused = s.fused := rfl
@[simp] theorem endWait_device (e : SRef) (s : State) : (endWait e s).device = s.device := rfl
@[simp] theorem endWait_domain (e : SRef) (s : State) : (endWait e s).domain = s.domain := rfl
@[simp] theorem endWait_frozen (e : SRef) (s : State) : (endWait e s).frozen = s.frozen := rfl
@[simp] theorem endWait_checkpoint (e : SRef) (s : State) : (endWait e s).checkpoint = s.checkpoint := rfl
@[simp] theorem endWait_ticket (e : SRef) (s : State) : (endWait e s).ticket = s.ticket := rfl
@[simp] theorem endWait_fresh (e : SRef) (s : State) : (endWait e s).fresh = s.fresh := rfl
@[simp] theorem endWait_inputs (e : SRef) (s : State) : (endWait e s).inputs = s.inputs := rfl
@[simp] theorem endWait_internal (e : SRef) (s : State) : (endWait e s).internal = s.internal := rfl
@[simp] theorem endWait_turn (e : SRef) (s : State) : (endWait e s).turn = s.turn := rfl
@[simp] theorem endWait_toggle (e : SRef) (s : State) : (endWait e s).toggle = s.toggle := rfl
@[simp] theorem endWait_cur (e : SRef) (s : State) : (endWait e s).cur = s.cur := rfl
@[simp] theorem endWait_out (e : SRef) (s : State) : (endWait e s).out = s.out := rfl
@[simp] theorem endWait_stalls (e : SRef) (s : State) : (endWait e s).stalls = s.stalls := rfl
@[simp] theorem endWait_pool (e : SRef) (s : State) : (endWait e s).pool = s.pool := rfl
@[simp] theorem endWait_bootStaged (e : SRef) (s : State) : (endWait e s).bootStaged = s.bootStaged := rfl
@[simp] theorem endWait_moved (e : SRef) (s : State) : (endWait e s).moved = s.moved := rfl
@[simp] theorem endWait_wakes (e : SRef) (s : State) : (endWait e s).wakes = s.wakes := rfl
@[simp] theorem endWait_olds (e : SRef) (s : State) : (endWait e s).olds = s.olds := rfl

/-! ### modDie -/

@[simp] theorem modDie_strands (k : Nat) (f : Die → Die) (s : State) : (modDie k f s).strands = s.strands := by unfold modDie; split <;> rfl
@[simp] theorem modDie_tiles (k : Nat) (f : Die → Die) (s : State) : (modDie k f s).tiles = s.tiles := by unfold modDie; split <;> rfl
@[simp] theorem modDie_booths (k : Nat) (f : Die → Die) (s : State) : (modDie k f s).booths = s.booths := by unfold modDie; split <;> rfl
@[simp] theorem modDie_mem (k : Nat) (f : Die → Die) (s : State) : (modDie k f s).mem = s.mem := by unfold modDie; split <;> rfl
@[simp] theorem modDie_poison (k : Nat) (f : Die → Die) (s : State) : (modDie k f s).poison = s.poison := by unfold modDie; split <;> rfl
@[simp] theorem modDie_pend (k : Nat) (f : Die → Die) (s : State) : (modDie k f s).pend = s.pend := by unfold modDie; split <;> rfl
@[simp] theorem modDie_tlbs (k : Nat) (f : Die → Die) (s : State) : (modDie k f s).tlbs = s.tlbs := by unfold modDie; split <;> rfl
@[simp] theorem modDie_roots (k : Nat) (f : Die → Die) (s : State) : (modDie k f s).roots = s.roots := by unfold modDie; split <;> rfl
@[simp] theorem modDie_queues (k : Nat) (f : Die → Die) (s : State) : (modDie k f s).queues = s.queues := by unfold modDie; split <;> rfl
@[simp] theorem modDie_futures (k : Nat) (f : Die → Die) (s : State) : (modDie k f s).futures = s.futures := by unfold modDie; split <;> rfl
@[simp] theorem modDie_freeFut (k : Nat) (f : Die → Die) (s : State) : (modDie k f s).freeFut = s.freeFut := by unfold modDie; split <;> rfl
@[simp] theorem modDie_txwin (k : Nat) (f : Die → Die) (s : State) : (modDie k f s).txwin = s.txwin := by unfold modDie; split <;> rfl
@[simp] theorem modDie_rxwin (k : Nat) (f : Die → Die) (s : State) : (modDie k f s).rxwin = s.rxwin := by unfold modDie; split <;> rfl
@[simp] theorem modDie_pendWin (k : Nat) (f : Die → Die) (s : State) : (modDie k f s).pendWin = s.pendWin := by unfold modDie; split <;> rfl
@[simp] theorem modDie_wstores (k : Nat) (f : Die → Die) (s : State) : (modDie k f s).wstores = s.wstores := by unfold modDie; split <;> rfl
@[simp] theorem modDie_pathS (k : Nat) (f : Die → Die) (s : State) : (modDie k f s).pathS = s.pathS := by unfold modDie; split <;> rfl
@[simp] theorem modDie_pathR (k : Nat) (f : Die → Die) (s : State) : (modDie k f s).pathR = s.pathR := by unfold modDie; split <;> rfl
@[simp] theorem modDie_peers (k : Nat) (f : Die → Die) (s : State) : (modDie k f s).peers = s.peers := by unfold modDie; split <;> rfl
@[simp] theorem modDie_slots (k : Nat) (f : Die → Die) (s : State) : (modDie k f s).slots = s.slots := by unfold modDie; split <;> rfl
@[simp] theorem modDie_tileMap (k : Nat) (f : Die → Die) (s : State) : (modDie k f s).tileMap = s.tileMap := by unfold modDie; split <;> rfl
@[simp] theorem modDie_looms (k : Nat) (f : Die → Die) (s : State) : (modDie k f s).looms = s.looms := by unfold modDie; split <;> rfl
@[simp] theorem modDie_carters (k : Nat) (f : Die → Die) (s : State) : (modDie k f s).carters = s.carters := by unfold modDie; split <;> rfl
@[simp] theorem modDie_cellars (k : Nat) (f : Die → Die) (s : State) : (modDie k f s).cellars = s.cellars := by unfold modDie; split <;> rfl
@[simp] theorem modDie_islands (k : Nat) (f : Die → Die) (s : State) : (modDie k f s).islands = s.islands := by unfold modDie; split <;> rfl
@[simp] theorem modDie_ports (k : Nat) (f : Die → Die) (s : State) : (modDie k f s).ports = s.ports := by unfold modDie; split <;> rfl
@[simp] theorem modDie_jobs (k : Nat) (f : Die → Die) (s : State) : (modDie k f s).jobs = s.jobs := by unfold modDie; split <;> rfl
@[simp] theorem modDie_requests (k : Nat) (f : Die → Die) (s : State) : (modDie k f s).requests = s.requests := by unfold modDie; split <;> rfl
@[simp] theorem modDie_sema (k : Nat) (f : Die → Die) (s : State) : (modDie k f s).sema = s.sema := by unfold modDie; split <;> rfl
@[simp] theorem modDie_pagerSema (k : Nat) (f : Die → Die) (s : State) : (modDie k f s).pagerSema = s.pagerSema := by unfold modDie; split <;> rfl
@[simp] theorem modDie_devtime (k : Nat) (f : Die → Die) (s : State) : (modDie k f s).devtime = s.devtime := by unfold modDie; split <;> rfl
@[simp] theorem modDie_powercap (k : Nat) (f : Die → Die) (s : State) : (modDie k f s).powercap = s.powercap := by unfold modDie; split <;> rfl
@[simp] theorem modDie_fwact (k : Nat) (f : Die → Die) (s : State) : (modDie k f s).fwact = s.fwact := by unfold modDie; split <;> rfl
@[simp] theorem modDie_minver (k : Nat) (f : Die → Die) (s : State) : (modDie k f s).minver = s.minver := by unfold modDie; split <;> rfl
@[simp] theorem modDie_flash (k : Nat) (f : Die → Die) (s : State) : (modDie k f s).flash = s.flash := by unfold modDie; split <;> rfl
@[simp] theorem modDie_booted (k : Nat) (f : Die → Die) (s : State) : (modDie k f s).booted = s.booted := by unfold modDie; split <;> rfl
@[simp] theorem modDie_measured (k : Nat) (f : Die → Die) (s : State) : (modDie k f s).measured = s.measured := by unfold modDie; split <;> rfl
@[simp] theorem modDie_fused (k : Nat) (f : Die → Die) (s : State) : (modDie k f s).fused = s.fused := by unfold modDie; split <;> rfl
@[simp] theorem modDie_device (k : Nat) (f : Die → Die) (s : State) : (modDie k f s).device = s.device := by unfold modDie; split <;> rfl
@[simp] theorem modDie_domain (k : Nat) (f : Die → Die) (s : State) : (modDie k f s).domain = s.domain := by unfold modDie; split <;> rfl
@[simp] theorem modDie_frozen (k : Nat) (f : Die → Die) (s : State) : (modDie k f s).frozen = s.frozen := by unfold modDie; split <;> rfl
@[simp] theorem modDie_checkpoint (k : Nat) (f : Die → Die) (s : State) : (modDie k f s).checkpoint = s.checkpoint := by unfold modDie; split <;> rfl
@[simp] theorem modDie_ticket (k : Nat) (f : Die → Die) (s : State) : (modDie k f s).ticket = s.ticket := by unfold modDie; split <;> rfl
@[simp] theorem modDie_fresh (k : Nat) (f : Die → Die) (s : State) : (modDie k f s).fresh = s.fresh := by unfold modDie; split <;> rfl
@[simp] theorem modDie_inputs (k : Nat) (f : Die → Die) (s : State) : (modDie k f s).inputs = s.inputs := by unfold modDie; split <;> rfl
@[simp] theorem modDie_internal (k : Nat) (f : Die → Die) (s : State) : (modDie k f s).internal = s.internal := by unfold modDie; split <;> rfl
@[simp] theorem modDie_turn (k : Nat) (f : Die → Die) (s : State) : (modDie k f s).turn = s.turn := by unfold modDie; split <;> rfl
@[simp] theorem modDie_toggle (k : Nat) (f : Die → Die) (s : State) : (modDie k f s).toggle = s.toggle := by unfold modDie; split <;> rfl
@[simp] theorem modDie_cur (k : Nat) (f : Die → Die) (s : State) : (modDie k f s).cur = s.cur := by unfold modDie; split <;> rfl
@[simp] theorem modDie_out (k : Nat) (f : Die → Die) (s : State) : (modDie k f s).out = s.out := by unfold modDie; split <;> rfl

/-! ### modPort -/

@[simp] theorem modPort_strands (k : Nat) (f : Port → Port) (s : State) : (modPort k f s).strands = s.strands := by unfold modPort; split <;> rfl
@[simp] theorem modPort_tiles (k : Nat) (f : Port → Port) (s : State) : (modPort k f s).tiles = s.tiles := by unfold modPort; split <;> rfl
@[simp] theorem modPort_booths (k : Nat) (f : Port → Port) (s : State) : (modPort k f s).booths = s.booths := by unfold modPort; split <;> rfl
@[simp] theorem modPort_mem (k : Nat) (f : Port → Port) (s : State) : (modPort k f s).mem = s.mem := by unfold modPort; split <;> rfl
@[simp] theorem modPort_poison (k : Nat) (f : Port → Port) (s : State) : (modPort k f s).poison = s.poison := by unfold modPort; split <;> rfl
@[simp] theorem modPort_pend (k : Nat) (f : Port → Port) (s : State) : (modPort k f s).pend = s.pend := by unfold modPort; split <;> rfl
@[simp] theorem modPort_tlbs (k : Nat) (f : Port → Port) (s : State) : (modPort k f s).tlbs = s.tlbs := by unfold modPort; split <;> rfl
@[simp] theorem modPort_roots (k : Nat) (f : Port → Port) (s : State) : (modPort k f s).roots = s.roots := by unfold modPort; split <;> rfl
@[simp] theorem modPort_queues (k : Nat) (f : Port → Port) (s : State) : (modPort k f s).queues = s.queues := by unfold modPort; split <;> rfl
@[simp] theorem modPort_futures (k : Nat) (f : Port → Port) (s : State) : (modPort k f s).futures = s.futures := by unfold modPort; split <;> rfl
@[simp] theorem modPort_freeFut (k : Nat) (f : Port → Port) (s : State) : (modPort k f s).freeFut = s.freeFut := by unfold modPort; split <;> rfl
@[simp] theorem modPort_txwin (k : Nat) (f : Port → Port) (s : State) : (modPort k f s).txwin = s.txwin := by unfold modPort; split <;> rfl
@[simp] theorem modPort_rxwin (k : Nat) (f : Port → Port) (s : State) : (modPort k f s).rxwin = s.rxwin := by unfold modPort; split <;> rfl
@[simp] theorem modPort_pendWin (k : Nat) (f : Port → Port) (s : State) : (modPort k f s).pendWin = s.pendWin := by unfold modPort; split <;> rfl
@[simp] theorem modPort_wstores (k : Nat) (f : Port → Port) (s : State) : (modPort k f s).wstores = s.wstores := by unfold modPort; split <;> rfl
@[simp] theorem modPort_pathS (k : Nat) (f : Port → Port) (s : State) : (modPort k f s).pathS = s.pathS := by unfold modPort; split <;> rfl
@[simp] theorem modPort_pathR (k : Nat) (f : Port → Port) (s : State) : (modPort k f s).pathR = s.pathR := by unfold modPort; split <;> rfl
@[simp] theorem modPort_peers (k : Nat) (f : Port → Port) (s : State) : (modPort k f s).peers = s.peers := by unfold modPort; split <;> rfl
@[simp] theorem modPort_slots (k : Nat) (f : Port → Port) (s : State) : (modPort k f s).slots = s.slots := by unfold modPort; split <;> rfl
@[simp] theorem modPort_tileMap (k : Nat) (f : Port → Port) (s : State) : (modPort k f s).tileMap = s.tileMap := by unfold modPort; split <;> rfl
@[simp] theorem modPort_looms (k : Nat) (f : Port → Port) (s : State) : (modPort k f s).looms = s.looms := by unfold modPort; split <;> rfl
@[simp] theorem modPort_carters (k : Nat) (f : Port → Port) (s : State) : (modPort k f s).carters = s.carters := by unfold modPort; split <;> rfl
@[simp] theorem modPort_cellars (k : Nat) (f : Port → Port) (s : State) : (modPort k f s).cellars = s.cellars := by unfold modPort; split <;> rfl
@[simp] theorem modPort_islands (k : Nat) (f : Port → Port) (s : State) : (modPort k f s).islands = s.islands := by unfold modPort; split <;> rfl
@[simp] theorem modPort_jobs (k : Nat) (f : Port → Port) (s : State) : (modPort k f s).jobs = s.jobs := by unfold modPort; split <;> rfl
@[simp] theorem modPort_requests (k : Nat) (f : Port → Port) (s : State) : (modPort k f s).requests = s.requests := by unfold modPort; split <;> rfl
@[simp] theorem modPort_dies (k : Nat) (f : Port → Port) (s : State) : (modPort k f s).dies = s.dies := by unfold modPort; split <;> rfl
@[simp] theorem modPort_sema (k : Nat) (f : Port → Port) (s : State) : (modPort k f s).sema = s.sema := by unfold modPort; split <;> rfl
@[simp] theorem modPort_pagerSema (k : Nat) (f : Port → Port) (s : State) : (modPort k f s).pagerSema = s.pagerSema := by unfold modPort; split <;> rfl
@[simp] theorem modPort_devtime (k : Nat) (f : Port → Port) (s : State) : (modPort k f s).devtime = s.devtime := by unfold modPort; split <;> rfl
@[simp] theorem modPort_powercap (k : Nat) (f : Port → Port) (s : State) : (modPort k f s).powercap = s.powercap := by unfold modPort; split <;> rfl
@[simp] theorem modPort_fwact (k : Nat) (f : Port → Port) (s : State) : (modPort k f s).fwact = s.fwact := by unfold modPort; split <;> rfl
@[simp] theorem modPort_minver (k : Nat) (f : Port → Port) (s : State) : (modPort k f s).minver = s.minver := by unfold modPort; split <;> rfl
@[simp] theorem modPort_flash (k : Nat) (f : Port → Port) (s : State) : (modPort k f s).flash = s.flash := by unfold modPort; split <;> rfl
@[simp] theorem modPort_booted (k : Nat) (f : Port → Port) (s : State) : (modPort k f s).booted = s.booted := by unfold modPort; split <;> rfl
@[simp] theorem modPort_measured (k : Nat) (f : Port → Port) (s : State) : (modPort k f s).measured = s.measured := by unfold modPort; split <;> rfl
@[simp] theorem modPort_fused (k : Nat) (f : Port → Port) (s : State) : (modPort k f s).fused = s.fused := by unfold modPort; split <;> rfl
@[simp] theorem modPort_device (k : Nat) (f : Port → Port) (s : State) : (modPort k f s).device = s.device := by unfold modPort; split <;> rfl
@[simp] theorem modPort_domain (k : Nat) (f : Port → Port) (s : State) : (modPort k f s).domain = s.domain := by unfold modPort; split <;> rfl
@[simp] theorem modPort_frozen (k : Nat) (f : Port → Port) (s : State) : (modPort k f s).frozen = s.frozen := by unfold modPort; split <;> rfl
@[simp] theorem modPort_checkpoint (k : Nat) (f : Port → Port) (s : State) : (modPort k f s).checkpoint = s.checkpoint := by unfold modPort; split <;> rfl
@[simp] theorem modPort_ticket (k : Nat) (f : Port → Port) (s : State) : (modPort k f s).ticket = s.ticket := by unfold modPort; split <;> rfl
@[simp] theorem modPort_fresh (k : Nat) (f : Port → Port) (s : State) : (modPort k f s).fresh = s.fresh := by unfold modPort; split <;> rfl
@[simp] theorem modPort_inputs (k : Nat) (f : Port → Port) (s : State) : (modPort k f s).inputs = s.inputs := by unfold modPort; split <;> rfl
@[simp] theorem modPort_internal (k : Nat) (f : Port → Port) (s : State) : (modPort k f s).internal = s.internal := by unfold modPort; split <;> rfl
@[simp] theorem modPort_turn (k : Nat) (f : Port → Port) (s : State) : (modPort k f s).turn = s.turn := by unfold modPort; split <;> rfl
@[simp] theorem modPort_toggle (k : Nat) (f : Port → Port) (s : State) : (modPort k f s).toggle = s.toggle := by unfold modPort; split <;> rfl
@[simp] theorem modPort_cur (k : Nat) (f : Port → Port) (s : State) : (modPort k f s).cur = s.cur := by unfold modPort; split <;> rfl
@[simp] theorem modPort_out (k : Nat) (f : Port → Port) (s : State) : (modPort k f s).out = s.out := by unfold modPort; split <;> rfl

/-! ### Fields that an update sets -/

@[simp] theorem enqueue_internal (i : Instr) (s : State) : (enqueue i s).internal = s.internal ++ [i] := rfl
@[simp] theorem emit_out (m : OutMsg) (s : State) : (emit m s).out = s.out ++ [m] := rfl
@[simp] theorem asStrand_cur (e : SRef) (s : State) : (asStrand e s).cur = e := rfl

/-! ### Tables -/

theorem lookup_tset {α : Type} (t : Tab α) (k n : Nat) (v : α) :
    lookup (tset t k v) n = if n = k then some v else lookup t n := by
  induction t with
  | nil => by_cases h : n = k <;> simp [tset, lookup, h, Ne.symm]
  | cons p r ih =>
    obtain ⟨j, w⟩ := p
    by_cases hj : j = k
    · subst hj; by_cases h : n = j <;> simp [tset, lookup, h, eq_comm]
    · by_cases h : n = k
      · subst h; simp [tset, lookup, hj, ih]
      · simp [tset, lookup, hj, ih, h]

theorem lookup_map {α : Type} (t : Tab α) (f : Nat × α → α) (k : Nat) :
    lookup (t.map fun p => (p.1, f p)) k = (lookup t k).map fun v => f (k, v) := by
  induction t with
  | nil => rfl
  | cons p r ih =>
    obtain ⟨j, w⟩ := p
    simp only [List.map_cons, lookup, ih]
    split
    · subst j; rfl
    · rfl

theorem lookup_terase {α : Type} (t : Tab α) (k n : Nat) :
    lookup (terase t k) n = if n = k then none else lookup t n := by
  induction t with
  | nil => simp [terase, lookup]
  | cons p r ih =>
    obtain ⟨j, w⟩ := p
    simp only [terase] at ih
    by_cases h : j = k
    · subst h; simp only [terase, List.filter, ne_eq, not_true_eq_false, decide_false, ih, lookup]
      split <;> simp_all [eq_comm]
    · simp only [terase, List.filter, ne_eq, h, not_false_eq_true, decide_true, lookup, ih]
      split <;> simp_all

theorem tget_tset {α : Type} (d : α) (t : Tab α) (k n : Nat) (v : α) :
    tget d (tset t k v) n = if n = k then v else tget d t n := by
  unfold tget; rw [lookup_tset]; split <;> rfl

@[simp] theorem tget_tset_same {α : Type} (d : α) (t : Tab α) (k : Nat) (v : α) : tget d (tset t k v) k = v := by
  rw [tget_tset, if_pos rfl]
theorem tget_tset_other {α : Type} (d : α) (t : Tab α) {k n : Nat} (v : α) (h : n ≠ k) :
    tget d (tset t k v) n = tget d t n := by rw [tget_tset, if_neg h]

/-! ### What an accessor answers after an update -/

@[simp] theorem getStrand_setStrand_same (s : State) (k : Nat) (v : Strand) : getStrand (setStrand s k v) k = v := by
  simp [getStrand, setStrand, lookup_tset]
theorem getStrand_setStrand_other (s : State) {k n : Nat} (v : Strand) (h : n ≠ k) :
    getStrand (setStrand s k v) n = getStrand s n := by simp [getStrand, setStrand, lookup_tset, h]
@[simp] theorem getStrand_modStrand_same (k : Nat) (f : Strand → Strand) (s : State) :
    getStrand (modStrand k f s) k = f (getStrand s k) := getStrand_setStrand_same ..
theorem getStrand_modStrand_other {k n : Nat} (f : Strand → Strand) (s : State) (h : n ≠ k) :
    getStrand (modStrand k f s) n = getStrand s n := getStrand_setStrand_other _ _ h
@[simp] theorem me_modMe (f : Strand → Strand) (s : State) : me (modMe f s) = f (me s) := getStrand_modStrand_same ..
theorem getStrand_modMe_other {n : Nat} (f : Strand → Strand) (s : State) (h : n ≠ skey s.cur) :
    getStrand (modMe f s) n = getStrand s n := getStrand_modStrand_other _ _ h
@[simp] theorem getTile_modTile_same (k : Nat) (f : Tile → Tile) (s : State) : getTile (modTile k f s) k = f (getTile s k) :=
  tget_tset_same ..
theorem getTile_modTile_other {k n : Nat} (f : Tile → Tile) (s : State) (h : n ≠ k) : getTile (modTile k f s) n = getTile s n :=
  tget_tset_other _ _ _ h
@[simp] theorem getBooth_modBooth_same (k : Nat) (f : Booth → Booth) (s : State) : getBooth (modBooth k f s) k = f (getBooth s k) :=
  tget_tset_same ..
theorem getBooth_modBooth_other {k n : Nat} (f : Booth → Booth) (s : State) (h : n ≠ k) : getBooth (modBooth k f s) n = getBooth s n :=
  tget_tset_other _ _ _ h
@[simp] theorem getQueue_modQueue_same (k : Nat) (f : Queue → Queue) (s : State) : getQueue (modQueue k f s) k = f (getQueue s k) :=
  tget_tset_same ..
theorem getQueue_modQueue_other {k n : Nat} (f : Queue → Queue) (s : State) (h : n ≠ k) : getQueue (modQueue k f s) n = getQueue s n :=
  tget_tset_other _ _ _ h
@[simp] theorem getLoom_modLoom_same (k : Nat) (f : Loom → Loom) (s : State) : getLoom (modLoom k f s) k = f (getLoom s k) :=
  tget_tset_same ..
theorem getLoom_modLoom_other {k n : Nat} (f : Loom → Loom) (s : State) (h : n ≠ k) : getLoom (modLoom k f s) n = getLoom s n :=
  tget_tset_other _ _ _ h
@[simp] theorem getCarter_modCarter_same (k : Nat) (f : Carter → Carter) (s : State) : getCarter (modCarter k f s) k = f (getCarter s k) :=
  tget_tset_same ..
theorem getCarter_modCarter_other {k n : Nat} (f : Carter → Carter) (s : State) (h : n ≠ k) : getCarter (modCarter k f s) n = getCarter s n :=
  tget_tset_other _ _ _ h
@[simp] theorem getCellar_modCellar_same (k : Nat) (f : Cellar → Cellar) (s : State) : getCellar (modCellar k f s) k = f (getCellar s k) :=
  tget_tset_same ..
theorem getCellar_modCellar_other {k n : Nat} (f : Cellar → Cellar) (s : State) (h : n ≠ k) : getCellar (modCellar k f s) n = getCellar s n :=
  tget_tset_other _ _ _ h
@[simp] theorem getPeer_modPeer_same (k : Nat) (f : Peer → Peer) (s : State) : getPeer (modPeer k f s) k = f (getPeer s k) :=
  tget_tset_same ..
theorem getPeer_modPeer_other {k n : Nat} (f : Peer → Peer) (s : State) (h : n ≠ k) : getPeer (modPeer k f s) n = getPeer s n :=
  tget_tset_other _ _ _ h
@[simp] theorem getFuture_setFuture_same (s : State) (k : Nat) (v : Future) : getFuture (setFuture s k v) k = v := tget_tset_same ..
theorem getFuture_setFuture_other (s : State) {k n : Nat} (v : Future) (h : n ≠ k) : getFuture (setFuture s k v) n = getFuture s n :=
  tget_tset_other _ _ _ h
@[simp] theorem getSlot_setSlot_same (s : State) (k : Nat) (v : Slot) : getSlot (setSlot s k v) k = v := tget_tset_same ..
theorem getSlot_setSlot_other (s : State) {k n : Nat} (v : Slot) (h : n ≠ k) : getSlot (setSlot s k v) n = getSlot s n :=
  tget_tset_other _ _ _ h
@[simp] theorem getIsland_setIsland_same (s : State) (k : Nat) (v : Island) : getIsland (setIsland s k v) k = v := tget_tset_same ..
theorem getIsland_setIsland_other (s : State) {k n : Nat} (v : Island) (h : n ≠ k) : getIsland (setIsland s k v) n = getIsland s n :=
  tget_tset_other _ _ _ h
@[simp] theorem getJob_modJob_same (j : BitVec 16) (f : Job → Job) (s : State) :
    getJob (modJob j f s) j = f (getJob s j) := tget_tset_same ..
theorem getJob_modJob_other {j i : BitVec 16} (f : Job → Job) (s : State) (h : i ≠ j) :
    getJob (modJob j f s) i = getJob s i := tget_tset_other _ _ _ fun e => h (BitVec.eq_of_toNat_eq e)
theorem getDie_modDie_same {d : Nat} (f : Die → Die) (s : State) (h : d < 4) :
    getDie (modDie d f s) d = f (getDie s d) := by
  simp [getDie, modDie, h, List.getD_eq_getElem?_getD]
theorem getDie_modDie_other {d n : Nat} (f : Die → Die) (s : State) (h : n ≠ d) :
    getDie (modDie d f s) n = getDie s n := by
  unfold modDie; split
  · simp [getDie, List.getD_eq_getElem?_getD, Vector.getElem?_set_ne _ (Ne.symm h)]
  · rfl
theorem getPort_modPort_same {p : Nat} (f : Port → Port) (s : State) (h : p < 2) :
    getPort (modPort p f s) p = f (getPort s p) := by
  simp [getPort, modPort, h, List.getD_eq_getElem?_getD]
theorem getPort_modPort_other {p n : Nat} (f : Port → Port) (s : State) (h : n ≠ p) :
    getPort (modPort p f s) n = getPort s n := by
  unfold modPort; split
  · simp [getPort, List.getD_eq_getElem?_getD, Vector.getElem?_set_ne _ (Ne.symm h)]
  · rfl

/-! ### Registers (R59) -/

@[simp] theorem me_wx (r : XReg) (v : Word) (s : State) : me (wx r v s) = xSet r v (me s) := me_modMe ..
@[simp] theorem me_wv (r : VReg) (v : VWord) (s : State) : me (wv r v s) = vSet r v (me s) := me_modMe ..
@[simp] theorem me_wp (r : PReg) (v : Bool) (s : State) : me (wp r v s) = pSet r v (me s) := me_modMe ..
@[simp] theorem me_wk (r : KReg) (v : Word) (s : State) : me (wk r v s) = kSet r v (me s) := me_modMe ..
theorem xGet_xSet (r q : XReg) (v : Word) (t : Strand) :
    xGet (xSet r v t) q = if q = r ∧ r ≠ 0 then v else xGet t q := by
  unfold xGet xSet
  by_cases hr : r = 0
  · simp [hr]
  · by_cases h : q = r
    · subst h; simp [hr, Vector.get]
    · have hn : r.val ≠ q.val := fun e => h (Fin.ext e.symm)
      simp only [hr, if_false, h, false_and]
      split
      · rfl
      · exact Vector.getElem_set_ne _ _ hn
theorem pGet_pSet (r q : PReg) (v : Bool) (t : Strand) :
    pGet (pSet r v t) q = if q = r ∧ r ≠ 7 then v else pGet t q := by
  unfold pGet pSet
  by_cases hr : r = 7
  · simp [hr]
  · by_cases h : q = r
    · subst h; simp [hr, Vector.get]
    · have hn : r.val ≠ q.val := fun e => h (Fin.ext e.symm)
      simp only [hr, if_false, h, false_and]
      split
      · rfl
      · exact Vector.getElem_set_ne _ _ hn
theorem kGet_kSet (r q : KReg) (v : Word) (t : Strand) :
    kGet (kSet r v t) q = if q = r ∧ r ≠ 0 then v else kGet t q := by
  unfold kGet kSet
  by_cases hr : r = 0
  · simp [hr]
  · by_cases h : q = r
    · subst h; simp [hr, Vector.get]
    · have hn : r.val ≠ q.val := fun e => h (Fin.ext e.symm)
      simp only [hr, if_false, h, false_and]
      split
      · rfl
      · exact Vector.getElem_set_ne _ _ hn
theorem vGet_vSet (r q : VReg) (v : VWord) (t : Strand) :
    vGet (vSet r v t) q = if q = r then v else vGet t q := by
  unfold vGet vSet
  by_cases h : q = r
  · subst h; rw [if_pos rfl]; exact Vector.getElem_set_self _
  · have hn : r.val ≠ q.val := fun e => h (Fin.ext e.symm)
    simp only [h, if_false]
    exact Vector.getElem_set_ne _ _ hn

end Sys2Proof.Machine
end

