-- ==== Sys2Proof/Laws/Memory.lean ====
section
/-!
SUPPORT. Memory: its canonical form is what every memory operation keeps, and a byte read after a write is the byte
written.
-/

namespace Sys2Proof.Machine

@[simp] theorem wf_nil : Memory.wf [] = true := rfl

/-- The canonical form of a list by its head: the head is no default, it lies below the rest, and the rest is canonical. -/
theorem wf_cons (a : Nat) (v : Byte) (r : List Host.Cell) :
    Memory.wf ((a, v) :: r) = true ↔ v ≠ memDefault a ∧ (∀ p ∈ r, a < p.1) ∧ Memory.wf r = true := by
  induction r generalizing a v with
  | nil => simp [Memory.wf]
  | cons c r ih =>
    obtain ⟨b, w⟩ := c
    have h := ih b w
    simp only [Memory.wf, Bool.and_eq_true, bne_iff_ne, decide_eq_true_eq, List.mem_cons, forall_eq_or_imp]
    constructor
    · rintro ⟨⟨hv, hab⟩, hw⟩
      exact ⟨hv, ⟨hab, fun p hp => hab.trans ((h.mp hw).2.1 p hp)⟩, hw⟩
    · rintro ⟨hv, ⟨hab, -⟩, hw⟩
      exact ⟨⟨hv, hab⟩, hw⟩

/-- A byte below every listed one reads as the default. -/
theorem cellGet_below (r : List Host.Cell) (a : Nat) (h : ∀ p ∈ r, a < p.1) : cellGet r a = memDefault a := by
  cases r with
  | nil => rfl
  | cons c r =>
    obtain ⟨b, w⟩ := c
    have hb : a < b := h (b, w) (by simp)
    simp [cellGet, hb, (Nat.ne_of_lt hb).symm]

theorem cellCons_above (a b : Nat) (v : Byte) (r : List Host.Cell) (hb : b < a) (h : ∀ p ∈ r, b < p.1) :
    ∀ p ∈ cellCons a v r, b < p.1 := by
  unfold cellCons; split
  · exact h
  · intro p hp; rcases List.mem_cons.mp hp with rfl | hp
    · exact hb
    · exact h p hp

theorem cellSet_above (m : List Host.Cell) (a b : Nat) (v : Byte) (hb : b < a) (h : ∀ p ∈ m, b < p.1) :
    ∀ p ∈ cellSet m a v, b < p.1 := by
  induction m with
  | nil => exact cellCons_above a b v [] hb (by simp)
  | cons c r ih =>
    obtain ⟨j, w⟩ := c
    have hr : ∀ p ∈ r, b < p.1 := fun p hp => h p (List.mem_cons_of_mem _ hp)
    simp only [cellSet]
    split
    · exact cellCons_above a b v r hb hr
    · split
      · exact cellCons_above a b v _ hb h
      · intro p hp
        rcases List.mem_cons.mp hp with rfl | hp
        · exact h _ (by simp)
        · exact ih hr p hp

theorem cellCons_wf (a : Nat) (v : Byte) (r : List Host.Cell) (h : ∀ p ∈ r, a < p.1) (hr : Memory.wf r = true) :
    Memory.wf (cellCons a v r) = true := by
  unfold cellCons; split
  · exact hr
  · exact (wf_cons a v r).mpr ⟨‹_›, h, hr⟩

/-- Writing a byte keeps the canonical form. -/
theorem cellSet_wf (m : List Host.Cell) (a : Nat) (v : Byte) (h : Memory.wf m = true) :
    Memory.wf (cellSet m a v) = true := by
  induction m with
  | nil => exact cellCons_wf a v [] (by simp) rfl
  | cons c r ih =>
    obtain ⟨b, w⟩ := c
    obtain ⟨hw, hb, hr⟩ := (wf_cons b w r).mp h
    simp only [cellSet]
    split
    · subst b; exact cellCons_wf a v r hb hr
    · split
      · next hab =>
        refine cellCons_wf a v _ ?_ h
        intro p hp
        rcases List.mem_cons.mp hp with rfl | hp
        · exact hab
        · exact hab.trans (hb p hp)
      · exact (wf_cons b w _).mpr ⟨hw, cellSet_above r a b v (by omega) hb, ih hr⟩

theorem cellGet_cellCons (a : Nat) (v : Byte) (r : List Host.Cell) (b : Nat) (h : ∀ p ∈ r, a < p.1) :
    cellGet (cellCons a v r) b = if b = a then v else cellGet r b := by
  unfold cellCons
  split
  · next hv =>
    split
    · next hb => subst hb; rw [cellGet_below r b h, hv]
    · rfl
  · by_cases hb : b = a
    · simp [cellGet, hb]
    · rw [cellGet, if_neg (Ne.symm hb), if_neg hb]
      split
      · next hlt => exact (cellGet_below r b fun p hp => hlt.trans (h p hp)).symm
      · rfl

/-- In a canonical memory a byte reads as what was written to it, and every other byte as before. -/
theorem cellGet_cellSet (m : List Host.Cell) (a : Nat) (v : Byte) (b : Nat) (h : Memory.wf m = true) :
    cellGet (cellSet m a v) b = if b = a then v else cellGet m b := by
  induction m with
  | nil => exact cellGet_cellCons a v [] b (by simp)
  | cons c r ih =>
    obtain ⟨j, w⟩ := c
    obtain ⟨-, hj, hr⟩ := (wf_cons j w r).mp h
    simp only [cellSet]
    split
    · subst j
      rw [cellGet_cellCons a v r b hj]
      split
      · rfl
      · next hb =>
        rw [cellGet, if_neg (Ne.symm hb)]
        split
        · next hlt => exact cellGet_below r b fun p hp => hlt.trans (hj p hp)
        · rfl
    · next hja =>
      split
      · next haj =>
        refine cellGet_cellCons a v _ b ?_
        intro p hp
        rcases List.mem_cons.mp hp with rfl | hp
        · exact haj
        · exact haj.trans (hj p hp)
      · rw [cellGet, ih hr]
        by_cases hb : b = a
        · subst hb; rw [if_neg hja, if_neg (by omega), if_pos rfl, if_pos rfl]
        · rw [if_neg hb, if_neg hb, cellGet]

theorem pokeBytes_wf (l : List (Nat × Byte)) (m : List Host.Cell) (h : Memory.wf m = true) :
    Memory.wf (pokeBytes l m) = true := by
  induction l generalizing m with
  | nil => exact h
  | cons p r ih => obtain ⟨k, v⟩ := p; exact ih _ (cellSet_wf m k v h)

theorem cellGet_pokeBytes_other (l : List (Nat × Byte)) (m : List Host.Cell) (b : Nat) (h : Memory.wf m = true)
    (hb : ∀ p ∈ l, p.1 ≠ b) : cellGet (pokeBytes l m) b = cellGet m b := by
  induction l generalizing m with
  | nil => rfl
  | cons p r ih =>
    obtain ⟨k, v⟩ := p
    rw [pokeBytes, ih _ (cellSet_wf m k v h) fun p hp => hb p (List.mem_cons_of_mem _ hp), cellGet_cellSet m k v b h,
      if_neg (Ne.symm (hb (k, v) (by simp)))]

/-- A part of a canonical memory is canonical. -/
theorem filter_wf (f : Host.Cell → Bool) (m : List Host.Cell) (h : Memory.wf m = true) : Memory.wf (m.filter f) = true := by
  induction m with
  | nil => rfl
  | cons c r ih =>
    obtain ⟨a, v⟩ := c
    obtain ⟨hv, ha, hr⟩ := (wf_cons a v r).mp h
    simp only [List.filter]
    split
    · exact (wf_cons a v _).mpr ⟨hv, fun p hp => ha p (List.mem_of_mem_filter hp), ih hr⟩
    · exact ih hr

/-! ### The operations on a state -/

@[simp] theorem touch_mem (ks : List Nat) (s : State) : (touch ks s).mem = s.mem := rfl
@[simp] theorem writeBytes_mem (l : List (Nat × Byte)) (s : State) : (writeBytes l s).mem = pokeBytes l s.mem := rfl
@[simp] theorem writeNat_mem (ks : List Nat) (v : Nat) (s : State) :
    (writeNat ks v s).mem = pokeBytes (ks.zip (natBytes ks.length v)) s.mem := rfl
@[simp] theorem poisonKeys_mem (ks : List Nat) (s : State) : (poisonKeys ks s).mem = s.mem := rfl

theorem writeBytes_wf (l : List (Nat × Byte)) (s : State) (h : Memory.wf s.mem = true) :
    Memory.wf (writeBytes l s).mem = true := pokeBytes_wf l s.mem h
theorem writeNat_wf (ks : List Nat) (v : Nat) (s : State) (h : Memory.wf s.mem = true) :
    Memory.wf (writeNat ks v s).mem = true := pokeBytes_wf _ s.mem h

/-- What a write leaves of the state: only memory, poison, what plain loads may still find, monitors and wakes change. -/
theorem writeBytes_frame (l : List (Nat × Byte)) (s : State) :
    writeBytes l s = { s with
      mem := pokeBytes l s.mem, poison := (writeBytes l s).poison, olds := (writeBytes l s).olds, strands := (writeBytes l s).strands,
      internal := (writeBytes l s).internal } := rfl

/-- A write changes no context of a strand but its monitors. -/
theorem getStrand_touch (ks : List Nat) (s : State) (k : Nat) :
    getStrand (touch ks s) k = touchStrand ks (getStrand s k) := by
  have h : lookup (touch ks s).strands k = (lookup s.strands k).map (touchStrand ks) := by
    simp only [touch]; exact lookup_map s.strands (fun p => touchStrand ks p.2) k
  simp only [getStrand, h]
  cases lookup s.strands k with
  | some t => rfl
  | none =>
    have hb : touchStrand ks (Strand.atReset k) = Strand.atReset k := by
      unfold Strand.atReset
      split <;> rfl
    simpa using hb.symm

theorem getStrand_writeBytes (l : List (Nat × Byte)) (s : State) (k : Nat) :
    getStrand (writeBytes l s) k = touchStrand ((l.map (·.1)).filter isLocalKey) (getStrand s k) :=
  getStrand_touch ..

end Sys2Proof.Machine
end

