-- ==== Sys2Proof/Laws/Ops.lean ====
section
/-!
SUPPORT. For each shared operation of the meanings one lemma that says what it can do: guards and privilege, ports, the
boundary of an instruction, transfers, traps, waits, lanes, logs and completion entries.
-/

namespace Sys2Proof.Machine

/-! ### Guards, privilege, transfers -/

theorem guarded_cases (g : Guard) (s : State) (k : State → Res) :
    (guardVal g s = true ∧ guarded g s k = k s) ∨ (guardVal g s = false ∧ guarded g s k = .next (next s)) := by
  unfold guarded
  cases h : guardVal g s
  · exact .inr ⟨rfl, rfl⟩
  · exact .inl ⟨rfl, rfl⟩
theorem guarded_true {g : Guard} {s : State} (k : State → Res) (h : guardVal g s = true) : guarded g s k = k s := by
  simp [guarded, h]
theorem guarded_false {g : Guard} {s : State} (k : State → Res) (h : guardVal g s = false) :
    guarded g s k = .next (next s) := by simp [guarded, h]
theorem stewardOnly_true {s : State} (k : State → Res) (h : (me s).priv = true) : stewardOnly s k = k s := by
  simp [stewardOnly, h]
theorem stewardOnly_false {s : State} (k : State → Res) (h : (me s).priv = false) :
    stewardOnly s k = .next (raise .priv (me s).pc s) := by simp [stewardOnly, h]
theorem targetOk_iff (t : Word) : targetOk t = true ↔ t.toNat % 4 = 0 ∧ t.toNat ≤ 0x3FFF4 := by
  simp [targetOk, Bool.and_eq_true]
theorem jump_cases (t : Word) (k : State → State) (s : State) :
    (targetOk t = true ∧ jump t k s = .next (finish t (k s))) ∨
    (targetOk t = false ∧ jump t k s = .next (raise .addr t s)) := by
  unfold jump
  cases h : targetOk t
  · exact .inr ⟨rfl, rfl⟩
  · exact .inl ⟨rfl, rfl⟩

/-! ### Ports -/

/-- With every port named ready, the instruction runs with the values popped. -/
theorem gate_ready {i : Instr} {ins outs : List (Fin 2)} {s s' : State} {v : PortVals} (k : PortVals → State → Res)
    (h : Safety.Ports s ins outs v s') : gate i ins outs .data s k = k v s' := by
  obtain ⟨h1, h2, h3, h4⟩ := h
  simp only [gate, h1, h2, h3, h4, Bool.not_true, Bool.false_eq_true, if_false]

/-- A form that names no port finds them ready. -/
theorem gate_no_ports (i : Instr) (kind : QKind) (s : State) (k : PortVals → State → Res) :
    gate i [] [] kind s k = k (0, 0) s := by
  simp [gate, portFail, inputStop, popPorts, outsReady]

theorem alu2_regs {g : Guard} {s : State} (i : Instr) (d a b : XReg) (f : Word → Word → Word) (h : guardVal g s = true) :
    alu2 i g (.x d) (.x a) (.src (.x b)) f s = .next (next (wx d (f (rx s a) (rx s b)) s)) := by
  rw [alu2, guarded_true _ h]; exact gate_no_ports ..
theorem alu2_imm {g : Guard} {s : State} (i : Instr) (d a : XReg) (b : BitVec 40) (f : Word → Word → Word)
    (h : guardVal g s = true) :
    alu2 i g (.x d) (.x a) (.imm b) f s = .next (next (wx d (f (rx s a) (b.signExtend 64)) s)) := by
  rw [alu2, guarded_true _ h]; exact gate_no_ports ..
theorem alu1_reg {g : Guard} {s : State} (i : Instr) (d a : XReg) (f : Word → Word) (h : guardVal g s = true) :
    alu1 i g (.x d) (.x a) f s = .next (next (wx d (f (rx s a)) s)) := by
  rw [alu1, guarded_true _ h]; exact gate_no_ports ..
theorem cmp2_regs {g : Guard} {s : State} (i : Instr) (pd : PReg) (a b : XReg) (f : Word → Word → Bool)
    (h : guardVal g s = true) :
    cmp2 i g pd (.x a) (.src (.x b)) f s = .next (next (wp pd (f (rx s a) (rx s b)) s)) := by
  rw [cmp2, guarded_true _ h]; exact gate_no_ports ..

/-! ### The boundary of an instruction -/

theorem tset_tset {α : Type} (t : Tab α) (k : Nat) (v w : α) : tset (tset t k v) k w = tset t k w := by
  induction t with
  | nil => simp [tset]
  | cons p r ih =>
    obtain ⟨j, u⟩ := p
    by_cases h : j = k <;> simp [tset, h, ih]
/-- Two changes of one strand are one. -/
theorem modStrand_modStrand (k : Nat) (f g : Strand → Strand) (s : State) :
    modStrand k f (modStrand k g s) = modStrand k (fun t => f (g t)) s := by
  simp [modStrand, setStrand, tset_tset, getStrand, lookup_tset]
theorem modMe_modMe (f g : Strand → Strand) (s : State) : modMe f (modMe g s) = modMe (fun t => f (g t)) s :=
  modStrand_modStrand ..

/-- What a boundary can do: stop the strand that HALT reached, or change that strand alone. -/
theorem boundary_cases (e : SRef) (s : State) :
    ((getStrand s (skey e)).halting = true ∧ boundary e s = stopStrand e s) ∨
    ((getStrand s (skey e)).halting = false ∧ boundary e s = modStrand (skey e) (takePending (routeOf s e)) s) := by
  unfold boundary
  cases h : (getStrand s (skey e)).halting
  · exact .inr ⟨rfl, rfl⟩
  · exact .inl ⟨rfl, rfl⟩

/-- The end of an instruction changes the executing strand alone, unless HALT reached it. -/
theorem finish_running (npc : Word) (s : State) (h : (me s).halting = false) :
    finish npc s = modMe (fun t =>
      takePending (routeOf s s.cur) { t with pc := npc, wait := none, flight := none }) s := by
  have hm : (getStrand (setPc npc s) (skey s.cur)).halting = false := by
    have e := congrArg Strand.halting (me_modMe (fun t : Strand => { t with pc := npc, wait := none, flight := none }) s)
    exact e.trans h
  rcases boundary_cases s.cur (setPc npc s) with ⟨h', -⟩ | ⟨-, h'⟩
  · rw [hm] at h'; cases h'
  · rw [finish, h']; exact modStrand_modStrand ..

theorem takePending_handler (r : Word) (t : Strand) (h : t.handler = true) : takePending r t = latchDue t := by
  simp [takePending, latchDue, h]
theorem latchDue_idle (t : Strand) (h1 : t.timerDue = false) (h2 : t.wakeDue = false) : latchDue t = t := by
  cases t; simp only at h1 h2; subst h1 h2; simp [latchDue]
/-- The registers of a strand survive every boundary. -/
theorem takePending_regs (r : Word) (t : Strand) :
    (takePending r t).x = t.x ∧ (takePending r t).v = t.v ∧ (takePending r t).p = t.p ∧ (takePending r t).k = t.k ∧
    (takePending r t).seg = t.seg ∧ (takePending r t).ports = t.ports := by
  unfold takePending
  dsimp only
  split
  · exact ⟨rfl, rfl, rfl, rfl, rfl, rfl⟩
  · split <;> exact ⟨rfl, rfl, rfl, rfl, rfl, rfl⟩

/-! ### Traps -/

/-- What a synchronous cause can do to the executing strand. -/
theorem raiseAt_cases (c : Cause) (pc addr : Word) (lat : Nat) (s : State) :
    (let u := modMe (fun t => { t with wait := none, flight := none, run := .run }) s
     let w := modMe (fun t =>
       { enterTrap (routeOf u s.cur) c pc addr (latchDue t) with readyAt := (getTile u s.cur.site).cycle + lat }) u
     raiseAt c pc addr lat s = handlerFault c u ∨ raiseAt c pc addr lat s = stopStrand s.cur u ∨
     raiseAt c pc addr lat s = w ∨
     raiseAt c pc addr lat s =
       enqueue (recoveryOf w s.cur.site) w) := by
  unfold raiseAt
  dsimp only
  split
  · exact .inl rfl
  · split
    · exact .inr (.inl rfl)
    · split
      · exact .inr (.inr (.inr rfl))
      · exact .inr (.inr (.inl rfl))

/-! ### Waits -/

@[simp] theorem me_waitFor (r : Run) (obj : WaitObj) (i : Instr) (n : Nat) (s : State) :
    me (waitFor r obj i n s) = { me s with
      run := r, flight := none,
      wait := some ⟨obj, i, (match (me s).wait with | some w => w.ticket | none => s.ticket), n⟩ } :=
  getStrand_setStrand_same ..
@[simp] theorem waitFor_mem (r : Run) (obj : WaitObj) (i : Instr) (n : Nat) (s : State) :
    (waitFor r obj i n s).mem = s.mem := rfl
@[simp] theorem waitFor_queues (r : Run) (obj : WaitObj) (i : Instr) (n : Nat) (s : State) :
    (waitFor r obj i n s).queues = s.queues := rfl
@[simp] theorem me_inFlight (f : Flight) (s : State) : me (inFlight f s) = { me s with flight := some f } := me_modMe ..
@[simp] theorem me_readyIn (n : Nat) (s : State) : me (readyIn n s) = { me s with readyAt := (myTile s).cycle + n } :=
  me_modMe ..

/-! ### Logs and completion entries -/

/-- The bytes of a log's records change memory, poison and what plain loads may still find. -/
theorem logWrite_frame (die : Nat) (rs : List (BitVec 512)) (s : State) :
    logWrite die rs s = { s with
      mem := (logWrite die rs s).mem, poison := (logWrite die rs s).poison, olds := (logWrite die rs s).olds } := by
  unfold logWrite; split <;> rfl
theorem logWrite_none {die : Nat} {s : State} (rs : List (BitVec 512)) (h : (getDie s die).logAt = none) :
    logWrite die rs s = s := by simp [logWrite, h]
theorem logWrite_wf (die : Nat) (rs : List (BitVec 512)) (s : State) (h : Memory.wf s.mem = true) :
    Memory.wf (logWrite die rs s).mem = true := by
  unfold logWrite; split
  · exact pokeBytes_wf _ _ h
  · exact h
theorem logBytes_area (base m : Nat) (rs : List (BitVec 512)) : ∀ p ∈ logBytes base m rs, base ≤ p.1 ∧ p.1 < base + 2 ^ 26 := by
  intro p hp
  simp only [logBytes, List.mem_flatMap] at hp
  obtain ⟨r, -, hp⟩ := hp
  have hk := (List.of_mem_zip hp).1
  simp only [keysFrom, List.mem_map, List.mem_range] at hk
  obtain ⟨i, hi, hp⟩ := hk
  have : (m + r.2) % 2 ^ 20 < 2 ^ 20 := Nat.mod_lt _ (by decide)
  omega

/-- A log changes the dies, and memory, poison and what plain loads may still find in the die's log area. -/
theorem logTo_frame (die : Nat) (rs : List (BitVec 512)) (s : State) :
    logTo die rs s = { s with
      dies := (logTo die rs s).dies, mem := (logTo die rs s).mem, poison := (logTo die rs s).poison,
      olds := (logTo die rs s).olds } := by
  unfold logTo
  rw [logWrite_frame]
  unfold modDie; split <;> rfl
@[simp] theorem logTo_mem (die : Nat) (rs : List (BitVec 512)) (s : State) :
    (logTo die rs s).mem = (logWrite die rs s).mem := modDie_mem ..
theorem logTo_wf (die : Nat) (rs : List (BitVec 512)) (s : State) (h : Memory.wf s.mem = true) :
    Memory.wf (logTo die rs s).mem = true := by rw [logTo_mem]; exact logWrite_wf die rs s h
/-- In a canonical memory a record leaves every byte outside the die's log area. -/
theorem cellGet_logTo (die : Nat) (rs : List (BitVec 512)) (s : State) (b : Nat) (h : Memory.wf s.mem = true)
    (hb : Safety.logKey s die b = false) : cellGet (logTo die rs s).mem b = cellGet s.mem b := by
  rw [logTo_mem]
  unfold logWrite
  unfold Safety.logKey at hb
  split
  · next base hl =>
    rw [hl] at hb
    refine cellGet_pokeBytes_other _ _ _ h fun p hp he => ?_
    have := logBytes_area _ _ _ p hp
    simp only [Bool.and_eq_false_iff, decide_eq_false_iff_not] at hb
    omega
  · rfl
@[simp] theorem logTo_strands (die : Nat) (rs : List (BitVec 512)) (s : State) : (logTo die rs s).strands = s.strands := by
  rw [logTo_frame]
@[simp] theorem logTo_queues (die : Nat) (rs : List (BitVec 512)) (s : State) : (logTo die rs s).queues = s.queues := by
  rw [logTo_frame]

theorem emit_frame (m : OutMsg) (s : State) : emit m s = { s with out := (emit m s).out } := rfl
theorem modPort_frame (p : Nat) (f : Port → Port) (s : State) : modPort p f s = { s with ports := (modPort p f s).ports } := by
  unfold modPort; split <;> rfl
/-- A vector leaves the device or is pending. -/
theorem sendMsix_frame (p v : Nat) (s : State) :
    sendMsix p v s = { s with ports := (sendMsix p v s).ports, out := (sendMsix p v s).out } := by
  unfold sendMsix; split
  · rw [modPort_frame]
  · rfl
@[simp] theorem sendMsix_mem (p v : Nat) (s : State) : (sendMsix p v s).mem = s.mem := by rw [sendMsix_frame]
theorem modHcq_frame (p m : Nat) (f : HostCq → HostCq) (s : State) :
    modHcq p m f s = { s with ports := (modHcq p m f s).ports } := by
  unfold modHcq modPort; split <;> rfl
theorem writeNat_frame (ks : List Nat) (v : Nat) (s : State) :
    writeNat ks v s = { s with
      mem := (writeNat ks v s).mem, poison := (writeNat ks v s).poison, olds := (writeNat ks v s).olds,
      strands := (writeNat ks v s).strands, internal := (writeNat ks v s).internal } := rfl

/-- An entry for a host completion queue changes memory, poison, what plain loads may still find, monitors, wakes, the port and
what leaves the device, and nothing else. -/
theorem hcqPut_frame (p m : Nat) (en : BitVec 256) (s : State) :
    hcqPut p m en s = { s with
      mem := (hcqPut p m en s).mem, poison := (hcqPut p m en s).poison, olds := (hcqPut p m en s).olds,
      strands := (hcqPut p m en s).strands, internal := (hcqPut p m en s).internal,
      ports := (hcqPut p m en s).ports, out := (hcqPut p m en s).out } := by
  unfold hcqPut
  dsimp only
  split
  · split
    · rw [sendMsix_frame, modHcq_frame, writeNat_frame]
    · rw [modHcq_frame, writeNat_frame]
  · rw [modHcq_frame]

theorem hcqPut_wf (p m : Nat) (en : BitVec 256) (s : State) (h : Memory.wf s.mem = true) :
    Memory.wf (hcqPut p m en s).mem = true := by
  unfold hcqPut
  dsimp only
  split
  · split
    · rw [sendMsix_mem]; unfold modHcq; rw [modPort_mem]; exact writeNat_wf _ _ s h
    · unfold modHcq; rw [modPort_mem]; exact writeNat_wf _ _ s h
  · unfold modHcq; rw [modPort_mem]; exact h

theorem hostPost_wf (job : BitVec 16) (en : BitVec 256) (s : State) (h : Memory.wf s.mem = true) :
    Memory.wf (hostPost job en s).mem = true := by
  unfold hostPost
  dsimp only
  split
  · exact h
  · exact hcqPut_wf _ _ _ s h

/-! ### Lanes -/

/-- A lane-wise instruction completes with its draws taken and its lanes written under the mask. -/
theorem lanewise_true {g : Guard} {s : State} (w : Nat) (r : Rnd) (mk : KReg) (d : VReg) (op : Nat → Nat → Nat)
    (h : guardVal g s = true) :
    ∃ v, lanewise g w r mk d op s = .next (next (wv d v (takeDraws r (laneCount w) s).2)) := by
  rw [lanewise, guarded_true _ h]; exact ⟨_, rfl⟩

/-- The generator changes only the executing strand's RNG state. -/
theorem takeDraws_frame (r : Rnd) (n : Nat) (s : State) :
    (takeDraws r n s).2 = s ∨ ∃ f : Strand → Strand, (takeDraws r n s).2 = modMe f s ∧
      ∀ t, f t = { t with rnga := (f t).rnga, rngb := (f t).rngb } := by
  unfold takeDraws
  split
  · exact .inr ⟨fun t => { t with rnga := _, rngb := _ }, rfl, fun _ => rfl⟩
  · exact .inl rfl

end Sys2Proof.Machine
end

