-- ==== Sys2Proof/Laws/Access.lean ====
section
/-!
SUPPORT. What the operations that perform memory accesses, start and stop strands and raise causes leave in canonical
form, and what accesses that are performed may change.
-/

namespace Sys2Proof.Machine

/-- A fold of steps that each keep the canonical form keeps it. -/
theorem foldl_wf {α : Type} (f : State → α → State) (l : List α) (s : State)
    (hf : ∀ s a, Memory.wf s.mem = true → Memory.wf (f s a).mem = true) (h : Memory.wf s.mem = true) :
    Memory.wf (l.foldl f s).mem = true := by
  induction l generalizing s with
  | nil => exact h
  | cons a r ih => exact ih _ (hf s a h)

theorem performStore_wf (i : Instr) (data c : Word) (v : VWord) (lanes : List Lane) (s : State)
    (h : Memory.wf s.mem = true) : Memory.wf (performStore i data c v lanes s).1.mem = true := by
  unfold performStore
  dsimp only
  split
  · split
    · exact h
    · exact writeBytes_wf _ _ h
  · have : ∀ (l : List Lane) (a : State × List Word), Memory.wf a.1.mem = true →
        Memory.wf (l.foldl (fun (a : State × List Word) (ln : Lane) =>
          if ln.keys = [] then a
          else if isRmw i then
            match poisonRead a.1 ln.keys with
            | some w => (a.1, a.2 ++ [poisonAddr ln w])
            | none => match rmwNew i ln.keys.length (readNat a.1 ln.keys) data c with
              | some n => (writeNat ln.keys n a.1, a.2)
              | none => a
          else match poisonPart a.1 ln.keys with
            | some w => (a.1, a.2 ++ [poisonAddr ln w])
            | none => (writeBytes (storeLane i data v ln) a.1, a.2)) a).1.mem = true := by
      intro l
      induction l with
      | nil => exact fun _ ha => ha
      | cons ln r ih =>
        intro a ha
        refine ih _ ?_
        dsimp only
        split
        · exact ha
        · split
          · split
            · exact ha
            · split
              · exact writeNat_wf _ _ _ ha
              · exact ha
          · split
            · exact ha
            · exact writeBytes_wf _ _ ha
    exact this lanes (s, []) h

@[simp] theorem noteOlds_mem (cls at_ : Nat) (w : Option SRef) (ks : List Nat) (s t : State) :
    (noteOlds cls at_ w ks s t).mem = t.mem := rfl
theorem reportPoison_wf (e : SRef) (l : List Word) (s : State) (h : Memory.wf s.mem = true) :
    Memory.wf (reportPoison e l s).mem = true := foldl_wf _ _ _ (fun _ _ hs => hs) h

theorem performPend_wf (p : Pend) (s : State) (h : Memory.wf s.mem = true) : Memory.wf (performPend p s).mem = true := by
  have hs := performStore_wf p.instr p.data 0 p.vdata p.lanes s h
  have ht : ∀ t : State, t.mem = (performStore p.instr p.data 0 p.vdata p.lanes s).1.mem → ∀ l,
      Memory.wf (reportPoison p.e l t).mem = true := fun t e l => reportPoison_wf _ _ _ (e ▸ hs)
  unfold performPend
  dsimp only
  split
  · exact ht _ (by split <;> rfl) _
  · exact ht _ (by split <;> rfl) _

theorem drain_wf (f : Pend → Bool) (s : State) (h : Memory.wf s.mem = true) : Memory.wf (drain f s).mem = true :=
  foldl_wf _ _ _ (fun s p hs => performPend_wf p s hs) h
theorem drainAll_wf (e : SRef) (s : State) (h : Memory.wf s.mem = true) : Memory.wf (drainAll e s).mem = true :=
  drain_wf _ s h
theorem drainFor_wf (e : SRef) (ks : List Nat) (so : Bool) (s : State) (h : Memory.wf s.mem = true) :
    Memory.wf (drainFor e ks so s).mem = true := drain_wf _ s h

/-! ### Starting and stopping strands, boundaries, causes -/

@[simp] theorem seedStrand_mem (k : Nat) (s : State) : (seedStrand k s).mem = s.mem := rfl
@[simp] theorem startStrand_mem (e : SRef) (pc x1 : Word) (task : Bool) segs binds (s : State) :
    (startStrand e pc x1 task segs binds s).mem = s.mem := rfl
@[simp] theorem dropRecords_mem (e : SRef) (s : State) : (dropRecords e s).mem = s.mem := by
  unfold dropRecords; dsimp only; split <;> rfl

/-- The allocator's power commands change the agenda alone. -/
@[simp] theorem setYards_mem (ys : List Nat) (s : State) : (setYards ys s).mem = s.mem := by
  unfold setYards
  induction ys.dedup generalizing s with
  | nil => rfl
  | cons y r ih =>
    rw [List.foldl_cons, ih]
    dsimp only
    split
    · split <;> split <;> rfl
    · split <;> rfl

theorem reportDone_wf (bk : Nat) (s : State) (h : Memory.wf s.mem = true) : Memory.wf (reportDone bk s).mem = true := by
  unfold reportDone
  dsimp only
  split
  · exact hostPost_wf _ _ _ (by rw [setYards_mem]; exact h)
  · exact h

theorem stopStrand_wf (e : SRef) (s : State) (h : Memory.wf s.mem = true) : Memory.wf (stopStrand e s).mem = true := by
  have hr : Memory.wf (reportDone (boothOf s e.site)
      (dropRecords e (setStrand s (skey e) (Strand.blank (skey e))))).mem = true :=
    reportDone_wf _ _ (by rw [dropRecords_mem]; exact h)
  unfold stopStrand
  dsimp only
  split
  · exact hr
  · exact hr

theorem boundary_wf (e : SRef) (s : State) (h : Memory.wf s.mem = true) : Memory.wf (boundary e s).mem = true := by
  rcases boundary_cases e s with ⟨-, h'⟩ | ⟨-, h'⟩ <;> rw [h']
  · exact stopStrand_wf e s h
  · exact h
theorem finish_wf (npc : Word) (s : State) (h : Memory.wf s.mem = true) : Memory.wf (finish npc s).mem = true :=
  boundary_wf _ _ h
theorem next_wf (s : State) (h : Memory.wf s.mem = true) : Memory.wf (next s).mem = true := finish_wf _ _ h

theorem handlerFault_wf (c : Cause) (s : State) (h : Memory.wf s.mem = true) :
    Memory.wf (handlerFault c s).mem = true := by
  unfold handlerFault
  dsimp only
  exact stopStrand_wf _ _ (hostPost_wf _ _ _ (logTo_wf _ _ _ h))

theorem raiseAt_wf (c : Cause) (pc addr : Word) (lat : Nat) (s : State) (h : Memory.wf s.mem = true) :
    Memory.wf (raiseAt c pc addr lat s).mem = true := by
  rcases raiseAt_cases c pc addr lat s with h' | h' | h' | h' <;> rw [h']
  · exact handlerFault_wf _ _ h
  · exact stopStrand_wf _ _ h
  · exact h
  · exact h
theorem raise_wf (c : Cause) (addr : Word) (s : State) (h : Memory.wf s.mem = true) :
    Memory.wf (raise c addr s).mem = true := raiseAt_wf _ _ _ _ s h
theorem raiseLate_wf (c : Cause) (addr : Word) (s : State) (h : Memory.wf s.mem = true) :
    Memory.wf (raiseLate c addr s).mem = true := raiseAt_wf _ _ _ _ s h

/-- A guarded instruction whose body keeps the canonical form keeps it. -/
theorem guarded_wf (g : Guard) (s t : State) (k : State → Res) (h : Memory.wf s.mem = true)
    (hk : ∀ t, k s = .next t → Memory.wf t.mem = true) (ht : guarded g s k = .next t) : Memory.wf t.mem = true := by
  rcases guarded_cases g s k with ⟨-, h'⟩ | ⟨-, h'⟩ <;> rw [h'] at ht
  · exact hk t ht
  · cases ht; exact next_wf s h

end Sys2Proof.Machine
end

