-- ==== Sys2Proof/Tests/Slice0.lean ====
section
/-!
SUPPORT. Tests: ill-formed terms, words written out from the manual's encodings, worked examples of the manual, and
for each obligation states and operands that meet its hypotheses.
-/

set_option maxRecDepth 100000
set_option exponentiation.threshold 800

namespace Sys2Proof.Tests

open Sys2Proof.Machine Sys2Proof.Safety

/-- Does each word decode to its instruction, and is it the word that the encoder gives? -/
def decodesTo (l : List (Nat × Instr)) : Bool :=
  l.all fun e => decide (decodeTableWord 96 e.1 = some e.2) && decide ((encode e.2).map BitVec.toNat = some e.1)

/-- The state after an instruction that answers a next state, and no other, holds what `f` asks. -/
def gives (i : Instr) (s : State) (f : State → Bool) : Bool :=
  match exec i s with
  | .next t => f t
  | _ => false

/-- The state after reset, in which strand 0 of site 0 is a steward strand of job 0 with s0 its own store. -/
def R : State := State.reset

/-- The state in which what the executing strand has in flight has completed (R98, R124). -/
def fin (s : State) : State := completeFlight s.cur 0 s

/-- `s` with x registers set. -/
def xs (l : List (XReg × Word)) (s : State) : State := l.foldl (fun s p => wx p.1 p.2 s) s

/-- The value of x3 after a two-source instruction on x1 and x2. -/
def alu (mk : Guard → Dst → Src → Opnd → Instr) (a b r : Word) : Bool :=
  gives (mk .always (.x 3) (.x 1) (.src (.x 2))) (xs [(1, a), (2, b)] R) fun t => rx t 3 == r && rx t 1 == a

def un (mk : Guard → Dst → Src → Instr) (a r : Word) : Bool :=
  gives (mk .always (.x 3) (.x 1)) (xs [(1, a)] R) fun t => rx t 3 == r

/-- A vector of `w`-bit lanes. -/
def vecOf (w : Nat) (l : List Nat) : VWord :=
  BitVec.ofNat 512 (l.foldr (fun x r => x % 2 ^ w + 2 ^ w * r) 0)

/-- The first lanes of v3 after a vector instruction on v1 and v2. -/
def vec (w : Nat) (i : Instr) (a b : List Nat) (r : List Nat) : Bool :=
  gives i (wv 1 (vecOf w a) (wv 2 (vecOf w b) R)) fun t =>
    ((List.range r.length).map fun j => laneGet w (vGet (me t) 3) j) == r

/-! ### Well-formedness: one ill-formed term for each check -/

/-- The guard pair GP = 7, GN = 1 (R65). -/
theorem test_wf_guard : (Instr.nop ⟨true, 7⟩).wf = false ∧ (Instr.nop ⟨true, 6⟩).wf = true := by decide

/-- One input port in two slots (R61). -/
theorem test_wf_port_clash :
    [Instr.add .always (.x 1) (.iq 0) (.src (.iq 0)), .sel .always 1 (.x 1) (.iq 1) (.src (.iq 1)),
     .ins .always 1 (.iq 0) (.src (.iq 0)), .cmp .always .eq 1 (.iq 1) (.src (.iq 1)),
     .fadd .always .f32 .rne false (.x 1) (.iq 0) (.src (.iq 0)), .fmin .always .f32 (.x 1) (.iq 0) (.src (.iq 0)),
     .fcmp .always .f32 .eq 1 (.iq 0) (.src (.iq 0)),
     .ffma .always .f32 .rne false (.x 1) (.iq 0) (.iq 0) (.x 2),
     .ffma .always .f32 .rne false (.x 1) (.iq 0) (.x 2) (.iq 0),
     .ffma .always .f32 .rne false (.x 1) (.x 2) (.iq 0) (.iq 0)].any Instr.wf = false := by decide

/-- The formats, rounding modes and .SAT that an entry does not admit (R110, R112, R129, R134, R145 to R151). -/
theorem test_wf_formats :
    [Instr.fadd .always .e4 .rne false (.x 1) (.x 2) (.src (.x 3)), .fmax .always .i32 (.x 1) (.x 2) (.src (.x 3)),
     .fcmp .always .n4 .eq 1 (.x 2) (.src (.x 3)), .ffma .always .u8 .rne false (.x 1) (.x 2) (.x 3) (.x 4),
     .fcvt .always .n4 .f32 .rne false false (.x 1) (.x 2), .fcvt .always .f32 .n4 .rne false false (.x 1) (.x 2),
     .fcvt .always .i8 .i32 .rze false false (.x 1) (.x 2), .fcvt .always .i8 .i32 .rne true false (.x 1) (.x 2),
     .fcvt .always .f32 .f32 .rze false false (.x 1) (.x 2), .fcvt .always .f32 .i16 .rne false true (.x 1) (.x 2),
     .fcvt .always .i32 .i32 .rne false true (.x 1) (.x 2),
     .vadd .always .e4 .rne false 0 1 2 (.v 3), .vadd .always .i8 .rze false 0 1 2 (.v 3),
     .vfma .always .n4 .rne false 0 1 2 3 4, .vmin .always .e5 0 1 2 (.v 3), .vabs .always .f32 true 0 1 2,
     .vneg .always .n4 false 0 1 2, .vdiv .always .i32 .rne false 0 1 2 (.v 3), .vsqrt .always .i32 .rne false 0 1 2,
     .vdot .always .f32 .rne false 0 1 2 3, .vdot .always .i32 .rne false 0 1 2 3, .vdot .always .i8 .rze false 0 1 2 3,
     .vcmp .always .i32 .un 0 1 2 (.v 3), .vcmp .always .e4 .eq 0 1 2 (.v 3), .vand .always .n4 0 1 2 (.v 3),
     .vshl .always .f32 0 1 2 (.v 3), .vsar .always .u8 0 1 2 (.v 3), .vmov .always (.vv .n4 0 1 2),
     .vbcast .always .n4 0 1 none (.x 2), .vperm .always .n4 0 1 2 3, .vred .always .f32 .min .rze 0 1 2,
     .vred .always .i32 .sum .rze 0 1 2, .vscan .always .f32 .sum .rne true 0 1 2, .vscan .always .i32 .max .rne true 0 1 2,
     .vcvt .always .n4 .f32 .rne false 0 0 1 2, .vcvt .always .i8 .i16 .rpi false 0 0 1 2,
     .vcvt .always .f32 .bf16 .rne false 2 0 1 2, .vcvt .always .bf16 .bf16 .rne false 1 0 1 2,
     .vpack .always .e4 .rne .uni 0 1 2 none 3, .vpack .always .f32 .rne .uni 0 1 2 none 3,
     .vpack .always .bf16 .rne .uni 0 1 2 (some 3) 3, .vunpk .always .bf16 .rne false 0 true 0 1 2 3,
     .vunpk .always .i8 .rne false 0 false 0 1 2 3, .vextr .always .n4 1 2 (.x 3), .vins .always .n4 1 2 (.x 3),
     .vcomp .always .n4 0 1 2, .vprune .always .f32 0 1 2 3, .vprune .always .i16 0 1 2 3].any Instr.wf = false := by decide

/-- The forms that the entries of classes 0 and 5 to E do not admit (R87, R206, R213, R217, R288, R342, R345). -/
theorem test_wf_forms :
    [Instr.syswr .always .status 1, .syswr .always .cycle 1,
     .ld .always .normal .d true .plain 1 ⟨0, 1, 0⟩, .ld .always .normal .w false .rel 1 ⟨0, 1, 0⟩,
     .st .always .normal .w .acq 1 ⟨0, 1, 0⟩, .ldv .always .normal .w .ar 0 1 ⟨0, 1, 0⟩,
     .stv .always .normal .w .ar 0 1 ⟨0, 1, 0⟩, .gath .always .normal .h false .plain 0 1 ⟨0, 1, 0⟩ 2,
     .scat .always .normal .b false .plain 0 1 ⟨0, 1, 0⟩ 2, .gath .always .normal .w false .rel 0 1 ⟨0, 1, 0⟩ 2,
     .stn .always .normal false .acq 1 ⟨0, 1, 0⟩, .aadd .always .normal .h .plain none ⟨0, 1, 0⟩ 2,
     .acas .always .normal .b .plain 1 ⟨0, 1, 0⟩ 2, .afadd .always .normal .e4 .plain none ⟨0, 1, 0⟩ 2,
     .fence .always .plain 0 0, .fence .always .plain 1 5, .fence .always .ar 1 0, .landadd .always .acq none ⟨0, 1, 0⟩ 2,
     .qbind .always 2 1 (.x 3), .qmark .always .data (.x 1) (.x 2), .qmark .always .bell (.x 1) (.x 2),
     .ctxsv .always 7 1 (.x 2), .ctxld .always 7 1 (.x 2)].any Instr.wf = false := by decide

/-- Each of these differs from a term above in the one point that its check refuses, and is well-formed. -/
theorem test_wf_accepts :
    [Instr.add .always (.x 1) (.iq 0) (.src (.iq 1)), .ffma .always .f32 .rst true (.x 1) (.iq 0) (.iq 1) (.x 2),
     .fcvt .always .i8 .i32 .rne false false (.x 1) (.x 2), .fcvt .always .f32 .i32 .rne false true (.x 1) (.x 2),
     .vabs .always .i32 true 0 1 2, .vcmp .always .f16 .un 0 1 2 (.v 3), .vcvt .always .f32 .bf16 .rne false 1 0 1 2,
     .vcvt .always .f32 .e4 .rst false 3 0 1 2, .vpack .always .f32 .rne .uni 0 1 2 (some 3) 3,
     .vunpk .always .f32 .rne false 0 true 0 1 2 3, .syswr .always .trapbase 1, .aadd .always .normal .d .ar none ⟨0, 1, 0⟩ 2,
     .fence .always .rel 63 4, .landadd .always .rel none ⟨0, 1, 0⟩ 2, .qbind .always 2 1 (.x 0), .qbind .always 1 1 (.imm 12),
     .qmark .always .bell (.x 1) (.x 0), .ctxsv .always 6 1 (.x 2), .bootEnd 0].all Instr.wf = true := by decide

/-! ### Words written out from the encoding (03_encoding.md R58 to R69 and the entries) -/

theorem test_decode_class_0 : decodesTo [
    (0x00000000_00000000_00070000, .nop .always),
    (0x00000001_090A8000_00170005, .fork .always 5 9 10 0x800000000001),
    (0x00000000_00000000_002A0000, .stop ⟨true, 2⟩),
    (0xFFFFFFFF_000000FF_00370800, .yield .always (.imm (-1))),
    (0x00000000_00041F00_00470000, .wake .always 4 31),
    (0xDEADBEEF_00000000_00570000, .trap .always 0xDEADBEEF),
    (0x00000000_00000000_00670000, .eret .always),
    (0x00000012_06000000_00770000, .sysrd .always 6 .devtime),
    (0x00000041_00070000_00870000, .syswr .always .rngstb 7),
    (0x0000000C_46000000_00970800, .segld .always 6 (.imm 12)),
    (0x00000000_00000000_00A70000, .halt .always)] = true := by decide

theorem test_decode_class_1 : decodesTo [
    (0xFFFFFFFD_0000FFFF_10070000, .br .always (-3)),
    (0x00000005_00007F00_10170000, .brl .always 0x7F0000000005),
    (0x00000000_001E0000_10270000, .brx .always 30),
    (0x00000000_001F0000_10370000, .brxl .always 31),
    (0x00000000_00000000_10400000, .ret ⟨false, 0⟩),
    (0xFFFFFFF4_0003FFFF_10570000, .loop .always 3 (-12))] = true := by decide

theorem test_decode_class_2 : decodesTo [
    (0x00000000_00491F00_20070000, .add .always (.x 0) (.iq 1) (.src (.x 31))),
    (0xFFFFFFFE_4A0100FF_20170800, .sub .always (.oq 0) (.x 1) (.imm (-2))),
    (0x00000000_4B024800_20230000, .mul ⟨false, 3⟩ (.oq 1) (.x 2) (.src (.iq 0))),
    (0x00000000_03491F00_20370000, .mulh .always (.x 3) (.iq 1) (.src (.x 31))),
    (0xFFFFFFFE_4A0400FF_20470800, .mulhu .always (.oq 0) (.x 4) (.imm (-2))),
    (0x00000000_4B054800_20530000, .div ⟨false, 3⟩ (.oq 1) (.x 5) (.src (.iq 0))),
    (0x00000000_06491F00_20670000, .divu .always (.x 6) (.iq 1) (.src (.x 31))),
    (0xFFFFFFFE_4A0700FF_20770800, .rem .always (.oq 0) (.x 7) (.imm (-2))),
    (0x00000000_4B084800_20830000, .remu ⟨false, 3⟩ (.oq 1) (.x 8) (.src (.iq 0))),
    (0x00000000_09491F00_20970000, .and .always (.x 9) (.iq 1) (.src (.x 31))),
    (0xFFFFFFFE_4A0A00FF_20A70800, .or .always (.oq 0) (.x 10) (.imm (-2))),
    (0x00000000_4B0B4800_20B30000, .xor ⟨false, 3⟩ (.oq 1) (.x 11) (.src (.iq 0))),
    (0x00000000_0C491F00_20C70000, .andn .always (.x 12) (.iq 1) (.src (.x 31))),
    (0xFFFFFFFE_4A0D00FF_20D70800, .shl .always (.oq 0) (.x 13) (.imm (-2))),
    (0x00000000_4B0E4800_20E30000, .shr ⟨false, 3⟩ (.oq 1) (.x 14) (.src (.iq 0))),
    (0x00000000_0F491F00_20F70000, .sar .always (.x 15) (.iq 1) (.src (.x 31))),
    (0xFFFFFFFE_4A1000FF_21070800, .rol .always (.oq 0) (.x 16) (.imm (-2))),
    (0x00000000_4B114800_21130000, .min ⟨false, 3⟩ (.oq 1) (.x 17) (.src (.iq 0))),
    (0x00000000_12491F00_21270000, .max .always (.x 18) (.iq 1) (.src (.x 31))),
    (0xFFFFFFFE_4A1300FF_21370800, .minu .always (.oq 0) (.x 19) (.imm (-2))),
    (0x00000000_4B144800_21430000, .maxu ⟨false, 3⟩ (.oq 1) (.x 20) (.src (.iq 0))),
    (0x00000000_15480000_21570000, .clz .always (.x 21) (.iq 0)),
    (0x00000000_16480000_21670000, .ctz .always (.x 22) (.iq 0)),
    (0x00000000_17480000_21770000, .popc .always (.x 23) (.iq 0)),
    (0x00000000_18480000_21870000, .brev .always (.x 24) (.iq 0)),
    (0x00000000_1D480000_21D70000, .mov .always (.x 29) (.iq 0)),
    (0x00000000_00480000_22070000, .caddr .always (.x 0) (.iq 0)),
    (0x00000000_01480000_22170000, .crel .always (.x 1) (.iq 0)),
    (0x000000C8_01020000_21970800, .ext .always (.x 1) (.x 2) (.imm 200)),
    (0x00000000_01020300_21A70000, .extu .always (.x 1) (.x 2) (.src (.x 3))),
    (0x00000000_0102007F_21B70800, .ins .always 1 (.x 2) (.imm 0x7F00000000)),
    (0xFFFFFFFF_080900FF_21C90803, .sel ⟨true, 1⟩ 3 (.x 8) (.x 9) (.imm (-1))),
    (0xFFFFFFF6_4B00FFFF_21E70000, .movi .always (.oq 1) (-10)),
    (0x80000000_04050007_21F70000, .lea .always (.x 4) ⟨7, 5, 0x80000000⟩)] = true := by decide

theorem test_decode_class_3 : decodesTo [
    (0x00000000_01024800_300700C1, .fadd .always .bf16 .rst true (.x 1) (.x 2) (.src (.iq 0))),
    (0x00000000_01024800_30170022, .fsub .always .f16 .rpi false (.x 1) (.x 2) (.src (.iq 0))),
    (0x00000000_01024800_302700B0, .fmul .always .f32 .rni true (.x 1) (.x 2) (.src (.iq 0))),
    (0x00000000_01024800_30870011, .fdiv .always .bf16 .rze false (.x 1) (.x 2) (.src (.iq 0))),
    (0x00000000_04050607_30370000, .ffma .always .f32 .rne false (.x 4) (.x 5) (.x 6) (.x 7)),
    (0x3F800000_01020000_30470800, .fmin .always .f32 (.x 1) (.x 2) (.imm 0x3F800000)),
    (0x00000000_4A490200_30570002, .fmax .always .f16 (.oq 0) (.iq 1) (.src (.x 2))),
    (0x00000000_36020300_30670401, .fcmp .always .bf16 .un 6 (.x 2) (.src (.x 3))),
    (0x00000004_02030000_30770012, .fcvt .always .f16 .e5 .rze false false (.x 2) (.x 3)),
    (0x00000001_02490000_30770185, .fcvt .always .i32 .bf16 .rne true true (.x 2) (.iq 1))] = true := by decide

theorem test_decode_class_4 : decodesTo [
    (0x00000000_34020080_40070805, .cmp .always .leu 4 (.x 2) (.imm 0x8000000000)),
    (0x00000000_31323300_40170001, .pand .always true false 1 2 3),
    (0x00000000_31323400_40270002, .por .always false true 1 2 4),
    (0x00000000_31323500_40370003, .pxor .always true true 1 2 5),
    (0x00000000_35360000_40470000, .pnot .always 5 6),
    (0x00000000_31320000_40570000, .pmov .always (.pp 1 2)),
    (0x00000000_31490000_40570000, .pmov .always (.px 1 (.iq 1))),
    (0x00000000_4A320000_40570000, .pmov .always (.xp (.oq 0) 2))] = true := by decide

theorem test_decode_class_5 : decodesTo [
    (0x00000040_07050002_50071106, .ld .always .stream .w true .acq 7 ⟨2, 5, 64⟩),
    (0xFFFFFFFF_07050001_50172201, .st .always .keep .h .rel 7 ⟨1, 5, (-1)⟩),
    (0x00000080_291F0000_50270043, .ldv .always .normal .d .plain 4 9 ⟨0, 31, 128⟩),
    (0x00000004_2F000003_50370210, .stv .always .normal .b .rel 1 15 ⟨3, 0, 4⟩),
    (0x00000008_23062504_504700A2, .gath .always .normal .w true .plain 2 3 ⟨4, 6, 8⟩ 5),
    (0x00000008_23062504_50570203, .scat .always .normal .d false .rel 0 3 ⟨4, 6, 8⟩ 5),
    (0x00000003_0C0D0006_50670001, .stn .always .normal true .plain 12 ⟨6, 13, 3⟩)] = true := by decide

theorem test_decode_class_6 : decodesTo [
    (0x00000000_0A140100_60070002, .aadd .always .normal .w .plain (some 10) ⟨0, 20, 0⟩ 1),
    (0x00000004_0B150201_60170103, .aand .always .normal .d .acq (some 11) ⟨1, 21, 4⟩ 2),
    (0x00000008_00160302_60270602, .aor .always .normal .w .rel none ⟨2, 22, 8⟩ 3),
    (0x0000000C_0D170403_60370303, .axor .always .normal .d .ar (some 13) ⟨3, 23, 12⟩ 4),
    (0x00000010_0E180504_60470002, .amin .always .normal .w .plain (some 14) ⟨4, 24, 16⟩ 5),
    (0x00000014_00190605_60570503, .amax .always .normal .d .acq none ⟨5, 25, 20⟩ 6),
    (0x00000018_101A0706_60670202, .aminu .always .normal .w .rel (some 16) ⟨6, 26, 24⟩ 7),
    (0x0000001C_111B0807_60770303, .amaxu .always .normal .d .ar (some 17) ⟨7, 27, 28⟩ 8),
    (0x00000020_001C0900_60870402, .axch .always .normal .w .plain none ⟨0, 28, 32⟩ 9),
    (0x00000000_0A020301_60970303, .acas .always .normal .d .ar 10 ⟨1, 2, 0⟩ 3),
    (0x00000000_00020301_60A70402, .afadd .always .normal .f32 .plain none ⟨1, 2, 0⟩ 3),
    (0x00000000_04020301_60B70111, .afmin .always .normal .bf16 .acq (some 4) ⟨1, 2, 0⟩ 3),
    (0x00000000_04020301_60C72021, .afmax .always .keep .f16 .plain (some 4) ⟨1, 2, 0⟩ 3),
    (0x00000308_00000000_60D70100, .fence .always .acq 8 3)] = true := by decide

theorem test_decode_class_7 : decodesTo [
    (0x00000010_01030402_70070000, .landset .always 1 ⟨2, 3, 16⟩ 4),
    (0x00000010_00030402_70170600, .landadd .always .rel none ⟨2, 3, 16⟩ 4),
    (0x00000010_09030402_70170000, .landadd .always .plain (some 9) ⟨2, 3, 16⟩ 4),
    (0x00000010_00030002_70270003, .marm .always 3 ⟨2, 3, 16⟩),
    (0x00000000_05000600_70370000, .mwait .always 5 (.x 6)),
    (0x0000000F_00000000_70470800, .mclr .always (.imm 15)),
    (0x00000000_11000000_70570000, .rng .always 17),
    (0x00000000_28000000_70670600, .vrng .always 6 8)] = true := by decide

theorem test_decode_class_8 : decodesTo [
    (0x00000000_01030002_80070000, .qdef .always 1 ⟨2, 3, 0⟩),
    (0x00000000_00080000_80170000, .qkill .always 8),
    (0x00001234_00080000_80270801, .qbind .always 1 8 (.imm 0x1234)),
    (0x00000000_00082332_80370201, .qpush .always (some 2) true 8 (.v 3)),
    (0x00000000_210C0000_80470000, .qpop .always none false (.v 1) 12 0),
    (0x00000000_010C0D34_80570101, .qpeek .always (some 4) true (.x 1) 12 13),
    (0x00000000_004A0600_80670002, .qmark .always .shutter (.oq 0) (.x 6)),
    (0x00000007_00040000_80670803, .qmark .always .stop (.x 4) (.imm 7)),
    (0x00000000_03040000_80770005, .qstat .always .headk 3 4)] = true := by decide

theorem test_decode_class_9 : decodesTo [
    (0x00000000_00050607_90070002, .tspawn .always 2 5 6 7),
    (0x00000000_00000000_90170000, .tend .always),
    (0x00000000_33000000_90270001, .tnext .always (some 3)),
    (0x00000000_00000000_90270000, .tnext .always none),
    (0x0000000C_00060005_90370000, .tjoin .always ⟨5, 6, 12⟩),
    (0x00000000_0B000000_90470000, .fnew .always 11),
    (0xFFFFFFFD_000B00FF_90570800, .fset .always 11 (.imm (-3))),
    (0x00000000_01020300_90670001, .fget .always true 1 2 3),
    (0x00000000_000B0000_90770000, .ffree .always 11),
    (0x00000000_000B0C00_90870000, .fpoison .always 11 (.x 12))] = true := by decide

theorem test_decode_class_a : decodesTo [
    (0x00000000_21222300_A0070040, .vadd .always .f32 .rst false 0 1 2 (.v 3)),
    (0x00000064_21220000_A0170987, .vsub .always .i8 .rne true 1 1 2 (.imm 100)),
    (0x00000000_21222300_A02702B2, .vmul .always .f16 .rni true 2 1 2 (.v 3)),
    (0x00000000_21222324_A0370200, .vfma .always .f32 .rne false 2 1 2 3 4),
    (0x00000000_21222324_A0470788, .vfms .always .u8 .rne true 7 1 2 3 4),
    (0x00000000_21222300_A0570305, .vmin .always .i32 3 1 2 (.v 3)),
    (0x00003F80_21220000_A0670801, .vmax .always .bf16 0 1 2 (.imm 0x3F80)),
    (0x00000000_21220000_A0770186, .vabs .always .i16 true 1 1 2),
    (0x00000000_21220000_A0870102, .vneg .always .f16 false 1 1 2),
    (0x00000000_21222300_A0970091, .vdiv .always .bf16 .rze true 0 1 2 (.v 3)),
    (0x00000000_20280000_A0A70000, .vsqrt .always .f32 .rne false 0 0 8),
    (0x00000000_21290000_A0B70191, .vrcp .always .bf16 .rze true 1 1 9),
    (0x00000000_222A0000_A0C70222, .vrsq .always .f16 .rpi false 2 2 10),
    (0x00000000_232B0000_A0D703B0, .vexp2 .always .f32 .rni true 3 3 11),
    (0x00000000_242C0000_A0E70441, .vlog2 .always .bf16 .rst false 4 4 12),
    (0x00000000_22232400_A0F701A3, .vdot .always .e4 .rpi true 1 2 3 4),
    (0x00000000_3D232400_A1070250, .vcmp .always .f32 .or 2 5 3 (.v 4)),
    (0x00000000_21222300_A1170004, .vand .always .e5 0 1 2 (.v 3)),
    (0x00000000_21222300_A1270104, .vor .always .e5 1 1 2 (.v 3)),
    (0x00000000_21222300_A1370204, .vxor .always .e5 2 1 2 (.v 3)),
    (0x00000005_21220000_A1470806, .vshl .always .i16 0 1 2 (.imm 5)),
    (0x00000005_21220000_A1570906, .vshr .always .i16 1 1 2 (.imm 5)),
    (0x00000005_21220000_A1670A06, .vsar .always .i16 2 1 2 (.imm 5))] = true := by decide

theorem test_decode_class_b : decodesTo [
    (0x00000000_21220000_B0070305, .vmov .always (.vv .i32 3 1 2)),
    (0x00000000_39020000_B0070000, .vmov .always (.kx 1 2)),
    (0x00000000_013A0000_B0070000, .vmov .always (.xk 1 2)),
    (0x00000000_393A0000_B0070000, .vmov .always (.kk 1 2)),
    (0x00000000_22000300_B0170108, .vbcast .always .u8 1 2 none (.x 3)),
    (0x00000007_22240000_B0170800, .vbcast .always .f32 0 2 (some 4) (.imm 7)),
    (0x00000000_21222300_B0270207, .vperm .always .i8 2 1 2 3),
    (0x00000000_21222300_B0370502, .vsel .always .f16 5 1 2 3),
    (0x00000000_09230000_B0470140, .vred .always .f32 .sum .rst 1 9 3),
    (0x00000000_24230000_B0570285, .vscan .always .i32 .sum .rne true 2 4 3),
    (0x00000002_24230000_B0570205, .vscan .always .i32 .max .rne false 2 4 3),
    (0x00000010_25260000_B0670041, .vcvt .always .bf16 .f32 .rst false 1 0 5 6),
    (0x00000006_2924000C_B0770001, .vpack .always .bf16 .rne .e2m1 2 9 4 none 12),
    (0x0000000F_2924250C_B0770040, .vpack .always .f32 .rst .hyb 3 9 4 (some 5) 12),
    (0x00000005_2A290C00_B0870390, .vunpk .always .f32 .rze true 1 true 3 10 9 12),
    (0x00000000_03240500_B0970006, .vextr .always .i16 3 4 (.x 5)),
    (0x0000003F_23040000_B0A70808, .vins .always .u8 3 4 (.imm 63)),
    (0x00000000_21220000_B0B70400, .vcomp .always .f32 4 1 2),
    (0x00000001_27280009_B0C70001, .vprune .always .bf16 1 7 8 9)] = true := by decide

theorem test_decode_class_c : decodesTo [
    (0x00000000_00000500_C0070000, .mcfg .always (.x 5)),
    (0x00000003_00000000_C0170815, .mzero .always true true (.imm 3)),
    (0x00000080_020A0002_C0270000, .mmul .always 2 ⟨2, 10, 128⟩),
    (0x000000C0_030B0003_C0370000, .mmuls .always 3 ⟨3, 11, 192⟩),
    (0x00000100_040C0004_C0470000, .mloada .always 4 ⟨4, 12, 256⟩),
    (0x00000140_050D0005_C0570000, .mdrain .always 5 ⟨5, 13, 320⟩),
    (0x00000000_01000200_C0670000, .mchk .always 1 (.x 2)),
    (0x00000008_01030402_C0770000, .mloc .always 1 ⟨2, 3, 8⟩ 4),
    (0x000003FF_01000000_C0870800, .mcorr .always 1 (.imm 0x3FF)),
    (0x00000000_01000200_C0970000, .mretry .always 1 (.x 2)),
    (0x00000000_00060000_C0A70000, .minj .always 6),
    (0x00000009_01000000_C0B70802, .mstat .always 2 1 (.imm 9))] = true := by decide

theorem test_decode_class_d : decodesTo [
    (0x00012000_0C000000_D0070002, .ccopy .always .normal false true false 12 ⟨0, 0, 0x12000⟩),
    (0x00000004_03020001_D0171001, .cfill .always .stream true 3 ⟨1, 2, 4⟩),
    (0x00000004_03020001_D0270005, .cconv .always .normal true false true 3 ⟨1, 2, 4⟩),
    (0x00000004_03020001_D0372004, .cgath .always .keep false true 3 ⟨1, 2, 4⟩),
    (0x00000000_0E000000_D0470001, .cstat .always .normal true 14)] = true := by decide

theorem test_decode_class_e : decodesTo [
    (0x00000000_01020000_E0070000, .nsum .always .normal 1 ⟨0, 2, 0⟩),
    (0x00000020_02030001_E0170000, .nmax .always .normal 2 ⟨1, 3, 32⟩),
    (0x00000080_05060004_E0470000, .ncvt .always .normal 5 ⟨4, 6, 128⟩),
    (0x000000A0_06070005_E0570000, .ndot .always .normal 6 ⟨5, 7, 160⟩),
    (0x00000040_03041D02_E0271000, .naxpy .always .stream 3 ⟨2, 4, 64⟩ 29),
    (0x00000060_04051D03_E0371000, .nscale .always .stream 4 ⟨3, 5, 96⟩ 29),
    (0x00000000_01030402_E0670001, .wmap .always true 1 ⟨2, 3, 0⟩ 4),
    (0x00000000_00000400_E0770000, .wunmap .always false (.x 4)),
    (0x00000000_01000400_E0870004, .wstat .always 2 1 (.x 4)),
    (0x0000004D_01000000_E0970801, .rfence .always 1 (some (.imm 77))),
    (0x00000000_01000000_E0970000, .rfence .always 1 none),
    (0x00000000_01000200_E0A70006, .ctxsv .always 6 1 (.x 2)),
    (0x000001FF_01000000_E0B70800, .ctxld .always 0 1 (.imm 511))] = true := by decide

/-- The decoder refuses: an opcode without instruction, class F, HINT outside a memory class and the reserved policy, MOD
bits and IMM32 that no entry defines, port codes in a slot of the other direction or of class 1, a p code where x
stands, C[7:3] of a memory form, PMOV of two x codes, the I form with B in use, reserved format, condition and size codes
(R59 to R70). -/
theorem test_decode_refuses :
    [0x00000000_00000000_00B70000, 0x00000000_00000000_F0070000, 0x00000000_01020300_20071000, 0x00000000_01020000_50073002,
     0x00000000_01020300_20070001, 0x00000001_01020300_20070000, 0x00000000_48020300_20070000, 0x00000000_014A0300_20070000,
     0x00000000_00480000_10270000, 0x00000000_01300300_20070000, 0x00000000_01020008_50070002, 0x00000000_01020000_40570000,
     0x00000001_01020300_20070800, 0x00000000_01020300_3007000A, 0x00000000_31020300_40070006, 0x00000000_4C020300_20070000,
     0x00000000_01020300_200F0000, 0x00000000_00000000_00071000, 0x00000000_01000200_C0B70003].all
      (fun w => decodeTableWord 96 w = none) = true := by decide

/-- The words that the manual prints (03_encoding.md, R112, R115, R116, 06_vector.md, and the worked booths). -/
theorem test_decode_printed : decodesTo [
    (0x00000040_07050002_50070006, .ld .always .normal .w true .plain 7 ⟨2, 5, 64⟩),
    (0x00000004_05050000_20070800, .add .always (.x 5) (.x 5) (.imm 4)),
    (0x00000001_03030000_20170800, .sub .always (.x 3) (.x 3) (.imm 1)),
    (0x00000000_32000300_40070002, .cmp .always .lt 2 (.x 0) (.src (.x 3))),
    (0xFFFFFFF4_0000FFFF_10020000, .br ⟨false, 2⟩ (-12)),
    (0x000003E8_4A480000_20070800, .add .always (.oq 0) (.iq 0) (.imm 1000)),
    (0x00000000_4A030000_21D70000, .mov .always (.oq 0) (.x 3)),
    (0x00000000_004A0000_80610001, .qmark ⟨false, 1⟩ .bell (.oq 0) (.x 0)),
    (0x00000000_004A0600_80610002, .qmark ⟨false, 1⟩ .shutter (.oq 0) (.x 6)),
    (0x00000005_08070000_30770001, .fcvt .always .bf16 .i32 .rne false false (.x 8) (.x 7)),
    (0x00012000_0C000000_D0070002, .ccopy .always .normal false true false 12 ⟨0, 0, 0x12000⟩),
    (0x00000000_210C0000_80470000, .qpop .always none false (.v 1) 12 0),
    (0x00000308_00000000_60D70100, .fence .always .acq 8 3),
    (0x00012060_0C000000_E0070000, .nsum .always .normal 12 ⟨0, 0, 0x12060⟩),
    (0x00000000_21222324_A0370200, .vfma .always .f32 .rne false 2 1 2 3 4),
    (0x00000010_25260000_B0670041, .vcvt .always .bf16 .f32 .rst false 1 0 5 6),
    (0x00000001_27280009_B0C70001, .vprune .always .bf16 1 7 8 9)] = true := by decide

/-! ### Effects, with the results that the manual states -/

/-- The corner cases of R103. -/
theorem test_div :
    (alu .div 7 (-2) (-3) && alu .rem 7 (-2) 1 && alu .divu 7 (-2) 0 && alu .remu 7 (-2) 7 &&
     alu .div (-7) 2 (-3) && alu .rem (-7) 2 (-1) && alu .divu (-7) 2 0x7FFFFFFFFFFFFFFC && alu .remu (-7) 2 1 &&
     alu .div 5 0 (-1) && alu .rem 5 0 5 && alu .divu 5 0 0xFFFFFFFFFFFFFFFF && alu .remu 5 0 5 &&
     alu .div 0x8000000000000000 (-1) 0x8000000000000000 && alu .rem 0x8000000000000000 (-1) 0 &&
     alu .divu 0x8000000000000000 (-1) 0 && alu .remu 0x8000000000000000 (-1) 0x8000000000000000) = true := by decide

/-- R102: wraps, the high halves, and shift counts taken modulo 64. -/
theorem test_integer :
    (alu .add (-1) 2 1 && alu .sub 0 1 (-1) && alu .mul 0x100000000 0x100000001 0x100000000 &&
     alu .mulh (-1) (-1) 0 && alu .mulhu (-1) (-1) (-2) && alu .and 0xC 0xA 8 && alu .or 0xC 0xA 0xE &&
     alu .xor 0xC 0xA 6 && alu .andn 0xC 0xA 4 && alu .shl 3 65 6 && alu .shr (-1) 63 1 && alu .sar (-8) 66 (-2) &&
     alu .rol 0x8000000000000001 1 3 && alu .min (-1) 0 (-1) && alu .max (-1) 0 0 && alu .minu (-1) 0 0 &&
     alu .maxu (-1) 0 (-1)) = true := by decide

/-- R104, R106 (the manual's field 8 | 3 << 6 of 0xA5C3, and a field cut off at bit 63). -/
theorem test_bits :
    (un .clz 0 64 && un .clz 1 63 && un .ctz 0 64 && un .ctz 0x100 8 && un .popc (-1) 64 && un .brev 1 0x8000000000000000 &&
     un .mov 0xABC 0xABC && alu .extu 0xA5C3 0xC8 5 && alu .ext 0xA5C3 0xC8 5 &&
     alu .ext 0xF000000000000000 0x1FC (-1) && alu .extu 0xF000000000000000 0x1FC 0xF &&
     gives (.ins .always 3 (.x 1) (.src (.x 2))) (xs [(1, 0xABCD), (2, 0xC8), (3, 0xFFFFFFFFFFFFFFFF)] R)
       (fun t => rx t 3 == 0xFFFFFFFFFFFFFDFF)) = true := by decide

/-- R105, R107: MOVI extends its sign, and SEL with p7 takes A. -/
theorem test_movi_sel :
    (gives (.movi .always (.x 3) 0x800000000000) R (fun t => rx t 3 == 0xFFFF800000000000 && (me t).pc == 0x3C00C) &&
     gives (.sel .always 7 (.x 3) (.x 1) (.src (.x 2))) R (fun t => rx t 3 == 1) &&
     gives (.sel .always 3 (.x 3) (.x 1) (.src (.x 2))) R (fun t => rx t 3 == 1024)) = true := by decide

/-- R109: the manual's example, a tile at xl = 5, yl = 2 (site 69). -/
theorem test_caddr_crel :
    (let s : State := { R with cur := ⟨69, 0⟩ }
     gives (.caddr .always (.x 3) (.x 1)) (xs [(1, 0xC000000001E80100)] s) (fun t => rx t 3 == 0x80000000003C0100) &&
     gives (.crel .always (.x 3) (.x 1)) (xs [(1, 0x80000000003C0100)] s) (fun t => rx t 3 == 0xC000000001E80100) &&
     gives (.caddr .always (.x 3) (.x 1)) (xs [(1, 0xC000000001EC0100)] s)
       (fun t => (me t).cause == 6 && (me t).trapaddr == 0xC000000001EC0100)) = true := by decide

/-- R108 on s0, whose base is offset 0 of the own store: the tag stays, and an offset at LIMIT raises SEG. -/
theorem test_lea :
    (gives (.lea .always (.x 3) ⟨0, 1, 0xF⟩) R (fun t => rx t 3 == 0xC000000000000010) &&
     gives (.lea .always (.x 3) ⟨0, 0, 0x40000⟩) R (fun t => (me t).cause == 3 && (me t).trapaddr == 0x40000)) = true := by decide

/-- R112: the manual's conversions of the E5 values 0x7B and 0xFB. -/
theorem test_fcvt :
    (un (.fcvt · .f16 .e5 .rze false false) 0x7B 0x7B00 && un (.fcvt · .f16 .e5 .rze false false) 0xFB 0xFB00 &&
     un (.fcvt · .e4 .e5 .rne false false) 0x7B 0x7E && un (.fcvt · .e4 .e5 .rne false false) 0xFB 0xFE &&
     un (.fcvt · .i32 .f32 .rne false true) 0x7FC00000 0 && un (.fcvt · .u8 .i32 .rne false false) 0xFFFFFFFF 0) = true := by decide

/-- R37, R45, R48, R110: 1 + 2^-24 ties to even, 1 / 3 rounds down under RZE, exact cancellation is -0 under RNI only. -/
theorem test_float :
    (alu (.fadd · .f32 .rne false) 0x3F800000 0x33800000 0x3F800000 &&
     alu (.fadd · .f32 .rpi false) 0x3F800000 0x33800000 0x3F800001 &&
     alu (.fdiv · .f32 .rze false) 0x3F800000 0x40400000 0x3EAAAAAA && alu (.fdiv · .f32 .rne false) 0x3F800000 0 0x7F800000 &&
     alu (.fsub · .f32 .rni false) 0x3F800000 0x3F800000 0x80000000 && alu (.fsub · .f32 .rne false) 0x3F800000 0x3F800000 0 &&
     alu (.fmul · .f32 .rne true) 0x7F000000 0x7F000000 0x7F7FFFFF && alu (.fmul · .f32 .rne false) 0x7F000000 0x7F000000 0x7F800000 &&
     alu (.fmin · .f32) 0 0x80000000 0x80000000 && alu (.fmax · .f32) 0 0x80000000 0 &&
     gives (.ffma .always .f32 .rne false (.x 3) (.x 1) (.x 1) (.x 2)) (xs [(1, 0x3F800001), (2, 0xBF800002)] R)
       (fun t => rx t 3 == 0x28800000)) = true := by decide

/-- R111, R113, R114. -/
theorem test_predicates :
    (gives (.fcmp .always .f32 .eq 1 (.x 1) (.src (.x 2))) (xs [(1, 0), (2, 0x80000000)] R) (fun t => pGet (me t) 1) &&
     gives (.fcmp .always .f32 .un 1 (.x 1) (.src (.x 2))) (xs [(1, 0x7FC00000)] R) (fun t => pGet (me t) 1) &&
     gives (.cmp .always .lt 1 (.x 1) (.imm 0)) (xs [(1, -1)] R) (fun t => pGet (me t) 1) &&
     gives (.cmp .always .ltu 1 (.x 1) (.imm 0)) (xs [(1, -1)] R) (fun t => !pGet (me t) 1) &&
     gives (.pand .always true false 1 2 7) R (fun t => pGet (me t) 1) &&
     gives (.por .always false false 1 2 3) R (fun t => !pGet (me t) 1) &&
     gives (.pxor .always true true 1 7 3) R (fun t => pGet (me t) 1) && gives (.pnot .always 1 7) R (fun t => !pGet (me t) 1) &&
     gives (.pmov .always (.px 1 (.x 2))) R (fun t => pGet (me t) 1) &&
     gives (.pmov .always (.xp (.x 3) 7)) R (fun t => rx t 3 == 1)) = true := by decide

/-- R64, R115: a counter of 1 falls through, one of 0 wraps and branches; BRXL reads its target before it links. -/
theorem test_control :
    (gives (.loop .always 1 (-12)) R (fun t => rx t 1 == 0 && (me t).pc == 0x3C00C) &&
     gives (.loop .always 3 (-12)) R (fun t => rx t 3 == 0xFFFFFFFFFFFFFFFF && (me t).pc == 0x3BFD0) &&
     gives (.brxl .always 31) (xs [(31, 0x100)] R) (fun t => rx t 31 == 0x3C00C && (me t).pc == 0x100) &&
     gives (.brl .always 0xFFD) R (fun t => (me t).pc == 0x3FFF4) &&
     gives (.br .always 0xFFE) R (fun t => (me t).cause == 6 && (me t).trapaddr == 0x3FFF8 && (me t).trappc == 0x3C000) &&
     gives (.ret .always) (xs [(31, 2)] R) (fun t => (me t).cause == 6 && (me t).trapaddr == 2) &&
     gives (.brx .always 2) R (fun t => (me t).pc == 1024)) = true := by decide

/-- R87, R93, R359, R361: TRAP saves PC + 12, ERET goes there; a negative FLOOR raises ILLEGAL, -0 does not. -/
theorem test_system :
    (gives (.trap .always 7) R (fun t => (me t).cause == 15 && (me t).trapaddr == 7 && (me t).trappc == 0x3C00C &&
       (me t).handler && gives (.eret .always) t (fun u => (me u).pc == 0x3C00C && !(me u).handler)) &&
     gives (.syswr .always .tole4 1) (xs [(1, 0x8000000000000005)] R) (fun t => readSys t .tole4 == 0x008000000000000D && readSys (fin t) .tole4 == 0x8000000000000005) &&
     gives (.syswr .always .tole4 1) (xs [(1, 0x8000000100000005)] R) (fun t => (me t).cause == 1 && (me t).handler) &&
     gives (.sysrd .always 3 .tileid) (modTile 69 (fun t => { t with tx := 5, ty := 2 }) { R with cur := ⟨69, 0⟩ }) (fun t => rx t 3 == 5 + 2 * 32 + 2 ^ 17) &&
     gives (.fork .always 2 3 1 0) R (fun t => rx t 3 == 0 && (getStrand t 2).run == .run && (getStrand t 2).x.get 1 == 1) &&
     gives (.yield .always (.imm 9)) R (fun t => (me t).flight == some .pause) &&
     gives (.stop .always) R (fun t => (me t).flight == some .stop) &&
     gives (.halt .always) R (fun t => (getStrand t 0).run == .off) &&
     gives (.wake .always 0 0) (modDie 0 (fun d => { d with nd := 1024 }) R) (fun t => t.internal == [.wakeEventDelivery ⟨0, 0⟩ 0])) = true := by decide

/-- R86: the manual's segment, 16 bytes of the own store, loads into s2. -/
theorem test_segld :
    (let s := writeNat (keysFrom (localKey 0 0x20) 16) 0x00002B000000800080000000_00AD0000 (modTile 0 (fun t => { t with segtab := 0x200000010 }) R)
     gives (.segld .always 2 (.imm 1)) s (fun t => sGet (me t) 2 == 0x00002B0000008000_8000000000AD0000#128) &&
     gives (.segld .always 2 (.imm 2)) s (fun t => (me t).cause == 3 && (me t).trapaddr == 2)) = true := by decide

/-- The own store with bytes at 0x100. -/
def M : State := writeNat (keysFrom (localKey 0 0x100) 16) 0x00112233_44556677_8899AABB_CCDDEEFF R

/-- R204 to R212: little-endian loads, extension, stores of the low bytes, half a byte, and lanes under a mask. -/
theorem test_memory :
    (gives (.ld .always .normal .h true .plain 3 ⟨0, 0, 0x101⟩) M (fun t => rx t 3 == 0xFFFFFFFFFFFFDDEE) &&
     gives (.ld .always .normal .w false .acq 3 ⟨0, 0, 0x108⟩) M (fun t => rx t 3 == 0x44556677) &&
     gives (.ld .always .normal .w false .acq 3 ⟨0, 0, 0x102⟩) M (fun t => (me t).cause == 4) &&
     gives (.st .always .normal .h .plain 2 ⟨0, 0, 0x100⟩) M (fun t =>
       readNat t (keysFrom (localKey 0 0x100) 4) == 0xCCDD0400) &&
     gives (.stn .always .normal true .plain 1 ⟨0, 0, 0x100⟩) M (fun t => readByte t (localKey 0 0x100) == 0x1F) &&
     gives (.ldv .always .normal .w .plain 1 3 ⟨0, 0, 0x100⟩) (wk 1 2 M) (fun t => vGet (me t) 3 == vecOf 32 [0, 0x8899AABB]) &&
     gives (.stv .always .normal .w .plain 1 3 ⟨0, 0, 0x100⟩) (wk 1 2 (wv 3 (vecOf 32 [1, 2, 3]) M)) (fun t =>
       readNat t (keysFrom (localKey 0 0x100) 12) == 0x44556677_00000002_CCDDEEFF) &&
     gives (.gath .always .normal .w true .plain 1 3 ⟨0, 0, 0x100⟩ 2) (wk 1 3 (wv 2 (vecOf 32 [2, 1]) M))
       (fun t => vGet (me t) 3 == vecOf 32 [0x44556677, 0x8899AABB]) &&
     gives (.scat .always .normal .w false .plain 1 3 ⟨0, 0, 0x100⟩ 2) (wk 1 3 (wv 3 (vecOf 32 [7, 9]) M))
       (fun t => readNat t (keysFrom (localKey 0 0x100) 4) == 9)) = true := by decide

/-- R213 to R216, with three rows of the manual's table of AFMAX, AMAX and AMINU. -/
theorem test_atomics :
    (let s (old b : Nat) := xs [(2, BitVec.ofNat 64 b)] (writeNat (keysFrom (localKey 0 0x100) 4) old R)
     let at_ (f : Option XReg → MemOp → XReg → Instr) (old b new d : Nat) := gives (f (some 3) ⟨0, 0, 0x100⟩ 2) (s old b) fun t =>
       readNat t (keysFrom (localKey 0 0x100) 4) == new && rx t 3 == BitVec.ofNat 64 d
     at_ (.aadd .always .normal .w .plain) 0xFFFFFFFF 2 1 0xFFFFFFFF && at_ (.aand .always .normal .w .plain) 6 3 2 6 &&
     at_ (.aor .always .normal .w .plain) 6 3 7 6 && at_ (.axor .always .normal .w .plain) 6 3 5 6 &&
     at_ (.amin .always .normal .w .plain) 0x80000000 1 0x80000000 0xFFFFFFFF80000000 &&
     at_ (.amaxu .always .normal .w .plain) 0x80000000 1 0x80000000 0x80000000 && at_ (.axch .always .normal .w .plain) 1 2 2 1 &&
     at_ (.afmax .always .normal .f32 .plain) 0x3F800000 0x7FC00000 0x3F800000 0x3F800000 &&
     at_ (.amax .always .normal .w .plain) 0x3F800000 0x7FC00000 0x7FC00000 0x3F800000 &&
     at_ (.aminu .always .normal .w .plain) 0xBF800000 0xC0000000 0xBF800000 0xBF800000 &&
     at_ (.afmin .always .normal .f32 .plain) 0 0x80000000 0x80000000 0 &&
     at_ (.afadd .always .normal .f32 .plain) 0x3F800000 0x3F800000 0x40000000 0x3F800000 &&
     gives (.acas .always .normal .w .plain 3 ⟨0, 0, 0x100⟩ 2) (xs [(3, 5)] (s 5 9)) (fun t =>
       readNat t (keysFrom (localKey 0 0x100) 4) == 9 && rx t 3 == 5) &&
     gives (.acas .always .normal .w .plain 3 ⟨0, 0, 0x100⟩ 2) (xs [(3, 4)] (s 5 9)) (fun t =>
       readNat t (keysFrom (localKey 0 0x100) 4) == 5 && rx t 3 == 5)) = true := by decide

/-- R134, R135, R139: the manual's saturating sums, the corners of VABS and VNEG, and shifts. -/
theorem test_vector_integer :
    (vec 8 (.vadd .always .i8 .rne false 0 3 1 (.v 2)) [100] [100] [200] && vec 8 (.vadd .always .i8 .rne true 0 3 1 (.v 2)) [100] [100] [127] &&
     vec 8 (.vsub .always .u8 .rne true 0 3 1 (.v 2)) [3] [5] [0] && vec 16 (.vmul .always .i16 .rne true 0 3 1 (.v 2)) [0x8000] [2] [0x8000] &&
     vec 8 (.vabs .always .i8 true 0 3 1) [128] [] [127] && vec 8 (.vneg .always .u8 false 0 3 1) [1] [] [255] &&
     vec 8 (.vmin .always .i8 0 3 1 (.v 2)) [255] [1] [255] && vec 8 (.vmax .always .u8 0 3 1 (.v 2)) [255] [1] [255] &&
     vec 16 (.vsar .always .i16 0 3 1 (.imm 17)) [0x8000] [] [0xC000] && vec 16 (.vshr .always .i16 0 3 1 (.imm 1)) [0x8000] [] [0x4000] &&
     vec 16 (.vshl .always .i16 0 3 1 (.imm 1)) [0x8001] [] [2] && vec 8 (.vand .always .u8 0 3 1 (.imm 0x10F)) [0xAB] [] [0xB] &&
     vec 8 (.vor .always .u8 0 3 1 (.v 2)) [0xA0] [0xB] [0xAB] && vec 8 (.vxor .always .u8 0 3 1 (.v 2)) [0xFF] [0xF] [0xF0]) = true := by decide

/-- R133, R135, R136: a fused lane, canonical NaN, and the special inputs and midpoints of the functions. -/
theorem test_vector_float :
    (vec 32 (.vadd .always .f32 .rne false 0 3 1 (.v 2)) [0x3F800000] [0x33800000] [0x3F800000] &&
     vec 16 (.vabs .always .bf16 false 0 3 1) [0xFFC1, 0x8001] [] [0x7FC0, 1] && vec 16 (.vneg .always .f16 false 0 3 1) [0x3C00] [] [0xBC00] &&
     vec 32 (.vsqrt .always .f32 .rne false 0 3 1) [0x40800000, 0x80000000, 0xBF800000] [] [0x40000000, 0x80000000, 0x7FC00000] &&
     vec 32 (.vrcp .always .f32 .rze false 0 3 1) [0x40400000] [] [0x3EAAAAAA] &&
     vec 32 (.vdiv .always .f32 .rne false 0 3 1 (.v 2)) [0x3F800000] [0x40400000] [0x3EAAAAAB] &&
     vec 32 (.vfma .always .f32 .rne false 0 3 1 1 2) [0x3F800001] [0xBF800002] [0x28800000] &&
     vec 32 (.vfms .always .f32 .rne false 0 3 1 1 2) [0x3F800001] [0x3F800002] [0x28800000]) = true := by decide

/-- R136: exact powers, the midpoint of VEXP2 at -150, and an inexact logarithm of 3 and root of 2. -/
theorem test_vector_functions :
    (vec 32 (.vexp2 .always .f32 .rne false 1 3 1) [0x40400000, 0xC3160000] [] [0, 0] &&
     gives (.vexp2 .always .f32 .rpi false 1 3 1) (wk 1 3 (wv 1 (vecOf 32 [0x40400000, 0xC3160000]) R))
       (fun t => vGet (me t) 3 == vecOf 32 [0x41000000, 1]) &&
     gives (.vlog2 .always .bf16 .rne false 1 3 1) (wk 1 3 (wv 1 (vecOf 16 [0x3F80, 0x4040]) R))
       (fun t => vGet (me t) 3 == vecOf 16 [0, 0x3FCB]) &&
     gives (.vrsq .always .bf16 .rne false 1 3 1) (wk 1 7 (wv 1 (vecOf 16 [0x4080, 0x4000, 0]) R))
       (fun t => vGet (me t) 3 == vecOf 16 [0x3F00, 0x3F35, 0x7F80])) = true := by decide

/-- R137: the manual's VDOT.I8, accumulator lane 1. -/
theorem test_vdot :
    gives (.vdot .always .i8 .rne false 0 3 1 2)
      (wv 3 (vecOf 32 [0, 0x7FFFFFF6]) (wv 2 (vecOf 8 [0, 0, 0, 0, 255, 255, 5, 9]) (wv 1 (vecOf 8 [0, 0, 0, 0, 127, 128, 1, 0]) R)))
      (fun t => vGet (me t) 3 == vecOf 32 [0, 0x7FFFFFFC]) = true := by decide

/-- R138, R140 to R144, R150. -/
theorem test_vector_data :
    (gives (.vcmp .always .i8 .lt 0 2 1 (.imm 0)) (wv 1 (vecOf 8 [255, 1, 128]) R) (fun t => kGet (me t) 2 == 5) &&
     gives (.vmov .always (.kx 2 1)) R (fun t => kGet (me t) 2 == 1) && gives (.vmov .always (.xk 3 0)) R (fun t => rx t 3 == 0xFFFFFFFFFFFFFFFF) &&
     gives (.vbcast .always .bf16 0 3 none (.imm 0x3F80)) R (fun t => laneGet 32 (vGet (me t) 3) 15 == 0x3F803F80) &&
     vec 8 (.vperm .always .u8 0 3 1 2) [10, 11, 12] [2, 66, 1] [12, 12, 11] &&
     gives (.vsel .always .u8 1 3 1 2) (wk 1 2 (wv 1 (vecOf 8 [1, 2]) (wv 2 (vecOf 8 [8, 9]) R))) (fun t => vGet (me t) 3 == vecOf 8 [8, 2]) &&
     gives (.vextr .always .i8 3 1 (.imm 65)) (wv 1 (vecOf 8 [0, 200]) R) (fun t => rx t 3 == 0xFFFFFFFFFFFFFFC8) &&
     gives (.vins .always .u8 3 2 (.imm 2)) R (fun t => vGet (me t) 3 == 0) && gives (.vins .always .f16 3 2 (.imm 2)) R (fun t => vGet (me t) 3 == vecOf 16 [0, 0, 0x400]) &&
     gives (.vcomp .always .u8 1 3 1) (wk 1 6 (wv 1 (vecOf 8 [7, 8, 9]) R)) (fun t => vGet (me t) 3 == vecOf 8 [8, 9])) = true := by decide

/-- R145, R146: the manual's sum of 2^24, 0, 1, 1 and zeros, by the tree and by the scan. -/
theorem test_reductions :
    (gives (.vred .always .f32 .sum .rne 0 3 1) (wv 1 (vecOf 32 [0x4B800000, 0, 0x3F800000, 0x3F800000]) R) (fun t => rx t 3 == 0x4B800001) &&
     gives (.vscan .always .f32 .sum .rne false 0 3 1) (wv 1 (vecOf 32 [0x4B800000, 0, 0x3F800000, 0x3F800000]) R)
       (fun t => laneGet 32 (vGet (me t) 3) 15 == 0x4B800000) &&
     gives (.vred .always .i8 .min .rne 1 3 1) (wk 1 0 R) (fun t => rx t 3 == 127)) = true := by decide

/-- R147 to R149: the manual's VPACK of 5.0, -0.69921875, 0.25 and 1.25, and the codes decoded again. -/
theorem test_n4 :
    (gives (.vcvt .always .bf16 .f32 .rne false 1 0 3 1) (wv 1 (vecOf 32 [0x3F800000]) R) (fun t => laneGet 16 (vGet (me t) 3) 16 == 0x3F80) &&
     gives (.vpack .always .bf16 .rne .e2m1 2 3 1 none 12) (wv 1 (vecOf 16 [0x40A0, 0xBF33, 0x3E80, 0x3FA0]) R) (fun t =>
       rx t 12 == 0x60 && laneGet 128 (vGet (me t) 3) 2 == 0x2096 && laneGet 128 (vGet (me t) 3) 0 == 0 &&
       gives (.vunpk .always .bf16 .rne false 2 false 0 4 3 12) t (fun u =>
         vGet (me u) 4 == vecOf 16 [0x4080, 0xBF00, 0, 0x3F80]))) = true := by decide

/-- R151: the manual's VPRUNE of 32 BF16 lanes. -/
theorem test_vprune :
    gives (.vprune .always .bf16 1 7 8 9) (wv 8 (vecOf 16 [0x3F00, 0x3F00, 0xC0C0, 0x3F00, 0x3F00, 0x4040, 0x3F00, 0x7FC1, 0x3F00, 0x4000,
        0x3F00, 0x3F00, 0xC000, 0x4000, 0x3F00, 0x3F00, 0x3F00, 0x3F00, 0x3F80, 0x3F00, 0x3F00, 0x3F80, 0x3F00, 0xBF80]) R)
      (fun t => rx t 9 == 0x2432A4 && vGet (me t) 7 == vecOf 16 [0xC0C0, 0x4040, 0x7FC1, 0x4000, 0xC000, 0x4000, 0x3F80, 0x3F80]) = true := by decide

/-! ### States with queues, ports and tasks -/

/-- Two ordinary queues of cluster 0 and job 0, of four 8-byte entries, with their handles in x10 and x11. -/
def openQueue (ring : Nat) : Queue := { Queue.free with st := .open_, gen := 1, cap := 4, flow := 4, slots := 4, ring := localKey 0 ring }
def Q : State := modQueue 1 (fun _ => openQueue 0x2000) (modQueue 0 (fun _ => openQueue 0x1000) (xs [(10, 1), (11, 0x10001)] R))

/-- An entry 5 in the first queue, and iq0 and oq0 bound to the two. -/
def P : State :=
  modMe (fun t => { t with ports := #v[some ⟨1, 0⟩, none, some ⟨0x10001, 0⟩, none] }) (push 0 .data (natBytes 8 5) .loader 0 Q)

/-- R61, R293, R294, R297: ADD oq0, iq0, #1000 of the manual pops 5 and pushes 1005; a peek leaves its entry. -/
theorem test_ports_and_queues :
    (gives (.add .always (.oq 0) (.iq 0) (.imm 1000)) P (fun t => (getQueue t 0).head == 1 && (getQueue t 1).tail == 0 &&
       (getQueue (fin t) 1).tail == 1 && (readRing (getQueue (fin t) 1) 0 (fin t)).2 == natBytes 8 1005) &&
     gives (.qpush .always none false 10 (.x 2)) Q (fun t => (getQueue t 0).tail == 1 &&
       gives (.qpeek .always none false (.x 3) 10 4) t (fun u => rx u 3 == 1024 && (getQueue u 0).head == 0) &&
       gives (.qpop .always none true (.x 3) 10 0) t (fun u => rx u 3 == 1024 && (getQueue u 0).head == 1)) &&
     gives (.qpop .always (some 2) false (.x 3) 10 0) Q (fun t => !pGet (me t) 2 && (me t).pc == 0x3C00C) &&
     gives (.qpop .always none false (.x 3) 10 0) Q (fun t => (me t).run == .waitq && (me t).pc == 0x3C000) &&
     gives (.qmark .always .stop (.x 10) (.imm 0)) Q (fun t => (readRing (getQueue t 0) 0 t).1 == .stop) &&
     gives (.qstat .always .depth 3 10) P (fun t => rx t 3 == 1) && gives (.qkill .always 10) Q (fun t => handleFail t 0 1 == some .queue || handleFail t 0 1 == some .handle) &&
     gives (.qpush .always none false 2 (.x 2)) Q (fun t => (me t).cause == 11 && (me t).trapaddr == 1024) &&
     gives (.qbind .always 1 10 (.imm 0x40)) Q (fun t => (me t).ports[1] == some ⟨1, 0x40⟩)) = true := by decide

/-- R19 to R21, R298 to R301: a record spawned starts with PC, x1 and x30 from itself; TJOIN counts down. -/
theorem test_tasks :
    (gives (.tspawn .always 2 4 5 6) (xs [(4, 0x200), (5, 77), (6, 9)] R) (fun t =>
       gives (.tnext .always none) t (fun u => (me u).pc == 0x200 && rx u 1 == 9 && rx u 30 == 77 && (me u).task)) &&
     gives (.tnext .always (some 2)) R (fun t => !pGet (me t) 2 && (me t).pc == 0x3C00C) &&
     gives (.tend .always) R (fun t => (me t).cause == 1) &&
     gives (.tjoin .always ⟨0, 0, 0x100⟩) (modMe (fun t => { t with task := true }) (writeNat (keysFrom (localKey 0 0x100) 8) 1 R))
       (fun t => (me t).pc == 0x3C00C && readNat t (keysFrom (localKey 0 0x100) 8) == 0)) = true := by decide

/-- R316, R318, R322 to R325: a future is set once, read, and released with a new generation. -/
theorem test_futures :
    gives (.fnew .always 3) (setFree 0 0 [5] R) (fun t => rx t 3 == 5 &&
      gives (.fset .always 3 (.imm 42)) t (fun u =>
        gives (.fget .always true 4 3 6) u (fun w => rx w 4 == 42 && rx w 6 == 2) &&
        gives (.fset .always 3 (.imm 1)) u (fun w => (me w).cause == 12 && (me w).trapaddr == 5) &&
        gives (.ffree .always 3) u (fun w => (getFuture w 5).gen == 1 &&
          gives (.fget .always true 4 3 6) w (fun z => (me z).cause == 11))) &&
      gives (.fpoison .always 3 (.imm 7)) t (fun u => gives (.fget .always true 4 3 6) u (fun w => rx w 4 == 7 && rx w 6 == 3))) &&
      gives (.fnew .always 3) R (fun t => rx t 3 == 0x100000000) = true := by decide

/-- R49, R347 to R354: the update past a boundary, a monitor that a store touches, and one Step from the state (1, 2). -/
theorem test_counters :
    (gives (.landset .always 3 ⟨0, 0, 0x100⟩ 2) (writeNat (keysFrom (localKey 0 0x100) 16) (9 * 2 ^ 64) R) (fun t => rx t 3 == 9 &&
       gives (.landadd .always .plain (some 4) ⟨0, 0, 0x100⟩ 5) (xs [(5, 2050)] t) (fun u => rx u 4 == 0x2_0000000B &&
         readNat u (keysFrom (localKey 0 0x100) 16) == 1024 + 2 * 2 ^ 32 + 11 * 2 ^ 64 + 2 ^ 96)) &&
     gives (.marm .always 1 ⟨0, 0, 0x104⟩) R (fun t =>
       gives (.st .always .normal .b .plain 2 ⟨0, 0, 0x13F⟩) t (fun u =>
         gives (.mwait .always 3 (.imm 0)) u (fun w => rx w 3 == 2) &&
         gives (.mclr .always (.imm 2)) u (fun w => touchedBits (me w) == 0)) &&
       gives (.st .always .normal .b .plain 2 ⟨0, 0, 0x140⟩) t (fun u =>
         gives (.mwait .always 3 (.imm 0)) u (fun w => (me w).run == .waitm))) &&
     gives (.rng .always 3) (modMe (fun t => { t with rnga := 1, rngb := 2 }) R) (fun t =>
       rx t 3 == 0x800045 && (me t).rnga == 2 && (me t).rngb == 0x800043) &&
     gives (.vrng .always 1 3) (wk 1 1 (modMe (fun t => { t with rnga := 1, rngb := 2 }) R)) (fun t => vGet (me t) 3 == 0x800045)) = true := by decide

/-- R176: in a 64 × 64 BF16 matrix, element (i, j) lies at 256 (j mod 32) + 4 i + 2 (j / 32). -/
theorem test_striped :
    (stripedOff 64 2 0 0 == 0 && stripedOff 64 2 63 63 == 256 * 31 + 4 * 63 + 2 && stripedOff 64 2 5 33 == 256 + 20 + 2 &&
     stripedExtent 1 32 2 == 8192 && stripedOff 64 4 32 0 == 8192) = true := by decide

/-- R334: the manual's samples from BASE = 3.0 us and CAP = 256 KiB. -/
theorem test_congestion :
    ([4000, 4900, 7500, 12000, 10000, 3200].foldl (fun (a : Peer × List Nat) t =>
        (peerSample t a.1, a.2 ++ [(peerSample t a.1).cap / 1024])) (⟨256 * 1024, 0, some 3000, none⟩, [])).2 =
      [272, 288, 288, 144, 144, 160] ∧ (peerSample 20000 ⟨16 * 1024, 0, some 3000, none⟩).cap = 16 * 1024 := by decide

/-- R243's worked case: one group of 32 products 1.0 · 0.5, and the checksum lane of a column. -/
theorem test_product_lanes :
    let one := decFmt .bf16 0x3F80
    let half := decFmt .bf16 0x3F00
    laneAdd false 0 (List.replicate 32 (mulEx one half)) = 0x41800000 ∧
    laneAdd false 0 (List.zipWith mulEx (List.replicate 32 (sumOnce false (List.replicate 64 one))) (List.replicate 32 half)) =
      0x44800000 := by decide

/-- R243's worked case: the rows 0 to 5 of block 5 with bit 22, or bit 0, of cell (5, 9) inverted. -/
def flipped (v : BitVec 32) : Block :=
  { Block.empty with
    st := .open_
    cells := putAt (List.replicate 384 0x41800000) (64 * 5 + 9) v
    pr := List.replicate 64 0x44800000
    pc := List.replicate 64 0x44800000
    mr := List.replicate 64 0x44800000
    mc := List.replicate 64 0x44800000 }

theorem test_assay_worked_case :
    let t : Word := 0x008000000000000D
    let b := flipped 0x41C00000
    let row (b : Block) (i : Nat) := (compareLane false t (actual false (rowOf b i)) (b.pr.getD i 0) (b.mr.getD i 0)).1
    actual false (rowOf b 5) = 0x44810000 ∧ row b 5 = true ∧ row (flipped 0x41800001) 5 = false := by decide

/-! ### Witnesses: states and operands that meet the hypotheses of the obligations, clause by clause -/

theorem next_of {r : Res} (h : (match r with | .next _ => true | _ => false) = true) : ∃ t, r = .next t := by
  cases r <;> simp_all

/-- Do the named ports find what R61 asks? -/
def portsOk (s : State) (ins outs : List (Fin 2)) : Bool :=
  decide (portFail s ins outs = none) && decide (inputStop s ins = none) && (outsReady outs .data s).1 &&
    (match popPorts ins (0, 0) s with | some (_, _, none) => true | _ => false)

theorem ports_of {s ins outs} (h : portsOk s ins outs = true) : ∃ v s', Ports s ins outs v s' := by
  simp only [portsOk, Bool.and_eq_true, decide_eq_true_eq] at h
  obtain ⟨⟨⟨h1, h2⟩, h3⟩, h4⟩ := h
  match hp : popPorts ins (0, 0) s, h4 with
  | some (v, s', none), _ => exact ⟨v, s', h1, h2, hp, h3⟩

/-- The state after reset in user privilege, with a false guard p1, in a handler, in a cause that is pending. -/
def U : State := modMe (fun t => { t with priv := false }) R
def H : State := modMe (fun t => { t with handler := true, trappc := 0x3FFF4 }) R

theorem witness_memory_and_steps : MemInv R ∧ (∃ t, Steps (R.withFetchWord 96 0x00070000) t) ∧
    MemInv (R.withFetchWord 96 0x00070000) := ⟨by unfold MemInv; decide, next_of (by decide), by unfold MemInv; decide⟩

theorem witness_decoder : decode (wordBytes 0x00070000) = .ok (.nop .always, []) ∧
    (let f : Fields := { opc := 0xF00 }
     f.opc.extractLsb' 8 4 = 0xF) ∧
    decodeFields { gn := true, gp := 7 } = .ok (.nop ⟨true, 7⟩) ∧ 0x4C ≤ (0x4C : BitVec 8).toNat ∧
    0x4C ≤ (0xFF : BitVec 8).toNat := by decide

/-- What a step prepares for the fetch of strand 0 of site 0. -/
def fetching (s : State) : State := modMe countQuantum (modTile 0 (fun x => { x with last := 0 }) (asStrand ⟨0, 0⟩ s))

/-- Die 0 after the verification of its firmware. -/
def Fl : State := modDie 0 (fun d => { d with phase := .flood }) R
/-- A NOP at the last offset that holds an instruction. -/
def F : State := { writeNat (keysFrom (localKey 0 0x3FFF4) 12) 0x00070000 (modMe (fun t => { t with pc := 0x3FFF4 }) Fl) with
  inputs := [.issue 0] }
def due (s u : State) : Prop := agenda s = .cycle 0 u ∧ clocked u 0 = true ∧ verifies u 0 = false ∧ select u 0 = some 0

theorem witness_step : due F { F with inputs := [] } ∧ atTrapCode ⟨0, 0⟩ { F with inputs := [] } = false ∧ (me (fetching F)).pc.toNat + 12 ≤ 0x40000 ∧
    poisonRead (fetching F) (fetchKeys (fetching F) ⟨0, 0⟩) = none ∧
    decode (readKeys (fetching F) (fetchKeys (fetching F) ⟨0, 0⟩)) = .ok (.nop .always, []) :=
  ⟨⟨rfl, by decide, by decide, by decide⟩, by decide, by decide, by decide, by decide⟩

/-- A strand of job 5 that has entered its steward vector. -/
def Tc (cause : BitVec 4) : State :=
  { modMe (fun t => { t with handler := true, cause := cause, pc := 0x3C000, trapbase := 0x3C000, priv := true })
      (modTile 0 (fun t => { t with job := 5, booth := 1 }) Fl) with inputs := [.issue 0] }
theorem witness_trap_code : due (Tc 3) { Tc 3 with inputs := [] } ∧ atTrapCode ⟨0, 0⟩ { Tc 3 with inputs := [] } = true :=
  ⟨⟨rfl, by decide, by decide, by decide⟩, by decide⟩

theorem witness_fetch_faults :
    (let s := modMe (fun t => { t with pc := 0x3FFF8 }) F
     due s { s with inputs := [] } ∧ 0x40000 < (me (fetching s)).pc.toNat + 12) ∧
    (let s := { F with poison := [localKey 0 0x3FFF8] }
     due s { s with inputs := [] } ∧ (me (fetching s)).pc.toNat + 12 ≤ 0x40000 ∧
       poisonRead (fetching s) (fetchKeys (fetching s) ⟨0, 0⟩) = some (localKey 0 0x3FFF8)) ∧
    (let s := writeNat (keysFrom (localKey 0 0x3FFF4) 12) 0xF0070000 F
     due s { s with inputs := [] } ∧ (me (fetching s)).pc.toNat + 12 ≤ 0x40000 ∧
       poisonRead (fetching s) (fetchKeys (fetching s) ⟨0, 0⟩) = none ∧
       decode (readKeys (fetching s) (fetchKeys (fetching s) ⟨0, 0⟩)) = .error .unassignedOpcode) :=
  ⟨⟨⟨rfl, by decide, by decide, by decide⟩, by decide⟩, ⟨⟨rfl, by decide, by decide, by decide⟩, by decide, by decide⟩,
   ⟨⟨rfl, by decide, by decide, by decide⟩, by decide, by decide, by decide⟩⟩

theorem witness_guards : guardOf (.nop ⟨false, 1⟩) = some ⟨false, 1⟩ ∧ guardVal ⟨false, 1⟩ R = false ∧ (me R).priv = true ∧
    guardVal .always R = true ∧ (me U).priv = false ∧
    (guardOf (.fget ⟨false, 1⟩ false 2 1 3) = some ⟨false, 1⟩ ∧ awaits false (modMe (fun t => { t with task := true }) R) = true) := by decide
theorem witness_user_guard : guardOf (.add ⟨false, 1⟩ (.x 1) (.x 2) (.imm 3)) = some ⟨false, 1⟩ ∧ guardVal ⟨false, 1⟩ U = false ∧
    (me U).priv = false ∧ ¬StewardForm U (.add ⟨false, 1⟩ (.x 1) (.x 2) (.imm 3)) := by
  refine ⟨by decide, by decide, by decide, ?_⟩; simp [StewardForm]

theorem witness_boundary : Quiet (me R) ∧ (me H).halting = false ∧ (me H).handler = true ∧
    (let s := modMe (fun t => { t with timerDue := true, wakeDue := true }) R
     (me s).halting = false ∧ (me s).handler = false ∧
       ((me s).pending ||| (if (me s).timerDue then 0x2000 else 0) ||| (if (me s).wakeDue then 0x4000 else 0)).getLsbD 13 = true) ∧
    (let s := modMe (fun t => { t with pending := 0x4000 }) R
     (me s).halting = false ∧ (me s).handler = false ∧ (me s).pending.getLsbD 13 = false ∧ (me s).pending.getLsbD 14 = true) := by
  unfold Quiet; decide

theorem witness_traps : (me R).handler = false ∧ (me R).halting = false ∧ Cause.seg ≠ .uncorr ∧ (me H).handler = true ∧
    (⟨0, 7⟩ : SRef) ≠ H.cur ∧ H.cur.k < 8 ∧ guardVal .always H = true ∧ (me H).halting = false ∧ (me H).timerDue = false ∧
    (me H).wakeDue = false ∧ lowestPending (me H) = none ∧ edgeOf (returnFrom H) (boothOf H H.cur.site) = none := by decide

/-- Every operand form of classes 2 to 4: registers and immediates name no port; P has an entry and room. -/
theorem witness_ports : (∃ v s', Ports R [] [] v s') ∧ (∃ v s', Ports P (srcPorts (.iq 0)) (dstPorts (.oq 0)) v s') ∧
    (∃ v s', Ports P (srcPorts (.x 1) ++ opndPorts (.src (.iq 0))) (dstPorts (.oq 0)) v s') ∧
    guardVal .always R = true ∧ guardVal .always P = true :=
  ⟨ports_of (by decide), ports_of (by decide), ports_of (by decide), by decide, by decide⟩

theorem witness_select : (3 : PReg) ≠ 7 ∧ (me R).p.get 3 = false ∧ (me (wp 3 true R)).p.get 3 = true ∧
    guardVal ⟨false, 1⟩ R = false := by decide

/-- LEA at LIMIT, below it, and with an address that cannot be formed. -/
theorem witness_lea : segLimit (memSeg R ⟨0, 0, 0x40000⟩) ≤ (memOffset R ⟨0, 0, 0x40000⟩).toNat ∧
    ((memOffset R ⟨0, 0, 0x3FFFF⟩).toNat < segLimit (memSeg R ⟨0, 0, 0x3FFFF⟩) ∧
      form R 0 true (segBase (memSeg R ⟨0, 0, 0x3FFFF⟩)) (memOffset R ⟨0, 0, 0x3FFFF⟩).toNat 1 = some 0xC00000000003FFFF) ∧
    (let s := modMe (sSet 2 0x00002B00000400008000000000000100) R
     (memOffset s ⟨2, 0, 0x3FFFF⟩).toNat < segLimit (memSeg s ⟨2, 0, 0x3FFFF⟩) ∧
      form s 0 true (segBase (memSeg s ⟨2, 0, 0x3FFFF⟩)) (memOffset s ⟨2, 0, 0x3FFFF⟩).toNat 1 = none) := by decide

/-- Site coordinates of R109 at their bounds: site 0 has xl = yl = 0, site 487 xl = 7 and yl = 15. -/
theorem witness_caddr :
    (let ok (site : Nat) (w : Word) : Prop :=
       let y : Int := ylOf site + (w.extractLsb' 21 4).toInt
       let x : Int := xlOf site + (w.extractLsb' 18 3).toInt
       w.extractLsb' 62 2 = 3 ∧ w.extractLsb' 25 37 = 0 ∧ 0 ≤ y ∧ y ≤ 15 ∧ 0 ≤ x ∧ x ≤ 7 ∧
         isGood R (siteInCluster (clusterOf site) x.toNat y.toNat) = true
     ok 0 0xC000000000000000 ∧ ok 487 0xC000000000000000) ∧
    (0x8000000000000000 : Word).extractLsb' 62 2 ≠ 3 ∧
    ((ylOf 0 : Int) + ((0xC000000001E00000 : Word).extractLsb' 21 4).toInt < 0) ∧
    (15 < (ylOf 487 : Int) + ((0xC000000000200000 : Word).extractLsb' 21 4).toInt) ∧
    ((xlOf 0 : Int) + ((0xC0000000001C0000 : Word).extractLsb' 18 3).toInt < 0) ∧
    (7 < (xlOf 487 : Int) + ((0xC000000000040000 : Word).extractLsb' 18 3).toInt) ∧
    (0xC000000002000000 : Word).extractLsb' 25 37 ≠ 0 ∧ isGood { R with fused := [0] } (siteInCluster (clusterOf 0) 0 0) = false := by decide

theorem witness_crel :
    (let dy (site : Nat) (w : Word) : Int := (fld w 21 4 : Int) - ylOf site
     let dx (site : Nat) (w : Word) : Int := (fld w 18 3 : Int) - xlOf site
     let w (y x : Nat) : Word := BitVec.ofNat 64 (2 ^ 63 + 2 ^ 21 * y + 2 ^ 18 * x)
     dy 0 (w 7 3) = 7 ∧ dx 0 (w 7 3) = 3 ∧ dy 487 (w 7 3) = -8 ∧ dx 487 (w 7 3) = -4 ∧ 7 < dy 0 (w 8 0) ∧ 3 < dx 0 (w 0 4) ∧
     dy 487 (w 6 7) < -8 ∧ dx 487 (w 15 2) < -4 ∧ (w 7 3).extractLsb' 62 2 = 2 ∧ (w 7 3).extractLsb' 25 37 = 0 ∧
     isGood R (siteInCluster (clusterOf 0) 3 7) = true ∧ isGood R (siteInCluster (clusterOf 487) 3 7) = true ∧
     (0xC000000000000000 : Word).extractLsb' 62 2 ≠ 2 ∧ (0x8000000002000000 : Word).extractLsb' 25 37 ≠ 0) := by decide

theorem witness_floats : Rnd.rne ≠ .rst ∧ (Fmt.i32.isInt = true ∧ Fmt.u8.isInt = true) ∧ Fmt.f32.isFloat = true ∧
    fval .f32 0x7FC00000 = .nan ∧ fval .f32 0x3F800000 ≠ .nan ∧ (1 : PReg) ≠ 7 ∧ (1 : XReg) ≠ 0 := by decide

/-- Control targets at the ends of their range and just outside it. -/
theorem witness_control :
    (let rel (tgt : BitVec 48) : Word := (me R).pc + 4 * tgt.signExtend 64
     let ok (t : Word) : Prop := t.toNat % 4 = 0 ∧ t.toNat ≤ 0x3FFF4
     ok (rel (-0xF000)) ∧ rel (-0xF000) = 0 ∧ ok (rel 0xFFD) ∧ rel 0xFFD = 0x3FFF4 ∧ ¬ok (rel 0xFFE) ∧ ¬ok (rel (-0xF001)) ∧
     ok (rx R 2) ∧ rx R 1 = 1 ∧ rx R 2 ≠ 1 ∧ ok (rx R 31) ∧ ¬ok (rx R 1) ∧ ¬ok (rx (xs [(31, 0x3FFF8)] R) 31)) := by decide

/-- Strand 7 of site 0 as the executing strand, in steward privilege. -/
def R7 : State := { R with cur := ⟨0, 7⟩ }

theorem witness_stop_yield_halt : R.cur.k ≠ 7 ∧ R7.cur.k = 7 ∧ R.cur.k < 8 ∧ guardVal .always R7 = true ∧ (me R7).priv = true ∧
    (let s := modMe (fun t => { t with flight := some .stop, readyAt := 1 }) R
     (getStrand s 0).run = .run ∧ (getStrand s 0).flight = some .stop ∧ (getStrand s 0).readyAt ≤ (getTile s 0).cycle + 1 ∧
       (getStrand s 0).wait = none) ∧
    (rxo R (.imm 1)).toNat ≤ 1 ∧ 1 < (rxo R (.imm 2)).toNat ∧
    (let s := modMe (fun t => { t with flight := some .pause, readyAt := 1 }) R
     (getStrand s 0).flight = some .pause ∧ (getStrand s 0).readyAt ≤ (getTile s 0).cycle + 1) ∧
    (let s := modMe (fun t => { t with readyAt := 3 }) R
     (getStrand s 0).run = .run ∧ (getTile s 0).cycle + 1 < (getStrand s 0).readyAt) ∧
    (let s := modMe (fun t => { t with halting := true, readyAt := 1 }) R
     (getStrand s 0).run = .run ∧ (getStrand s 0).flight = none ∧ (getStrand s 0).halting = true ∧
       (getStrand s 0).readyAt = (getTile s 0).cycle + 1 ∧ (getStrand s 0).wait = none) := by decide

theorem witness_fork : (getStrand R (skey ⟨0, 0⟩)).run ≠ .off ∧ (getStrand R (skey ⟨0, 6⟩)).run = .off ∧
    skey ⟨0, 6⟩ ≠ skey R.cur ∧ Quiet (me R) ∧ R.pend = [] ∧ (me R).priv = true := by unfold Quiet; decide

/-- A die whose logical tile 0 is site 0. -/
def N : State := modDie 0 (fun d => { d with nd := 1 }) R

/-- The same with a store to a host page that has been handed off and waits for a link. -/
def hostStore : Pend := ⟨⟨0, 0⟩, .st .always .normal .w .plain 2 ⟨0, 0, 0⟩, [⟨0, 0, [hostKey 5]⟩], 5, 0, 0, false⟩
def Nh : State := { N with pend := [hostStore] }

theorem witness_wake : (unperformed (drainAll N.cur N) N.cur = false ∧ unperformed (drainAll Nh.cur Nh) Nh.cur = true ∧
      wakeTarget Nh 6 = some ⟨0, 6⟩) ∧ wakeTarget N 8 = none ∧ wakeTarget N 7 = some ⟨0, 7⟩ ∧ wakeTarget N 6 = some ⟨0, 6⟩ ∧
    targetOk 0x3FFF4 = true ∧ targetOk 0x3FFF8 = false ∧ targetOk 2 = false ∧
    (let s := modTile 0 (fun t => { t with job := 1, booth := 1 }) (modMe (fun t => { t with priv := false }) N)
     wakeTarget s 7 = some ⟨0, 7⟩ ∧ (me s).priv = false) ∧
    (getStrand R (skey ⟨0, 1⟩)).run = .off ∧ ((getStrand R 0).run = .run ∧ (getStrand R 0).flight = none ∧
      (getStrand R 0).readyAt ≤ (getTile R 0).cycle + 1) ∧
    (let s := modMe (fun t => { t with readyAt := 3 }) R
     (getStrand s 0).run = .run ∧ (getStrand s 0).flight = none ∧ (getTile s 0).cycle + 1 < (getStrand s 0).readyAt) ∧
    (let w : Wait := ⟨.queue 0 [], .qpush .always none false 10 (.x 2), 0, 0⟩
     let s := modMe (fun t => { t with run := .waitq, wait := some w }) R
     (getStrand s 0).run = .waitq ∧ (getStrand s 0).handler = false ∧ (getStrand s 0).wait = some w ∧ wakeKept w = false) ∧
    (let s (r : Run) (f : Option Flight) := modMe (fun t => { t with run := r, flight := f }) R
     ((getStrand (s .run (some .pause)) 0).run = .run ∧ (getStrand (s .run (some .pause)) 0).flight = some .pause) ∧
     (getStrand (s .paged none) 0).run = .paged ∧ (getStrand (s .waitm none) 0).run = .waitm) := by decide

theorem witness_system : SysReg.trapbase.writable = true ∧ (SysReg.trapbase.steward = true → (me R).priv = true) ∧
    ((tolIndex .trapbase).isSome = true → floorBad (rx R 0) = false) ∧ (tolIndex .tole4).isSome = true ∧
    floorBad 0x8000000000000000 = false ∧ floorBad 0x8000000100000000 = true ∧ floorBad 0x7F80000000000000 = true ∧
    SysReg.quantum ≠ .trapbase ∧ sharedReg .trapbase = false ∧ sharedReg .tole4 = true ∧
    (let s (due : Bool) : State := modMe (fun t => { t with flight := some (.sys .tole4 5 0 due) }) R
     (getStrand (s true) 0).flight = some (.sys .tole4 5 0 true) ∧
       (∀ p, p ∈ (s true).strands → p.2.flight = none ∨ p.2.flight = some (.sys .tole4 5 0 true)) ∧
       (getStrand (s false) 0).flight = some (.sys .tole4 5 0 false)) := by decide

/-- A segment table of two entries at offset 0x10: a valid one, and one with a reserved bit set. -/
def G : State := writeNat (keysFrom (localKey 0 0x10) 32) (0x00002B00000080008000000000AD0000 + 2 ^ 255)
  (modTile 0 (fun t => { t with segtab := 0x200000010 }) R)

theorem witness_segld : fld (myTile G).segtab 32 8 ≤ (rxo G (.imm 2)).toNat ∧
    (let s := modTile 0 (fun t => { t with segtab := 0xFF0003DFF0 }) R
     (rxo s (.imm 1)).toNat < fld (myTile s).segtab 32 8 ∧ 0x3E000 < 16 * fld (myTile s).segtab 4 14 + 16 * 1 + 16) ∧
    (let e (n : Nat) : List Nat := keysFrom (localKey 0 (0x10 + 16 * n)) 16
     let w (n : Nat) := BitVec.ofNat 128 (readNat (drainFor G.cur (e n) false G) (e n))
     (rxo G (.imm 1)).toNat < fld (myTile G).segtab 32 8 ∧ 0x10 + 16 * 1 + 16 ≤ 0x3E000 ∧
     poisonRead (drainFor G.cur (e 1) false G) (e 1) = none ∧ segValid (w 0) = true ∧ segValid (w 1) = false) := by decide

/-! Classes 5 to 7. -/

def ks (n off : Nat) : List Nat := keysFrom (localKey 0 off) n

/-- Loads, stores and atomics of the own store, at its last bytes too. -/
theorem witness_own_access :
    OwnAccess M (memSeg M ⟨0, 0, 0x100⟩) (memOffset M ⟨0, 0, 0x100⟩) 4 4 .load 0xC000000000000100 (ks 4 0x100) ∧
    OwnAccess M (memSeg M ⟨0, 0, 0x3FFF8⟩) (memOffset M ⟨0, 0, 0x3FFF8⟩) 8 8 .store 0xC00000000003FFF8 (ks 8 0x3FFF8) ∧
    OwnAccess M (memSeg M ⟨0, 0, 0x3FFC0⟩) (memOffset M ⟨0, 0, 0x3FFC0⟩) 64 64 .load 0xC00000000003FFC0 (ks 64 0x3FFC0) ∧
    OwnAccess M (memSeg M ⟨0, 0, 0x3FFC0⟩) (memOffset M ⟨0, 0, 0x3FFC0⟩) 64 64 .store 0xC00000000003FFC0 (ks 64 0x3FFC0) ∧
    OwnAccess M (memSeg M ⟨0, 0, 0x101⟩) (memOffset M ⟨0, 0, 0x101⟩) 1 1 .store 0xC000000000000101 (ks 1 0x101) ∧
    OwnAccess M (memSeg M ⟨0, 0, 0x100⟩) (memOffset M ⟨0, 0, 0x100⟩) 8 8 .atomic 0xC000000000000100 (ks 8 0x100) ∧
    OwnAccess M (memSeg M ⟨0, 0, 0x102⟩) (memOffset M ⟨0, 0, 0x102⟩) 2 2 .atomic 0xC000000000000102 (ks 2 0x102) ∧
    tagOf (segBase (memSeg M ⟨0, 0, 0x101⟩)) ≠ 1 ∧ Quiet (me M) ∧ MemInv M ∧ guardVal .always M = true :=
  ⟨⟨by decide, ⟨_, rfl⟩, by decide⟩, ⟨by decide, ⟨_, rfl⟩, by decide⟩, ⟨by decide, ⟨_, rfl⟩, by decide⟩,
   ⟨by decide, ⟨_, rfl⟩, by decide⟩, ⟨by decide, ⟨_, rfl⟩, by decide⟩, ⟨by decide, ⟨_, rfl⟩, by decide⟩,
   ⟨by decide, ⟨_, rfl⟩, by decide⟩, by decide, by unfold Quiet; decide, by unfold MemInv; decide, by decide⟩

theorem only_lane0 : ∀ i, i < 64 / sizeBytes .w → (kGet (me (wk 1 1 M)) 1).getLsbD i = true → i = 0 := by decide

theorem witness_gather_scatter :
    (∀ i, i < 64 / sizeBytes .w → (kGet (me (wk 1 1 M)) 1).getLsbD i = true →
      OwnAccess (wk 1 1 M) (memSeg (wk 1 1 M) ⟨0, 0, 0x100⟩) (elemOffset (wk 1 1 M) ⟨0, 0, 0x100⟩ 2 (sizeBytes .w) true i)
        (sizeBytes .w) (alignOf .acq (sizeBytes .w)) .load 0xC000000000000100 (ks 4 0x100)) ∧
    (∀ i, i < 64 / sizeBytes .w → (kGet (me (wk 1 1 M)) 1).getLsbD i = true →
      OwnAccess (wk 1 1 M) (memSeg (wk 1 1 M) ⟨0, 0, 0x100⟩) (elemOffset (wk 1 1 M) ⟨0, 0, 0x100⟩ 2 (sizeBytes .w) false i)
        (sizeBytes .w) (alignOf .rel (sizeBytes .w)) .store 0xC000000000000100 (ks 4 0x100)) ∧
    (∀ p, p ∈ (wk 1 1 M).pend → p.e ≠ (wk 1 1 M).cur) :=
  ⟨fun i hi h => by obtain rfl := only_lane0 i hi h; exact ⟨by decide, ⟨_, rfl⟩, by decide⟩,
   fun i hi h => by obtain rfl := only_lane0 i hi h; exact ⟨by decide, ⟨_, rfl⟩, by decide⟩, by decide⟩

/-- ACAS with the compare value in x3, equal and not. -/
theorem witness_acas : readNat (xs [(3, 0xCCDDEEFF)] M) (ks 4 0x100) = (rx (xs [(3, 0xCCDDEEFF)] M) 3).toNat % 2 ^ (8 * sizeBytes .w) ∧
    readNat M (ks 4 0x100) ≠ (rx M 3).toNat % 2 ^ (8 * sizeBytes .w) := by decide

/-- Segments of every kind of fault: null, a window, no rights, and LIMIT met and passed by one byte. -/
theorem witness_segment_faults :
    (let win : BitVec 128 := 0x00007000000010004000000000000000
     let none_ : BitVec 128 := 0x0000200000001000C000000000000000
     segLimit 0 = 0 ∧ (segLimit win ≠ 0 ∧ tagOf (segBase win) = 1 ∧ AKind.load ≠ .store) ∧
     (tagOf (segBase none_) ≠ 1 ∧ segR none_ = false ∧ segW none_ = false ∧ (segR none_ && segW none_ && segA none_) = false) ∧
     (let noT : BitVec 128 := 0x00006000000010004000000000000000
      tagOf (segBase noT) = 1 ∧ segT noT = false) ∧
     (segLimit win < (0xFFD : Word).toNat + 4 ∧ (AKind.store = .store ∨ tagOf (segBase win) ≠ 1)) ∧
     check R bootSeg0 0x3FFFC 4 4 .load = .ok 0xC00000000003FFFC) := by decide

/-- ADDR and ALIGN: an access whose address cannot be formed, one that is misaligned, one that is not; and a base of each kind. -/
theorem witness_segment_forms :
    (let bad : BitVec 128 := 0x00002B00000400008000000000000100
     segLimit bad ≠ 0 ∧ (0x3FFFF : Word).toNat + 1 ≤ segLimit bad ∧ tagOf (segBase bad) ≠ 1 ∧
       (segR bad && segW bad && segA bad) = true ∧ form R R.cur.site (me R).priv (segBase bad) 0x3FFFF 1 = none) ∧
    (form R R.cur.site (me R).priv (segBase bootSeg0) 0x102 4 = some 0xC000000000000102 ∧
      (0xC000000000000102 : Word).toNat % 4 ≠ 0 ∧ (0xC000000000000102 : Word).toNat % 2 = 0) ∧
    (let b : Word := segBase bootSeg0
     isMesh R R.cur.site b = false ∧ (tagOf b = 2 ∨ tagOf b = 3) ∧ localSite R R.cur.site b = some 0) ∧
    (isMesh R R.cur.site 0 = false ∧ tagOf 0 = 0) ∧ (isMesh R R.cur.site (2 ^ 62) = false ∧ tagOf (2 ^ 62) = 1) ∧
    (isMesh U U.cur.site 0xC000000002000000 = false ∧ fld (0xC000000002000000 : Word) 25 37 ≠ 0) ∧
    localSite R R.cur.site 0xC000000001E00000 = none := by decide

/-- A byte with an older value that plain loads may still find. -/
def Mo : State := { M with olds := [⟨localKey 0 0x100, 7, 0, 2, 0, none, [], false⟩] }
theorem witness_olds : OwnAccess Mo (memSeg Mo ⟨0, 0, 0x100⟩) (memOffset Mo ⟨0, 0, 0x100⟩) 4 4 .load 0xC000000000000100 (ks 4 0x100) ∧
    M.olds = [] ∧ Mo.olds ≠ [] ∧ Ordn.acq ≠ .plain ∧ fenceNames 4 1 ⟨0, 0⟩ ⟨localKey 0 0x100, 7, 0, 2, 0, none, [], false⟩ = true :=
  ⟨⟨by decide, ⟨_, rfl⟩, by decide⟩, by decide, by decide, by decide, by decide⟩

/-- Site 1 through the mesh segment. -/
def far : MemOp := ⟨1, 0, 0x04000100⟩

theorem witness_elsewhere :
    (check R (memSeg R far) (memOffset R far) 4 4 .load = .ok 0xE000000004000100 ∧
      (∃ ord, access 0xE000000004000100 4 false (memSeg R far) R = .ok ⟨.bytes (keysFrom (localKey 1 0x100) 4), ord, R⟩) ∧
      ownTile R (keysFrom (localKey 1 0x100) 4) = false) ∧
    (check R (memSeg R far) (memOffset R far) 4 1 .store = .ok 0xE000000004000100 ∧
      (∃ ord, access 0xE000000004000100 4 true (memSeg R far) R = .ok ⟨.bytes (keysFrom (localKey 1 0x100) 4), ord, R⟩)) ∧
    (let i : Instr := .ld .always .normal .w false .plain 3 far
     (getStrand (modMe (fun t => { t with flight := some (.mem i [⟨0, 0, ks 4 0x100⟩] true 0) }) R) 0).flight =
       some (.mem i [⟨0, 0, ks 4 0x100⟩] true 0)) ∧ (∀ g m, Instr.ld .always .normal .w false .plain 3 far ≠ .tjoin g m) ∧
    (let p : Pend := ⟨⟨0, 0⟩, .st .always .normal .w .plain 2 far, [⟨0, 0, ks 4 0x100⟩], 5, 0, 0, false⟩
     ((([p] : List Pend).filter fun p => p.e == ⟨0, 0⟩)[0]? = some p)) ∧
    (hostDown R = true ∧ hostDown (modPort 0 (fun t => { t with up := true }) R) = false ∧ [hostKey 5].any isHostPa = true ∧
      (ks 4 0x100).any isHostPa = false) ∧
    (let f (s : State) : State :=
       modMe (fun t => { t with flight := some (.mem (.ld .always .normal .w false .plain 3 far) [⟨0, 0, ks 4 0x100⟩] true 0) }) s
     let behind (s : State) : Bool := (drainAll ⟨0, 0⟩ s).pend.any fun p => p.e == ⟨0, 0⟩ && (true || comesFirst ⟨0, 0⟩ (ks 4 0x100) true p)
     behind (f R) = false ∧ behind (f Nh) = true) :=
  ⟨⟨by decide, ⟨_, rfl⟩, by decide⟩, ⟨by decide, ⟨_, rfl⟩⟩, by decide, fun _ _ => by simp, by decide, by decide, by decide⟩

/-- A strand with a store to site 1 not yet performed. -/
def L : State := match exec (.st .always .normal .w .plain 2 far) R with | .next t => t | _ => R

theorem witness_fence : fenceWaits R R.cur .plain 63 4 = false ∧ fenceWaits L L.cur .plain 1 0 = true ∧
    (∃ p, p ∈ L.pend ∧ p.e = L.cur) ∧ (1 : BitVec 6).getLsbD 0 = true ∧
    (let w : Option Wait := some ⟨.fence ⟨0, 0⟩, .fence .always .plain 1 0, 0, 0⟩
     (getStrand (modMe (fun t => { t with wait := w }) L) 0).wait = w ∧
     fenceWaits (modMe (fun t => { t with wait := w }) L) ⟨0, 0⟩ .plain 1 0 = true ∧
     fenceWaits (modMe (fun t => { t with wait := w }) R) ⟨0, 0⟩ .plain 1 0 = false) := by decide

theorem witness_poison : (∀ p, p ∈ ({ R with poison := [localKey 0 0x100] } : State).pend → p.e ≠ R.cur) ∧
    poisonRead { R with poison := [localKey 0 0x100] } (ks 1 0x107) = some (localKey 0 0x100) ∧
    (getTile (modTile 0 (fun t => { t with booth := 1 }) R) 0).booth ≠ 0 := by decide

/-- A landing word, a monitor on line 0x100, and the three ways in which an update may end. -/
theorem witness_counters :
    (∃ a, checkLocal M ⟨0, 0, 0x100⟩ 16 16 .atomic = .ok a ∧
      OwnAccess M (memSeg M ⟨0, 0, 0x100⟩) (memOffset M ⟨0, 0, 0x100⟩) 16 16 .atomic a (ks 16 0x100)) ∧
    (∃ a, checkLocal M ⟨0, 0, 0x13F⟩ 1 1 .load = .ok a ∧
      OwnAccess M (memSeg M ⟨0, 0, 0x13F⟩) (memOffset M ⟨0, 0, 0x13F⟩) 1 1 .load a [localKey 0 0x13F]) ∧
    (let v (target count : Nat) := target + count * 2 ^ 32
     v 0 5 % 2 ^ 32 = 0 ∧ (v 8 5 % 2 ^ 32 ≠ 0 ∧ 5 + 2 < 8) ∧ (v 8 5 % 2 ^ 32 ≠ 0 ∧ 8 ≤ 5 + 3) ∧ v 8 5 < 2 ^ 128) ∧
    (let s := modMe (fun t => { t with mons := t.mons.set 1 ⟨some (localKey 0 0x100), false⟩ }) R
     (lookup s.strands 0).isSome = true ∧ ((getStrand s 0).mons.get 1).line = some (localKey 0 0x100) ∧ touchedBits (me s) = 0 ∧
       isLocalKey (localKey 0 0x13F) = true ∧ localKey 0 0x13F / 64 * 64 = localKey 0 0x100) ∧
    (let s := modMe (fun t => { t with flight := some (.mwait (.mwait .always 3 (.x 4)) 2) }) R
     (getStrand s 0).run = .run ∧ (getStrand s 0).flight = some (.mwait (.mwait .always 3 (.x 4)) 2)) ∧
    touchedBits (me (modMe (fun t => { t with mons := t.mons.set 1 ⟨some (localKey 0 0x100), true⟩ }) R)) ≠ 0 ∧
    (let w (n : Nat) : State := modMe (fun t => { t with run := .waitm, wait := some ⟨.mons, .mwait .always 3 (.x 4), 0, n⟩ }) R
     (getStrand (w 0) 0).wait = some ⟨.mons, .mwait .always 3 (.x 4), 0, 0⟩ ∧ (getStrand (w 0) 0).run = .waitm ∧
     (let s := modTile 0 (fun t => { t with cycle := 9 }) (w 9)
      (getStrand s 0).wait = some ⟨.mons, .mwait .always 3 (.x 4), 0, 9⟩ ∧ 9 ≤ (getTile s 0).cycle) ∧
     ((getTile (w 9) 0).cycle < 9 ∧ 9 % 2 ^ 64 ≠ (getTile (w 9) 0).cycle) ∧
     (let s := modTile 0 (fun t => { t with cycle := 1 }) (w (2 ^ 64 + 1))
      (getStrand s 0).wait = some ⟨.mons, .mwait .always 3 (.x 4), 0, 2 ^ 64 + 1⟩ ∧ (2 ^ 64 + 1) % 2 ^ 64 = (getTile s 0).cycle)) :=
  ⟨⟨0xC000000000000100, by decide, by decide, ⟨_, rfl⟩, by decide⟩, ⟨0xC00000000000013F, by decide, by decide, ⟨_, rfl⟩, by decide⟩, by decide⟩

/-! Classes 8 and 9. -/

/-- A full queue; a STOP at the head; an entry pushed by strand 0, which waits to push another. -/
def Qfull : State := modQueue 0 (fun q => { q with cap := 1 }) P
def Qmark : State := push 0 .stop (natBytes 8 0) .loader 0 Q

theorem witness_queue_instructions :
    useFail Q Q.cur false (regHandle Q 10) = none ∧ (pushReady Q 0 .data (.strand 0) (myTile Q).booth).1 = true ∧
    (useFail Qfull Qfull.cur false (regHandle Qfull 10) = none ∧ (pushReady Qfull 0 .data (.strand 0) (myTile Qfull).booth).1 = false ∧
      (pushReady Qfull 0 .bell (.strand 0) (myTile Qfull).booth).1 = false) ∧
    useFail Q Q.cur true (regHandle Q 10) = none ∧ mayPop Q 0 (skey Q.cur) = false ∧
    (useFail P P.cur true (regHandle P 10) = none ∧ mayPop P 0 (skey P.cur) = true ∧
      poisonRead P (ringKeys (getQueue P 0) (getQueue P 0).head) = none ∧ (headEntry P (getQueue P 0)).1 = .data ∧
      (let t := wTry (some 2) true (wx 0 (kindWord .data (headEntry P (getQueue P 0)).2) (writeEntry (.x 3) (headEntry P (getQueue P 0)).2 (pop 0 P).2))
       edgeOf t (boothOf t t.cur.site) = none)) ∧
    (mayPop Qmark 0 (skey Qmark.cur) = true ∧ poisonRead Qmark (ringKeys (getQueue Qmark 0) (getQueue Qmark 0).head) = none ∧
      (headEntry Qmark (getQueue Qmark 0)).1 ≠ .data) ∧
    ((pushReady Q 0 .bell (.strand 0) (myTile Q).booth).1 = true ∧
      (let t := push 0 .bell (natBytes 4 (rxo Q (.x 0)).toNat) (.strand 0) (myTile Q).booth Q
       edgeOf t (boothOf t t.cur.site) = none)) ∧
    (clusterFail Q (regHandle Q 10) = none ∧ (getQueue Q 0).mcast = false ∧ (getQueue Q 0).head = (getQueue Q 0).commit) ∧
    ((getQueue P 0).head ≠ (getQueue P 0).commit ∧ (getQueue P 0).head < (getQueue P 0).tail - (getQueue P 0).spilled) ∧
    (let s := modMe (fun t => { t with flight := some (.push 0 7) }) P
     (getStrand s 0).flight = some (.push 0 7) ∧ oqBind (asStrand ⟨0, 0⟩ s) 0 = some ⟨0x10001, 0⟩ ∧
       (pushReady (asStrand ⟨0, 0⟩ s) 1 .data (.strand 0) (getTile s 0).booth).1 = true) ∧
    (regHandle Q 3 = 0 ∧ regHandle Q 10 ≠ 0 ∧ vecOk ((rxo Q (.imm 0x3FFF4)).extractLsb' 0 32) = true ∧
      vecOk ((rxo Q (.imm (-1))).extractLsb' 0 32) = true) ∧
    handleFail Q (myTile Q).job (regHandle Q 2) = some .handle := by decide

/-- A poisoned head; a marker through oq0; a QPUSH.REL with and without a store that waits for a link. -/
theorem witness_queue_forms :
    (let s : State := { P with poison := [localKey 0 0x1000] }
     useFail s s.cur true (regHandle s 10) = none ∧ mayPop s 0 (skey s.cur) = true ∧
       poisonRead s (ringKeys (getQueue s 0) (getQueue s 0).head) = some (localKey 0 0x1000) ∧ (headEntry s (getQueue s 0)).1 = .data) ∧
    ((portFail R [] [0]).isSome = true ∧ portFail P [] [0] = none ∧ oqKey P 0 = 1 ∧
      (pushReady P 1 .bell (.strand 0) (myTile P).booth).1 = true ∧
      (let t := push 1 .bell (natBytes 4 (rxo P (.x 0)).toNat) (.strand 0) (myTile P).booth P
       edgeOf t (boothOf t t.cur.site) = none) ∧
      (let s := modQueue 1 (fun q => { q with cap := 0 }) P
       portFail s [] [0] = none ∧ (pushReady s 1 .bell (.strand 0) (myTile s).booth).1 = false)) ∧
    (let s : State := { Q with pend := [hostStore] }
     useFail s s.cur false (regHandle s 10) = none ∧ unperformed (drainAll s.cur s) s.cur = true ∧
       unperformed (drainAll Q.cur Q) Q.cur = false) := by decide

theorem witness_push_pop : MemInv Q ∧ (getQueue Q 0).mcast = false ∧ (getQueue Q 0).twin = false ∧ 0 < (getQueue Q 0).slots ∧
    inRing (getQueue Q 0) (getQueue Q 0).tail = true ∧ (getQueue Q 0).spilled = 0 ∧ QKind.data ≠ .bell ∧ Pusher.loader.key = none ∧ (Pusher.strand 0).key ≠ none := by
  unfold MemInv; decide

/-- A grant of queue index 5, and at 0x200 a descriptor of an ordinary queue and at 0x240 one of a head over queue 0. -/
def D : State := writeNat (ks 64 0x240) (2 ^ 9 + 4 * 2 ^ 16 + 4 * 2 ^ 33 + 2 ^ 50 + 2 ^ 256)
  (writeNat (ks 32 0x200) (4 * 2 ^ 16 + 4 * 2 ^ 33 + 2 ^ 50 + 0xC000000000003000 * 2 ^ 64) (modJob 0 (fun j => { j with queues := [(5, 0)] }) Q))

theorem witness_qdef : D.pend = [] ∧ checkLocal D ⟨0, 0, 0x200⟩ 32 32 .load = .ok 0xC000000000000200 ∧
    (BitVec.ofNat 256 (readNat D (localKeys D 0xC000000000000200 32))).getLsbD 9 = false ∧
    poisonRead D (localKeys D 0xC000000000000200 32) = none ∧
    (QDesc.ofBits (BitVec.ofNat 512 (readNat D (localKeys D 0xC000000000000200 32)))).reason (releaseKilled D) = 0 ∧
    (QDesc.ofBits (BitVec.ofNat 512 (readNat D (localKeys D 0xC000000000000200 32)))).mcast = false ∧
    (QDesc.ofBits (BitVec.ofNat 512 (readNat Q (localKeys Q 0xC000000000000200 32)))).reason (releaseKilled Q) ≠ 0 ∧
    (checkLocal D ⟨0, 0, 0x240⟩ 32 32 .load = .ok 0xC000000000000240 ∧
      (BitVec.ofNat 256 (readNat D (localKeys D 0xC000000000000240 32))).getLsbD 9 = true ∧
      checkLocal D ⟨0, 0, 0x240⟩ 64 32 .load = .ok 0xC000000000000240 ∧
      poisonRead D (localKeys D 0xC000000000000240 64) = none ∧
      (QDesc.ofBits (BitVec.ofNat 512 (readNat D (localKeys D 0xC000000000000240 64)))).reason (releaseKilled D) = 0) := by decide

/-- A push of strand 1 that waits for queue 0, and booth 1 of job 0 at an ordinary edge. -/
def Wq : State := modStrand 1 (fun t => { (xSet 10 1 t) with
  run := .waitq, wait := some ⟨.queue 0 [], .qpush .always none true 10 (.x 2), 0, 0⟩ }) Q
def E : State := modTile 0 (fun t => { t with booth := 1 }) (modBooth 1 (fun b => { b with tiles := [0] })
  (modQueue 1 (fun q => { q with pbooth := 1, marks := [.bell] }) (modQueue 0 (fun q => { q with cbooth := 1, inSt := .belled }) Q)))

theorem witness_queue_events :
    (clusterFail Q (regHandle Q 2) = some .handle ∧ clusterFail Q (regHandle Q 10) = none ∧ (getQueue Q 0).branch = false ∧
      (getQueue (modQueue 0 (fun q => { q with branch := true }) Q) 0).branch = true) ∧
    ((getQueue Q 0).owed = [] ∧ (getQueue Q 0).st ≠ .killed ∧ queueWaiters 0 Q = []) ∧
    ((getQueue Wq 0).owed = [] ∧ (getQueue Wq 0).st ≠ .killed ∧ queueWaiters 0 Wq = [⟨0, 1⟩] ∧
      (getStrand Wq (skey ⟨0, 1⟩)).wait = some ⟨.queue 0 [], .qpush .always none true 10 (.x 2), 0, 0⟩ ∧
      (let s1 := modMe (fun t => { t with run := .run, readyAt := (getTile Wq 0).cycle + 1 }) (asStrand ⟨0, 1⟩ Wq)
       let u := drainAll s1.cur s1
       let q := qkeyOf (regHandle s1 10)
       unperformed u u.cur = false ∧ guardVal .always s1 = true ∧ useFail s1 s1.cur false (regHandle s1 10) = none ∧
       (pushReady u q .data (.strand (skey u.cur)) (myTile u).booth).1 = true)) ∧
    (roleHeld Q (qcluster 0 / 8) 1 = false ∧ (getQueue Q 0).st ≠ .held ∧ (let s := modQueue 0 (fun q => { q with st := .held }) P
      (getQueue s 0).st = .held ∧ roleHeld s (qcluster 0 / 8) 1 = false ∧ (getJob s (getQueue s 0).job).frozen = false ∧
        (getQueue s 0).spilled = 0)) ∧
    (edgeOf Q 1 = none ∧ edgeOf E 1 = some .ordinary ∧ (∀ p, p ∈ E.queues → p.2.owed = []) ∧
      isInput 1 (getQueue E 0) = true ∧ isOutA 1 (getQueue E 1) = true ∧ (getQueue E 1).twin = false) := by decide

theorem witness_twins :
    (let t (k : QKind) (b : List Byte) : State := modQueue 0 (fun q => { q with
       twin := true, twinA := [(.data, 0, natBytes 8 1)], twinB := [(k, 1, b)] }) Q
     let s := t .data (natBytes 8 1)
     (getQueue s 0).st = .open_ ∧ (getQueue s 0).twin = true ∧ holds 0 .loader s = none ∧
     inRing (getQueue s 0) (getQueue s 0).tail = true ∧ (getQueue s 0).spilled = 0 ∧ 0 < (getQueue s 0).slots ∧ MemInv s ∧
     (natBytes 8 1).length = entryBytes (getQueue s 0) ∧ natBytes 8 1 ≠ natBytes 8 2 ∧ QKind.data ≠ .bell ∧
     (getQueue (t .data (natBytes 8 2)) 0).twinB = [(.data, 1, natBytes 8 2)] ∧
     (getQueue (t .bell (natBytes 8 1)) 0).twinB = [(.bell, 1, natBytes 8 1)]) := by unfold MemInv; decide

/-- Ready queues with a record of priority 2 in slot 0, one of 3 in slot 1 after 63 pops, one HELD, and one whose ring is not
full but whose spill area holds a record and is full. -/
def T2 : State := modTile 0 (fun t => { t with rq := t.rq.set 2 [0] }) (writeNat (readyKeys 0 0) 0x200 R)
def T3 : State := modTile 0 (fun t => { t with rq := (t.rq.set 2 [0]).set 3 [1], guard := 63 }) (writeNat (readyKeys 0 1) 0x300 R)
def Theld : State := modTile 0 (fun t => { t with rqHeld := true }) R
def Tfull : State := modTile 0 (fun t => { t with rqSpillKib := 0, rqSpill := t.rqSpill.set 2 (0, 1) }) R
/-- A strand in task mode. -/
def Task (s : State) : State := modMe (fun t => { t with task := true }) s
def popped (s : State) : Option (Nat × BitVec 128) := (popReady s).1.map fun r => (r.prio, r.rec_)

theorem witness_tasks :
    (MemInv R ∧ (getTile Theld 0).rqHeld = true ∧ (getTile R 0).rqHeld = false ∧ readyLocal (getTile R 0) < 512 ∧
      spillHeld (getTile R 0) 2 = 0) ∧
    (popPrio (myTile T2) = some 2 ∧ readySlots (myTile T2) 2 = 0 :: [] ∧ (∀ q, q < 4 → spillHeld (myTile T2) q = 0) ∧
      popPrio (myTile T3) = some 3 ∧ popped T2 = some (2, 0x200) ∧ popped T3 = some (3, 0x300)) ∧
    (targetOk (rx R 1) = false ∧ targetOk (rx R 2) = true ∧ R.pend = [] ∧ readyWaiters 0 R = [] ∧
      (appendReady 0 2 0x200 R).1 = true ∧ (appendReady 0 2 0x200 Theld).1 = false ∧ (appendReady 0 2 0x200 Tfull).1 = false ∧
      Tfull.pend = [] ∧ readyWaiters 0 Tfull = []) ∧
    ((me R).task = false ∧ (me H).handler = true ∧ (me (Task R)).task = true ∧ (me (Task R)).handler = false ∧
      readyWaiters 0 (Task R) = [] ∧ asyncDue (Task R) = false ∧ popped (Task R) = none ∧ (popped (Task T2)).isSome = true ∧
      asyncDue (modMe (fun t => { t with wakeDue := true }) (Task T2)) = true ∧ (popPrio (myTile (Task T2))).isSome = true) ∧
    (recBad 0x200 = false ∧ Quiet (me R) ∧ isLocalKey (localKey 0 0x3E000) = true) ∧
    (let s (n : Nat) := Task (writeNat (ks 8 0x100) n R)
     MemInv (s 1) ∧ (s 1).pend = [] ∧
     checkLocal (s 1) ⟨0, 0, 0x100⟩ 8 8 .atomic = .ok 0xC000000000000100 ∧ localKeys (s 1) 0xC000000000000100 8 = ks 8 0x100 ∧
     ownTile (s 1) (ks 8 0x100) = true ∧ poisonRead (s 1) (ks 8 0x100) = none ∧ readNat (s 1) (ks 8 0x100) = 1 ∧
     readNat (s 0) (ks 8 0x100) ≠ 1 ∧ readyWaiters 0 (s 0) = []) := by unfold Quiet MemInv; decide

/-- Sites 0 and 1 in one booth; nine records of priority 2 at site 0 and a snapshot of 0 from the east. -/
def B2 : State := modTile 1 (fun t => { t with booth := 1 }) (modTile 0 (fun t => { t with
  booth := 1, rq := t.rq.set 2 [0, 1, 2, 3, 4, 5, 6, 7, 8], snaps := t.snaps.set 1 (some 0) }) R)

theorem witness_task_events :
    (let s := modStrand 1 (fun t => { t with run := .waitq, wait := some ⟨.ready, .tnext .always none, 0, 0⟩ }) T2
     readyWaiters 0 s = [⟨0, 1⟩] ∧ popWaits (asStrand ⟨0, 1⟩ s) = false ∧ (popped (asStrand ⟨0, 1⟩ s)).isSome = true) ∧
    (roleHeld R (dieOf 0) 1 = false ∧ roleHeld Theld (dieOf 0) 1 = false) ∧
    (getTile R 0).rqHeld = false ∧ ((getTile Theld 0).rqHeld = true ∧ (getTile Theld 0).rqKept = [] ∧ spawnWaiters 0 Theld = [] ∧
      readyWaiters 0 Theld = [] ∧ (getJob Theld (getTile Theld 0).job).frozen = false ∧
      (∀ p, p < 4 → spillHeld (getTile Theld 0) p = 0) ∧ 0 < max (getTile Theld 0).rqSpillKib (min 1024 64)) ∧
    ((getTile R 0).snaps = Vector.replicate 4 none ∧ neighbour (modTile 0 (fun t => { t with snaps := Vector.replicate 4 none }) B2) 0 1 = some 1) ∧
    (neighbour B2 0 1 = some 1 ∧ (getTile B2 0).snaps.toList.getD 1 none = some 0 ∧ 9 ≤ migratable (getTile B2 0) ∧
      ∀ p, p < 4 → spillHeld (getTile B2 0) p = 0) ∧
    ((getTile B2 1).booth ≠ 0 ∧ boothOf B2 1 = boothOf B2 0 ∧ (appendReady 1 2 4 B2).1 = true ∧
      (appendReady 1 2 4 (modTile 1 (fun t => { t with rqHeld := true }) B2)).1 = false) ∧
    (¬((getTile R 1).booth ≠ 0 ∧ boothOf R 1 = boothOf R 0) ∧ (appendReady 0 2 4 R).1 = true) ∧
    (R.moved.find? (·.1 == ⟨1, 0, 2, 4⟩) = none ∧
      ({ R with moved := [(⟨1, 0, 2, 4⟩, [true])] } : State).moved.find? (·.1 == ⟨1, 0, 2, 4⟩) = some (⟨1, 0, 2, 4⟩, [true])) := by decide

/-- Future 5 of cluster 0, EMPTY, set, poisoned, awaited, at its last generation; its handle is 5. -/
def Fu (st : FState) (awaited : Bool) (gen : Nat) : State :=
  xs [(1, 5), (3, BitVec.ofNat 64 (5 + 2 ^ 16 * gen))] (setFuture R 5 ⟨7, st, gen, 0, 0, 0, awaited, false, 0⟩)

theorem witness_futures :
    (let ok (s : State) (a : XReg) : Prop :=
       (getFuture s (futKey ((rx s a).extractLsb' 0 32))).gen = futGen ((rx s a).extractLsb' 0 32) ∧
         (getFuture s (futKey ((rx s a).extractLsb' 0 32))).job = (myTile s).job
     ok (Fu .empty false 0) 3 ∧ ok (Fu .full false 2047) 3 ∧ ¬ok (Fu .full false 1) 1 ∧ (Fu .empty false 0).pend = [] ∧
     (getFuture (Fu .empty false 0) 5).st = .empty ∧ (getFuture (Fu .empty true 0) 5).wany = true ∧
     (getFuture (Fu .empty false 0) 5).wany = false ∧
     (let s := Task (Fu .empty false 0)
      ok s 1 ∧ (me s).task = true ∧ (me s).handler = false ∧ freeNode s (fld ((rx s 1).extractLsb' 0 32) 27 5) = some 0 ∧
        readyWaiters 0 s = []) ∧
     ((me (Fu .full false 0)).task = false ∧ (me (Task (Fu .full false 0))).task = true ∧ (me (Task (Fu .full false 0))).handler = false) ∧
     (getFuture (Fu .full false 0) 5).st = .full ∧ (getFuture (Fu .poison false 0) 5).st = .poison ∧
     (getFuture (Fu .free false 0) 5).st = .free) ∧
    (freeList R 0 0 = [] ∧ freeList (setFree 0 0 [5, 6] R) 0 0 = [5, 6]) ∧
    ((⟨0, 0, 0, 0, false⟩ : Node).nv = false ∧ freeNode R 31 = some 0) ∧
    ((getFuture (Fu .full false 0) 5).gen ≠ 2047 ∧ (getFuture (Fu .full false 2047) 5).gen = 2047) ∧
    (let q : State := setFuture R 5 ⟨0, .free, 0, 1, 0, 0, false, true, 0⟩
     (getFuture R 5).quar = false ∧ (getFuture q 5).quar = true ∧ q.devtime.toNat < 0 + 2 ^ 30 ∧
     (let s : State := { q with devtime := 2 ^ 30 }
      (getFuture s 5).quar = true ∧ (getFuture s 5).since + 2 ^ 30 ≤ s.devtime.toNat ∧ (getJob s 1).frozen = false ∧ (getFuture s 5).job ≠ 0)) ∧
    (let s := modMe (fun t => { t with wait := some ⟨.node 5, .fget .always false 4 3 6, 0, 0⟩ }) (Fu .full false 0)
     nodeWaiters 0 s = [⟨0, 0⟩] ∧ (getStrand s 0).wait = some ⟨.node 5, .fget .always false 4 3 6, 0, 0⟩ ∧
     (let u := modMe (fun t => { t with run := .run, readyAt := (getTile s 0).cycle + 1 }) (asStrand ⟨0, 0⟩ s)
      (getFuture u (futKey ((rx u 3).extractLsb' 0 32))).gen = futGen ((rx u 3).extractLsb' 0 32) ∧
        (getFuture u (futKey ((rx u 3).extractLsb' 0 32))).job = (myTile u).job ∧ (getFuture u (futKey ((rx u 3).extractLsb' 0 32))).st = .full)) := by decide

/-- A pool of cluster 0 with no free node: FGET waits for one. -/
theorem witness_full_pool : firstFree [(0, (⟨0, 0, 0, 0, false⟩ : Node)), (1, ⟨0, 0, 0, 0, false⟩)] 0 2 0 = none := by decide

/-! Classes B, C and E. -/

theorem witness_vectors : guardVal .always R = true ∧ (Fmt.f16.isFloat = true ∧ Fmt.i8.isInt = true) ∧ (1 : KReg) ≠ 0 ∧
    ¬(RedOp.sum = .sum ∧ Fmt.f32.isInt = true) ∧ (1 : XReg) ≠ 0 ∧ 512 / Fmt.f16.width = 512 / Fmt.bf16.width ∧
    512 / Fmt.f32.width < 512 / Fmt.f16.width ∧ 512 / Fmt.f16.width < 512 / Fmt.e4.width ∧ Fmt.e4.width = 8 ∧
    0 < 512 / Fmt.f16.width / 24 ∧ (127 : Nat) / 32 = (3 : Fin 4).val := by decide

/-- A cellar descriptor at SRC0 = DST = `a` with M rows, 128 columns and BF16 throughout. -/
def cellarDesc (a m : Nat) : Nat := a + a * 2 ^ 128 + m * 2 ^ 192 + 128 * 2 ^ 208 + 2 ^ 224 + 2 ^ 228
def K (n : Nat) : State := writeNat (ks 32 0x200) (cellarDesc 0x1FE000 n) R
def cellarCmd (n : Nat) : CellarCmd :=
  ⟨.ncvt .always .normal 0 ⟨0, 0, 0x200⟩, ⟨0, 0⟩, BitVec.ofNat 256 (cellarDesc 0x1FE000 n), 0xC000000000000200, 0, 0, 0, 0⟩
/-- Unit 0 with that command, changed by `f`; one with its operands in a page of 2 MiB that job 0 has at VA 0x200000. -/
def Ke (c : CellarCmd) (f : Cellar → Cellar) (s : State) : State := modCellar 0 (fun q => f { q with queue := [c] }) s
def mappedC : CellarCmd := { cellarCmd 64 with desc := BitVec.ofNat 256 (cellarDesc 0x200000 64) }
def Km : State := (mapRoots 0 [(0x200000, 21, 0x200000 + 0xD7)] [(0, 0x8000)] [0x10000, 0x18000, 0x20000, 0x28000] R).getD R
/-- The same with unit 0's queue full. -/
def Kfull : State := modCellar 0 (fun q => { q with queue := List.replicate 64 (cellarCmd 0) }) (K 64)

theorem witness_cellar :
    (checkLocal (K 64) ⟨0, 0, 0x200⟩ 32 32 .load = .ok 0xC000000000000200 ∧ (K 64).pend = [] ∧ guardVal .always (K 64) = true ∧
      doneFail (K 64) 0 = none ∧ (doneFail (K 64) 2).isSome = true ∧ poisonRead (K 64) (localKeys (K 64) 0xC000000000000200 32) = none ∧
      cellarRoom (K 64) 0 = true ∧ (∀ p, p ∈ (K 64).strands → p.2.wait = none)) ∧
    (cellarUnit Kfull 0 0 (cdSrc0 (BitVec.ofNat 256 (readNat Kfull (localKeys Kfull 0xC000000000000200 32)))) = 0 ∧
      cellarRoom Kfull 0 = false) ∧
    (let s := Ke (cellarCmd 0) id R
     (getCellar s 0).queue = [cellarCmd 0] ∧ (getCellar s 0).entry = none ∧ (getCellar s 0).lines = [] ∧ (getCellar s 0).pas = none ∧
       (getJob s 0).frozen = false ∧ cellarCheck 0 (cellarCmd 0) s = (.inl (11, 0xC000000000000200), s)) ∧
    ((getCellar (Ke (cellarCmd 64) (fun q => { q with entry := some (0, 0) }) R) 0).entry.isSome = true ∧
      (getCellar (Ke (cellarCmd 64) (fun q => { q with lines := [⟨0x40, 0x40, 1, false⟩] }) R) 0).lines ≠ [] ∧
      (getJob (modJob 0 (fun j => { j with frozen := true }) (Ke (cellarCmd 64) id R)) 0).frozen = true) ∧
    (match cellarCheck 0 mappedC (Ke mappedC id Km) with
      | (.inr pas, _) => pas == [0x200000, 0x200000] && !cellarHole mappedC pas
      | _ => false) = true ∧
    (let s (n : Nat) (b : Option Word) : State := Ke mappedC (fun q => { q with pas := some [0x200000, 0x200000], pos := n, bad := b }) Km
     cdFmts mappedC.desc = some (.bf16, .bf16) ∧ Rnd.ofCode (cdRnd mappedC.desc) = some .rne ∧
       (getCellar (s 0 none) 0).pas = some [0x200000, 0x200000] ∧ (getCellar (s 0 none) 0).pos < cdM mappedC.desc * cdN mappedC.desc ∧
       cdM mappedC.desc * cdN mappedC.desc ≤ (getCellar (s 8192 none) 0).pos ∧ (getCellar (s 8192 none) 0).bad = none ∧
       (getCellar (s 8192 (some 5)) 0).bad = some 5) ∧
    (cdM (cellarCmd 0).desc = 0 ∧ cdFmts (cellarCmd 64).desc = some (.bf16, .bf16) ∧ cellarStep1 (cellarCmd 64) = none ∧
      ((cellarOperands .cvt (cellarCmd 64).desc .bf16 .bf16).find?
        fun o => o.1.toNat / 2 ^ 21 != (o.1.toNat + o.2 - 1) / 2 ^ 21).isSome = true) ∧
    (stripedOff 32 4 0 31 + 4 ≤ stripedExtent 1 32 4 ∧ stripedOff 128 2 63 127 + 2 ≤ stripedExtent 64 128 2) := by
  refine ⟨by decide, by decide, ⟨by decide, by decide, by decide, by decide, by decide, rfl⟩, by decide, by decide, by decide, by decide,
    by decide⟩

theorem witness_cellar_lines : MemInv (Ke (cellarCmd 64) (fun q => { q with lines := [⟨0x40, 0x40, 1, false⟩] }) R) := by
  unfold MemInv; decide

/-- Strands that wait for each kind of engine, with room and without. -/
theorem witness_acceptance :
    (let w (s : State) : State := modMe (fun t => { t with run := .waitq, wait := some ⟨.accept 0 (cellarCmd 64), (cellarCmd 64).instr, 0, 0⟩ }) s
     (getStrand (w R) 0).wait = some ⟨.accept 0 (cellarCmd 64), (cellarCmd 64).instr, 0, 0⟩ ∧ cellarRoom (w R) 0 = true ∧
       cellarRoom (w Kfull) 0 = false) := by decide

/-- A loom command of strand 0 of site 0, and a loom of yard 0 whose tile queue 0 holds it. -/
def lc (i : Instr) (v : Word) : LoomCmd :=
  ⟨i, ⟨0, 0⟩, none, 0, 0, true, 0, 0, [], v, 0, 1, false, false, 0, 0, false, false, 0, 0, [], none, none⟩
def Lq (c : LoomCmd) : State := modLoom 0 (fun l => { l with queues := [(0, [c])] }) R
def desc64 (s : State) : List Nat := localKeys s 0xC000000000000100 64

theorem witness_loom_accept :
    R.pend = [] ∧ loomRoom R R.cur.site = true ∧ (∀ k, k < 8 → (getStrand R (8 * R.cur.site + k)).flight = none) ∧
    fld (rxo R (.imm 0x11)) 11 53 = 0 ∧ (LCtx.ofWord (rxo R (.imm 0x11))).isSome = true ∧ fld (rxo R (.imm 0x811)) 11 53 ≠ 0 ∧
    checkLocal R ⟨0, 0, 0x100⟩ 64 64 .load = .ok 0xC000000000000100 ∧ desc64 R ≠ [] ∧ ownTile R (desc64 R) = true ∧
    doneFail R 0 = none ∧ poisonRead R (desc64 R) = none ∧ (me R).priv = true ∧
    (¬((me U).priv = true ∨ ((myTile U).booth ≠ 0 ∧
      (getBlock U (yardOf U.cur.site) 63).booth = some ((myTile U).job, (myTile U).booth)))) ∧
    checkLocal R ⟨0, 0, 0x3FB80⟩ 1088 64 .store = .ok 0xC00000000003FB80 ∧ (me U).priv = false ∧
    minjOk (rx (xs [(1, 0x1F3F3F023F)] R) 1) = true := by decide

/-- An open integer block of zeros, and one whose first row lane disagrees. -/
def Z : Block := zeroedBlock true Block.empty
def Z1 : Block := { Z with pr := [1] }
def withBlock (b : Block) : State := modBlock 0 1 (fun _ => b) R

theorem witness_loom_turns :
    (let cfg : Instr := .mcfg .always (.imm 0x11)
     let c := lc cfg 0x11
     (getIsland (Lq c) 0).powered = true ∧ (getIsland (Lq c) 0).paused = false ∧ loomPick (Lq c) (getLoom (Lq c) 0) = some (0, c) ∧
       c.fclass = none ∧ c.instr = cfg) ∧
    (let i : Instr := .mstat .always 1 3 (.imm 1)
     let c := lc i 1
     let s := modMe (fun t => { t with flight := some (.loom i) }) (Lq c)
     loomPick s (getLoom s 0) = some (0, c) ∧ (getStrand s (skey c.e)).flight = some (.loom c.instr)) ∧
    loomPick R (getLoom R 0) = none ∧
    (let c := lc (.mretry .always 0 (.imm 1)) 1
     let s := modLoom 0 (fun l => { l with pushing := [(0, 0, 1)] }) (Lq c)
     tget [] (getLoom s 0).queues 0 = [c] ∧ tget [] (getLoom s 0).lines 0 = [] ∧
       (getLoom s 0).pushing.find? (fun p => p.1 == 0) = some (0, 0, 1) ∧
       tget [] (getLoom (modLoom 0 (fun l => { l with lines := [(0, [⟨0, 0, 1, false⟩])] }) s) 0).lines 0 ≠ []) ∧
    mayName R 0 (lc (.mzero .always true true (.imm 1)) 1) 1 = true ∧
    (let u : LoomCmd := { lc (.mzero .always true true (.imm 1)) 1 with priv := false, job := 5, booth := 1 }
     mayName R 0 u 1 = false ∧ mayName (modBlock 0 1 (fun b => { b with booth := some (5, 1) }) R) 0 u 1 = true) ∧
    (let c : LoomCmd := { lc (.mdrain .always 3 ⟨0, 0, 0x100⟩) 1 with sub := 2 }
     let s := modLoom 0 (fun l => { l with lines := [(0, [⟨0, 0, 1, false⟩])] }) (Lq c)
     tget [] (getLoom s 0).queues 0 = [c] ∧ tget [] (getLoom s 0).lines 0 = ⟨0, 0, 1, false⟩ :: [] ∧ lineStop s [⟨0, 0, 1, false⟩] = none ∧
       drainFormed c = true ∧ c.stalled = false ∧ c.fclass = none ∧ tget [] (getLoom (Lq c) 0).lines 0 = [] ∧
       (getLoom (Lq c) 0).pushing.find? (fun p => p.1 == 0) = none) ∧
    (let b (st : BState) : State := withBlock { Z with st := st }
     (getBlock (b .empty) 0 1).st = .empty ∧ (getBlock (b .failed) 0 1).st = .failed ∧ (getBlock (b .poisoned) 0 1).st = .poisoned ∧
       (getBlock (b .clean) 0 1).st = .clean ∧ (getBlock (b .mismatch) 0 1).st = .mismatch) ∧ (getBlock (withBlock Z) 0 1).st = .open_ ∧
    (getBlock (withBlock Z) 0 1).record = none ∧
    ((List.replicate 64 ([] : List Ex)).length = 64 ∧ (List.replicate 64 ([] : List (Nat × Ex))).length = 64) := by decide

theorem zero_lines (b : Block) (hc : b.cells = []) (n : Nat) : rowOf b n = List.replicate 64 0 ∧ colOf b n = List.replicate 64 0 := by
  have h : cellAt b = fun _ _ => 0 := by funext i j; simp [cellAt, hc]
  simp only [rowOf, colOf, h]
  rw [List.map_const', List.length_range]; exact ⟨rfl, rfl⟩
theorem zero_sum : actual true (List.replicate 64 0) = 0 := by decide
theorem assay_zero (b : Block) (hc : b.cells = []) (hi : b.int = true) (t : Word) : assay t b =
    (maskOf fun i => ((List.range 64).map fun i => 0 != b.pr.getD i 0).getD i false,
     maskOf fun i => ((List.range 64).map fun i => 0 != b.pc.getD i 0).getD i false, false) := by
  simp only [assay, zero_lines b hc, hi, zero_sum, compareLane, if_true, List.map_map, Function.comp_def]
  simp

theorem witness_mchk : ((assay (tolFor [] Z) Z).1 = 0 ∧ (assay (tolFor [] Z) Z).2.1 = 0) ∧
    ¬((assay (tolFor [] Z1) Z1).1 = 0 ∧ (assay (tolFor [] Z1) Z1).2.1 = 0) := by
  rw [assay_zero Z rfl rfl, assay_zero Z1 rfl rfl]; decide

theorem witness_flipped : Z.int = true ∧ (∀ n, n < 64 → actual true (rowOf Z n) = Z.pr.getD n 0 ∧
    actual true (colOf Z n) = Z.pc.getD n 0) ∧ (9 : BitVec 32) ≠ cellAt Z 63 0 := by
  refine ⟨rfl, fun n _ => ?_, by decide⟩
  rw [(zero_lines Z rfl n).1, (zero_lines Z rfl n).2, zero_sum]; simp [Z, zeroedBlock, Block.empty]

/-! Class D. -/

/-- A descriptor that moves or fills 4 bytes at 0x1FC, the last of a line, from 0x2FC; one with a reserved bit. -/
def carterDesc : BitVec 512 := BitVec.ofNat 512 (0xC0000000000002FC + 0xC0000000000001FC * 2 ^ 64 + 4 * 2 ^ 128 +
  2 ^ 160 + 2 ^ 176 + 2 ^ 192)
def copyC : CarterCmd :=
  ⟨.ccopy .always .normal false false false 0 ⟨0, 0, 0x100⟩, ⟨0, 0⟩, carterDesc, 0xC000000000000100, 0, 0, 0, true, 1, 2, 0⟩
def fillC : CarterCmd := { copyC with instr := .cfill .always .normal false 0 ⟨0, 0, 0x100⟩ }
def badC : CarterCmd := { copyC with desc := carterDesc ||| BitVec.ofNat 512 (2 ^ 439) }
def followC : CarterCmd := { copyC with instr := .ccopy .always .normal false false true 0 ⟨0, 0, 0x100⟩ }
def Cq (c : CarterCmd) : State := modCarter 0 (fun q => { q with queue := [c] }) R
def Cdone (c : CarterCmd) (cls : Nat) : State := modCarter 0 (fun q => { q with cls := some (cls, 5) }) (Cq c)
def Cfull : State := modCarter 0 (fun q => { q with queue := List.replicate 32 copyC }) R

theorem witness_carter_accept :
    R.pend = [] ∧ carterRoom R 0 = true ∧ (∀ p, p ∈ R.strands → p.2.flight = none) ∧ carterRoom Cfull 0 = false ∧
    checkLocal Cfull ⟨0, 0, 0x100⟩ 64 64 .load = .ok 0xC000000000000100 ∧ desc64 Cfull ≠ [] ∧ ownTile Cfull (desc64 Cfull) = true ∧
    doneFail Cfull 0 = none ∧ poisonRead Cfull (desc64 Cfull) = none ∧
    (checkLocal R far 64 64 .load = .ok 0xE000000004000100 ∧ ownTile R (localKeys R 0xE000000004000100 64) = false) := by decide

theorem witness_carter_lines : MemInv (Cq copyC) ∧ OneLine (Cq copyC) 0 copyC 0 0 ∧ carterOp copyC.instr = .copy ∧
    OneLine (Cq fillC) 0 fillC 0 0 ∧ carterOp fillC.instr = .fill :=
  ⟨by unfold MemInv; decide, ⟨⟨[], 0, rfl⟩, by decide⟩, by decide, ⟨⟨[], 0, rfl⟩, by decide⟩, by decide⟩

theorem witness_carter_end :
    ((getCarter (Cq badC) 0).queue = [badC] ∧ (getIsland (Cq badC) 0).powered = true ∧ (getCarter (Cq badC) 0).cls = none ∧
      unitHeld (Cq badC) 3 (0x440 + 0 % 128) (0 / 128) = false ∧ (getCarter (Cq badC) 0).lines = [] ∧
      (getCarter (Cq badC) 0).stalled = false ∧ (getJob (Cq badC) badC.job).frozen = false ∧ (getCarter (Cq badC) 0).started = false ∧
      carterFieldsOk badC.instr badC.desc = false ∧ yardLive (Cq badC) 0 = true) ∧
    ((getCarter (Cdone followC 0) 0).queue = [followC] ∧ (getCarter (Cdone followC 0) 0).cls = some (0, 5) ∧
      (getCarter (Cdone followC 0) 0).entry = none ∧ (getCarter (Cdone followC 0) 0).lines = [] ∧ (cmdStores (Cdone followC 0) 0 followC).any (·.st == 0) = false ∧
      (carterClass (Cdone followC 0) 0 (getCarter (Cdone followC 0) 0) followC 0 5).1 = 0 ∧ carterFollow followC.instr = true ∧
      (getCarter (Cdone followC 0) 0).handed = false ∧ (followOn (Cdone followC 0) followC).isSome = true ∧
      loomRoom (Cdone followC 0) followC.e.site = true) ∧
    (carterClass (Cdone copyC 11) 0 (getCarter (Cdone copyC 11) 0) copyC 11 5).1 ≠ 0 ∧ carterFollow copyC.instr = false ∧
    copyC.handle = 0 ∧ ({ Carter.idle with drop := true } : Carter).drop = true ∧
    (Carter.idle.drop = false ∧ ({ Carter.idle with poison := true } : Carter).poison = true) ∧
    (Carter.idle.poison = false ∧ ∀ w, w ∈ cmdStores R 0 copyC → w.st = 1) := by decide

/-- Strands in flight at a full queue of a carter and of a loom, and with room. -/
theorem witness_engine_acceptance :
    (let c := lc (.mcfg .always (.imm 0x11)) 0x11
     let f (x : Flight) (s : State) : State := modMe (fun t => { t with flight := some x }) s
     let full : State := modLoom 0 (fun l => { l with queues := [(0, List.replicate 16 c)] }) R
     (getStrand (f (.acceptC 0 copyC 1) R) 0).wait = none ∧ (getStrand (f (.acceptC 0 copyC 1) R) 0).flight = some (.acceptC 0 copyC 1) ∧
       carterRoom (f (.acceptC 0 copyC 1) R) 0 = true ∧ carterRoom (f (.acceptC 0 copyC 1) Cfull) 0 = false ∧
     (getStrand (f (.acceptL c 1) R) 0).flight = some (.acceptL c 1) ∧ loomRoom (f (.acceptL c 1) R) 0 = true ∧
       loomRoom (f (.acceptL c 1) full) 0 = false) := by decide

/-! Windows, contexts and reflection. -/

/-- A receive entry of 256 bytes at offset 0x300 of site 0, and a transmit entry to this device's window 0. -/
def rxImage : Nat := 1 + 2 ^ 6 + 0x8000000000000300 * 2 ^ 64 + 0x100 * 2 ^ 128
def txImage0 : Nat := 1 + 0x100 * 2 ^ 32 + 2 ^ 128 * 2 ^ 28
def Wi : State := writeNat (ks 80 0x240) txImage0 (writeNat (ks 32 0x200) rxImage R)
def Wm : State := { Wi with rxwin := [(0, BitVec.ofNat 256 rxImage)], txwin := [(0, BitVec.ofNat 640 txImage0)] }

theorem witness_wmap :
    (checkLocal Wi ⟨0, 0, 0x200⟩ 32 16 .load = .ok 0xC000000000000200 ∧ Wi.pend = [] ∧ (me Wi).priv = true ∧ (me U).priv = false ∧
      poisonRead Wi (localKeys Wi 0xC000000000000200 32) = none ∧
      (wmapWith true 0 (readNat Wi (localKeys Wi 0xC000000000000200 32)) Wi).1 = 0 ∧
      (wmapWith true 4095 (readNat R (localKeys R 0xC000000000000200 32)) R).1 ≠ 0) ∧
    (checkLocal Wi ⟨0, 0, 0x240⟩ 80 16 .load = .ok 0xC000000000000240 ∧
      (wmapWith false 0 (readNat Wi (localKeys Wi 0xC000000000000240 80)) Wi).1 = 0 ∧
      (wmapWith false 0 (readNat Wm (localKeys Wm 0xC000000000000240 80)) Wm).1 ≠ 0) := by decide

def wst (n : Nat) : WStore := ⟨.strand ⟨0, 0⟩, 0, 0, 0, n, false, [], 0⟩
/-- One store of strand 0 through window 0, in each state. -/
def Ws (n : Nat) : State := { Wm with wstores := [wst n] }

theorem witness_wunmap_wstat_rfence :
    windowBusy (Ws 0) 0 1 = true ∧ windowBusy (Ws 1) 0 1 = false ∧
    (let s := modMe (fun t => { t with priv := false }) (modTile 0 (fun t => { t with job := 1 }) Wm)
     (me s).priv = false ∧ txJob (txEntry s ((rxo s (.imm 0)).toNat % 2 ^ 12)) ≠ (myTile s).job) ∧
    (∃ x, x ∈ (Ws 0).wstores.filter (covered (Ws 0).cur none) ∧ x.st = 0) ∧
    (∃ x, x ∈ (Ws 0).wstores.filter (covered (Ws 0).cur (some 0)) ∧ x.st = 0) ∧
    (∀ x, x ∈ (Ws 3).wstores.filter (covered (Ws 3).cur none) → x.st ≠ 0) ∧
    (∀ x, x ∈ (Ws 1).wstores.filter (covered (Ws 1).cur (some 0)) → x.st = 1) ∧
    (let f (s : State) : State := modMe (fun t => { t with run := .waitf, wait := some ⟨.rfence ⟨0, 0⟩, .rfence .always 3 none, 0, 1⟩ }) s
     (getStrand (f (Ws 0)) 0).wait = some ⟨.rfence ⟨0, 0⟩, .rfence .always 3 none, 0, 1⟩ ∧ rfencePending (f (Ws 0)) ⟨0, 0⟩ none 1 = true ∧
       rfencePending (f (Ws 1)) ⟨0, 0⟩ none 1 = false ∧ (getJob (f (Ws 1)) (getTile (f (Ws 1)) 0).job).frozen = false ∧
       (getJob (modJob 0 (fun j => { j with frozen := true }) (f (Ws 1))) 0).frozen = true) ∧
    (let s := modMe (fun t => { t with flight := some (.unmap 0 1) }) (Ws 1)
     (getStrand s 0).wait = none ∧ (getStrand s 0).flight = some (.unmap 0 1) ∧ windowBusy s 0 1 = false) :=
  ⟨by decide, by decide, by decide, ⟨wst 0, by decide⟩, ⟨wst 0, by decide⟩, by decide⟩

/-- Slot 63 of yard 0 granted to job 0, empty and full. -/
def Sl (full : Bool) (r : Run) : State :=
  modStrand 6 (fun t => { t with run := r }) (setSlot R 63 ⟨full, true, 0, 0, none, none⟩)

theorem witness_contexts :
    (getSlot R 63).grant = false ∧ (6 : Fin 8) ≠ 7 ∧ 64 * yardOf (Sl true .off).cur.site + (rxo (Sl true .off) (.imm (-1))).toNat % 64 = 63 ∧
    ((getSlot (Sl true .off) 63).grant = true ∧ (getSlot (Sl true .off) 63).job = (myTile (Sl true .off)).job ∧
      (getSlot (Sl true .off) 63).full = true ∧ (getStrand (Sl true .off) 6).run = .off) ∧
    ((getStrand (Sl true .run) 6).run ≠ .off ∧ (getStrand (Sl true .run) 6).run ≠ .parked) ∧
    ((getSlot (Sl false .off) 63).full = false ∧ (getStrand (Sl false .off) 6).run = .off) ∧
    ((⟨0, 6⟩ : SRef) ≠ (Sl false .run).cur ∧ (getStrand (Sl false .run) 6).flight = none ∧ (Sl false .run).pend = []) ∧
    ((getStrand R 0).run = .run ∧ (getStrand R 0).wait = none) := by decide

/-- A store of two bytes at the last offsets of the window, and one of its later copies. -/
def rw_ (seq : Nat) (op : Bool) : RWrite :=
  ⟨0, ⟨.strand ⟨0, 0⟩, 0, 0⟩, 0, 0, 0, seq, 0, op, 0xFE, [(0xFE, 1), (0xFF, 2)], 2, false⟩
def path0 : PathId := ⟨.strand ⟨0, 0⟩, 0, 0⟩
def held (l : List HeldStore) : State :=
  { Ws 0 with pathS := [(path0, ⟨1, 0, false, l, [], false⟩)], device := 1 }

theorem witness_arrival :
    rxEpoch Wm (rw_ 0 false) = none ∧
    (rxEpoch Wm (rw_ 0 true) = some ⟨0, 0, []⟩ ∧ ∀ o, rpathGet Wm (rpathOf (rw_ 0 true)) = some o → o.epoch = 0) ∧
    (let s (n : Nat) : State := rpathSet (rpathOf (rw_ 0 true)) ⟨n, 0, []⟩ Wm
     rxEpoch (s 3) (rw_ 2 false) = some ⟨3, 0, []⟩ ∧ rxEpoch (s 1) (rw_ 2 false) = some ⟨1, 0, []⟩) ∧
    (match rxPerform (rw_ 0 true) Wm with | .answer .ack _ => true | _ => false) = true ∧
    (rxAccepts R (rw_ 0 true) (rxEntry R 0) = false) ∧
    (MemInv Wm ∧ rxAccepts Wm (rw_ 0 true) (rxEntry Wm 0) = true ∧ rxKind (rxEntry Wm 0) = 0 ∧ 2 ≤ tagOf (rxTarget (rxEntry Wm 0)) ∧
      (rxTarget (rxEntry Wm 0)).toNat % 2 ^ 18 + 0xFE + 2 ≤ 0x40000 ∧ (rw_ 0 true).bytes.length = 2 ∧
      (∀ i, i < 2 → ((rw_ 0 true).bytes.map (·.1))[i]? = some (0xFE + i)) ∧ rxLwen (rxEntry Wm 0) = false) :=
  ⟨by decide, ⟨by decide, by intro o h; rw [show rpathGet Wm (rpathOf (rw_ 0 true)) = none from by decide] at h; cases h⟩, by decide, by decide,
   by decide, by unfold MemInv; decide, by decide⟩

/-- The store of `rw_ 0` held after `n` retransmissions. -/
def hs (n : Nat) : HeldStore := ⟨rw_ 0 true, n, 0, 0⟩
theorem witness_paths :
    (pathGet Wm path0).held.find? (fun h => h.w.seq == 0 && h.w.epoch == 0) = none ∧
    ((pathGet (held [hs 0]) path0).held.find? (fun h => h.w.seq == 0 && h.w.epoch == 0) = some (hs 0) ∧
      (pathGet (held [hs 0]) path0).queued = [] ∧ (hs 0).id < (held [hs 0]).wstores.length) ∧
    pathDevice (held [hs 0]) path0 ≠ (held [hs 0]).device ∧
    ((pathGet (held []) path0).held = [] ∧ (pathGet (held [hs 0]) path0).held ≠ [] ∧
      (∀ h, h ∈ (pathGet (held [hs 7]) path0).held → overdue none 0 h = true → h.n < 8) ∧
      (getPeer (held [hs 8]) (pathDevice (held [hs 8]) path0)).base = none ∧
      hs 8 ∈ (pathGet (held [hs 8]) path0).held ∧ overdue none 0 (hs 8) = true ∧ 8 ≤ (hs 8).n ∧
      (overdue (some 100) 399 (hs 8) = false ∧ overdue (some 100) 400 (hs 8) = true) ∧
      ∀ h, h ∈ (pathGet (held [hs 8]) path0).held → h.id < (held [hs 8]).wstores.length) ∧
    (let p : Peer := ⟨256 * 1024, 0, some 100, none⟩
     (2100 ≤ p.base.getD 2100 + 2000) ∧ p.base.getD 8101 + 8000 < 8101 ∧ p.base.getD 2101 + 2000 < 2101 ∧ 8100 ≤ p.base.getD 8100 + 8000) ∧
    (let s : State := { Wm with pendWin := [(0, [([], [])])] }
     Wm.pendWin.find? (fun q => q.1 == 0) = none ∧ s.pendWin.find? (fun q => q.1 == 0) = some (0, [([], [])]) ∧
       ([(0, 0, 0x100)].length = 1 ∧ [(0, 0, 0x100)].all (peerValid s (txJob (txEntry s 0))) = true) ∧
       ¬([(0, 0, 0x101)].length = 1 ∧ [(0, 0, 0x101)].all (peerValid s (txJob (txEntry s 0))) = true)) := by decide

/-! Pager, booths and the host ports. -/

/-- Booth 1 of job 0 on site 8, which its strands have left. -/
def Bo (f : Booth → Booth) : State :=
  modTile 8 (fun t => { t with booth := 1 }) (modBooth 1 (fun b => f { b with tiles := [8], starts := [⟨8, 3, 0x40, false, true, [], []⟩] })
    (setStrand R 64 (Strand.blank 64)))
def pagedIn (va k : Nat) (s : State) : State :=
  modMe (fun t => { t with run := .paged, wait := some ⟨.page va k, .nop .always, 0, 0⟩ }) s
def pagedAt (va k : Nat) : State := pagedIn va k R
/-- A writable page of job 0 at VA 0x200000 that holds a poisoned word. -/
def Kp : State := { Km with poison := [0x200000] }

theorem witness_pager :
    (me R).timerDue = false ∧
    (let t := me (modMe (fun t => { t with timerDue := true }) R)
     t.timerDue = true ∧ t.run = .run ∧ t.flight = none ∧ t.readyAt ≤ (getTile R 0).cycle + 1 ∧ t.handler = false ∧ t.halting = false) ∧
    (let s := pagedIn 0x200000 2 Kp
     roleHeld s 0 1 = false ∧ (getStrand s 0).run = .paged ∧ (getStrand s 0).wait = some ⟨.page 0x200000 2, .nop .always, 0, 0⟩ ∧
       recordSent ⟨0, 0⟩ s = true ∧ reissueOk s 0 0 0x200000 2 = true ∧ deliverOk s 0 0 0x200000 2 .uncorr = true ∧
       deliverOk s 0 0 0x200000 2 .seg = false ∧ reissueOk s 0 0 5 1 = false ∧ (getStrand s 0).handler = false ∧
       (getStrand s 0).halting = false) ∧
    (roleHeld R 0 1 = false ∧ (getStrand R 0).run ≠ .paged) ∧
    recordSent ⟨0, 0⟩ (modTile 0 (fun t => { t with heldFaults := [0] }) (pagedAt 5 2)) = false ∧
    (let c : LoomCmd := { lc (.mzero .always true true (.imm 1)) 1 with stalled := true, skind := 2, va := 0x200000 }
     let s := modLoom 0 (fun l => { l with queues := [(0, [c])] }) Kp
     roleHeld s (0 / 64) 1 = false ∧ tget [] (getLoom s 0).queues 0 = c :: [] ∧ c.stalled = true ∧ engineSent (.loom 0 0) s = true ∧
       reissueOk s (0 / 64) c.job c.va c.skind = true ∧ reissueOk s 0 c.job c.va 1 = false ∧
       deliverOk s (0 / 64) c.job c.va c.skind .uncorr = true) ∧
    (let s := modCarter 0 (fun q => { q with queue := [copyC], stalled := true, skind := 2, va := 0x200000 }) Kp
     let q := getCarter s 0
     roleHeld s (0 / 128) 1 = false ∧ q.stalled = true ∧ q.queue = copyC :: [] ∧ engineSent (.carter 0) s = true ∧
       reissueOk s 0 copyC.job q.va.toNat q.skind = true ∧ reissueOk s 0 copyC.job q.va.toNat 1 = false ∧
       deliverOk s 0 copyC.job q.va.toNat q.skind .uncorr = true) ∧
    R.tiles.find? (fun t => t.1 / 1024 == 0 && t.2.heldFaults != []) = none ∧
    (let s := modTile 1023 (fun t => { t with heldFaults := [7] }) R
     s.tiles.find? (fun t => t.1 / 1024 == 0 && t.2.heldFaults != []) = some (1023, { Tile.atReset with heldFaults := [7] }) ∧
       (getDie s 0).faultQ.length < 4096) ∧
    (let s := modDie 3 (fun d => { d with transQ := [1] }) R
     (getDie s 3).transQ = 1 :: [] ∧ s.pend = [] ∧ jobInFlight s ((1 : BitVec 128).extractLsb' 64 16) = false) := by decide

/-- A fault queue with no room. -/
theorem witness_fault_queue_full : 4096 ≤ (getDie (modDie 0 (fun d => { d with faultQ := List.replicate 4096 0 }) R) 0).faultQ.length := by
  show 4096 ≤ (List.replicate 4096 (0 : BitVec 256)).length
  simp

theorem witness_booths :
    ((getBooth (Bo id) 1).tiles ≠ [] ∧
      detectorHeld (Bo id) 1 = false ∧ (getBooth (Bo id) 1).declared = false ∧ (getBooth (Bo id) 1).watch < (getBooth (Bo id) 1).period) ∧
    (let s := Bo fun b => { b with lastQuiet := true }
     (quiescent s 1 && (getBooth s 1).lastQuiet && !(getBooth s 1).moved) = true ∧
       (quiescent (Bo id) 1 && (getBooth (Bo id) 1).lastQuiet && !(getBooth (Bo id) 1).moved) = false) ∧
    (let b := getBooth (Bo fun b => { b with watch := 9, period := 9 }) 1
     b.period ≤ b.watch) ∧
    ((1 : Nat) < 65536 ∧ pastRecovery (Bo fun b => { b with halted := true }) 1 = true ∧ pastRecovery (Bo id) 1 = false ∧
      roleHeld (Bo id) (dieOf ((getBooth (Bo id) 1).tiles.headD 0)) 4 = false ∧ (∀ i, i ∈ (Bo id).internal → inTransit [8] i = false) ∧
      (getJob (Bo id) (BitVec.ofNat 16 0)).frozen = false ∧
      (getJob (modJob 0 (fun j => { j with frozen := true }) (Bo id)) (BitVec.ofNat 16 0)).frozen = true ∧
      boothOff (Bo id) (getBooth (Bo id) 1) = true ∧ (Bo id).pend = [] ∧ boothBusy (discardLoom 1 (Bo id)) (getBooth (Bo id) 1) = false ∧
      (getBooth (Bo id) 1).recovered = false ∧
      (let b := getBooth (Bo fun b => { b with recovered := true }) 1
       b.recovered = true ∧ b.byTwin = false) ∧
      (getBooth (Bo fun b => { b with recovered := true, byTwin := true }) 1).byTwin = true ∧
      (getBooth (Bo id) 1).starts = [⟨8, 3, 0x40, false, true, [], []⟩]) ∧
    (let s := modQueue 0 (fun q => { q with cbooth := 1, keep := 0 }) (modQueue 1 (fun q => { q with pbooth := 1 }) Q)
     isInput 1 (getQueue s 0) = true ∧ isOutA 1 (getQueue s 1) = true) := by decide

/-- A port with its link up, an enabled host queue at 0x1000 and an enabled completion queue at 0x2000, of 16 places. -/
def Hp (f : HostQueue → HostQueue) : State :=
  modHcq 1 0 (fun q => { q with base := 0x2000, logsize := 4, en := true })
    (modHq 1 0 (fun q => f { q with base := 0x1000, logsize := 4, en := true }) (modPort 1 (fun t => { t with up := true }) R))

theorem witness_host_ports :
    R.sema = 0 ∧ ({ R with sema := 2 } : State).sema = BitVec.ofNat 2 (1 + 1) ∧ R.sema ≠ BitVec.ofNat 2 (1 + 1) ∧
    freezing R = false ∧ freezing (modJob 5 (fun j => { j with frozen := true }) R) = true ∧
    ((getHq R 1 15).en = false ∧ (getHq (Hp id) 1 0).en = true) ∧
    ((getPort (Hp id) 1).up = true ∧ (getPort R 0).up = false ∧ (getPort R 1).up = false) ∧
    (⟨0, 0⟩ : SRef) ∈ hostStrands (pagedAt 5 5) ∧
    Engine.carter 0 ∈ hostEngines (modCarter 0 (fun q => { q with queue := [copyC], stalled := true, skind := 5 }) R) ∧
    (((0x7FFFFFFF : BitVec 32) - (getHcq R 1 0).rel).toNat < 2 ^ 31 ∧ 2 ^ 31 ≤ ((0x80000000 : BitVec 32) - (getHcq R 1 0).rel).toNat) ∧
    ((getHcq R 1 0).held = [] ∧
      (let s : State := { modHcq 1 0 (fun q => { q with held := [5] }) R with devtime := 10 ^ 9 }
       (getHcq s 1 0).held = 5 :: [] ∧ (getPort s 1).up = false ∧ 10 ^ 9 ≤ (s.devtime - (5 : BitVec 256).extractLsb' 128 64).toNat ∧
         s.requests = [])) ∧
    (let q := getHcq (Hp id) 1 0
     q.en = true ∧ q.held = [] ∧ (BitVec.ofNat 32 q.pos - q.rel).toNat < 2 ^ q.logsize) ∧
    (let q := getHcq (modHcq 1 0 (fun q => { q with pos := 16 }) (Hp id)) 1 0
     2 ^ q.logsize ≤ (BitVec.ofNat 32 q.pos - q.rel).toNat) := by decide

/-- Host queue 0 of port 1 after the host has written its first entry's tag. -/
def tagged (f : HostQueue → HostQueue) : State := writeNat [hostKey (0x1000 + 63)] 1 (Hp f)
/-- The serving carter of port 1 stalls: an entry of its unit is held at a host completion queue. -/
def heldHp (f : HostQueue → HostQueue) : State :=
  modHcq 1 3 (fun q => { q with held := [3 * 2 ^ 4 + BitVec.ofNat 256 (hqUnit R 1) * 2 ^ 8 + 3 * 2 ^ 20] }) (tagged f)
def goodTag (s : State) : Prop :=
  ((readKeys s (keysFrom (hostKey ((getHq s 1 0).base.toNat + 64 * ((getHq s 1 0).pos % 2 ^ (getHq s 1 0).logsize))) 64)).getD 63 0).toNat =
    (getHq s 1 0).pos % 255 + 1

theorem witness_host_queue :
    MemInv (Hp id) ∧ ¬((getPort R 1).up = true ∧ (getHq R 1 0).en = true) ∧
    ((getPort (Hp id) 1).up = true ∧ (getHq (Hp id) 1 0).en = true) ∧
    2 ^ 31 ≤ ((0x80000000 : BitVec 32) - BitVec.ofNat 32 (getHq (Hp id) 1 0).pos).toNat ∧
    (1 : BitVec 32) = BitVec.ofNat 32 (getHq (Hp id) 1 0).pos + 1 ∧ ¬goodTag (Hp id) ∧ goodTag (tagged id) ∧
    unitHeld (tagged id) 3 (hqUnit (tagged id) 1) 3 = false ∧
    ((getPort (heldHp id) 1).up = true ∧ (getHq (heldHp id) 1 0).en = true ∧ unitHeld (heldHp id) 3 (hqUnit (heldHp id) 1) 3 = true) ∧
    ((getHq (tagged fun h => { h with kick := 1 }) 1 0).kick = (getHq (tagged fun h => { h with kick := 1 }) 1 0).pos + 1 ∧
     goodTag (tagged fun h => { h with kick := 1 }) ∧ (getHq (tagged fun h => { h with kick := 1 }) 1 0).rereads = 0) ∧
    (let s : State := { Hp (fun h => { h with kick := 1, rereads := 64, since := 72 }) with devtime := 200 }
     (getHq s 1 0).kick = (getHq s 1 0).pos + 1 ∧ (getHq s 1 0).since + 128 ≤ s.devtime.toNat ∧ ¬goodTag s ∧ 64 ≤ (getHq s 1 0).rereads) ∧
    ((0x104 : Word).getLsbD 8 = true ∧ (4 : Word).getLsbD 8 = false ∧ (getHq R 1 0).en = false) := by
  unfold MemInv goodTag; decide

/-! Host requests. -/

def req (op : BitVec 8) (job : BitVec 16) (a b c : Word) : HostReq := ⟨0, op, 0, 0, job, 7, a, b, c, false⟩
def asked (q : Nat) (r : HostReq) (s : State) : State := { s with requests := [(q, r)] }
/-- After reset, with the link of port 1 up. -/
def Up : State := modPort 1 (fun t => { t with up := true }) R
/-- An image of one BOOTH record at host address 0x2000, and a job descriptor for it at 0x1000; site 8 is a user tile. -/
def Ji : State :=
  writeNat ((List.range 80).map fun i => hostKey (0x1000 + i)) (1 + 2 ^ 512 * (0x2000 + 128 * 2 ^ 64))
    (writeNat ((List.range 128).map fun i => hostKey (0x2000 + i))
      (1 + 2 ^ 32 + 128 * 2 ^ 64 + 2 ^ 512 * (1 + 48 * 2 ^ 32 + 2 ^ 128 * 0x41))
      (modTile 8 (fun t => { t with logical := 8 }) Up))
def startReq : HostReq := req 1 0 0x1000 80 99
/-- Site 8 with a page of 2 MiB for its task spill area. -/
def startGrants : Grants :=
  ⟨true, 5, [⟨[8], [], [], [], [0x200000], []⟩], [⟨0x200000, 2, 0x200000⟩], [(0, 0x8000)], [0x10000, 0x18000, 0x20000, 0x28000], [], [],
    [], [], []⟩
def startPlan : Plan := ⟨startReq, startGrants, ((readDescriptor (asked 0 startReq Ji) startReq).getD ⟨0, []⟩)⟩

theorem witness_start : Served 0 0x01 startReq (asked 0 startReq Ji) ∧ ¬Served 0 0x01 startReq Ji ∧
    ¬Served 0 0x01 startReq (asked 0 startReq (modPort 1 (fun t => { t with up := false }) Ji)) ∧
    (readDescriptor (asked 0 startReq Ji) startReq).isSome = true ∧
    descriptorOk (asked 0 startReq Ji) startReq startGrants startPlan.d = true ∧ startGrants.ok = true ∧
    startPlan.grantsOk (asked 0 startReq Ji) = true ∧ startPlan.formatOk (asked 0 startReq Ji) = true ∧
    (startPlan.mapAll (asked 0 startReq Ji)).any (startPlan.tablesOk (asked 0 startReq Ji)) = true ∧
    (match startPlan.run (asked 0 startReq Ji) with | .ok _ => true | .error _ => false) = true := by
  unfold Served; decide

/-- Which channel is nearest to a port is a free value of Config: the page granted is on channel 0, where that is nearest. -/
theorem witness_start_pages (h : ∀ c, Config.channelDistance (clusterOf 8) 0 ≤ Config.channelDistance (clusterOf 8) c) :
    startPlan.pagesOk (asked 0 startReq Ji) = true := by
  have near : startPlan.nearOk (asked 0 startReq Ji) ⟨0x200000, 2, 0x200000⟩ = true := by
    have hp : startPlan.placeOf (asked 0 startReq Ji) ⟨0x200000, 2, 0x200000⟩ = clusterOf 8 := by decide
    simp only [Plan.nearOk, hp, List.all_eq_true]
    intro c _
    have : channelOf 0x200000 = 0 := by decide
    simp [this, h c]
  simp only [Plan.pagesOk, Bool.and_eq_true]
  refine ⟨⟨⟨by decide, by decide⟩, by decide⟩, ?_⟩
  simp only [List.all_eq_true]
  intro g hg
  have : g = ⟨0x200000, 2, 0x200000⟩ := by simpa [startPlan, startGrants] using hg
  subst this
  simp only [near, Bool.and_true]; decide

theorem witness_start_format : (readDescriptor (asked 0 startReq Up) startReq).isNone = true ∧
    Served 0 0x01 startReq (asked 0 startReq Up) ∧
    (let s := modBooth 0x50001 (fun b => { b with name := nameAt [0x41] 0 }) (modJob 5 (fun j => { j with seed := 99 }) (asked 0 startReq Ji))
     descriptorOk s startReq startGrants startPlan.d = false) := by unfold Served; decide

/-- Job 5 on site 8, as it runs, as it is being frozen, killed or saved. -/
def Jo (f : Job → Job) : State :=
  modTile 8 (fun t => { t with job := 5, booth := 1, logical := 8 }) (modJob 5 (fun j => f { j with booths := [1], tiles := [8] }) Up)
def frozenJo : State := Jo fun j => { j with frozen := true }
def saved (s : State) : State := { s with frozen := [saveJob 0 frozenJo 5] }

theorem witness_kill :
    (let r := req 2 5 0 0 0
     Served 0 0x02 r (asked 0 r (Jo id)) ∧ jobKnown (asked 0 r R) 5 = false ∧
     (let s := asked 0 r (Jo fun j => { j with killing := true })
      jobKnown s 5 = true ∧ (getJob s 5).killing = true ∧ jobBusy s 5 = false) ∧
     jobBusy (modCarter 0 (fun q => { q with queue := [{ copyC with job := 5 }] }) (Jo id)) 5 = true) := by unfold Served; decide

theorem witness_freeze :
    (let r (op : BitVec 8) := req op 5 0 0 0
     (r 3).job ≠ 0 ∧ Served 1 0x03 (r 3) (asked 1 (r 3) frozenJo) ∧ Served 1 0x05 (r 5) (asked 1 (r 5) frozenJo) ∧
     Served 1 0x04 (r 4) (asked 1 (r 4) (saved Up)) ∧
     hostDown frozenJo = false ∧ hostDown (saved Up) = false ∧ jobKnown R 5 = false ∧ jobKnown frozenJo 5 = true ∧ isSaved frozenJo 5 = false ∧ (getJob frozenJo 5).frozen = true ∧
     (let ts := heldTiles frozenJo 5
      ts = [8] ∧ stopping [5] ts (pagerTakes (abandonAll ts frozenJo)) = false) ∧
     isSaved (saved frozenJo) 5 = true ∧
     (let vs := (saved frozenJo).frozen.filter fun v => [5].contains v.job
      vs.all (fun v => tilesFree v (saved frozenJo)) = false ∧
      (let s := modTile 8 (fun t => { t with job := 0, booth := 0 }) (saved frozenJo)
       vs.all (fun v => tilesFree v s) = true ∧ vs.all (fun v => enginesFree v s) = true))) := by unfold Served; decide

/-- A queue of job 5 of 64-byte entries without a producing booth. -/
def Jq (esize : Nat) : State := modQueue 0 (fun _ => { openQueue 0x1000 with esize := esize, job := 5 }) (Jo id)

theorem witness_requests :
    (let r := req 6 5 1 0 0
     Served 2 0x06 r (asked 2 r (Jq 3)) ∧ jobKnown (Jq 3) 5 = true ∧ handleFail (Jq 3) 5 (r.arg0.extractLsb' 0 32) = none ∧
       (getQueue (Jq 3) 0).st = .open_ ∧ (getQueue (Jq 3) 0).pbooth = 0 ∧ entryBytes (getQueue (Jq 3) 0) = 64 ∧
       entryBytes (getQueue (Jq 0) 0) ≠ 64) ∧
    (let r := req 7 0 0 (2 ^ 33) 0
     Served 3 0x07 r (asked 3 r Up)) ∧
    (let r := req 10 0 3 0 0
     Served 3 0x0A r (asked 3 r R)) ∧
    (let r := req 8 0 0x1000 0 0
     Served 0 0x08 r (asked 0 r Up) ∧ R.sema ≠ BitVec.ofNat 2 (r.port + 1) ∧
       ({ R with sema := 1 } : State).sema = BitVec.ofNat 2 (r.port + 1)) := by unfold Served; decide

/-- The fused root hash and the places of the header's fields are free values of Config: a slot that is signed and of the fused
minimum's version is fit. -/
theorem witness_slot (bs : List Byte) (hv : slotSigned bs = true) (hn : Config.fusedMinimum.toNat ≤ (slotVersion bs).toNat) :
    slotOk R bs = true := by
  have h : minVersion R = Config.fusedMinimum := by
    unfold minVersion; split
    · rfl
    · next h => exact BitVec.eq_of_toNat_eq (by have : R.minver.toNat = 0 := rfl; omega)
  simp [slotOk, hv, h, hn]

/-- FIPS 180-4's example for SHA-512, the message "abc". -/
theorem test_sha512 : octetsNat (sha512 [0x61, 0x62, 0x63]) =
    0xddaf35a193617abacc417349ae20413112e6fa4e89a97ea20a9eeee64b55d39a2192992a274fc1a836ba3c23a3feebbd454d4423643ce80e2a9ac94fa54ca49f := by
  decide

/-- A booth of job 5 whose image is that at 0x2000, and a request for its version 2. -/
def Jv (f : Booth → Booth) : State :=
  modBooth (bkey 5 1) (fun b => f { b with tiles := [8], version := 1, decl := [(1, nameAt [0x41] 0), (2, [1, 0, 1, 0, 0, 0])] })
    (modTile 8 (fun t => { t with job := 5, booth := 1 }) (modJob 5 (fun j => { j with booths := [1], tiles := [8] }) Ji))
def versionReq : HostReq := req 9 5 0x2000 128 (1 + 2 * 2 ^ 16)
def versionRecs (s : State) : Option (List Rec) := parseImage (readKeys s ((List.range 128).map fun i => hostKey (0x2000 + i)))

theorem witness_version : Served 0 0x09 versionReq (asked 0 versionReq (Jv id)) ∧ jobKnown R versionReq.job = false ∧
    jobKnown (Jv id) versionReq.job = true ∧ (getBooth (Jv id) (bkey 5 1)).tiles ≠ [] ∧
    (getBooth (Jv id) (bkey 5 1)).finished = false ∧ (getBooth (Jv fun b => { b with finished := true }) (bkey 5 1)).finished = true ∧
    (getJob (Jv id) 5).frozen = false ∧ (versionRecs R).isNone = true ∧
    (match versionRecs (Jv id) with
      | some rs => imageOk rs && (declOf rs).isPerm (getBooth (Jv id) (bkey 5 1)).decl && versionFits (bkey 5 1) rs (Jv id)
      | none => false) = true ∧ fld versionReq.arg2 16 16 ≠ 0 ∧ fld versionReq.arg2 16 16 ≠ (getBooth (Jv id) (bkey 5 1)).version := by
  unfold Served; decide

theorem witness_urgent :
    (let s := writeNat (keysFrom (localKey 1023 0x3DFC0) 16) (2 + 0x40 * 2 ^ 32) R
     fld (BitVec.ofNat 128 (readNat s (keysFrom (localKey 1023 0x3DFC0) 16))) 0 4 = 2 ∧ isGood s 1023 = true ∧ MemInv s) ∧
    fld (BitVec.ofNat 128 (readNat R (keysFrom (localKey 1023 0x3DFC0) 16))) 0 4 ≠ 2 := by unfold MemInv; decide

/-! Boot, power and attestation. -/

/-- The stewards' bytes, with the tile map's frames apart from the scribe's log in HBM of die 0. -/
def bootLoad : BootLoad := { frames := [0x10000, 0x11000, 0x12000], idle := [], images := [], entries := [], log := 0x4000000 }
/-- A die in phase FLOOD whose corner has stored a non-zero word; a die in phase STEWARDS; one past boot mode. -/
theorem witness_boot :
    bootMode R 0 = true ∧ readNat (writeNat (keysFrom (localKey 0 0x3D0C0) 8) 1 R) (keysFrom (localKey 0 0x3D0C0) 8) ≠ 0 ∧
    bootMode (writeNat (keysFrom (localKey 0 0x3D0C0) 8) 1 R) 0 = true ∧
    bootMode (modDie 0 (fun d => { d with ended := true }) R) 0 = false ∧
    (getDie R 3).phase ≠ .stewards ∧ (getDie (modDie 3 (fun d => { d with phase := .stewards }) R) 3).phase = .stewards ∧
    logFits 3 (3 * 2 ^ 49) = true ∧ logFits 3 0 = false ∧ logFits 0 bootLoad.log = true ∧ mapFits bootLoad = true ∧
    mapFits { bootLoad with frames := [0x10000, 0x10000, 0x12000] } = false ∧
    R.sema ≠ BitVec.ofNat 2 (1 + 1) ∧ MemInv R ∧ (1024 * 3 ∉ R.fused ∧ (5 : Nat) ∈ ({ R with fused := [5] } : State).fused) ∧
    (let v : Saved := { saveJob 0 frozenJo 5 with device := 1 }
     let s : State := { R with checkpoint := [v] }
     s.checkpoint = [v] ∧ v.device = 1 ∧ v.job ≠ 0 ∧ jobKnown s v.job = false) ∧
    ((1 : Nat) ≠ R.device ∧ (2 : Nat) ≠ R.device ∧ R.checkpoint = [] ∧ R.frozen = []) := by unfold MemInv; decide

/-- A die that is READY, with the scribe's tile of die 3 at site 4,095, and one whose three spare tiles are taken. -/
def Sr (roles : List Nat) : State :=
  modTile 4095 (fun t => { t with logical := 3 }) (modTile 4094 (fun t => { t with logical := 9 })
    (modDie 3 (fun d => { d with phase := .ready, roles := roles }) R))
theorem witness_steward_restart : (getDie (Sr [0, 1, 2, 3, 4]) (dieOf 4095)).phase = .ready ∧
    (let d := getDie (Sr [0, 5, 2, 3, 4]) (dieOf 4095)
     d.roles.findIdx? (· == (getTile (Sr [0, 5, 2, 3, 4]) 4095).logical) = some 3 ∧
     d.roles.findIdx? (· == (getTile (Sr [0, 5, 2, 3, 4]) 4094).logical) = none ∧
     [5, 6, 7].find? (fun n => !d.roles.contains n) = some 6) := by decide
/-- R28: the scribe goes to the first spare tile that is free. -/
theorem test_steward_restart : (match exec (.boothRecovery 0 (65536 + 4095)) (Sr [0, 5, 2, 3, 4]) with
    | .next t => stewardUnit t 3 3
    | _ => 0) = 6 := by decide

/-- The corner of die 0 before and in VERIFY. Whatever the verdicts on the slots are, one of the two ends of VERIFY is reached. -/
theorem witness_verify : clocked R (1024 * 0) = true ∧ (getDie R 0).phase = .reset ∧
    (let s := modDie 0 (fun d => { d with phase := .verify }) R
     clocked s (1024 * 0) = true ∧ (getDie s 0).phase = .verify) := by decide
theorem witness_verdict (s : State) (order : List Nat) :
    (∃ n, order.find? (fun n => slotOk s (s.flash.toList.getD n [])) = some n) ∨
      order.find? (fun n => slotOk s (s.flash.toList.getD n [])) = none := by
  cases order.find? fun n => slotOk s (s.flash.toList.getD n []) <;> simp
/-- R389: from reset the corner's first turn enters VERIFY and runs no instruction. -/
theorem test_verify_first : (match issue 0 R with
    | .idle t => decide ((getDie t 0).phase = .verify) && (me t).pc == 0x3C000
    | _ => false) = true := by decide

theorem witness_power :
    (let cmd (op code : Nat) : BitVec 128 := BitVec.ofNat 128 (63 + 2 ^ 8 * op + 2 ^ 16 * code)
     let ok (c : BitVec 128) : Prop := fld c 0 8 < 64 ∧ fld c 10 6 = 0 ∧ fld c 21 107 = 0 ∧ fld c 16 5 ≤ 30
     ok (cmd 0 30) ∧ ok (cmd 1 0) ∧ ok (cmd 2 0) ∧ fld (cmd 0 30) 8 2 = 0 ∧ fld (cmd 1 0) 8 2 = 1 ∧ fld (cmd 2 0) 8 2 = 2) ∧
    ((getIsland R 63).powered = true ∧ (∀ e, e ∈ yardStrands 63 → (getStrand R (skey e)).flight = none)) ∧
    (let s := modMe (fun t => { t with flight := some .pause }) R
     ∃ e, e ∈ yardStrands 0 ∧ (getStrand s (skey e)).flight ≠ none) ∧
    (let s := setIsland R 0 { Island.nominal with paused := true, powered := false }
     (getIsland s 0).paused = true ∧ (getIsland s 0).powered = false ∧ (getIsland R 0).paused = false) ∧
    (∃ e, e ∈ yardStrands 0 ∧ isGood R e.site = true ∧ (getStrand R (skey e)).run = .run) ∧
    (let cap := if R.powercap = 0 then 2400 else R.powercap.toNat
     cap < 2401 ∧ (2400 ≤ cap ∧ 95 * cap ≤ 100 * 2400) ∧ (2280 ≤ cap ∧ 95 * cap ≤ 100 * 2280) ∧ 100 * 2279 < 95 * cap) ∧
    ((255 : Nat) / 64 = 3 ∧ (191 : Nat) / 64 ≠ 3) := by
  refine ⟨by decide, by decide, ⟨⟨0, 0⟩, by decide⟩, by decide, ⟨⟨0, 0⟩, by decide⟩, by decide⟩

/-- A yard whose strands have all stopped, its engines idle. -/
theorem witness_power_down :
    (let s := (List.range 16).foldl (fun s t => setStrand s (8 * siteInYard 0 t) (Strand.blank (8 * siteInYard 0 t)))
       (setSlot R 63 ⟨true, true, 5, 0, none, some 0x1000⟩)
     (∀ e, e ∈ yardStrands 0 → (getStrand s (skey e)).run = .off ∨ (getStrand s (skey e)).run = .parked) ∧ yardIdle s 0 = true ∧
       s.slots = [(63, ⟨true, true, 5, 0, none, some 0x1000⟩)]) ∧ MemInv R := by unfold MemInv; decide

theorem witness_attest :
    (let s (a b c : Bool) : State := modPort 1 (fun p => { p with spdm := ⟨a, b, c⟩ }) R
     (getSpdm (s true false false) 1).version = true ∧ (getSpdm R 1).version = false ∧ (getSpdm (s true true false) 1).caps = true ∧
       (getSpdm (s true true true) 1).algs = true ∧ (getSpdm R 1).algs = false) ∧ (0 : Nat) ≠ 1 ∧ (1 ≤ 4 ∧ 4 ≤ 4) := by decide

/-- A certificate chain is a free value; a portion of one that is not empty can be asked for. -/
theorem witness_chain (h : Config.certificateChain ≠ []) : 0 < Config.certificateChain.length := List.length_pos_of_ne_nil h

end Sys2Proof.Tests
end

section
/-!
PROOFS. Every step keeps the memory canonical (O3):
what it means for each kind of result, and the updates that leave memory alone.
-/

namespace Sys2Proof.Machine

open Sys2Proof.Safety

/-- Every state that a meaning answers has a canonical memory. -/
def ResWf : Res → Prop
  | .next t => MemInv t
  | .fault _ | .refused _ => True

/-- A check that can fail: where it answers, the state `st` of its answer has a canonical memory. -/
def OkWf {ε α : Type} (st : α → State) : Except ε α → Prop
  | .ok x => MemInv (st x)
  | .error _ => True

/-- An attempt that can find nothing: the state `st` of what it finds has a canonical memory. -/
def SomeWf {α : Type} (st : α → State) : Option α → Prop
  | some x => MemInv (st x)
  | none => True

/-- A message that can stall. -/
def SentWf : Sent → Prop
  | .done _ s => MemInv s
  | .stall => True

/-- A reflected write on its arrival: held or answered. -/
def ArrivalWf : Arrival → Prop
  | .hold s | .answer _ s => MemInv s

/-- One step of a carter's chunk. -/
def CStepWf : CStep → Prop
  | .go s | .wait s => MemInv s
  | .hole => True

/-- The reads of a loom's turn. -/
def LReadsWf : LReads → Prop
  | .ok _ s | .stop _ _ s => MemInv s

/-- A turn of a command: its state, unless it meets a hole of the specification. -/
def TurnWf : Turn → Prop
  | .more _ s | .fin _ _ s => MemInv s
  | .hole => True

/-- What the issue of a tile answers. -/
def IssueWf : Issue → Prop
  | .idle s | .run _ s => MemInv s

/-- What the agenda chooses next. -/
def AgendaWf : Agenda → Prop
  | .done s | .event _ s | .cycle _ s => MemInv s
  | .bad => True

theorem wf_of_eq {α : Type} {P : α → Prop} {a b : α} (e : a = b) (h : P a) : P b := e ▸ h
theorem wf_snd {α : Type} {p : α × State} {t a} (e : p = (a, t)) (h : MemInv p.2) : MemInv t := by subst e; exact h
theorem wf_ite_snd {α : Type} {c : Prop} [Decidable c] {p q : α × State} (hs : MemInv p.2) (ht : MemInv q.2) :
    MemInv (if c then p else q).2 := by
  split
  · exact hs
  · exact ht
theorem SomeWf.getD {r : Option State} {d : State} (h : SomeWf id r) (hd : MemInv d) : MemInv (r.getD d) := by
  cases r with
  | none => exact hd
  | some _ => exact h
theorem wf_ite {c : Prop} [Decidable c] {s t : State} (hs : MemInv s) (ht : MemInv t) : MemInv (if c then s else t) := by
  split
  · exact hs
  · exact ht
theorem carryWords_wf {src dst s} (h : MemInv s) : MemInv (carryWords src dst s) := h
theorem endWait_wf {e s} (h : MemInv s) : MemInv (endWait e s) := h
theorem modDie_wf {k f s} (h : MemInv s) : MemInv (modDie k f s) := by
  unfold MemInv; rwa [modDie_mem]
theorem modPort_wf {k f s} (h : MemInv s) : MemInv (modPort k f s) := by
  unfold MemInv; rwa [modPort_mem]
theorem someWf_map {α β : Type} {st : α → State} {st' : β → State} {o : Option α} {f : α → β} (h : SomeWf st o)
    (hf : ∀ a, MemInv (st a) → MemInv (st' (f a))) : SomeWf st' (o.map f) := by
  cases o with
  | none => exact trivial
  | some a => exact hf a h
theorem setYards_wf {ys s} (h : MemInv s) : MemInv (setYards ys s) := by unfold MemInv; rwa [setYards_mem]

/-! ### Updates that leave memory alone -/

theorem setStrand_wf {s key v} (h : MemInv s) : MemInv (setStrand s key v) := h
theorem modStrand_wf {key f s} (h : MemInv s) : MemInv (modStrand key f s) := h
theorem modMe_wf {f s} (h : MemInv s) : MemInv (modMe f s) := h
theorem modTile_wf {site f s} (h : MemInv s) : MemInv (modTile site f s) := h
theorem modBooth_wf {key f s} (h : MemInv s) : MemInv (modBooth key f s) := h
theorem modQueue_wf {q f s} (h : MemInv s) : MemInv (modQueue q f s) := h
theorem modLoom_wf {y f s} (h : MemInv s) : MemInv (modLoom y f s) := h
theorem modCarter_wf {n f s} (h : MemInv s) : MemInv (modCarter n f s) := h
theorem modCellar_wf {u f s} (h : MemInv s) : MemInv (modCellar u f s) := h
theorem modPeer_wf {d f s} (h : MemInv s) : MemInv (modPeer d f s) := h
theorem modJob_wf {j f s} (h : MemInv s) : MemInv (modJob j f s) := h
theorem enqueue_wf {i s} (h : MemInv s) : MemInv (enqueue i s) := h
theorem emit_wf {m s} (h : MemInv s) : MemInv (emit m s) := h
theorem wx_wf {r v s} (h : MemInv s) : MemInv (wx r v s) := h
theorem wv_wf {r v s} (h : MemInv s) : MemInv (wv r v s) := h
theorem touch_wf {ks s} (h : MemInv s) : MemInv (touch ks s) := h
theorem poisonKeys_wf {ks s} (h : MemInv s) : MemInv (poisonKeys ks s) := h
theorem noteOlds_wf {cls at_ writer ks before after} (h : MemInv after) : MemInv (noteOlds cls at_ writer ks before after) := h
theorem acquireS_wf {e s} (h : MemInv s) : MemInv (acquireS e s) := h
theorem startStrand_wf {e pc x1 task segs binds s} (h : MemInv s) : MemInv (startStrand e pc x1 task segs binds s) := h
theorem setPc_wf {npc s} (h : MemInv s) : MemInv (setPc npc s) := h
theorem waitFor_wf {r obj i n s} (h : MemInv s) : MemInv (waitFor r obj i n s) := h
theorem inFlight_wf {f s} (h : MemInv s) : MemInv (inFlight f s) := h
theorem readyIn_wf {n s} (h : MemInv s) : MemInv (readyIn n s) := h
theorem asStrand_wf {e s} (h : MemInv s) : MemInv (asStrand e s) := h
theorem emptyBlocks_wf {bk s} (h : MemInv s) : MemInv (emptyBlocks bk s) := h
theorem resetBlocks_wf {bk s} (h : MemInv s) : MemInv (resetBlocks bk s) := h
theorem freeSlots_wf {b s} (h : MemInv s) : MemInv (freeSlots b s) := h
theorem dropTransit_wf {ts s} (h : MemInv s) : MemInv (dropTransit ts s) := h
theorem pathSet_wf {p v s} (h : MemInv s) : MemInv (pathSet p v s) := h
theorem wakeWindows_wf {s} (h : MemInv s) : MemInv (wakeWindows s) := h
theorem armMon_wf {slot k s} (h : MemInv s) : MemInv (armMon slot k s) := h
theorem wakeFences_wf {s} (h : MemInv s) : MemInv (wakeFences s) := h
theorem modBlock_wf {y n f s} (h : MemInv s) : MemInv (modBlock y n f s) := h
theorem setLines_wf {y t l s} (h : MemInv s) : MemInv (setLines y t l s) := h
theorem carterDecide_wf {n cls a s} (h : MemInv s) : MemInv (carterDecide n cls a s) := h
theorem startByManifest_wf {e pc x1 s} (h : MemInv s) : MemInv (startByManifest e pc x1 s) := h
theorem returnFrom_wf {s} (h : MemInv s) : MemInv (returnFrom s) := h
theorem parkIn_wf {n e s} (h : MemInv s) : MemInv (parkIn n e s) := h
theorem readSlots_wf {f s} (h : MemInv s) : MemInv (readSlots f s) := h
theorem assignBlocks_wf {site b s} (h : MemInv s) : MemInv (assignBlocks site b s) := h
theorem Plan.mapTx_wf {p s} (h : MemInv s) : MemInv (Plan.mapTx p s) := h
theorem freeTile_wf {s site} (h : MemInv s) : MemInv (freeTile s site) := h
theorem measureStewards_wf {load s} (h : MemInv s) : MemInv (measureStewards load s) := h
theorem reply_wf {p r s} (h : MemInv s) : MemInv (reply p r s) := h

end Sys2Proof.Machine
end

section
/-!
PROOFS. Every step keeps the memory canonical (O3):
the operations over the state and where an access goes.
-/

namespace Sys2Proof.Machine

open Sys2Proof.Safety

theorem modHq_wf {p q f s} (h : MemInv s) : MemInv (modHq p q f s) := modPort_wf h
theorem modHcq_wf {p m f s} (h : MemInv s) : MemInv (modHcq p m f s) := modPort_wf h

theorem freeSema_wf {s} (h : MemInv s) : MemInv (freeSema s) := by
  unfold freeSema
  split <;> exact h

theorem enqueueOnce_wf {i s} (h : MemInv s) : MemInv (enqueueOnce i s) := by
  unfold enqueueOnce
  split <;> exact h

theorem wxo_wf {r v s} (h : MemInv s) : MemInv (wxo r v s) := by
  unfold wxo
  split <;> exact h

theorem putBytes_wf {l s} (h : MemInv s) : MemInv (putBytes l s) := pokeBytes_wf _ _ h

theorem afterFound_wf {e ks un l s} (h : MemInv s) : MemInv (afterFound e ks un l s) := by
  unfold afterFound
  split <;> exact h

theorem logTile_wf {site kind cls k addr arg data s} (h : MemInv s) : MemInv (logTile site kind cls k addr arg data s) :=
  logTo_wf _ _ _ h
theorem takeSteps_wf {n s} (h : MemInv s) : MemInv (takeSteps n s).2 := h

theorem takeDraws_wf {r n s} (h : MemInv s) : MemInv (takeDraws r n s).2 := by
  unfold takeDraws
  split
  · split
    · next hy =>
      have hy := wf_snd hy (takeSteps_wf h)
      exact hy
  · exact h

theorem haltStrand_wf {e s} (h : MemInv s) : MemInv (haltStrand e s) := by
  unfold haltStrand
  dsimp only
  split
  · exact h
  · exact stopStrand_wf _ _ h
  · split
    · exact h
    · exact stopStrand_wf _ _ h
  · exact stopStrand_wf _ _ h

theorem reissuePaged_wf {e s} (h : MemInv s) : MemInv (reissuePaged e s) := by
  unfold reissuePaged
  split <;> exact h

theorem guarded_resWf {g s k} (h : MemInv s) (hk : ∀ t, MemInv t → ResWf (k t)) : ResWf (guarded g s k) := by
  unfold guarded
  split
  · exact hk _ h
  · exact next_wf _ h

theorem stewardOnly_wf {s k} (h : MemInv s) (hk : ∀ t, MemInv t → ResWf (k t)) : ResWf (stewardOnly s k) := by
  unfold stewardOnly
  split
  · exact hk _ h
  · exact raise_wf _ _ _ h

theorem illegal_wf {s} (h : MemInv s) : ResWf (illegal s) := raise_wf _ _ _ h
theorem tlbFill_wf {cluster t s} (h : MemInv s) : MemInv (tlbFill cluster t s) := modDie_wf h

theorem leafOf_wf {cluster job va store s} (h : MemInv s) : OkWf Xlate.st (leafOf cluster job va store s) := by
  unfold leafOf
  dsimp only
  split
  · split
    · exact trivial
    · exact tlbFill_wf h
  · split
    · exact trivial
    · split
      · exact trivial
      · split
        · exact trivial
        · exact tlbFill_wf (wf_ite h (pokeBytes_wf _ _ h))

theorem translate_wf {cluster job va store s} (h : MemInv s) : OkWf Xlate.st (translate cluster job va store s) := by
  unfold translate
  dsimp only
  split
  · exact trivial
  · next hx =>
    have hx := wf_of_eq hx (leafOf_wf h)
    split
    · exact trivial
    · split
      · exact trivial
      · exact hx

theorem walked_wf {cluster job va store s} (h : MemInv s) : MemInv (walked cluster job va store s) := by
  unfold walked
  split
  · exact h
  · next hx =>
    have hx := wf_of_eq hx (leafOf_wf h)
    exact hx

theorem virtBytes_wf {cluster job store va n s} (h : MemInv s) :
    OkWf Access.st (virtBytes (fun va => translate cluster job va store) va n s) := by
  unfold virtBytes
  dsimp only
  split
  · exact trivial
  · next hx =>
    have hx := wf_of_eq hx (translate_wf h)
    split
    · exact hx
    · split
      · exact trivial
      · next hy =>
        have hy := wf_of_eq hy (translate_wf hx)
        split
        · exact trivial
        · exact hy

theorem virtWalked_wf {cluster job store va n s} (h : MemInv s) : MemInv (virtWalked cluster job store va n s) := by
  unfold virtWalked
  split
  · exact walked_wf h
  · next hx =>
    have hx := wf_of_eq hx (translate_wf h)
    split
    · exact hx
    · exact walked_wf hx

theorem resolve_wf {site job a n store ord s} (h : MemInv s) : OkWf Access.st (resolve site job a n store ord s) := by
  unfold resolve
  split
  · split <;> exact h
  · split
    · exact virtBytes_wf h
    · exact h
    · split
      · exact h
      · exact trivial

theorem access_wf {a n store g s} (h : MemInv s) : OkWf Access.st (access a n store g s) := resolve_wf h

theorem accessWalked_wf {a n store s} (h : MemInv s) : MemInv (accessWalked a n store s) := by
  unfold accessWalked
  split
  · exact virtWalked_wf h
  · exact h

theorem sendFault_wf {die r s} (h : MemInv s) : SomeWf id (sendFault die r s) := by
  unfold sendFault
  split
  · exact modDie_wf h
  · exact trivial

theorem takeFault_wf {die f s} (h : MemInv s) : MemInv (takeFault die f s) := by
  unfold takeFault
  dsimp only
  split
  · exact h
  · split
    · exact enqueue_wf (modDie_wf h)
    · exact modDie_wf h

theorem pagerLog_wf {die unit job ep addr req s} (h : MemInv s) : MemInv (pagerLog die unit job ep addr req s) :=
  logTo_wf _ _ _ h

theorem goPaged_wf {i va kind store s} (h : MemInv s) : MemInv (goPaged i va kind store s) := by
  unfold goPaged
  dsimp only
  split
  · split
    · next hy =>
      have hy := wf_of_eq hy (sendFault_wf h)
      exact hy
    · exact h
  · exact h

theorem stopped_wf {i store e s} (h : MemInv s) : ResWf (stopped i store e s) := by
  unfold stopped
  split
  · exact raise_wf _ _ _ h
  · exact goPaged_wf h
  · exact trivial

end Sys2Proof.Machine
end

section
/-!
PROOFS. Every step keeps the memory canonical (O3):
queues, booths and their edges, and the operands that ports give.
-/

namespace Sys2Proof.Machine

open Sys2Proof.Safety

theorem writeRing_wf {q n kind bs s} (h : MemInv s) : MemInv (writeRing q n kind bs s) := writeBytes_wf _ _ h
theorem spillAccess_wf {qk q n store s} (h : MemInv s) : OkWf Access.st (spillAccess qk q n store s) := virtBytes_wf h
theorem spillWalked_wf {qk q n store s} (h : MemInv s) : MemInv (spillWalked qk q n store s) := virtWalked_wf h
theorem holdQueue_wf {qk ep va kind store s} (h : MemInv s) : MemInv (holdQueue qk ep va kind store s) :=
  SomeWf.getD (sendFault_wf h) h

theorem carryPoison_wf {src dst s} (h : MemInv s) : MemInv (carryPoison src dst s) := by
  unfold carryPoison
  split <;> exact h

theorem refillOne_wf {qk s} (h : MemInv s) : SomeWf id (refillOne qk s) := by
  unfold refillOne
  dsimp only
  split
  · exact trivial
  · split
    · exact holdQueue_wf (spillWalked_wf h)
    · next hy =>
      have hy := wf_of_eq hy (spillAccess_wf h)
      split
      · exact modQueue_wf (carryPoison_wf (writeRing_wf hy))
      · exact trivial

theorem refill_wf {qk f s} (h : MemInv s) : MemInv (refill qk f s) := by
  induction f generalizing s with
  | zero => exact h
  | succ f ih =>
    unfold refill
    split
    · next hx =>
      have hx := wf_of_eq hx (refillOne_wf h)
      exact ih hx
    · exact h

theorem wakeQueue_wf {qk s} (h : MemInv s) : MemInv (wakeQueue qk s) := foldl_wf _ _ _ (fun _ _ ht => ht) h
theorem loadImage_wf {b s} (h : MemInv s) : MemInv (loadImage b s) := foldl_wf _ _ _ (fun _ _ ht => writeBytes_wf _ _ ht) h
theorem startBooth_wf {b s} (h : MemInv s) : MemInv (startBooth b s) :=
  foldl_wf _ _ _ (fun _ _ ht => ht) (foldl_wf _ _ _ (fun _ _ ht => ht) h)
theorem haltBooth_wf {b s} (h : MemInv s) : MemInv (haltBooth b s) := foldl_wf _ _ _ (fun _ _ ht => haltStrand_wf ht) h
theorem flushBooth_wf {bk s} (h : MemInv s) : MemInv (flushBooth bk s) :=
  emptyBlocks_wf (foldl_wf _ _ _ (fun _ _ ht => ht) (dropTransit_wf (foldl_wf _ _ _ (fun _ _ ht => stopStrand_wf _ _ ht) h)))

theorem installVersion_wf {bk s} (h : MemInv s) : MemInv (installVersion bk s) := by
  unfold installVersion
  dsimp only
  split
  · exact h
  · exact hcqPut_wf _ _ _ _ (startBooth_wf (resetBlocks_wf (loadImage_wf (flushBooth_wf h))))

theorem holds_wf {qk by_ s} (h : MemInv s) : SomeWf id (holds qk by_ s) := by
  unfold holds
  dsimp only
  split
  · exact trivial
  · split
    · exact holdQueue_wf h
    · split
      · exact holdQueue_wf (spillWalked_wf h)
      · exact trivial

theorem stall_wf {qk by_ s} (h : MemInv s) : MemInv (stall qk by_ s) := by
  unfold stall
  split <;> exact h

theorem unstall_wf {qk by_ s} (h : MemInv s) : MemInv (unstall qk by_ s) := by
  unfold unstall
  split <;> exact h

theorem pushReady_wf {s qk kind by_ booth} (h : MemInv s) : MemInv (pushReady s qk kind by_ booth).2 := by
  unfold pushReady
  dsimp only
  split
  · exact stall_wf h
  · split
    · next hx =>
      obtain ⟨k, -, hk⟩ := List.exists_of_findSome?_eq_some hx
      have hk := wf_of_eq hk (holds_wf h)
      exact stall_wf hk
    · exact unstall_wf h

theorem place_wf {qk kind bs by_ s} (h : MemInv s) : MemInv (place qk kind bs by_ s) := by
  unfold place
  dsimp only
  split
  · exact modQueue_wf (writeRing_wf h)
  · split
    · exact h
    · next hy =>
      have hy := wf_of_eq hy (spillAccess_wf h)
      split
      · exact modQueue_wf (writeBytes_wf _ _ hy)
      · exact h

theorem placeFirst_wf {qk s} (h : MemInv s) : MemInv (placeFirst qk s) := by
  unfold placeFirst
  dsimp only
  split
  · exact h
  · split
    · exact modQueue_wf (foldl_wf _ _ _ (fun _ _ ht => wakeQueue_wf (modQueue_wf (place_wf ht))) (pushReady_wf h))
    · exact modQueue_wf (pushReady_wf h)

theorem placeOwed_wf {qk s} (h : MemInv s) : MemInv (placeOwed qk s) := foldl_wf _ _ _ (fun _ _ ht => placeFirst_wf ht) h

theorem reseed_wf {e s} (h : MemInv s) : MemInv (reseed e s) := by
  unfold reseed
  split <;> exact h

theorem passEdge_wf {bk kind s} (h : MemInv s) : MemInv (passEdge bk kind s) := by
  unfold passEdge
  split
  · exact foldl_wf _ _ _ (fun _ _ ht => reseed_wf ht) (modBooth_wf (foldl_wf _ _ _ (fun _ _ ht => wakeQueue_wf
      (placeOwed_wf (refill_wf ht))) h))
  · exact reportDone_wf _ _ (modBooth_wf (foldl_wf _ _ _ (fun _ _ ht => reseed_wf ht) (modBooth_wf (foldl_wf _ _ _
      (fun _ _ ht => wakeQueue_wf (placeOwed_wf (refill_wf ht))) h))))
  · exact installVersion_wf (flushBooth_wf (modBooth_wf (foldl_wf _ _ _ (fun _ _ ht => reseed_wf ht) (modBooth_wf
      (foldl_wf _ _ _ (fun _ _ ht => wakeQueue_wf (placeOwed_wf (refill_wf ht))) h)))))

theorem tryEdge_wf {bk s} (h : MemInv s) : MemInv (tryEdge bk s) := by
  unfold tryEdge
  split
  · exact passEdge_wf h
  · exact h

theorem settleEdges_wf {s} (h : MemInv s) : MemInv (settleEdges s) := wf_ite h (foldl_wf _ _ _
    (fun _ _ ht => tryEdge_wf ht) h)

theorem boundaryEdge_wf {bk s} (h : MemInv s) : MemInv (boundaryEdge bk s) := by
  unfold boundaryEdge
  split
  · exact passEdge_wf h
  · exact boundary_wf _ _ (passEdge_wf h)
  · exact boundary_wf _ _ h

theorem noteMove_wf {bk s} (h : MemInv s) : MemInv (noteMove bk s) := by
  unfold noteMove
  split <;> exact h

theorem kickWatch_wf {bk s} (h : MemInv s) : MemInv (kickWatch bk s) := by
  unfold kickWatch
  split <;> exact h

theorem placePair_wf {qk key s} (h : MemInv s) : MemInv (placePair qk key s) := by
  unfold placePair
  dsimp only
  split
  · split
    · exact h
    · split
      · next hz =>
        have hz := wf_of_eq hz (holds_wf h)
        exact hz
      · exact wakeQueue_wf (modQueue_wf (place_wf h))
  · exact h

theorem pushTwin_wf {qk kind bs key booth s} (h : MemInv s) : MemInv (pushTwin qk kind bs key booth s) :=
  wf_ite (enqueue_wf (placePair_wf h)) (placePair_wf h)

theorem push_wf {qk kind bs by_ booth s} (h : MemInv s) : MemInv (push qk kind bs by_ booth s) :=
  kickWatch_wf (noteMove_wf (wakeQueue_wf (wf_ite (pushTwin_wf h) (wf_ite (foldl_wf _ _ _ (fun _ _ ht => noteMove_wf
      (wakeQueue_wf (place_wf ht))) h) (modQueue_wf (place_wf h))))))

theorem pop_wf {qk s} (h : MemInv s) : MemInv (pop qk s).2 := kickWatch_wf (noteMove_wf (wakeQueue_wf (refill_wf
    (wf_ite h h))))
theorem releaseQueue_wf {qk s} (h : MemInv s) : MemInv (releaseQueue qk s) := wf_ite h h
theorem releaseKilled_wf {s} (h : MemInv s) : MemInv (releaseKilled s) := foldl_wf _ _ _ (fun _ _ ht => releaseQueue_wf ht) h

theorem pushEntry_wf {job h en die by_ s} (hs : MemInv s) : MemInv (pushEntry job h en die by_ s).2 := by
  unfold pushEntry
  dsimp only
  split
  · exact hs
  · split
    · exact unstall_wf (logTo_wf _ _ _ hs)
    · split
      · exact push_wf (pushReady_wf hs)
      · exact pushReady_wf hs

theorem trapFirst_wf {s} (h : MemInv s) : MemInv (trapFirst s) := boundary_wf _ _ h
theorem deliver_wf {n s} (h : MemInv s) : MemInv (deliver n s) :=
  wf_ite (raiseLate_wf _ _ _ h) (wf_ite (trapFirst_wf h) (boundaryEdge_wf (setPc_wf (wx_wf (pop_wf h)))))

theorem popPorts_wf {ins v s} (h : MemInv s) : SomeWf (·.2.1) (popPorts ins v s) := by
  induction ins generalizing v s with
  | nil => exact h
  | cons n r ih =>
    unfold popPorts
    dsimp only
    split
    · exact trivial
    · split
      · exact h
      · exact ih (pop_wf h)

theorem outsReady_wf {outs kind s} (h : MemInv s) : MemInv (outsReady outs kind s).2.1 := by
  induction outs generalizing s with
  | nil => exact h
  | cons n r ih =>
    unfold outsReady
    dsimp only
    split
    · exact ih h
    · exact pushReady_wf h

theorem gate_wf {i ins outs kind s k} (h : MemInv s) (hk : ∀ v t, MemInv t → ResWf (k v t)) : ResWf
    (gate i ins outs kind s k) := by
  unfold gate
  dsimp only
  split
  · exact raise_wf _ _ _ h
  · split
    · exact deliver_wf h
    · exact h
    · split
      · exact h
      · split
        · exact waitFor_wf (outsReady_wf h)
        · next ha =>
          split
          · exact raiseLate_wf _ _ _ h
          · next hb =>
            have hb := wf_of_eq hb (popPorts_wf h)
            exact hk _ _ hb

theorem retire_wf {d v s} (h : MemInv s) : MemInv (retire d v s) := by
  unfold retire
  split
  · exact next_wf _ h
  · exact h

theorem completePush_wf {n v s} (h : MemInv s) : MemInv (completePush n v s) := by
  unfold completePush
  dsimp only
  split
  · exact next_wf _ h
  · split
    · exact next_wf _ (push_wf (pushReady_wf h))
    · exact pushReady_wf h

theorem alu1_wf {i g d a f s} (h : MemInv s) : ResWf (alu1 i g d a f s) :=
  guarded_resWf h fun _ ht => gate_wf ht fun _ _ hu => retire_wf hu
theorem alu2_wf {i g d a b f s} (h : MemInv s) : ResWf (alu2 i g d a b f s) :=
  guarded_resWf h fun _ ht => gate_wf ht fun _ _ hu => retire_wf hu
theorem alu2r_wf {i g r d a b f s} (h : MemInv s) : ResWf (alu2r i g r d a b f s) :=
  guarded_resWf h fun _ ht => gate_wf ht fun _ _ hu => retire_wf (takeDraws_wf hu)
theorem cmp2_wf {i g pd a b f s} (h : MemInv s) : ResWf (cmp2 i g pd a b f s) :=
  guarded_resWf h fun _ ht => gate_wf ht fun _ _ hu => next_wf _ hu

end Sys2Proof.Machine
end

section
/-!
PROOFS. Every step keeps the memory canonical (O3):
scalar instructions.
-/

namespace Sys2Proof.Machine

open Sys2Proof.Safety

theorem execFadd_wf {g f r sat d a b s} (h : MemInv s) : ResWf (execFadd g f r sat d a b s) := alu2r_wf h
theorem execFsub_wf {g f r sat d a b s} (h : MemInv s) : ResWf (execFsub g f r sat d a b s) := alu2r_wf h
theorem execFmul_wf {g f r sat d a b s} (h : MemInv s) : ResWf (execFmul g f r sat d a b s) := alu2r_wf h
theorem execFdiv_wf {g f r sat d a b s} (h : MemInv s) : ResWf (execFdiv g f r sat d a b s) := alu2r_wf h
theorem execFfma_wf {g f r sat d a b c s} (h : MemInv s) : ResWf (execFfma g f r sat d a b c s) :=
  guarded_resWf h fun _ ht => gate_wf ht fun _ _ hu => retire_wf (takeDraws_wf hu)
theorem execFmin_wf {g f d a b s} (h : MemInv s) : ResWf (execFmin g f d a b s) := alu2_wf h
theorem execFmax_wf {g f d a b s} (h : MemInv s) : ResWf (execFmax g f d a b s) := alu2_wf h
theorem execFcmp_wf {g f cc pd a b s} (h : MemInv s) : ResWf (execFcmp g f cc pd a b s) := cmp2_wf h
theorem execFcvt_wf {g t f r sat l d a s} (h : MemInv s) : ResWf (execFcvt g t f r sat l d a s) :=
  guarded_resWf h fun _ ht => gate_wf ht fun _ _ hu => retire_wf (wf_ite_snd (takeDraws_wf hu) hu)
theorem execCmp_wf {g cc pd a b s} (h : MemInv s) : ResWf (execCmp g cc pd a b s) := cmp2_wf h
theorem pred2_wf {g na nb pd pa pb f s} (h : MemInv s) : ResWf (pred2 g na nb pd pa pb f s) :=
  guarded_resWf h fun _ ht => next_wf _ ht
theorem execPnot_wf {g pd pa s} (h : MemInv s) : ResWf (execPnot g pd pa s) := guarded_resWf h fun _ ht => next_wf _ ht

theorem execPmov_wf {g f s} (h : MemInv s) : ResWf (execPmov g f s) := by
  unfold execPmov
  refine guarded_resWf h fun _ ht => ?_
  split
  · exact next_wf _ ht
  · exact gate_wf ht fun _ _ hu => next_wf _ hu
  · exact gate_wf ht fun _ _ hu => retire_wf hu

theorem convAddr_wf {i g d a f s} (h : MemInv s) : ResWf (convAddr i g d a f s) := by
  unfold convAddr
  refine guarded_resWf h fun _ ht => ?_
  refine gate_wf ht fun _ _ hu => ?_
  split
  · exact retire_wf hu
  · exact raise_wf _ _ _ ht

theorem execAdd_wf {g d a b s} (h : MemInv s) : ResWf (execAdd g d a b s) := alu2_wf h
theorem execSub_wf {g d a b s} (h : MemInv s) : ResWf (execSub g d a b s) := alu2_wf h
theorem execMul_wf {g d a b s} (h : MemInv s) : ResWf (execMul g d a b s) := alu2_wf h
theorem execMulh_wf {g d a b s} (h : MemInv s) : ResWf (execMulh g d a b s) := alu2_wf h
theorem execMulhu_wf {g d a b s} (h : MemInv s) : ResWf (execMulhu g d a b s) := alu2_wf h
theorem execDiv_wf {g d a b s} (h : MemInv s) : ResWf (execDiv g d a b s) := alu2_wf h
theorem execDivu_wf {g d a b s} (h : MemInv s) : ResWf (execDivu g d a b s) := alu2_wf h
theorem execRem_wf {g d a b s} (h : MemInv s) : ResWf (execRem g d a b s) := alu2_wf h
theorem execRemu_wf {g d a b s} (h : MemInv s) : ResWf (execRemu g d a b s) := alu2_wf h
theorem execAnd_wf {g d a b s} (h : MemInv s) : ResWf (execAnd g d a b s) := alu2_wf h
theorem execOr_wf {g d a b s} (h : MemInv s) : ResWf (execOr g d a b s) := alu2_wf h
theorem execXor_wf {g d a b s} (h : MemInv s) : ResWf (execXor g d a b s) := alu2_wf h
theorem execAndn_wf {g d a b s} (h : MemInv s) : ResWf (execAndn g d a b s) := alu2_wf h
theorem execShl_wf {g d a b s} (h : MemInv s) : ResWf (execShl g d a b s) := alu2_wf h
theorem execShr_wf {g d a b s} (h : MemInv s) : ResWf (execShr g d a b s) := alu2_wf h
theorem execSar_wf {g d a b s} (h : MemInv s) : ResWf (execSar g d a b s) := alu2_wf h
theorem execRol_wf {g d a b s} (h : MemInv s) : ResWf (execRol g d a b s) := alu2_wf h
theorem execMin_wf {g d a b s} (h : MemInv s) : ResWf (execMin g d a b s) := alu2_wf h
theorem execMax_wf {g d a b s} (h : MemInv s) : ResWf (execMax g d a b s) := alu2_wf h
theorem execMinu_wf {g d a b s} (h : MemInv s) : ResWf (execMinu g d a b s) := alu2_wf h
theorem execMaxu_wf {g d a b s} (h : MemInv s) : ResWf (execMaxu g d a b s) := alu2_wf h
theorem execExt_wf {g d a b s} (h : MemInv s) : ResWf (execExt g d a b s) := alu2_wf h
theorem execExtu_wf {g d a b s} (h : MemInv s) : ResWf (execExtu g d a b s) := alu2_wf h
theorem execClz_wf {g d a s} (h : MemInv s) : ResWf (execClz g d a s) := alu1_wf h
theorem execCtz_wf {g d a s} (h : MemInv s) : ResWf (execCtz g d a s) := alu1_wf h
theorem execPopc_wf {g d a s} (h : MemInv s) : ResWf (execPopc g d a s) := alu1_wf h
theorem execBrev_wf {g d a s} (h : MemInv s) : ResWf (execBrev g d a s) := alu1_wf h
theorem execMov_wf {g d a s} (h : MemInv s) : ResWf (execMov g d a s) := alu1_wf h
theorem execMovi_wf {g d v s} (h : MemInv s) : ResWf (execMovi g d v s) :=
  guarded_resWf h fun _ ht => gate_wf ht fun _ _ hu => retire_wf hu
theorem execIns_wf {g d a b s} (h : MemInv s) : ResWf (execIns g d a b s) := alu2_wf h
theorem execSel_wf {g pn d a b s} (h : MemInv s) : ResWf (execSel g pn d a b s) := alu2_wf h

theorem execLea_wf {g d m s} (h : MemInv s) : ResWf (execLea g d m s) := by
  unfold execLea
  refine guarded_resWf h fun _ ht => ?_
  dsimp only
  split
  · exact raise_wf _ _ _ ht
  · split
    · exact raise_wf _ _ _ ht
    · exact gate_wf ht fun _ _ hu => retire_wf hu

theorem execCaddr_wf {g d a s} (h : MemInv s) : ResWf (execCaddr g d a s) := convAddr_wf h
theorem execCrel_wf {g d a s} (h : MemInv s) : ResWf (execCrel g d a s) := convAddr_wf h

theorem jump_wf {t k s} (h : MemInv s) (hk : ∀ t, MemInv t → MemInv (k t)) : ResWf (jump t k s) := by
  unfold jump
  split
  · exact finish_wf _ _ (hk _ h)
  · exact raise_wf _ _ _ h

theorem execBr_wf {g tgt s} (h : MemInv s) : ResWf (execBr g tgt s) := guarded_resWf h fun _ ht => jump_wf ht fun _ hu => hu
theorem execBrl_wf {g tgt s} (h : MemInv s) : ResWf (execBrl g tgt s) := guarded_resWf h fun _ ht => jump_wf ht fun _ hu => hu
theorem execBrx_wf {g a s} (h : MemInv s) : ResWf (execBrx g a s) := guarded_resWf h fun _ ht => jump_wf ht fun _ hu => hu
theorem execBrxl_wf {g a s} (h : MemInv s) : ResWf (execBrxl g a s) := guarded_resWf h fun _ ht => jump_wf ht fun _ hu => hu
theorem execRet_wf {g s} (h : MemInv s) : ResWf (execRet g s) := guarded_resWf h fun _ ht => jump_wf ht fun _ hu => hu

theorem execLoop_wf {g a tgt s} (h : MemInv s) : ResWf (execLoop g a tgt s) := by
  unfold execLoop
  refine guarded_resWf h fun _ ht => ?_
  dsimp only
  split
  · exact jump_wf ht fun _ hu => hu
  · exact next_wf _ ht

end Sys2Proof.Machine
end

section
/-!
PROOFS. Every step keeps the memory canonical (O3):
reflection, and memory accesses as they are performed.
-/

namespace Sys2Proof.Machine

open Sys2Proof.Safety

theorem transmit_wf {dev w s} (h : MemInv s) : MemInv (transmit dev w s) := by
  unfold transmit
  split <;> exact h

theorem sendSeq_wf {dev w id s} (h : MemInv s) : MemInv (sendSeq dev w id s) := transmit_wf h
theorem sendOn_wf {dev w id s} (h : MemInv s) : MemInv (sendOn dev w id s) :=
  wf_ite h (wf_ite (sendSeq_wf h) (wf_ite (sendSeq_wf h) h))

theorem sendWindow_wf {sender job site w off size bytes poison cmd s} (h : MemInv s) : SentWf
    (sendWindow sender job site w off size bytes poison cmd s) := by
  unfold sendWindow
  dsimp only
  split
  · exact trivial
  · split
    · exact logTile_wf h
    · split
      · exact trivial
      · exact foldl_wf _ _ _ (fun _ _ ht => sendOn_wf ht) h

theorem lwCount_wf {ks n s} (h : MemInv s) : MemInv (lwCount ks n s).2 := by
  unfold lwCount
  split
  · exact h
  · exact writeNat_wf _ _ _ h

theorem endBoot_wf {die s} (h : MemInv s) : MemInv (endBoot die s) :=
  foldl_wf _ _ _ (fun _ _ ht => ht) (foldl_wf _ _ _ (fun _ _ ht => ht) (modDie_wf h))

theorem afterAll_wf {i k s} (h : MemInv s) (hk : ∀ t, MemInv t → ResWf (k t)) : ResWf (afterAll i k s) := by
  unfold afterAll
  dsimp only
  split
  · exact inFlight_wf (drainAll_wf _ _ h)
  · exact hk _ (drainAll_wf _ _ h)

theorem memResult_wf {i lanes vals after s} (h : MemInv s) : MemInv (memResult i lanes vals after s) := by
  unfold memResult
  split
  · exact h
  · exact h
  · exact h
  · exact wxo_wf h
  · exact wxo_wf h
  · exact wxo_wf h
  · exact wxo_wf h
  · exact wxo_wf h
  · exact wxo_wf h
  · exact wxo_wf h
  · exact wxo_wf h
  · exact wxo_wf h
  · exact wxo_wf h
  · exact wxo_wf h
  · exact wxo_wf h
  · exact h
  · exact h
  · exact wxo_wf h
  · exact h

theorem orderLater_wf {i so s} (h : MemInv s) : MemInv (orderLater i so s) := by
  unfold orderLater
  split
  · exact h
  · exact h
  · split <;> exact h

theorem releaseLand_wf {i s} (h : MemInv s) : MemInv (releaseLand i s) := by
  unfold releaseLand
  split <;> exact h

theorem readOnce_wf {lanes un s} (h : MemInv s) : MemInv (readOnce lanes un s).2 := afterFound_wf h

theorem loadLanes_wf {i lanes ord s} (h : MemInv s) : MemInv (loadLanes i lanes ord s).2 := by
  unfold loadLanes
  split
  · exact h
  · split
    · exact List.foldlRecOn (motive := fun a : List Nat × State => MemInv a.2) lanes _ h fun _ ha _ _ => readOnce_wf ha
    · exact readOnce_wf h

theorem completeMem_wf {i lanes ord s} (h : MemInv s) : MemInv (completeMem i lanes ord s) := by
  unfold completeMem
  dsimp only
  split
  · exact next_wf _ (armMon_wf (drainFor_wf _ _ _ _ h))
  · split
    · exact raiseLate_wf _ _ _ (drainFor_wf _ _ _ _ h)
    · split
      · exact next_wf _ (memResult_wf (orderLater_wf (loadLanes_wf (drainFor_wf _ _ _ _ h))))
      · split
        · exact raiseLate_wf _ _ _ (performStore_wf _ _ _ _ _ _ (drainFor_wf _ _ _ _ h))
        · split
          · exact endBoot_wf (memResult_wf (reportPoison_wf _ _ _ (releaseLand_wf (orderLater_wf (wf_ite
              (performStore_wf _ _ _ _ _ _ (drainFor_wf _ _ _ _ h)) (noteOlds_wf (performStore_wf _ _ _ _ _ _
              (drainFor_wf _ _ _ _ h))))))))
          · exact next_wf _ (memResult_wf (reportPoison_wf _ _ _ (releaseLand_wf (orderLater_wf (wf_ite
              (performStore_wf _ _ _ _ _ _ (drainFor_wf _ _ _ _ h)) (noteOlds_wf (performStore_wf _ _ _ _ _ _
              (drainFor_wf _ _ _ _ h))))))))

theorem startMem_wf {i lanes ord rel reply s} (h : MemInv s) : MemInv (startMem i lanes ord rel reply s) :=
  wf_ite (completeMem_wf h) (wf_ite h (next_wf _ h))

theorem sendStore_wf {i w off size bytes s} (h : MemInv s) : MemInv (sendStore i w off size bytes s) := by
  unfold sendStore
  split
  · exact h
  · next hx =>
    have hx := wf_of_eq hx (sendWindow_wf h)
    exact next_wf _ hx

theorem storeWindow_wf {i o w off size bytes s} (h : MemInv s) : ResWf (storeWindow i o w off size bytes s) := by
  unfold storeWindow
  split
  · exact afterAll_wf h fun _ ht => sendStore_wf ht
  · exact sendStore_wf h

theorem memOne_wf {i g o m size align kind reply s} (h : MemInv s) : ResWf (memOne i g o m size align kind reply s) := by
  unfold memOne
  refine guarded_resWf h fun _ ht => ?_
  dsimp only
  split
  · exact stopped_wf ht
  · split
    · exact stopped_wf (accessWalked_wf ht)
    · next hy =>
      have hy := wf_of_eq hy (access_wf ht)
      split
      · exact storeWindow_wf hy
      · exact completeMem_wf hy
      · split
        · exact raise_wf _ _ _ hy
        · exact startMem_wf hy

theorem execSt_wf {g h sz o d m s} (hs : MemInv s) : ResWf (execSt g h sz o d m s) := memOne_wf hs

theorem execStn_wf {g h hi o d m s} (hs : MemInv s) : ResWf (execStn g h hi o d m s) := by
  unfold execStn
  split
  · exact raise_wf _ _ _ hs
  · exact memOne_wf hs

theorem memVec_wf {i g sz o mk m load s} (h : MemInv s) : ResWf (memVec i g sz o mk m load s) := by
  unfold memVec
  refine guarded_resWf h fun _ ht => ?_
  dsimp only
  split
  · exact stopped_wf ht
  · split
    · exact stopped_wf (accessWalked_wf ht)
    · next hy =>
      have hy := wf_of_eq hy (access_wf ht)
      split
      · exact storeWindow_wf hy
      · exact completeMem_wf hy
      · exact startMem_wf hy

theorem execStv_wf {g h sz o mk d m s} (hs : MemInv s) : ResWf (execStv g h sz o mk d m s) := memVec_wf hs

theorem elemPlaces_wf {sg n store l s} (h : MemInv s) : OkWf Prod.snd (elemPlaces sg n store l s) := by
  induction l generalizing s with
  | nil => exact h
  | cons x r ih =>
    unfold elemPlaces
    split
    · exact trivial
    · next hx =>
      have hx := wf_of_eq hx (access_wf h)
      dsimp only
      split
      · exact trivial
      · next hy =>
        have hy := wf_of_eq hy (ih hx)
        exact hy

theorem elemWalked_wf {sg n store l s} (h : MemInv s) : MemInv (elemWalked sg n store l s) := by
  induction l generalizing s with
  | nil => exact h
  | cons x r ih =>
    unfold elemWalked
    split
    · exact accessWalked_wf h
    · next hx =>
      have hx := wf_of_eq hx (access_wf h)
      exact ih hx

theorem scatterWindow_wf {i n m l s} (h : MemInv s) : MemInv (scatterWindow i n m l s) := by
  induction l generalizing m s with
  | nil => exact next_wf _ h
  | cons x r ih =>
    unfold scatterWindow
    split
    · split
      · exact ih h
      · dsimp only
        split
        · exact h
        · next hx =>
          have hx := wf_of_eq hx (sendWindow_wf h)
          exact ih hx
    · exact ih h

theorem handOffLanes_wf {i l s} (h : MemInv s) : MemInv (handOffLanes i l s) :=
  next_wf _ (readyIn_wf (foldl_wf _ _ _ (fun _ _ ht => ht) h))

theorem memGather_wf {i g sz scl o mk m b load s} (h : MemInv s) : ResWf (memGather i g sz scl o mk m b load s) := by
  unfold memGather
  refine guarded_resWf h fun _ ht => ?_
  dsimp only
  split
  · exact stopped_wf ht
  · split
    · exact stopped_wf (elemWalked_wf ht)
    · next hy =>
      have hy := wf_of_eq hy (elemPlaces_wf ht)
      split
      · split
        · exact afterAll_wf hy fun _ hu => scatterWindow_wf hu
        · exact scatterWindow_wf hy
      · split
        · exact startMem_wf hy
        · next ha => exact handOffLanes_wf hy

theorem execScat_wf {g h sz scl o mk d m b s} (hs : MemInv s) : ResWf (execScat g h sz scl o mk d m b s) := memGather_wf hs
theorem memAtomic_wf {i g n o nr m s} (h : MemInv s) : ResWf (memAtomic i g n o nr m s) := memOne_wf h
theorem endFence_wf {o mask scope s} (h : MemInv s) : MemInv (endFence o mask scope s) := next_wf _ (wf_ite h h)

theorem execFence_wf {g o mask scope s} (h : MemInv s) : ResWf (execFence g o mask scope s) := by
  unfold execFence
  refine guarded_resWf h fun _ ht => ?_
  split
  · exact ht
  · exact endFence_wf ht

theorem execFenceComplete_wf {e s} (h : MemInv s) : ResWf (execFenceComplete e s) := by
  unfold execFenceComplete
  split
  · split
    · exact h
    · exact endFence_wf h
  · exact h

theorem execPoisonReport_wf {e addr s} (h : MemInv s) : ResWf (execPoisonReport e addr s) := enqueue_wf (logTile_wf h)

end Sys2Proof.Machine
end

section
/-!
PROOFS. Every step keeps the memory canonical (O3):
queue instructions, counters and monitors.
-/

namespace Sys2Proof.Machine

open Sys2Proof.Safety

theorem badHandle_wf {c h s} (hs : MemInv s) : ResWf (badHandle c h s) := raise_wf _ _ _ hs
theorem defineQueue_wf {k d job ring s} (h : MemInv s) : MemInv (defineQueue k d job ring s) :=
  foldl_wf _ _ _ (fun _ _ ht => ht) h

theorem qdefWith_wf {d q s} (h : MemInv s) : MemInv (qdefWith d q s) := by
  unfold qdefWith
  dsimp only
  split
  · exact next_wf _ h
  · split
    · exact next_wf _ h
    · exact next_wf _ (wx_wf (defineQueue_wf h))

theorem execQdef_wf {g d m s} (h : MemInv s) : ResWf (execQdef g d m s) := by
  unfold execQdef
  dsimp only
  refine guarded_resWf h fun _ ht => ?_
  split
  · exact stopped_wf ht
  · split
    · exact stopped_wf (drainFor_wf _ _ _ _ ht)
    · split
      · exact raiseLate_wf _ _ _ (drainFor_wf _ _ _ _ ht)
      · exact qdefWith_wf (releaseKilled_wf (drainFor_wf _ _ _ _ ht))

theorem edgesOf_wf {q s} (h : MemInv s) : MemInv (edgesOf q s) := foldl_wf _ _ _ (fun _ _ ht => ht) h

theorem killQueue_wf {h s} (hs : MemInv s) : MemInv (killQueue h s) :=
  foldl_wf _ _ _ (fun _ _ ht => edgesOf_wf ht) (asStrand_wf (foldl_wf _ _ _ (fun _ _ ht => raiseAt_wf _ _ _ _ _ ht)
      (foldl_wf _ _ _ (fun _ _ ht => ht) (foldl_wf _ _ _ (fun _ _ ht => wakeQueue_wf ht) hs))))

theorem execQkill_wf {g a s} (h : MemInv s) : ResWf (execQkill g a s) := by
  unfold execQkill
  refine guarded_resWf h fun _ ht => ?_
  dsimp only
  split
  · exact badHandle_wf ht
  · split
    · exact badHandle_wf ht
    · exact next_wf _ (killQueue_wf ht)

theorem execQbind_wf {g port a b s} (h : MemInv s) : ResWf (execQbind g port a b s) := by
  unfold execQbind
  refine guarded_resWf h fun _ ht => ?_
  dsimp only
  split
  · exact badHandle_wf ht
  · split
    · exact raise_wf _ _ _ ht
    · exact next_wf _ ht

theorem wTry_wf {try_ v s} (h : MemInv s) : MemInv (wTry try_ v s) := by
  unfold wTry
  split <;> exact h

theorem tryOrWait_wf {i try_ q s} (h : MemInv s) : MemInv (tryOrWait i try_ q s) := by
  unfold tryOrWait
  split
  · exact next_wf _ h
  · exact h

theorem pushData_wf {i try_ k b s} (h : MemInv s) : MemInv (pushData i try_ k b s) :=
  wf_ite (next_wf _ (wTry_wf (push_wf h))) (tryOrWait_wf (pushReady_wf h))

theorem execQpush_wf {g try_ rel a b s} (h : MemInv s) : ResWf (execQpush g try_ rel a b s) := by
  unfold execQpush
  refine guarded_resWf h fun _ ht => ?_
  dsimp only
  split
  · exact badHandle_wf ht
  · split
    · exact afterAll_wf ht fun _ hu => pushData_wf hu
    · exact pushData_wf ht

theorem writeEntry_wf {d bs s} (h : MemInv s) : MemInv (writeEntry d bs s) := by
  unfold writeEntry
  split <;> exact h

theorem execQpop_wf {g try_ acq d a b s} (h : MemInv s) : ResWf (execQpop g try_ acq d a b s) := by
  unfold execQpop
  refine guarded_resWf h fun _ ht => ?_
  dsimp only
  split
  · exact badHandle_wf ht
  · split
    · exact tryOrWait_wf ht
    · split
      · exact raiseLate_wf _ _ _ ht
      · split
        · exact raiseLate_wf _ _ _ ht
        · exact boundaryEdge_wf (setPc_wf (wTry_wf (wx_wf (writeEntry_wf (pop_wf (wf_ite ht ht))))))

theorem execQpeek_wf {g try_ acq d a b s} (h : MemInv s) : ResWf (execQpeek g try_ acq d a b s) := by
  unfold execQpeek
  refine guarded_resWf h fun _ ht => ?_
  dsimp only
  split
  · exact badHandle_wf ht
  · split
    · exact tryOrWait_wf ht
    · split
      · exact raiseLate_wf _ _ _ ht
      · exact next_wf _ (wTry_wf (wx_wf (writeEntry_wf (wf_ite ht ht))))

theorem pushMark_wf {i k kind pl s} (h : MemInv s) : MemInv (pushMark i k kind pl s) :=
  wf_ite (boundaryEdge_wf (setPc_wf (push_wf h))) (waitFor_wf (pushReady_wf h))

theorem execQmark_wf {g kind a b s} (h : MemInv s) : ResWf (execQmark g kind a b s) := by
  unfold execQmark
  dsimp only
  refine guarded_resWf h fun _ ht => ?_
  split
  · split
    · exact raise_wf _ _ _ ht
    · exact pushMark_wf ht
  · split
    · exact badHandle_wf ht
    · exact pushMark_wf ht

theorem execQstat_wf {g sel d a s} (h : MemInv s) : ResWf (execQstat g sel d a s) := by
  unfold execQstat
  refine guarded_resWf h fun _ ht => ?_
  dsimp only
  split
  · exact badHandle_wf ht
  · exact next_wf _ ht

theorem spillRead_wf {qk q k n s} (h : MemInv s) : SomeWf Prod.snd (spillRead qk q k n s) := by
  induction k generalizing n s with
  | zero => exact h
  | succ k ih =>
    unfold spillRead
    split
    · next hx =>
      have hx := wf_of_eq hx (spillAccess_wf h)
      exact someWf_map (ih hx) fun _ hr => hr
    · exact trivial

theorem spillWrite_wf {qk q l s} (h : MemInv s) : SomeWf id (spillWrite qk q l s) := by
  induction l generalizing s with
  | nil => exact h
  | cons x r ih =>
    unfold spillWrite
    split
    · next hx =>
      have hx := wf_of_eq hx (spillAccess_wf h)
      exact ih (writeBytes_wf _ _ hx)
    · exact trivial

theorem resizeSpill_wf {qk size s} (h : MemInv s) : SomeWf id (resizeSpill qk size s) := by
  unfold resizeSpill
  dsimp only
  split
  · exact h
  · split
    · exact trivial
    · next hx =>
      have hx := wf_of_eq hx (spillRead_wf h)
      exact someWf_map (spillWrite_wf hx) fun _ ht => ht

theorem enlargeSpill_wf {q size s} (h : MemInv s) : MemInv (enlargeSpill q size s) := by
  unfold enlargeSpill
  split
  · exact SomeWf.getD (resizeSpill_wf h) h
  · exact h

theorem execQueueHeldEnd_wf {q s} (h : MemInv s) : ResWf (execQueueHeldEnd q s) := by
  unfold execQueueHeldEnd
  split
  · exact enqueueOnce_wf h
  · split
    · exact wakeQueue_wf (wf_ite (enqueue_wf (refill_wf (modQueue_wf (takeFault_wf h)))) (refill_wf (modQueue_wf
        (takeFault_wf h))))
    · exact h

theorem landWord_wf {i g o m reply s} (h : MemInv s) : ResWf (landWord i g o m reply s) := by
  unfold landWord
  refine guarded_resWf h fun _ ht => ?_
  split
  · exact stopped_wf ht
  · split
    · exact stopped_wf ht
    · next hy =>
      have hy := wf_of_eq hy (access_wf ht)
      split
      · exact startMem_wf hy
      · exact completeMem_wf hy

theorem execMarm_wf {g slot m s} (h : MemInv s) : ResWf (execMarm g slot m s) := by
  unfold execMarm
  refine guarded_resWf h fun _ ht => ?_
  split
  · exact stopped_wf ht
  · split
    · exact stopped_wf ht
    · next hy =>
      have hy := wf_of_eq hy (access_wf ht)
      split
      · exact startMem_wf hy
      · exact next_wf _ hy

theorem mwaitDone_wf {d extra s} (h : MemInv s) : MemInv (mwaitDone d extra s) := next_wf _ h

theorem mwaitEnd_wf {e extra s} (h : MemInv s) : MemInv (mwaitEnd e extra s) := by
  unfold mwaitEnd
  split
  · exact mwaitDone_wf h
  · exact h

theorem execMwait_wf {g d b s} (h : MemInv s) : ResWf (execMwait g d b s) := by
  unfold execMwait
  refine guarded_resWf h fun _ ht => ?_
  split
  · exact mwaitDone_wf ht
  · exact ht

theorem mwaitTouched_wf {e s} (h : MemInv s) : MemInv (mwaitTouched e s) := by
  unfold mwaitTouched
  split
  · exact next_wf _ h
  · exact h

theorem execMwaitWake_wf {e s} (h : MemInv s) : ResWf (execMwaitWake e s) := by
  unfold execMwaitWake
  dsimp only
  split
  · exact mwaitEnd_wf h
  · exact mwaitTouched_wf h

theorem execMwaitLimitExpiry_wf {e s} (h : MemInv s) : ResWf (execMwaitLimitExpiry e s) := by
  unfold execMwaitLimitExpiry
  dsimp only
  split
  · split
    · exact mwaitEnd_wf h
    · exact h
  · exact h

theorem execMclr_wf {g b s} (h : MemInv s) : ResWf (execMclr g b s) := guarded_resWf h fun _ ht => next_wf _ ht
theorem execRng_wf {g d s} (h : MemInv s) : ResWf (execRng g d s) :=
  guarded_resWf h fun _ ht => next_wf _ (wx_wf (takeSteps_wf ht))
theorem execVrng_wf {g mk d s} (h : MemInv s) : ResWf (execVrng g mk d s) :=
  guarded_resWf h fun _ ht => next_wf _ (wv_wf (takeSteps_wf ht))

end Sys2Proof.Machine
end

section
/-!
PROOFS. Every step keeps the memory canonical (O3):
what the engines share, and the cellar.
-/

namespace Sys2Proof.Machine

open Sys2Proof.Safety

theorem wakeEngine_wf {s} (h : MemInv s) : MemInv (wakeEngine s) := wakeFences_wf (releaseKilled_wf h)
theorem takeStep_wf {e s} (h : MemInv s) : MemInv (takeStep e s).2 := h

theorem engineBytes_wf {site job a n store s} (h : MemInv s) : OkWf Access.st (engineBytes site job a n store s) := by
  unfold engineBytes
  dsimp only
  split
  · exact h
  · split
    · split
      · exact trivial
      · next hz =>
        have hz := wf_of_eq hz (translate_wf h)
        split
        · exact trivial
        · next ha =>
          have ha := wf_of_eq ha (translate_wf hz)
          exact ha
    · exact resolve_wf h

theorem engineWalked_wf {site job a n store s} (h : MemInv s) : MemInv (engineWalked site job a n store s) := by
  unfold engineWalked
  dsimp only
  split
  · exact h
  · split
    · exact walked_wf h
    · next hy =>
      have hy := wf_of_eq hy (translate_wf h)
      exact walked_wf hy

theorem engineWrite_wf {cls at_ l bad s} (h : MemInv s) : MemInv (engineWrite cls at_ l bad s) :=
  poisonKeys_wf (noteOlds_wf (writeBytes_wf _ _ h))

theorem writeLineOf_wf {cls at_ l s} (h : MemInv s) : MemInv (writeLineOf cls at_ l s) := by
  unfold writeLineOf
  split
  · exact h
  · exact engineWrite_wf h

theorem engineFault_wf {die unit va kind path store job detail s} (h : MemInv s) : MemInv
    (engineFault die unit va kind path store job detail s) := by
  unfold engineFault
  dsimp only
  split
  · next hx =>
    have hx := wf_of_eq hx (sendFault_wf h)
    exact hx
  · exact h

theorem engineLog_wf {job en s} (h : MemInv s) : MemInv (engineLog job en s) := by
  unfold engineLog
  split
  · exact h
  · exact logTo_wf _ _ _ h

theorem walkPage_wf {c store s va} (h : MemInv s) : MemInv (walkPage c store s va) := by
  unfold walkPage
  split
  · next hx =>
    have hx := wf_of_eq hx (translate_wf h)
    exact hx
  · exact h

theorem cellarWalked_wf {u c ops s} (h : MemInv s) : MemInv (cellarWalked u c ops s) := by
  unfold cellarWalked
  split
  · exact h
  · exact foldl_wf _ _ _ (fun _ _ ht => walkPage_wf ht) h
  · exact foldl_wf _ _ _ (fun _ _ ht => walkPage_wf ht) (foldl_wf _ _ _ (fun _ _ ht => walkPage_wf ht) h)

theorem cellarRow_wf {u c f t r pas s} (h : MemInv s) : MemInv (cellarRow u c f t r pas s) := wf_ite h h
theorem cellarLine_wf {u s} (h : MemInv s) : MemInv (cellarLine u s) := writeLineOf_wf h

theorem cellarCheck_wf {u c s} (h : MemInv s) : MemInv (cellarCheck u c s).2 := by
  unfold cellarCheck
  dsimp only
  split
  · exact h
  · split <;> exact cellarWalked_wf h

theorem cellarAccept_wf {u c s} (h : MemInv s) : MemInv (cellarAccept u c s) :=
  next_wf _ (enqueue_wf (modCellar_wf (wf_ite_snd (takeStep_wf h) h)))

theorem cellarIssue_wf {i g d m alpha s} (h : MemInv s) : ResWf (cellarIssue i g d m alpha s) := by
  unfold cellarIssue
  refine guarded_resWf h fun _ ht => ?_
  dsimp only
  split
  · exact stopped_wf ht
  · split
    · exact raise_wf _ _ _ ht
    · refine afterAll_wf ht fun _ hu => ?_
      split
      · exact raiseLate_wf _ _ _ hu
      · split
        · exact cellarAccept_wf hu
        · exact hu

theorem execNsum_wf {g h d m s} (hs : MemInv s) : ResWf (execNsum g h d m s) := cellarIssue_wf hs
theorem execNmax_wf {g h d m s} (hs : MemInv s) : ResWf (execNmax g h d m s) := cellarIssue_wf hs
theorem execNaxpy_wf {g h d m b s} (hs : MemInv s) : ResWf (execNaxpy g h d m b s) := cellarIssue_wf hs
theorem execNscale_wf {g h d m b s} (hs : MemInv s) : ResWf (execNscale g h d m b s) := cellarIssue_wf hs
theorem execNcvt_wf {g h d m s} (hs : MemInv s) : ResWf (execNcvt g h d m s) := cellarIssue_wf hs
theorem execNdot_wf {g h d m s} (hs : MemInv s) : ResWf (execNdot g h d m s) := cellarIssue_wf hs

theorem cellarFinish_wf {u s} (h : MemInv s) : MemInv (cellarFinish u s) := by
  unfold cellarFinish
  dsimp only
  split
  · split
    · split
      · exact kickWatch_wf (wakeEngine_wf (modCellar_wf (pushEntry_wf h)))
      · exact enqueue_wf (kickWatch_wf (wakeEngine_wf (modCellar_wf (pushEntry_wf h))))
    · exact pushEntry_wf h
  · exact h

theorem cellarEnd_wf {u c f s} (h : MemInv s) : MemInv (cellarEnd u c f s) :=
  cellarFinish_wf (wakeFences_wf (modCellar_wf (engineLog_wf h)))

theorem execCellarCommandComplete_wf {u s} (h : MemInv s) : ResWf (execCellarCommandComplete u s) := by
  unfold execCellarCommandComplete
  dsimp only
  split
  · exact h
  · exact cellarFinish_wf h
  · split
    · exact enqueue_wf (cellarLine_wf h)
    · split
      · exact h
      · split
        · next ha =>
          split
          · next hb =>
            have hb := wf_snd hb (cellarCheck_wf h)
            exact cellarEnd_wf hb
          · next hb =>
            have hb := wf_snd hb (cellarCheck_wf h)
            split
            · exact trivial
            · exact hb
        · split
          · split
            · exact enqueue_wf (cellarRow_wf h)
            · exact cellarEnd_wf h
          · exact cellarEnd_wf h

end Sys2Proof.Machine
end

section
/-!
PROOFS. Every step keeps the memory canonical (O3):
the loom.
-/

namespace Sys2Proof.Machine

open Sys2Proof.Safety

theorem loomRead_wf {site job a n s} (h : MemInv s) : OkWf (·.2.2) (loomRead site job a n s) := by
  unfold loomRead
  split
  · exact trivial
  · next hx =>
    have hx := wf_of_eq hx (engineBytes_wf h)
    split <;> exact hx

theorem loomReads_wf {site job l got s} (h : MemInv s) : LReadsWf (loomReads site job l got s) := by
  induction l generalizing got s with
  | nil => exact h
  | cons x r ih =>
    unfold loomReads
    split
    · exact engineWalked_wf h
    · next hx =>
      have hx := wf_of_eq hx (loomRead_wf h)
      exact ih hx

theorem loomStall_wf {y blk c va kind opnd koff store s} (h : MemInv s) : TurnWf
    (loomStall y blk c va kind opnd koff store s) :=
  engineFault_wf h

theorem loomErrorAt_wf {y c va s} (h : MemInv s) : TurnWf (loomErrorAt y c va s) := by
  unfold loomErrorAt
  split
  · exact loomStall_wf h
  · exact loomStall_wf h
  · split <;> exact loomStall_wf h
  · exact loomStall_wf h
  · exact loomStall_wf h

theorem loomFail_wf {y blk cls c s} (h : MemInv s) : TurnWf (loomFail y blk cls c s) := h
theorem loomPoison_wf {y blk c s} (h : MemInv s) : TurnWf (loomPoison y blk c s) := h

theorem prodGroups_wf {y site x d sparse f c s} (h : MemInv s) : TurnWf (prodGroups y site x d sparse f c s) := by
  induction f generalizing c s with
  | zero => exact h
  | succ f ih =>
    unfold prodGroups
    generalize (if sparse then 96 else 32) = size
    refine iteInduction (motive := TurnWf) (fun _ => h) fun _ => ?_
    dsimp only
    · split
      · next hx =>
        have hx := wf_of_eq hx (loomReads_wf h)
        exact loomStall_wf hx
      · exact trivial
      · next hx =>
        have hx := wf_of_eq hx (loomReads_wf h)
        refine iteInduction (motive := TurnWf) (fun _ => hx) fun _ => ?_
        exact iteInduction (motive := TurnWf) (fun _ => hx) fun _ => ih hx

theorem chainCheck_wf {y c d s} (h : MemInv s) : TurnWf (chainCheck y c d s) := by
  unfold chainCheck
  dsimp only
  split
  · exact loomFail_wf h
  · exact loomFail_wf h
  · exact loomFail_wf h
  · split
    · exact loomFail_wf h
    · exact h

theorem prodTurn_wf {y site ctx sparse c s} (h : MemInv s) : TurnWf (prodTurn y site ctx sparse c s) := by
  unfold prodTurn
  dsimp only
  split
  · exact loomFail_wf h
  · split
    · split
      · exact loomFail_wf h
      · split
        · next ha => exact chainCheck_wf h
        · exact prodGroups_wf h
    · exact prodGroups_wf h

theorem openRecord_wf {y blk c base s} (h : MemInv s) : MemInv (openRecord y blk c base s) := wf_ite h h

theorem withdrawEntry_wf {y c s} (h : MemInv s) : MemInv (withdrawEntry y c s) := by
  unfold withdrawEntry
  split <;> exact h

theorem loadTurn_wf {y site opens c s} (h : MemInv s) : TurnWf (loadTurn y site opens c s) := by
  unfold loadTurn
  dsimp only
  split
  · exact loomFail_wf h
  · split
    · exact loomFail_wf h
    · exact loomFail_wf h
    · split
      · next hz =>
        have hz := wf_of_eq hz (loomReads_wf h)
        exact loomStall_wf hz
      · exact trivial
      · next hz =>
        have hz := wf_of_eq hz (loomReads_wf h)
        split
        · exact loomPoison_wf (wf_ite (openRecord_wf hz) hz)
        · exact wf_ite (openRecord_wf hz) hz

theorem loomReply_wf {c f s} (h : MemInv s) (hk : ∀ t, MemInv t → MemInv (f t)) : MemInv (loomReply c f s) := by
  unfold loomReply
  split
  · split
    · exact hk _ h
    · exact h
  · exact h

theorem drainStart_wf {y c s} (h : MemInv s) : TurnWf (drainStart y c s) := by
  unfold drainStart
  dsimp only
  split
  · exact loomReply_wf (wf_ite_snd (takeStep_wf h) h) fun _ ht => next_wf _ ht
  · split
    · exact loomReply_wf (wf_ite_snd (takeStep_wf h) h) fun _ ht => raiseLate_wf _ _ _ ht
    · exact loomReply_wf (wf_ite_snd (takeStep_wf h) h) fun _ ht => raiseLate_wf _ _ _ ht
    · split
      · split
        · exact loomReply_wf (modBlock_wf (takeStep_wf h)) fun _ ht => raiseLate_wf _ _ _ ht
        · exact loomReply_wf (wf_ite (modBlock_wf (takeStep_wf h)) (modBlock_wf (modBlock_wf (takeStep_wf h))))
            fun _ ht => next_wf _ ht
      · split
        · exact loomReply_wf h fun _ ht => raiseLate_wf _ _ _ ht
        · exact loomReply_wf (wf_ite h h) fun _ ht => next_wf _ ht

theorem drainRows_wf {y f draws n c s} (h : MemInv s) : TurnWf (drainRows y f draws n c s) := by
  induction n generalizing c s with
  | zero => exact h
  | succ n ih =>
    unfold drainRows
    dsimp only
    split
    · exact loomStall_wf (enqueue_wf (engineWalked_wf h))
    · exact trivial
    · next hx =>
      have hx := wf_of_eq hx (engineBytes_wf h)
      split
      · exact ih hx
      · exact trivial

theorem drainTurn_wf {y c s} (h : MemInv s) : TurnWf (drainTurn y c s) := by
  unfold drainTurn
  split
  · exact drainStart_wf h
  · split
    · exact h
    · exact drainRows_wf h

theorem drainLine_wf {y t s} (h : MemInv s) : MemInv (drainLine y t s) := by
  unfold drainLine
  dsimp only
  split
  · split
    · exact h
    · split
      · next hz =>
        have hz := wf_of_eq hz (loomErrorAt_wf h)
        exact hz
      · exact h
  · split
    · exact wakeFences_wf (enqueue_wf (setLines_wf (writeLineOf_wf h)))
    · exact enqueue_wf (setLines_wf (writeLineOf_wf h))

theorem drainEnd_wf {y c s} (h : MemInv s) : MemInv (drainEnd y c s) := by
  unfold drainEnd
  split <;> exact h

theorem mchkTurn_wf {y c s} (h : MemInv s) : TurnWf (mchkTurn y c s) := by
  unfold mchkTurn
  dsimp only
  split
  · exact loomReply_wf h fun _ ht => next_wf _ ht
  · exact loomReply_wf h fun _ ht => raiseLate_wf _ _ _ ht
  · exact loomReply_wf h fun _ ht => raiseLate_wf _ _ _ ht
  · split
    · exact loomReply_wf h fun _ ht => raiseLate_wf _ _ _ ht
    · exact loomReply_wf h fun _ ht => next_wf _ ht

theorem mlocTurn_wf {y c s} (h : MemInv s) : TurnWf (mlocTurn y c s) := by
  unfold mlocTurn
  dsimp only
  split
  · exact h
  · exact loomReply_wf (writeBytes_wf _ _ h) fun _ ht => next_wf _ ht

theorem mcorrTurn_wf {y c s} (h : MemInv s) : TurnWf (mcorrTurn y c s) := by
  unfold mcorrTurn
  dsimp only
  split
  · split
    · exact loomReply_wf h fun _ ht => next_wf _ ht
    · split
      · exact loomReply_wf h fun _ ht => next_wf _ ht
      · split
        · split
          · exact h
          · exact loomReply_wf h fun _ ht => next_wf _ ht
        · exact loomReply_wf h fun _ ht => next_wf _ ht
  · split
    · split
      · exact loomReply_wf h fun _ ht => next_wf _ ht
      · exact h
    · exact loomReply_wf h fun _ ht => next_wf _ ht

theorem mstatTurn_wf {y c s} (h : MemInv s) : TurnWf (mstatTurn y c s) := loomReply_wf h fun _ ht => next_wf _ ht

theorem mzeroTurn_wf {y c s} (h : MemInv s) : TurnWf (mzeroTurn y c s) := by
  unfold mzeroTurn
  dsimp only
  split
  · split
    · exact logTo_wf _ _ _ h
    · exact wf_ite h (openRecord_wf h)
  · exact h

theorem retryEnd_wf {y blk cls c s} (h : MemInv s) : TurnWf (retryEnd y blk cls c s) := h
theorem retryPoison_wf {y blk c s} (h : MemInv s) : TurnWf (retryPoison y blk c s) := retryEnd_wf h
theorem retryAt_wf {y blk n c s} (h : MemInv s) : MemInv (retryAt y blk n c s).2 := h

theorem retryEntry_wf {y blk n r e c s} (h : MemInv s) : TurnWf (retryEntry y blk n r e c s) := by
  unfold retryEntry
  dsimp only
  split
  · exact retryPoison_wf h
  · split
    · split
      · exact retryEnd_wf h
      · split
        · exact trivial
        · next ha =>
          have ha := wf_of_eq ha (prodTurn_wf h)
          exact ha
        · next ha =>
          have ha := wf_of_eq ha (prodTurn_wf h)
          split
          · split
            · exact retryAt_wf ha
            · exact retryEnd_wf ha
          · exact retryEnd_wf ha
    · split
      · exact retryEnd_wf h
      · split
        · exact trivial
        · next ha =>
          have ha := wf_of_eq ha (prodTurn_wf h)
          exact ha
        · next ha =>
          have ha := wf_of_eq ha (prodTurn_wf h)
          split
          · split
            · exact retryAt_wf ha
            · exact retryEnd_wf ha
          · exact retryEnd_wf ha

theorem retryFirst_wf {y blk r c s} (h : MemInv s) : TurnWf (retryFirst y blk r c s) := by
  unfold retryFirst
  split
  · exact retryEnd_wf h
  · exact retryAt_wf h

theorem retryBase_wf {y blk r c s} (h : MemInv s) : TurnWf (retryBase y blk r c s) := by
  unfold retryBase
  dsimp only
  split
  · split
    · exact retryPoison_wf h
    · split
      · split
        · exact retryEnd_wf h
        · next ha =>
          split
          · exact trivial
          · next hb =>
            have hb := wf_of_eq hb (loadTurn_wf h)
            exact hb
          · next hb =>
            have hb := wf_of_eq hb (loadTurn_wf h)
            split
            · exact retryFirst_wf hb
            · exact retryEnd_wf hb
      · split
        · exact retryEnd_wf h
        · next ha =>
          split
          · exact trivial
          · next hb =>
            have hb := wf_of_eq hb (loadTurn_wf h)
            exact hb
          · next hb =>
            have hb := wf_of_eq hb (loadTurn_wf h)
            split
            · exact retryFirst_wf hb
            · exact retryEnd_wf hb
  · exact retryFirst_wf h

theorem mretryTurn_wf {y c s} (h : MemInv s) : TurnWf (mretryTurn y c s) := by
  unfold mretryTurn
  dsimp only
  split
  · split
    · exact h
    · split
      · exact h
      · split
        · exact h
        · exact retryBase_wf h
  · split
    · exact retryBase_wf h
    · split
      · exact retryEnd_wf h
      · exact retryEntry_wf h

theorem loomCmdTurn_wf {y t c s} (h : MemInv s) : TurnWf (loomCmdTurn y t c s) := by
  unfold loomCmdTurn
  dsimp only
  split
  · exact h
  · exact mzeroTurn_wf h
  · split
    · exact prodTurn_wf h
    · split
      · exact h
      · exact prodTurn_wf h
  · split
    · exact prodTurn_wf h
    · split
      · exact h
      · exact prodTurn_wf h
  · split
    · exact h
    · exact loadTurn_wf h
  · exact drainTurn_wf h
  · exact mchkTurn_wf h
  · exact mlocTurn_wf h
  · exact mcorrTurn_wf h
  · exact mstatTurn_wf h
  · exact mretryTurn_wf h
  · exact h

theorem loomPop_wf {y t s} (h : MemInv s) : MemInv (loomPop y t s) := by
  unfold loomPop
  dsimp only
  split
  · exact enqueue_wf (wakeEngine_wf (foldl_wf _ _ _ (fun _ _ ht => wf_ite ht ht) (kickWatch_wf h)))
  · exact enqueue_wf (wakeEngine_wf (foldl_wf _ _ _ (fun _ _ ht => wf_ite ht ht) h))

theorem loomEnd_wf {y t cls c s} (h : MemInv s) : MemInv (loomEnd y t cls c s) := by
  unfold loomEnd
  split
  · exact loomPop_wf h
  · exact wakeFences_wf (enqueue_wf (enqueue_wf (modLoom_wf (engineLog_wf (wf_ite h (withdrawEntry_wf h))))))

theorem loomAbort_wf {y cls c s} (h : MemInv s) : TurnWf (loomAbort y cls c s) := by
  unfold loomAbort
  dsimp only
  split
  · split
    · split
      · split
        · exact raiseLate_wf _ _ _ (readyIn_wf (asStrand_wf (wf_ite h h)))
        · split <;> exact raiseLate_wf _ _ _ (readyIn_wf (asStrand_wf (wf_ite h h)))
      · split
        · exact raiseLate_wf _ _ _ (readyIn_wf (asStrand_wf (wf_ite h h)))
        · split <;> exact raiseLate_wf _ _ _ (readyIn_wf (asStrand_wf (wf_ite h h)))
    · split
      · split
        · exact wf_ite h h
        · split <;> exact wf_ite h h
      · split
        · exact wf_ite h h
        · split <;> exact wf_ite h h
  · split
    · split
      · exact wf_ite h h
      · split <;> exact wf_ite h h
    · split
      · exact wf_ite h h
      · split <;> exact wf_ite h h

theorem execLoomTurn_wf {yard s} (h : MemInv s) : ResWf (execLoomTurn yard s) := by
  unfold execLoomTurn
  dsimp only
  split
  · exact h
  · split
    · exact h
    · next t c _ =>
      have ht : TurnWf (match c.fclass with
          | some cls => loomAbort yard cls c (modLoom yard (fun l => { l with rr := (t + 1) % 16 }) s)
          | none => loomCmdTurn yard t { c with started := true } (modLoom yard (fun l => { l with rr := (t + 1) % 16 })
              s)) := by
        split
        · exact loomAbort_wf h
        · exact loomCmdTurn_wf h
      split
      · exact trivial
      · next hx =>
        have hx := wf_of_eq hx ht
        exact hx
      · next hx =>
        have hx := wf_of_eq hx ht
        exact asStrand_wf (loomEnd_wf hx)

theorem execLoomCommandComplete_wf {yard t s} (h : MemInv s) : ResWf (execLoomCommandComplete yard t s) := by
  unfold execLoomCommandComplete
  dsimp only
  split
  · exact drainLine_wf h
  · split
    · exact wf_ite (loomEnd_wf (drainEnd_wf h)) h
    · split
      · exact loomPop_wf (pushEntry_wf h)
      · exact pushEntry_wf h
    · exact h

theorem loomAccept_wf {c s} (h : MemInv s) : MemInv (loomAccept c s) := wf_ite h (next_wf _ h)
theorem loomIssue_wf {c s} (h : MemInv s) : MemInv (loomIssue c s) :=
  wf_ite (inFlight_wf (drainAll_wf _ _ h)) (wf_ite (loomAccept_wf (readyIn_wf (drainAll_wf _ _ h))) (drainAll_wf _ _ h))

theorem loomMem_wf {i g d m s} (h : MemInv s) : ResWf (loomMem i g d m s) := by
  unfold loomMem
  refine guarded_resWf h fun _ ht => ?_
  dsimp only
  split
  · exact stopped_wf ht
  · split
    · exact raise_wf _ _ _ ht
    · split
      · exact raise_wf _ _ _ ht
      · split
        · exact raiseLate_wf _ _ _ (drainFor_wf _ _ _ _ ht)
        · exact loomIssue_wf (drainFor_wf _ _ _ _ ht)

theorem loomSync_wf {i b step s} (h : MemInv s) : MemInv (loomSync i b step s) := wf_ite (loomIssue_wf h) (raise_wf _ _ _ h)

theorem execMcfg_wf {g b s} (h : MemInv s) : ResWf (execMcfg g b s) := by
  unfold execMcfg
  refine guarded_resWf h fun _ ht => ?_
  dsimp only
  split
  · exact illegal_wf ht
  · exact loomIssue_wf ht

theorem execMzero_wf {g int nort b s} (h : MemInv s) : ResWf (execMzero g int nort b s) :=
  guarded_resWf h fun _ ht => loomIssue_wf ht
theorem execMmul_wf {g d m s} (h : MemInv s) : ResWf (execMmul g d m s) := loomMem_wf h
theorem execMmuls_wf {g d m s} (h : MemInv s) : ResWf (execMmuls g d m s) := loomMem_wf h
theorem execMloada_wf {g d m s} (h : MemInv s) : ResWf (execMloada g d m s) := loomMem_wf h
theorem execMdrain_wf {g d m s} (h : MemInv s) : ResWf (execMdrain g d m s) := loomMem_wf h
theorem execMchk_wf {g d b s} (h : MemInv s) : ResWf (execMchk g d b s) := guarded_resWf h fun _ ht => loomSync_wf ht

theorem execMloc_wf {g d m b s} (h : MemInv s) : ResWf (execMloc g d m b s) := by
  unfold execMloc
  refine guarded_resWf h fun _ ht => ?_
  split
  · exact stopped_wf ht
  · exact loomSync_wf ht

theorem execMcorr_wf {g d b s} (h : MemInv s) : ResWf (execMcorr g d b s) := guarded_resWf h fun _ ht => loomSync_wf ht

theorem execMretry_wf {g d b s} (h : MemInv s) : ResWf (execMretry g d b s) := by
  unfold execMretry
  refine guarded_resWf h fun _ ht => ?_
  split
  · exact raise_wf _ _ _ ht
  · exact loomIssue_wf ht

theorem execMinj_wf {g a s} (h : MemInv s) : ResWf (execMinj g a s) := by
  unfold execMinj
  refine stewardOnly_wf h fun _ ht => ?_
  refine guarded_resWf ht fun _ hu => ?_
  dsimp only
  split
  · exact illegal_wf hu
  · exact afterAll_wf hu fun _ hv => next_wf _ hv

theorem execMstat_wf {g sel d b s} (h : MemInv s) : ResWf (execMstat g sel d b s) := guarded_resWf h
    fun _ ht => loomSync_wf ht

theorem loomAnswer_wf {yard t abort s} (h : MemInv s) : MemInv (loomAnswer yard t abort s) := by
  unfold loomAnswer
  split
  · split <;> exact h
  · exact h

end Sys2Proof.Machine
end

section
/-!
PROOFS. Every step keeps the memory canonical (O3):
the carters.
-/

namespace Sys2Proof.Machine

open Sys2Proof.Safety

theorem codeStop_wf {cluster job l s} (h : MemInv s) : MemInv (codeStop cluster job l s).2 := by
  induction l generalizing s with
  | nil => exact h
  | cons va r ih =>
    unfold codeStop
    split
    · next hx =>
      have hx := wf_of_eq hx (translate_wf h)
      split
      · exact ih hx
      · exact hx
    · exact walked_wf h
    · exact h

theorem carterCheck_wf {s n c} (h : MemInv s) : MemInv (carterCheck s n c).2 := by
  unfold carterCheck
  split
  · exact h
  · split
    · exact h
    · split
      · exact h
      · exact codeStop_wf h

theorem carterStall_wf {n va kind store s} (h : MemInv s) : CStepWf (carterStall n va kind store s) := by
  unfold carterStall
  dsimp only
  split
  · exact h
  · exact engineFault_wf h

theorem readLines_wf {n row m f s} (h : MemInv s) : CStepWf (readLines n row m f s) := by
  induction f generalizing s with
  | zero => exact h
  | succ f ih =>
    unfold readLines
    dsimp only
    split
    · exact h
    · split
      · exact h
      · split
        · exact h
        · split
          · exact carterStall_wf (engineWalked_wf h)
          · exact trivial
          · next hx =>
            have hx := wf_of_eq hx (engineBytes_wf h)
            split
            · exact ih hx
            · exact trivial

theorem landChunk_wf {n b s} (h : MemInv s) : MemInv (landChunk n b s) := by
  unfold landChunk
  dsimp only
  split
  · exact h
  · split
    · exact h
    · split
      · exact lwCount_wf h
      · exact modCarter_wf (lwCount_wf h)

theorem flushChunk_wf {n s} (h : MemInv s) : MemInv (flushChunk n s) := modCarter_wf (landChunk_wf (landChunk_wf
    (wf_ite h h)))

theorem sendLine_wf {n c w l s} (h : MemInv s) : MemInv (sendLine n c w l s).2.2 := by
  induction l generalizing s with
  | nil => exact h
  | cons x r ih =>
    unfold sendLine
    split
    · exact h
    · next hx =>
      have hx := wf_of_eq hx (sendWindow_wf h)
      exact ih (wf_ite hx hx)

theorem writeLine_wf {n row m t stripe s} (h : MemInv s) : CStepWf (writeLine n row m t stripe s) := by
  unfold writeLine
  dsimp only
  split
  · exact h
  · split
    · split <;> exact modCarter_wf (sendLine_wf h)
    · split
      · exact carterStall_wf (engineWalked_wf h)
      · exact trivial
      · next hz =>
        have hz := wf_of_eq hz (engineBytes_wf h)
        split
        · exact wf_ite hz (modCarter_wf (writeLineOf_wf hz))
        · exact trivial

theorem carterUnit_wf {n s} (h : MemInv s) : CStepWf (carterUnit n s) := by
  unfold carterUnit
  dsimp only
  split
  · exact h
  · refine iteInduction (motive := CStepWf) (fun _ => wf_ite (carterDecide_wf (flushChunk_wf h)) h) fun _ => ?_
    refine iteInduction (motive := CStepWf) (fun _ => enqueue_wf (wf_ite (flushChunk_wf h) h)) fun _ => ?_
    split
    · exact h
    · have hr : ∀ {row m f t}, CStepWf (if carterOp t = .fill then .go (modCarter n f s) else readLines n row m 16 s) :=
        iteInduction (fun _ => h) fun _ => readLines_wf h
      split
      · next hx =>
        have hx := wf_of_eq hx hr
        exact writeLine_wf hx
      · exact hr

theorem carterUnits_wf {n f s} (h : MemInv s) : CStepWf (carterUnits n f s) := by
  induction f generalizing s with
  | zero => exact h
  | succ f ih =>
    unfold carterUnits
    split
    · next hx =>
      have hx := wf_of_eq hx (carterUnit_wf h)
      exact ih hx
    · exact carterUnit_wf h

theorem carterLine_wf {n s} (h : MemInv s) : MemInv (carterLine n s) := by
  unfold carterLine
  dsimp only
  split
  · split
    · exact h
    · split
      · next hz =>
        have hz := wf_of_eq hz (carterStall_wf h)
        exact hz
      · next hz =>
        have hz := wf_of_eq hz (carterStall_wf h)
        exact hz
      · exact h
  · split
    · exact wakeFences_wf (enqueue_wf (modCarter_wf (writeLineOf_wf h)))
    · exact enqueue_wf (modCarter_wf (writeLineOf_wf h))

theorem carterExec_wf {n c va s} (h : MemInv s) : MemInv (carterExec n c va s) :=
  wf_ite (carterDecide_wf (engineFault_wf h)) (modCarter_wf (engineFault_wf h))
theorem execAccepted_wf {r die s} (h : MemInv s) : MemInv (execAccepted r die s) := wf_ite h h

theorem carterStart_wf {n c s} (h : MemInv s) : MemInv (carterStart n c s) := by
  unfold carterStart
  dsimp only
  split
  · exact carterDecide_wf (modCarter_wf (carterCheck_wf h))
  · exact carterExec_wf (carterCheck_wf h)
  · split
    · next hy =>
      have hy := wf_of_eq hy (carterStall_wf (carterCheck_wf h))
      exact hy
    · next hy =>
      have hy := wf_of_eq hy (carterStall_wf (carterCheck_wf h))
      exact hy
    · exact carterCheck_wf h
  · split
    · split
      · next hz =>
        have hz := wf_of_eq hz (engineBytes_wf (modCarter_wf (carterCheck_wf h)))
        split
        · exact hz
        · exact modCarter_wf (carterCheck_wf h)
      · exact modCarter_wf (carterCheck_wf h)
    · exact modCarter_wf (carterCheck_wf h)

theorem execCarterChunk_wf {n s} (h : MemInv s) : ResWf (execCarterChunk n s) := by
  unfold execCarterChunk
  dsimp only
  split
  · exact h
  · split
    · exact h
    · split
      · exact carterLine_wf h
      · split
        · exact h
        · next ha =>
          split
          · split
            · exact h
            · split
              · exact trivial
              · next hd =>
                have hd := wf_of_eq hd (carterUnits_wf h)
                exact hd
              · next hd =>
                have hd := wf_of_eq hd (carterUnits_wf h)
                exact hd
          · split
            · exact carterStart_wf h
            · split
              · exact trivial
              · next hd =>
                have hd := wf_of_eq hd (carterUnits_wf (carterStart_wf h))
                exact hd
              · next hd =>
                have hd := wf_of_eq hd (carterUnits_wf (carterStart_wf h))
                exact hd

theorem carterSeen_wf {n c s} (h : MemInv s) : MemInv (carterSeen n c s) := wf_ite h h

theorem carterPop_wf {n s} (h : MemInv s) : MemInv (carterPop n s) := by
  unfold carterPop
  split
  · exact h
  · exact enqueue_wf (wakeEngine_wf (kickWatch_wf (carterSeen_wf h)))

theorem carterPush_wf {n s} (h : MemInv s) : MemInv (carterPush n s) := by
  unfold carterPush
  dsimp only
  split
  · split
    · exact carterPop_wf (pushEntry_wf h)
    · exact pushEntry_wf h
  · exact h

theorem carterForm_wf {n q c x s} (h : MemInv s) : MemInv (carterForm n q c x s) :=
  carterPush_wf (modCarter_wf (engineLog_wf (wf_ite h (logTo_wf _ _ _ h))))

theorem execCarterCommandComplete_wf {n s} (h : MemInv s) : ResWf (execCarterCommandComplete n s) := by
  unfold execCarterCommandComplete
  dsimp only
  split
  · split
    · exact carterPush_wf h
    · split
      · exact h
      · split
        · split
          · exact carterForm_wf h
          · split
            · exact carterForm_wf h
            · exact h
        · exact carterForm_wf h
  · exact h

theorem carterAccept_wf {n c s} (h : MemInv s) : MemInv (carterAccept n c s) :=
  next_wf _ (enqueue_wf (wf_ite_snd (takeStep_wf h) h))

theorem carterIssue_wf {i g d m s} (h : MemInv s) : ResWf (carterIssue i g d m s) := by
  unfold carterIssue
  refine guarded_resWf h fun _ ht => ?_
  dsimp only
  split
  · exact stopped_wf ht
  · split
    · exact raise_wf _ _ _ ht
    · split
      · exact raise_wf _ _ _ ht
      · refine afterAll_wf ht fun _ hu => ?_
        split
        · exact raiseLate_wf _ _ _ hu
        · split
          · exact carterAccept_wf hu
          · exact hu

theorem execCcopy_wf {g h c stripe m d mm s} (hs : MemInv s) : ResWf (execCcopy g h c stripe m d mm s) := carterIssue_wf hs
theorem execCfill_wf {g h c d mm s} (hs : MemInv s) : ResWf (execCfill g h c d mm s) := carterIssue_wf hs
theorem execCconv_wf {g h c stripe m d mm s} (hs : MemInv s) : ResWf (execCconv g h c stripe m d mm s) := carterIssue_wf hs
theorem execCgath_wf {g h c m d mm s} (hs : MemInv s) : ResWf (execCgath g h c m d mm s) := carterIssue_wf hs
theorem execCstat_wf {g _h c d s} (h : MemInv s) : ResWf (execCstat g _h c d s) := guarded_resWf h fun _ ht => next_wf _ ht
theorem carterAnswer_wf {n abort s} (h : MemInv s) : MemInv (carterAnswer n abort s) := wf_ite (wf_ite h h) h

end Sys2Proof.Machine
end

section
/-!
PROOFS. Every step keeps the memory canonical (O3):
tasks and futures.
-/

namespace Sys2Proof.Machine

open Sys2Proof.Safety

theorem readySpill_wf {site t p n store s} (h : MemInv s) : OkWf Access.st (readySpill site t p n store s) := by
  unfold readySpill
  split
  · exact trivial
  · exact virtBytes_wf h

theorem readyWalked_wf {site t p n store s} (h : MemInv s) : MemInv (readyWalked site t p n store s) := by
  unfold readyWalked
  split
  · exact h
  · exact virtWalked_wf h

theorem holdReady_wf {site va kind store s} (h : MemInv s) : MemInv (holdReady site va kind store s) := by
  unfold holdReady
  dsimp only
  split
  · exact h
  · split
    · next hy =>
      have hy := wf_of_eq hy (sendFault_wf h)
      exact hy
    · exact h

theorem stopReady_wf {site p n store e s} (h : MemInv s) : MemInv (stopReady site p n store e s) :=
  holdReady_wf (readyWalked_wf h)

theorem appendReady_wf {site p r s} (h : MemInv s) : MemInv (appendReady site p r s).2 := by
  unfold appendReady
  dsimp only
  split
  · exact h
  · split
    · exact enqueue_wf (modTile_wf (writeNat_wf _ _ _ h))
    · split
      · exact holdReady_wf h
      · split
        · next ha =>
          have ha := wf_of_eq ha (readySpill_wf h)
          exact enqueue_wf (modTile_wf (writeNat_wf _ _ _ ha))
        · exact h
        · exact stopReady_wf h

theorem taintNewest_wf {site p bad s} (h : MemInv s) : MemInv (taintNewest site p bad s) := by
  unfold taintNewest
  split
  · exact h
  · split
    · split <;> exact h
    · split
      · next hz =>
        have hz := wf_of_eq hz (readySpill_wf h)
        exact hz
      · exact h

theorem deliverTainted_wf {site p r bad s} (h : MemInv s) : MemInv (deliverTainted site p r bad s) :=
  wf_ite (taintNewest_wf (appendReady_wf h)) (modTile_wf (appendReady_wf h))
theorem deliverRecord_wf {site p r s} (h : MemInv s) : MemInv (deliverRecord site p r s) := deliverTainted_wf h

theorem refillReady_wf {site p f s} (h : MemInv s) : MemInv (refillReady site p f s) := by
  induction f generalizing s with
  | zero => exact h
  | succ f ih =>
    unfold refillReady
    dsimp only
    split
    · exact h
    · split
      · next hx =>
        have hx := wf_of_eq hx (readySpill_wf h)
        exact ih (modTile_wf (carryWords_wf (writeNat_wf _ _ _ hx)))
      · exact h
      · exact stopReady_wf h

theorem refillAllReady_wf {site s} (h : MemInv s) : MemInv (refillAllReady site s) :=
  foldl_wf _ _ _ (fun _ _ ht => refillReady_wf ht) h

theorem oldestReady_wf {site p s} (h : MemInv s) : MemInv (oldestReady site p s).2 := by
  unfold oldestReady
  dsimp only
  split
  · exact h
  · split
    · next hy =>
      have hy := wf_of_eq hy (readySpill_wf h)
      exact hy
    · exact h
    · exact stopReady_wf h

theorem newestReady_wf {site p s} (h : MemInv s) : MemInv (newestReady site p s).2 := by
  unfold newestReady
  dsimp only
  split
  · split <;> exact h
  · split
    · next hy =>
      have hy := wf_of_eq hy (readySpill_wf h)
      exact hy
    · exact h
    · exact stopReady_wf h

theorem popReady_wf {s} (h : MemInv s) : MemInv (popReady s).2 := by
  unfold popReady
  dsimp only
  split
  · exact h
  · split
    · next hx => exact wf_snd hx (oldestReady_wf h)
    · next hx =>
      have hx := wf_snd hx (oldestReady_wf h)
      exact wf_ite (enqueue_wf (refillAllReady_wf (modTile_wf hx))) (refillAllReady_wf (modTile_wf hx))

theorem startRecord_wf {r s} (h : MemInv s) : MemInv (startRecord r s) := by
  unfold startRecord
  split
  · exact raiseLate_wf _ _ _ h
  · split
    · exact raiseAt_wf _ _ _ _ _ h
    · exact finish_wf _ _ h

theorem serveReady_wf {site s} (h : MemInv s) : MemInv (serveReady site s) := by
  unfold serveReady
  refine asStrand_wf (foldl_wf _ _ _ (fun _ _ ht => ?_) h)
  dsimp only
  split
  · exact trapFirst_wf ht
  · split
    · next hx => exact startRecord_wf (endWait_wf (wf_snd hx (popReady_wf (asStrand_wf ht))))
    · next hx => exact wf_snd hx (popReady_wf (asStrand_wf ht))

theorem endTask_wf {i obj s} (h : MemInv s) : MemInv (endTask i obj s) := by
  unfold endTask
  split
  · exact trapFirst_wf h
  · split
    · next hy =>
      have hy := wf_snd hy (popReady_wf h)
      exact startRecord_wf hy
    · next hy =>
      have hy := wf_snd hy (popReady_wf h)
      exact hy

theorem taskOnly_wf {thread s k} (h : MemInv s) (hk : ∀ t, MemInv t → ResWf (k t)) : ResWf (taskOnly thread s k) := by
  unfold taskOnly
  split
  · exact illegal_wf h
  · exact hk _ h

theorem spawn_wf {i prio a b c s} (h : MemInv s) : MemInv (spawn i prio a b c s) :=
  wf_ite (next_wf _ (appendReady_wf h)) (waitFor_wf (appendReady_wf h))

theorem execTspawn_wf {g prio a b c s} (h : MemInv s) : ResWf (execTspawn g prio a b c s) := by
  unfold execTspawn
  refine guarded_resWf h fun _ ht => ?_
  split
  · exact raise_wf _ _ _ ht
  · exact spawn_wf (drainAll_wf _ _ (serveReady_wf ht))

theorem execTend_wf {g s} (h : MemInv s) : ResWf (execTend g s) :=
  guarded_resWf h fun _ ht => taskOnly_wf ht fun _ hu => endTask_wf (serveReady_wf hu)

theorem execTnext_wf {g try_ s} (h : MemInv s) : ResWf (execTnext g try_ s) := by
  unfold execTnext
  refine guarded_resWf h fun _ ht => ?_
  refine taskOnly_wf ht fun _ hu => ?_
  dsimp only
  split
  · exact trapFirst_wf (serveReady_wf hu)
  · split
    · next hy =>
      have hy := wf_snd hy (popReady_wf (serveReady_wf hu))
      exact startRecord_wf (wf_ite hy hy)
    · next hy =>
      have hy := wf_snd hy (popReady_wf (serveReady_wf hu))
      exact startRecord_wf hy
    · next hy =>
      have hy := wf_snd hy (popReady_wf (serveReady_wf hu))
      exact next_wf _ hy
    · next hy =>
      have hy := wf_snd hy (popReady_wf (serveReady_wf hu))
      exact hy

theorem respawn_wf {s} (h : MemInv s) : MemInv (respawn s) := by
  unfold respawn
  split
  · exact spawn_wf h
  · exact h

theorem readyRead_wf {site t l s} (h : MemInv s) : SomeWf Prod.snd (readyRead site t l s) := by
  induction l generalizing s with
  | nil => exact h
  | cons x r ih =>
    unfold readyRead
    split
    · next hx =>
      have hx := wf_of_eq hx (readySpill_wf h)
      exact someWf_map (ih hx) fun _ hr => hr
    · exact trivial

theorem readyWrite_wf {site t l s} (h : MemInv s) : SomeWf id (readyWrite site t l s) := by
  induction l generalizing s with
  | nil => exact h
  | cons x r ih =>
    unfold readyWrite
    split
    · next hx =>
      have hx := wf_of_eq hx (readySpill_wf h)
      exact ih (writeBytes_wf _ _ hx)
    · exact trivial

theorem resizeReady_wf {site kib s} (h : MemInv s) : SomeWf id (resizeReady site kib s) := by
  unfold resizeReady
  dsimp only
  split
  · exact h
  · split
    · exact trivial
    · next hx =>
      have hx := wf_of_eq hx (readyRead_wf h)
      exact someWf_map (readyWrite_wf hx) fun _ ht => ht

theorem execReadyQueueHeldEnd_wf {site kib s} (h : MemInv s) : ResWf (execReadyQueueHeldEnd site kib s) := by
  unfold execReadyQueueHeldEnd
  dsimp only
  split
  · exact enqueueOnce_wf h
  · split
    · exact h
    · split
      · exact h
      · next hz =>
        have hz := wf_of_eq hz (resizeReady_wf h)
        split
        · exact hz
        · exact asStrand_wf (foldl_wf _ _ _ (fun _ _ ht => respawn_wf ht) (serveReady_wf (foldl_wf _ _ _
            (fun _ _ ht => deliverTainted_wf ht) (refillAllReady_wf (modTile_wf (takeFault_wf hz))))))

theorem completeJoin_wf {i lanes s} (h : MemInv s) : MemInv (completeJoin i lanes s) := by
  unfold completeJoin
  dsimp only
  split
  · exact raiseLate_wf _ _ _ (performStore_wf _ _ _ _ _ _ (drainAll_wf _ _ h))
  · split
    · exact next_wf _ (acquireS_wf (performStore_wf _ _ _ _ _ _ (drainAll_wf _ _ h)))
    · exact endTask_wf (serveReady_wf (acquireS_wf (performStore_wf _ _ _ _ _ _ (drainAll_wf _ _ h))))

theorem execTjoin_wf {g m s} (h : MemInv s) : ResWf (execTjoin g m s) := by
  unfold execTjoin
  dsimp only
  refine guarded_resWf h fun _ ht => ?_
  refine taskOnly_wf ht fun _ hu => ?_
  split
  · exact stopped_wf hu
  · split
    · exact completeJoin_wf hu
    · exact hu

theorem stealTail_wf {site k l s} (h : MemInv s) : MemInv (stealTail site k l s).2 := by
  induction k generalizing l s with
  | zero => exact h
  | succ k ih =>
    unfold stealTail
    dsimp only
    split
    · next hx => exact ih (wf_snd hx (newestReady_wf h))
    · next hx => exact wf_snd hx (newestReady_wf h)

theorem sendRecord_wf {n site prio r bad s} (h : MemInv s) : MemInv (sendRecord n site prio r bad s) := enqueue_wf
    (wf_ite h h)

theorem landRecord_wf {dest n site prio r s} (h : MemInv s) : MemInv (landRecord dest n site prio r s) := by
  unfold landRecord
  dsimp only
  split
  · exact deliverTainted_wf h
  · exact deliverRecord_wf h

theorem returnRecords_wf {ts s} (h : MemInv s) : MemInv (returnRecords ts s) := by
  unfold returnRecords
  refine foldl_wf _ _ _ (fun _ _ ht => ?_) h
  split
  · exact landRecord_wf ht
  · exact ht

theorem serveLink_wf {site a dir} (h : MemInv a.2) : MemInv (serveLink site a dir).2 := by
  unfold serveLink
  dsimp only
  split
  · split
    · exact h
    · exact foldl_wf _ _ _ (fun _ _ ht => sendRecord_wf ht) (refillAllReady_wf (stealTail_wf h))
  · exact h

theorem execBalanceTick_wf {site s} (h : MemInv s) : ResWf (execBalanceTick site s) := by
  refine modTile_wf (wf_ite h ?_)
  refine List.foldlRecOn (motive := fun a : Nat × State => MemInv a.2) _ _ (foldl_wf _ _ _ (fun _ _ ht => ?_) h)
    fun _ ha _ _ => serveLink_wf ha
  split <;> exact ht

theorem execBalanceSnapshotArrival_wf {site dir n s} (h : MemInv s) : ResWf (execBalanceSnapshotArrival site dir n s) := h
theorem raiseFut_wf {c h s} (hs : MemInv s) : MemInv (raiseFut c h s) := raiseAt_wf _ _ _ _ _ hs
theorem withFuture_wf {h s k} (hs : MemInv s) (hk : ∀ v t, MemInv t → MemInv (k v t)) : MemInv (withFuture h s k) :=
  wf_ite (raiseFut_wf hs) (hk _ _ hs)
theorem appendNode_wf {key i n s} (h : MemInv s) : MemInv (appendNode key i n s) := h

theorem execFnew_wf {g d s} (h : MemInv s) : ResWf (execFnew g d s) := by
  unfold execFnew
  refine guarded_resWf h fun _ ht => ?_
  dsimp only
  split <;> exact next_wf _ ht

theorem setValue_wf {h st v s} (hs : MemInv s) : MemInv (setValue h st v s) :=
  withFuture_wf hs fun _ _ ht => wf_ite (raiseFut_wf ht) (next_wf _ (wf_ite (enqueue_wf (foldl_wf _ _ _
      (fun _ _ hu => deliverRecord_wf hu) ht)) (foldl_wf _ _ _ (fun _ _ hu => deliverRecord_wf hu) ht)))

theorem execFset_wf {g a b s} (h : MemInv s) : ResWf (execFset g a b s) :=
  guarded_resWf h fun _ ht => afterAll_wf ht fun _ hu => setValue_wf hu
theorem execFpoison_wf {g a b s} (h : MemInv s) : ResWf (execFpoison g a b s) :=
  guarded_resWf h fun _ ht => afterAll_wf ht fun _ hu => setValue_wf hu

theorem wState_wf {b v s} (h : MemInv s) : MemInv (wState b v s) := by
  unfold wState
  split <;> exact h

theorem getValue_wf {i try_ d a b s} (h : MemInv s) : MemInv (getValue i try_ d a b s) := by
  unfold getValue
  dsimp only
  refine withFuture_wf h fun _ _ ht => ?_
  split
  · exact next_wf _ (wState_wf ht)
  · split
    · exact raiseFut_wf ht
    · exact next_wf _ ht
  · exact raiseFut_wf ht
  · split
    · split
      · exact raiseFut_wf ht
      · exact next_wf _ ht
    · split
      · exact ht
      · split
        · exact inFlight_wf (modMe_wf (drainAll_wf _ _ ht))
        · exact endTask_wf (serveReady_wf (appendNode_wf (modMe_wf (drainAll_wf _ _ ht))))

theorem execFget_wf {g try_ d a b s} (h : MemInv s) : ResWf (execFget g try_ d a b s) := by
  unfold execFget
  split
  · exact illegal_wf h
  · exact guarded_resWf h fun _ ht => getValue_wf ht

theorem execWaiterNodeFree_wf {cluster s} (h : MemInv s) : ResWf (execWaiterNodeFree cluster s) := by
  refine asStrand_wf (foldl_wf _ _ _ (fun _ _ ht => ?_) h)
  split
  · exact getValue_wf ht
  · exact ht

theorem releaseFuture_wf {key s} (h : MemInv s) : MemInv (releaseFuture key s) := wf_ite h h
theorem execFfree_wf {g a s} (h : MemInv s) : ResWf (execFfree g a s) :=
  guarded_resWf h fun _ ht => withFuture_wf ht fun _ _ hu => wf_ite (raiseFut_wf hu) (next_wf _ (releaseFuture_wf hu))

theorem execFutureQuarantineEnd_wf {cluster index s} (h : MemInv s) : ResWf (execFutureQuarantineEnd cluster index s) := by
  unfold execFutureQuarantineEnd
  dsimp only
  split
  · exact wf_ite h h
  · exact h

end Sys2Proof.Machine
end

section
/-!
PROOFS. Every step keeps the memory canonical (O3):
class 0, windows and contexts.
-/

namespace Sys2Proof.Machine

open Sys2Proof.Safety

theorem execNop_wf {g s} (h : MemInv s) : ResWf (execNop g s) := guarded_resWf h fun _ ht => next_wf _ ht

theorem execFork_wf {g n d a tgt s} (h : MemInv s) : ResWf (execFork g n d a tgt s) := by
  unfold execFork
  dsimp only
  split
  · exact raise_wf _ _ _ h
  · refine guarded_resWf h fun _ ht => ?_
    split
    · exact raise_wf _ _ _ ht
    · split
      · exact next_wf _ (wx_wf (modStrand_wf (startByManifest_wf (drainAll_wf _ _ ht))))
      · exact next_wf _ ht

theorem execStop_wf {g s} (h : MemInv s) : ResWf (execStop g s) := by
  unfold execStop
  refine guarded_resWf h fun _ ht => ?_
  split
  · exact illegal_wf ht
  · exact ht

theorem execHalt_wf {g s} (h : MemInv s) : ResWf (execHalt g s) := by
  unfold execHalt
  refine stewardOnly_wf h fun _ ht => ?_
  refine guarded_resWf ht fun _ hu => ?_
  split
  · exact next_wf _ (foldl_wf _ _ _ (fun _ _ hv => haltStrand_wf hv) hu)
  · exact foldl_wf _ _ _ (fun _ _ hv => haltStrand_wf hv) hu

theorem execYield_wf {g b s} (h : MemInv s) : ResWf (execYield g b s) := by
  unfold execYield
  refine guarded_resWf h fun _ ht => ?_
  dsimp only
  split
  · exact next_wf _ ht
  · exact ht

theorem execYieldPauseEnd_wf {e s} (h : MemInv s) : ResWf (execYieldPauseEnd e s) := by
  unfold execYieldPauseEnd
  dsimp only
  split
  · exact next_wf _ h
  · exact h

theorem sendWake_wf {e start s} (h : MemInv s) : MemInv (sendWake e start s) :=
  wf_ite (drainAll_wf _ _ h) (enqueue_wf (drainAll_wf _ _ h))
theorem sendWakes_wf {s} (h : MemInv s) : MemInv (sendWakes s) := wf_ite h h

theorem execWake_wf {g a b s} (h : MemInv s) : ResWf (execWake g a b s) := by
  unfold execWake
  split
  · exact raise_wf _ _ _ h
  · refine guarded_resWf h fun _ ht => ?_
    split
    · exact raise_wf _ _ _ ht
    · split
      · exact raise_wf _ _ _ ht
      · exact next_wf _ (sendWake_wf ht)

theorem execTrap_wf {g n s} (h : MemInv s) : ResWf (execTrap g n s) := guarded_resWf h fun _ ht => raiseAt_wf _ _ _ _ _ ht

theorem execEret_wf {g s} (h : MemInv s) : ResWf (execEret g s) := by
  unfold execEret
  refine guarded_resWf h fun _ ht => ?_
  split
  · exact illegal_wf ht
  · exact boundaryEdge_wf ht

theorem execSysrd_wf {g d r s} (h : MemInv s) : ResWf (execSysrd g d r s) := guarded_resWf h fun _ ht => next_wf _ ht
theorem semaWrite_wf {v s} (h : MemInv s) : MemInv (semaWrite v s) := wf_ite h (wf_ite (freeSema_wf h) h)

theorem writeSys_wf {r v s} (h : MemInv s) : MemInv (writeSys r v s) := by
  unfold writeSys
  split
  · exact h
  · exact h
  · exact h
  · exact h
  · exact h
  · exact h
  · exact h
  · exact h
  · exact h
  · exact semaWrite_wf h
  · split <;> exact h

theorem landEarlier_wf {e r n s} (h : MemInv s) : MemInv (landEarlier e r n s) := by
  unfold landEarlier
  refine foldl_wf _ _ _ (fun _ _ ht => ?_) h
  split
  · exact writeSys_wf ht
  · exact ht

theorem completeSys_wf {e r v n due s} (h : MemInv s) : MemInv (completeSys e r v n due s) :=
  next_wf _ (wf_ite (writeSys_wf (asStrand_wf (wf_ite (landEarlier_wf h) h))) (asStrand_wf (wf_ite (landEarlier_wf h) h)))

theorem execSyswr_wf {g r a s} (h : MemInv s) : ResWf (execSyswr g r a s) := by
  unfold execSyswr
  split
  · exact raise_wf _ _ _ h
  · refine guarded_resWf h fun _ ht => ?_
    split
    · exact illegal_wf ht
    · split
      · exact ht
      · exact next_wf _ (writeSys_wf ht)

theorem execSegld_wf {g sd b s} (h : MemInv s) : ResWf (execSegld g sd b s) := by
  unfold execSegld
  refine guarded_resWf h fun _ ht => ?_
  dsimp only
  split
  · exact raise_wf _ _ _ ht
  · split
    · exact raiseLate_wf _ _ _ (drainFor_wf _ _ _ _ ht)
    · split
      · exact next_wf _ (modMe_wf (drainFor_wf _ _ _ _ ht))
      · exact raise_wf _ _ _ (drainFor_wf _ _ _ _ ht)

theorem mapTx_wf {w e s} (h : MemInv s) : MemInv (mapTx w e s) := h

theorem wmapWith_wf {rx_ w image s} (h : MemInv s) : MemInv (wmapWith rx_ w image s).2 := by
  unfold wmapWith
  dsimp only
  split
  · split
    · exact h
    · split
      · exact h
      · split <;> exact h
  · split
    · exact h
    · split
      · exact h
      · split
        · exact h
        · exact mapTx_wf h

theorem execWmap_wf {g rx_ d m b s} (h : MemInv s) : ResWf (execWmap g rx_ d m b s) := by
  unfold execWmap
  dsimp only
  refine stewardOnly_wf h fun _ ht => ?_
  refine guarded_resWf ht fun _ hu => ?_
  split
  · exact stopped_wf hu
  · split
    · exact raiseLate_wf _ _ _ (drainFor_wf _ _ _ _ hu)
    · exact next_wf _ (wx_wf (wakeWindows_wf (wmapWith_wf (drainFor_wf _ _ _ _ hu))))

theorem clearTx_wf {w s} (h : MemInv s) : MemInv (clearTx w s) := by
  unfold clearTx
  split <;> exact h

theorem clearRx_wf {w s} (h : MemInv s) : MemInv (clearRx w s) := by
  unfold clearRx
  split <;> exact h

theorem execWunmap_wf {g rx_ b s} (h : MemInv s) : ResWf (execWunmap g rx_ b s) := by
  unfold execWunmap
  refine stewardOnly_wf h fun _ ht => ?_
  refine guarded_resWf ht fun _ hu => ?_
  dsimp only
  split
  · exact next_wf _ (clearRx_wf hu)
  · split
    · exact hu
    · exact next_wf _ (clearTx_wf hu)

theorem unmapEnd_wf {e w n s} (h : MemInv s) : MemInv (unmapEnd e w n s) := by
  unfold unmapEnd
  split
  · exact h
  · exact next_wf _ (clearTx_wf h)

theorem execWstat_wf {g sel d b s} (h : MemInv s) : ResWf (execWstat g sel d b s) := guarded_resWf h fun _ ht => next_wf _ ht
theorem rfenceEnd_wf {e d win n s} (h : MemInv s) : MemInv (rfenceEnd e d win n s) := next_wf _ h

theorem execRfence_wf {g d w s} (h : MemInv s) : ResWf (execRfence g d w s) := by
  unfold execRfence
  refine guarded_resWf h fun _ ht => ?_
  dsimp only
  split
  · exact ht
  · exact rfenceEnd_wf ht

theorem rfenceGo_wf {e s} (h : MemInv s) : MemInv (rfenceGo e s) := by
  unfold rfenceGo
  dsimp only
  split
  · split
    · exact h
    · exact rfenceEnd_wf h
  · exact h

theorem adoptRecords_wf {e rs s} (h : MemInv s) : MemInv (adoptRecords e rs s) := foldl_wf _ _ _ (fun _ _ ht => ht) h

theorem lostWait_wf {e s} (h : MemInv s) : MemInv (lostWait e s) := by
  unfold lostWait
  dsimp only
  split
  · exact next_wf _ h
  · exact h

theorem wakeWait_wf {e s} (h : MemInv s) : MemInv (wakeWait e s) := by
  unfold wakeWait
  dsimp only
  split
  · split
    · split
      · exact asStrand_wf (boundary_wf _ _ h)
      · exact h
    · split
      · exact asStrand_wf (boundary_wf _ _ h)
      · exact h
    · split
      · exact asStrand_wf (boundary_wf _ _ h)
      · exact h
  · exact h

theorem loadFrom_wf {n e s} (h : MemInv s) : MemInv (loadFrom n e s) := by
  unfold loadFrom
  dsimp only
  split
  · exact h
  · split <;> exact wakeWait_wf (asStrand_wf (lostWait_wf (reissuePaged_wf (adoptRecords_wf h))))

theorem ctxSave_wf {i n d k s} (h : MemInv s) : MemInv (ctxSave i n d k s) :=
  wf_ite (next_wf _ h) (wf_ite (next_wf _ h) (wf_ite h (wf_ite (inFlight_wf (drainAll_wf _ _ (drainAll_wf _ _ h)))
      (wf_ite (parkIn_wf (setPc_wf (wx_wf (readyIn_wf (drainAll_wf _ _ (drainAll_wf _ _ h)))))) (next_wf _ (wx_wf
      (parkIn_wf (readyIn_wf (drainAll_wf _ _ (drainAll_wf _ _ h))))))))))

theorem ctxLoad_wf {n d k s} (h : MemInv s) : MemInv (ctxLoad n d k s) :=
  wf_ite (next_wf _ h) (wf_ite (next_wf _ h) (next_wf _ (readyIn_wf (wx_wf (loadFrom_wf h)))))

theorem ctxChecked_wf {g n b s k} (h : MemInv s) (hk : ∀ v t, MemInv t → MemInv (k v t)) : ResWf (ctxChecked g n b s k) := by
  unfold ctxChecked
  refine guarded_resWf h fun _ ht => ?_
  dsimp only
  split
  · exact illegal_wf ht
  · split
    · exact raise_wf _ _ _ ht
    · exact hk _ _ ht

theorem execCtxsv_wf {g n d b s} (h : MemInv s) : ResWf (execCtxsv g n d b s) := ctxChecked_wf h fun _ _ ht => ctxSave_wf ht
theorem execCtxld_wf {g n d b s} (h : MemInv s) : ResWf (execCtxld g n d b s) := ctxChecked_wf h fun _ _ ht => ctxLoad_wf ht

end Sys2Proof.Machine
end

section
/-!
PROOFS. Every step keeps the memory canonical (O3):
what waits and goes on, wakes, the pager, and the recovery of booths.
-/

namespace Sys2Proof.Machine

open Sys2Proof.Safety

theorem rerun_wf {i s} (h : MemInv s) : ResWf (rerun i s) := by
  unfold rerun
  split
  · exact execAdd_wf h
  · exact execSub_wf h
  · exact execMul_wf h
  · exact execMulh_wf h
  · exact execMulhu_wf h
  · exact execDiv_wf h
  · exact execDivu_wf h
  · exact execRem_wf h
  · exact execRemu_wf h
  · exact execAnd_wf h
  · exact execOr_wf h
  · exact execXor_wf h
  · exact execAndn_wf h
  · exact execShl_wf h
  · exact execShr_wf h
  · exact execSar_wf h
  · exact execRol_wf h
  · exact execMin_wf h
  · exact execMax_wf h
  · exact execMinu_wf h
  · exact execMaxu_wf h
  · exact execClz_wf h
  · exact execCtz_wf h
  · exact execPopc_wf h
  · exact execBrev_wf h
  · exact execMov_wf h
  · exact execMovi_wf h
  · exact execExt_wf h
  · exact execExtu_wf h
  · exact execIns_wf h
  · exact execSel_wf h
  · exact execLea_wf h
  · exact execCaddr_wf h
  · exact execCrel_wf h
  · exact execFadd_wf h
  · exact execFsub_wf h
  · exact execFmul_wf h
  · exact execFfma_wf h
  · exact execFmin_wf h
  · exact execFmax_wf h
  · exact execFcmp_wf h
  · exact execFcvt_wf h
  · exact execFdiv_wf h
  · exact execCmp_wf h
  · exact execPmov_wf h
  · exact execQpush_wf h
  · exact execQpop_wf h
  · exact execQpeek_wf h
  · exact execQmark_wf h
  · exact execSt_wf h
  · exact execStv_wf h
  · exact execScat_wf h
  · exact execFset_wf h
  · exact execFpoison_wf h
  · exact execFget_wf h
  · exact execCcopy_wf h
  · exact execCfill_wf h
  · exact execCconv_wf h
  · exact execCgath_wf h
  · exact execNsum_wf h
  · exact execNmax_wf h
  · exact execNaxpy_wf h
  · exact execNscale_wf h
  · exact execNcvt_wf h
  · exact execNdot_wf h
  · exact execMcfg_wf h
  · exact execMzero_wf h
  · exact execMloada_wf h
  · exact execMmul_wf h
  · exact execMmuls_wf h
  · exact execMdrain_wf h
  · exact execMchk_wf h
  · exact execMloc_wf h
  · exact execMcorr_wf h
  · exact execMretry_wf h
  · exact execMstat_wf h
  · exact execMinj_wf h
  · exact execCtxsv_wf h
  · exact h

theorem inPlace_wf {s} (h : MemInv s) : MemInv (inPlace s) := by
  unfold inPlace
  split
  · exact completePush_wf h
  · exact h

theorem retry_wf {i s} (h : MemInv s) : ResWf (retry i s) := by
  unfold retry
  split
  · next hx =>
    have hx := wf_of_eq hx (rerun_wf h)
    exact inPlace_wf hx
  · exact rerun_wf h

theorem tryWaiter_wf {q a e} (h : ResWf a) : ResWf (tryWaiter q a e) := by
  unfold tryWaiter
  split
  · split
    · split
      · exact retry_wf h
      · exact h
    · exact h
  · exact h

theorem execQueueWaitResume_wf {q s} (h : MemInv s) : ResWf (execQueueWaitResume q s) := by
  refine List.foldlRecOn (motive := ResWf) _ _ ?_ fun _ ha _ _ => tryWaiter_wf ha
  exact placeOwed_wf (wf_ite (releaseKilled_wf h) h)

theorem performNth_wf {e k s} (h : MemInv s) : MemInv (performNth e k s) := by
  unfold performNth
  split
  · exact wakeFences_wf (sendWakes_wf (drain_wf _ _ h))
  · exact sendWakes_wf h

theorem memReply_wf {e i lanes rel ord s} (h : MemInv s) : MemInv (memReply e i lanes rel ord s) := by
  unfold memReply
  dsimp only
  split
  · split
    · exact goPaged_wf (asStrand_wf (drainAll_wf _ _ h))
    · split
      · exact drainAll_wf _ _ h
      · split
        · exact completeJoin_wf (readyIn_wf (asStrand_wf (drainAll_wf _ _ h)))
        · exact completeMem_wf (readyIn_wf (asStrand_wf (drainAll_wf _ _ h)))
  · split
    · exact goPaged_wf (asStrand_wf (drainFor_wf _ _ _ _ h))
    · split
      · exact drainFor_wf _ _ _ _ h
      · split
        · exact completeJoin_wf (readyIn_wf (asStrand_wf (drainFor_wf _ _ _ _ h)))
        · exact completeMem_wf (readyIn_wf (asStrand_wf (drainFor_wf _ _ _ _ h)))

theorem replyTo_wf {e s} (h : MemInv s) : ResWf (replyTo e s) := by
  unfold replyTo
  split
  · exact memReply_wf h
  · exact retry_wf h
  · exact execCtxsv_wf h
  · exact h

theorem execMemoryReply_wf {e n s} (h : MemInv s) : ResWf (execMemoryReply e n s) := by
  unfold execMemoryReply
  split
  · exact performNth_wf h
  · exact replyTo_wf h

theorem execEngineAcceptance_wf {e s} (h : MemInv s) : ResWf (execEngineAcceptance e s) := by
  unfold execEngineAcceptance
  dsimp only
  split
  · exact wf_ite (cellarAccept_wf h) h
  · exact wf_ite (carterAccept_wf h) h
  · exact wf_ite (loomAccept_wf h) h
  · exact h

theorem execRfenceComplete_wf {e s} (h : MemInv s) : ResWf (execRfenceComplete e s) := by
  unfold execRfenceComplete
  dsimp only
  split
  · exact rfenceGo_wf h
  · exact retry_wf h
  · exact unmapEnd_wf h
  · exact h

theorem wakeParked_wf {e s} (h : MemInv s) : MemInv (wakeParked e s) := wf_ite h h

theorem wakeRunning_wf {e s} (h : MemInv s) : MemInv (wakeRunning e s) := by
  unfold wakeRunning
  split
  · exact h
  · exact boundary_wf _ _ h

theorem wakeWaiting_wf {e s} (h : MemInv s) : MemInv (wakeWaiting e s) := wf_ite h (boundary_wf _ _ h)

theorem execWakeEventDelivery_wf {e start s} (h : MemInv s) : ResWf (execWakeEventDelivery e start s) := by
  unfold execWakeEventDelivery
  dsimp only
  split
  · exact h
  · exact mwaitEnd_wf h
  · split
    · exact wakeRunning_wf h
    · exact next_wf _ h
    · exact h
  · exact wakeWaiting_wf h
  · exact wakeWaiting_wf h
  · exact h
  · exact wakeParked_wf h

theorem execQuantumExpiry_wf {e s} (h : MemInv s) : ResWf (execQuantumExpiry e s) := by
  unfold execQuantumExpiry
  dsimp only
  split
  · exact boundary_wf _ _ h
  · exact h

theorem unlessHeld_wf {die r i s k} (h : MemInv s) (hk : ResWf k) : ResWf (unlessHeld die r i s k) := by
  unfold unlessHeld
  split
  · exact enqueueOnce_wf h
  · exact hk

theorem takeStrandFault_wf {e s} (h : MemInv s) : MemInv (takeStrandFault e s) := takeFault_wf h

theorem execPagerReissue_wf {e s} (h : MemInv s) : ResWf (execPagerReissue e s) := by
  refine unlessHeld_wf h ?_
  split
  · split
    · exact takeStrandFault_wf h
    · exact h
  · exact h

theorem execPagerDeliver_wf {e c s} (h : MemInv s) : ResWf (execPagerDeliver e c s) := by
  refine unlessHeld_wf h ?_
  split
  · split
    · exact raiseLate_wf _ _ _ (takeStrandFault_wf (wf_ite (pagerLog_wf h) h))
    · exact h
  · exact h

theorem takeEngineFault_wf {e s} (h : MemInv s) : MemInv (takeEngineFault e s) := takeFault_wf h

theorem engineAnswer_wf {e abort s} (h : MemInv s) : MemInv (engineAnswer e abort s) := by
  unfold engineAnswer
  split
  · exact loomAnswer_wf h
  · exact carterAnswer_wf h

theorem execPagerResume_wf {e s} (h : MemInv s) : ResWf (execPagerResume e s) := by
  refine unlessHeld_wf h ?_
  split
  · split
    · exact engineAnswer_wf (takeEngineFault_wf h)
    · exact h
  · exact h

theorem execPagerAbort_wf {e s} (h : MemInv s) : ResWf (execPagerAbort e s) := by
  refine unlessHeld_wf h ?_
  split
  · split
    · exact engineAnswer_wf (takeEngineFault_wf (wf_ite (pagerLog_wf h) h))
    · exact h
  · exact h

theorem takeExec_wf {die s} (h : MemInv s) : MemInv (takeExec die s) := by
  unfold takeExec
  split
  · exact takeFault_wf (pagerLog_wf h)
  · exact h

theorem execFaultRecordSend_wf {die s} (h : MemInv s) : ResWf (execFaultRecordSend die s) := by
  unfold execFaultRecordSend
  split
  · exact h
  · split
    · exact h
    · split
      · exact h
      · next hz =>
        have hz := wf_of_eq hz (sendFault_wf h)
        exact execAccepted_wf hz

theorem pushInval_wf {die i s} (h : MemInv s) : MemInv (pushInval die i s) := enqueue_wf (modDie_wf h)

theorem pagerWrites_wf {die ws inval s} (h : MemInv s) : MemInv (pagerWrites die ws inval s) := by
  unfold pagerWrites
  split
  · exact foldl_wf _ _ _ (fun _ _ ht => writeNat_wf _ _ _ ht) h
  · exact pushInval_wf (foldl_wf _ _ _ (fun _ _ ht => writeNat_wf _ _ _ ht) h)

theorem copyPage_wf {die job va frame s} (h : MemInv s) : MemInv (copyPage die job va frame s) := by
  unfold copyPage
  dsimp only
  split
  · exact h
  · split
    · exact h
    · exact pushInval_wf (writeNat_wf _ _ _ (foldl_wf _ _ _ (fun _ _ ht => pokeBytes_wf _ _ (pokeBytes_wf _ _ ht)) h))

theorem dropTlb_wf {i s} (h : MemInv s) : MemInv (dropTlb i s) := foldl_wf _ _ _ (fun _ _ ht => modDie_wf ht) h

theorem execTlbInvalidate_wf {die s} (h : MemInv s) : ResWf (execTlbInvalidate die s) := by
  unfold execTlbInvalidate
  dsimp only
  split
  · exact h
  · split
    · exact enqueue_wf (drain_wf _ _ (dropTlb_wf h))
    · exact modDie_wf (wakeFences_wf (drain_wf _ _ (dropTlb_wf h)))

theorem stewardStop_wf {e s} (h : MemInv s) : MemInv (stewardStop e s) := stopStrand_wf _ _ (hostPost_wf _ _ _ (logTile_wf h))

theorem trapCode_wf {e s} (h : MemInv s) : MemInv (trapCode e s) := by
  unfold trapCode
  dsimp only
  split
  · exact h
  · split
    · split
      · exact enqueueOnce_wf h
      · exact boundaryEdge_wf (returnFrom_wf (asStrand_wf (logTile_wf h)))
      · split
        · exact boundaryEdge_wf h
        · exact stewardStop_wf h
      · exact stewardStop_wf h
    · exact stewardStop_wf h

theorem rewindBooth_wf {bk s} (h : MemInv s) : MemInv (rewindBooth bk s) := foldl_wf _ _ _ (fun _ _ ht => wakeQueue_wf ht) h
theorem discardLoom_wf {bk s} (h : MemInv s) : MemInv (discardLoom bk s) := h
theorem boothLog_wf {bk kind cls s} (h : MemInv s) : MemInv (boothLog bk kind cls s) := logTo_wf _ _ _ h
theorem boothReport_wf {bk cls s} (h : MemInv s) : MemInv (boothReport bk cls s) := hostPost_wf _ _ _ h
theorem failBooth_wf {bk s} (h : MemInv s) : MemInv (failBooth bk s) := boothReport_wf (boothLog_wf (setYards_wf h))
theorem restartBooth_wf {bk s} (h : MemInv s) : MemInv (restartBooth bk s) :=
  boothLog_wf (modBooth_wf (startBooth_wf (foldl_wf _ _ _ (fun _ _ ht => ht) (loadImage_wf (rewindBooth_wf h)))))

theorem loadSteward_wf {die s x} (h : MemInv s) : MemInv (loadSteward die s x) := by
  unfold loadSteward
  split
  · exact writeBytes_wf _ _ h
  · exact h

theorem startSteward_wf {die s x} (h : MemInv s) : MemInv (startSteward die s x) := by
  unfold startSteward
  split <;> exact h

theorem moveSteward_wf {die r spare site s} (h : MemInv s) : MemInv (moveSteward die r spare site s) :=
  foldl_wf _ _ _ (fun _ _ ht => startSteward_wf ht) (foldl_wf _ _ _ (fun _ _ ht => loadSteward_wf ht) (modDie_wf
      (foldl_wf _ _ _ (fun _ _ ht => haltStrand_wf ht) h)))

theorem restartSteward_wf {site s} (h : MemInv s) : MemInv (restartSteward site s) := by
  unfold restartSteward
  dsimp only
  split
  · split
    · exact moveSteward_wf h
    · exact h
  · exact h

theorem execBoothRecovery_wf {job booth s} (h : MemInv s) : ResWf (execBoothRecovery job booth s) := by
  unfold execBoothRecovery
  dsimp only
  split
  · exact restartSteward_wf h
  · split
    · exact h
    · split
      · exact enqueueOnce_wf h
      · split
        · next ha => exact enqueue_wf (drain_wf _ _ (returnRecords_wf (haltBooth_wf (discardLoom_wf h))))
        · next ha =>
          split
          · exact failBooth_wf (resetBlocks_wf (freeSlots_wf (drain_wf _ _ (returnRecords_wf (haltBooth_wf
              (discardLoom_wf h))))))
          · exact restartBooth_wf (resetBlocks_wf (freeSlots_wf (drain_wf _ _ (returnRecords_wf (haltBooth_wf
              (discardLoom_wf h))))))

theorem recoverTwin_wf {bk s} (h : MemInv s) : MemInv (recoverTwin bk s) := by
  unfold recoverTwin
  split
  · exact h
  · exact enqueueOnce_wf (haltBooth_wf (discardLoom_wf h))

theorem twinLog_wf {q n a b s} (h : MemInv s) : MemInv (twinLog q n a b s) := logTo_wf _ _ _ h
theorem twinHeld_wf {q s} (h : MemInv s) : MemInv (twinHeld q s) := hostPost_wf _ _ _ (logTo_wf _ _ _ h)

theorem twinDiffer_wf {q a b s} (h : MemInv s) : MemInv (twinDiffer q a b s) :=
  wf_ite (twinHeld_wf (modQueue_wf (recoverTwin_wf (recoverTwin_wf (twinLog_wf h))))) (wakeQueue_wf (modQueue_wf
      (recoverTwin_wf (recoverTwin_wf (twinLog_wf h)))))

theorem execTwinCompare_wf {q s} (h : MemInv s) : ResWf (execTwinCompare q s) := by
  unfold execTwinCompare
  dsimp only
  split
  · split
    · exact h
    · split
      · exact wf_ite (enqueue_wf (placePair_wf h)) (placePair_wf h)
      · exact twinDiffer_wf h
  · exact h

theorem declareBooth_wf {bk kind es s} (h : MemInv s) : MemInv (declareBooth bk kind es s) :=
  hostPost_wf _ _ _ (logTo_wf _ _ _ (logTo_wf _ _ _ h))

theorem execDeadlockSample_wf {job booth s} (h : MemInv s) : ResWf (execDeadlockSample job booth s) := by
  unfold execDeadlockSample
  dsimp only
  split
  · exact h
  · exact wf_ite (declareBooth_wf h) h

theorem spillTimers_wf {site s} (h : MemInv s) : MemInv (spillTimers site s) :=
  foldl_wf _ _ _ (fun _ _ ht => hostPost_wf _ _ _ ht) h

theorem execWatchdogExpiry_wf {job booth s} (h : MemInv s) : ResWf (execWatchdogExpiry job booth s) := by
  unfold execWatchdogExpiry
  dsimp only
  split
  · exact h
  · exact declareBooth_wf h

theorem backSlots_wf {f s} (h : MemInv s) : MemInv (backSlots f s) := foldl_wf _ _ _ (fun _ _ ht => putBytes_wf ht) h

end Sys2Proof.Machine
end

section
/-!
PROOFS. Every step keeps the memory canonical (O3):
reflected writes and the host ports.
-/

namespace Sys2Proof.Machine

open Sys2Proof.Safety

theorem rxCount_wf {e n s} (h : MemInv s) : MemInv (rxCount e n s) := by
  unfold rxCount
  dsimp only
  split
  · exact h
  · split
    · exact lwCount_wf h
    · exact logTo_wf _ _ _ h

theorem rxMemory_wf {w e s} (h : MemInv s) : ArrivalWf (rxMemory w e s) := by
  unfold rxMemory
  dsimp only
  split
  · split
    · next hy =>
      have hy := wf_of_eq hy (virtBytes_wf h)
      exact rxCount_wf (engineWrite_wf hy)
    · exact h
  · split
    · exact h
    · exact rxCount_wf (engineWrite_wf h)

theorem rxQueue_wf {w e s} (h : MemInv s) : ArrivalWf (rxQueue w e s) := by
  unfold rxQueue
  dsimp only
  split
  · exact h
  · exact h
  · split
    · exact h
    · split
      · exact tryEdge_wf (rxCount_wf (wf_ite (poisonKeys_wf (push_wf (pushReady_wf h))) (push_wf (pushReady_wf h))))
      · exact pushReady_wf h

theorem rxPerform_wf {w s} (h : MemInv s) : ArrivalWf (rxPerform w s) := by
  unfold rxPerform
  dsimp only
  split
  · exact h
  · split
    · exact rxQueue_wf h
    · exact rxMemory_wf h

theorem rxAnswer_wf {w a s} (h : MemInv s) : MemInv (rxAnswer w a s) := by
  unfold rxAnswer
  split <;> exact h

theorem rxResend_wf {w n s} (h : MemInv s) : MemInv (rxResend w n s) := by
  unfold rxResend
  split <;> exact h

theorem execReflectedWriteArrival_wf {w s} (h : MemInv s) : ResWf (execReflectedWriteArrival w s) := by
  unfold execReflectedWriteArrival
  dsimp only
  split
  · exact h
  · split
    · split
      · exact h
      · split
        · exact rxAnswer_wf h
        · next ha =>
          split
          · exact rxResend_wf h
          · split
            · next hc =>
              have hc := wf_of_eq hc (rxPerform_wf h)
              exact hc
            · next hc =>
              have hc := wf_of_eq hc (rxPerform_wf h)
              exact rxAnswer_wf hc
    · split
      · exact h
      · split
        · exact rxAnswer_wf h
        · next ha =>
          split
          · exact rxResend_wf h
          · split
            · next hc =>
              have hc := wf_of_eq hc (rxPerform_wf h)
              exact hc
            · next hc =>
              have hc := wf_of_eq hc (rxPerform_wf h)
              exact rxAnswer_wf hc

theorem sendQueued_wf {p s} (h : MemInv s) : MemInv (sendQueued p s) := wf_ite (foldl_wf _ _ _
    (fun _ _ ht => sendOn_wf ht) h) h

theorem execReflectionAck_wf {p epoch seq a rtt s} (h : MemInv s) : ResWf (execReflectionAck p epoch seq a rtt s) := by
  unfold execReflectionAck
  dsimp only
  split
  · exact h
  · split
    · exact wakeWindows_wf (sendQueued_wf (pathSet_wf (wf_ite h h)))
    · exact wakeWindows_wf (sendQueued_wf h)

theorem execRetransmitRequest_wf {p expected s} (h : MemInv s) : ResWf (execRetransmitRequest p expected s) :=
  foldl_wf _ _ _ (fun _ _ ht => wf_ite (transmit_wf ht) ht) h
theorem closePath_wf {p s} (h : MemInv s) : MemInv (closePath p s) :=
  wakeWindows_wf (pathSet_wf (modPeer_wf (foldl_wf _ _ _ (fun _ _ ht => ht) (foldl_wf _ _ _ (fun _ _ ht => ht) h))))

theorem execRetransmitTimeout_wf {p s} (h : MemInv s) : ResWf (execRetransmitTimeout p s) := by
  unfold execRetransmitTimeout
  dsimp only
  split
  · exact closePath_wf h
  · exact foldl_wf _ _ _ (fun _ _ ht => wf_ite (transmit_wf ht) ht) h

theorem execSpaheLinkDown_wf {link paths s} (h : MemInv s) : ResWf (execSpaheLinkDown link paths s) := by
  unfold execSpaheLinkDown
  split
  · exact h
  · exact foldl_wf _ _ _ (fun _ _ ht => wf_ite ht (closePath_wf ht)) h

theorem reportWindow_wf {job s} (h : MemInv s) : MemInv (reportWindow job s) := hostPost_wf _ _ _ h

theorem execPendingWindowValid_wf {w peers s} (h : MemInv s) : ResWf (execPendingWindowValid w peers s) := by
  unfold execPendingWindowValid
  dsimp only
  split
  · exact h
  · split
    · exact reportWindow_wf h
    · split
      · exact wakeWindows_wf (mapTx_wf h)
      · exact h

theorem refuseLog_wf {die unit req job s} (h : MemInv s) : MemInv (refuseLog die unit req job s) := logTo_wf _ _ _ h

theorem loseSema_wf {p s} (h : MemInv s) : MemInv (loseSema p s) := by
  unfold loseSema
  split
  · exact refuseLog_wf (freeSema_wf h)
  · exact h

theorem hostWrite_wf {p off f s} (h : MemInv s) (hk : ∀ t, MemInv t → MemInv (f t)) : MemInv (hostWrite p off f s) := by
  unfold hostWrite
  split
  · exact hk _ h
  · exact refuseLog_wf h

theorem semaRead_wf {p s} (h : MemInv s) : MemInv (semaRead p s) := wf_ite h h
theorem execHsemaWrite_wf {p v s} (h : MemInv s) : ResWf (execHsemaWrite p v s) := wf_ite (freeSema_wf h) h
theorem hqStale_wf {p q s} (h : MemInv s) : MemInv (hqStale p q s) := hcqPut_wf _ _ _ _ (modHq_wf h)
theorem hqAccept_wf {p q s} (h : MemInv s) : MemInv (hqAccept p q s) := modHq_wf h
theorem complete_wf {r cls addr aux s} (h : MemInv s) : MemInv (complete r cls addr aux s) := hcqPut_wf _ _ _ _ h
theorem completeOk_wf {r addr s} (h : MemInv s) : MemInv (completeOk r addr s) := complete_wf h
theorem completeFail_wf {r cls s} (h : MemInv s) : MemInv (completeFail r cls s) := complete_wf h

theorem serveNext_wf {n q r s} (h : MemInv s) : MemInv (serveNext n q r s) := by
  induction n generalizing s with
  | zero => exact h
  | succ n ih =>
    unfold serveNext
    split
    · exact h
    · split
      · exact h
      · split
        · exact ih (completeFail_wf h)
        · split
          · exact enqueueOnce_wf h
          · exact h

theorem endReq_wf {q r s} (h : MemInv s) : MemInv (endReq q r s) := by
  unfold endReq
  split
  · exact h
  · exact serveNext_wf h

theorem deliverReq_wf {q r s} (h : MemInv s) : MemInv (deliverReq q r s) := wf_ite (serveNext_wf h) h

theorem hqPush_wf {p q h bs s} (hs : MemInv s) : MemInv (hqPush p q h bs s).2 := by
  unfold hqPush
  dsimp only
  split
  · exact hs
  · split
    · exact push_wf (pushReady_wf hs)
    · exact pushReady_wf hs

theorem hqEntry_wf {p q s} (h : MemInv s) : MemInv (hqEntry p q s).2 := by
  unfold hqEntry
  dsimp only
  split
  · split
    · exact enqueueOnce_wf (modHq_wf h)
    · exact hqStale_wf h
  · split
    · exact deliverReq_wf (hqAccept_wf h)
    · split
      · exact hqAccept_wf (hqPush_wf h)
      · exact hqPush_wf h

theorem hqServe_wf {p q n s} (h : MemInv s) : MemInv (hqServe p q n s) := by
  induction n generalizing s with
  | zero => exact h
  | succ n ih =>
    unfold hqServe
    dsimp only
    split
    · exact ih (hqEntry_wf h)
    · exact hqEntry_wf h

theorem execHqkick_wf {p q pos s} (h : MemInv s) : ResWf (execHqkick p q pos s) := by
  unfold execHqkick
  dsimp only
  split
  · exact h
  · exact wf_ite (hqServe_wf (modHq_wf h)) (modHq_wf h)

theorem execHostEntryReread_wf {p q s} (h : MemInv s) : ResWf (execHostEntryReread p q s) := by
  unfold execHostEntryReread
  dsimp only
  split
  · exact h
  · split
    · exact enqueueOnce_wf h
    · exact hqServe_wf h

theorem wakeWriters_wf {s} (h : MemInv s) : MemInv (wakeWriters s) :=
  foldl_wf _ _ _ (fun _ _ ht => foldl_wf _ _ _ (fun _ _ hu => enqueueOnce_wf hu) ht) (foldl_wf _ _ _
      (fun _ _ ht => installVersion_wf ht) (foldl_wf _ _ _ (fun _ _ ht => serveNext_wf ht) h))

theorem flushHeld_wf {p m s} (h : MemInv s) : MemInv (flushHeld p m s) :=
  wf_ite h (wakeWriters_wf (foldl_wf _ _ _ (fun _ _ ht => hcqPut_wf _ _ _ _ ht) (modHcq_wf h)))

theorem execHcrel_wf {p m v s} (h : MemInv s) : ResWf (execHcrel p m v s) := by
  unfold execHcrel
  split
  · exact flushHeld_wf (modHcq_wf h)
  · exact h

theorem writeHcctl_wf {p m v s} (h : MemInv s) : MemInv (writeHcctl p m v s) := flushHeld_wf (modHcq_wf h)

theorem execCompletionHoldTimeout_wf {p m s} (h : MemInv s) : ResWf (execCompletionHoldTimeout p m s) := by
  unfold execCompletionHoldTimeout
  dsimp only
  split
  · exact h
  · split
    · exact h
    · exact wakeWriters_wf (logTo_wf _ _ _ (modHcq_wf h))

theorem execHqctlWrite_wf {p q v s} (h : MemInv s) : ResWf (execHqctlWrite p q v s) := by
  unfold execHqctlWrite
  dsimp only
  split
  · exact wf_ite h (modHq_wf h)
  · exact modHq_wf h

theorem writeHqbase_wf {p q v s} (h : MemInv s) : MemInv (writeHqbase p q v s) := by
  unfold writeHqbase
  split
  · exact h
  · exact modHq_wf h

theorem writeMsix_wf {p i v s} (h : MemInv s) : MemInv (writeMsix p i v s) :=
  wf_ite (emit_wf (modPort_wf (modPort_wf h))) (modPort_wf h)
theorem execDevctlFwact_wf {p s} (h : MemInv s) : ResWf (execDevctlFwact p s) := hostWrite_wf h fun _ ht => ht

theorem barRead_wf {p off s} (h : MemInv s) : MemInv (barRead p off s) := by
  unfold barRead
  split
  · exact semaRead_wf h
  · exact h

theorem execHostLinkUp_wf {p s} (h : MemInv s) : ResWf (execHostLinkUp p s) :=
  wakeWriters_wf (foldl_wf _ _ _ (fun _ _ ht => flushHeld_wf ht) (foldl_wf _ _ _ (fun _ _ ht => enqueueOnce_wf ht)
      (foldl_wf _ _ _ (fun _ _ ht => enqueueOnce_wf ht) (modPort_wf h))))

theorem stopPort_wf {p s} (h : MemInv s) : MemInv (stopPort p s) := loseSema_wf (modPort_wf h)
theorem execHostLinkDown_wf {p s} (h : MemInv s) : ResWf (execHostLinkDown p s) := modPort_wf (stopPort_wf h)

theorem execHostAccessTimeout_wf {s} (h : MemInv s) : ResWf (execHostAccessTimeout s) := by
  unfold execHostAccessTimeout
  split
  · exact h
  · exact foldl_wf _ _ _ (fun _ _ ht => enqueueOnce_wf (pagerLog_wf ht)) (foldl_wf _ _ _ (fun _ _ ht => enqueueOnce_wf
      (pagerLog_wf ht)) h)

theorem hostStore_wf {p addr bs s} (h : MemInv s) : MemInv (hostStore p addr bs s) :=
  wf_ite (noteOlds_wf (writeBytes_wf _ _ h)) h

theorem hostErrorOf_wf {e s} (h : MemInv s) : MemInv (hostErrorOf e s) := by
  unfold hostErrorOf
  split
  · split
    · exact goPaged_wf h
    · exact h
  · exact h

theorem engineErrorAt_wf {e va s} (h : MemInv s) : MemInv (engineErrorAt e va s) := by
  unfold engineErrorAt
  dsimp only
  split
  · split
    · split
      · split
        · next ha =>
          have ha := wf_of_eq ha (loomErrorAt_wf h)
          exact ha
        · exact h
      · exact h
    · exact h
  · split
    · split
      · split
        · next ha =>
          have ha := wf_of_eq ha (carterStall_wf h)
          exact ha
        · next ha =>
          have ha := wf_of_eq ha (carterStall_wf h)
          exact ha
        · exact h
      · exact h
    · exact h

theorem countError_wf {die n s} (h : MemInv s) : MemInv (countError die n s) := modDie_wf h

theorem softError_wf {die mem corrected target s} (h : MemInv s) : MemInv (softError die mem corrected target s) :=
  wf_ite (logTo_wf _ _ _ (countError_wf h)) (wf_ite (modLoom_wf (logTo_wf _ _ _ (countError_wf h))) (poisonKeys_wf
      (logTo_wf _ _ _ (countError_wf h))))

theorem readErrors_wf {die s} (h : MemInv s) : MemInv (readErrors die s) := emit_wf (modDie_wf h)
theorem setPeriod_wf {job booth cycles s} (h : MemInv s) : MemInv (setPeriod job booth cycles s) := wf_ite h h

end Sys2Proof.Machine
end

section
/-!
PROOFS. Every step keeps the memory canonical (O3):
the loader and the requests of the host.
-/

namespace Sys2Proof.Machine

open Sys2Proof.Safety

theorem serve_wf {q op r s k} (h : MemInv s) (hk : ∀ t, MemInv t → MemInv (k t)) : ResWf (serve q op r s k) := by
  unfold serve
  split
  · exact h
  · exact hk _ h

theorem writePte_wf {k v s} (h : MemInv s) : MemInv (writePte k v s) := pokeBytes_wf _ _ h
theorem clearHbm_wf {f s} (h : MemInv s) : MemInv (clearHbm f s) := filter_wf _ _ h

theorem mapPage_wf {va lg leaf l t free s} (h : MemInv s) : SomeWf Prod.snd (mapPage va lg leaf l t free s) := by
  induction l generalizing t free s with
  | nil => exact trivial
  | cons x r ih =>
    unfold mapPage
    dsimp only
    split
    · split
      · exact trivial
      · exact writePte_wf h
    · split
      · split
        · exact trivial
        · exact ih h
      · split
        · split
          · exact trivial
          · exact ih (writePte_wf (clearHbm_wf h))
        · exact trivial

theorem mapPages_wf {root l free s} (h : MemInv s) : SomeWf Prod.snd (mapPages root l free s) := by
  induction l generalizing free s with
  | nil => exact h
  | cons x r ih =>
    unfold mapPages
    split
    · next hx =>
      have hx := wf_of_eq hx (mapPage_wf h)
      exact ih hx
    · exact trivial

theorem mapRoots_wf {job pages l free s} (h : MemInv s) : SomeWf id (mapRoots job pages l free s) := by
  induction l generalizing free s with
  | nil => exact h
  | cons x r ih =>
    unfold mapRoots
    dsimp only
    split
    · next hx =>
      have hx := wf_of_eq hx (mapPages_wf (clearHbm_wf h))
      exact ih hx
    · exact trivial

theorem Plan.mapAll_wf {p s} (h : MemInv s) : SomeWf id (Plan.mapAll p s) :=
  mapRoots_wf (foldl_wf _ _ _ (fun _ _ ht => clearHbm_wf ht) h)
theorem writeSegtab_wf {site more s} (h : MemInv s) : MemInv (writeSegtab site more s) :=
  modTile_wf (foldl_wf _ _ _ (fun _ _ ht => writeNat_wf _ _ _ ht) h)
theorem takeTile_wf {job id segs s t} (h : MemInv s) : MemInv (takeTile job id segs s t) := assignBlocks_wf (writeSegtab_wf h)
theorem Plan.defineQueues_wf {p s} (h : MemInv s) : MemInv (Plan.defineQueues p s) :=
  foldl_wf _ _ _ (fun _ _ ht => ht) (foldl_wf _ _ _ (fun _ _ ht => foldl_wf _ _ _ (fun _ _ hu => hu) ht) h)
theorem Plan.makeBooth_wf {p slots i s} (h : MemInv s) : MemInv (Plan.makeBooth p slots i s) :=
  loadImage_wf (modBooth_wf (foldl_wf _ _ _ (fun _ _ ht => ht) (foldl_wf _ _ _ (fun _ _ ht => takeTile_wf ht) h)))

theorem Plan.makeBooths_wf {p l s} (h : MemInv s) : SomeWf id (Plan.makeBooths p l s) := by
  induction l generalizing s with
  | nil => exact h
  | cons i r ih =>
    unfold Plan.makeBooths
    split
    · exact ih (Plan.makeBooth_wf h)
    · exact trivial

theorem Plan.makeJob_wf {p s} (h : MemInv s) : MemInv (Plan.makeJob p s) := foldl_wf _ _ _ (fun _ _ ht => ht) h
theorem Plan.mapRx_wf {p s} (h : MemInv s) : MemInv (Plan.mapRx p s).2 := h
theorem lookPending_wf {fresh s} (h : MemInv s) : MemInv (lookPending fresh s) :=
  foldl_wf _ _ _ (fun _ _ ht => wf_ite (enqueueOnce_wf ht) (wf_ite (enqueueOnce_wf ht) ht)) h

theorem Plan.run_wf {p s} (h : MemInv s) : OkWf id (Plan.run p s) := by
  unfold Plan.run
  dsimp only
  split
  · exact h
  · next hx =>
    have hx := wf_of_eq hx (Plan.mapAll_wf h)
    split
    · exact trivial
    · next hy =>
      have hy := wf_of_eq hy (Plan.makeBooths_wf (Plan.defineQueues_wf (Plan.mapTx_wf (Plan.makeJob_wf hx))))
      split
      · exact setYards_wf (completeOk_wf (lookPending_wf (Plan.mapRx_wf (foldl_wf _ _ _ (fun _ _ ht => startBooth_wf ht)
          hy))))
      · exact trivial

theorem startTurn_wf {r gr s} (h : MemInv s) : MemInv (startTurn r gr s) := by
  unfold startTurn
  dsimp only
  split
  · exact endReq_wf (completeFail_wf h)
  · split
    · exact endReq_wf (completeFail_wf h)
    · split
      · exact endReq_wf (completeFail_wf h)
      · split
        · exact h
        · next ha =>
          split
          · exact endReq_wf (completeFail_wf h)
          · split
            · exact h
            · split
              · next hd =>
                have hd := wf_of_eq hd (Plan.run_wf h)
                exact endReq_wf hd
              · exact endReq_wf (completeFail_wf h)

theorem execStartJob_wf {r gr s} (h : MemInv s) : ResWf (execStartJob r gr s) := serve_wf h fun _ ht => startTurn_wf ht
theorem failDie_wf {code s die} (h : MemInv s) : MemInv (failDie code s die) := setStrand_wf (modDie_wf h)

theorem verifyDie_wf {die s} (h : MemInv s) : MemInv (verifyDie die s) := by
  unfold verifyDie
  split
  · exact modDie_wf (pokeBytes_wf _ _ h)
  · exact failDie_wf h

theorem verifyTurn_wf {die s} (h : MemInv s) : MemInv (verifyTurn die s) := by
  unfold verifyTurn
  split
  · exact modDie_wf h
  · exact verifyDie_wf h

theorem doneOk_wf {q r addr s} (h : MemInv s) : MemInv (doneOk q r addr s) := endReq_wf (wf_ite h (completeOk_wf h))
theorem doneFail'_wf {q r cls s} (h : MemInv s) : MemInv (doneFail' q r cls s) := endReq_wf (wf_ite h (completeFail_wf h))
theorem killQueueOf_wf {s k} (h : MemInv s) : MemInv (killQueueOf s k) := wakeQueue_wf h
theorem flushJob_wf {job s} (h : MemInv s) : MemInv (flushJob job s) :=
  foldl_wf _ _ _ (fun _ _ ht => flushBooth_wf (discardLoom_wf ht)) h

theorem pagerReleases_wf {s} (h : MemInv s) : MemInv (pagerReleases s) := by
  unfold pagerReleases
  split
  · exact freeSema_wf h
  · exact h

theorem killStart_wf {job s} (h : MemInv s) : MemInv (killStart job s) :=
  foldl_wf _ _ _ (fun _ _ ht => killQueueOf_wf ht) (flushJob_wf (pagerReleases_wf h))
theorem freeNodes_wf {job s} (h : MemInv s) : MemInv (freeNodes job s) := foldl_wf _ _ _ (fun _ _ ht => enqueueOnce_wf ht) h

theorem releaseJob_wf {job s} (h : MemInv s) : MemInv (releaseJob job s) :=
  dropTransit_wf (foldl_wf _ _ _ (fun _ _ ht => modDie_wf ht) (foldl_wf _ _ _ (fun _ _ ht => clearRx_wf ht)
      (foldl_wf _ _ _ (fun _ _ ht => clearTx_wf ht) (freeNodes_wf (foldl_wf _ _ _ (fun _ _ ht => releaseQueue_wf ht)
      (foldl_wf _ _ _ (fun _ _ ht => ht) h))))))

theorem killTurn_wf {r s} (h : MemInv s) : MemInv (killTurn r s) := by
  unfold killTurn
  dsimp only
  split
  · exact doneFail'_wf h
  · split
    · split
      · exact h
      · exact doneOk_wf (setYards_wf (releaseJob_wf h))
    · split
      · exact enqueue_wf (killStart_wf h)
      · exact doneOk_wf (setYards_wf (releaseJob_wf (killStart_wf h)))

theorem execKillJob_wf {r s} (h : MemInv s) : ResWf (execKillJob r s) := serve_wf h fun _ ht => killTurn_wf ht
theorem grantTurn_wf {r s} (h : MemInv s) : MemInv (grantTurn r s) :=
  wf_ite (doneFail'_wf h) (wf_ite (doneFail'_wf h) (doneOk_wf h))
theorem execGrantHostQueue_wf {r s} (h : MemInv s) : ResWf (execGrantHostQueue r s) := serve_wf h fun _ ht => grantTurn_wf ht
theorem copyRecords_wf {addr rs s} (h : MemInv s) : MemInv (copyRecords addr rs s) :=
  foldl_wf _ _ _ (fun _ _ ht => writeNat_wf _ _ _ ht) h
theorem readLogTurn_wf {r s} (h : MemInv s) : MemInv (readLogTurn r s) := doneOk_wf (copyRecords_wf h)
theorem execReadLog_wf {r s} (h : MemInv s) : ResWf (execReadLog r s) := serve_wf h fun _ ht => readLogTurn_wf ht
theorem execReadLogCount_wf {r s} (h : MemInv s) : ResWf (execReadLogCount r s) := serve_wf h fun _ ht => doneOk_wf ht

theorem stageFirmwareTurn_wf {r s} (h : MemInv s) : MemInv (stageFirmwareTurn r s) := by
  unfold stageFirmwareTurn
  dsimp only
  split
  · exact doneFail'_wf h
  · split
    · exact doneOk_wf (freeSema_wf h)
    · exact doneFail'_wf (freeSema_wf h)

theorem execStageFirmware_wf {r s} (h : MemInv s) : ResWf (execStageFirmware r s) :=
  serve_wf h fun _ ht => stageFirmwareTurn_wf ht
theorem oweShutters_wf {bk tag s} (h : MemInv s) : MemInv (oweShutters bk tag s) :=
  foldl_wf _ _ _ (fun _ _ ht => placeOwed_wf ht) h
theorem replaceStaged_wf {bk tag s} (h : MemInv s) : MemInv (replaceStaged bk tag s) :=
  foldl_wf _ _ _ (fun _ _ ht => hcqPut_wf _ _ _ _ ht) h

theorem keepVersion_wf {bk tag place rs r s} (h : MemInv s) : MemInv (keepVersion bk tag place rs r s) :=
  endReq_wf (wf_ite (wf_ite (installVersion_wf (modBooth_wf (replaceStaged_wf h))) (modBooth_wf (replaceStaged_wf h)))
      (wf_ite (oweShutters_wf (modBooth_wf (replaceStaged_wf h))) (modBooth_wf (replaceStaged_wf h))))

theorem stageVersionTurn_wf {r place s} (h : MemInv s) : MemInv (stageVersionTurn r place s) := by
  unfold stageVersionTurn
  dsimp only
  split
  · exact doneFail'_wf h
  · split
    · exact h
    · split
      · exact doneFail'_wf h
      · split
        · exact doneFail'_wf h
        · exact keepVersion_wf h

theorem execStageVersion_wf {r place s} (h : MemInv s) : ResWf (execStageVersion r place s) :=
  serve_wf h fun _ ht => stageVersionTurn_wf ht

end Sys2Proof.Machine
end

section
/-!
PROOFS. Every step keeps the memory canonical (O3):
freeze, checkpoint and resumption, boot and power, and the responder.
-/

namespace Sys2Proof.Machine

open Sys2Proof.Safety

theorem writeUrgent_wf {kind job s site} (h : MemInv s) : MemInv (writeUrgent kind job s site) := writeNat_wf _ _ _ h

theorem execUrgentRun_wf {site s r} (h : MemInv s) (hr : execUrgentRun site s = r) : ResWf r := by
  subst hr
  unfold execUrgentRun
  generalize readNat s (keysFrom (urgentKey site) 16) = n
  exact iteInduction (motive := ResWf) (fun _ => startStrand_wf (writeNat_wf _ _ _ h)) fun _ => h

theorem abandonLoom_wf {ts s} (h : MemInv s) : MemInv (abandonLoom ts s) := foldl_wf _ _ _ (fun _ _ ht => ht) h
theorem abandonAll_wf {ts s} (h : MemInv s) : MemInv (abandonAll ts s) := abandonLoom_wf h
theorem wakeUnits_wf {s} (h : MemInv s) : MemInv (wakeUnits s) := wakeEngine_wf h
theorem parkTile_wf {s site} (h : MemInv s) : MemInv (parkTile s site) :=
  freeTile_wf (foldl_wf _ _ _ (fun _ _ ht => wf_ite ht ht) h)
theorem parkJob_wf {s job} (h : MemInv s) : MemInv (parkJob s job) :=
  wakeUnits_wf (foldl_wf _ _ _ (fun _ _ ht => parkTile_wf ht) h)

theorem forwardFreeze_wf {r js s} (h : MemInv s) : MemInv (forwardFreeze r js s) := by
  unfold forwardFreeze
  split
  · exact h
  · exact foldl_wf _ _ _ (fun _ _ ht => foldl_wf _ _ _ (fun _ _ hu => hu) ht) h

theorem startFreeze_wf {r js s} (h : MemInv s) : MemInv (startFreeze r js s) :=
  forwardFreeze_wf (foldl_wf _ _ _ (fun _ _ ht => ht) (foldl_wf _ _ _ (fun _ _ ht => foldl_wf _ _ _
      (fun _ _ hu => writeUrgent_wf hu) ht) h))

theorem pagerTakes_wf {s} (h : MemInv s) : MemInv (pagerTakes s) := by
  unfold pagerTakes
  split <;> exact h

theorem writeFreeze_wf {r js s} (h : MemInv s) : MemInv (writeFreeze r js s) :=
  pagerReleases_wf (logTo_wf _ _ _ (writeBytes_wf _ _ (foldl_wf _ _ _ (fun _ _ ht => parkJob_wf ht) (backSlots_wf h))))

theorem freezeTurn_wf {i r s} (h : MemInv s) : SomeWf id (freezeTurn i r s).1 ∧ MemInv (freezeTurn i r s).2 := by
  unfold freezeTurn
  dsimp only
  split
  · exact ⟨h, h⟩
  · refine iteInduction (motive := fun r : Option State × State => SomeWf id r.1 ∧ MemInv r.2) (fun _ => ⟨trivial, ?_⟩)
      fun _ => ⟨?_, ?_⟩
    · exact enqueue_wf (pagerTakes_wf (abandonAll_wf (wf_ite h (startFreeze_wf h))))
    · exact writeFreeze_wf (pagerTakes_wf (abandonAll_wf (wf_ite h (startFreeze_wf h))))
    · exact writeFreeze_wf (pagerTakes_wf (abandonAll_wf (wf_ite h (startFreeze_wf h))))

theorem freezeReq_wf {r s} (h : MemInv s) : MemInv (freezeReq r s) := by
  unfold freezeReq
  have hf := freezeTurn_wf (i := .urgentFreeze r) (r := r) h
  split
  · exact doneFail'_wf h
  · split
    · next hx => rw [hx] at hf; exact doneOk_wf hf.1
    · next hx => rw [hx] at hf; exact hf.2

theorem execUrgentFreeze_wf {r s} (h : MemInv s) : ResWf (execUrgentFreeze r s) := serve_wf h fun _ ht => freezeReq_wf ht

theorem resumeStrand_wf {key t wake s} (h : MemInv s) : MemInv (resumeStrand key t wake s) := by
  unfold resumeStrand
  dsimp only
  split
  · exact h
  · split
    · exact asStrand_wf (wakeParked_wf h)
    · exact h
  · split
    · exact asStrand_wf (e := s.cur) (wakeWait_wf (asStrand_wf (lostWait_wf (reissuePaged_wf h))))
    · exact asStrand_wf (wakeWait_wf (asStrand_wf (lostWait_wf (reissuePaged_wf h))))

theorem dropJobTlb_wf {job s} (h : MemInv s) : MemInv (dropJobTlb job s) := foldl_wf _ _ _ (fun _ _ ht => modDie_wf ht) h
theorem restoreBytes_wf {v s} (h : MemInv s) : MemInv (restoreBytes v s) := touch_wf (pokeBytes_wf _ _ (pokeBytes_wf _ _ h))
theorem resumeEvents_wf {v s} (h : MemInv s) : MemInv (resumeEvents v s) :=
  foldl_wf _ _ _ (fun _ _ ht => enqueueOnce_wf ht) (foldl_wf _ _ _ (fun _ _ ht => enqueueOnce_wf ht) h)

theorem restoreJob_wf {s v} (h : MemInv s) : MemInv (restoreJob s v) :=
  resumeEvents_wf (foldl_wf _ _ _ (fun _ _ ht => writeUrgent_wf ht) (foldl_wf _ _ _ (fun _ _ ht => resumeStrand_wf ht)
      (readSlots_wf (modJob_wf (foldl_wf _ _ _ (fun _ _ ht => ht) (foldl_wf _ _ _ (fun _ _ ht => ht) (foldl_wf _ _ _
      (fun _ _ ht => ht) (foldl_wf _ _ _ (fun _ _ ht => ht) (dropJobTlb_wf (restoreBytes_wf h))))))))))

theorem resumeSaved_wf {vs s} (h : MemInv s) : MemInv (resumeSaved vs s) :=
  wakeUnits_wf (foldl_wf _ _ _ (fun _ _ ht => foldl_wf _ _ _ (fun _ _ hu => wakeQueue_wf hu) ht) (foldl_wf _ _ _
      (fun _ _ ht => restoreJob_wf ht) h))

theorem resumeLog_wf {r n s} (h : MemInv s) : MemInv (resumeLog r n s) := logTo_wf _ _ _ h
theorem resumeReq_wf {r s} (h : MemInv s) : MemInv (resumeReq r s) :=
  wf_ite (doneFail'_wf h) (wf_ite h (doneOk_wf (wf_ite h (resumeLog_wf (resumeSaved_wf h)))))
theorem execResumeJobs_wf {r s} (h : MemInv s) : ResWf (execResumeJobs r s) := serve_wf h fun _ ht => resumeReq_wf ht

theorem checkpointReq_wf {r s} (h : MemInv s) : MemInv (checkpointReq r s) := by
  unfold checkpointReq
  have hf := freezeTurn_wf (i := .checkpoint r) (r := r) h
  split
  · exact doneFail'_wf h
  · split
    · next hx => rw [hx] at hf; exact hf.2
    · next hx =>
      rw [hx] at hf
      exact doneOk_wf (wf_ite hf.1 (resumeLog_wf (resumeSaved_wf hf.1)))

theorem execCheckpoint_wf {r s} (h : MemInv s) : ResWf (execCheckpoint r s) := serve_wf h fun _ ht => checkpointReq_wf ht
theorem restartPath_wf {s w} (h : MemInv s) : MemInv (restartPath s w) := foldl_wf _ _ _ (fun _ _ ht => wf_ite ht ht) h
theorem dropLive_wf {s job} (h : MemInv s) : MemInv (dropLive s job) :=
  parkJob_wf (foldl_wf _ _ _ (fun _ _ ht => restartPath_wf ht) h)

theorem restoreWaiters_wf {v s p} (h : MemInv s) : MemInv (restoreWaiters v s p) := by
  unfold restoreWaiters
  refine foldl_wf _ _ _ (fun _ _ ht => ?_) h
  split
  · exact appendNode_wf ht
  · exact ht

theorem restoreTables_wf {s v} (h : MemInv s) : MemInv (restoreTables s v) :=
  foldl_wf _ _ _ (fun _ _ ht => restoreWaiters_wf ht) h

theorem moveImage_wf {v s} (h : MemInv s) : MemInv (moveImage v s) := by
  unfold moveImage
  split <;> exact h

theorem adopt_wf {vs s} (h : MemInv s) : MemInv (adopt vs s) := resumeSaved_wf (foldl_wf _ _ _ (fun _ _ ht => ht) h)
theorem takeOver_wf {dev s} (h : MemInv s) : MemInv (takeOver dev s) :=
  adopt_wf (foldl_wf _ _ _ (fun _ _ ht => foldl_wf _ _ _ (fun _ _ hu => restartPath_wf hu) (restoreTables_wf ht)) h)
theorem fallBack_wf {dev s} (h : MemInv s) : MemInv (fallBack dev s) :=
  adopt_wf (foldl_wf _ _ _ (fun _ _ ht => restoreTables_wf ht) (foldl_wf _ _ _ (fun _ _ ht => dropLive_wf ht) h))
theorem execDeviceFailure_wf {dev spare s} (h : MemInv s) : ResWf (execDeviceFailure dev spare s) :=
  wf_ite h (wf_ite (takeOver_wf h) (fallBack_wf h))
theorem powerOn_wf {s} (h : MemInv s) : MemInv (powerOn s) := filter_wf _ _ h
theorem bootFails_wf {die code s} (h : MemInv s) : MemInv (bootFails die code s) := wf_ite (failDie_wf h) h
theorem execDevctlReset_wf {p s} (h : MemInv s) : ResWf (execDevctlReset p s) := hostWrite_wf h fun _ ht => powerOn_wf ht
theorem writeDevctl_wf {v s} (h : MemInv s) : MemInv (writeDevctl v s) := wf_ite (powerOn_wf (wf_ite h h)) (wf_ite h h)

theorem execBarRegisterWrite_wf {p off v s} (h : MemInv s) : ResWf (execBarRegisterWrite p off v s) :=
  wf_ite (hostWrite_wf h fun _ ht => writeDevctl_wf ht) (wf_ite (hostWrite_wf h fun _ ht => ht) (wf_ite
      (writeHqbase_wf h) (wf_ite (modHcq_wf h) (wf_ite (writeHcctl_wf h) (wf_ite (writeMsix_wf h) h)))))

theorem execBootEnd_wf {die s} (h : MemInv s) : ResWf (execBootEnd die s) := by
  unfold execBootEnd
  split
  · exact endBoot_wf h
  · exact h

theorem writeTileMap_wf {s} (h : MemInv s) : MemInv (writeTileMap s) := foldl_wf _ _ _ (fun _ _ ht => putBytes_wf ht) h
theorem startReserve_wf {idle s t} (h : MemInv s) : MemInv (startReserve idle s t) :=
  startStrand_wf (setStrand_wf (writeBytes_wf _ _ (writeBytes_wf _ _ h)))

theorem raiseMinimum_wf {s} (h : MemInv s) : MemInv (raiseMinimum s) := by
  unfold raiseMinimum
  dsimp only
  split
  · split <;> exact h
  · exact h

theorem fixTargets_wf {die s} (h : MemInv s) : MemInv (fixTargets die s) :=
  foldl_wf _ _ _ (fun _ _ ht => foldl_wf _ _ _ (fun _ _ hu => wf_ite (modHq_wf hu) hu) ht) h

theorem execStewardStart_wf {die load s} (h : MemInv s) : ResWf (execStewardStart die load s) := by
  unfold execStewardStart
  split
  · exact setYards_wf (raiseMinimum_wf (modDie_wf (measureStewards_wf (writeTileMap_wf (wf_ite (fixTargets_wf
      (foldl_wf _ _ _ (fun _ _ ht => startSteward_wf ht) (foldl_wf _ _ _ (fun _ _ ht => startReserve_wf ht)
      (foldl_wf _ _ _ (fun _ _ ht => loadSteward_wf ht) h)))) (fixTargets_wf (foldl_wf _ _ _
      (fun _ _ ht => startSteward_wf ht) (foldl_wf _ _ _ (fun _ _ ht => startReserve_wf ht) (foldl_wf _ _ _
      (fun _ _ ht => loadSteward_wf ht) h)))))))))
  · exact h

theorem execSetFrequency_wf {die cmd s} (h : MemInv s) : ResWf (execSetFrequency die cmd s) := by
  unfold execSetFrequency
  dsimp only
  split
  · exact h
  · split
    · exact h
    · split <;> exact h

theorem execFrequencyPauseEnd_wf {yard s} (h : MemInv s) : ResWf (execFrequencyPauseEnd yard s) := wf_ite h h

theorem execPowerDown_wf {die cmd s} (h : MemInv s) : ResWf (execPowerDown die cmd s) := by
  unfold execPowerDown
  dsimp only
  split
  · exact h
  · split
    · exact backSlots_wf h
    · exact refuseLog_wf h

theorem execPowerUp_wf {die cmd s} (h : MemInv s) : ResWf (execPowerUp die cmd s) := by
  unfold execPowerUp
  dsimp only
  split <;> exact h

theorem eachIsland_wf {f s} (h : MemInv s) : MemInv (eachIsland f s) := foldl_wf _ _ _ (fun _ _ ht => wf_ite ht ht) h

theorem execPowerCheck_wf {watts s} (h : MemInv s) : ResWf (execPowerCheck watts s) := by
  unfold execPowerCheck
  dsimp only
  split
  · exact eachIsland_wf h
  · split
    · exact eachIsland_wf h
    · exact h

theorem execThermalLimit_wf {die s} (h : MemInv s) : ResWf (execThermalLimit die s) :=
  logTo_wf _ _ _ (eachIsland_wf (modDie_wf h))
theorem modSpdm_wf {p f s} (h : MemInv s) : MemInv (modSpdm p f s) := modPort_wf h
theorem execGetVersion_wf {p s} (h : MemInv s) : ResWf (execGetVersion p s) := reply_wf (modSpdm_wf h)

theorem execGetCapabilities_wf {p s} (h : MemInv s) : ResWf (execGetCapabilities p s) := by
  unfold execGetCapabilities
  split
  · exact reply_wf (modSpdm_wf h)
  · exact h

theorem execNegotiateAlgorithms_wf {p s} (h : MemInv s) : ResWf (execNegotiateAlgorithms p s) := by
  unfold execNegotiateAlgorithms
  split
  · exact reply_wf (modSpdm_wf h)
  · exact h

theorem negotiated_wf {p s k} (h : MemInv s) : ResWf (negotiated p s k) := h
theorem execSpdmUnsupportedRequest_wf {p code s} (h : MemInv s) : ResWf (execSpdmUnsupportedRequest p code s) := h

end Sys2Proof.Machine
end

section
/-!
PROOFS. Every step keeps the memory canonical (O3):
vectors, the cycle of a tile, the dispatch and one step.
-/

namespace Sys2Proof.Machine

open Sys2Proof.Safety

theorem lanewise_wf {g w r mk d op s} (h : MemInv s) : ResWf (lanewise g w r mk d op s) :=
  guarded_resWf h fun _ ht => next_wf _ (wv_wf (takeDraws_wf ht))
theorem vArith_wf {g f r sat mk d a b fl int s} (h : MemInv s) : ResWf (vArith g f r sat mk d a b fl int s) := lanewise_wf h
theorem vFused_wf {g f r sat neg mk d a b c s} (h : MemInv s) : ResWf (vFused g f r sat neg mk d a b c s) := lanewise_wf h
theorem execVmin_wf {g f mk d a b s} (h : MemInv s) : ResWf (execVmin g f mk d a b s) := lanewise_wf h
theorem execVmax_wf {g f mk d a b s} (h : MemInv s) : ResWf (execVmax g f mk d a b s) := lanewise_wf h
theorem execVabs_wf {g f sat mk d a s} (h : MemInv s) : ResWf (execVabs g f sat mk d a s) := lanewise_wf h
theorem execVneg_wf {g f sat mk d a s} (h : MemInv s) : ResWf (execVneg g f sat mk d a s) := lanewise_wf h
theorem vFunc_wf {g f r sat mk d a fn s} (h : MemInv s) : ResWf (vFunc g f r sat mk d a fn s) := lanewise_wf h

theorem execVdot_wf {g f r sat mk d a b s} (h : MemInv s) : ResWf (execVdot g f r sat mk d a b s) := by
  unfold execVdot
  exact lanewise_wf h

theorem execVcmp_wf {g f cc mk kd a b s} (h : MemInv s) : ResWf (execVcmp g f cc mk kd a b s) :=
  guarded_resWf h fun _ ht => next_wf _ ht
theorem vBits_wf {g f mk d a b op s} (h : MemInv s) : ResWf (vBits g f mk d a b op s) := lanewise_wf h
theorem execVand_wf {g f mk d a b s} (h : MemInv s) : ResWf (execVand g f mk d a b s) := vBits_wf h
theorem execVor_wf {g f mk d a b s} (h : MemInv s) : ResWf (execVor g f mk d a b s) := vBits_wf h
theorem execVxor_wf {g f mk d a b s} (h : MemInv s) : ResWf (execVxor g f mk d a b s) := vBits_wf h
theorem execVshl_wf {g f mk d a b s} (h : MemInv s) : ResWf (execVshl g f mk d a b s) := vBits_wf h
theorem execVshr_wf {g f mk d a b s} (h : MemInv s) : ResWf (execVshr g f mk d a b s) := vBits_wf h
theorem execVsar_wf {g f mk d a b s} (h : MemInv s) : ResWf (execVsar g f mk d a b s) := vBits_wf h

theorem execVmov_wf {g f s} (h : MemInv s) : ResWf (execVmov g f s) := by
  unfold execVmov
  split
  · exact lanewise_wf h
  · exact guarded_resWf h fun _ ht => next_wf _ ht
  · exact guarded_resWf h fun _ ht => next_wf _ ht
  · exact guarded_resWf h fun _ ht => next_wf _ ht

theorem execVbcast_wf {g f mk d a b s} (h : MemInv s) : ResWf (execVbcast g f mk d a b s) := lanewise_wf h
theorem execVperm_wf {g f mk d a b s} (h : MemInv s) : ResWf (execVperm g f mk d a b s) := lanewise_wf h
theorem execVsel_wf {g f mk d a b s} (h : MemInv s) : ResWf (execVsel g f mk d a b s) := lanewise_wf h
theorem execVextr_wf {g f d a b s} (h : MemInv s) : ResWf (execVextr g f d a b s) := guarded_resWf h fun _ ht => next_wf _ ht
theorem execVins_wf {g f d a b s} (h : MemInv s) : ResWf (execVins g f d a b s) := guarded_resWf h fun _ ht => next_wf _ ht

theorem execVred_wf {g f op r mk d a s} (h : MemInv s) : ResWf (execVred g f op r mk d a s) := by
  unfold execVred
  refine guarded_resWf h fun _ ht => ?_
  split
  · exact next_wf _ ht
  · exact next_wf _ (wx_wf (takeDraws_wf ht))

theorem execVscan_wf {g f op r sat mk d a s} (h : MemInv s) : ResWf (execVscan g f op r sat mk d a s) :=
  guarded_resWf h fun _ ht => next_wf _ (wv_wf (takeDraws_wf ht))
theorem execVcvt_wf {g t f r sat part mk d a s} (h : MemInv s) : ResWf (execVcvt g t f r sat part mk d a s) :=
  guarded_resWf h fun _ ht => next_wf _ (wv_wf (wf_ite_snd (takeDraws_wf ht) ht))
theorem execVpack_wf {g f r ty part d a b c s} (h : MemInv s) : ResWf (execVpack g f r ty part d a b c s) :=
  guarded_resWf h fun _ ht => next_wf _ (wx_wf (wv_wf (takeDraws_wf ht)))
theorem execVunpk_wf {g t r sat part hi mk d a b s} (h : MemInv s) : ResWf (execVunpk g t r sat part hi mk d a b s) :=
  lanewise_wf h
theorem execVcomp_wf {g f mk d a s} (h : MemInv s) : ResWf (execVcomp g f mk d a s) := guarded_resWf h
    fun _ ht => next_wf _ ht
theorem execVprune_wf {g f n d a c s} (h : MemInv s) : ResWf (execVprune g f n d a c s) :=
  guarded_resWf h fun _ ht => next_wf _ ht

theorem fetch_wf {e s} (h : MemInv s) : IssueWf (fetch e s) := by
  unfold fetch
  dsimp only
  split
  · exact trapCode_wf h
  · split
    · exact raise_wf _ _ _ h
    · split
      · exact raise_wf _ _ _ h
      · split
        · exact raise_wf _ _ _ h
        · exact h

theorem issue_wf {site s} (h : MemInv s) : IssueWf (issue site s) := by
  unfold issue
  split
  · exact h
  · split
    · exact verifyTurn_wf h
    · split
      · exact h
      · exact fetch_wf h

theorem completeFlight_wf {e c s} (h : MemInv s) : MemInv (completeFlight e c s) := by
  unfold completeFlight
  dsimp only
  split
  · exact enqueueOnce_wf h
  · exact stopStrand_wf _ _ h
  · exact completePush_wf h
  · exact completeSys_wf h
  · exact mwaitTouched_wf h
  · exact h
  · split
    · exact boundary_wf _ _ h
    · exact h

theorem strandTimers_wf {site s} (h : MemInv s) : MemInv (strandTimers site s) := by
  refine foldl_wf _ _ _ (fun _ _ ht => ?_) h
  dsimp only
  split
  · exact wf_ite (mwaitEnd_wf (wf_ite (completeFlight_wf ht) ht)) (wf_ite (completeFlight_wf ht) ht)
  · exact wf_ite (completeFlight_wf ht) ht

theorem boothTimers_wf {site s} (h : MemInv s) : MemInv (boothTimers site s) :=
  wf_ite h (wf_ite (enqueueOnce_wf (wf_ite (enqueueOnce_wf h) h)) (wf_ite (enqueueOnce_wf h) h))

theorem endCycle_wf {site s} (h : MemInv s) : MemInv (endCycle site s) := by
  unfold endCycle
  split
  · exact h
  · exact settleEdges_wf (spillTimers_wf (boothTimers_wf (wf_ite (enqueueOnce_wf (strandTimers_wf h)) (strandTimers_wf h))))

theorem takeInput_wf {x s} (h : MemInv s) : AgendaWf (takeInput x s) := by
  unfold takeInput
  split
  · split
    · exact h
    · exact trivial
  · exact h
  · split <;> exact h
  · exact h
  · exact pagerWrites_wf h
  · exact barRead_wf h
  · exact softError_wf h
  · exact readErrors_wf h
  · exact bootFails_wf h
  · exact setPeriod_wf h
  · exact hostStore_wf h
  · exact hostErrorOf_wf h
  · exact engineErrorAt_wf h
  · exact copyPage_wf h
  · exact h
  · exact takeExec_wf h
  · exact enlargeSpill_wf h
  · exact moveImage_wf h

theorem agenda_wf {s} (h : MemInv s) : AgendaWf (agenda s) := by
  unfold agenda
  split
  · exact takeInput_wf h
  · split <;> exact h

/-- Every instruction and every event of the table keeps the canonical form: by their shared shapes. -/
theorem exec_wf {i s r} (h : MemInv s) (hr : exec i s = r) : ResWf r := by
  cases i with
  | nop => exact hr ▸ execNop_wf h
  | fork => exact hr ▸ execFork_wf h
  | stop => exact hr ▸ execStop_wf h
  | yield => exact hr ▸ execYield_wf h
  | yieldPauseEnd => exact hr ▸ execYieldPauseEnd_wf h
  | wake => exact hr ▸ execWake_wf h
  | wakeEventDelivery => exact hr ▸ execWakeEventDelivery_wf h
  | trap => exact hr ▸ execTrap_wf h
  | eret => exact hr ▸ execEret_wf h
  | sysrd => exact hr ▸ execSysrd_wf h
  | syswr => exact hr ▸ execSyswr_wf h
  | segld => exact hr ▸ execSegld_wf h
  | halt => exact hr ▸ execHalt_wf h
  | br => exact hr ▸ execBr_wf h
  | brl => exact hr ▸ execBrl_wf h
  | brx => exact hr ▸ execBrx_wf h
  | brxl => exact hr ▸ execBrxl_wf h
  | ret => exact hr ▸ execRet_wf h
  | loop => exact hr ▸ execLoop_wf h
  | add => exact hr ▸ execAdd_wf h
  | sub => exact hr ▸ execSub_wf h
  | mul => exact hr ▸ execMul_wf h
  | mulh => exact hr ▸ execMulh_wf h
  | mulhu => exact hr ▸ execMulhu_wf h
  | div => exact hr ▸ execDiv_wf h
  | divu => exact hr ▸ execDivu_wf h
  | rem => exact hr ▸ execRem_wf h
  | remu => exact hr ▸ execRemu_wf h
  | and => exact hr ▸ execAnd_wf h
  | or => exact hr ▸ execOr_wf h
  | xor => exact hr ▸ execXor_wf h
  | andn => exact hr ▸ execAndn_wf h
  | shl => exact hr ▸ execShl_wf h
  | shr => exact hr ▸ execShr_wf h
  | sar => exact hr ▸ execSar_wf h
  | rol => exact hr ▸ execRol_wf h
  | min => exact hr ▸ execMin_wf h
  | max => exact hr ▸ execMax_wf h
  | minu => exact hr ▸ execMinu_wf h
  | maxu => exact hr ▸ execMaxu_wf h
  | ext => exact hr ▸ execExt_wf h
  | extu => exact hr ▸ execExtu_wf h
  | ins => exact hr ▸ execIns_wf h
  | sel => exact hr ▸ execSel_wf h
  | fmin => exact hr ▸ execFmin_wf h
  | fmax => exact hr ▸ execFmax_wf h
  | clz => exact hr ▸ execClz_wf h
  | ctz => exact hr ▸ execCtz_wf h
  | popc => exact hr ▸ execPopc_wf h
  | brev => exact hr ▸ execBrev_wf h
  | mov => exact hr ▸ execMov_wf h
  | movi => exact hr ▸ execMovi_wf h
  | lea => exact hr ▸ execLea_wf h
  | caddr | crel => exact hr ▸ convAddr_wf h
  | fadd => exact hr ▸ execFadd_wf h
  | fsub => exact hr ▸ execFsub_wf h
  | fmul => exact hr ▸ execFmul_wf h
  | fdiv => exact hr ▸ execFdiv_wf h
  | ffma => exact hr ▸ execFfma_wf h
  | fcmp => exact hr ▸ execFcmp_wf h
  | cmp => exact hr ▸ execCmp_wf h
  | fcvt => exact hr ▸ execFcvt_wf h
  | pand | por | pxor => exact hr ▸ pred2_wf h
  | pnot => exact hr ▸ execPnot_wf h
  | pmov => exact hr ▸ execPmov_wf h
  | ld | st => exact hr ▸ memOne_wf h
  | ldv | stv => exact hr ▸ memVec_wf h
  | gath | scat => exact hr ▸ memGather_wf h
  | stn => exact hr ▸ execStn_wf h
  | aadd | aand | aor | axor | amin | amax | aminu | amaxu | axch | acas | afadd | afmin | afmax => exact hr ▸ memAtomic_wf h
  | fence => exact hr ▸ execFence_wf h
  | fenceComplete => exact hr ▸ execFenceComplete_wf h
  | memoryReply => exact hr ▸ execMemoryReply_wf h
  | poisonReport => exact hr ▸ execPoisonReport_wf h
  | nsum | nmax | naxpy | nscale | ncvt | ndot => exact hr ▸ cellarIssue_wf h
  | cellarCommandComplete => exact hr ▸ execCellarCommandComplete_wf h
  | landset | landadd => exact hr ▸ landWord_wf h
  | marm => exact hr ▸ execMarm_wf h
  | mwait => exact hr ▸ execMwait_wf h
  | mwaitWake => exact hr ▸ execMwaitWake_wf h
  | mwaitLimitExpiry => exact hr ▸ execMwaitLimitExpiry_wf h
  | mclr => exact hr ▸ execMclr_wf h
  | rng => exact hr ▸ execRng_wf h
  | vrng => exact hr ▸ execVrng_wf h
  | qdef => exact hr ▸ execQdef_wf h
  | qkill => exact hr ▸ execQkill_wf h
  | qbind => exact hr ▸ execQbind_wf h
  | qpush => exact hr ▸ execQpush_wf h
  | qpop => exact hr ▸ execQpop_wf h
  | qpeek => exact hr ▸ execQpeek_wf h
  | qmark => exact hr ▸ execQmark_wf h
  | qstat => exact hr ▸ execQstat_wf h
  | queueWaitResume => exact hr ▸ execQueueWaitResume_wf h
  | queueHeldEnd => exact hr ▸ execQueueHeldEnd_wf h
  | roundEdge => exact hr ▸ tryEdge_wf h
  | twinCompare => exact hr ▸ execTwinCompare_wf h
  | tspawn => exact hr ▸ execTspawn_wf h
  | tend => exact hr ▸ execTend_wf h
  | readyQueueHeldEnd => exact hr ▸ execReadyQueueHeldEnd_wf h
  | tnext => exact hr ▸ execTnext_wf h
  | readyRecordArrival => exact hr ▸ serveReady_wf h
  | tjoin => exact hr ▸ execTjoin_wf h
  | balanceTick => exact hr ▸ execBalanceTick_wf h
  | balanceSnapshotArrival => exact hr ▸ execBalanceSnapshotArrival_wf h
  | recordMigrationArrival => exact hr ▸ landRecord_wf h
  | fnew => exact hr ▸ execFnew_wf h
  | fset => exact hr ▸ execFset_wf h
  | fget => exact hr ▸ execFget_wf h
  | waiterNodeFree => exact hr ▸ execWaiterNodeFree_wf h
  | ffree => exact hr ▸ execFfree_wf h
  | fpoison => exact hr ▸ execFpoison_wf h
  | vadd | vsub | vmul | vdiv => exact hr ▸ vArith_wf h
  | vfma | vfms => exact hr ▸ vFused_wf h
  | vmin => exact hr ▸ execVmin_wf h
  | vmax => exact hr ▸ execVmax_wf h
  | vabs => exact hr ▸ execVabs_wf h
  | vneg => exact hr ▸ execVneg_wf h
  | vbcast => exact hr ▸ execVbcast_wf h
  | vperm => exact hr ▸ execVperm_wf h
  | vsel => exact hr ▸ execVsel_wf h
  | vunpk => exact hr ▸ execVunpk_wf h
  | vsqrt | vrcp | vrsq | vexp2 | vlog2 => exact hr ▸ vFunc_wf h
  | vdot => exact hr ▸ execVdot_wf h
  | vcmp => exact hr ▸ execVcmp_wf h
  | vand => exact hr ▸ execVand_wf h
  | vor => exact hr ▸ execVor_wf h
  | vxor => exact hr ▸ execVxor_wf h
  | vshl => exact hr ▸ execVshl_wf h
  | vshr => exact hr ▸ execVshr_wf h
  | vsar => exact hr ▸ execVsar_wf h
  | vmov => exact hr ▸ execVmov_wf h
  | vred => exact hr ▸ execVred_wf h
  | vscan => exact hr ▸ execVscan_wf h
  | vcvt => exact hr ▸ execVcvt_wf h
  | vpack => exact hr ▸ execVpack_wf h
  | vextr => exact hr ▸ execVextr_wf h
  | vins => exact hr ▸ execVins_wf h
  | vcomp => exact hr ▸ execVcomp_wf h
  | vprune => exact hr ▸ execVprune_wf h
  | mcfg => exact hr ▸ execMcfg_wf h
  | mzero => exact hr ▸ execMzero_wf h
  | mmul | mmuls | mloada | mdrain => exact hr ▸ loomMem_wf h
  | mchk => exact hr ▸ execMchk_wf h
  | mloc => exact hr ▸ execMloc_wf h
  | mcorr => exact hr ▸ execMcorr_wf h
  | mretry => exact hr ▸ execMretry_wf h
  | minj => exact hr ▸ execMinj_wf h
  | mstat => exact hr ▸ execMstat_wf h
  | engineAcceptance => exact hr ▸ execEngineAcceptance_wf h
  | loomTurn => exact hr ▸ execLoomTurn_wf h
  | loomCommandComplete => exact hr ▸ execLoomCommandComplete_wf h
  | ccopy | cfill | cconv | cgath => exact hr ▸ carterIssue_wf h
  | cstat _ hint => exact hr ▸ execCstat_wf (_h := hint) h
  | carterChunk => exact hr ▸ execCarterChunk_wf h
  | carterCommandComplete => exact hr ▸ execCarterCommandComplete_wf h
  | wmap => exact hr ▸ execWmap_wf h
  | wunmap => exact hr ▸ execWunmap_wf h
  | wstat => exact hr ▸ execWstat_wf h
  | rfence => exact hr ▸ execRfence_wf h
  | rfenceComplete => exact hr ▸ execRfenceComplete_wf h
  | ctxsv => exact hr ▸ execCtxsv_wf h
  | ctxld => exact hr ▸ execCtxld_wf h
  | quantumExpiry => exact hr ▸ execQuantumExpiry_wf h
  | pagerReissue => exact hr ▸ execPagerReissue_wf h
  | pagerDeliver => exact hr ▸ execPagerDeliver_wf h
  | pagerResume => exact hr ▸ execPagerResume_wf h
  | pagerAbort => exact hr ▸ execPagerAbort_wf h
  | faultRecordSend => exact hr ▸ execFaultRecordSend_wf h
  | tlbInvalidate => exact hr ▸ execTlbInvalidate_wf h
  | deadlockSample => exact hr ▸ execDeadlockSample_wf h
  | watchdogExpiry => exact hr ▸ execWatchdogExpiry_wf h
  | reflectedWriteArrival => exact hr ▸ execReflectedWriteArrival_wf h
  | reflectionAck => exact hr ▸ execReflectionAck_wf h
  | retransmitRequest => exact hr ▸ execRetransmitRequest_wf h
  | retransmitTimeout => exact hr ▸ execRetransmitTimeout_wf h
  | spaheLinkDown => exact hr ▸ execSpaheLinkDown_wf h
  | pendingWindowValid => exact hr ▸ execPendingWindowValid_wf h
  | hostLinkUp => exact hr ▸ execHostLinkUp_wf h
  | hostLinkDown => exact hr ▸ execHostLinkDown_wf h
  | functionLevelReset => exact hr ▸ stopPort_wf h
  | hostAccessTimeout => exact hr ▸ execHostAccessTimeout_wf h
  | completionHoldTimeout => exact hr ▸ execCompletionHoldTimeout_wf h
  | hqkick => exact hr ▸ execHqkick_wf h
  | hostEntryReread => exact hr ▸ execHostEntryReread_wf h
  | hqctlWrite => exact hr ▸ execHqctlWrite_wf h
  | hcrel => exact hr ▸ execHcrel_wf h
  | devctlFwact => exact hr ▸ execDevctlFwact_wf h
  | barRegisterWrite => exact hr ▸ execBarRegisterWrite_wf h
  | startJob => exact hr ▸ execStartJob_wf h
  | killJob => exact hr ▸ execKillJob_wf h
  | urgentFreeze => exact hr ▸ execUrgentFreeze_wf h
  | resumeJobs => exact hr ▸ execResumeJobs_wf h
  | checkpoint => exact hr ▸ execCheckpoint_wf h
  | grantHostQueue => exact hr ▸ execGrantHostQueue_wf h
  | readLog => exact hr ▸ execReadLog_wf h
  | stageFirmware => exact hr ▸ execStageFirmware_wf h
  | stageVersion => exact hr ▸ execStageVersion_wf h
  | readLogCount => exact hr ▸ execReadLogCount_wf h
  | urgentRun site => exact execUrgentRun_wf (site := site) h hr
  | boothRecovery => exact hr ▸ execBoothRecovery_wf h
  | bootEnd => exact hr ▸ execBootEnd_wf h
  | stewardStart => exact hr ▸ execStewardStart_wf h
  | setFrequency => exact hr ▸ execSetFrequency_wf h
  | frequencyPauseEnd => exact hr ▸ execFrequencyPauseEnd_wf h
  | powerDown => exact hr ▸ execPowerDown_wf h
  | powerUp => exact hr ▸ execPowerUp_wf h
  | getVersion => exact hr ▸ execGetVersion_wf h
  | getCapabilities => exact hr ▸ execGetCapabilities_wf h
  | negotiateAlgorithms => exact hr ▸ execNegotiateAlgorithms_wf h
  | getDigests | getCertificate | challenge | getMeasurements => exact hr ▸ negotiated_wf h
  | spdmUnsupportedRequest => exact hr ▸ execSpdmUnsupportedRequest_wf h
  | deviceReset => exact hr ▸ powerOn_wf h
  | hsemaRead => exact hr ▸ semaRead_wf h
  | hsemaWrite => exact hr ▸ execHsemaWrite_wf h
  | devctlReset => exact hr ▸ execDevctlReset_wf h
  | powerCheck => exact hr ▸ execPowerCheck_wf h
  | thermalLimit => exact hr ▸ execThermalLimit_wf h
  | futureQuarantineEnd => exact hr ▸ execFutureQuarantineEnd_wf h
  | junctionCooled => exact hr ▸ modDie_wf h
  | deviceFailure => exact hr ▸ execDeviceFailure_wf h

theorem settled_wf {r} (h : ResWf r) : ResWf (settled r) := by
  unfold settled
  split
  · exact settleEdges_wf h
  · exact h

theorem stepCycle_wf {site r} (h : IssueWf r) : ResWf (stepCycle site r) := by
  unfold stepCycle
  split
  · exact endCycle_wf h
  · split
    · next hx =>
      have hx := exec_wf h hx
      exact endCycle_wf hx
    · exact trivial
    · exact trivial

/-- One step keeps the canonical form: the agenda chooses an agent, and every agent keeps it. -/
theorem step_wf {s} (h : MemInv s) : ResWf (step s) := by
  unfold step
  split
  · next hx =>
    have hx := wf_of_eq hx (agenda_wf h)
    exact settleEdges_wf hx
  · next hx =>
    have hx := wf_of_eq hx (agenda_wf h)
    exact settled_wf (exec_wf hx rfl)
  · next hx =>
    have hx := wf_of_eq hx (agenda_wf h)
    exact stepCycle_wf (issue_wf hx)
  · exact trivial

end Sys2Proof.Machine
end

section

open Sys2Proof.Machine Sys2Proof.Safety

/-- Settles O3: every operation of the model that writes memory writes it byte by byte or drops bytes, and both keep the
canonical form. -/
theorem stepKeepsMemoryCanonical : Obligations.StepKeepsMemoryCanonical :=
  fun _ _ h (hs : step _ = _) => wf_of_eq (P := ResWf) hs (step_wf h)

end

section
/-!
PROOFS. A write is read back, and leaves every other byte alone (O4).
-/

namespace Sys2Proof.Machine

/-- The value that a list of byte writes leaves in a byte: the last one that names it, or what was there before. -/
theorem cellGet_pokeBytes (l : List (Nat × Byte)) (m : List Host.Cell) (k : Nat) (h : Memory.wf m = true) :
    cellGet (pokeBytes l m) k = ((l.reverse.find? fun p => p.1 == k).map (·.2)).getD (cellGet m k) := by
  induction l generalizing m with
  | nil => rfl
  | cons p r ih =>
    obtain ⟨a, v⟩ := p
    rw [pokeBytes, ih _ (cellSet_wf m a v h), cellGet_cellSet m a v k h, List.reverse_cons, List.find?_append]
    cases r.reverse.find? fun p => p.1 == k with
    | some q => rfl
    | none =>
      by_cases hk : a = k
      · simp [hk]
      · simp [hk, Ne.symm hk]

end Sys2Proof.Machine
end

section

open Sys2Proof.Machine

/-- Settles O4, by induction on the list of writes: each rewrites one byte of a memory that stays canonical. -/
theorem writeThenReadByte : Obligations.WriteThenReadByte := fun l s k h => cellGet_pokeBytes l s.mem k h

end

section
/-!
PROOFS. System registers (O29): what a write of each kind of register changes, when SYSWR completes, and the values read back.
-/

namespace Sys2Proof.Machine

/-! ### Which part of the state holds which register -/

/-- The registers of R87 that a strand's record holds. -/
def strandReg (t : Strand) : SysReg → Option Word
  | .status => some (statusWord t)
  | .trapbase => some t.trapbase
  | .utrapbase => some t.utrapbase
  | .trapcause => some (causeWord t)
  | .trapaddr => some t.trapaddr
  | .trappc => some t.trappc
  | .quantum => some t.quantum
  | .rngsta => some t.rnga
  | .rngstb => some t.rngb
  | _ => none

theorem readSys_modMe (f : Strand → Strand) (s : State) (q : SysReg) :
    readSys (modMe f s) q = (strandReg (f (me s)) q).getD (readSys s q) := by
  cases q <;> simp only [readSys, strandReg, me_modMe, Option.getD_some, Option.getD_none] <;> rfl

/-- A change of the own strand leaves the registers alone that its record holds unchanged. -/
theorem readSys_modMe_same {f : Strand → Strand} {s : State} {q : SysReg} (h : strandReg (f (me s)) q = strandReg (me s) q) :
    readSys (modMe f s) q = readSys s q := by
  rw [readSys_modMe, h]
  cases q <;> rfl

/-- The registers of R87 that SYSWR writes in a tile. -/
def tileReg (u : Tile) : SysReg → Option Word
  | .segtab => some u.segtab
  | r => (tolIndex r).map u.tol.get

theorem tileReg_setTol {q : SysReg} {i : Fin 5} (u : Tile) (w : Word) (h : tolIndex q ≠ some i) :
    tileReg { u with segtab := u.segtab, tol := u.tol.set i w } q = tileReg u q := by
  have hget (j : Fin 5) (hj : tolIndex q = some j) : (u.tol.set i w).get j = u.tol.get j :=
    Vector.getElem_set_ne _ _ fun e => h (hj.trans (congrArg some (Fin.ext e.symm)))
  cases q with
  | tolbf16 | tolfp16 | tole4 | tole5 | toln4 => exact congrArg some (hget _ rfl)
  | _ => rfl

theorem readSys_modTile (f : Tile → Word) (g : Tile → Vector Word 5) (s : State) (q : SysReg) :
    readSys (modTile s.cur.site (fun t => { t with segtab := f t, tol := g t }) s) q =
      (tileReg { myTile s with segtab := f (myTile s), tol := g (myTile s) } q).getD (readSys s q) := by
  cases q <;> simp [readSys, tileReg, tolIndex, myTile, me, getStrand, tileIdWord, endpoint, routeOf, boothOf, getBooth]

theorem readSys_modTile_same {f : Tile → Word} {g : Tile → Vector Word 5} {s : State} {q : SysReg}
    (h : tileReg { myTile s with segtab := f (myTile s), tol := g (myTile s) } q = tileReg (myTile s) q) :
    readSys (modTile s.cur.site (fun t => { t with segtab := f t, tol := g t }) s) q = readSys s q := by
  rw [readSys_modTile, h]
  cases q <;> rfl

theorem readSys_modBooth (v : Word) (s : State) (q : SysReg) :
    readSys (modBooth (boothOf s s.cur.site) (fun b => { b with routemask := v }) s) q =
      if q = .routemask then v else readSys s q := by
  cases q with
  | routemask =>
    rw [if_pos rfl]
    exact congrArg Booth.routemask (getBooth_modBooth_same _ (fun b => { b with routemask := v }) s)
  | _ => rfl

theorem readSys_sema (m : BitVec 2) (b : Bool) (s : State) (q : SysReg) :
    readSys { s with sema := m, pagerSema := b } q = if q = .sema then m.zeroExtend 64 else readSys s q := by
  cases q <;> rfl

/-! ### What a write leaves unchanged, and what it writes -/

theorem semaWrite_eq (v : Word) (s : State) :
    semaWrite v s = { s with sema := (semaWrite v s).sema, pagerSema := (semaWrite v s).pagerSema } := by
  unfold semaWrite freeSema
  dsimp only
  split
  · rfl
  · split
    · split <;> rfl
    · rfl

/-- R381: the two transitions that a steward's write of SEMA makes. -/
theorem semaWrite_sema (v : Word) (s : State) : (semaWrite v s).sema =
    if v.extractLsb' 0 2 = 3 ∧ s.sema = 0 then 3
    else if v.extractLsb' 0 2 = 0 ∧ s.sema = 3 then (if freezing s then 3 else 0) else s.sema := by
  have hfld (n : BitVec 2) : fld v 0 2 = n.toNat ↔ v.extractLsb' 0 2 = n := BitVec.toNat_inj
  have h3 := hfld 3
  have h0 := hfld 0
  unfold semaWrite freeSema
  simp only [show (3 : BitVec 2).toNat = 3 from rfl, show (0 : BitVec 2).toNat = 0 from rfl] at h3 h0
  simp only [h3, h0]
  split
  · rfl
  · split
    · split <;> rfl
    · rfl

theorem writeSys_tol {r : SysReg} {i : Fin 5} (v : Word) (s : State) (h : tolIndex r = some i) : writeSys r v s =
    modTile s.cur.site (fun t => { t with segtab := t.segtab, tol := t.tol.set i (v &&& 0xFFFFFFFF0000003F) }) s := by
  cases r <;> cases h <;> rfl

theorem modMe_frame {f : Strand → Strand} {s : State} {q : SysReg} (hf : strandReg (f (me s)) q = strandReg (me s) q)
    (hx : (f (me s)).x = (me s).x) (hp : (f (me s)).pc = (me s).pc) :
    readSys (modMe f s) q = readSys s q ∧ (modMe f s).mem = s.mem ∧ (me (modMe f s)).x = (me s).x ∧
      (me (modMe f s)).pc = (me s).pc := by
  rw [me_modMe]
  exact ⟨readSys_modMe_same hf, rfl, hx, hp⟩

/-- A write of a register leaves every other register, the memory, the x registers and the PC alone. -/
theorem writeSys_frame {r q : SysReg} (v : Word) (s : State) (hr : r.writable = true) (hq : q ≠ r) :
    readSys (writeSys r v s) q = readSys s q ∧ (writeSys r v s).mem = s.mem ∧ (me (writeSys r v s)).x = (me s).x ∧
      (me (writeSys r v s)).pc = (me s).pc := by
  cases r with
  | trapbase | utrapbase | trapaddr | trappc | quantum | rngsta | rngstb =>
    exact modMe_frame (by cases q <;> simp_all [strandReg, statusWord, causeWord]) rfl rfl
  | segtab => exact ⟨readSys_modTile_same (by cases q <;> simp_all [tileReg, tolIndex]), rfl, rfl, rfl⟩
  | tolbf16 | tolfp16 | tole4 | tole5 | toln4 =>
    rw [writeSys_tol v s rfl]
    exact ⟨readSys_modTile_same (tileReg_setTol _ _ (by cases q <;> simp_all [tolIndex])), rfl, rfl, rfl⟩
  | routemask => exact ⟨(readSys_modBooth ..).trans (if_neg hq), rfl, rfl, rfl⟩
  | sema =>
    change readSys (semaWrite v s) q = _ ∧ (semaWrite v s).mem = _ ∧ (me (semaWrite v s)).x = _ ∧ (me (semaWrite v s)).pc = _
    rw [semaWrite_eq]
    exact ⟨(readSys_sema ..).trans (if_neg hq), rfl, rfl, rfl⟩
  | status | trapcause | cycle | devtime | tileid | logid | jobid => cases hr

/-- What a register that the strand holds reads after a write of it. -/
theorem readSys_modMe_eq {w : Word} {s : State} {r : SysReg} {f : Strand → Strand} (h : strandReg (f (me s)) r = some w) :
    readSys (modMe f s) r = w := by rw [readSys_modMe, h, Option.getD_some]

theorem readSys_writeSys_sema (v : Word) (s : State) : readSys (writeSys .sema v s) .sema =
    if v.extractLsb' 0 2 = 3 ∧ s.sema = 0 then 3
    else if v.extractLsb' 0 2 = 0 ∧ s.sema = 3 then (if freezing s then 3 else 0) else readSys s .sema := by
  change readSys (semaWrite v s) .sema = _
  rw [semaWrite_eq, readSys_sema, if_pos rfl, semaWrite_sema]
  split
  · rfl
  · split
    · split <;> rfl
    · rfl

theorem readSys_writeSys_tol {r : SysReg} {i : Fin 5} (v : Word) (s : State) (h : tolIndex r = some i) :
    readSys (writeSys r v s) r = v &&& 0xFFFFFFFF0000003F := by
  have ht (u : Tile) : tileReg u r = some (u.tol.get i) := by
    cases r with
    | tolbf16 | tolfp16 | tole4 | tole5 | toln4 => cases h; rfl
    | _ => cases h
  rw [writeSys_tol v s h, readSys_modTile, ht, Option.getD_some]
  exact Vector.getElem_set_self _

/-! ### When SYSWR completes (R97, R124) -/

theorem execSyswr_eq {g : Guard} {r : SysReg} {a : XReg} {s : State} (hg : guardVal g s = true)
    (hp : r.steward = true → (me s).priv = true) (hf : (tolIndex r).isSome = true → floorBad (rx s a) = false) :
    execSyswr g r a s =
      if sharedReg r then .next { inFlight (.sys r (rx s a) s.ticket true) s with ticket := s.ticket + 1 }
      else .next (next (writeSys r (rx s a) s)) := by
  have hpriv : ¬(r.steward = true ∧ (!(me s).priv) = true) := fun ⟨h1, h2⟩ => by simp [hp h1] at h2
  have hfloor : ¬((tolIndex r).isSome = true ∧ floorBad (rx s a) = true) := fun ⟨h1, h2⟩ => by simp [hf h1] at h2
  rw [execSyswr, if_neg hpriv, guarded_true _ hg, if_neg hfloor]

/-- R93: no tolerance register asks steward privilege, so a bad FLOOR raises ILLEGAL whoever writes it. -/
theorem execSyswr_badFloor {g : Guard} {r : SysReg} {a : XReg} {s : State} (hg : guardVal g s = true)
    (ht : (tolIndex r).isSome = true) (hb : floorBad (rx s a) = true) :
    execSyswr g r a s = .next (raise .illegal (me s).pc s) := by
  have hpriv : ¬(r.steward = true ∧ (!(me s).priv) = true) := by
    rintro ⟨h, -⟩
    cases r <;> simp_all [SysReg.steward, tolIndex]
  rw [execSyswr, if_neg hpriv, guarded_true _ hg, if_pos ⟨ht, hb⟩]
  rfl

theorem inTickets_nil {f : Strand → Option Nat} {s : State} (h : ∀ p ∈ s.strands, f p.2 = none) : inTickets f s = [] := by
  have hn : s.strands.filterMap (fun p => (f p.2).map fun n => (n, srefOf p.1)) = [] :=
    List.filterMap_eq_nil_iff.mpr fun p hp => by rw [h p hp]; rfl
  unfold inTickets
  rw [hn]; rfl

/-- No write of the register that was issued earlier is still in flight: none is performed before this one. -/
theorem landEarlier_first {r : SysReg} {n : Nat} (e : SRef) {s : State}
    (h : ∀ p ∈ s.strands, ∀ w m, p.2.flight = some (.sys r w m true) → n ≤ m) : landEarlier e r n s = s := by
  unfold landEarlier
  rw [inTickets_nil]
  · rfl
  · intro p hp
    split
    · next q w m hf =>
      refine if_neg ?_
      rintro ⟨rfl, hlt⟩
      exact absurd (h p hp w m hf) (by omega)
    · rfl

end Sys2Proof.Machine
end

section

open Sys2Proof.Machine

/-- Settles O29: by the kind of state that holds the register. -/
theorem systemRegisters : Obligations.SystemRegisters := by
  refine ⟨fun g a d s hg => ⟨fun r => guarded_true (k := fun s => .next (next (wx d (readSys s r) s))) hg,
    fun r hw hp hf => ⟨fun hs => ?_, fun hs => ?_, fun e c v n he hfirst => ?_, fun e c v n he => ?_, ?_⟩, fun r ht hb => ?_⟩,
    fun r q v s hr hq => writeSys_frame v s hr hq⟩
  · exact (execSyswr_eq hg hp hf).trans (by rw [hs]; rfl)
  · exact (execSyswr_eq hg hp hf).trans (by rw [hs]; rfl)
  · simp only [completeFlight, he, completeSys, landEarlier_first e hfirst, if_true]
  · simp only [completeFlight, he, completeSys, Bool.false_eq_true, if_false]
  · cases r with
    | trapbase | utrapbase | trapaddr | trappc | quantum | rngsta | rngstb => exact readSys_modMe_eq rfl
    | segtab => exact readSys_modTile (fun _ => rx s a &&& 0xFF0003FFF0) Tile.tol s .segtab
    | tolbf16 | tolfp16 | tole4 | tole5 | toln4 => exact readSys_writeSys_tol _ _ rfl
    | routemask => exact (readSys_modBooth ..).trans (if_pos rfl)
    | sema => exact readSys_writeSys_sema ..
    | status | trapcause | cycle | devtime | tileid | logid | jobid => cases hw
  · exact execSyswr_badFloor hg ht hb

end

section
/-!
PROOFS. Accesses to the strand's own tile (O32, O33): what their bytes satisfy, and that they are performed at once.
-/

namespace Sys2Proof.Machine

/-! ### The bytes of an access to the own tile -/

/-- A byte of the own tile that holds no poison and does not end boot mode of a die that is in it. -/
structure OwnByte (s : State) (k : Nat) : Prop where
  isLocal : isLocalKey k = true
  mine : keySite k = s.cur.site
  clean : k / 8 * 8 ∉ s.poison
  booted : ∀ d, d < 4 → bootMode s d = true → k ∉ keysFrom (localKey (siteAt d 0 0) 0x3D0C0) 8

/-- The executing strand has no access of its own still to perform. -/
def NothingHandedOff (s : State) : Prop := ∀ p ∈ s.pend, p.e ≠ s.cur

theorem ownByte_of_ownAccess {s : State} {sg : BitVec 128} {off a : Word} {size align : Nat} {kind : AKind} {ks : List Nat}
    (h : OwnAccess s sg off size align kind a ks) : ∀ k ∈ ks, OwnByte s k := by
  obtain ⟨-, -, -, htile, -, hpoison, hboot⟩ := h
  intro k hk
  have hown := List.all_eq_true.mp htile k hk
  simp only [Bool.and_eq_true, beq_iff_eq] at hown
  have hclean := List.find?_eq_none.mp (Option.map_eq_none_iff.mp hpoison) k hk
  refine ⟨hown.1, hown.2, fun hp => hclean (List.contains_iff_mem.mpr hp), fun d hd hb hmem => ?_⟩
  have hany := List.any_eq_false.mp (hboot d hd hb) k hmem
  exact hany (List.contains_iff_mem.mpr hk)

theorem ownAccess_length {s : State} {sg : BitVec 128} {off a : Word} {size align : Nat} {kind : AKind} {ks : List Nat}
    (h : OwnAccess s sg off size align kind a ks) : ks.length = size := by
  obtain ⟨-, -, hlen, -⟩ := h
  exact hlen

theorem ownAccess_nothingHandedOff {s : State} {sg : BitVec 128} {off a : Word} {size align : Nat} {kind : AKind}
    {ks : List Nat} (h : OwnAccess s sg off size align kind a ks) : NothingHandedOff s := by
  obtain ⟨-, -, -, -, hp, -⟩ := h
  exact hp

section
variable {s : State} {ks : List Nat} (h : ∀ k ∈ ks, OwnByte s k)
include h

theorem ownTile_of_ownByte : ownTile s ks = true :=
  List.all_eq_true.mpr fun k hk => by simp [(h k hk).isLocal, (h k hk).mine]

theorem poisonRead_of_ownByte : poisonRead s ks = none :=
  Option.map_eq_none_iff.mpr (List.find?_eq_none.mpr fun k hk hp => (h k hk).clean (List.contains_iff_mem.mp hp))

theorem poisonPart_of_ownByte : poisonPart s ks = none :=
  Option.map_eq_none_iff.mpr (List.find?_eq_none.mpr fun k hk hp =>
    (h k hk).clean (List.contains_iff_mem.mp (Bool.and_eq_true_iff.mp hp).1))

theorem endsBoot_of_ownByte : endsBoot s ks = none := by
  refine List.find?_eq_none.mpr fun d hd hp => ?_
  simp only [Bool.and_eq_true, List.any_eq_true] at hp
  obtain ⟨⟨hb, k, hk, hks⟩, -⟩ := hp
  have hmem := List.contains_iff_mem.mp hks
  exact (h k hmem).booted d (List.mem_range.mp hd) hb hk

theorem hostRefuses_of_ownByte (i : Instr) : hostRefuses i ks = false := by
  have hpa : ks.any isHostPa = false := List.any_eq_false.mpr fun k hk => by
    have hl := (h k hk).isLocal
    simp only [isLocalKey, decide_eq_true_eq] at hl
    simp [isHostPa]
    omega
  unfold hostRefuses
  simp only [hpa, Bool.false_and]

/-- A byte of the own tile stays one in a state of the same strand with no more poison and no more dies in boot mode. -/
theorem ownByte_of_le {t : State} (hcur : t.cur = s.cur) (hpoison : ∀ w ∈ t.poison, w ∈ s.poison)
    (hboot : ∀ d, bootMode t d = true → bootMode s d = true) : ∀ k ∈ ks, OwnByte t k := fun k hk =>
  ⟨(h k hk).isLocal, hcur ▸ (h k hk).mine, fun hp => (h k hk).clean (hpoison _ hp),
    fun d hd hb => (h k hk).booted d hd (hboot d hb)⟩

end

/-! ### Nothing comes before the access -/

theorem pendSplit_none {f : Pend → Bool} {l : List Pend} (h : ∀ p ∈ l, f p = false) : pendSplit f l = ([], l) := by
  induction l with
  | nil => rfl
  | cons p r ih =>
    have hr := ih fun q hq => h q (List.mem_cons_of_mem _ hq)
    unfold pendSplit at hr ⊢
    simp only [List.foldr_cons, hr, h p List.mem_cons_self, List.any_nil, Bool.or_false, Bool.false_eq_true, if_false]

theorem drain_none {f : Pend → Bool} {s : State} (h : ∀ p ∈ s.pend, f p = false) : drain f s = s := by
  unfold drain
  rw [pendSplit_none h]
  rfl

theorem drainFor_own {s : State} (ks : List Nat) (so : Bool) (h : NothingHandedOff s) : drainFor s.cur ks so s = s :=
  drain_none fun p hp => by simp [comesFirst, h p hp]

/-- An access to the own tile is performed at once. -/
theorem startMem_own {s : State} {lanes : List Lane} (i : Instr) (ord : Nat) (rel reply : Bool) (hp : NothingHandedOff s)
    (hb : ∀ k ∈ lanes.flatMap (·.keys), OwnByte s k) :
    startMem i lanes ord rel reply s = completeMem i lanes ord (readyIn 4 s) := by
  have hnone : (s.pend.any fun p => p.e == s.cur && (rel || (ord == 0 && p.so && hostDown s))) = false :=
    List.any_eq_false.mpr fun p hmem => by simp [hp p hmem]
  exact if_pos ⟨ownTile_of_ownByte hb, by rw [hnone]; rfl⟩

/-! ### What an instruction leaves but for what plain loads may still find -/

theorem butFound_refl (s : State) : ButFound s s := rfl
theorem butFound_trans {s t u : State} (h : ButFound s t) (h' : ButFound t u) : ButFound s u := by
  unfold ButFound at *
  rw [h', h]
theorem mem_of_butFound {s u : State} (h : ButFound s u) : u.mem = s.mem := by rw [h]
theorem me_of_butFound {s u : State} (h : ButFound s u) : me u = me s := by rw [h]; rfl

theorem ownByte_of_butFound {s u : State} {ks : List Nat} (h : ButFound s u) (hs : ∀ k ∈ ks, OwnByte s k) :
    ∀ k ∈ ks, OwnByte u k :=
  ownByte_of_le hs (by rw [h]) (fun w hw => by rwa [h] at hw) (fun d hd => by rwa [h] at hd)

theorem orderLater_butFound (i : Instr) (so : Bool) (s : State) : ButFound s (orderLater i so s) := by
  unfold orderLater
  split
  · rfl
  · rfl
  · split <;> rfl

/-! ### From the instruction to its access -/

theorem sizeBytes_pos (sz : Size) : 0 < sizeBytes sz := by cases sz <;> decide

theorem nothingHandedOff_readyIn {s : State} (n : Nat) (h : NothingHandedOff s) : NothingHandedOff (readyIn n s) := h

theorem ownByte_readyIn {s : State} {ks : List Nat} (n : Nat) (h : ∀ k ∈ ks, OwnByte s k) :
    ∀ k ∈ ks, OwnByte (readyIn n s) k :=
  ownByte_of_le h rfl (fun _ hw => hw) (fun _ hd => hd)

section
variable {i : Instr} {g : Guard} {o : Ordn} {m : MemOp} {s : State}

theorem memOne_own {size align : Nat} {kind : AKind} {reply : Bool} {a : Word} {ks : List Nat} (hg : guardVal g s = true)
    (h : OwnAccess s (memSeg s m) (memOffset s m) size align kind a ks) :
    ∃ ord, memOne i g o m size align kind reply s = .next (completeMem i [⟨0, a, ks⟩] ord (readyIn 4 s)) := by
  have hb := ownByte_of_ownAccess h
  obtain ⟨hcheck, ⟨ord, hacc⟩, -, -, hp, -, -⟩ := h
  refine ⟨ord, ?_⟩
  rw [memOne, guarded_true _ hg]
  simp only [hcheck, hacc, hostRefuses_of_ownByte hb, Bool.false_eq_true, if_false]
  exact congrArg _ (startMem_own _ _ _ _ hp (by simpa using hb))

theorem laneKeys_le {n j : Nat} (hn : 0 < n) (hj : j < 64 / n) : n * (j + 1) ≤ 64 := by
  rw [Nat.mul_comm]
  exact (Nat.le_div_iff_mul_le hn).mp (Nat.succ_le_of_lt hj)

theorem length_laneKeys {n j : Nat} {ks : List Nat} (h : n * (j + 1) ≤ ks.length) :
    ((ks.drop (n * j)).take n).length = n := by
  rw [Nat.mul_succ] at h
  simp only [List.length_take, List.length_drop]
  omega

theorem getD_laneKeys {n j q : Nat} (ks : List Nat) (hq : q < n) :
    ((ks.drop (n * j)).take n).getD q 0 = ks.getD (n * j + q) 0 := by
  simp [hq]

theorem mem_activeLanes_keys {n : Nat} {a mask : Word} {ks : List Nat} {k : Nat}
    (h : k ∈ (activeLanes n a mask ks).flatMap (·.keys)) : k ∈ ks := by
  simp only [activeLanes, List.mem_flatMap, List.mem_map] at h
  obtain ⟨-, ⟨j, -, rfl⟩, hk⟩ := h
  exact List.mem_of_mem_drop (List.mem_of_mem_take hk)

theorem memVec_own {sz : Size} {mk : KReg} {load : Bool} {a : Word} {ks : List Nat} (hg : guardVal g s = true)
    (h : OwnAccess s (memSeg s m) (memOffset s m) 64 (alignOf o 64) (if load then .load else .store) a ks) :
    ∃ ord, memVec i g sz o mk m load s =
      .next (completeMem i (activeLanes (sizeBytes sz) a (kGet (me s) mk) ks) ord (readyIn 4 s)) := by
  have hb := ownByte_of_ownAccess h
  obtain ⟨hcheck, ⟨ord, hacc⟩, -, -, hp, -, -⟩ := h
  have hkind : ((if load then AKind.load else .store) != .load) = !load := by cases load <;> rfl
  rw [hkind] at hacc
  refine ⟨ord, ?_⟩
  rw [memVec, guarded_true _ hg]
  simp only [hcheck, hacc]
  exact congrArg _ (startMem_own _ _ _ _ hp fun k hk => hb k (mem_activeLanes_keys hk))

theorem elemAddrs_ok {sg : BitVec 128} {b : VReg} {n align : Nat} {scl : Bool} {kind : AKind} {a : Nat → Word} {l : List Nat}
    (h : ∀ j ∈ l, check s sg (elemOffset s m b n scl j) n align kind = .ok (a j)) :
    elemAddrs s sg m b n align scl kind l = .ok (l.map fun j => (j, a j)) := by
  induction l with
  | nil => rfl
  | cons j r ih =>
    simp only [elemAddrs, h j List.mem_cons_self, ih fun q hq => h q (List.mem_cons_of_mem _ hq), List.map_cons]

/-- The lanes of GATH and SCAT, each with its own place. -/
def elemLanes (a : Nat → Word) (ks : Nat → List Nat) (l : List Nat) : List Lane := l.map fun j => ⟨j, a j, ks j⟩

theorem elemPlaces_ok {sg : BitVec 128} {n : Nat} {store : Bool} {a : Nat → Word} {ks : Nat → List Nat} {l : List Nat}
    (h : ∀ j ∈ l, ∃ ord, access (a j) n store sg s = .ok ⟨.bytes (ks j), ord, s⟩) :
    ∃ ps, elemPlaces sg n store (l.map fun j => (j, a j)) s = .ok (ps, s) ∧
      ps.map (·.1) = elemLanes a ks l := by
  induction l with
  | nil => exact ⟨[], rfl, rfl⟩
  | cons j r ih =>
    obtain ⟨ord, hacc⟩ := h j List.mem_cons_self
    obtain ⟨ps, hps, hl⟩ := ih fun q hq => h q (List.mem_cons_of_mem _ hq)
    refine ⟨(⟨j, a j, ks j⟩, .bytes (ks j), ord) :: ps, ?_, ?_⟩
    · simp only [List.map_cons, elemPlaces, hacc, hps]
    · rw [List.map_cons, hl]; rfl

/-- The active lanes of a vector of 64 bytes under a mask. -/
def activeIdx (n : Nat) (mask : Word) : List Nat := (List.range (64 / n)).filter fun j => mask.getLsbD j

theorem mem_activeIdx {n : Nat} {mask : Word} {j : Nat} : j ∈ activeIdx n mask ↔ j < 64 / n ∧ mask.getLsbD j = true := by
  simp [activeIdx]

theorem ownByte_elemLanes {a : Nat → Word} {ks : Nat → List Nat} {l : List Nat} (h : ∀ j ∈ l, ∀ k ∈ ks j, OwnByte s k) :
    ∀ k ∈ (elemLanes a ks l).flatMap (·.keys), OwnByte s k := by
  intro k hk
  simp only [elemLanes, List.mem_flatMap, List.mem_map] at hk
  obtain ⟨-, ⟨j, hj, rfl⟩, hk⟩ := hk
  exact h j hj k hk

theorem memGather_own {sz : Size} {scl : Bool} {mk : KReg} {b : VReg} {load : Bool} {a : Nat → Word} {ks : Nat → List Nat}
    (hg : guardVal g s = true) (htag : tagOf (segBase (memSeg s m)) ≠ 1) (hp : NothingHandedOff s)
    (h : ∀ j ∈ activeIdx (sizeBytes sz) (kGet (me s) mk), OwnAccess s (memSeg s m) (elemOffset s m b (sizeBytes sz) scl j)
      (sizeBytes sz) (alignOf o (sizeBytes sz)) (if load then .load else .store) (a j) (ks j)) :
    ∃ ord, memGather i g sz scl o mk m b load s =
      .next (completeMem i (elemLanes a ks (activeIdx (sizeBytes sz) (kGet (me s) mk))) ord (readyIn 4 s)) := by
  have hkind : ((if load then AKind.load else .store) != .load) = !load := by cases load <;> rfl
  have haddr := elemAddrs_ok fun j hj => (h j hj).1
  have hacc : ∀ j ∈ activeIdx (sizeBytes sz) (kGet (me s) mk), ∃ ord,
      access (a j) (sizeBytes sz) (!load) (memSeg s m) s = .ok ⟨.bytes (ks j), ord, s⟩ := fun j hj => by
    obtain ⟨-, hacc, -⟩ := h j hj
    exact hkind ▸ hacc
  obtain ⟨ps, hps, hl⟩ := elemPlaces_ok hacc
  have hb : ∀ k ∈ (ps.map (·.1)).flatMap (·.keys), OwnByte s k := by
    rw [hl]
    exact ownByte_elemLanes fun j hj => ownByte_of_ownAccess (h j hj)
  have hown : ownTile s (ps.flatMap fun p => p.1.keys) = true := by
    rw [List.flatMap_map] at hb
    exact ownTile_of_ownByte hb
  refine ⟨elemOrd ps, ?_⟩
  rw [memGather, guarded_true _ hg]
  simp only [activeIdx] at haddr hps
  simp only [haddr, hps, htag, if_false, hown, or_true, if_true]
  rw [startMem_own _ _ _ _ hp hb, hl, activeIdx]

end

end Sys2Proof.Machine
end

section
/-!
PROOFS. Stores (O33): what each writes through its lanes, and that it completes with that.
-/

namespace Sys2Proof.Machine

/-! ### The completion of a store -/

/-- The stores of R209 to R212, which write no register. -/
def isStore : Instr → Bool
  | .st .. | .stn .. | .stv .. | .scat .. => true
  | _ => false

/-- The stores that write lane by lane, each in full unless it meets poison. -/
def storesByLane : Instr → Bool
  | .st .. | .scat .. => true
  | _ => false

/-- A store to the own tile completes with what `performStore` writes. -/
theorem completeMem_store {i : Instr} {lanes : List Lane} {s t : State} (ord : Nat) (hi : isStore i = true)
    (hp : NothingHandedOff s)
    (hw : performStore i (memData i s).1 (memData i s).2.2 (memData i s).2.1 lanes s = (t, []))
    (hs : ∀ k ∈ lanes.flatMap (·.keys), OwnByte s k) (ht : ∀ k ∈ lanes.flatMap (·.keys), OwnByte t k) :
    CompletesFrom (.next (completeMem i lanes ord s)) t := by
  have hu := orderLater_butFound i (ord == 0) t
  have hb : endsBoot (orderLater i (ord == 0) t) (lanes.flatMap (·.keys)) = none :=
    endsBoot_of_ownByte (ownByte_of_butFound hu ht)
  refine ⟨orderLater i (ord == 0) t, congrArg _ ?_, hu⟩
  unfold completeMem
  dsimp only
  rw [drainFor_own _ _ hp]
  cases i with
  | st | stn | stv | scat =>
    simp only [isLoad, hw, ownTile_of_ownByte hs, Bool.false_eq_true, if_false, if_true, or_true, ne_eq, not_true, false_and,
      reportPoison, List.foldl_nil, memResult, releaseLand, hb]
  | _ => cases hi

theorem ownByte_writeBytes {s : State} {ks : List Nat} (l : List (Nat × Byte)) (h : ∀ k ∈ ks, OwnByte s k) :
    ∀ k ∈ ks, OwnByte (writeBytes l s) k :=
  ownByte_of_le h rfl (fun _ hw => (List.mem_filter.mp hw).1) (fun _ hd => hd)

/-! ### What is written through the lanes -/

theorem zipIdx_map_eq_zip {α β : Type} (f : Nat → β) (l : List α) :
    l.zipIdx.map (fun p => (p.1, f p.2)) = l.zip ((List.range l.length).map f) := by
  rw [List.zipIdx_eq_zip_range', List.zip_map_right, List.range_eq_range']
  rfl

/-- The writes of ST and SCAT, lane by lane. -/
def writeLanes (f : Lane → List (Nat × Byte)) (lanes : List Lane) (s : State) : State :=
  lanes.foldl (fun u ln => writeBytes (f ln) u) s

theorem ownByte_writeLanes {ks : List Nat} (f : Lane → List (Nat × Byte)) (lanes : List Lane) {s : State}
    (h : ∀ k ∈ ks, OwnByte s k) : ∀ k ∈ ks, OwnByte (writeLanes f lanes s) k := by
  induction lanes generalizing s with
  | nil => exact h
  | cons ln r ih => exact ih (ownByte_writeBytes _ h)

section
variable {lanes : List Lane} {s : State} (data c : Word) (v : VWord)

/-- Where no lane meets poison, every lane is written. -/
theorem performStore_byLane {i : Instr} (hi : storesByLane i = true)
    (h : ∀ ln ∈ lanes, ln.keys ≠ [] ∧ ∀ k ∈ ln.keys, OwnByte s k) :
    performStore i data c v lanes s = (writeLanes (storeLane i data v) lanes s, []) := by
  have hfold : performStore i data c v lanes s = lanes.foldl (fun a ln =>
      if ln.keys = [] then a
      else match poisonPart a.1 ln.keys with
        | some w => (a.1, a.2 ++ [poisonAddr ln w])
        | none => (writeBytes (storeLane i data v ln) a.1, a.2)) (s, []) := by
    cases i with
    | st | scat => rfl
    | _ => cases hi
  rw [hfold]
  clear hfold
  induction lanes generalizing s with
  | nil => rfl
  | cons ln r ih =>
    obtain ⟨hne, hown⟩ := h ln List.mem_cons_self
    rw [List.foldl_cons, if_neg hne, poisonPart_of_ownByte hown]
    exact ih fun q hq =>
      ⟨(h q (List.mem_cons_of_mem _ hq)).1, ownByte_writeBytes _ (h q (List.mem_cons_of_mem _ hq)).2⟩

end

theorem completeMem_byLane {i : Instr} {lanes : List Lane} {s : State} (ord : Nat) (hi : storesByLane i = true)
    (hp : NothingHandedOff s) (h : ∀ ln ∈ lanes, ln.keys ≠ [] ∧ ∀ k ∈ ln.keys, OwnByte s k) :
    CompletesFrom (.next (completeMem i lanes ord s))
      (writeLanes (storeLane i (memData i s).1 (memData i s).2.1) lanes s) := by
  have hs : ∀ k ∈ lanes.flatMap (·.keys), OwnByte s k := fun k hk => by
    obtain ⟨ln, hln, hk⟩ := List.mem_flatMap.mp hk
    exact (h ln hln).2 k hk
  refine completeMem_store ord ?_ hp (performStore_byLane _ _ _ hi h) hs (ownByte_writeLanes _ _ hs)
  cases i with
  | st | scat => rfl
  | _ => cases hi

theorem storeLane_scat {g h sz scl o mk d m b} (data : Word) (v : VWord) (j : Nat) (a : Word) (ks : List Nat) :
    storeLane (.scat g h sz scl o mk d m b) data v ⟨j, a, ks⟩ =
      ks.zip (bytesLE ks.length (v.extractLsb' (8 * ks.length * j) (8 * ks.length))) := by
  have hbyte : ∀ q ∈ List.range ks.length, v.extractLsb' (8 * (ks.length * j + q)) 8 =
      (v.extractLsb' (8 * ks.length * j) (8 * ks.length)).extractLsb' (8 * q) 8 := by
    intro q hq
    have hq := List.mem_range.mp hq
    refine BitVec.eq_of_getLsbD_eq fun t ht => ?_
    simp only [BitVec.getLsbD_extractLsb', show 8 * q + t < 8 * ks.length by omega, decide_true, Bool.true_and]
    rw [Nat.mul_add, Nat.mul_assoc, Nat.add_assoc]
  unfold bytesLE
  rw [← List.map_congr_left hbyte, ← zipIdx_map_eq_zip]
  rfl

/-! ### The stores -/

theorem completesFrom_of_eq {r : Res} {t u : State} (he : r = .next t) (h : CompletesFrom (.next t) u) : CompletesFrom r u :=
  he ▸ h

theorem st_completes {g h sz o d m s a ks} (hg : guardVal g s = true)
    (hacc : OwnAccess s (memSeg s m) (memOffset s m) (sizeBytes sz) (alignOf o (sizeBytes sz)) .store a ks) :
    CompletesFrom (exec (.st g h sz o d m) s) (writeBytes (ks.zip (bytesLE (sizeBytes sz) (rx s d))) (readyIn 4 s)) := by
  obtain ⟨ord, he⟩ := memOne_own (i := .st g h sz o d m) (reply := false) hg hacc
  have hb := ownByte_readyIn 4 (ownByte_of_ownAccess hacc)
  have hlen := ownAccess_length hacc
  have hne : ks ≠ [] := List.ne_nil_of_length_pos (hlen ▸ sizeBytes_pos sz)
  have hc := completeMem_byLane (i := .st g h sz o d m) (lanes := [⟨0, a, ks⟩]) ord rfl
    (nothingHandedOff_readyIn 4 (ownAccess_nothingHandedOff hacc)) (by simpa using ⟨hne, hb⟩)
  have hx : xGet (me (readyIn 4 s)) d = rx s d := by simp [readyIn, rx, xGet]
  have hw : storeLane (.st g h sz o d m) (xGet (me (readyIn 4 s)) d) 0 ⟨0, a, ks⟩ =
      ks.zip (bytesLE (sizeBytes sz) (rx s d)) := by
    rw [hx, ← hlen]
    exact zipIdx_map_eq_zip (fun q => (rx s d).extractLsb' (8 * q) 8) ks
  rw [← hw]
  exact completesFrom_of_eq he hc

theorem scat_completes {g h sz scl o mk d m b s} {a : Nat → Word} {ks : Nat → List Nat} (hg : guardVal g s = true)
    (htag : tagOf (segBase (memSeg s m)) ≠ 1) (hp : NothingHandedOff s)
    (hacc : ∀ j ∈ activeIdx (sizeBytes sz) (kGet (me s) mk),
      OwnAccess s (memSeg s m) (elemOffset s m b (sizeBytes sz) scl j) (sizeBytes sz) (alignOf o (sizeBytes sz)) .store
        (a j) (ks j)) :
    CompletesFrom (exec (.scat g h sz scl o mk d m b) s)
      ((activeIdx (sizeBytes sz) (kGet (me s) mk)).foldl (fun u j => writeBytes ((ks j).zip (bytesLE (sizeBytes sz)
        ((vGet (me s) d).extractLsb' (8 * sizeBytes sz * j) (8 * sizeBytes sz)))) u) (readyIn 4 s)) := by
  obtain ⟨ord, he⟩ := memGather_own (i := .scat g h sz scl o mk d m b) (load := false) hg htag hp hacc
  have hc := completeMem_byLane (i := .scat g h sz scl o mk d m b)
    (lanes := elemLanes a ks (activeIdx (sizeBytes sz) (kGet (me s) mk))) ord rfl
    (nothingHandedOff_readyIn 4 hp) fun ln hln => by
      obtain ⟨j, hj, rfl⟩ := List.mem_map.mp hln
      exact ⟨List.ne_nil_of_length_pos (ownAccess_length (hacc j hj) ▸ sizeBytes_pos sz),
        ownByte_readyIn 4 (ownByte_of_ownAccess (hacc j hj))⟩
  have hv : vGet (me (readyIn 4 s)) d = vGet (me s) d := by simp [readyIn, vGet]
  have hw : writeLanes (storeLane (.scat g h sz scl o mk d m b) 0 (vGet (me (readyIn 4 s)) d))
      (elemLanes a ks (activeIdx (sizeBytes sz) (kGet (me s) mk))) (readyIn 4 s) =
      (activeIdx (sizeBytes sz) (kGet (me s) mk)).foldl (fun u j => writeBytes ((ks j).zip (bytesLE (sizeBytes sz)
        ((vGet (me s) d).extractLsb' (8 * sizeBytes sz * j) (8 * sizeBytes sz)))) u) (readyIn 4 s) := by
    rw [writeLanes, elemLanes, List.foldl_map]
    refine List.foldl_ext _ _ _ fun u j hj => ?_
    rw [storeLane_scat, ownAccess_length (hacc j hj), hv]
  rw [← hw]
  exact completesFrom_of_eq he hc

theorem stn_completes {g h hi o d m s a ks} (hg : guardVal g s = true) (htag : tagOf (segBase (memSeg s m)) ≠ 1)
    (hacc : OwnAccess s (memSeg s m) (memOffset s m) 1 1 .store a ks) :
    CompletesFrom (exec (.stn g h hi o d m) s) (writeNat ks
      (if hi then readNat s ks % 16 + 16 * ((rx s d).toNat % 16) else readNat s ks / 16 * 16 + (rx s d).toNat % 16)
      (readyIn 4 s)) := by
  obtain ⟨ord, he⟩ := memOne_own (i := .stn g h hi o d m) (reply := false) hg hacc
  have hexec : exec (.stn g h hi o d m) s = memOne (.stn g h hi o d m) g o m 1 1 .store false s :=
    if_neg fun ⟨_, _, hwin⟩ => htag hwin
  have hb := ownByte_readyIn 4 (ownByte_of_ownAccess hacc)
  have hlanes : ∀ k ∈ ([⟨0, a, ks⟩] : List Lane).flatMap (·.keys), OwnByte (readyIn 4 s) k := by simpa using hb
  have hne : ks ≠ [] := List.ne_nil_of_length_pos (ownAccess_length hacc ▸ Nat.one_pos)
  have hx : xGet (me (readyIn 4 s)) d = rx s d := by simp [readyIn, rx, xGet]
  refine completesFrom_of_eq (hexec.trans he) (completeMem_store ord rfl
    (nothingHandedOff_readyIn 4 (ownAccess_nothingHandedOff hacc)) ?_ hlanes (ownByte_writeBytes _ hlanes))
  simp only [performStore, memData, List.foldl_cons, List.foldl_nil, hne, if_false, isRmw, if_true, poisonRead_of_ownByte hb,
    rmwNew, hx, Nat.mul_comm 16]
  rfl

/-! ### STV -/

/-- The 64 bytes of a vector access, lane by lane. -/
theorem range_eq_lanes (sz : Size) : List.range 64 =
    (List.range (64 / sizeBytes sz)).flatMap fun j => (List.range (sizeBytes sz)).map fun q => sizeBytes sz * j + q := by
  cases sz <;> decide

/-- The bytes of the active lanes, lane by lane. -/
theorem activeBytes_eq (sz : Size) (mask : Word) :
    ((List.range 64).filter fun j => mask.getLsbD (j / sizeBytes sz)) =
      (activeIdx (sizeBytes sz) mask).flatMap fun j => (List.range (sizeBytes sz)).map fun q => sizeBytes sz * j + q := by
  have hn := sizeBytes_pos sz
  rw [range_eq_lanes sz, activeIdx]
  induction List.range (64 / sizeBytes sz) with
  | nil => rfl
  | cons j r ih =>
    have hlane : ∀ q ∈ (List.range (sizeBytes sz)).map (fun q => sizeBytes sz * j + q), q / sizeBytes sz = j := by
      intro q hq
      obtain ⟨t, ht, rfl⟩ := List.mem_map.mp hq
      rw [Nat.mul_add_div hn, Nat.div_eq_of_lt (List.mem_range.mp ht), Nat.add_zero]
    rw [List.flatMap_cons, List.filter_append, ih, List.filter_cons]
    split
    · next hj => rw [List.flatMap_cons, List.filter_eq_self.mpr fun q hq => by rw [hlane q hq, hj]]
    · next hj => rw [List.filter_eq_nil_iff.mpr fun q hq => by rwa [hlane q hq], List.nil_append]

theorem storeLane_stv {g h sz o mk d m} (data : Word) (v : VWord) {n j : Nat} {a : Word} {ks : List Nat}
    (hlen : n * (j + 1) ≤ ks.length) :
    storeLane (.stv g h sz o mk d m) data v ⟨j, a, (ks.drop (n * j)).take n⟩ =
      ((List.range n).map fun q => n * j + q).map fun q => (ks.getD q 0, v.extractLsb' (8 * q) 8) := by
  have hkeys := length_laneKeys hlen
  have hdef : storeLane (.stv g h sz o mk d m) data v ⟨j, a, (ks.drop (n * j)).take n⟩ =
      ((ks.drop (n * j)).take n).zipIdx.map fun p => (p.1, v.extractLsb' (8 * (n * j + p.2)) 8) := by
    simp only [storeLane, hkeys]
  rw [hdef]
  refine List.ext_getElem (by simpa using hkeys) fun q hq hq' => ?_
  have hqn : q < n := by simpa using hq'
  have hin : n * j + q < ks.length := by rw [Nat.mul_succ] at hlen; omega
  simp [List.getElem?_eq_getElem hin]

theorem stv_completes {g h sz o mk d m s a ks} (hg : guardVal g s = true)
    (hacc : OwnAccess s (memSeg s m) (memOffset s m) 64 (alignOf o 64) .store a ks) :
    CompletesFrom (exec (.stv g h sz o mk d m) s) (writeBytes
      (((List.range 64).filter fun j => (kGet (me s) mk).getLsbD (j / sizeBytes sz)).map fun j =>
        (ks.getD j 0, (vGet (me s) d).extractLsb' (8 * j) 8)) (readyIn 4 s)) := by
  obtain ⟨ord, he⟩ := memVec_own (i := .stv g h sz o mk d m) (sz := sz) (mk := mk) (load := false) hg hacc
  have hlen := ownAccess_length hacc
  have hks := ownByte_readyIn 4 (ownByte_of_ownAccess hacc)
  have hlanes : ∀ k ∈ (activeLanes (sizeBytes sz) a (kGet (me s) mk) ks).flatMap (·.keys), OwnByte (readyIn 4 s) k :=
    fun k hk => hks k (mem_activeLanes_keys hk)
  have hv : vGet (me (readyIn 4 s)) d = vGet (me s) d := by simp [readyIn, vGet]
  have hbytes : (activeLanes (sizeBytes sz) a (kGet (me s) mk) ks).flatMap
        (storeLane (.stv g h sz o mk d m) 0 (vGet (me s) d)) =
      ((List.range 64).filter fun j => (kGet (me s) mk).getLsbD (j / sizeBytes sz)).map fun j =>
        (ks.getD j 0, (vGet (me s) d).extractLsb' (8 * j) 8) := by
    rw [activeBytes_eq, List.map_flatMap, activeLanes, List.flatMap_map]
    refine List.flatMap_congr fun j hj => ?_
    have hj : j < 64 / sizeBytes sz := (mem_activeIdx.mp hj).1
    exact storeLane_stv _ _ (hlen ▸ laneKeys_le (sizeBytes_pos sz) hj)
  refine completesFrom_of_eq he (completeMem_store ord rfl
    (nothingHandedOff_readyIn 4 (ownAccess_nothingHandedOff hacc)) ?_ hlanes (ownByte_writeBytes _ hlanes))
  have hclean : poisonPart (readyIn 4 s) ((((List.range 64).filter fun j => (kGet (me s) mk).getLsbD (j / sizeBytes sz)).map
      fun j => (ks.getD j 0, (vGet (me s) d).extractLsb' (8 * j) 8)).map (·.1)) = none := by
    refine poisonPart_of_ownByte fun k hk => hks k ?_
    simp only [List.map_map, List.mem_map, List.mem_filter, List.mem_range] at hk
    obtain ⟨j, ⟨hj, -⟩, rfl⟩ := hk
    simp [List.getElem?_eq_getElem (hlen.symm ▸ hj)]
  simp only [performStore, memData, hv, hbytes, hclean]

end Sys2Proof.Machine
end

section

open Sys2Proof.Machine

/-- Settles O33: an access to the own tile is performed at once, and where its bytes hold no poison it writes all of them. -/
theorem storesWriteExactlyTheirBytes : Obligations.StoresWriteExactlyTheirBytes :=
  ⟨fun _ _ _ _ _ _ _ _ _ hg hacc => st_completes hg hacc,
    fun _ _ _ _ _ _ _ _ _ _ hg hacc => stv_completes hg hacc,
    fun _ _ _ _ _ _ _ _ _ _ a _ hg _ htag hacc hp => scat_completes (a := a) hg htag hp fun j hj =>
      have ⟨hlt, hbit⟩ := mem_activeIdx.mp hj
      hacc j hlt hbit,
    fun _ _ _ _ _ _ _ _ _ hg htag hacc => stn_completes hg htag hacc⟩

end

section
/-!
PROOFS. Vector lanes and the bytes of a number (R1, R126): what a lane reads after lanes were set, and which bytes it is made of.
-/

namespace Sys2Proof.Machine

/-! ### The bytes of a number -/

theorem bytesNat_lt (bs : List Byte) : bytesNat bs < 2 ^ (8 * bs.length) := by
  induction bs with
  | nil => simp [bytesNat]
  | cons b bs ih =>
    have hb := b.isLt
    rw [bytesNat, List.length_cons, Nat.mul_succ, Nat.pow_add]
    omega

theorem bytesNat_byte {bs : List Byte} {q : Nat} (hq : q < bs.length) :
    BitVec.ofNat 8 (bytesNat bs / 2 ^ (8 * q)) = bs.getD q 0 := by
  induction bs generalizing q with
  | nil => cases hq
  | cons b bs ih =>
    have hb := b.isLt
    cases q with
    | zero =>
      apply BitVec.eq_of_toNat_eq
      simp only [bytesNat, Nat.mul_zero, Nat.pow_zero, Nat.div_one, BitVec.toNat_ofNat, List.getD_cons_zero]
      omega
    | succ q =>
      have hdiv : bytesNat (b :: bs) / 2 ^ (8 * (q + 1)) = bytesNat bs / 2 ^ (8 * q) := by
        rw [bytesNat, Nat.mul_succ, Nat.add_comm (8 * q), Nat.pow_add, ← Nat.div_div_eq_div_mul]
        congr 1
        omega
      rw [hdiv, ih (Nat.lt_of_succ_lt_succ hq), List.getD_cons_succ]

theorem sextNat_eq {w v : Nat} (hv : v < 2 ^ w) : sextNat w v = (BitVec.ofNat w v).signExtend 64 := by
  have hn : (BitVec.ofNat w v).toNat = v := by rw [BitVec.toNat_ofNat, Nat.mod_eq_of_lt hv]
  unfold BitVec.signExtend
  rw [BitVec.toInt_eq_msb_cond, BitVec.msb_eq_getLsbD_last, BitVec.getLsbD, hn, sextNat]
  split
  · norm_cast
  · exact (BitVec.ofInt_natCast ..).symm

/-! ### Lanes -/

theorem packLanes_lt (w : Nat) (l : List Nat) : packLanes w l < 2 ^ (w * l.length) := by
  induction l with
  | nil => simp [packLanes]
  | cons x r ih =>
    have hx := Nat.mod_lt x (Nat.two_pow_pos w)
    rw [packLanes, List.length_cons, Nat.mul_succ, Nat.add_comm (w * r.length), Nat.pow_add]
    calc x % 2 ^ w + 2 ^ w * packLanes w r
      _ < 2 ^ w * (packLanes w r + 1) := by rw [Nat.mul_succ]; omega
      _ ≤ 2 ^ w * 2 ^ (w * r.length) := Nat.mul_le_mul_left _ ih

theorem packLanes_lane {w : Nat} {l : List Nat} {i : Nat} (hi : i < l.length) :
    packLanes w l / 2 ^ (w * i) % 2 ^ w = l[i] % 2 ^ w := by
  induction l generalizing i with
  | nil => cases hi
  | cons x r ih =>
    have hx := Nat.mod_lt x (Nat.two_pow_pos w)
    cases i with
    | zero => simp [packLanes, Nat.add_mul_mod_self_left]
    | succ i =>
      have hdiv : packLanes w (x :: r) / 2 ^ (w * (i + 1)) = packLanes w r / 2 ^ (w * i) := by
        rw [packLanes, Nat.mul_succ, Nat.add_comm (w * i), Nat.pow_add, ← Nat.div_div_eq_div_mul,
          Nat.add_mul_div_left _ _ (Nat.two_pow_pos w), Nat.div_eq_of_lt hx, Nat.zero_add]
      rw [hdiv, ih (Nat.lt_of_succ_lt_succ hi), List.getElem_cons_succ]

theorem toNat_packLanes {w n : Nat} {l : List Nat} (hl : w * l.length ≤ n) :
    (BitVec.ofNat n (packLanes w l)).toNat = packLanes w l :=
  Nat.mod_eq_of_lt ((packLanes_lt w l).trans_le (Nat.pow_le_pow_right Nat.two_pos hl))

theorem laneGet_ofLanes {w : Nat} {l : List Nat} {i : Nat} (hl : w * l.length ≤ 512) (hi : i < l.length) :
    laneGet w (ofLanes w l) i = l[i] % 2 ^ w := by
  have hval : (ofLanes w l).toNat = packLanes w l := toNat_packLanes hl
  rw [laneGet, fld, BitVec.extractLsb'_toNat, hval, Nat.shiftRight_eq_div_pow, packLanes_lane hi]

theorem laneGet_mod (w : Nat) (v : VWord) (i : Nat) : laneGet w v i % 2 ^ w = laneGet w v i :=
  Nat.mod_eq_of_lt (BitVec.isLt _)

theorem laneGet_laneSet {w i : Nat} (v : VWord) (k x : Nat) (hi : i < laneCount w) :
    laneGet w (laneSet w v k x) i = if i = k then x % 2 ^ w else laneGet w v i := by
  rw [laneSet, laneGet_ofLanes (by simpa [laneCount] using Nat.mul_div_le 512 w) (by simpa using hi)]
  simp only [List.getElem_map, List.getElem_range]
  split
  · rfl
  · exact laneGet_mod w v i

/-- The lanes of a load set to the values that it read. -/
def setLanes (w : Nat) (ps : List (Lane × Nat)) (v : VWord) : VWord := ps.foldl (fun v p => laneSet w v p.1.lane p.2) v

theorem laneGet_setLanes_other {w i : Nat} {ps : List (Lane × Nat)} (v : VWord) (hi : i < laneCount w)
    (h : ∀ p ∈ ps, p.1.lane ≠ i) : laneGet w (setLanes w ps v) i = laneGet w v i := by
  induction ps generalizing v with
  | nil => rfl
  | cons p r ih =>
    refine (ih (laneSet w v p.1.lane p.2) fun q hq => h q (List.mem_cons_of_mem _ hq)).trans ?_
    rw [laneGet_laneSet _ _ _ hi, if_neg (h p List.mem_cons_self).symm]

theorem laneGet_setLanes_mem {w : Nat} {ps : List (Lane × Nat)} {p : Lane × Nat} (v : VWord) (hp : p ∈ ps)
    (hnd : (ps.map (·.1.lane)).Nodup) (hi : p.1.lane < laneCount w) :
    laneGet w (setLanes w ps v) p.1.lane = p.2 % 2 ^ w := by
  induction ps generalizing v with
  | nil => cases hp
  | cons q r ih =>
    obtain ⟨hq, hr⟩ := List.nodup_cons.mp hnd
    rcases List.mem_cons.mp hp with rfl | hp
    · have hother : ∀ t ∈ r, t.1.lane ≠ p.1.lane := fun t ht he => hq (List.mem_map.mpr ⟨t, ht, he⟩)
      refine (laneGet_setLanes_other (laneSet w v p.1.lane p.2) hi hother).trans ?_
      rw [laneGet_laneSet _ _ _ hi, if_pos rfl]
    · exact ih _ hp hr

/-- Each lane of a load holds the value that was read through it. -/
theorem laneGet_setLanes_lane {w : Nat} {R : Lane → Nat → Prop} {lanes : List Lane} {vals : List Nat} {ln : Lane} (v : VWord)
    (h : List.Forall₂ R lanes vals) (hnd : (lanes.map (·.lane)).Nodup) (hln : ln ∈ lanes) (hi : ln.lane < laneCount w) :
    ∃ x, R ln x ∧ laneGet w (setLanes w (lanes.zip vals) v) ln.lane = x % 2 ^ w := by
  obtain ⟨hlen, hR⟩ := List.forall₂_iff_zip.mp h
  have hfst : (lanes.zip vals).map (·.1) = lanes := List.map_fst_zip hlen.le
  rw [← hfst] at hln
  obtain ⟨⟨ln, x⟩, hp, rfl⟩ := List.mem_map.mp hln
  refine ⟨x, hR hp, laneGet_setLanes_mem v hp ?_ hi⟩
  rw [← hfst, List.map_map] at hnd
  exact hnd

/-- A byte of a vector is a byte of its lane. -/
theorem vectorByte_eq (v : VWord) {n : Nat} (j : Nat) (hn : 0 < n) :
    v.extractLsb' (8 * j) 8 = BitVec.ofNat 8 (laneGet (8 * n) v (j / n) / 2 ^ (8 * (j % n))) := by
  have hmod := Nat.mod_lt j hn
  have hj : 8 * n * (j / n) + 8 * (j % n) = 8 * j := by rw [Nat.mul_assoc, ← Nat.mul_add, Nat.div_add_mod]
  refine BitVec.eq_of_getLsbD_eq fun t ht => ?_
  have hlane : 8 * (j % n) + t < 8 * n := by omega
  rw [BitVec.getLsbD_ofNat, Nat.testBit_div_two_pow, laneGet, fld, BitVec.testBit_toNat, BitVec.getLsbD_extractLsb',
    BitVec.getLsbD_extractLsb']
  simp only [ht, hlane, decide_true, Bool.true_and, ← hj, Nat.add_assoc, Nat.add_comm t]

end Sys2Proof.Machine
end

section
/-!
PROOFS. Loads (O32): what each reads through its lanes, and that it completes with that.
-/

namespace Sys2Proof.Machine

/-! ### What a load finds -/

/-- The bytes `bs` stand at `ks` in memory, or stood there before a write that plain loads may still miss. -/
def FoundBytes (s : State) (ks : List Nat) (bs : List Byte) : Prop :=
  bs.length = ks.length ∧ ∀ q, q < ks.length → FindsByte s (ks.getD q 0) (bs.getD q 0)

/-- What a plain load may read through a lane. -/
def ReadLane (s : State) (ln : Lane) (v : Nat) : Prop := ∃ bs, v = bytesNat bs ∧ FoundBytes s ln.keys bs

/-- What a load annotated `o` reads through a lane: what memory holds where nothing older can be found. -/
def FoundLane (s : State) (o : Ordn) (ln : Lane) (v : Nat) : Prop :=
  ∃ bs, v = bytesNat bs ∧ FoundBytes s ln.keys bs ∧ (s.olds = [] ∨ o ≠ .plain → bs = readKeys s ln.keys)

theorem getD_readKeys {ks : List Nat} {q : Nat} (s : State) (hq : q < ks.length) :
    (readKeys s ks).getD q 0 = readByte s (ks.getD q 0) := by simp [readKeys, hq]

theorem foundLane_readNat (s : State) (o : Ordn) (ln : Lane) : FoundLane s o ln (readNat s ln.keys) :=
  ⟨readKeys s ln.keys, rfl, ⟨by simp [readKeys], fun _ hq => .inl (getD_readKeys s hq)⟩, fun _ => rfl⟩

/-- Every value that a load may find in `u` it may find in `s`. -/
def FindsLess (s u : State) : Prop := ∀ k b, FindsByte u k b → FindsByte s k b

theorem findsLess_of_olds {s u : State} (hu : ButFound s u)
    (h : ∀ o ∈ u.olds, ∃ p ∈ s.olds, p.key = o.key ∧ p.value = o.value) : FindsLess s u := by
  rintro k b (rfl | ⟨o, ho, rfl, rfl⟩)
  · exact .inl (by rw [readByte, readByte, mem_of_butFound hu])
  · obtain ⟨p, hp, hkey, hval⟩ := h o ho
    exact .inr ⟨p, hp, hkey, hval⟩

theorem foundByte_finds (e : SRef) (ks : List Nat) (s : State) (k : Nat) :
    FindsByte s k (foundByte (foundOlds e ks s) s k) := by
  unfold foundByte
  cases hf : (foundOlds e ks s).find? fun o => o.key == k with
  | none => exact .inl rfl
  | some o =>
    have hkey : o.key = k := by simpa using List.find?_some hf
    have hmem : o ∈ s.olds := List.mem_of_mem_filter (List.mem_of_mem_filter (List.mem_of_find?_eq_some hf))
    exact .inr ⟨o, hmem, hkey, rfl⟩

theorem afterFound_butFound (e : SRef) (ks : List Nat) (un : Bool) (l : List Old) (s : State) :
    ButFound s (afterFound e ks un l s) := by
  unfold afterFound
  split <;> rfl

theorem afterFound_findsLess (e : SRef) (ks : List Nat) (un : Bool) (l : List Old) (s : State) :
    FindsLess s (afterFound e ks un l s) := by
  refine findsLess_of_olds (afterFound_butFound e ks un l s) fun o ho => ?_
  unfold afterFound at ho
  split at ho
  · exact ⟨o, ho, rfl, rfl⟩
  · obtain ⟨p, hp, rfl⟩ := List.mem_map.mp ho
    refine ⟨p, hp, ?_, ?_⟩ <;> split <;> rfl

/-- One load that reads its lanes as one. -/
theorem readOnce_found (lanes : List Lane) (un : Bool) (s : State) :
    ButFound s (readOnce lanes un s).2 ∧ FindsLess s (readOnce lanes un s).2 ∧
      List.Forall₂ (ReadLane s) lanes (readOnce lanes un s).1 := by
  refine ⟨afterFound_butFound .., afterFound_findsLess _ _ _ _ _, ?_⟩
  simp only [readOnce, List.forall₂_map_right_iff, List.forall₂_same]
  exact fun ln _ => ⟨_, rfl, by simp, fun q hq => by simpa [hq] using foundByte_finds s.cur _ s _⟩

/-- GATH reads each element as a load of its own. -/
theorem gatherLanes_found (lanes : List Lane) (un : Bool) {s u : State} (acc : List Nat) (hu : ButFound s u)
    (hle : FindsLess s u) :
    ∃ vals w, lanes.foldl (fun a ln => (a.1 ++ (readOnce [ln] un a.2).1, (readOnce [ln] un a.2).2)) (acc, u) =
        (acc ++ vals, w) ∧ ButFound s w ∧
      List.Forall₂ (ReadLane s) lanes vals := by
  induction lanes generalizing u acc with
  | nil => exact ⟨[], u, by simp, hu, .nil⟩
  | cons ln r ih =>
    obtain ⟨hb, hl, hf⟩ := readOnce_found [ln] un u
    obtain ⟨vals, w, he, hw, hvals⟩ :=
      ih (acc ++ (readOnce [ln] un u).1) (butFound_trans hu hb) fun k b h => hle k b (hl k b h)
    have hfirst : List.Forall₂ (ReadLane s) [ln] (readOnce [ln] un u).1 :=
      hf.imp fun _ _ ⟨bs, hv, hlen, hfind⟩ => ⟨bs, hv, hlen, fun q hq => hle _ _ (hfind q hq)⟩
    exact ⟨_, w, by rw [List.foldl_cons, he, List.append_assoc], hw, List.rel_append hfirst hvals⟩

theorem loadLanes_found (i : Instr) (lanes : List Lane) (ord : Nat) (s : State) :
    ButFound s (loadLanes i lanes ord s).2 ∧ List.Forall₂ (FoundLane s (ordnOf i)) lanes (loadLanes i lanes ord s).1 := by
  unfold loadLanes
  split
  · refine ⟨butFound_refl s, ?_⟩
    simp only [List.forall₂_map_right_iff, List.forall₂_same]
    exact fun ln _ => foundLane_readNat s _ ln
  · next hold =>
    have hlane {ln : Lane} {v : Nat} (h : ReadLane s ln v) : FoundLane s (ordnOf i) ln v := by
      obtain ⟨bs, hv, hbs⟩ := h
      exact ⟨bs, hv, hbs, fun hor => absurd (Or.inr hor.symm) hold⟩
    split
    · obtain ⟨vals, w, he, hw, hvals⟩ := gatherLanes_found lanes (ord == 2) [] (butFound_refl s) fun _ _ h => h
      rw [he]
      exact ⟨hw, hvals.imp fun _ _ => hlane⟩
    · obtain ⟨hb, -, hf⟩ := readOnce_found lanes (ord == 2) s
      exact ⟨hb, hf.imp fun _ _ => hlane⟩

/-- A load of the own tile completes with what it finds through its lanes. -/
theorem completeMem_load {i : Instr} {lanes : List Lane} {s : State} (ord : Nat) (hi : isLoad i = true)
    (hp : NothingHandedOff s) (hs : ∀ k ∈ lanes.flatMap (·.keys), OwnByte s k) :
    ∃ vals u, completeMem i lanes ord s = next (memResult i lanes vals 0 u) ∧ ButFound s u ∧
      List.Forall₂ (FoundLane s (ordnOf i)) lanes vals := by
  obtain ⟨hu, hvals⟩ := loadLanes_found i lanes ord s
  refine ⟨_, orderLater i (ord == 0) (loadLanes i lanes ord s).2, ?_, butFound_trans hu (orderLater_butFound ..), hvals⟩
  have hclean : (lanes.findSome? fun ln => (poisonRead s ln.keys).map (poisonAddr ln)) = none :=
    List.findSome?_eq_none_iff.mpr fun ln hln => by
      rw [poisonRead_of_ownByte fun k hk => hs k (List.mem_flatMap.mpr ⟨ln, hln, hk⟩), Option.map_none]
  unfold completeMem
  dsimp only
  rw [drainFor_own _ _ hp]
  cases i with
  | ld | ldv | gath => simp only [isLoad, hclean, if_true]
  | _ => cases hi

/-! ### The loads -/

theorem ld_completes {g h sz sgn o d m s a ks} (hg : guardVal g s = true)
    (hacc : OwnAccess s (memSeg s m) (memOffset s m) (sizeBytes sz) (alignOf o (sizeBytes sz)) .load a ks) :
    ∃ bs u, exec (.ld g h sz sgn o d m) s = .next (next (wx d
        (if sgn then (BitVec.ofNat (8 * sizeBytes sz) (bytesNat bs)).signExtend 64 else BitVec.ofNat 64 (bytesNat bs)) u)) ∧
      ButFound (readyIn 4 s) u ∧ bs.length = sizeBytes sz ∧
      (∀ j, j < sizeBytes sz → FindsByte s (ks.getD j 0) (bs.getD j 0)) ∧
      (s.olds = [] ∨ o ≠ .plain → bs = readKeys s ks) := by
  obtain ⟨ord, he⟩ := memOne_own (i := .ld g h sz sgn o d m) (reply := true) hg hacc
  have hb := ownByte_readyIn 4 (ownByte_of_ownAccess hacc)
  obtain ⟨vals, u, hc, hu, hvals⟩ := completeMem_load (i := .ld g h sz sgn o d m) (lanes := [⟨0, a, ks⟩]) ord rfl
    (nothingHandedOff_readyIn 4 (ownAccess_nothingHandedOff hacc)) (by simpa using hb)
  obtain ⟨v, rest, ⟨bs, rfl, ⟨hlen, hfind⟩, hplain⟩, hnil, rfl⟩ := List.forall₂_cons_left_iff.mp hvals
  cases List.forall₂_nil_left_iff.mp hnil
  rw [ownAccess_length hacc] at hlen hfind
  have hval : sextNat (8 * sizeBytes sz) (bytesNat bs) = (BitVec.ofNat (8 * sizeBytes sz) (bytesNat bs)).signExtend 64 :=
    sextNat_eq (hlen ▸ bytesNat_lt bs)
  refine ⟨bs, u, ?_, hu, hlen, hfind, hplain⟩
  rw [← hval]
  exact he.trans (congrArg _ hc)

/-- The lanes that the active elements load, and those that keep their value. -/
theorem laneGet_loaded {n : Nat} {mask : Word} {lane : Nat → Lane} {R : Lane → Nat → Prop} {vals : List Nat} (v : VWord)
    (hlane : ∀ j, (lane j).lane = j) (h : List.Forall₂ R ((activeIdx n mask).map lane) vals) {i : Nat}
    (hi : i < 64 / n) :
    (mask.getLsbD i = false → laneGet (8 * n) (setLanes (8 * n) (((activeIdx n mask).map lane).zip vals) v) i =
      laneGet (8 * n) v i) ∧
    (mask.getLsbD i = true → ∃ x, R (lane i) x ∧
      laneGet (8 * n) (setLanes (8 * n) (((activeIdx n mask).map lane).zip vals) v) i = x % 2 ^ (8 * n)) := by
  have hcount : laneCount (8 * n) = 64 / n := by
    rw [laneCount, ← Nat.div_div_eq_div_mul]
  refine ⟨fun hoff => laneGet_setLanes_other v (hcount ▸ hi) fun p hp he => ?_, fun hon => ?_⟩
  · obtain ⟨j, hj, hl⟩ := List.mem_map.mp (List.of_mem_zip hp).1
    rw [← hl, hlane] at he
    subst he
    exact Bool.false_ne_true (hoff.symm.trans (mem_activeIdx.mp hj).2)
  · have hmem : lane i ∈ (activeIdx n mask).map lane := List.mem_map_of_mem (mem_activeIdx.mpr ⟨hi, hon⟩)
    have hnd : (((activeIdx n mask).map lane).map (·.lane)).Nodup := by
      rw [List.map_map, show (fun ln : Lane => ln.lane) ∘ lane = id from funext hlane, List.map_id]
      exact List.nodup_range.filter _
    obtain ⟨x, hx, hget⟩ := laneGet_setLanes_lane v h hnd hmem (by rw [hlane, hcount]; exact hi)
    rw [hlane] at hget
    exact ⟨x, hx, hget⟩

theorem gath_completes {g h sz scl o mk d m b s} {a : Nat → Word} {ks : Nat → List Nat} (hg : guardVal g s = true)
    (htag : tagOf (segBase (memSeg s m)) ≠ 1) (hp : NothingHandedOff s)
    (hacc : ∀ j ∈ activeIdx (sizeBytes sz) (kGet (me s) mk),
      OwnAccess s (memSeg s m) (elemOffset s m b (sizeBytes sz) scl j) (sizeBytes sz) (alignOf o (sizeBytes sz)) .load
        (a j) (ks j)) :
    ∃ r u, exec (.gath g h sz scl o mk d m b) s = .next (next (wv d r u)) ∧ ButFound (readyIn 4 s) u ∧
      ∀ i, i < 64 / sizeBytes sz →
        ((kGet (me s) mk).getLsbD i = false →
          laneGet (8 * sizeBytes sz) r i = laneGet (8 * sizeBytes sz) (vGet (me s) d) i) ∧
        ((kGet (me s) mk).getLsbD i = true → ∃ bs, laneGet (8 * sizeBytes sz) r i = bytesNat bs ∧
          bs.length = sizeBytes sz ∧ (∀ j, j < sizeBytes sz → FindsByte s ((ks i).getD j 0) (bs.getD j 0)) ∧
          (s.olds = [] ∨ o ≠ .plain → bs = readKeys s (ks i))) := by
  obtain ⟨ord, he⟩ := memGather_own (i := .gath g h sz scl o mk d m b) (load := true) hg htag hp hacc
  have hlanes := ownByte_readyIn 4 (ownByte_elemLanes (a := a) fun j hj => ownByte_of_ownAccess (hacc j hj))
  obtain ⟨vals, u, hc, hu, hvals⟩ := completeMem_load (i := .gath g h sz scl o mk d m b) ord rfl
    (nothingHandedOff_readyIn 4 hp) hlanes
  have hv : vGet (me u) d = vGet (me s) d := by rw [me_of_butFound hu]; simp [readyIn, vGet]
  refine ⟨_, u, he.trans (congrArg _ hc), hu, fun i hi => ?_⟩
  rw [hv]
  obtain ⟨hoff, hon⟩ := laneGet_loaded (vGet (me s) d) (fun _ => rfl) hvals hi
  refine ⟨hoff, fun hbit => ?_⟩
  obtain ⟨x, ⟨bs, rfl, ⟨hlen, hfind⟩, hplain⟩, hget⟩ := hon hbit
  rw [ownAccess_length (hacc i (mem_activeIdx.mpr ⟨hi, hbit⟩))] at hlen hfind
  rw [Nat.mod_eq_of_lt (hlen ▸ bytesNat_lt bs)] at hget
  exact ⟨bs, hget, hlen, hfind, hplain⟩

theorem ldv_completes {g h sz o mk d m s a ks} (hg : guardVal g s = true)
    (hacc : OwnAccess s (memSeg s m) (memOffset s m) 64 (alignOf o 64) .load a ks) :
    ∃ r u, exec (.ldv g h sz o mk d m) s = .next (next (wv d r u)) ∧ ButFound (readyIn 4 s) u ∧
      ∀ j, j < 64 →
        ((kGet (me s) mk).getLsbD (j / sizeBytes sz) = false →
          r.extractLsb' (8 * j) 8 = (vGet (me s) d).extractLsb' (8 * j) 8) ∧
        ((kGet (me s) mk).getLsbD (j / sizeBytes sz) = true →
          FindsByte s (ks.getD j 0) (r.extractLsb' (8 * j) 8) ∧
          (s.olds = [] ∨ o ≠ .plain → r.extractLsb' (8 * j) 8 = readByte s (ks.getD j 0))) := by
  obtain ⟨ord, he⟩ := memVec_own (i := .ldv g h sz o mk d m) (sz := sz) (mk := mk) (load := true) hg hacc
  have hks := ownByte_readyIn 4 (ownByte_of_ownAccess hacc)
  obtain ⟨vals, u, hc, hu, hvals⟩ := completeMem_load (i := .ldv g h sz o mk d m) ord rfl
    (nothingHandedOff_readyIn 4 (ownAccess_nothingHandedOff hacc)) fun k hk => hks k (mem_activeLanes_keys hk)
  have hv : vGet (me u) d = vGet (me s) d := by rw [me_of_butFound hu]; simp [readyIn, vGet]
  have hn := sizeBytes_pos sz
  refine ⟨_, u, he.trans (congrArg _ hc), hu, fun j hj => ?_⟩
  have hlane : j / sizeBytes sz < 64 / sizeBytes sz := by
    cases sz <;> simp only [sizeBytes] <;> omega
  rw [hv, vectorByte_eq _ j hn, vectorByte_eq (vGet (me s) d) j hn]
  obtain ⟨hoff, hon⟩ := laneGet_loaded (vGet (me s) d) (fun _ => rfl) hvals hlane
  refine ⟨fun hbit => congrArg (fun x => BitVec.ofNat 8 (x / _)) (hoff hbit), fun hbit => ?_⟩
  obtain ⟨x, ⟨bs, rfl, ⟨hlen, hfind⟩, hplain⟩, hget⟩ := hon hbit
  have hmod := Nat.mod_lt j hn
  have hkeys : ((ks.drop (sizeBytes sz * (j / sizeBytes sz))).take (sizeBytes sz)).length = sizeBytes sz :=
    length_laneKeys (ownAccess_length hacc ▸ laneKeys_le hn hlane)
  have hkey : ((ks.drop (sizeBytes sz * (j / sizeBytes sz))).take (sizeBytes sz)).getD (j % sizeBytes sz) 0 = ks.getD j 0 := by
    rw [getD_laneKeys ks hmod, Nat.div_add_mod]
  simp only [hkeys] at hlen hfind
  rw [Nat.mod_eq_of_lt (hlen ▸ bytesNat_lt bs)] at hget
  have hbyte : BitVec.ofNat 8 (bytesNat bs / 2 ^ (8 * (j % sizeBytes sz))) = bs.getD (j % sizeBytes sz) 0 :=
    bytesNat_byte (hlen ▸ hmod)
  have hr : BitVec.ofNat 8 (laneGet (8 * sizeBytes sz) (setLanes (8 * sizeBytes sz)
      ((activeLanes (sizeBytes sz) a (kGet (me s) mk) ks).zip vals) (vGet (me s) d)) (j / sizeBytes sz) /
        2 ^ (8 * (j % sizeBytes sz))) = bs.getD (j % sizeBytes sz) 0 := by
    rw [← hbyte]
    exact congrArg (fun x => BitVec.ofNat 8 (x / _)) hget
  refine ⟨?_, fun hor => ?_⟩
  · have hf := hfind _ hmod
    rw [hkey, ← hr] at hf
    exact hf
  · refine hr.trans ?_
    rw [hplain hor, ← hkey]
    exact getD_readKeys _ (hkeys.symm ▸ hmod)

end Sys2Proof.Machine
end

section

open Sys2Proof.Machine

/-- Settles O32: an access to the own tile is performed at once, and each lane of it reads what memory holds or an older value
that stands among those a plain load may still find. -/
theorem loadsReadTheirBytes : Obligations.LoadsReadTheirBytes :=
  ⟨fun _ _ _ _ _ _ _ _ _ _ hg hacc => ld_completes hg hacc,
    fun _ _ _ _ _ _ _ _ _ _ hg hacc => ldv_completes hg hacc,
    fun _ _ _ _ _ _ _ _ _ _ a _ hg _ htag hacc hp => gath_completes (a := a) hg htag hp fun j hj =>
      have ⟨hlt, hbit⟩ := mem_activeIdx.mp hj
      hacc j hlt hbit⟩

end

section
/-!
PROOFS. The cycle of a tile: the strand selected, the checks of its fetch, and the instruction that runs (O8, O9).
-/

namespace Sys2Proof.Machine

/-- The state in which the strand selected fetches: LAST and QUANTUM have advanced (R15, R91). -/
def fetchState (e : SRef) (s : State) : State :=
  modMe countQuantum (modTile e.site (fun x => { x with last := e.k }) (asStrand e s))

theorem step_of_selected {s u : State} {site k : Nat} (ha : agenda s = .cycle site u) (hc : clocked u site = true)
    (hv : verifies u site = false) (hk : select u site = some k) : step s = stepCycle site (fetch ⟨site, k⟩ u) := by
  simp [step, ha, issue, hc, hv, hk]

section
variable {e : SRef} {s : State}

theorem fetch_trapCode (h : atTrapCode e s = true) : fetch e s =
    .idle (trapCode e (modStrand (skey e) countTrapCode (modTile e.site (fun x => { x with last := e.k }) s))) :=
  if_pos h

variable (h : atTrapCode e s = false)
include h

theorem fetch_outside (hpc : 0x40000 < (me (fetchState e s)).pc.toNat + 12) :
    fetch e s = .idle (raise .addr (me (fetchState e s)).pc (fetchState e s)) := by
  rw [fetch, if_neg (Bool.eq_false_iff.mp h)]
  exact if_pos hpc

variable (hpc : (me (fetchState e s)).pc.toNat + 12 ≤ 0x40000)
include hpc

theorem fetch_poisoned {w : Nat} (hw : poisonRead (fetchState e s) (fetchKeys (fetchState e s) e) = some w) :
    fetch e s = .idle (raise .uncorr (localAbs w) (fetchState e s)) := by
  rw [fetch, if_neg (Bool.eq_false_iff.mp h)]
  refine (if_neg (Nat.not_lt.mpr hpc)).trans ?_
  dsimp only
  unfold fetchState at hw
  rw [hw]
  rfl

variable (hp : poisonRead (fetchState e s) (fetchKeys (fetchState e s) e) = none)
include hp

theorem fetch_illegal {r} (hd : decode (readKeys (fetchState e s) (fetchKeys (fetchState e s) e)) = .error r) :
    fetch e s = .idle (raise .illegal (me (fetchState e s)).pc (fetchState e s)) := by
  rw [fetch, if_neg (Bool.eq_false_iff.mp h)]
  refine (if_neg (Nat.not_lt.mpr hpc)).trans ?_
  dsimp only
  unfold fetchState at hp hd
  rw [hp, hd]
  rfl

theorem fetch_decoded {i : Instr} {rest : List Byte}
    (hd : decode (readKeys (fetchState e s) (fetchKeys (fetchState e s) e)) = .ok (i, rest)) :
    fetch e s = .run i (readyIn (1 + latency i) (fetchState e s)) := by
  rw [fetch, if_neg (Bool.eq_false_iff.mp h)]
  refine (if_neg (Nat.not_lt.mpr hpc)).trans ?_
  dsimp only
  unfold fetchState at hp hd
  rw [hp, hd]
  rfl

end

end Sys2Proof.Machine
end

section

open Sys2Proof Sys2Proof.Machine

/-- Settles O8: a fetch that meets no fault hands the instruction decoded to `exec`. -/
theorem stepRunsTheDecodedInstruction : Obligations.StepRunsTheDecodedInstruction := by
  intro s u site k i rest ha hc hv hk htrap ⟨hpc, hp, hd⟩
  rw [step_of_selected ha hc hv hk, fetch_decoded htrap hpc hp hd]
  rfl

/-- Settles O9: the checks of a fetch come in the order place, poison, decoder. -/
theorem fetchFaultsBeforeDecoding : Obligations.FetchFaultsBeforeDecoding := by
  intro s u site k ha hc hv hk
  rw [step_of_selected ha hc hv hk]
  refine ⟨fun htrap => ?_, fun htrap => ⟨fun hpc => ?_, fun hpc => ⟨fun w hw => ?_, fun hp r hd => ?_⟩⟩⟩
  · rw [fetch_trapCode htrap]; rfl
  · rw [fetch_outside htrap hpc]; rfl
  · rw [fetch_poisoned htrap hpc hw]; rfl
  · rw [fetch_illegal htrap hpc hp hd]; rfl

end

section
/-!
PROOFS. WAKE and the delivery of its event (O28).
-/

namespace Sys2Proof.Machine

/-! ### WAKE (R118) -/

theorem wakeReserve_none {s : State} {a : Word} (h : wakeTarget s a = none) : wakeReserve s a = false := by
  simp [wakeReserve, h]

theorem wakeReserve_some {s : State} {a : Word} {e : SRef} (h : wakeTarget s a = some e) :
    wakeReserve s a = (!(me s).priv && e.k == 7) := by
  simp [wakeReserve, h]

section
variable {g : Guard} {a b : XReg} {s : State}

theorem execWake_reserve (h : wakeReserve s (rx s a) = true) : execWake g a b s = .next (raise .priv (me s).pc s) :=
  if_pos h

variable (h : wakeReserve s (rx s a) = false) (hg : guardVal g s = true)
include h hg

theorem execWake_guarded : execWake g a b s =
    match wakeTarget s (rx s a) with
    | none => .next (raise .addr (rx s a) s)
    | some e => if !targetOk (rx s b) then .next (raise .addr (rx s b) s) else .next (next (sendWake e (rx s b) s)) :=
  (if_neg (by rw [h]; exact Bool.false_ne_true)).trans (guarded_true _ hg)

end

theorem sendWake_performed {s : State} (e : SRef) (start : Word)
    (h : unperformed (drainAll s.cur s) (drainAll s.cur s).cur = false) :
    sendWake e start s = enqueue (.wakeEventDelivery e start) (drainAll s.cur s) :=
  if_neg (Bool.eq_false_iff.mp h)

theorem sendWake_unperformed {s : State} (e : SRef) (start : Word)
    (h : unperformed (drainAll s.cur s) (drainAll s.cur s).cur = true) :
    sendWake e start s = { drainAll s.cur s with
      wakes := (drainAll s.cur s).wakes ++ [⟨(drainAll s.cur s).cur, e, start⟩] } :=
  if_pos h

/-- The wakes of the strands that have no access left join the agenda. -/
theorem sendWakes_internal (s : State) : (sendWakes s).internal = s.internal ++
    (s.wakes.filter fun w => !unperformed s w.from_).map fun w => .wakeEventDelivery w.dest w.start := by
  unfold sendWakes
  dsimp only
  split
  · next h => rw [h, List.append_nil]
  · rfl

/-! ### The event (R118) -/

/-- R83: a strand that has been started, as it stands. -/
theorem getStrand_startStrand_same (e : SRef) (pc x1 : Word) (task : Bool) (segs : List (Nat × BitVec 128))
    (binds : List (Nat × BitVec 32 × BitVec 32)) (s : State) :
    let t := getStrand (startStrand e pc x1 task segs binds s) (skey e)
    t.run = .run ∧ t.pc = pc ∧ t.x = (Strand.blank (skey e)).x.set 1 x1 ∧ t.task = task ∧ t.priv = stewardId s e := by
  have h (u : State) : getStrand (acquireAll e u) (skey e) = getStrand u (skey e) := rfl
  simp only [startStrand, h, seedStrand, getStrand_modStrand_same, getStrand_setStrand_same, and_self]

theorem uncompleted_eq_false {s : State} {e : SRef} (hf : (getStrand s (skey e)).flight = none)
    (hr : (getStrand s (skey e)).readyAt ≤ (getTile s e.site).cycle + 1) : uncompleted s e = false := by
  simp [uncompleted, hf, hr]

theorem uncompleted_eq_true {s : State} {e : SRef}
    (hr : (getTile s e.site).cycle + 1 < (getStrand s (skey e)).readyAt) : uncompleted s e = true := by
  simp [uncompleted, hr]

theorem wakeWaiting_abandons {s : State} {e : SRef} {w : Wait} (hh : (getStrand s (skey e)).handler = false)
    (hw : (getStrand s (skey e)).wait = some w) (hk : wakeKept w = false) :
    wakeWaiting e s = boundary e (wakeDue e (endWait e s)) := by
  simp only [wakeWaiting, hh, hw, hk, Bool.or_self, Bool.false_eq_true, if_false]

section
variable {e : SRef} {s : State} (start : Word)

theorem execWakeEventDelivery_off (h : (getStrand s (skey e)).run = .off) : execWakeEventDelivery e start s =
    .next (modStrand (skey e) (fun u => { u with readyAt := (getTile s e.site).cycle + 2 }) (startByManifest e start 0 s)) := by
  simp only [execWakeEventDelivery, h]

theorem execWakeEventDelivery_waitm (h : (getStrand s (skey e)).run = .waitm) :
    execWakeEventDelivery e start s = .next (mwaitEnd e (2 ^ 4) s) := by
  simp only [execWakeEventDelivery, h]

theorem execWakeEventDelivery_run (h : (getStrand s (skey e)).run = .run) (hf : (getStrand s (skey e)).flight = none) :
    execWakeEventDelivery e start s = .next (wakeRunning e s) := by
  simp only [execWakeEventDelivery, h, hf]

theorem execWakeEventDelivery_pause (h : (getStrand s (skey e)).run = .run)
    (hf : (getStrand s (skey e)).flight = some .pause) :
    execWakeEventDelivery e start s = .next (next (readyIn 1 (asStrand e (wakeDue e s)))) := by
  simp only [execWakeEventDelivery, h, hf]

theorem execWakeEventDelivery_waiting (h : (getStrand s (skey e)).run = .waitq ∨ (getStrand s (skey e)).run = .waitf) :
    execWakeEventDelivery e start s = .next (wakeWaiting e s) := by
  rcases h with h | h <;> simp only [execWakeEventDelivery, h]

theorem execWakeEventDelivery_paged (h : (getStrand s (skey e)).run = .paged) :
    execWakeEventDelivery e start s = .next (wakeDue e s) := by
  simp only [execWakeEventDelivery, h]

end

end Sys2Proof.Machine
end

section

open Sys2Proof Sys2Proof.Machine

/-- Settles O28: WAKE by its checks in order, the event by the state of its target. -/
theorem wakeAndItsEvent : Obligations.WakeAndItsEvent := by
  refine ⟨fun g a b s => ⟨fun hg hn => ?_, fun e he => ⟨fun hk hp => ?_, fun hu hg => ?_⟩⟩, sendWakes_internal,
    fun e start s _ => ⟨fun h => ?_, fun h hf hr => ?_, fun h hf hr => ?_, fun h hh w hw hk => ?_,
      fun h hf => execWakeEventDelivery_pause start h hf, fun h => execWakeEventDelivery_paged start h,
      fun h => execWakeEventDelivery_waitm start h⟩⟩
  · exact (execWake_guarded (wakeReserve_none hn) hg).trans (by rw [hn])
  · exact execWake_reserve (by simp [wakeReserve_some he, hk, hp])
  · have hr : wakeReserve s (rx s a) = false := by
      rw [wakeReserve_some he]
      cases hp : (me s).priv
      · simpa using fun hk => hu ⟨hk, hp⟩
      · rfl
    have hx : exec (.wake g a b) s = _ := execWake_guarded hr hg
    rw [hx, he]
    refine ⟨fun ht => ?_, fun ht => ⟨fun hp => ?_, fun hp => ?_⟩⟩
    · simp only [ht, Bool.not_false, if_true]
    · simp only [ht, Bool.not_true, Bool.false_eq_true, if_false, sendWake_performed e (rx s b) hp]
    · simp only [ht, Bool.not_true, Bool.false_eq_true, if_false, sendWake_unperformed e (rx s b) hp]
  · obtain ⟨hrun, hpc, hx, htask, -⟩ :=
      getStrand_startStrand_same e start 0 false (manifestOf s e).1 (manifestOf s e).2 s
    refine ⟨_, execWakeEventDelivery_off start h, ?_⟩
    rw [getStrand_modStrand_same]
    exact ⟨hrun, hpc, congrArg (Vector.get · 1) hx, htask⟩
  · refine (execWakeEventDelivery_run start h hf).trans ?_
    rw [wakeRunning, uncompleted_eq_false hf hr]
    rfl
  · refine (execWakeEventDelivery_run start h hf).trans ?_
    rw [wakeRunning, uncompleted_eq_true hr]
    rfl
  · exact (execWakeEventDelivery_waiting start h).trans (by rw [wakeWaiting_abandons hh hw hk]; rfl)

end

section
/-!
PROOFS. What a pop leaves unchanged, and the conversions of addresses (O20).
-/

namespace Sys2Proof.Machine

open Sys2Proof.Safety

/-! ### What the walks and the queue hardware leave unchanged -/

/-- A walk changes page-table entries and TLBs alone (R168, R169). -/
def WalkFrame (s t : State) : Prop := t = { s with mem := t.mem, dies := t.dies, tlbs := t.tlbs }

theorem walkFrame_refl (s : State) : WalkFrame s s := rfl
theorem walkFrame_trans {s t u : State} (h : WalkFrame s t) (h' : WalkFrame t u) : WalkFrame s u := by
  unfold WalkFrame at *
  rw [h', h]

theorem walkFrame_ite {c : Prop} [Decidable c] {s t u : State} (h : WalkFrame s t) (h' : WalkFrame s u) :
    WalkFrame s (if c then t else u) := by
  split
  · exact h
  · exact h'

/-- What a check that can fail answers, where it answers. -/
def OkFrame {α : Type} (s : State) (st : α → State) : Except Stop α → Prop
  | .ok x => WalkFrame s (st x)
  | .error _ => True

theorem modDie_frame (d : Nat) (f : Die → Die) (s : State) : modDie d f s = { s with dies := (modDie d f s).dies } := by
  unfold modDie
  split <;> rfl

theorem tlbFill_frame (cluster : Nat) (t : TlbEntry) (s : State) : WalkFrame s (tlbFill cluster t s) := by
  unfold WalkFrame tlbFill
  rw [modDie_frame]

theorem leafOf_frame (cluster : Nat) (job : BitVec 16) (va : Nat) (store : Bool) (s : State) :
    OkFrame s Xlate.st (leafOf cluster job va store s) := by
  unfold leafOf
  dsimp only
  split
  · split
    · trivial
    · exact tlbFill_frame ..
  · split
    · trivial
    · split
      · trivial
      · split
        · trivial
        · exact walkFrame_trans (walkFrame_ite (walkFrame_refl s) (by rfl)) (tlbFill_frame ..)

theorem translate_frame (cluster : Nat) (job : BitVec 16) (va : Nat) (store : Bool) (s : State) :
    OkFrame s Xlate.st (translate cluster job va store s) := by
  have h := leafOf_frame cluster job va store s
  unfold translate
  split
  · trivial
  · next hx =>
    rw [hx] at h
    dsimp only
    split
    · trivial
    · split
      · trivial
      · exact h

theorem walked_frame (cluster : Nat) (job : BitVec 16) (va : Nat) (store : Bool) (s : State) :
    WalkFrame s (walked cluster job va store s) := by
  have h := leafOf_frame cluster job va store s
  unfold walked
  split
  · rfl
  · next hx => rwa [hx] at h

theorem virtBytes_frame (cluster : Nat) (job : BitVec 16) (store : Bool) (va n : Nat) (s : State) :
    OkFrame s Access.st (virtBytes (fun va => translate cluster job va store) va n s) := by
  have h := translate_frame cluster job va store s
  unfold virtBytes
  split
  · trivial
  · next x hx =>
    replace h : WalkFrame s x.st := by rwa [show translate cluster job va store s = .ok x from hx] at h
    dsimp only
    split
    · exact h
    · have h' := translate_frame cluster job (va + n - 1) store x.st
      split
      · trivial
      · next hy =>
        rw [hy] at h'
        split
        · trivial
        · exact walkFrame_trans h h'

theorem virtWalked_frame (cluster : Nat) (job : BitVec 16) (store : Bool) (va n : Nat) (s : State) :
    WalkFrame s (virtWalked cluster job store va n s) := by
  have h := translate_frame cluster job va store s
  unfold virtWalked
  split
  · exact walked_frame ..
  · next hx =>
    rw [hx] at h
    split
    · exact h
    · exact walkFrame_trans h (walked_frame ..)

/-- Wakes change the agenda alone. -/
def AgendaFrame (s t : State) : Prop := t = { s with internal := t.internal }

theorem agendaFrame_refl (s : State) : AgendaFrame s s := rfl
theorem agendaFrame_trans {s t u : State} (h : AgendaFrame s t) (h' : AgendaFrame t u) : AgendaFrame s u := by
  unfold AgendaFrame at *
  rw [h', h]
theorem agendaFrame_foldl {α : Type} {f : State → α → State} (hf : ∀ s a, AgendaFrame s (f s a)) (l : List α) (s : State) :
    AgendaFrame s (l.foldl f s) := by
  induction l generalizing s with
  | nil => exact agendaFrame_refl s
  | cons a r ih => exact agendaFrame_trans (hf s a) (ih _)

theorem wakeQueue_frame (qk : Nat) (s : State) : AgendaFrame s (wakeQueue qk s) :=
  agendaFrame_foldl (f := fun s k => wakeOne k s) (fun _ _ => rfl) _ _

/-- The queue hardware changes neither the strand that acts nor which sites are good. -/
def SamePlace (s t : State) : Prop := t.cur = s.cur ∧ t.fused = s.fused

theorem samePlace_refl (s : State) : SamePlace s s := ⟨rfl, rfl⟩
theorem samePlace_trans {s t u : State} (h : SamePlace s t) (h' : SamePlace t u) : SamePlace s u :=
  ⟨h'.1.trans h.1, h'.2.trans h.2⟩
theorem samePlace_of_walk {s t : State} (h : WalkFrame s t) : SamePlace s t := by
  rw [h]
  exact ⟨rfl, rfl⟩

theorem sendFault_samePlace {die : Nat} {r : BitVec 256} {s t : State} (h : sendFault die r s = some t) : SamePlace s t := by
  unfold sendFault at h
  split at h
  · cases h
    exact ⟨modDie_cur .., modDie_fused ..⟩
  · cases h

theorem holdQueue_samePlace (qk : Nat) (ep : BitVec 32) (va kind : Nat) (store : Bool) (s : State) :
    SamePlace s (holdQueue qk ep va kind store s) := by
  unfold holdQueue
  dsimp only
  cases h : sendFault _ _ _ with
  | none => exact ⟨rfl, rfl⟩
  | some t => exact samePlace_trans (t := modQueue qk _ s) ⟨rfl, rfl⟩ (sendFault_samePlace h)

theorem carryPoison_samePlace (src dst : List Nat) (s : State) : SamePlace s (carryPoison src dst s) := by
  unfold carryPoison
  split <;> exact ⟨rfl, rfl⟩

theorem refillOne_samePlace {qk : Nat} {s t : State} (h : refillOne qk s = some t) : SamePlace s t := by
  unfold refillOne at h
  dsimp only at h
  have ha := virtBytes_frame (qcluster qk) (getQueue s qk).job false
    (spillVa (getQueue s qk) ((getQueue s qk).tail - (getQueue s qk).spilled)) (entryBytes (getQueue s qk) + 8) s
  split at h
  · cases h
  · split at h
    · cases h
      exact samePlace_trans (samePlace_of_walk (virtWalked_frame ..)) (holdQueue_samePlace ..)
    · next hx =>
      rw [spillAccess] at hx
      rw [hx] at ha
      split at h
      · cases h
        refine samePlace_trans (samePlace_of_walk ha) ?_
        exact samePlace_trans (t := writeRing _ _ _ _ _) ⟨rfl, rfl⟩
          (samePlace_trans (carryPoison_samePlace _ _ _) ⟨rfl, rfl⟩)
      · cases h

theorem refill_samePlace (qk n : Nat) (s : State) : SamePlace s (refill qk n s) := by
  induction n generalizing s with
  | zero => exact samePlace_refl s
  | succ n ih =>
    unfold refill
    split
    · next h => exact samePlace_trans (refillOne_samePlace h) (ih _)
    · exact samePlace_refl s

theorem wakeQueue_samePlace (qk : Nat) (s : State) : SamePlace s (wakeQueue qk s) := by
  rw [wakeQueue_frame]
  exact ⟨rfl, rfl⟩

theorem noteMove_samePlace (bk : Nat) (s : State) : SamePlace s (noteMove bk s) := by
  unfold noteMove
  split <;> exact ⟨rfl, rfl⟩
theorem kickWatch_samePlace (bk : Nat) (s : State) : SamePlace s (kickWatch bk s) := by
  unfold kickWatch
  split <;> exact ⟨rfl, rfl⟩

theorem pop_samePlace (qk : Nat) (s : State) : SamePlace s (pop qk s).2 := by
  unfold pop
  dsimp only
  refine samePlace_trans ?_ (samePlace_trans (refill_samePlace _ _ _) (samePlace_trans (wakeQueue_samePlace _ _)
    (samePlace_trans (noteMove_samePlace _ _) (kickWatch_samePlace _ _))))
  split <;> exact ⟨rfl, rfl⟩

theorem popPorts_samePlace {ins : List (Fin 2)} {v : PortVals} {s : State} {r : PortVals × State × Option Nat}
    (h : popPorts ins v s = some r) : SamePlace s r.2.1 := by
  induction ins generalizing v s with
  | nil =>
    cases h
    exact samePlace_refl s
  | cons n l ih =>
    unfold popPorts at h
    dsimp only at h
    split at h
    · cases h
    · split at h
      · cases h
        exact samePlace_refl s
      · exact samePlace_trans (pop_samePlace _ _) (ih h)

theorem samePlace_of_ports {s s' : State} {ins outs : List (Fin 2)} {v : PortVals} (h : Ports s ins outs v s') :
    SamePlace s s' := by
  obtain ⟨-, -, hp, -⟩ := h
  exact popPorts_samePlace hp

/-! ### Places in a cluster (R6) -/

theorem ylOf_siteInCluster (c : Nat) {x y : Nat} (hx : x < 8) (hy : y < 16) : ylOf (siteInCluster c x y) = y := by
  simp only [ylOf, siteY, siteInCluster, siteAt]
  omega
theorem xlOf_siteInCluster (c : Nat) {x : Nat} (hx : x < 8) (y : Nat) : xlOf (siteInCluster c x y) = x := by
  simp only [xlOf, siteX, siteInCluster, siteAt]
  omega

theorem isGood_of_samePlace {s t : State} (h : SamePlace s t) (site : Nat) : isGood t site = isGood s site := by
  rw [isGood, isGood, h.2]

/-! ### Local addresses (R109, R154) -/

theorem fld_ne {w : Word} {lo len : Nat} {v : BitVec len} (h : w.extractLsb' lo len ≠ v) : fld w lo len ≠ v.toNat :=
  fun e => h (BitVec.eq_of_toNat_eq e)

/-- The site of an absolute local address: its coordinates in the cluster, if the site is good. -/
theorem localSite_absolute {s : State} {site : Nat} {a : Word} (htag : tagOf a = 2) (h0 : fld a 25 37 = 0) :
    localSite s site a = if isGood s (siteInCluster (clusterOf site) (fld a 18 3) (fld a 21 4)) = true
      then some (siteInCluster (clusterOf site) (fld a 18 3) (fld a 21 4)) else none := by
  rw [localSite, if_neg (not_not.mpr h0), if_pos htag]

theorem localSite_reserved {s : State} {site : Nat} {a : Word} (h0 : fld a 25 37 ≠ 0) : localSite s site a = none :=
  if_pos h0

/-- The coordinates that a relative local address names, seen from a site. -/
def relY (site : Nat) (a : Word) : Int := ylOf site + (a.extractLsb' 21 4).toInt
def relX (site : Nat) (a : Word) : Int := xlOf site + (a.extractLsb' 18 3).toInt

/-- A relative local address whose steps stay in the cluster names the place they reach, if the site is good. -/
theorem localSite_relative {s : State} {site : Nat} {a : Word} (htag : tagOf a = 3) (h0 : fld a 25 37 = 0)
    (hy : 0 ≤ relY site a ∧ relY site a < 16) (hx : 0 ≤ relX site a ∧ relX site a < 8) :
    localSite s site a = if isGood s (siteInCluster (clusterOf site) (relX site a).toNat (relY site a).toNat) = true
      then some (siteInCluster (clusterOf site) (relX site a).toNat (relY site a).toNat) else none := by
  have ey : stepCoord (ylOf site) (sfld a 21 4) 16 = some (relY site a).toNat := if_pos hy
  have ex : stepCoord (xlOf site) (sfld a 18 3) 8 = some (relX site a).toNat := if_pos hx
  rw [localSite, if_neg (not_not.mpr h0), if_neg (by omega), ey, ex]

/-- A relative local address whose steps leave the cluster names no site. -/
theorem localSite_off {s : State} {site : Nat} {a : Word} (htag : tagOf a = 3)
    (h : ¬(0 ≤ relY site a ∧ relY site a < 16) ∨ ¬(0 ≤ relX site a ∧ relX site a < 8)) : localSite s site a = none := by
  rw [localSite]
  split
  · rfl
  · rw [if_neg (by omega)]
    obtain hy | hx := h
    · rw [show stepCoord (ylOf site) (sfld a 21 4) 16 = none from if_neg hy]
    · rw [show stepCoord (xlOf site) (sfld a 18 3) 8 = none from if_neg hx]
      cases stepCoord (ylOf site) (sfld a 21 4) 16 <;> rfl

/-! ### CADDR and CREL (R109) -/

theorem toNat_append_eq {n m : Nat} (a : BitVec n) (b : BitVec m) : (a ++ b).toNat = a.toNat * 2 ^ m + b.toNat := by
  rw [BitVec.toNat_append, ← Nat.shiftLeft_add_eq_or_of_lt b.isLt, Nat.shiftLeft_eq]

theorem toNat_ofInt_of_lt {n : Nat} {z : Int} (h0 : 0 ≤ z) (h : z < (2 ^ n : Nat)) : (BitVec.ofInt n z).toNat = z.toNat := by
  rw [BitVec.toNat_ofInt, Int.emod_eq_of_lt h0 h]

/-- R154: a local absolute address by its fields. -/
theorem absolute_eq {y x : Int} (hy : 0 ≤ y ∧ y < 16) (hx : 0 ≤ x ∧ x < 8) (o : BitVec 18) :
    BitVec.ofNat 64 (2 ^ 63 + y.toNat * 2 ^ 21 + x.toNat * 2 ^ 18 + o.toNat) =
      (2#2 ++ 0#37 ++ BitVec.ofInt 4 y ++ BitVec.ofInt 3 x ++ o : BitVec 64) := by
  apply BitVec.eq_of_toNat_eq
  have ho := o.isLt
  simp only [toNat_append_eq, toNat_ofInt_of_lt (n := 4) hy.1 hy.2, toNat_ofInt_of_lt (n := 3) hx.1 hx.2, BitVec.toNat_ofNat]
  omega

theorem toAbsolute_other {s : State} {a : Word} (h : tagOf a ≠ 3) : toAbsolute s a = some a := if_pos h
theorem toRelative_other {s : State} {a : Word} (h : tagOf a ≠ 2) : toRelative s a = some a := if_pos h

/-- A relative address of a good site in reach is written with the coordinates of that site. -/
theorem toAbsolute_relative {s : State} {a : Word} (htag : tagOf a = 3) (h0 : fld a 25 37 = 0)
    (hy : 0 ≤ relY s.cur.site a ∧ relY s.cur.site a < 16) (hx : 0 ≤ relX s.cur.site a ∧ relX s.cur.site a < 8)
    (hg : isGood s (siteInCluster (clusterOf s.cur.site) (relX s.cur.site a).toNat (relY s.cur.site a).toNat) = true) :
    toAbsolute s a =
      some (2#2 ++ 0#37 ++ BitVec.ofInt 4 (relY s.cur.site a) ++ BitVec.ofInt 3 (relX s.cur.site a) ++ a.extractLsb' 0 18) := by
  rw [toAbsolute, if_neg (not_not.mpr htag), localSite_relative htag h0 hy hx, if_pos hg, Option.map_some,
    ylOf_siteInCluster _ (by omega) (by omega), xlOf_siteInCluster _ (by omega), ← absolute_eq hy hx]

/-- A relative address that names no good site in reach has no absolute form. -/
theorem toAbsolute_none {s : State} {a : Word} (htag : tagOf a = 3) (h : localSite s s.cur.site a = none) :
    toAbsolute s a = none := by
  rw [toAbsolute, if_neg (not_not.mpr htag), h, Option.map_none]

/-- An absolute address is written with the steps to its site, where the site is good and the steps fit. -/
theorem toRelative_absolute {s : State} {a : Word} (htag : tagOf a = 2) : toRelative s a =
    if fld a 25 37 = 0 ∧ isGood s (siteInCluster (clusterOf s.cur.site) (fld a 18 3) (fld a 21 4)) = true then
      let dy : Int := (fld a 21 4 : Int) - ylOf s.cur.site
      let dx : Int := (fld a 18 3 : Int) - xlOf s.cur.site
      if dy < -8 ∨ 7 < dy ∨ dx < -4 ∨ 3 < dx then none
      else some (3#2 ++ 0#37 ++ BitVec.ofInt 4 dy ++ BitVec.ofInt 3 dx ++ a.extractLsb' 0 18)
    else none := by
  have hx : fld a 18 3 < 8 := BitVec.isLt _
  have hy : fld a 21 4 < 16 := BitVec.isLt _
  have ey := ylOf_siteInCluster (clusterOf s.cur.site) hx hy
  have ex := xlOf_siteInCluster (clusterOf s.cur.site) hx (fld a 21 4)
  rw [toRelative, if_neg (not_not.mpr htag)]
  by_cases h0 : fld a 25 37 = 0
  · rw [localSite_absolute htag h0]
    by_cases hg : isGood s (siteInCluster (clusterOf s.cur.site) (fld a 18 3) (fld a 21 4)) = true
    · rw [if_pos hg, if_pos ⟨h0, hg⟩]
      dsimp only
      rw [ey, ex]
    · rw [if_neg hg, if_neg (fun h => hg h.2)]
  · rw [localSite_reserved h0, if_neg (fun h => h0 h.1)]

/-- The shared shape of CADDR and CREL, with a true guard and the ports ready. -/
theorem convAddr_ready {i : Instr} {g : Guard} {d : Dst} {a : Src} {f : State → Word → Option Word} {v : PortVals} {s s' : State}
    (hg : guardVal g s = true) (hp : Ports s (srcPorts a) (dstPorts d) v s') :
    convAddr i g d a f s = match f s' (srcVal v s' a) with
      | some r => .next (retire d r s')
      | none => .next (raise .addr (srcVal v s' a) s) :=
  (guarded_true _ hg).trans (gate_ready _ hp)

end Sys2Proof.Machine
end

section
open Sys2Proof Sys2Proof.Machine Sys2Proof.Safety

/-- Settles O20: the conversions act by the fields of the address; the pops leave the place of the strand as it is. -/
theorem addressConversionResults : Obligations.AddressConversionResults := by
  unfold Obligations.AddressConversionResults
  refine ⟨fun g d m s hg => ⟨fun hl => ?_, fun hl => ⟨fun a v s' hf hp => ?_, fun hf => ?_⟩⟩,
    fun g d a v s s' hg hp => ?_, fun g d a v s s' hg hp => ?_⟩
  · show execLea g d m s = _
    rw [execLea, guarded_true _ hg]
    exact if_pos hl
  · obtain ⟨-, -, hpop, -⟩ := id hp
    cases hpop
    show execLea g d m s = _
    rw [execLea, guarded_true _ hg]
    dsimp only
    rw [if_neg (by omega), hf]
    exact gate_ready _ hp
  · show execLea g d m s = _
    rw [execLea, guarded_true _ hg]
    dsimp only
    rw [if_neg (by omega), hf]
  · have hs := samePlace_of_ports hp
    have hx : exec (.caddr g d a) s = _ := convAddr_ready (f := toAbsolute) hg hp
    refine ⟨fun ht => ?_, fun ht hbad => ?_, fun ht h0 hy0 hy hx0 hx7 hgood => ?_⟩
    · rw [hx, toAbsolute_other (fld_ne ht)]
    · have ht' : tagOf (srcVal v s' a) = 3 := congrArg BitVec.toNat ht
      rw [hx, toAbsolute_none ht']
      by_cases h0 : fld (srcVal v s' a) 25 37 = 0
      · by_cases hy : 0 ≤ relY s'.cur.site (srcVal v s' a) ∧ relY s'.cur.site (srcVal v s' a) < 16
        · by_cases hx : 0 ≤ relX s'.cur.site (srcVal v s' a) ∧ relX s'.cur.site (srcVal v s' a) < 8
          · rw [localSite_relative ht' h0 hy hx]
            rw [hs.1] at hy hx ⊢
            rw [isGood_of_samePlace hs]
            obtain hb | hb | hb | hb | hb | hb := hbad
            · exact absurd h0 (fld_ne hb)
            · exact absurd hy.1 (not_le.mpr hb)
            · exact absurd hy.2 (not_lt.mpr hb)
            · exact absurd hx.1 (not_le.mpr hb)
            · exact absurd hx.2 (not_lt.mpr hb)
            · exact if_neg (ne_true_of_eq_false hb)
          · exact localSite_off ht' (.inr hx)
        · exact localSite_off ht' (.inl hy)
      · exact localSite_reserved h0
    · have e := toAbsolute_relative (s := s') (a := srcVal v s' a) (congrArg BitVec.toNat ht) (congrArg BitVec.toNat h0)
        (hs.1 ▸ ⟨hy0, Int.lt_add_one_of_le hy⟩) (hs.1 ▸ ⟨hx0, Int.lt_add_one_of_le hx7⟩)
        (by rw [hs.1, isGood_of_samePlace hs]; exact hgood)
      rw [hx, e, hs.1]
      rfl
  · have hs := samePlace_of_ports hp
    have hx : exec (.crel g d a) s = _ := convAddr_ready (f := toRelative) hg hp
    refine ⟨fun ht => ?_, fun ht hbad => ?_, fun ht h0 hgood hy0 hy hx0 hx3 => ?_⟩
    · rw [hx, toRelative_other (fld_ne ht)]
    · rw [hx, toRelative_absolute (congrArg BitVec.toNat ht), hs.1, isGood_of_samePlace hs]
      obtain hb | hb | hb := hbad
      · rw [if_neg fun h => fld_ne hb h.1]
      · rw [if_neg fun h => ne_true_of_eq_false hb h.2]
      · dsimp only
        rw [if_pos hb, ite_self]
    · rw [hx, toRelative_absolute (congrArg BitVec.toNat ht), hs.1, isGood_of_samePlace hs,
        if_pos ⟨congrArg BitVec.toNat h0, hgood⟩]
      dsimp only
      rw [if_neg (by omega)]

end

section
/-!
PROOFS. A load that completes with more bytes than its size (O36).
-/

namespace Sys2Proof.Machine

/-- The end of an instruction leaves the registers, unless HALT reached the strand. -/
theorem rx_next {s : State} (h : (me s).halting = false) (r : XReg) : rx (next s) r = rx s r := by
  rw [next, finish_running _ _ h, rx, me_modMe, rx, xGet, xGet, (takePending_regs _ _).1]

theorem rx_wx_same {r : XReg} (hr : r ≠ 0) (v : Word) (s : State) : rx (wx r v s) r = v := by
  rw [rx, wx, me_modMe, xGet_xSet, if_pos ⟨rfl, hr⟩]

/-- Memory that holds 0 in byte 0 and 1 in byte 1. -/
def twoByteState : State := { State.reset with mem := [(1, 1)] }

/-- A signed load of one byte into x1. -/
def byteLoad : Instr := .ld Guard.always .normal .b true .plain 1 ⟨0, 0, 0⟩

/-- Given the keys of two bytes it leaves both of them in the register. -/
theorem rx_completeMem_byteLoad : rx (completeMem byteLoad [⟨0, 0, [0, 1]⟩] 1 twoByteState) 1 = 256 := by decide

end Sys2Proof.Machine
end

section
open Sys2Proof Sys2Proof.Machine Sys2Proof.Safety

/-- Refutes O36: its last clause asks of a load in flight with any number of bytes that the register keep those of the
load's size alone. -/
theorem not_accessesElsewhereAreHandedOffOrInFlight : ¬ Obligations.AccessesElsewhereAreHandedOffOrInFlight := by
  unfold Obligations.AccessesElsewhereAreHandedOffOrInFlight
  rintro ⟨-, -, -, -, h⟩
  obtain ⟨bs, u, hc, hu, -, -, hbs⟩ := h Guard.always .normal .b true .plain 1 ⟨0, 0, 0⟩ 0 [0, 1] 1 twoByteState
    (by simp [twoByteState, State.reset]) (by decide)
  have hbytes : bytesNat bs = 256 := by
    rw [hbs (.inl rfl)]
    decide
  have hx := congrArg (rx · 1) hc
  rw [rx_next (by rw [wx, me_modMe, me_of_butFound hu]; rfl), rx_wx_same (by decide), if_pos rfl, hbytes] at hx
  exact absurd (rx_completeMem_byteLoad.symm.trans hx) (by decide)

end

section
/-!
PROOFS. The ready queue of a tile (R19 to R23): its ring in local store, appends and pops.
-/

namespace Sys2Proof.Machine

open Sys2Proof.Safety

/-! ### Numbers in memory -/

/-- The bytes of a number make the number again. -/
theorem bytesNat_natBytes (n v : Nat) : bytesNat (natBytes n v) = v % 256 ^ n := by
  induction n generalizing v with
  | zero => simp [natBytes, bytesNat, Nat.mod_one]
  | succ n ih =>
    have hstep : natBytes (n + 1) v = BitVec.ofNat 8 v :: natBytes n (v / 256) := by
      simp [natBytes, List.range_succ_eq_map, Function.comp_def, Nat.pow_succ', Nat.div_div_eq_div_mul]
    rw [hstep, bytesNat, ih, BitVec.toNat_ofNat, show 256 ^ (n + 1) = 256 * 256 ^ n from Nat.pow_succ']
    exact Nat.mod_mul.symm

/-- Bytes that a write puts at keys apart from one another are read back. -/
theorem map_cellGet_pokeBytes {ks : List Nat} {bs : List Byte} {m : List Host.Cell} (hnd : ks.Nodup)
    (hl : bs.length = ks.length) (h : Memory.wf m = true) : ks.map (cellGet (pokeBytes (ks.zip bs) m)) = bs := by
  induction ks generalizing bs m with
  | nil => exact (List.length_eq_zero_iff.mp hl).symm
  | cons k ks ih =>
    cases bs with
    | nil => cases hl
    | cons b bs =>
      obtain ⟨hk, hnd⟩ := List.nodup_cons.mp hnd
      have hw := cellSet_wf m k b h
      rw [List.zip_cons_cons, pokeBytes, List.map_cons, ih hnd (Nat.succ.inj hl) hw,
        cellGet_pokeBytes_other _ _ k hw fun p hp he => hk (he ▸ (List.of_mem_zip hp).1), cellGet_cellSet _ _ _ _ h, if_pos rfl]

theorem length_natBytes (n v : Nat) : (natBytes n v).length = n := by simp [natBytes]

theorem readNat_writeNat {ks : List Nat} {s : State} (v : Nat) (hnd : ks.Nodup) (h : MemInv s) :
    readNat (writeNat ks v s) ks = v % 256 ^ ks.length := by
  have hr : readKeys (writeNat ks v s) ks = natBytes ks.length v := map_cellGet_pokeBytes hnd (length_natBytes ..) h
  rw [readNat, hr, bytesNat_natBytes]

theorem readByte_writeNat_other {ks : List Nat} {s : State} {k : Nat} (v : Nat) (hk : k ∉ ks) (h : MemInv s) :
    readByte (writeNat ks v s) k = readByte s k :=
  cellGet_pokeBytes_other _ _ k h fun _ hp he => hk (he ▸ (List.of_mem_zip hp).1)

theorem keysFrom_nodup (k n : Nat) : (keysFrom k n).Nodup :=
  List.nodup_range.map fun _ _ h => Nat.add_left_cancel h

theorem length_keysFrom (k n : Nat) : (keysFrom k n).length = n := by simp [keysFrom]

/-! ### The fields of a tile by priority -/

theorem toList_getD {α : Type} (v : Vector α 4) (d : α) {q : Nat} (h : q < 4) : v.toList.getD q d = v[q] := by
  rw [List.getD_eq_getElem _ _ (by simpa using h), Vector.getElem_toList]

theorem getElem_map4 {α : Type} (f : Nat → α → α) (v : Vector α 4) {q : Nat} (h : q < 4) : (map4 f v)[q] = f q v[q] := by
  match q, h with
  | 0, _ => rfl
  | 1, _ => rfl
  | 2, _ => rfl
  | 3, _ => rfl

theorem readySlots_setReady (p : Nat) (f : List Nat → List Nat) (t : Tile) {q : Nat} (h : q < 4) :
    readySlots (setReady p f t) q = if q = p then f (readySlots t q) else readySlots t q := by
  rw [readySlots, readySlots, toList_getD _ _ h, toList_getD _ _ h, setReady, getElem_map4 _ _ h]

theorem mem_rq_iff {t : Tile} {l : List Nat} : l ∈ t.rq.toList ↔ ∃ q, q < 4 ∧ readySlots t q = l := by
  constructor
  · intro h
    obtain ⟨q, hq, rfl⟩ := List.getElem_of_mem h
    exact ⟨q, by simpa using hq, List.getD_eq_getElem _ _ hq⟩
  · rintro ⟨q, hq, rfl⟩
    rw [readySlots, toList_getD _ _ hq, ← Vector.getElem_toList (h := by simpa using hq)]
    exact List.getElem_mem _

/-! ### Free slots of the ring -/

/-- While the ring has room, the slot that the next record takes is one of its 512, and no record holds it. -/
theorem freeReady_spec {t : Tile} (h : readyLocal t < 512) : freeReady t < 512 ∧ ∀ q, q < 4 → freeReady t ∉ readySlots t q := by
  unfold freeReady
  cases hf : (List.range 512).find? fun n => t.rq.toList.all fun l => !l.contains n with
  | some k =>
    have hall := List.find?_some hf
    refine ⟨List.mem_range.mp (List.mem_of_find?_eq_some hf), fun q hq (hm : k ∈ _) => ?_⟩
    have hnot := List.all_eq_true.mp hall _ (mem_rq_iff.mpr ⟨q, hq, rfl⟩)
    rw [List.contains_iff_mem.mpr hm] at hnot
    cases hnot
  | none =>
    have hsub : List.range 512 ⊆ t.rq.toList.flatten := by
      intro n hn
      have hnot := List.find?_eq_none.mp hf n hn
      simp only [List.all_eq_true, not_forall, Bool.not_eq_true', Bool.not_eq_false] at hnot
      obtain ⟨l, hl, hc⟩ := hnot
      exact List.mem_flatten.mpr ⟨l, hl, List.contains_iff_mem.mp hc⟩
    have hle := (List.nodup_range.subperm hsub).length_le
    rw [List.length_range, List.length_flatten] at hle
    exact absurd h (not_lt.mpr hle)

/-! ### Appends -/

theorem getTile_enqueue (i : Instr) (s : State) (site : Nat) : getTile (enqueue i s) site = getTile s site := rfl

theorem getTile_writeNat (ks : List Nat) (v : Nat) (s : State) (site : Nat) :
    getTile (writeNat ks v s) site = getTile s site := by
  rw [getTile, getTile, writeNat_frame]

theorem readByte_of_mem {s u : State} (h : u.mem = s.mem) (k : Nat) : readByte u k = readByte s k := by
  rw [readByte, readByte, h]
theorem readNat_of_mem {s u : State} (h : u.mem = s.mem) (ks : List Nat) : readNat u ks = readNat s ks := by
  rw [readNat, readNat, readKeys, readKeys, funext (readByte_of_mem h)]

/-- The state after a record has taken slot `k` of the ring. -/
def appended (site p k : Nat) (r : BitVec 128) (s : State) : State :=
  enqueue (.readyRecordArrival site) (modTile site (setReady p (· ++ [k])) (writeNat (readyKeys site k) r.toNat s))

theorem mem_appended (site p k : Nat) (r : BitVec 128) (s : State) :
    (appended site p k r s).mem = (writeNat (readyKeys site k) r.toNat s).mem := by
  rw [appended, enqueue_mem, modTile_mem]

theorem readNat_appended {s : State} (site p k : Nat) (r : BitVec 128) (h : MemInv s) :
    readNat (appended site p k r s) (readyKeys site k) = r.toNat := by
  rw [readNat_of_mem (mem_appended ..), readNat_writeNat (ks := readyKeys site k) _ (keysFrom_nodup ..) h, readyKeys,
    length_keysFrom]
  exact Nat.mod_eq_of_lt (lt_of_lt_of_eq r.isLt (by norm_num))

/-- A record appended stands last of its priority. -/
theorem readySlots_appended {site p k q : Nat} {r : BitVec 128} {s : State} (hq : q < 4) :
    readySlots (getTile (appended site p k r s) site) q =
      if q = p then readySlots (getTile s site) q ++ [k] else readySlots (getTile s site) q := by
  rw [appended, getTile_enqueue, getTile_modTile_same, readySlots_setReady _ _ _ hq, getTile_writeNat]

theorem appendReady_held {site p : Nat} {r : BitVec 128} {s : State} (h : (getTile s site).rqHeld = true) :
    appendReady site p r s = (false, s) := if_pos h

/-- A ring with room takes the record, at its priority's tail. -/
theorem appendReady_ring {site p : Nat} {r : BitVec 128} {s : State} (hh : (getTile s site).rqHeld = false)
    (hr : readyLocal (getTile s site) < 512) (hs : spillHeld (getTile s site) p = 0) :
    appendReady site p r s = (true, appended site p (freeReady (getTile s site)) r s) := by
  unfold appendReady
  dsimp only
  rw [if_neg (by simp [hh]), if_pos ⟨hr, hs⟩, appended]

/-! ### Pops -/

/-- Where nothing is spilled, nothing moves back. -/
theorem refillReady_none {site p : Nat} {s : State} (n : Nat) (h : spillHeld (getTile s site) p = 0) :
    refillReady site p n s = s := by
  cases n with
  | zero => rfl
  | succ n => exact if_pos (.inl h)

/-- Nothing of a tile's ready queue is spilled. -/
def NothingSpilled (t : Tile) : Prop := ∀ p, p < 4 → spillHeld t p = 0

theorem refillAllReady_none {site : Nat} {s : State} (h : NothingSpilled (getTile s site)) : refillAllReady site s = s := by
  simp only [refillAllReady, List.foldl_cons, List.foldl_nil]
  rw [refillReady_none _ (h 0 (by decide)), refillReady_none _ (h 1 (by decide)), refillReady_none _ (h 2 (by decide)),
    refillReady_none _ (h 3 (by decide))]

theorem popPrio_spec {t : Tile} {p : Nat} (h : popPrio t = some p) :
    p < 4 ∧ readyCount t p ≠ 0 ∧ ((p = 3 ∧ 63 ≤ t.guard) ∨ ∀ q, q < p → readyCount t q = 0) := by
  unfold popPrio at h
  split at h
  · next hg =>
    cases h
    exact ⟨by decide, hg.2, .inl ⟨rfl, hg.1⟩⟩
  · obtain ⟨hp, l, r, hl, hbefore⟩ := List.find?_eq_some_iff_append.mp h
    have hmem : p ∈ [0, 1, 2, 3] := List.mem_of_find?_eq_some h
    have hsort : (l ++ p :: r).Pairwise (· < ·) := hl ▸ (by decide)
    refine ⟨by simp only [List.mem_cons, List.not_mem_nil, or_false] at hmem; omega, by simpa using hp, .inr fun q hq => ?_⟩
    have hq4 : q ∈ l ++ p :: r := hl ▸ (by
      simp only [List.mem_cons, List.not_mem_nil, or_false] at hmem ⊢
      omega : q ∈ [0, 1, 2, 3])
    obtain hql | hqr := List.mem_append.mp hq4
    · simpa using hbefore q hql
    · obtain rfl | hqr := List.mem_cons.mp hqr
      · exact absurd hq (lt_irrefl _)
      · exact absurd (List.rel_of_pairwise_cons (List.pairwise_append.mp hsort).2.1 hqr) (lt_asymm hq)

/-- The state after a pop from the ring, where no record is spilled. -/
def popped (p : Nat) (s : State) : State :=
  let u := modTile s.cur.site (fun t => { t with guard := if p = 3 then 0 else min 63 (t.guard + 1) })
    (modTile s.cur.site (setReady p (List.drop 1)) s)
  if (myTile s).rqHeld ∧ 1024 ≤ (myTile s).rqSpillKib then enqueue (.readyQueueHeldEnd s.cur.site 1024) u else u

theorem popped_frame (p : Nat) (s : State) :
    popped p s = { s with tiles := (popped p s).tiles, internal := (popped p s).internal } := by
  unfold popped
  dsimp only
  split <;> rfl

theorem getTile_popped (p : Nat) (s : State) : getTile (popped p s) s.cur.site =
    { setReady p (List.drop 1) (myTile s) with
      guard := if p = 3 then 0 else min 63 ((setReady p (List.drop 1) (myTile s)).guard + 1) } := by
  unfold popped
  dsimp only
  split
  · rw [getTile_enqueue, getTile_modTile_same, getTile_modTile_same]
    rfl
  · rw [getTile_modTile_same, getTile_modTile_same]
    rfl

theorem readySlots_popped {s : State} {p q : Nat} (hq : q < 4) : readySlots (getTile (popped p s) s.cur.site) q =
    if q = p then (readySlots (myTile s) q).drop 1 else readySlots (myTile s) q := by
  rw [getTile_popped]
  exact readySlots_setReady _ _ _ hq

/-- A pop takes the oldest record of the ring, where no record is spilled. -/
theorem popReady_ring {s : State} {p k : Nat} {l : List Nat} (hp : popPrio (myTile s) = some p)
    (hk : readySlots (myTile s) p = k :: l) (hs : NothingSpilled (myTile s)) :
    popReady s = (some ⟨p, BitVec.ofNat 128 (readNat s (readyKeys s.cur.site k)),
        poisonRead s (readyKeys s.cur.site k)⟩, popped p s) := by
  have hold : oldestReady s.cur.site p s = (some (readyKeys s.cur.site k), modTile s.cur.site (setReady p (List.drop 1)) s) := by
    unfold oldestReady
    dsimp only
    rw [show readySlots (getTile s s.cur.site) p = k :: l from hk]
  unfold popReady
  dsimp only
  rw [hp]
  dsimp only
  rw [hold]
  dsimp only
  rw [refillAllReady_none (by rw [getTile_modTile_same, getTile_modTile_same]; exact hs)]
  rfl

end Sys2Proof.Machine
end

section
/-!
PROOFS. Tasks enter and leave the ready queue (O42): the strands that wait for a record, and the instructions.
-/

namespace Sys2Proof.Machine

open Sys2Proof.Safety

/-! ### Boundaries with nothing due -/

theorem takePending_quiet {t : Strand} (r : Word) (h : Quiet t) : takePending r t = t := by
  obtain ⟨-, htimer, hwake, hnone⟩ := h
  unfold takePending
  rw [latchDue_idle t htimer hwake]
  dsimp only
  obtain hh | hl := hnone
  · exact if_pos hh
  · rw [hl]
    split <;> rfl

/-! ### The strands that wait for a record -/

/-- The ticket of a strand that waits for a record (R300). -/
def recordTicket (t : Strand) : Option Nat :=
  match t.wait with
  | some ⟨.record, _, n, _⟩ => some n
  | some ⟨.ready, .tspawn .., _, _⟩ => none
  | some ⟨.ready, _, n, _⟩ => some n
  | _ => none

theorem readyWaiters_eq (site : Nat) (s : State) : readyWaiters site s = (inTickets recordTicket s).filter (·.site == site) := rfl

theorem recordTicket_of_wait {t u : Strand} (h : t.wait = u.wait) : recordTicket t = recordTicket u := by
  rw [recordTicket, recordTicket, h]

theorem mem_inTickets {f : Strand → Option Nat} {s : State} {e : SRef} :
    e ∈ inTickets f s ↔ ∃ p ∈ s.strands, (f p.2).isSome = true ∧ srefOf p.1 = e := by
  unfold inTickets
  simp only [List.mem_map, List.mem_insertionSort, List.mem_filterMap, Option.map_eq_some_iff, Option.isSome_iff_exists]
  constructor
  · rintro ⟨_, ⟨p, hp, n, hn, rfl⟩, rfl⟩
    exact ⟨p, hp, ⟨n, hn⟩, rfl⟩
  · rintro ⟨p, hp, ⟨n, hn⟩, rfl⟩
    exact ⟨_, ⟨p, hp, n, hn, rfl⟩, rfl⟩

theorem readyWaiters_nil_iff {site : Nat} {s : State} :
    readyWaiters site s = [] ↔ ∀ p ∈ s.strands, (srefOf p.1).site = site → recordTicket p.2 = none := by
  rw [readyWaiters_eq, List.filter_eq_nil_iff]
  constructor
  · intro h p hp hs
    by_contra hn
    exact h _ (mem_inTickets.mpr ⟨p, hp, Option.isSome_iff_ne_none.mpr hn, rfl⟩) (by simpa using hs)
  · intro h e he hs
    obtain ⟨p, hp, hf, rfl⟩ := mem_inTickets.mp he
    rw [h p hp (by simpa using hs)] at hf
    cases hf

/-- Every strand of `u` waits for nothing, or for what it waits for in `s`. -/
def WaitsLess (s u : State) : Prop := ∀ p ∈ u.strands, p.2.wait = none ∨ ∃ t, (p.1, t) ∈ s.strands ∧ p.2.wait = t.wait

theorem waitsLess_trans {s t u : State} (h : WaitsLess s t) (h' : WaitsLess t u) : WaitsLess s u := by
  intro p hp
  obtain hn | ⟨x, hx, he⟩ := h' p hp
  · exact .inl hn
  · obtain hn | ⟨y, hy, he'⟩ := h _ hx
    · exact .inl (he.trans hn)
    · exact .inr ⟨y, hy, he.trans he'⟩

theorem readyWaiters_nil_of {site : Nat} {s u : State} (h : WaitsLess s u) (hs : readyWaiters site s = []) :
    readyWaiters site u = [] := by
  rw [readyWaiters_nil_iff] at hs ⊢
  intro p hp hsite
  obtain hn | ⟨t, ht, he⟩ := h p hp
  · rw [recordTicket, hn]
  · rw [recordTicket_of_wait he]
    exact hs _ ht hsite

theorem mem_of_lookup {α : Type} {t : Tab α} {k : Nat} {v : α} (h : lookup t k = some v) : (k, v) ∈ t := by
  induction t with
  | nil => cases h
  | cons p r ih =>
    obtain ⟨j, w⟩ := p
    unfold lookup at h
    split at h
    · next hj =>
      cases h
      exact hj ▸ List.mem_cons_self
    · exact List.mem_cons_of_mem _ (ih h)

theorem mem_tset {α : Type} {t : Tab α} {k : Nat} {v : α} {p : Nat × α} (h : p ∈ tset t k v) : p = (k, v) ∨ p ∈ t := by
  induction t with
  | nil => exact .inl (List.mem_singleton.mp h)
  | cons q r ih =>
    obtain ⟨j, w⟩ := q
    unfold tset at h
    split at h
    · obtain rfl | h := List.mem_cons.mp h
      · exact .inl rfl
      · exact .inr (List.mem_cons_of_mem _ h)
    · obtain rfl | h := List.mem_cons.mp h
      · exact .inr List.mem_cons_self
      · exact (ih h).imp_right (List.mem_cons_of_mem _)

theorem modMe_waitsLess {f : Strand → Strand} (s : State) (hf : ∀ t, (f t).wait = t.wait) : WaitsLess s (modMe f s) := by
  intro p hp
  obtain rfl | hp := mem_tset hp
  · cases hl : lookup s.strands (skey s.cur) with
    | none => exact .inl ((hf _).trans (by rw [getStrand, hl, Option.getD_none, Strand.atReset]; split <;> rfl))
    | some t => exact .inr ⟨t, mem_of_lookup hl, (hf _).trans (by rw [getStrand, hl, Option.getD_some])⟩
  · exact .inr ⟨p.2, hp, rfl⟩

theorem readyIn_waitsLess (n : Nat) (s : State) : WaitsLess s (readyIn n s) := modMe_waitsLess s fun _ => rfl

theorem endMwait_wait (t : Strand) : (endMwait t).wait = none ∨ (endMwait t).wait = t.wait := by
  unfold endMwait
  split
  · exact .inl rfl
  · exact .inr rfl

theorem touchStrand_wait (ks : List Nat) (t : Strand) : (touchStrand ks t).wait = none ∨ (touchStrand ks t).wait = t.wait := by
  unfold touchStrand
  dsimp only
  split
  · exact endMwait_wait _
  · exact .inr rfl

theorem writeBytes_waitsLess (l : List (Nat × Byte)) (s : State) : WaitsLess s (writeBytes l s) := by
  intro p hp
  obtain ⟨q, hq, rfl⟩ := List.mem_map.mp hp
  exact (touchStrand_wait _ q.2).imp_right fun h => ⟨q.2, hq, h⟩

/-- Where no strand waits for a record, its arrival does nothing. -/
theorem serveReady_none {site : Nat} {s : State} (h : readyWaiters site s = []) : serveReady site s = s := by
  unfold serveReady
  rw [h]
  rfl

/-! ### TSPAWN (R299) -/

theorem execTspawn_badTarget {g : Guard} {prio : Fin 4} {a b c : XReg} {s : State} (hg : guardVal g s = true)
    (ht : targetOk (rx s a) = false) : execTspawn g prio a b c s = .next (raise .addr (rx s a) s) := by
  rw [execTspawn, guarded_true _ hg, ht]
  rfl

theorem execTspawn_eq {g : Guard} {prio : Fin 4} {a b c : XReg} {s : State} (hg : guardVal g s = true)
    (ht : targetOk (rx s a) = true) (hp : s.pend = []) (hw : readyWaiters s.cur.site s = []) :
    execTspawn g prio a b c s = .next (spawn (.tspawn g prio a b c) prio a b c s) := by
  have hd : drainAll s.cur s = s := drain_none fun p hmem => by rw [hp] at hmem; cases hmem
  rw [execTspawn, guarded_true _ hg, ht, serveReady_none hw, hd]
  rfl

/-! ### TEND and TNEXT (R300) -/

theorem execTend_illegal {g : Guard} {s : State} (hg : guardVal g s = true) (h : (me s).task = false ∨ (me s).handler = true) :
    execTend g s = .next (raise .illegal (me s).pc s) := by
  rw [execTend, guarded_true _ hg, taskOnly]
  refine if_pos ?_
  obtain h | h := h
  · exact .inr (by simp [h])
  · exact .inl h

theorem execTend_eq {g : Guard} {s : State} (hg : guardVal g s = true) (hh : (me s).handler = false) (ht : (me s).task = true)
    (hw : readyWaiters s.cur.site s = []) : execTend g s = .next (endTask (.tend g) .ready s) := by
  rw [execTend, guarded_true _ hg, taskOnly, if_neg (by simp [hh, ht]), serveReady_none hw]

theorem endTask_trap {i : Instr} {s : State} (ha : asyncDue s = true) (hp : (popPrio (myTile s)).isSome = true) :
    endTask i .ready s = trapFirst s :=
  if_pos ⟨by decide, ha, hp⟩

/-- A task that ends takes the next record, where no trap comes first. -/
theorem endTask_pop {i : Instr} {obj : WaitObj} {s : State} (h : obj = .record ∨ asyncDue s = false ∨ popPrio (myTile s) = none) :
    endTask i obj s = match popReady s with
      | (some r, s) => startRecord r s
      | (none, s) => waitFor .waitq obj i 0 s := by
  refine if_neg fun hc => ?_
  obtain ⟨ho, ha, hp⟩ := hc
  obtain h | h | h := h
  · exact ho h
  · exact Bool.false_ne_true (h.symm.trans ha)
  · rw [h] at hp
    cases hp

theorem execTnext_illegal {g : Guard} {o : Option PReg} {s : State} (hg : guardVal g s = true) (h : (me s).handler = true) :
    execTnext g o s = .next (raise .illegal (me s).pc s) := by
  rw [execTnext, guarded_true _ hg, taskOnly]
  exact if_pos (.inl h)

/-- What TNEXT does once the strands that wait are served. -/
def nextTask (g : Guard) (o : Option PReg) (s : State) : Res :=
  if asyncDue s ∧ (popPrio (myTile s)).isSome then .next (trapFirst s)
  else match popReady s, o with
    | (some r, s), some pd => .next (startRecord r (if r.bad.isSome then s else wp pd true s))
    | (some r, s), none => .next (startRecord r s)
    | (none, s), some pd => .next (next (wp pd false s))
    | (none, s), none => .next (waitFor .waitq .ready (.tnext g o) 0 s)

theorem execTnext_eq {g : Guard} {o : Option PReg} {s : State} (hg : guardVal g s = true) (hh : (me s).handler = false)
    (hw : readyWaiters s.cur.site s = []) : execTnext g o s = nextTask g o s := by
  rw [execTnext, guarded_true _ hg, taskOnly, if_neg (by simp [hh]), serveReady_none hw]
  rfl

theorem nextTask_trap {g : Guard} {o : Option PReg} {s : State} (ha : asyncDue s = true)
    (hp : (popPrio (myTile s)).isSome = true) : nextTask g o s = .next (trapFirst s) := if_pos ⟨ha, hp⟩

theorem nextTask_pop {g : Guard} {o : Option PReg} {s : State} (h : asyncDue s = false ∨ popPrio (myTile s) = none) :
    nextTask g o s = match popReady s, o with
      | (some r, s), some pd => .next (startRecord r (if r.bad.isSome then s else wp pd true s))
      | (some r, s), none => .next (startRecord r s)
      | (none, s), some pd => .next (next (wp pd false s))
      | (none, s), none => .next (waitFor .waitq .ready (.tnext g o) 0 s) := by
  refine if_neg fun hc => ?_
  obtain h | h := h
  · exact Bool.false_ne_true (h.symm.trans hc.1)
  · rw [h] at hc
    exact Bool.false_ne_true hc.2

/-! ### The start of a record (R20) -/

/-- The context of a strand that starts a record. -/
def recordStrand (r : Popped) (site : Nat) (t : Strand) : Strand :=
  { xSet 1 (recArg r.rec_) (xSet 30 (recFrame r.rec_) t) with
    task := true, run := .run, wait := none, flight := none, home := site, hprio := r.prio,
    pc := BitVec.ofNat 64 (recCode r.rec_) }

/-- A record that is whole starts: the strand's context is set from it, and nothing else changes but what loads may find. -/
theorem startRecord_quiet {r : Popped} {s : State} (hb : r.bad = none) (hr : recBad r.rec_ = false) (hq : Quiet (me s)) :
    startRecord r s = modMe (recordStrand r s.cur.site) (acquireS s.cur s) := by
  have hme : me (acquireS s.cur s) = me s := rfl
  obtain ⟨hhalt, htimer, hwake, hnone⟩ := hq
  have hquiet : Quiet (recordStrand r s.cur.site (me s)) := ⟨hhalt, htimer, hwake, hnone⟩
  unfold startRecord
  dsimp only
  rw [hb]
  dsimp only
  rw [hr, if_neg Bool.false_ne_true, finish_running _ _ (by rw [me_modMe]; exact hhalt), modMe_modMe]
  exact congrArg (setStrand _ _) (takePending_quiet _ hquiet)

/-- A started strand has the argument in x1 and the frame in x30, and its other registers as before. -/
theorem xGet_recordStrand (r : Popped) (site : Nat) (t : Strand) (q : XReg) : xGet (recordStrand r site t) q =
    if q = 1 then recArg r.rec_ else if q = 30 then recFrame r.rec_ else xGet t q := by
  refine (xGet_xSet 1 q (recArg r.rec_) (xSet 30 (recFrame r.rec_) t)).trans ?_
  rw [xGet_xSet]
  simp

theorem toNat_recCode (r : BitVec 128) : (BitVec.ofNat 64 (recCode r)).toNat = r.toNat % 2 ^ 18 := by
  have hfld : recCode r = r.toNat % 2 ^ 18 := by simp [recCode, fld, BitVec.extractLsb']
  rw [BitVec.toNat_ofNat, hfld]
  omega

theorem startRecord_poison {r : Popped} {s : State} {k : Nat} (hb : r.bad = some k) (hk : isLocalKey k = true) :
    startRecord r s = raiseLate .uncorr (localAbs k) s := by
  unfold startRecord
  dsimp only
  rw [hb]
  exact congrArg (fun a => raiseLate .uncorr a s) (if_pos hk)

/-! ### TJOIN (R301) -/

theorem localKeys_cases (s : State) (a : Word) (n : Nat) : localKeys s a n = [] ∨ ∃ k, localKeys s a n = keysFrom k n := by
  unfold localKeys
  split
  · exact .inr ⟨_, rfl⟩
  · exact .inl rfl

theorem performStore_tjoin {g : Guard} {m : MemOp} {a : Word} {ks : List Nat} {s : State} (hne : ks ≠ [])
    (hp : poisonRead s ks = none) : performStore (.tjoin g m) 0 0 0 [⟨0, a, ks⟩] s =
      (writeNat ks ((readNat s ks + (2 ^ 64 - 1)) % 2 ^ 64) s, []) := by
  simp [performStore, isRmw, rmwNew, hne, hp]

/-- The decrement, with nothing handed off and the counter in the own tile. -/
theorem completeJoin_own {g : Guard} {m : MemOp} {a : Word} {ks : List Nat} {s : State} (hd : s.pend = []) (hne : ks ≠ [])
    (hp : poisonRead s ks = none) : completeJoin (.tjoin g m) [⟨0, a, ks⟩] s =
      (let u := writeNat ks ((readNat s ks + (2 ^ 64 - 1)) % 2 ^ 64) s
       let t := acquireS u.cur u
       if readNat u ks = 0 then next t else endTask (.tjoin g m) .record (serveReady t.cur.site t)) := by
  have hdrain : drainAll s.cur s = s := drain_none fun p hmem => by rw [hd] at hmem; cases hmem
  unfold completeJoin
  dsimp only
  rw [hdrain, performStore_tjoin hne hp]
  simp [hne]

theorem execTjoin_own {g : Guard} {m : MemOp} {s : State} {a : Word} {ks : List Nat} (hg : guardVal g s = true)
    (hh : (me s).handler = false) (ht : (me s).task = true) (hd : s.pend = []) (hc : checkLocal s m 8 8 .atomic = .ok a)
    (hk : localKeys s a 8 = ks) (ho : ownTile s ks = true) :
    execTjoin g m s = .next (completeJoin (.tjoin g m) [⟨0, a, ks⟩] (readyIn 4 s)) := by
  unfold execTjoin
  dsimp only
  rw [guarded_true _ hg, taskOnly, if_neg (by simp [hh, ht]), hc]
  dsimp only
  rw [hk, if_pos ⟨ho, by simp [hd]⟩]

/-- The counter of a TJOIN after its decrement. -/
theorem readNat_decremented {k : Nat} {s : State} (hm : MemInv s) :
    readNat (writeNat (keysFrom k 8) ((readNat s (keysFrom k 8) + (2 ^ 64 - 1)) % 2 ^ 64) (readyIn 4 s)) (keysFrom k 8) =
      (readNat s (keysFrom k 8) + (2 ^ 64 - 1)) % 2 ^ 64 := by
  refine (readNat_writeNat (s := readyIn 4 s) _ (keysFrom_nodup ..) hm).trans ?_
  rw [length_keysFrom]
  exact Nat.mod_eq_of_lt (Nat.mod_lt _ (by decide))

theorem readNat_word_lt (k : Nat) (s : State) : readNat s (keysFrom k 8) < 2 ^ 64 := by
  have h := bytesNat_lt (readKeys s (keysFrom k 8))
  rwa [readKeys, List.length_map, length_keysFrom] at h

theorem join_count {n : Nat} (h : n < 2 ^ 64) : (n + (2 ^ 64 - 1)) % 2 ^ 64 = 0 ↔ n = 1 := by omega

end Sys2Proof.Machine
end

section
open Sys2Proof Sys2Proof.Machine Sys2Proof.Safety

/-- Settles O42: the ring's free slot, the pop by priority, and one equation per instruction. -/
theorem tasksEnterAndLeaveTheReadyQueue : Obligations.TasksEnterAndLeaveTheReadyQueue := by
  unfold Obligations.TasksEnterAndLeaveTheReadyQueue
  refine ⟨fun site p r s hm hp => ⟨fun hh => ?_, fun hh hr hs => ?_⟩, ⟨fun t p hp => (popPrio_spec hp).2, ?_⟩, ?_, ?_, ?_, ?_⟩
  · exact appendReady_held hh
  · obtain ⟨hfree, hnot⟩ := freeReady_spec hr
    refine ⟨_, appended site p _ r s, appendReady_ring hh hr hs, hfree, hnot, ?_, fun q hq hne => ?_,
      readNat_appended _ _ _ _ hm, fun k hk => ?_⟩
    · rw [readySlots_appended hp, if_pos rfl]
    · rw [readySlots_appended hq, if_neg hne]
    · rw [readByte_of_mem (mem_appended ..), readByte_writeNat_other _ hk hm]
  · intro s p k l hp hk hs
    have hf := popped_frame p s
    refine ⟨_, popReady_ring hp hk hs, ?_, fun q hq hne => ?_, by rw [hf], by rw [hf]⟩
    · rw [readySlots_popped (popPrio_spec hp).1, if_pos rfl, hk, List.drop_one, List.tail_cons]
    · rw [readySlots_popped hq, if_neg hne]
  · intro g prio a b c s hg
    refine ⟨execTspawn_badTarget hg, fun ht hd hw u => ⟨fun ha => ?_, fun ha => ?_⟩⟩
    · refine (execTspawn_eq hg ht hd hw).trans ?_
      rw [spawn, ha]
      rfl
    · refine (execTspawn_eq hg ht hd hw).trans ?_
      rw [spawn, ha]
      rfl
  · intro g pd s hg
    refine ⟨execTend_illegal hg, fun hh o => execTnext_illegal hg hh, fun hh hw => ⟨fun ha hp => ⟨fun ht => ?_, fun o => ?_⟩,
      fun hn => ⟨fun u hu => ⟨fun ht => ?_, ?_, ?_⟩, fun r u hu => ⟨fun ht => ?_, ?_, ?_⟩⟩⟩⟩
    · exact (execTend_eq hg hh ht hw).trans (by rw [endTask_trap ha hp])
    · exact (execTnext_eq hg hh hw).trans (nextTask_trap ha hp)
    · exact (execTend_eq hg hh ht hw).trans (by rw [endTask_pop (.inr hn), hu])
    · exact (execTnext_eq hg hh hw).trans (by rw [nextTask_pop hn, hu])
    · exact (execTnext_eq hg hh hw).trans (by rw [nextTask_pop hn, hu])
    · exact (execTend_eq hg hh ht hw).trans (by rw [endTask_pop (.inr hn), hu])
    · exact (execTnext_eq hg hh hw).trans (by rw [nextTask_pop hn, hu])
    · exact (execTnext_eq hg hh hw).trans (by rw [nextTask_pop hn, hu])
  · intro r s
    refine ⟨fun k => startRecord_poison, fun hb hr hq => ?_⟩
    dsimp only
    rw [startRecord_quiet hb hr hq]
    have hme := me_modMe (recordStrand r s.cur.site) (acquireS s.cur s)
    have hx (q : XReg) := (congrArg (xGet · q) hme).trans (xGet_recordStrand ..)
    refine ⟨?_, (hx 1).trans rfl, (hx 30).trans rfl, by rw [hme]; rfl, by rw [hme]; rfl, by rw [hme]; rfl,
      fun q _ h1 h30 => (hx q).trans ?_, by rw [hme]; rfl, by rw [hme]; rfl, rfl, fun k hk => getStrand_modMe_other _ _ hk⟩
    · rw [hme]
      exact toNat_recCode r.rec_
    · rw [if_neg h1, if_neg h30]
      rfl
  · intro g m s a ks hg hm hh ht hd hc hk hne ho hp
    have hx : exec (.tjoin g m) s = _ := execTjoin_own hg hh ht hd hc hk ho
    obtain ⟨k, rfl⟩ : ∃ k, ks = keysFrom k 8 := by
      obtain hnil | ⟨k, he⟩ := localKeys_cases s a 8
      · exact absurd (hk.symm.trans hnil) hne
      · exact ⟨k, hk.symm.trans he⟩
    rw [hx, completeJoin_own (s := readyIn 4 s) hd hne hp]
    have hzero : readNat (writeNat (keysFrom k 8) ((readNat s (keysFrom k 8) + (2 ^ 64 - 1)) % 2 ^ 64) (readyIn 4 s)) (keysFrom k 8) = 0 ↔
        readNat s (keysFrom k 8) = 1 := by
      rw [readNat_decremented hm]
      exact join_count (readNat_word_lt k s)
    refine ⟨fun h1 => ?_, fun h1 hw => ?_⟩
    · refine ⟨acquireS s.cur (writeNat (keysFrom k 8) 0 (readyIn 4 s)), ?_, rfl⟩
      refine congrArg Host.Outcome.next ((if_pos (hzero.mpr h1)).trans ?_)
      show next (acquireS s.cur (writeNat (keysFrom k 8) ((readNat s (keysFrom k 8) + (2 ^ 64 - 1)) % 2 ^ 64) (readyIn 4 s))) = _
      rw [h1, show (1 + (2 ^ 64 - 1)) % 2 ^ 64 = 0 from rfl]
    · have hless : WaitsLess s (writeNat (keysFrom k 8) ((readNat s (keysFrom k 8) + (2 ^ 64 - 1)) % 2 ^ 64) (readyIn 4 s)) :=
        waitsLess_trans (readyIn_waitsLess 4 s) (writeBytes_waitsLess _ _)
      refine ⟨acquireS s.cur (writeNat (keysFrom k 8) ((readNat s (keysFrom k 8) + (2 ^ 64 - 1)) % 2 ^ 64) (readyIn 4 s)),
        congrArg Host.Outcome.next ((if_neg (mt hzero.mp h1)).trans ?_), rfl⟩
      exact congrArg (endTask (.tjoin g m) .record) (serveReady_none (readyWaiters_nil_of hless hw))

end

section
/-!
PROOFS. The events of tasks (O43): arrivals, the end of HELD, and what balancing takes from a queue's tail (R24, R25).
-/

namespace Sys2Proof.Machine

open Sys2Proof.Safety

/-! ### Arrivals (R300) -/

/-- The one strand that waits takes the record that has arrived, where no trap comes first. -/
theorem serveReady_one {site : Nat} {s u : State} {w : SRef} {r : Popped} (hw : readyWaiters site s = [w])
    (hp : popWaits (asStrand w s) = false) (hr : popReady (asStrand w s) = (some r, u)) :
    serveReady site s = asStrand s.cur (startRecord r (endWait w u)) := by
  unfold serveReady
  dsimp only
  rw [hw, List.foldl_cons, List.foldl_nil, if_neg (by rw [hp]; exact fun h => Bool.false_ne_true h.1), hr]

/-! ### The end of HELD (R22) -/

theorem inTickets_of_strands {f : Strand → Option Nat} {s u : State} (h : u.strands = s.strands) :
    inTickets f u = inTickets f s := by rw [inTickets, inTickets, h]
theorem readyWaiters_of_strands {s u : State} (site : Nat) (h : u.strands = s.strands) :
    readyWaiters site u = readyWaiters site s := by rw [readyWaiters, readyWaiters, inTickets_of_strands h]
theorem spawnWaiters_of_strands {s u : State} (site : Nat) (h : u.strands = s.strands) :
    spawnWaiters site u = spawnWaiters site s := by rw [spawnWaiters, spawnWaiters, inTickets_of_strands h]

/-- With nothing spilled the area is resized without a move of records. -/
theorem resizeReady_none {site : Nat} (kib : Nat) {s : State} (h : NothingSpilled (getTile s site)) :
    ∃ u, resizeReady site kib s = some u ∧ u = { s with tiles := u.tiles } ∧
      getTile u site = { getTile s site with rqSpillKib := max (getTile s site).rqSpillKib (min 1024 kib) } := by
  have hnone : ([0, 1, 2, 3].flatMap fun p => (List.range (spillHeld (getTile s site) p)).map fun i =>
      (p, (spillCounts (getTile s site) p).1 + i)) = [] := by
    simp [h 0 (by decide), h 1 (by decide), h 2 (by decide), h 3 (by decide)]
  unfold resizeReady
  dsimp only
  split
  · next he => exact ⟨s, rfl, rfl, by rw [he]⟩
  · rw [hnone]
    exact ⟨_, rfl, rfl, getTile_modTile_same ..⟩

theorem takeFault_frame (die : Nat) (f : BitVec 256 → Bool) (s : State) :
    takeFault die f s = { s with dies := (takeFault die f s).dies, internal := (takeFault die f s).internal } := by
  unfold takeFault
  split
  · rfl
  · dsimp only
    unfold modDie
    split <;> split <;> rfl

theorem getTile_of_tiles {s u : State} (h : u.tiles = s.tiles) (site : Nat) : getTile u site = getTile s site := by
  rw [getTile, getTile, h]

/-- The tile whose HELD ends, and its kept records gone. -/
def released (kib : Nat) (t : Tile) : Tile :=
  { t with rqSpillKib := max t.rqSpillKib (min 1024 kib), rqHeld := false, rqKept := [] }

/-- HELD ends where nothing is spilled or kept and no strand waits: the tile alone changes, and what the pager has taken. -/
theorem readyQueueHeldEnd_quiet {site kib : Nat} {s : State} (hrole : roleHeld s (dieOf site) 1 = false)
    (hheld : (getTile s site).rqHeld = true) (hkept : (getTile s site).rqKept = []) (hsp : spawnWaiters site s = [])
    (hw : readyWaiters site s = []) (hf : (getJob s (getTile s site).job).frozen = false)
    (hs : NothingSpilled (getTile s site)) (hkib : 0 < max (getTile s site).rqSpillKib (min 1024 kib)) :
    ∃ u, execReadyQueueHeldEnd site kib s = .next u ∧
      u = { s with tiles := u.tiles, dies := u.dies, internal := u.internal } ∧
      getTile u site = released kib (getTile s site) := by
  obtain ⟨v, hv, hframe, htile⟩ := resizeReady_none kib hs
  have hvs : v.strands = s.strands := by rw [hframe]
  have hroom : ([0, 1, 2, 3].any fun p => decide (spillCap (getTile v site) ≤ spillHeld (getTile v site) p)) = false := by
    have hcap : 0 < spillCap (getTile v site) := by rw [htile]; exact Nat.mul_pos hkib (by decide)
    have hspill (p : Nat) (hp : p < 4) : spillHeld (getTile v site) p = 0 := by rw [htile]; exact hs p hp
    simp [hspill, hcap.ne']
  have hkept' : (getTile v site).rqKept = [] := by rw [htile]; exact hkept
  unfold execReadyQueueHeldEnd
  rw [hrole, if_neg Bool.false_ne_true, if_neg (by simp [hheld, hf]), hv]
  dsimp only
  rw [hroom, if_neg Bool.false_ne_true, hkept', List.foldl_nil]
  have hfault := takeFault_frame (dieOf site) (fun r => fld r 64 32 == 0 && fld r 96 12 == (getTile v site).logical) v
  generalize takeFault _ _ v = w at hfault
  have hwtile : getTile w site = getTile v site := getTile_of_tiles (by rw [hfault]) site
  have hws : (modTile site (fun t => { t with rqHeld := false, rqKept := [] }) w).strands = s.strands := by
    rw [modTile_strands, hfault, ← hvs]
  rw [refillAllReady_none (by rw [getTile_modTile_same, hwtile, htile]; exact hs),
    serveReady_none (by rw [readyWaiters_of_strands _ hws]; exact hw), spawnWaiters_of_strands _ hws, hsp, List.foldl_nil]
  refine ⟨_, rfl, ?_, ?_⟩
  · rw [hfault, hframe]
    rfl
  · refine (getTile_of_tiles (s := modTile site (fun t => { t with rqHeld := false, rqKept := [] }) w) rfl site).trans ?_
    rw [getTile_modTile_same, hwtile, htile]
    rfl

/-! ### Balancing (R24) -/

theorem readyCount_of_nothingSpilled {t : Tile} {p : Nat} (h : NothingSpilled t) (hp : p < 4) :
    readyCount t p = (readySlots t p).length := by rw [readyCount, h p hp, Nat.add_zero]

theorem migratable_of_nothingSpilled {t : Tile} (h : NothingSpilled t) :
    migratable t = (readySlots t 2).length + (readySlots t 3).length := by
  rw [migratable, readyCount_of_nothingSpilled h (by decide), readyCount_of_nothingSpilled h (by decide)]

/-- `u` is `s` after `k` records of priorities 2 and 3 have left the ready queue of a tile where nothing is spilled. -/
structure Stolen (site k : Nat) (s u : State) : Prop where
  frame : u = { s with tiles := u.tiles }
  ring : NothingSpilled (getTile u site)
  count : migratable (getTile u site) = migratable (getTile s site) - k
  first : readySlots (getTile u site) 0 = readySlots (getTile s site) 0
  second : readySlots (getTile u site) 1 = readySlots (getTile s site) 1

theorem stolen_zero {site : Nat} {s : State} (h : NothingSpilled (getTile s site)) : Stolen site 0 s s :=
  ⟨rfl, h, rfl, rfl, rfl⟩

theorem stolen_trans {site j k : Nat} {s t u : State} (h : Stolen site j s t) (h' : Stolen site k t u) :
    Stolen site (j + k) s u := by
  refine ⟨?_, h'.ring, by rw [h'.count, h.count, Nat.sub_sub], h'.first.trans h.first, h'.second.trans h.second⟩
  rw [h'.frame, h.frame]

/-- One record of priority 2 or 3 leaves from its tail. -/
theorem newestReady_ring {site p : Nat} {s : State} (hs : NothingSpilled (getTile s site)) (hp : p = 2 ∨ p = 3)
    (hne : readyCount (getTile s site) p ≠ 0) :
    ∃ ks u, newestReady site p s = (some ks, u) ∧ Stolen site 1 s u := by
  have hp4 : p < 4 := by omega
  rw [readyCount_of_nothingSpilled hs hp4] at hne
  obtain ⟨k, hk⟩ : ∃ k, (readySlots (getTile s site) p).getLast? = some k :=
    Option.ne_none_iff_exists'.mp fun h => hne (by rw [List.getLast?_eq_none_iff.mp h]; rfl)
  have hslots (q : Nat) (hq : q < 4) : readySlots (getTile (modTile site (setReady p List.dropLast) s) site) q =
      if q = p then (readySlots (getTile s site) q).dropLast else readySlots (getTile s site) q := by
    rw [getTile_modTile_same, readySlots_setReady _ _ _ hq]
  have hring : NothingSpilled (getTile (modTile site (setReady p List.dropLast) s) site) := by
    rw [getTile_modTile_same]
    exact hs
  refine ⟨readyKeys site k, modTile site (setReady p List.dropLast) s, ?_, rfl, hring, ?_, ?_, ?_⟩
  · unfold newestReady
    dsimp only
    rw [if_pos (hs p hp4), hk]
  · rw [migratable_of_nothingSpilled hring, migratable_of_nothingSpilled hs, hslots 2 (by decide), hslots 3 (by decide)]
    obtain rfl | rfl := hp
    · rw [if_pos rfl, if_neg (by decide), List.length_dropLast]
      omega
    · rw [if_neg (by decide), if_pos rfl, List.length_dropLast]
      omega
  · rw [hslots 0 (by decide), if_neg (by omega)]
  · rw [hslots 1 (by decide), if_neg (by omega)]

/-- Records of priorities 3 and 2. -/
def Migrants (l : List (Nat × BitVec 128 × List Bool)) : Prop := ∀ r ∈ l, r.1 = 3 ∨ r.1 = 2

theorem stealTail_ring {site k : Nat} {l : List (Nat × BitVec 128 × List Bool)} {s : State}
    (hs : NothingSpilled (getTile s site)) (hk : k ≤ migratable (getTile s site)) (hl : Migrants l) :
    ∃ m u, stealTail site k l s = (m, u) ∧ m.length = l.length + k ∧ Migrants m ∧ Stolen site k s u := by
  induction k generalizing l s with
  | zero => exact ⟨l, s, rfl, rfl, hl, stolen_zero hs⟩
  | succ k ih =>
    have hp : ∃ p, (if readyCount (getTile s site) 3 ≠ 0 then 3 else 2) = p ∧ (p = 2 ∨ p = 3) ∧ readyCount (getTile s site) p ≠ 0 := by
      by_cases h3 : readyCount (getTile s site) 3 = 0
      · rw [migratable, h3] at hk
        exact ⟨2, if_neg (not_not.mpr h3), .inl rfl, by omega⟩
      · exact ⟨3, if_pos h3, .inr rfl, h3⟩
    obtain ⟨p, hsel, hp, hne⟩ := hp
    obtain ⟨ks, t, hnew, hone⟩ := newestReady_ring hs hp hne
    obtain ⟨m, u, hm, hlen, hmig, hrest⟩ := ih (l := (p, BitVec.ofNat 128 (readNat t ks), taintOf ks t) :: l) hone.ring
      (by rw [hone.count]; omega) (List.forall_mem_cons.mpr ⟨hp.symm, hl⟩)
    refine ⟨m, u, ?_, by rw [hlen, List.length_cons]; omega, hmig, ?_⟩
    · rw [stealTail, hsel, hnew]
      exact hm
    · rw [Nat.add_comm]
      exact stolen_trans hone hrest

theorem length_migrants {l : List (Nat × BitVec 128 × List Bool)} (h : Migrants l) :
    (l.filter (·.1 == 3) ++ l.filter (·.1 == 2)).length = l.length := by
  induction l with
  | nil => rfl
  | cons r l ih =>
    obtain ⟨hr, hl⟩ := List.forall_mem_cons.mp h
    have ih := ih hl
    rw [List.length_append] at ih ⊢
    obtain hr | hr := hr <;> simp [hr] <;> omega

theorem sendRecord_frame (n site : Nat) (p : Fin 4) (r : BitVec 128) (bad : List Bool) (s : State) :
    (sendRecord n site p r bad s).tiles = s.tiles ∧ (sendRecord n site p r bad s).internal.length = s.internal.length + 1 := by
  unfold sendRecord
  split <;> exact ⟨rfl, List.length_append⟩

/-- Records leave through the agenda; the tiles stay as they are. -/
theorem sendRecords_frame (n site : Nat) (l : List (Nat × BitVec 128 × List Bool)) (s : State) :
    let u := l.foldl (fun s r => sendRecord n site (if r.1 = 2 then 2 else 3) r.2.1 r.2.2 s) s
    u.tiles = s.tiles ∧ u.internal.length = s.internal.length + l.length := by
  induction l generalizing s with
  | nil => exact ⟨rfl, rfl⟩
  | cons r l ih =>
    obtain ⟨ht, hi⟩ := ih (sendRecord n site (if r.1 = 2 then 2 else 3) r.2.1 r.2.2 s)
    have hone := sendRecord_frame n site (if r.1 = 2 then 2 else 3) r.2.1 r.2.2 s
    refine ⟨ht.trans hone.1, hi.trans ?_⟩
    rw [hone.2, List.length_cons]
    omega

/-- The records that a link takes: at most 8, a quarter of the difference. -/
def linkShare (mine theirs : Nat) : Nat := if theirs < mine then min 8 ((mine - theirs) / 4) else 0

theorem serveLink_ring {site dir n mine theirs : Nat} {s : State} (hn : neighbour s site dir = some n)
    (ht : (getTile s site).snaps.toList.getD dir none = some theirs) (hm : mine ≤ migratable (getTile s site))
    (hs : NothingSpilled (getTile s site)) :
    ∃ t u, serveLink site (mine, s) dir = (mine - linkShare mine theirs, u) ∧ Stolen site (linkShare mine theirs) s t ∧
      u.tiles = t.tiles ∧ u.internal.length = s.internal.length + linkShare mine theirs := by
  unfold serveLink linkShare
  dsimp only
  rw [hn, ht]
  dsimp only
  by_cases hle : mine ≤ theirs
  · rw [if_pos hle, if_neg (by omega)]
    exact ⟨s, s, rfl, stolen_zero hs, rfl, rfl⟩
  · rw [if_neg hle, if_pos (by omega)]
    obtain ⟨m, t, hst, hlen, hmig, hstolen⟩ := stealTail_ring (l := []) (k := min 8 ((mine - theirs) / 4)) hs (by omega)
      (fun _ h => by cases h)
    rw [List.length_nil, Nat.zero_add] at hlen
    rw [hst]
    dsimp only
    rw [refillAllReady_none hstolen.ring]
    obtain ⟨htiles, hint⟩ := sendRecords_frame n site (m.filter (·.1 == 3) ++ m.filter (·.1 == 2)) t
    rw [length_migrants hmig, hlen] at hint ⊢
    refine ⟨t, _, rfl, hstolen, htiles, hint.trans ?_⟩
    rw [hstolen.frame]

/-! ### The balance tick (R24) -/

/-- The figure of a tile, sent to its neighbour in a direction. -/
def sendSnapshot (site mine : Nat) (s : State) (d : Nat) : State :=
  match neighbour s site d with
  | some n => enqueue (.balanceSnapshotArrival n ⟨(d + 2) % 4, by omega⟩ mine) s
  | none => s

theorem sendSnapshot_frame (site mine : Nat) (s : State) (d : Nat) : AgendaFrame s (sendSnapshot site mine s d) := by
  unfold sendSnapshot
  split <;> rfl

theorem mem_sendSnapshot {site mine d : Nat} {s : State} {i : Instr} (h : i ∈ s.internal) :
    i ∈ (sendSnapshot site mine s d).internal := by
  unfold sendSnapshot
  split
  · exact List.mem_append_left _ h
  · exact h

theorem mem_sendSnapshots {site mine : Nat} {ds : List Nat} {s : State} {i : Instr} (h : i ∈ s.internal) :
    i ∈ (ds.foldl (sendSnapshot site mine) s).internal := by
  induction ds generalizing s with
  | nil => exact h
  | cons d ds ih => exact ih (mem_sendSnapshot h)

theorem neighbour_of_agenda {s t : State} (h : AgendaFrame s t) (site d : Nat) : neighbour t site d = neighbour s site d := by
  rw [h]
  rfl

/-- Each neighbour's snapshot is on its way. -/
theorem sendSnapshots_neighbour {site mine d n : Nat} {ds : List Nat} {s : State} (hd : d ∈ ds) (hn : neighbour s site d = some n) :
    .balanceSnapshotArrival n ⟨(d + 2) % 4, by omega⟩ mine ∈ (ds.foldl (sendSnapshot site mine) s).internal := by
  induction ds generalizing s with
  | nil => cases hd
  | cons c ds ih =>
    rw [List.foldl_cons]
    obtain rfl | hd := List.mem_cons.mp hd
    · refine mem_sendSnapshots ?_
      rw [sendSnapshot, hn]
      exact List.mem_append_right _ List.mem_cons_self
    · exact ih hd (by rw [neighbour_of_agenda (sendSnapshot_frame ..)]; exact hn)

/-- Without a snapshot of the neighbour a link takes nothing. -/
theorem serveLink_noSnapshot {site : Nat} {a : Nat × State} (h : (getTile a.2 site).snaps = Vector.replicate 4 none) (dir : Nat) :
    serveLink site a dir = a := by
  have hnone : (getTile a.2 site).snaps.toList.getD dir none = none := by
    rw [h, Vector.toList_replicate, List.getD_eq_getElem?_getD, List.getElem?_replicate]
    split <;> rfl
  unfold serveLink
  dsimp only
  rw [hnone]
  split
  · next he => cases he
  · rfl

/-- What the tick leaves before it discards the snapshots. -/
def balanced (site : Nat) (s : State) : State :=
  if (getTile s site).rqHeld then s
  else ([0, 1, 2, 3].foldl (serveLink site)
    (migratable (getTile s site), [0, 1, 2, 3].foldl (sendSnapshot site (migratable (getTile s site))) s)).2

theorem execBalanceTick_eq (site : Nat) (s : State) : execBalanceTick site s =
    .next (modTile site (fun t => { t with snaps := Vector.replicate 4 none }) (balanced site s)) := rfl

theorem balanced_noSnapshots {site : Nat} {s : State} (hheld : (getTile s site).rqHeld = false)
    (h : (getTile s site).snaps = Vector.replicate 4 none) :
    balanced site s = [0, 1, 2, 3].foldl (sendSnapshot site (migratable (getTile s site))) s := by
  have hf : AgendaFrame s ([0, 1, 2, 3].foldl (sendSnapshot site (migratable (getTile s site))) s) :=
    agendaFrame_foldl (sendSnapshot_frame _ _) _ s
  rw [balanced, hheld, if_neg Bool.false_ne_true]
  generalize [0, 1, 2, 3].foldl (sendSnapshot site (migratable (getTile s site))) s = u at hf ⊢
  have hu : (getTile u site).snaps = Vector.replicate 4 none := by
    rw [getTile_of_tiles (s := s) (by rw [hf])]
    exact h
  have hlink := serveLink_noSnapshot (a := (migratable (getTile s site), u)) hu
  rw [List.foldl_cons, hlink, List.foldl_cons, hlink, List.foldl_cons, hlink, List.foldl_cons, hlink, List.foldl_nil]

/-! ### Migration (R25) -/

/-- The tile at which a record in transit is appended. -/
def landingSite (site sender : Nat) (s : State) : Nat :=
  if (getTile s site).booth ≠ 0 ∧ boothOf s site = boothOf s sender then site else sender

theorem execRecordMigrationArrival_eq (site sender : Nat) (prio : Fin 4) (r : BitVec 128) (s : State) :
    execRecordMigrationArrival site sender prio r s = .next (landRecord (landingSite site sender s) site sender prio r s) := by
  unfold execRecordMigrationArrival landingSite
  simp only [Bool.and_eq_true, decide_eq_true_eq, beq_iff_eq]

theorem landRecord_clean {dest n site : Nat} {prio : Fin 4} {r : BitVec 128} {s : State}
    (h : s.moved.find? (·.1 == ⟨n, site, prio.val, r⟩) = none) : landRecord dest n site prio r s = deliverRecord dest prio.val r s := by
  unfold landRecord
  dsimp only
  rw [h]

theorem landRecord_poisoned {dest n site : Nat} {prio : Fin 4} {r : BitVec 128} {s : State} {y : Transit × List Bool}
    (h : s.moved.find? (·.1 == ⟨n, site, prio.val, r⟩) = some y) :
    landRecord dest n site prio r s = deliverTainted dest prio.val r y.2 { s with moved := s.moved.erase y } := by
  unfold landRecord
  dsimp only
  rw [h]

theorem deliverRecord_taken {dest p : Nat} {r : BitVec 128} {s u : State} (h : appendReady dest p r s = (true, u)) :
    deliverRecord dest p r s = u := by
  unfold deliverRecord deliverTainted
  dsimp only
  rw [h]
  rfl

theorem deliverRecord_kept {dest p : Nat} {r : BitVec 128} {s u : State} (h : appendReady dest p r s = (false, u)) :
    deliverRecord dest p r s = modTile dest (fun t => { t with rqKept := t.rqKept ++ [(p, r, [])] }) u := by
  unfold deliverRecord deliverTainted
  dsimp only
  rw [h]
  rfl

end Sys2Proof.Machine
end

section
open Sys2Proof Sys2Proof.Machine Sys2Proof.Safety

/-- Settles O43: each event by what it does to the ready queue. -/
theorem taskEvents : Obligations.TaskEvents := by
  unfold Obligations.TaskEvents
  refine ⟨fun site s w r u hw hp hr => congrArg Host.Outcome.next (serveReady_one hw hp hr), fun site kib s => ?_,
    fun site s => ?_, fun site dir n mine theirs s hn ht hm hs => ?_, fun site n dir s => ?_, fun site sender prio r s => ?_⟩
  · intro t hrole
    refine ⟨fun hheld => ?_, fun hheld hkept hsp hw hf hs hkib => ?_⟩
    · show execReadyQueueHeldEnd site kib s = _
      rw [execReadyQueueHeldEnd, hrole, if_neg Bool.false_ne_true, if_pos (.inl (by rw [hheld]; rfl))]
    · obtain ⟨u, hu, hframe, htile⟩ := readyQueueHeldEnd_quiet hrole hheld hkept hsp hw hf hs hkib
      refine ⟨u, hu, by rw [htile]; rfl, by rw [htile]; rfl, fun p => by rw [htile]; rfl, by rw [hframe], by rw [hframe]⟩
  · refine ⟨_, execBalanceTick_eq site s, by rw [getTile_modTile_same], fun hheld => ?_, fun hheld hsnaps => ?_⟩
    · rw [balanced, if_pos hheld]
      exact ⟨rfl, rfl, rfl, fun p => by rw [getTile_modTile_same]; rfl⟩
    · have hf : AgendaFrame s (balanced site s) := by
        rw [balanced_noSnapshots hheld hsnaps]
        exact agendaFrame_foldl (sendSnapshot_frame _ _) _ s
      refine ⟨by rw [modTile_strands, hf], by rw [modTile_mem, hf], fun p => ?_, fun d n hn => ?_⟩
      · rw [getTile_modTile_same, getTile_of_tiles (s := s) (by rw [hf])]
        rfl
      · rw [modTile_internal, balanced_noSnapshots hheld hsnaps]
        exact sendSnapshots_neighbour (by have := d.isLt; simp only [List.mem_cons, List.not_mem_nil, or_false]; omega) hn
  · obtain ⟨t, u, hserve, hstolen, htiles, hint⟩ := serveLink_ring hn ht hm hs
    have htile := getTile_of_tiles htiles site
    dsimp only
    rw [hserve]
    exact ⟨rfl, hint, by rw [htile]; exact hstolen.count, by rw [htile]; exact hstolen.first, by rw [htile]; exact hstolen.second⟩
  · refine ⟨_, rfl, ?_, rfl, rfl⟩
    rw [getTile_modTile_same]
    exact Vector.getElem_set_self _
  · have hx := execRecordMigrationArrival_eq site sender prio r s
    refine ⟨fun hf => ⟨fun u hu => hx.trans ?_, fun u hu => hx.trans ?_⟩, fun y hy => hx.trans ?_⟩
    · exact congrArg Host.Outcome.next ((landRecord_clean hf).trans (deliverRecord_taken hu))
    · exact congrArg Host.Outcome.next ((landRecord_clean hf).trans (deliverRecord_kept hu))
    · exact congrArg Host.Outcome.next (landRecord_poisoned hy)

end

section
/-!
PROOFS. Boot (O59): boot end, and the start of the stewards (R389, R396).
-/

namespace Sys2Proof.Machine

open Sys2Proof.Safety

/-! ### Folds -/

/-- A fold whose every step establishes a fact about its element, and keeps those about the others, establishes all of them. -/
theorem foldl_establishes {σ α : Type} {f : σ → α → σ} {I : σ → Prop} {P : α → σ → Prop} (hI : ∀ s a, I s → I (f s a))
    (hest : ∀ s a, I s → P a (f s a)) (hkeep : ∀ s a b, I s → P a s → P a (f s b)) (l : List α) {s : σ} (hs : I s) :
    I (l.foldl f s) ∧ ∀ a ∈ l, P a (l.foldl f s) := by
  have hrest (l : List α) (a : α) (u : σ) (hu : I u) (ha : P a u) : P a (l.foldl f u) := by
    induction l generalizing u with
    | nil => exact ha
    | cons b l ih => exact ih _ (hI u b hu) (hkeep u a b hu ha)
  induction l generalizing s with
  | nil => exact ⟨hs, fun _ h => by cases h⟩
  | cons b l ih =>
    obtain ⟨hi, hall⟩ := ih (hI s b hs)
    exact ⟨hi, List.forall_mem_cons.mpr ⟨hrest l b _ (hI s b hs) (hest s b hs), hall⟩⟩

/-! ### Strands that start (R83) -/

theorem getStrand_of_strands {s u : State} (h : u.strands = s.strands) (k : Nat) : getStrand u k = getStrand s k := by
  rw [getStrand, getStrand, h]

theorem startStrand_frame (e : SRef) (pc x1 : Word) (task : Bool) (segs : List (Nat × BitVec 128))
    (binds : List (Nat × BitVec 32 × BitVec 32)) (s : State) : startStrand e pc x1 task segs binds s =
      { s with strands := (startStrand e pc x1 task segs binds s).strands,
               olds := (startStrand e pc x1 task segs binds s).olds } := rfl

theorem getStrand_startStrand_other {e : SRef} (pc x1 : Word) (task : Bool) (segs : List (Nat × BitVec 128))
    (binds : List (Nat × BitVec 32 × BitVec 32)) (s : State) {k : Nat} (h : k ≠ skey e) :
    getStrand (startStrand e pc x1 task segs binds s) k = getStrand s k := by
  have hacquire (u : State) : getStrand (acquireAll e u) k = getStrand u k := rfl
  simp only [startStrand, hacquire, seedStrand]
  rw [getStrand_modStrand_other _ _ h, getStrand_setStrand_other _ _ h]

/-- A write leaves a strand that does not wait at its monitors as it was, but for the monitors. -/
theorem touchStrand_running {t : Strand} (ks : List Nat) (h : t.run = .run) :
    touchStrand ks t = { t with mons := (touchStrand ks t).mons } := by
  unfold touchStrand
  dsimp only
  split
  · unfold endMwait
    split
    · next hw _ => exact absurd (h.symm.trans hw) (by decide)
    · rfl
  · rfl

/-! ### The sites of a die -/

theorem isGood_of_fused {s u : State} (h : u.fused = s.fused) (site : Nat) : isGood u site = isGood s site := by
  rw [isGood, isGood, h]

theorem mem_dieSites {s : State} {die i : Nat} (hi : i < 1024) (h : isGood s (1024 * die + i) = true) :
    1024 * die + i ∈ dieSites s die :=
  List.mem_filter.mpr ⟨List.mem_map_of_mem (List.mem_range.mpr hi), h⟩

/-! ### Boot end (R396) -/

/-- The die after the store that ends its boot mode. -/
def bootedDie (die : Nat) (s : State) : State :=
  let nd := readNat s (keysFrom (localKey (siteAt die 0 0) 0x3D0C0) 8)
  modDie die (fun d => { d with phase := if d.phase = .failed then .failed else .stewards, ended := true, nd := nd % 2 ^ 11 }) s

/-- A site takes the place and the number that stand in its local store. -/
def bootTile (s : State) (t : Nat) : State :=
  let c := readNat s (keysFrom (localKey t 0x3D058) 8)
  let n := readNat s (keysFrom (localKey t 0x3D050) 8)
  modTile t (fun u => { u with tx := c / 256 % 32, ty := c / 65536 % 32, logical := n % 1024 }) s

/-- Its strand 0 starts at 0. -/
def bootStrand (s : State) (t : Nat) : State := startStrand ⟨t, 0⟩ 0 0 false [] [] s

theorem endBoot_eq (die : Nat) (s : State) : endBoot die s =
    (dieSites (bootedDie die s) die).foldl bootStrand ((dieSites (bootedDie die s) die).foldl bootTile (bootedDie die s)) := rfl

theorem bootTiles_spec (l : List Nat) (s : State) :
    l.foldl bootTile s = { s with tiles := (l.foldl bootTile s).tiles } ∧
      ∀ t ∈ l, (getTile (l.foldl bootTile s) t).logical = readNat s (keysFrom (localKey t 0x3D050) 8) % 1024 := by
  refine foldl_establishes (s := s) (I := fun u => u = { s with tiles := u.tiles })
    (P := fun t u => (getTile u t).logical = readNat s (keysFrom (localKey t 0x3D050) 8) % 1024) (fun u a hu => ?_)
    (fun u a hu => ?_) (fun u a b hu ha => ?_) l rfl
  · rw [hu]
    rfl
  · rw [bootTile, getTile_modTile_same]
    exact congrArg (· % 1024) (readNat_of_mem (by rw [hu]) _)
  · by_cases hab : a = b
    · rw [← hab, bootTile, getTile_modTile_same]
      exact congrArg (· % 1024) (readNat_of_mem (by rw [hu]) _)
    · rw [bootTile, getTile_modTile_other _ _ hab]
      exact ha

theorem bootStrands_spec (l : List Nat) (s : State) :
    l.foldl bootStrand s = { s with strands := (l.foldl bootStrand s).strands, olds := (l.foldl bootStrand s).olds } ∧
      ∀ t ∈ l, (getStrand (l.foldl bootStrand s) (8 * t)).run = .run ∧ (getStrand (l.foldl bootStrand s) (8 * t)).pc = 0 := by
  have hest (u : State) (a : Nat) : (getStrand (bootStrand u a) (8 * a)).run = .run ∧ (getStrand (bootStrand u a) (8 * a)).pc = 0 := by
    obtain ⟨hrun, hpc, -⟩ := getStrand_startStrand_same ⟨a, 0⟩ 0 0 false [] [] u
    exact ⟨hrun, hpc⟩
  refine foldl_establishes (s := s) (I := fun u => u = { s with strands := u.strands, olds := u.olds })
    (P := fun t u => (getStrand u (8 * t)).run = .run ∧ (getStrand u (8 * t)).pc = 0) (fun u a hu => ?_)
    (fun u a _ => hest u a) (fun u a b _ ha => ?_) l rfl
  · rw [bootStrand, startStrand_frame, hu]
  · by_cases hab : a = b
    · exact hab ▸ hest u b
    · rw [bootStrand, getStrand_startStrand_other _ _ _ _ _ _ (by simp only [skey]; omega)]
      exact ha

theorem bootedDie_frame (die : Nat) (s : State) : bootedDie die s = { s with dies := (bootedDie die s).dies } := by
  dsimp only [bootedDie]
  exact modDie_frame ..

/-- At boot end every good site of the die has its number, and its strand 0 runs at 0. -/
theorem endBoot_spec {die : Nat} (s : State) (hdie : die < 4) :
    bootMode (endBoot die s) die = false ∧ (endBoot die s).mem = s.mem ∧
      (getDie (endBoot die s) die).phase = (if (getDie s die).phase = .failed then .failed else .stewards) ∧
      ∀ i, i < 1024 → isGood s (1024 * die + i) = true →
        (getStrand (endBoot die s) (8 * (1024 * die + i))).run = .run ∧
        (getStrand (endBoot die s) (8 * (1024 * die + i))).pc = 0 ∧
        (getTile (endBoot die s) (1024 * die + i)).logical =
          readNat s (keysFrom (localKey (1024 * die + i) 0x3D050) 8) % 2 ^ 64 % 1024 := by
  have hb := bootedDie_frame die s
  obtain ⟨ht, hlog⟩ := bootTiles_spec (dieSites (bootedDie die s) die) (bootedDie die s)
  obtain ⟨hs, hrun⟩ := bootStrands_spec (dieSites (bootedDie die s) die) ((dieSites (bootedDie die s) die).foldl bootTile (bootedDie die s))
  rw [← endBoot_eq] at hs hrun
  have hdies : (endBoot die s).dies = (bootedDie die s).dies := by rw [hs, ht]
  have hd : getDie (endBoot die s) die = getDie (bootedDie die s) die := by rw [getDie, getDie, hdies]
  have hb' : getDie (bootedDie die s) die = _ := getDie_modDie_same _ _ hdie
  refine ⟨by rw [bootMode, hd, hb']; rfl, by rw [hs, ht, hb], by rw [hd, hb'], fun i hi hg => ?_⟩
  have hmem := mem_dieSites (s := bootedDie die s) hi (by rw [isGood_of_fused (s := s) (by rw [hb])]; exact hg)
  refine ⟨(hrun _ hmem).1, (hrun _ hmem).2, ?_⟩
  rw [getTile_of_tiles (s := (dieSites (bootedDie die s) die).foldl bootTile (bootedDie die s)) (by rw [hs]), hlog _ hmem, readNat_of_mem (s := s) (by rw [hb])]
  omega

end Sys2Proof.Machine
end

section
/-!
PROOFS. The start of the stewards of a die (O59; R389).
-/

namespace Sys2Proof.Machine

open Sys2Proof.Safety

/-- What no step of a fold changes, the fold does not change. -/
theorem foldl_keeps {σ α β : Type} (g : σ → β) {f : σ → α → σ} (h : ∀ s a, g (f s a) = g s) (l : List α) (s : σ) :
    g (l.foldl f s) = g s := by
  induction l generalizing s with
  | nil => rfl
  | cons a l ih => exact (ih _).trans (h s a)

/-- R392: the allocator's commands for yards are on their way, and nothing else changes. -/
theorem setYards_frame (ys : List Nat) (s : State) : AgendaFrame s (setYards ys s) := by
  unfold setYards
  refine agendaFrame_foldl (fun u y => ?_) _ s
  dsimp only
  split
  · split <;> split <;> rfl
  · split <;> rfl

theorem fixTargets_strands (die : Nat) (s : State) : (fixTargets die s).strands = s.strands := by
  unfold fixTargets
  refine foldl_keeps State.strands (fun u p => foldl_keeps State.strands (fun v t => ?_) _ u) _ s
  split
  · rw [modHq, modPort_frame]
  · rfl

theorem writeTileMap_frame (s : State) :
    (writeTileMap s).strands = s.strands ∧ (writeTileMap s).tileMap = s.tileMap := by
  unfold writeTileMap
  constructor
  · refine foldl_keeps State.strands (fun u f => ?_) _ s
    rfl
  · refine foldl_keeps State.tileMap (fun u f => ?_) _ s
    rfl

theorem raiseMinimum_frame (s : State) : raiseMinimum s = { s with minver := (raiseMinimum s).minver } := by
  unfold raiseMinimum
  split
  · dsimp only
    split <;> rfl
  · rfl

theorem loadSteward_fused (die : Nat) (s : State) (x : Nat × Nat × List Byte) : (loadSteward die s x).fused = s.fused := by
  unfold loadSteward
  split <;> rfl

/-- R371: strand 7 of a site runs the idle code in steward privilege. -/
def ReserveIdle (t : Nat) (s : State) : Prop :=
  (getStrand s (8 * t + 7)).run = .run ∧ (getStrand s (8 * t + 7)).pc = 0x3C000 ∧ (getStrand s (8 * t + 7)).priv = true

theorem reserveIdle_iff {t : Nat} {s : State} : ReserveIdle t s ↔ (getStrand s (skey ⟨t, 7⟩)).run = .run ∧
    (getStrand s (skey ⟨t, 7⟩)).pc = 0x3C000 ∧ (getStrand s (skey ⟨t, 7⟩)).priv = true := Iff.rfl

theorem reserveIdle_of_same {t : Nat} {s u : State} (h : getStrand u (8 * t + 7) = getStrand s (8 * t + 7))
    (hs : ReserveIdle t s) : ReserveIdle t u := by
  rw [ReserveIdle, h]
  exact hs

theorem reserveIdle_writeBytes {t : Nat} {s : State} (l : List (Nat × Byte)) (h : ReserveIdle t s) :
    ReserveIdle t (writeBytes l s) := by
  rw [ReserveIdle, getStrand_writeBytes, touchStrand_running _ h.1]
  exact h

/-- The site with its idle code and a zero urgent line. -/
def reserveLoaded (idle : List Byte) (s : State) (t : Nat) : State :=
  setStrand (writeBytes ((keysFrom (urgentKey t) 64).zip (List.replicate 64 0))
    (writeBytes ((keysFrom (localKey t 0x3C000) idle.length).zip idle) s)) (8 * t) (Strand.blank (8 * t))

theorem startReserve_eq (idle : List Byte) (s : State) (t : Nat) :
    startReserve idle s t = startStrand ⟨t, 7⟩ 0x3C000 0 false [] [] (reserveLoaded idle s t) := rfl

theorem startReserve_establishes (idle : List Byte) (s : State) (t : Nat) : ReserveIdle t (startReserve idle s t) := by
  obtain ⟨hrun, hpc, -, -, hpriv⟩ := getStrand_startStrand_same ⟨t, 7⟩ 0x3C000 0 false [] [] (reserveLoaded idle s t)
  rw [reserveIdle_iff, startReserve_eq]
  exact ⟨hrun, hpc, hpriv⟩

theorem startReserve_keeps (idle : List Byte) {s : State} {a : Nat} (b : Nat) (h : ReserveIdle a s) :
    ReserveIdle a (startReserve idle s b) := by
  by_cases hab : a = b
  · subst hab
    exact startReserve_establishes idle s a
  · refine reserveIdle_of_same ?_ (reserveIdle_writeBytes ((keysFrom (urgentKey b) 64).zip (List.replicate 64 0))
      (reserveIdle_writeBytes ((keysFrom (localKey b 0x3C000) idle.length).zip idle) h))
    rw [startReserve_eq, getStrand_startStrand_other _ _ _ _ _ _ (by simp only [skey]; omega), reserveLoaded,
      getStrand_setStrand_other _ _ (by omega)]

theorem startSteward_keeps {die t : Nat} {s : State} (x : Nat × Nat) (h : ReserveIdle t s) :
    ReserveIdle t (startSteward die s x) := by
  unfold startSteward
  split
  · exact reserveIdle_of_same (getStrand_startStrand_other _ _ _ _ _ _ (by simp only [skey]; omega)) h
  · exact h

/-- The state once the stewards of the die run, before the tile map is written. -/
def stewardsStarted (die : Nat) (load : BootLoad) (s : State) : State :=
  let s := load.images.foldl (loadSteward die) s
  let s := (dieSites s die).foldl (startReserve load.idle) s
  fixTargets die (load.entries.foldl (startSteward die) s)

theorem stewardsStarted_reserve {die : Nat} (load : BootLoad) {s : State} {i : Nat} (hi : i < 1024)
    (hg : isGood s (1024 * die + i) = true) : ReserveIdle (1024 * die + i) (stewardsStarted die load s) := by
  have hfused : (load.images.foldl (loadSteward die) s).fused = s.fused :=
    foldl_keeps State.fused (loadSteward_fused die) load.images s
  have hmem := mem_dieSites (s := load.images.foldl (loadSteward die) s) hi (by rw [isGood_of_fused hfused]; exact hg)
  obtain ⟨-, hall⟩ := foldl_establishes (I := fun _ => True) (P := ReserveIdle) (f := startReserve load.idle)
    (fun _ _ _ => trivial) (fun u a _ => startReserve_establishes load.idle u a)
    (fun u a b _ ha => startReserve_keeps load.idle b ha) (dieSites (load.images.foldl (loadSteward die) s) die)
    (s := load.images.foldl (loadSteward die) s) trivial
  refine reserveIdle_of_same (getStrand_of_strands (fixTargets_strands _ _) _) ?_
  exact List.foldlRecOn load.entries _ (hall _ hmem) fun u hu x _ => startSteward_keeps x hu

/-- The tile map is written, and the die is READY. -/
def stewardsReady (die : Nat) (load : BootLoad) (s : State) : State :=
  let s := writeTileMap (if die = 0 then { s with tileMap := load.frames } else s)
  raiseMinimum (modDie die (fun d =>
    { d with phase := .ready, logAt := some load.log, images := load.images, entries := load.entries })
    (measureStewards load s))

theorem stewardsReady_spec {die : Nat} (load : BootLoad) (s : State) (hdie : die < 4) :
    let t := stewardsReady die load s
    (getDie t die).phase = .ready ∧ (getDie t die).logAt = some load.log ∧ (die = 0 → t.tileMap = load.frames) ∧
      t.strands = s.strands := by
  obtain ⟨hstrands, htileMap⟩ := writeTileMap_frame (if die = 0 then { s with tileMap := load.frames } else s)
  have hmin := raiseMinimum_frame (modDie die (fun d =>
    { d with phase := .ready, logAt := some load.log, images := load.images, entries := load.entries })
    (measureStewards load (writeTileMap (if die = 0 then { s with tileMap := load.frames } else s))))
  have hd : getDie (stewardsReady die load s) die = _ :=
    (congrArg (fun t : State => t.dies.toList.getD die Die.atReset) hmin).trans (getDie_modDie_same _ _ hdie)
  refine ⟨by rw [hd], by rw [hd], fun h0 => ?_, ?_⟩
  · rw [stewardsReady, hmin, modDie_frame]
    exact htileMap.trans (by rw [if_pos h0])
  · rw [stewardsReady, hmin, modDie_frame]
    exact hstrands.trans (by split <;> rfl)

theorem execStewardStart_fits {die : Nat} {load : BootLoad} {s : State} (hdie : die < 4)
    (hphase : (getDie s die).phase = .stewards) (hlog : logFits die load.log = true) (hmap : die = 0 → mapFits load = true) :
    execStewardStart die load s =
      .next (setYards ((List.range 64).map (64 * die + ·)) (stewardsReady die load (stewardsStarted die load s))) :=
  if_pos ⟨hdie, hphase, hlog, hmap⟩

end Sys2Proof.Machine
end

section
/-!
PROOFS. Device reset and the verification of the firmware (O59; R381, R388, R389, R394).
-/

namespace Sys2Proof.Machine

open Sys2Proof.Safety

/-! ### DEVCTL_RESET (R380, R381) -/

theorem execDevctlReset_holds {p : Nat} {s : State} (h : s.sema = portOwner p) : execDevctlReset p s = execDeviceReset s :=
  congrArg Host.Outcome.next (if_pos (beq_iff_eq.mpr h))

theorem execDevctlReset_refused {p : Nat} {s : State} (h : s.sema ≠ portOwner p) :
    execDevctlReset p s = .next (refuseLog (portDie p) (portUnit p) 0x18 0 s) :=
  congrArg Host.Outcome.next (if_neg fun hh => h (beq_iff_eq.mp hh))

/-! ### DEVICE_RESET (R394) -/

/-- The cells that stay of a canonical memory read as before, and the others as unlisted ones. -/
theorem cellGet_filter (f : Nat → Bool) {m : List Host.Cell} (k : Nat) (h : Memory.wf m = true) :
    cellGet (m.filter fun c => f c.1) k = if f k then cellGet m k else memDefault k := by
  induction m with
  | nil => simp [cellGet]
  | cons c r ih =>
    obtain ⟨a, v⟩ := c
    obtain ⟨-, hlt, hr⟩ := (wf_cons a v r).mp h
    have ih := ih hr
    by_cases hfa : f a = true
    · rw [List.filter_cons, if_pos hfa, cellGet, cellGet, ih]
      by_cases hak : a = k
      · subst hak
        simp [hfa]
      · split <;> split <;> simp_all
    · rw [List.filter_cons, if_neg hfa, ih, cellGet]
      by_cases hfk : f k = true
      · have hak : a ≠ k := fun he => hfa (he ▸ hfk)
        rw [if_pos hfk, if_pos hfk, if_neg hak]
        split
        · next hka => exact cellGet_below r k fun p hp => hka.trans (hlt p hp)
        · rfl
      · rw [if_neg hfk, if_neg hfk]

theorem keyOff_localKey {site off : Nat} (h : off < 2 ^ 18) : keyOff (localKey site off) = off := by
  simp only [keyOff, localKey]
  omega

theorem isLocalKey_localKey (site off : Nat) : isLocalKey (localKey site off) = true :=
  decide_eq_true (by simp only [localKey]; omega)

/-- R394: HBM and host memory stay. -/
theorem readByte_powerOn_kept {s : State} {k : Nat} (h : MemInv s) (hk : k < 2 ^ 52) : readByte (powerOn s) k = readByte s k :=
  (cellGet_filter (fun k => !isLocalKey k) k h).trans (if_pos (by simpa [isLocalKey] using hk))

/-- R394: local store is cleared but for the boot ROM. -/
theorem readByte_powerOn_local {s : State} {site off : Nat} (h : MemInv s) (ho : off < 2 ^ 18) :
    readByte (powerOn s) (localKey site off) =
      if 0x3C000 ≤ off ∧ off < 0x3D000 then romByte (off - 0x3C000) else 0 := by
  have hl := isLocalKey_localKey site off
  refine (cellGet_filter (fun k => !isLocalKey k) _ h).trans ((if_neg (by simp [hl])).trans ?_)
  rw [memDefault, hl, keyOff_localKey ho]
  simp only [true_and]

/-! ### The strands after a reset with fused sites (R7) -/

/-- The strands 0 of the fused sites. -/
def fusedBlank (fused : List Nat) : Tab Strand := fused.foldl (fun t f => tset t (8 * f) (Strand.blank (8 * f))) []

/-- Strand 0 of the corner of a die, with the good sites counted. -/
def cornerCounted (s : State) (d : Nat) : Strand :=
  { Strand.atReset (8 * siteAt d 0 0) with
    x := (Strand.atReset (8 * siteAt d 0 0)).x.set 2 (BitVec.ofNat 64 (goodCount s d)) }

/-- The dies with a fused site. -/
def fusedDies (fused : List Nat) : List Nat := (List.range 4).filter fun d => fused.any fun t => t / 1024 == d

theorem fusedStrands_eq (s : State) : fusedStrands s = (fusedDies s.fused).foldl
    (fun t d => tset t (8 * siteAt d 0 0) (cornerCounted s d)) (fusedBlank s.fused) := rfl

theorem mem_fusedDies {fused : List Nat} {d : Nat} : d ∈ fusedDies fused ↔ d < 4 ∧ ∃ t ∈ fused, t / 1024 = d := by
  simp [fusedDies]

/-- A fold of table updates lists at a key what the update of that key sets, and leaves the keys of no update. -/
theorem lookup_foldl_tset {α : Type} {key : Nat → Nat} (hkey : Function.Injective key) (v : Nat → α) (l : List Nat)
    (t : Tab α) (k : Nat) :
    (∀ a ∈ l, lookup (l.foldl (fun t a => tset t (key a) (v a)) t) (key a) = some (v a)) ∧
      ((∀ a ∈ l, key a ≠ k) → lookup (l.foldl (fun t a => tset t (key a) (v a)) t) k = lookup t k) := by
  have hother (u : Tab α) (a n : Nat) (h : key a ≠ n) : lookup (tset u (key a) (v a)) n = lookup u n := by
    rw [lookup_tset, if_neg (Ne.symm h)]
  refine ⟨(foldl_establishes (I := fun _ => True) (P := fun a u => lookup u (key a) = some (v a)) (fun _ _ _ => trivial)
    (fun u a _ => by rw [lookup_tset, if_pos rfl]) (fun u a b _ ha => ?_) l trivial).2, fun hk => ?_⟩
  · by_cases hab : a = b
    · rw [hab, lookup_tset, if_pos rfl]
    · rw [hother u b _ fun he => hab (hkey he).symm, ha]
  · exact List.foldlRecOn (motive := fun u => lookup u k = lookup t k) l _ rfl fun u hu a ha => (hother u a k (hk a ha)).trans hu

theorem injective_eight : Function.Injective fun f : Nat => 8 * f := fun a b h => by simp only at h; omega
theorem injective_corner : Function.Injective fun d : Nat => 8 * siteAt d 0 0 := fun a b h => by
  simp only [siteAt] at h
  omega

/-- R7: a fused site that is no corner runs nothing. -/
theorem getStrand_powerOn_fused {s : State} {site : Nat} (h : site ∈ s.fused) (hc : site % 1024 ≠ 0) :
    (getStrand (powerOn s) (8 * site)).run = .off := by
  have h1 : lookup (fusedStrands s) (8 * site) = _ := (lookup_foldl_tset injective_corner (cornerCounted s) (fusedDies s.fused)
    (fusedBlank s.fused) (8 * site)).2 fun d _ he => by simp only [siteAt] at he; omega
  have h2 := (lookup_foldl_tset injective_eight (fun f => Strand.blank (8 * f)) s.fused [] 0).1 site h
  have h3 : getStrand (powerOn s) (8 * site) = Strand.blank (8 * site) := by
    show (lookup (fusedStrands s) _).getD _ = _
    rw [h1, fusedBlank, h2]
    rfl
  rw [h3]
  rfl

/-- R7, R394: the corner of a die runs the boot ROM and counts the good sites of its die. -/
theorem getStrand_powerOn_corner {s : State} {d : Nat} (hd : d < 4) (h : 1024 * d ∉ s.fused) :
    (getStrand (powerOn s) (8 * (1024 * d))).run = .run ∧
      (getStrand (powerOn s) (8 * (1024 * d))).x.get 2 = BitVec.ofNat 64 (goodCount s d) := by
  have hkey : 8 * (1024 * d) = 8 * siteAt d 0 0 := by simp [siteAt]
  have hat : (Strand.atReset (8 * siteAt d 0 0)).run = .run ∧ (Strand.atReset (8 * siteAt d 0 0)).x.get 2 = 1024 := by
    have h8 : 8 * siteAt d 0 0 % 8 = 0 := by omega
    have hx : 8 * siteAt d 0 0 / 8 % 1024 = 0 := by simp only [siteAt]; omega
    rw [Strand.atReset, if_pos h8, if_pos hx]
    exact ⟨rfl, rfl⟩
  obtain ⟨hset, hsame⟩ := lookup_foldl_tset injective_corner (cornerCounted s) (fusedDies s.fused) (fusedBlank s.fused)
    (8 * siteAt d 0 0)
  rw [hkey]
  by_cases hm : d ∈ fusedDies s.fused
  · have he : getStrand (powerOn s) (8 * siteAt d 0 0) = cornerCounted s d := by
      show (lookup (fusedStrands s) _).getD _ = _
      rw [fusedStrands_eq, hset d hm]
      rfl
    rw [he]
    exact ⟨hat.1, Vector.getElem_set_self _⟩
  · have hnone : ∀ t ∈ s.fused, t / 1024 ≠ d := fun t ht he => hm (mem_fusedDies.mpr ⟨hd, t, ht, he⟩)
    have he : getStrand (powerOn s) (8 * siteAt d 0 0) = Strand.atReset (8 * siteAt d 0 0) := by
      show (lookup (fusedStrands s) _).getD _ = _
      rw [fusedStrands_eq, hsame fun a ha he => hm (injective_corner he ▸ ha), fusedBlank,
        (lookup_foldl_tset injective_eight (fun f => Strand.blank (8 * f)) s.fused [] (8 * siteAt d 0 0)).2 fun f hf he => h
          (by simp only [siteAt] at he; rwa [show 1024 * d = f by omega])]
      rfl
    have hall : goodCount s d = 1024 := by
      rw [goodCount, List.filter_eq_self.mpr fun i hi => ?_, List.length_range]
      have hi := List.mem_range.mp hi
      simp only [isGood, Bool.and_eq_true, decide_eq_true_eq, Bool.not_eq_true', List.contains_eq_mem, decide_eq_false_iff_not]
      exact ⟨by omega, fun hf => hnone _ hf (by omega)⟩
    rw [he, hall]
    exact hat

/-- A count of good sites looks at the fuses alone. -/
theorem goodCount_eq {s : State} {d : Nat} (hd : d < 4) :
    goodCount s d = ((List.range 1024).filter fun i => !s.fused.contains (1024 * d + i)).length := by
  rw [goodCount, List.filter_congr fun i hi => ?_]
  have hi := List.mem_range.mp hi
  rw [isGood, decide_eq_true (by omega), Bool.true_and]

theorem getDie_powerOn {s : State} {d : Nat} (hd : d < 4) : getDie (powerOn s) d = Die.atReset := by
  show (Vector.replicate 4 Die.atReset).toList.getD d _ = _
  rw [Vector.toList_replicate, List.getD_eq_getElem?_getD, List.getElem?_replicate, if_pos hd]
  rfl

/-! ### Verification (R388, R389) -/

theorem issue_verifies {d : Nat} {s : State} (hd : d < 4) (hc : clocked s (1024 * d) = true)
    (hp : (getDie s d).phase = .reset ∨ (getDie s d).phase = .verify) : issue (1024 * d) s = .idle (verifyTurn d s) := by
  have hdie : dieOf (1024 * d) = d := by simp only [dieOf]; omega
  have hv : verifies s (1024 * d) = true := by
    rw [verifies, hdie, decide_eq_true (by omega), show 1024 * d % 1024 = 0 by omega]
    rcases hp with hp | hp <;> rw [hp] <;> rfl
  rw [issue, hc, if_neg (by decide), if_pos hv, hdie]

theorem verifyTurn_reset {d : Nat} {s : State} (hp : (getDie s d).phase = .reset) :
    verifyTurn d s = modDie d (fun d => { d with phase := .verify }) s := if_pos hp

theorem verifyTurn_verify {d : Nat} {s : State} (hp : (getDie s d).phase = .verify) : verifyTurn d s = verifyDie d s :=
  if_neg (by rw [hp]; decide)

/-- R389: the first 16 KiB of a slot's image in the local store of the corner. -/
def loaderPlaced (d n : Nat) (s : State) : State :=
  let bs := slotBytes s n
  let loader := (slotImageBytes bs).take 16384
  { s with
    mem := pokeBytes ((keysFrom (localKey (siteAt d 0 0) 0) loader.length).zip loader) s.mem
    booted := some n
    measured := (s.measured.filter fun m => m.1 != 2) ++ [(2, bs.take (4096 + slotLength bs))] }

theorem verifyDie_valid {d n : Nat} {s : State} (h : ((slotOrder s).find? fun n => slotOk s (slotBytes s n)) = some n) :
    verifyDie d s = modDie d (fun d => { d with phase := .flood }) (loaderPlaced d n s) := by
  rw [verifyDie, h]
  rfl

theorem verifyDie_none {d : Nat} {s : State} (h : ((slotOrder s).find? fun n => slotOk s (slotBytes s n)) = none) :
    verifyDie d s = failDie (if (slotOrder s).any fun n => slotSigned (slotBytes s n) then 2 else 1) s d := by
  rw [verifyDie, h]

/-- The bytes placed are read back, and every other byte stays. -/
theorem readByte_placed {m : List Host.Cell} {k : Nat} {l : List Byte} (h : Memory.wf m = true) :
    (∀ i, i < l.length → cellGet (pokeBytes ((keysFrom k l.length).zip l) m) (k + i) = l.getD i 0) ∧
      ∀ j, j < k ∨ k + l.length ≤ j → cellGet (pokeBytes ((keysFrom k l.length).zip l) m) j = cellGet m j := by
  refine ⟨fun i hi => ?_, fun j hj => cellGet_pokeBytes_other _ _ j h fun p hp he => ?_⟩
  · have hall := map_cellGet_pokeBytes (keysFrom_nodup k l.length) (length_keysFrom k l.length).symm h
    have hat := congrArg (·.getD i 0) hall
    simpa [keysFrom, List.getD_eq_getElem?_getD, hi] using hat
  · obtain ⟨a, ha, he'⟩ := List.mem_map.mp (List.of_mem_zip hp).1
    have := List.mem_range.mp ha
    omega

end Sys2Proof.Machine
end

section
/-!
PROOFS. What a strand that stops or resumes leaves unchanged (R119, R374), for O58 and O59.
-/

namespace Sys2Proof.Machine

open Sys2Proof.Safety

/-! ### A strand that stops (R119) -/

/-- Two states differ at most in what a strand that stops changes: strands, looms, booths, the agenda, and what a report to the
host changes. -/
def StopFrame (s t : State) : Prop :=
  t = { s with strands := t.strands, looms := t.looms, booths := t.booths, internal := t.internal, mem := t.mem,
               poison := t.poison, olds := t.olds, ports := t.ports, out := t.out }

theorem stopFrame_refl (s : State) : StopFrame s s := rfl
theorem stopFrame_trans {s t u : State} (h : StopFrame s t) (h' : StopFrame t u) : StopFrame s u := by
  unfold StopFrame at *
  rw [h', h]

theorem stopFrame_of_agenda {s t : State} (h : AgendaFrame s t) : StopFrame s t := by
  unfold AgendaFrame at h
  unfold StopFrame
  rw [h]

theorem hostPost_stopFrame (job : BitVec 16) (en : BitVec 256) (s : State) : StopFrame s (hostPost job en s) := by
  unfold hostPost
  dsimp only
  split
  · exact stopFrame_refl s
  · unfold StopFrame
    rw [hcqPut_frame]

theorem dropRecords_stopFrame (e : SRef) (s : State) : StopFrame s (dropRecords e s) := by
  unfold dropRecords
  dsimp only
  split <;> rfl

theorem reportDone_stopFrame (bk : Nat) (s : State) : StopFrame s (reportDone bk s) := by
  unfold reportDone
  dsimp only
  split
  · exact stopFrame_trans (stopFrame_trans (t := modBooth bk (fun b => { b with reported := true }) s) rfl
      (stopFrame_of_agenda (setYards_frame _ _))) (hostPost_stopFrame ..)
  · exact stopFrame_refl s

theorem stopStrand_stopFrame (e : SRef) (s : State) : StopFrame s (stopStrand e s) := by
  have h : StopFrame s (reportDone (boothOf s e.site) (dropRecords e (setStrand s (skey e) (Strand.blank (skey e))))) :=
    stopFrame_trans (stopFrame_trans (t := setStrand s (skey e) (Strand.blank (skey e))) rfl (dropRecords_stopFrame _ _))
      (reportDone_stopFrame _ _)
  unfold stopStrand
  dsimp only
  split
  · exact stopFrame_trans h rfl
  · exact h

theorem boundary_stopFrame (e : SRef) (s : State) : StopFrame s (boundary e s) := by
  unfold boundary
  split
  · exact stopStrand_stopFrame e s
  · rfl

/-! ### What the jobs keep -/

/-- The device, the images of frozen jobs, the jobs known and what their requests fixed stay; a job may be listed anew. -/
structure JobsStay (s t : State) : Prop where
  device : t.device = s.device
  frozen : t.frozen = s.frozen
  known : ∀ j, jobKnown s j = true → jobKnown t j = true
  entry : ∀ j, (getJob t j).frozen = (getJob s j).frozen

theorem jobsStay_refl (s : State) : JobsStay s s := ⟨rfl, rfl, fun _ h => h, fun _ => rfl⟩
theorem jobsStay_trans {s t u : State} (h : JobsStay s t) (h' : JobsStay t u) : JobsStay s u :=
  ⟨h'.device.trans h.device, h'.frozen.trans h.frozen, fun j hj => h'.known j (h.known j hj),
    fun j => (h'.entry j).trans (h.entry j)⟩
theorem jobsStay_of_eq {s t : State} (hd : t.device = s.device) (hf : t.frozen = s.frozen) (hj : t.jobs = s.jobs) :
    JobsStay s t :=
  ⟨hd, hf, fun j h => by rw [jobKnown, hj]; exact h, fun j => by rw [getJob, hj]; rfl⟩
theorem jobsStay_of_stop {s t : State} (h : StopFrame s t) : JobsStay s t :=
  jobsStay_of_eq (by rw [h]) (by rw [h]) (by rw [h])
theorem jobsStay_of_agenda {s t : State} (h : AgendaFrame s t) : JobsStay s t := jobsStay_of_stop (stopFrame_of_agenda h)
theorem jobsStay_foldl {α : Type} {f : State → α → State} (hf : ∀ s a, JobsStay s (f s a)) (l : List α) (s : State) :
    JobsStay s (l.foldl f s) := by
  induction l generalizing s with
  | nil => exact jobsStay_refl s
  | cons a l ih => exact jobsStay_trans (hf s a) (ih _)

theorem jobsStay_ite {c : Prop} [Decidable c] {s t u : State} (h : JobsStay s t) (h' : JobsStay s u) :
    JobsStay s (if c then t else u) := by
  split
  · exact h
  · exact h'
theorem jobsStay_asStrand (e : SRef) (s : State) : JobsStay s (asStrand e s) := jobsStay_of_eq rfl rfl rfl
theorem jobsStay_internal (l : List Instr) (s : State) : JobsStay s { s with internal := l } := jobsStay_of_eq rfl rfl rfl

theorem jobKnown_iff {s : State} {j : BitVec 16} : jobKnown s j = true ↔ j ≠ 0 ∧ (lookup s.jobs j.toNat).isSome = true := by
  simp [jobKnown]

theorem jobKnown_modJob {s : State} {j : BitVec 16} (i : BitVec 16) (f : Job → Job) (h : jobKnown s j = true) :
    jobKnown (modJob i f s) j = true := by
  obtain ⟨h0, hl⟩ := jobKnown_iff.mp h
  refine jobKnown_iff.mpr ⟨h0, ?_⟩
  show (lookup (tset s.jobs _ _) _).isSome = true
  rw [lookup_tset]
  split
  · rfl
  · exact hl

theorem jobsStay_modJob (i : BitVec 16) {f : Job → Job} (hf : ∀ j, (f j).frozen = j.frozen) (s : State) :
    JobsStay s (modJob i f s) := by
  refine ⟨rfl, rfl, fun j h => jobKnown_modJob i f h, fun j => ?_⟩
  by_cases hj : j = i
  · rw [hj, getJob_modJob_same, hf]
  · rw [getJob_modJob_other _ _ hj]

/-! ### Killed queues and the engines (R291) -/

theorem releaseQueue_jobsStay (qk : Nat) (s : State) : JobsStay s (releaseQueue qk s) := by
  unfold releaseQueue
  dsimp only
  split
  · refine jobsStay_trans ?_ (jobsStay_modJob _ ?_ _)
    · exact jobsStay_of_eq rfl rfl rfl
    · exact fun _ => rfl
  · exact jobsStay_of_eq rfl rfl rfl

theorem releaseKilled_jobsStay (s : State) : JobsStay s (releaseKilled s) :=
  jobsStay_foldl (f := fun s k => releaseQueue k s) (fun u k => releaseQueue_jobsStay k u) _ s

theorem wakeEngine_jobsStay (s : State) : JobsStay s (wakeEngine s) :=
  jobsStay_trans (releaseKilled_jobsStay s) (jobsStay_of_eq rfl rfl rfl)

theorem wakeUnits_jobsStay (s : State) : JobsStay s (wakeUnits s) := by
  refine jobsStay_trans ?_ (wakeEngine_jobsStay _)
  exact jobsStay_of_eq rfl rfl rfl

/-! ### A strand that resumes (R374) -/

theorem next_jobsStay (s : State) : JobsStay s (next s) :=
  jobsStay_trans (t := setPc ((me s).pc + 12) s) (jobsStay_of_eq rfl rfl rfl) (jobsStay_of_stop (boundary_stopFrame _ _))

theorem reissuePaged_jobsStay (e : SRef) (s : State) : JobsStay s (reissuePaged e s) := by
  unfold reissuePaged
  split <;> exact jobsStay_of_eq rfl rfl rfl

theorem lostWait_jobsStay (e : SRef) (s : State) : JobsStay s (lostWait e s) := by
  unfold lostWait
  dsimp only
  split
  · refine jobsStay_trans ?_ (next_jobsStay _)
    exact jobsStay_of_eq rfl rfl rfl
  · exact jobsStay_of_eq rfl rfl rfl

theorem wakeWait_jobsStay (e : SRef) (s : State) : JobsStay s (wakeWait e s) := by
  unfold wakeWait
  dsimp only
  split
  · refine jobsStay_ite (jobsStay_trans ?_ (jobsStay_asStrand _ _)) (jobsStay_refl s)
    exact jobsStay_trans (t := endWait e s) (jobsStay_of_eq rfl rfl rfl) (jobsStay_of_stop (boundary_stopFrame e _))
  · exact jobsStay_refl s

theorem wakeParked_jobsStay (e : SRef) (s : State) : JobsStay s (wakeParked e s) := by
  unfold wakeParked
  dsimp only
  split <;> exact jobsStay_of_eq rfl rfl rfl

theorem resumeStrand_jobsStay (key : Nat) (t : Strand) (wake : Bool) (s : State) : JobsStay s (resumeStrand key t wake s) := by
  unfold resumeStrand
  dsimp only
  split
  · exact jobsStay_of_eq rfl rfl rfl
  · split
    · exact jobsStay_trans (t := setStrand s key t) (jobsStay_of_eq rfl rfl rfl)
        (jobsStay_trans (wakeParked_jobsStay _ _) (jobsStay_of_eq rfl rfl rfl))
    · exact jobsStay_of_eq rfl rfl rfl
  · have h (u : State) (hu : JobsStay s u) : JobsStay s (asStrand s.cur (wakeWait (srefOf key) (asStrand s.cur
        (lostWait (srefOf key) (reissuePaged (srefOf key) u))))) :=
      jobsStay_trans (jobsStay_trans (jobsStay_trans hu (reissuePaged_jobsStay _ _)) (lostWait_jobsStay _ _))
        (jobsStay_trans (jobsStay_asStrand _ _) (jobsStay_trans (wakeWait_jobsStay _ _) (jobsStay_asStrand _ _)))
    split
    · refine jobsStay_trans (h _ ?_) (jobsStay_internal _ _)
      exact jobsStay_of_eq rfl rfl rfl
    · refine h _ ?_
      exact jobsStay_of_eq rfl rfl rfl

end Sys2Proof.Machine
end

section
/-!
PROOFS. Resumption (R374) and the failure of a device (R375), for O58 and O59.
-/

namespace Sys2Proof.Machine

open Sys2Proof.Safety

/-! ### What the engines' wake changes -/

/-- Two states differ at most in queues, jobs and the agenda. -/
def UnitsFrame (s t : State) : Prop := t = { s with queues := t.queues, jobs := t.jobs, internal := t.internal }

theorem unitsFrame_refl (s : State) : UnitsFrame s s := rfl
theorem unitsFrame_trans {s t u : State} (h : UnitsFrame s t) (h' : UnitsFrame t u) : UnitsFrame s u := by
  unfold UnitsFrame at *
  rw [h', h]

theorem releaseQueue_unitsFrame (qk : Nat) (s : State) : UnitsFrame s (releaseQueue qk s) := by
  unfold releaseQueue
  dsimp only
  split <;> rfl

theorem releaseKilled_unitsFrame (s : State) : UnitsFrame s (releaseKilled s) := by
  unfold releaseKilled
  exact List.foldlRecOn _ _ (unitsFrame_refl s) fun u hu k _ => unitsFrame_trans hu (releaseQueue_unitsFrame k u)

theorem wakeEngine_unitsFrame (s : State) : UnitsFrame s (wakeEngine s) := by
  unfold wakeEngine
  exact unitsFrame_trans (releaseKilled_unitsFrame s) rfl

theorem wakeUnits_unitsFrame (s : State) : UnitsFrame s (wakeUnits s) := by
  refine unitsFrame_trans ?_ (wakeEngine_unitsFrame _)
  rfl

/-! ### One job comes back (R374) -/

theorem modDie_jobsStay (d : Nat) (f : Die → Die) (s : State) : JobsStay s (modDie d f s) := by
  rw [modDie_frame]
  exact jobsStay_of_eq rfl rfl rfl

theorem enqueueOnce_jobsStay (i : Instr) (s : State) : JobsStay s (enqueueOnce i s) :=
  jobsStay_ite (jobsStay_refl s) (jobsStay_of_eq rfl rfl rfl)

theorem dropJobTlb_jobsStay (job : BitVec 16) (s : State) : JobsStay s (dropJobTlb job s) := by
  refine jobsStay_trans ?_ (jobsStay_foldl (fun u d => modDie_jobsStay d _ u) _ _)
  exact jobsStay_of_eq rfl rfl rfl

theorem resumeEvents_jobsStay (v : Saved) (s : State) : JobsStay s (resumeEvents v s) :=
  jobsStay_trans (jobsStay_foldl (fun u _ => enqueueOnce_jobsStay _ u) _ s)
    (jobsStay_foldl (fun u _ => enqueueOnce_jobsStay _ u) _ _)

/-- The bytes, tiles, tables and engines of a saved job as its image holds them: the first half of its resumption. -/
def restoreState (s : State) (v : Saved) : State :=
  let s := v.tiles.foldl resumeTile (dropJobTlb v.job (restoreBytes v s))
  let s := { s with
    queues := v.queues.foldl (fun t q => tset t q.1 q.2) s.queues
    slots := v.slots.foldl (fun t q => tset t q.1 q.2) s.slots
    booths := s.booths.map fun b => if b.1 / 65536 = v.job.toNat then (b.1, { b.2 with watch := 0 }) else b }
  v.cellars.foldl resumeCellar (v.carters.foldl resumeCarter (v.looms.foldl resumeLoom s))

/-- The strands of a saved job go on, and its events: the second half. -/
def restoreStrands (v : Saved) (s : State) : State :=
  let s := readSlots (fun _ x => x.job == v.job) s
  let s := v.strands.foldl (fun s p =>
    let t := match lookup v.ctxs p.1 with | some bs => ctxRead bs p.2 | none => p.2
    resumeStrand p.1 t (getStrand s p.1).wakeDue s) s
  resumeEvents v (v.tiles.foldl (fun s t => writeUrgent 3 v.job s t.1) s)

theorem restoreJob_eq (s : State) (v : Saved) :
    restoreJob s v = restoreStrands v (modJob v.job (fun j => { j with frozen := false }) (restoreState s v)) := rfl

theorem restoreState_jobsStay (s : State) (v : Saved) : JobsStay s (restoreState s v) := by
  have hrestore : JobsStay s (restoreBytes v s) := jobsStay_of_eq rfl rfl rfl
  have htiles (u : State) : JobsStay u (v.tiles.foldl resumeTile u) :=
    jobsStay_foldl (f := resumeTile) (fun _ _ => jobsStay_of_eq rfl rfl rfl) _ u
  have hlooms (u : State) : JobsStay u (v.looms.foldl resumeLoom u) :=
    jobsStay_foldl (f := resumeLoom) (fun _ _ => jobsStay_of_eq rfl rfl rfl) _ u
  have hcarters (u : State) : JobsStay u (v.carters.foldl resumeCarter u) :=
    jobsStay_foldl (f := resumeCarter) (fun _ _ => jobsStay_of_eq rfl rfl rfl) _ u
  have hcellars (u : State) : JobsStay u (v.cellars.foldl resumeCellar u) :=
    jobsStay_foldl (f := resumeCellar) (fun _ _ => jobsStay_of_eq rfl rfl rfl) _ u
  refine jobsStay_trans (jobsStay_trans hrestore (jobsStay_trans (dropJobTlb_jobsStay v.job _) (htiles _)))
    (jobsStay_trans ?_ (jobsStay_trans (hlooms _) (jobsStay_trans (hcarters _) (hcellars _))))
  exact jobsStay_of_eq rfl rfl rfl

/-- The strands of a saved job go on. -/
def restoreStrandsOf (v : Saved) (s : State) : State :=
  v.strands.foldl (fun s p =>
    let t := match lookup v.ctxs p.1 with | some bs => ctxRead bs p.2 | none => p.2
    resumeStrand p.1 t (getStrand s p.1).wakeDue s) s

theorem restoreStrandsOf_jobsStay (v : Saved) (s : State) : JobsStay s (restoreStrandsOf v s) :=
  jobsStay_foldl (fun u _ => resumeStrand_jobsStay _ _ _ u) _ s

theorem writeNat_jobsStay (ks : List Nat) (v : Nat) (s : State) : JobsStay s (writeNat ks v s) := jobsStay_of_eq rfl rfl rfl

theorem writeUrgent_jobsStay (kind : Nat) (job : BitVec 16) (s : State) (site : Nat) :
    JobsStay s (writeUrgent kind job s site) := by
  unfold writeUrgent
  exact writeNat_jobsStay _ _ s

theorem writeUrgents_jobsStay (kind : Nat) (job : BitVec 16) (l : List (Nat × Tile)) (s : State) :
    JobsStay s (l.foldl (fun s t => writeUrgent kind job s t.1) s) := by
  induction l generalizing s with
  | nil => exact jobsStay_refl s
  | cons t l ih => exact jobsStay_trans (writeUrgent_jobsStay kind job s t.1) (ih _)

theorem restoreStrands_jobsStay (v : Saved) (s : State) : JobsStay s (restoreStrands v s) := by
  have hread : JobsStay s (readSlots (fun _ x => x.job == v.job) s) := jobsStay_of_eq rfl rfl rfl
  exact jobsStay_trans (jobsStay_trans hread (restoreStrandsOf_jobsStay v _))
    (jobsStay_trans (writeUrgents_jobsStay 3 v.job v.tiles _) (resumeEvents_jobsStay v _))

/-- The device and the known jobs stay. -/
structure KnownStay (s t : State) : Prop where
  device : t.device = s.device
  known : ∀ j, jobKnown s j = true → jobKnown t j = true

theorem knownStay_refl (s : State) : KnownStay s s := ⟨rfl, fun _ h => h⟩
theorem knownStay_trans {s t u : State} (h : KnownStay s t) (h' : KnownStay t u) : KnownStay s u :=
  ⟨h'.device.trans h.device, fun j hj => h'.known j (h.known j hj)⟩
theorem knownStay_of_jobs {s t : State} (h : JobsStay s t) : KnownStay s t := ⟨h.device, h.known⟩
theorem knownStay_modJob (j : BitVec 16) (f : Job → Job) (s : State) : KnownStay s (modJob j f s) :=
  ⟨rfl, fun _ h => jobKnown_modJob j f h⟩
theorem knownStay_foldl {α : Type} {f : State → α → State} (hf : ∀ s a, KnownStay s (f s a)) (l : List α) (s : State) :
    KnownStay s (l.foldl f s) :=
  List.foldlRecOn l f (knownStay_refl s) fun _ hu a _ => knownStay_trans hu (hf _ a)

theorem restoreJob_known (s : State) (v : Saved) : KnownStay s (restoreJob s v) :=
  knownStay_trans (knownStay_of_jobs (restoreState_jobsStay s v))
    (knownStay_trans (knownStay_modJob _ _ _) (knownStay_of_jobs (restoreStrands_jobsStay v _)))

theorem restoreJob_frozen (s : State) (v : Saved) : (restoreJob s v).frozen = s.frozen :=
  (restoreStrands_jobsStay v _).frozen.trans (restoreState_jobsStay s v).frozen

/-- R374: the job resumed is no longer frozen, and the others are as they were. -/
theorem getJob_restoreJob_frozen (s : State) (v : Saved) (j : BitVec 16) :
    (getJob (restoreJob s v) j).frozen = if j = v.job then false else (getJob s j).frozen := by
  rw [restoreJob_eq, (restoreStrands_jobsStay v _).entry]
  split
  · next h => rw [h, getJob_modJob_same]
  · next h => rw [getJob_modJob_other _ _ h, (restoreState_jobsStay s v).entry]

/-! ### RESUME (R374) -/

/-- What had been held goes on. -/
def resumeRest (vs : List Saved) (s : State) : State :=
  wakeUnits (vs.foldl (fun s v => v.queues.foldl (fun s q => wakeQueue q.1 s) s) s)

theorem resumeSaved_eq (vs : List Saved) (s : State) : resumeSaved vs s = resumeRest vs { vs.foldl restoreJob s with
    frozen := (vs.foldl restoreJob s).frozen.filter fun v => !vs.any fun w => w.job == v.job } := rfl

theorem resumeRest_jobsStay (vs : List Saved) (s : State) : JobsStay s (resumeRest vs s) := by
  have hqueues (u : State) (v : Saved) : JobsStay u (v.queues.foldl (fun s q => wakeQueue q.1 s) u) :=
    jobsStay_foldl (f := fun s (q : Nat × Queue) => wakeQueue q.1 s) (fun w q => jobsStay_of_agenda (wakeQueue_frame q.1 w)) _ u
  exact jobsStay_trans (jobsStay_foldl hqueues vs s) (wakeUnits_jobsStay _)

theorem resumeSaved_known (vs : List Saved) (s : State) : KnownStay s (resumeSaved vs s) := by
  refine knownStay_trans (knownStay_foldl restoreJob_known vs s) (knownStay_trans ?_ (knownStay_of_jobs (resumeRest_jobsStay vs _)))
  exact ⟨rfl, fun _ h => h⟩

theorem resumeSaved_frozen (vs : List Saved) (s : State) :
    (resumeSaved vs s).frozen = s.frozen.filter fun v => !vs.any fun w => w.job == v.job := by
  rw [resumeSaved_eq, (resumeRest_jobsStay vs _).frozen, foldl_keeps State.frozen restoreJob_frozen]

/-- R374: the jobs that resume are no longer frozen. -/
theorem getJob_resumeSaved_frozen {vs : List Saved} {v : Saved} (hv : v ∈ vs) (s : State) :
    (getJob (resumeSaved vs s) v.job).frozen = false := by
  rw [resumeSaved_eq, (resumeRest_jobsStay vs _).entry]
  refine (foldl_establishes (I := fun _ => True) (P := fun v u => (getJob u v.job).frozen = false) (fun _ _ _ => trivial)
    (fun u a _ => ?_) (fun u a b _ ha => ?_) vs (s := s) trivial).2 v hv
  · rw [getJob_restoreJob_frozen, if_pos rfl]
  · rw [getJob_restoreJob_frozen]
    split
    · rfl
    · exact ha

/-- With no job that resumes, only what the engines' wake changes. -/
theorem resumeSaved_nil (s : State) : UnitsFrame s (resumeSaved [] s) := by
  have h : resumeSaved [] s = wakeUnits s := by
    rw [resumeSaved_eq]
    simp only [List.foldl_nil, List.any_nil, Bool.not_false, List.filter_true]
    rfl
  rw [h]
  exact wakeUnits_unitsFrame s

end Sys2Proof.Machine
end

section
/-!
PROOFS. The failure of a device, the restart of a steward, and boot and reset as a whole (O59; R28, R374, R375).
-/

namespace Sys2Proof.Machine

open Sys2Proof.Safety

/-! ### The failure of a device (R374, R375) -/

theorem jobKnown_of_jobs {s t : State} (h : t.jobs = s.jobs) (j : BitVec 16) : jobKnown t j = jobKnown s j := by
  rw [jobKnown, h, jobKnown]

theorem knownStay_of_eq {s t : State} (hd : t.device = s.device) (hj : t.jobs = s.jobs) : KnownStay s t :=
  ⟨hd, fun j h => (jobKnown_of_jobs hj j).trans h⟩

/-- R374: the tables of a job but for the waiters of its futures. -/
def restoreEntries (s : State) (v : Saved) : State :=
  { s with
    jobs := tset s.jobs v.job.toNat v.entry
    roots := v.roots.foldl (fun t r => tset t r.1 r.2) (s.roots.filter fun r => r.1 % 65536 != v.job.toNat)
    booths := v.booths.foldl (fun t b => tset t b.1 b.2) s.booths
    freeFut := v.free.foldl (fun t f => tset t f.1 f.2) s.freeFut
    txwin := v.tx.foldl (fun t w => tset t w.1 w.2) s.txwin
    rxwin := v.rx.foldl (fun t w => tset t w.1 w.2) s.rxwin
    pathS := v.pathS.filter (fun p => !s.pathS.any fun q => q.1 == p.1) ++ s.pathS
    pathR := s.pathR ++ v.pathR.filter fun p => !s.pathR.any fun q => q.1 == p.1
    wstores := s.wstores.map (retireStore v) ++ v.wstores }

theorem restoreTables_eq (s : State) (v : Saved) :
    restoreTables s v = v.futures.foldl (restoreWaiters v) (restoreEntries s v) := rfl

theorem restoreWaiters_known (v : Saved) (s : State) (p : Nat × Future) : KnownStay s (restoreWaiters v s p) := by
  unfold restoreWaiters
  refine List.foldlRecOn (motive := KnownStay s) _ _ ?_ fun u hu n _ => ?_
  · exact knownStay_of_eq rfl rfl
  · split
    · exact knownStay_trans hu (knownStay_of_eq rfl rfl)
    · exact hu

theorem restoreTables_known {s : State} {v : Saved} (h0 : v.job ≠ 0) : jobKnown (restoreTables s v) v.job = true := by
  rw [restoreTables_eq]
  refine (knownStay_foldl (restoreWaiters_known v) v.futures _).known _ (jobKnown_iff.mpr ⟨h0, ?_⟩)
  show (lookup (tset s.jobs v.job.toNat v.entry) v.job.toNat).isSome = true
  rw [lookup_tset, if_pos rfl]
  rfl

theorem restoreTables_device (s : State) (v : Saved) : (restoreTables s v).device = s.device := by
  rw [restoreTables_eq]
  exact (knownStay_foldl (restoreWaiters_known v) v.futures _).device

/-- R332: what the paths of a window that start again held is no longer out. -/
def restartPeers (s : State) (w : Nat) : State :=
  s.pathS.foldl (fun u p => if p.1.win = w then
    modPeer (txDevice (txEntry u w) p.1.branch) (fun q =>
      { q with out := q.out - (p.2.held.map fun x => x.1.size).sum, timing := q.timing.filter fun x => x.1 != p.1 }) u else u) s

theorem restartPath_eq (s : State) (w : Nat) : restartPath s w =
    { restartPeers s w with pathS := (restartPath s w).pathS, wstores := (restartPath s w).wstores } := rfl

theorem restartPath_known (s : State) (w : Nat) : KnownStay s (restartPath s w) := by
  have hpeers : KnownStay s (restartPeers s w) := by
    refine List.foldlRecOn (motive := KnownStay s) _ _ (knownStay_refl s) fun u hu p _ => ?_
    split
    · exact knownStay_trans hu (knownStay_of_eq rfl rfl)
    · exact hu
  rw [restartPath_eq]
  exact knownStay_trans hpeers (knownStay_of_eq rfl rfl)

theorem adopt_known (vs : List Saved) (s : State) : KnownStay s (adopt vs s) := by
  unfold adopt
  refine knownStay_trans ?_ (resumeSaved_known _ _)
  have hheld (l : List Saved) : KnownStay s (l.foldl (fun s v => modJob v.job (fun j => { j with frozen := true }) s) s) :=
    knownStay_foldl (f := fun s (v : Saved) => modJob v.job (fun j => { j with frozen := true }) s)
      (fun u v => knownStay_modJob _ _ u) l s
  exact ⟨(hheld _).device, (hheld _).known⟩

theorem adopt_nil (s : State) : UnitsFrame s (adopt [] s) := by
  have h : adopt [] s = resumeSaved [] s := by
    rw [adopt]
    simp only [List.filter_nil, List.map_nil, List.foldl_nil, List.append_nil]
  rw [h]
  exact resumeSaved_nil s

/-- R374: one job of a failed device as its image holds it, its paths started again. -/
def takeOverJob (s : State) (v : Saved) : State := v.tx.foldl (fun s w => restartPath s w.1) (restoreTables s v)

theorem takeOverJob_known (s : State) (v : Saved) : KnownStay (restoreTables s v) (takeOverJob s v) :=
  knownStay_foldl (fun u w => restartPath_known u w.1) v.tx _

theorem takeOver_none {dev : Nat} {s : State} (h : s.checkpoint.filter (fun v => v.device == dev) = []) :
    takeOver dev s = adopt [] { s with device := dev } := by
  have hvs : (s.checkpoint.filter fun v => v.device == dev && !jobKnown s v.job) = [] := by
    rw [List.filter_eq_nil_iff] at h ⊢
    intro v hv hb
    exact h v hv (Bool.and_eq_true_iff.mp hb).1
  simp only [takeOver, hvs, List.filter_nil, List.append_nil, List.foldl_nil]

/-- The one image of a failed device is that of a job which this device does not know: its job comes, frozen or not. -/
theorem takeOver_one {dev : Nat} {s : State} {v : Saved} (h : s.checkpoint = [v]) (hd : v.device = dev)
    (hk : jobKnown s v.job = false) : takeOver dev s = adopt [v] (takeOverJob { s with device := dev } v) := by
  have hvs : ([v].filter fun v => v.device == dev && !jobKnown s v.job) = [v] := by simp [hd, hk]
  cases hf : v.entry.frozen <;> simp [takeOver, h, hvs, hf, takeOverJob]

theorem fallBack_none {dev : Nat} {s : State} (h : s.checkpoint = []) : fallBack dev s = adopt [] s := by
  simp only [fallBack, h, List.filter_nil, List.foldl_nil]

/-! ### The restart of a steward (R28) -/

theorem haltStrand_dies (e : SRef) (s : State) : (haltStrand e s).dies = s.dies := by
  have hstop (u : State) : (stopStrand e u).dies = u.dies := by rw [stopStrand_stopFrame e u]
  unfold haltStrand
  dsimp only
  split
  · rfl
  · exact hstop _
  · split
    · rfl
    · exact hstop s
  · exact hstop s

theorem loadSteward_dies (die : Nat) (s : State) (x : Nat × Nat × List Byte) : (loadSteward die s x).dies = s.dies := by
  unfold loadSteward
  split <;> rfl
theorem startSteward_dies (die : Nat) (s : State) (x : Nat × Nat) : (startSteward die s x).dies = s.dies := by
  unfold startSteward
  split <;> rfl

theorem modDie_dies_congr (d : Nat) (f : Die → Die) {s t : State} (h : t.dies = s.dies) :
    (modDie d f t).dies = (modDie d f s).dies := by
  unfold modDie
  split
  · simp only [h]
  · exact h

theorem moveSteward_dies (die r spare site : Nat) (s : State) : (moveSteward die r spare site s).dies =
    (modDie die (fun d => { d with roles := d.roles.set r spare }) s).dies := by
  unfold moveSteward
  dsimp only
  rw [foldl_keeps State.dies (fun u x => startSteward_dies die u _), foldl_keeps State.dies (fun u x => loadSteward_dies die u _)]
  exact modDie_dies_congr die _ (foldl_keeps State.dies (fun u k => haltStrand_dies ⟨site, k⟩ u) _ s)

theorem dieOf_lt {site : Nat} (h : site < 4096) : dieOf site < 4 := by
  simp only [dieOf]
  omega

theorem restartSteward_none {site : Nat} {s : State}
    (h : ((getDie s (dieOf site)).roles.findIdx? fun n => n == (getTile s site).logical) = none) : restartSteward site s = s := by
  rw [restartSteward]
  simp only [h]

theorem restartSteward_some {site r n : Nat} {s : State} (hp : (getDie s (dieOf site)).phase = .ready)
    (h : ((getDie s (dieOf site)).roles.findIdx? fun n => n == (getTile s site).logical) = some r)
    (hn : [5, 6, 7].find? (fun n => !(getDie s (dieOf site)).roles.contains n) = some n) :
    restartSteward site s = moveSteward (dieOf site) r n site s := by
  rw [restartSteward]
  simp only [h, hn, hp, if_true]

theorem stewardUnit_moveSteward {die r spare site : Nat} {s : State} (hd : die < 4) (hr : r < (getDie s die).roles.length) :
    stewardUnit (moveSteward die r spare site s) die r = spare := by
  have h : getDie (moveSteward die r spare site s) die = _ :=
    (congrArg (fun t : Vector Die 4 => t.toList.getD die Die.atReset) (moveSteward_dies die r spare site s)).trans
      (getDie_modDie_same _ _ hd)
  rw [stewardUnit, h, List.getD_eq_getElem?_getD, List.getElem?_set_self hr]
  rfl

end Sys2Proof.Machine
end

section
/-!
PROOFS. Boot and reset as a whole (O59).
-/

namespace Sys2Proof.Machine

open Sys2Proof.Safety

theorem getDie_of_dies {s t : State} (h : t.dies = s.dies) (d : Nat) : getDie t d = getDie s d := by rw [getDie, getDie, h]

/-- The stewards' start makes the die READY, with every reserve strand at the idle code. -/
theorem execStewardStart_spec {die : Nat} {load : BootLoad} {s : State} (hdie : die < 4)
    (hphase : (getDie s die).phase = .stewards) (hlog : logFits die load.log = true) (hmap : die = 0 → mapFits load = true) :
    ∃ t, execStewardStart die load s = .next t ∧ (getDie t die).phase = .ready ∧ (getDie t die).logAt = some load.log ∧
      (die = 0 → t.tileMap = load.frames) ∧
      ∀ i, i < 1024 → isGood s (1024 * die + i) = true → ReserveIdle (1024 * die + i) t := by
  obtain ⟨hready, hat, htileMap, hstrands⟩ := stewardsReady_spec load (stewardsStarted die load s) hdie
  refine ⟨_, execStewardStart_fits hdie hphase hlog hmap, ?_⟩
  generalize stewardsReady die load (stewardsStarted die load s) = u at *
  have hy := setYards_frame ((List.range 64).map (64 * die + ·)) u
  generalize setYards ((List.range 64).map (64 * die + ·)) u = t at *
  have hd := getDie_of_dies (show t.dies = u.dies by rw [hy]) die
  refine ⟨by rw [hd, hready], by rw [hd, hat], fun h0 => ?_, fun i hi hg => ?_⟩
  · rw [hy]
    exact htileMap h0
  · exact reserveIdle_of_same (getStrand_of_strands (by rw [hy]; exact hstrands) _) (stewardsStarted_reserve load hi hg)

/-- A reset of the device as R394 says. -/
theorem powerOn_spec {s : State} (hm : MemInv s) :
    (∀ k, k < 2 ^ 52 → readByte (powerOn s) k = readByte s k) ∧
    (∀ site off, off < 2 ^ 18 → readByte (powerOn s) (localKey site off) =
      if 0x3C000 ≤ off ∧ off < 0x3D000 then romByte (off - 0x3C000) else 0) ∧
    (s.fused = [] → (powerOn s).strands = []) ∧
    (∀ d, d < 4 → (getDie (powerOn s) d).phase = .reset ∧ bootMode (powerOn s) d = true ∧
      (1024 * d ∉ s.fused → (getStrand (powerOn s) (8 * (1024 * d))).run = .run ∧
        (getStrand (powerOn s) (8 * (1024 * d))).x.get 2 =
          BitVec.ofNat 64 ((List.range 1024).filter fun i => !s.fused.contains (1024 * d + i)).length)) ∧
    (∀ site, site ∈ s.fused → (getStrand (powerOn s) (8 * site)).run = .off ∨ site % 1024 = 0) := by
  refine ⟨fun k hk => readByte_powerOn_kept hm hk, fun site off ho => readByte_powerOn_local hm ho, fun hf => ?_,
    fun d hd => ⟨by rw [getDie_powerOn hd]; rfl, by rw [bootMode, getDie_powerOn hd]; rfl, fun hg => ?_⟩, fun site hf => ?_⟩
  · show fusedStrands s = []
    rw [fusedStrands, hf]
    rfl
  · rw [← goodCount_eq hd]
    exact getStrand_powerOn_corner hd hg
  · by_cases hc : site % 1024 = 0
    · exact .inr hc
    · exact .inl (getStrand_powerOn_fused hf hc)

/-- With a valid slot the die floods, its loader placed. -/
theorem verifyDie_flood {d n : Nat} {s : State} (hd : d < 4)
    (hn : ((slotOrder s).find? fun n => slotOk s (slotBytes s n)) = some n) :
    let t := verifyDie d s
    let l := (slotImageBytes (slotBytes s n)).take 16384
    (getDie t d).phase = .flood ∧ t.booted = some n ∧ t.strands = s.strands ∧
      (MemInv s → (∀ i, i < l.length → readByte t (localKey (1024 * d) i) = l.getD i 0) ∧
        ∀ k, k < localKey (1024 * d) 0 ∨ localKey (1024 * d) 0 + l.length ≤ k → readByte t k = readByte s k) := by
  have hsite : siteAt d 0 0 = 1024 * d := by simp [siteAt]
  have hmem : (verifyDie d s).mem = pokeBytes ((keysFrom (localKey (1024 * d) 0)
      ((slotImageBytes (slotBytes s n)).take 16384).length).zip ((slotImageBytes (slotBytes s n)).take 16384)) s.mem := by
    rw [verifyDie_valid hn, modDie_mem, loaderPlaced, hsite]
  refine ⟨by rw [verifyDie_valid hn, getDie_modDie_same _ _ hd], by rw [verifyDie_valid hn, modDie_frame]; rfl,
    by rw [verifyDie_valid hn, modDie_frame]; rfl, fun hm => ?_⟩
  obtain ⟨hread, hother⟩ := readByte_placed (k := localKey (1024 * d) 0)
    (l := (slotImageBytes (slotBytes s n)).take 16384) hm
  refine ⟨fun i hi => ?_, fun k hk => ?_⟩
  · rw [readByte, hmem, ← hread i hi]
    rfl
  · rw [readByte, hmem, hother k hk, readByte]

/-- With no valid slot the die fails, and its corner runs nothing more. -/
theorem failDie_spec {d code : Nat} (s : State) (hd : d < 4) :
    (getDie (failDie code s d) d).phase = .failed ∧ (getDie (failDie code s d) d).fail = code ∧
      (getStrand (failDie code s d) (8 * (1024 * d))).run = .off ∧ (failDie code s d).mem = s.mem := by
  have hdie : getDie (failDie code s d) d = _ := getDie_modDie_same (fun d => { d with phase := .failed, fail := code }) s hd
  have hstrand : getStrand (failDie code s d) (8 * (1024 * d)) = Strand.blank (8 * siteAt d 0 0) := by
    rw [show 8 * (1024 * d) = 8 * siteAt d 0 0 by simp [siteAt], failDie, getStrand_setStrand_same]
  refine ⟨by rw [hdie], by rw [hdie], by rw [hstrand]; rfl, ?_⟩
  exact modDie_mem ..

/-- The failure of another device as R374 and R375 say. -/
theorem execDeviceFailure_other {dev spare : Nat} {s : State} (h : dev ≠ s.device) : execDeviceFailure dev spare s =
    .next (if spare = s.device then takeOver dev s else fallBack dev s) := congrArg Host.Outcome.next (if_neg h)

/-- R28: an UNCORR on a steward's tile. -/
theorem execBoothRecovery_steward (site : Nat) (s : State) :
    execBoothRecovery 0 (65536 + site) s = .next (restartSteward site s) := by
  refine (if_pos ⟨rfl, by omega⟩).trans ?_
  rw [Nat.add_sub_cancel_left]

end Sys2Proof.Machine
end
section
open Sys2Proof Sys2Proof.Machine Sys2Proof.Safety

/-- Settles O59: boot end, the stewards' start and the takeover of a device are folds, each of whose steps establishes its
site's or job's part and keeps the others'; a reset and a placed loader are read back from the canonical memory. -/
theorem bootAndReset : Obligations.BootAndReset := by
  unfold Obligations.BootAndReset
  refine ⟨fun die s hdie => ⟨fun hb => ?_, fun hb hw => ?_⟩, fun die load s hdie => ⟨fun hno => ?_, fun hp hfits => ?_⟩,
    fun p s => ⟨fun hs => ?_, fun hs => ?_⟩, fun s hm => ?_, fun d s hd hc => ⟨fun hp => ?_, fun hp => ⟨fun n hn => ?_, fun hn => ?_⟩⟩,
    fun dev spare s => ⟨fun h => ?_, fun h h' hv => ?_, fun h h' v hc hd h0 hk => ?_, fun h h' hc => ?_⟩,
    fun site s hsite hp => ⟨fun hr => ?_, fun r n hr hn => ?_⟩⟩
  · exact if_neg fun ⟨_, h, _⟩ => by rw [hb] at h; cases h
  · exact ⟨_, if_pos ⟨hdie, hb, by simpa [siteAt] using hw⟩, endBoot_spec s hdie⟩
  · refine if_neg fun ⟨_, hp, hl, hm⟩ => ?_
    rcases hno with hno | hno
    · exact hno hp
    · exact hno ⟨hl, hm⟩
  · exact execStewardStart_spec hdie hp hfits.1 hfits.2
  · exact execDevctlReset_holds hs
  · exact ⟨_, execDevctlReset_refused hs, logTo_strands _ _ s, fun hm k hk => cellGet_logTo _ _ s k hm hk⟩
  · exact ⟨powerOn s, rfl, rfl, rfl, rfl, rfl, rfl, rfl, rfl, rfl, rfl, powerOn_spec hm⟩
  · refine ⟨_, issue_verifies hd hc (.inl hp), ?_⟩
    rw [verifyTurn_reset hp]
    exact ⟨by rw [getDie_modDie_same _ _ hd], by rw [modDie_frame], by rw [modDie_frame]⟩
  · refine ⟨_, issue_verifies hd hc (.inr hp), ?_⟩
    rw [verifyTurn_verify hp]
    exact verifyDie_flood hd hn
  · refine ⟨_, issue_verifies hd hc (.inr hp), ?_⟩
    rw [verifyTurn_verify hp, verifyDie_none hn]
    exact failDie_spec s hd
  · exact congrArg Host.Outcome.next (if_pos h)
  · refine ⟨_, (execDeviceFailure_other h).trans (congrArg _ ((if_pos h').trans (takeOver_none hv))), ?_, ?_, ?_⟩ <;>
      rw [adopt_nil]
  · have hjob := takeOverJob_known { s with device := dev } v
    have hadopt := adopt_known [v] (takeOverJob { s with device := dev } v)
    exact ⟨_, (execDeviceFailure_other h).trans (congrArg _ ((if_pos h').trans (takeOver_one hc hd hk))),
      hadopt.device.trans (hjob.device.trans (restoreTables_device _ v)), hadopt.known _ (hjob.known _ (restoreTables_known h0))⟩
  · refine ⟨_, (execDeviceFailure_other h).trans (congrArg _ ((if_neg h').trans (fallBack_none hc))), ?_, ?_, ?_⟩ <;>
      rw [adopt_nil]
  · exact (execBoothRecovery_steward site s).trans (congrArg _ (restartSteward_none hr))
  · refine ⟨_, (execBoothRecovery_steward site s).trans (congrArg _ (restartSteward_some hp hr hn)), ?_⟩
    exact stewardUnit_moveSteward (dieOf_lt hsite) (List.findIdx?_eq_some_iff_findIdx_eq.mp hr).1

end

section
/-!
PROOFS. Requests that a steward serves: the start of a job (R30) and KILL_JOB, for O58.
-/

namespace Sys2Proof.Machine

open Sys2Proof.Safety

/-! ### Serving a request (R384) -/

theorem serve_served {q : Nat} {op : BitVec 8} {r : HostReq} {s : State} (h : Served q op r s) (k : State → State) :
    serve q op r s k = .next (k s) := by
  obtain ⟨hop, hserved, hbad, hheld, hlink⟩ := h
  refine if_neg ?_
  rintro (h | h | h | ⟨hp, h⟩ | h)
  · exact h hop
  · simp [hserved] at h
  · simp [hbad] at h
  · rcases hheld with hheld | hheld
    · exact hp hheld
    · simp [hheld] at h
  · simp [hlink] at h

theorem serve_idle {q : Nat} {op : BitVec 8} {r : HostReq} {s : State} (h : ¬Served q op r s) (k : State → State) :
    serve q op r s k = .next s := by
  refine if_pos (by_contra fun hno => h ?_)
  simp only [not_or, not_and, Bool.not_eq_true, Bool.not_eq_true', Bool.not_eq_false, not_not] at hno
  obtain ⟨hop, hserved, hbad, hheld, hlink⟩ := hno
  exact ⟨hop, hserved, hbad, or_iff_not_imp_left.mpr hheld, hlink⟩

/-! ### The jobs that the end of a request leaves -/

theorem complete_jobs (r : HostReq) (cls : Nat) (addr aux : Word) (s : State) : (complete r cls addr aux s).jobs = s.jobs := by
  rw [complete, hcqPut_frame]

theorem serveNext_jobs (n q : Nat) (r : HostReq) (s : State) : (serveNext n q r s).jobs = s.jobs := by
  induction n generalizing s with
  | zero => rfl
  | succ n ih =>
    rw [serveNext]
    split
    · rfl
    · split
      · rfl
      · split
        · exact (ih _).trans (complete_jobs ..)
        · split
          · rw [enqueueOnce]
            split <;> rfl
          · rfl

theorem endReq_jobs (q : Nat) (r : HostReq) (s : State) : (endReq q r s).jobs = s.jobs := by
  rw [endReq]
  split
  · rfl
  · exact serveNext_jobs ..

theorem doneOk_jobs (q : Nat) (r : HostReq) (addr : Word) (s : State) : (doneOk q r addr s).jobs = s.jobs := by
  rw [doneOk, endReq_jobs]
  split
  · rfl
  · exact complete_jobs ..

/-! ### START_JOB (R30) -/

theorem Plan.defineQueues_jobs (p : Plan) (s : State) : (p.defineQueues s).jobs = s.jobs := by
  have hrings (i : Nat) (u : State) : ((p.rings i).foldl (fun s q =>
      modQueue (p.key q.1) (fun old => p.queueOf q.1 q.2 (nextGen old)) s) u).jobs = u.jobs := by
    refine foldl_keeps State.jobs (fun v a => ?_) _ u
    rfl
  unfold Plan.defineQueues
  refine (foldl_keeps State.jobs (fun u a => ?_) _ _).trans (foldl_keeps State.jobs (fun u i => hrings i u) p.count s)
  rfl

theorem loadImage_jobs (b : Booth) (s : State) : (loadImage b s).jobs = s.jobs :=
  foldl_keeps State.jobs (f := fun s (p : Nat × List Byte) => writeBytes ((keysFrom p.1 p.2.length).zip p.2) s) (fun _ _ => rfl) _ s

theorem startBooth_jobs (b : Booth) (s : State) : (startBooth b s).jobs = s.jobs := by
  unfold startBooth
  refine (foldl_keeps State.jobs (fun u a => ?_) _ _).trans (foldl_keeps State.jobs (fun u a => ?_) _ s)
  · rfl
  · rfl

theorem writeSegtab_jobs (site : Nat) (more : List (BitVec 128)) (s : State) : (writeSegtab site more s).jobs = s.jobs := by
  unfold writeSegtab
  exact foldl_keeps State.jobs (fun u e => by rw [writeNat_frame]) _ s

theorem takeTile_jobs (job : BitVec 16) (id : Nat) (segs : List (BitVec 128)) (s : State) (t : Nat × Nat) :
    (takeTile job id segs s t).jobs = s.jobs := writeSegtab_jobs t.1 segs _

theorem Plan.makeBooth_jobs (p : Plan) (slots : List Nat) (i : Nat) (s : State) : (p.makeBooth slots i s).jobs = s.jobs := by
  have htiles : (((p.grant i).sites.zip (p.grant i).tasks).foldl (takeTile p.gr.job (i + 1) (p.grant i).segs) s).jobs = s.jobs :=
    foldl_keeps State.jobs (takeTile_jobs _ _ _) _ s
  unfold Plan.makeBooth
  refine (loadImage_jobs _ _).trans ((foldl_keeps State.jobs (fun u a => ?_) _ _).trans htiles)
  rfl

theorem Plan.makeBooths_jobs (p : Plan) (is : List Nat) {s t : State} (h : p.makeBooths is s = some t) : t.jobs = s.jobs := by
  induction is generalizing s with
  | nil => exact (Option.some.inj h) ▸ rfl
  | cons i is ih =>
    rw [Plan.makeBooths] at h
    split at h
    · exact (ih h).trans (p.makeBooth_jobs _ i s)
    · cases h

theorem lookPending_jobs (fresh : List (List Byte)) (s : State) : (lookPending fresh s).jobs = s.jobs := by
  have honce (i : Instr) (u : State) : (enqueueOnce i u).jobs = u.jobs := by
    rw [enqueueOnce]
    split <;> rfl
  unfold lookPending
  refine foldl_keeps State.jobs (fun u a => ?_) _ s
  dsimp only
  split
  · exact honce _ u
  · split
    · exact honce _ u
    · rfl

/-- The job that a request makes. -/
def Plan.jobOf (p : Plan) : Job :=
  { Job.none with
    seed := p.r.arg2
    hport := p.r.hport
    hcq := p.r.hcq
    tag := p.r.tag
    fcode := p.d.fcode
    booths := p.count.map (· + 1)
    tiles := p.count.flatMap fun i => (p.grant i).sites
    queues := (p.uses.flatMap p.keys ++ p.gr.qidx).map fun k => (k, 0)
    futures := p.gr.futures
    pages := p.gr.pages
    devices := (p.gr.remote.map (·.dev)).dedup }

theorem Plan.makeJob_jobs (p : Plan) (s : State) : (p.makeJob s).jobs = (modJob p.gr.job (fun _ => p.jobOf) s).jobs := by
  unfold Plan.makeJob
  refine foldl_keeps State.jobs (fun u f => ?_) _ _
  rfl

theorem getJob_of_jobs {s t : State} (h : t.jobs = s.jobs) (j : BitVec 16) : getJob t j = getJob s j := by
  rw [getJob, getJob, h]

/-- The job that a plan which runs to its end has made. -/
theorem Plan.run_job {p : Plan} {s t : State} (hmap : (p.mapAll s).isSome = true) (h : p.run s = .ok t) :
    getJob t p.gr.job = p.jobOf := by
  obtain ⟨s1, hs1⟩ := Option.isSome_iff_exists.mp hmap
  rw [Plan.run, hs1] at h
  dsimp only at h
  split at h
  · cases h
  · next s2 hs2 =>
    split at h
    · have hjobs : t.jobs = s2.jobs := by
        rw [← Except.ok.inj h, setYards_frame, completeOk]
        dsimp only
        rw [complete_jobs, lookPending_jobs]
        exact foldl_keeps State.jobs (fun u i => startBooth_jobs _ u) _ s2
      rw [getJob_of_jobs (hjobs.trans ((p.makeBooths_jobs _ hs2).trans
        ((p.defineQueues_jobs _).trans (p.makeJob_jobs s1)))), getJob_modJob_same]
    · cases h

/-- A grant that serves the request makes the job. -/
theorem startTurn_run {r : HostReq} {gr : Grants} {d : Descriptor} {s t : State} (hd : readDescriptor s r = some d)
    (hdesc : descriptorOk s r gr d = true) (hok : gr.ok = true) (hgrants : Plan.grantsOk ⟨r, gr, d⟩ s = true)
    (hformat : Plan.formatOk ⟨r, gr, d⟩ s = true) (hpages : Plan.pagesOk ⟨r, gr, d⟩ s = true)
    (htables : (Plan.mapAll ⟨r, gr, d⟩ s).any (Plan.tablesOk ⟨r, gr, d⟩ s) = true) (hrun : Plan.run ⟨r, gr, d⟩ s = .ok t) :
    startTurn r gr s = endReq 0 r t := by
  rw [startTurn, hd]
  simp only [hdesc, hok, hgrants, hformat, hpages, htables, hrun, Bool.not_true, Bool.false_eq_true, if_false, or_self]

theorem startTurn_undescribed {r : HostReq} {s : State} (gr : Grants) (h : readDescriptor s r = none) :
    startTurn r gr s = endReq 0 r (completeFail r 11 s) := by
  rw [startTurn, h]

theorem startTurn_badDescriptor {r : HostReq} {gr : Grants} {d : Descriptor} {s : State} (hd : readDescriptor s r = some d)
    (hdesc : descriptorOk s r gr d = false) : startTurn r gr s = endReq 0 r (completeFail r 11 s) := by
  rw [startTurn, hd]
  simp only [hdesc, Bool.not_false, if_true]

/-! ### KILL_JOB -/

theorem releaseJob_jobs (job : BitVec 16) (s : State) : ∃ u, (releaseJob job s).jobs = terase u job.toNat := ⟨_, rfl⟩

theorem jobKnown_terase {s : State} {job : BitVec 16} {u : Tab Job} (h : s.jobs = terase u job.toNat) :
    jobKnown s job = false := by
  rw [jobKnown, h, lookup_terase, if_pos rfl]
  simp

theorem killTurn_unknown {r : HostReq} {s : State} (h : jobKnown s r.job = false) : killTurn r s = doneFail' 0 r 1 s :=
  if_pos (by rw [h]; rfl)

theorem killTurn_busy {r : HostReq} {s : State} (h : jobKnown s r.job = true) (hk : (getJob s r.job).killing = true)
    (hb : jobBusy s r.job = true) : killTurn r s = enqueue (.killJob r) s := by
  rw [killTurn, if_neg (by simp [h])]
  simp only [hk, if_true, hb]

theorem killTurn_ends {r : HostReq} {s : State} (h : jobKnown s r.job = true) (hk : (getJob s r.job).killing = true)
    (hb : jobBusy s r.job = false) : killTurn r s =
      doneOk 0 r 0 (setYards ((getJob s r.job).tiles.map yardOf) (releaseJob r.job s)) := by
  rw [killTurn, if_neg (by simp [h])]
  simp only [hk, if_true, hb, Bool.false_eq_true, if_false]

/-- R30: the grants released, the job is unknown. -/
theorem jobKnown_killTurn {r : HostReq} {s : State} (h : jobKnown s r.job = true) (hk : (getJob s r.job).killing = true)
    (hb : jobBusy s r.job = false) : jobKnown (killTurn r s) r.job = false := by
  obtain ⟨u, hu⟩ := releaseJob_jobs r.job s
  refine jobKnown_terase (u := u) ?_
  rw [killTurn_ends h hk hb, doneOk_jobs, setYards_frame]
  exact hu

end Sys2Proof.Machine
end

section
/-!
PROOFS. Freeze, checkpoint and resumption of a job (R372 to R375), for O58.
-/

namespace Sys2Proof.Machine

open Sys2Proof.Safety

theorem namedJobs_of_known {r : HostReq} {s : State} (h0 : r.job ≠ 0) (h : jobKnown s r.job = true) :
    namedJobs r s = [r.job] := by
  rw [namedJobs, if_neg h0, if_pos h]

/-! ### Stopping (R370, R381) -/

theorem abandonLoom_frame (ts : List Nat) (s : State) :
    abandonLoom ts s = { s with strands := (abandonLoom ts s).strands, looms := (abandonLoom ts s).looms } := by
  have hfold (l : List Nat) (u : State) (hu : u = { s with strands := u.strands }) :
      l.foldl (fun s k => modStrand k (fun t => { t with flight := none }) s) u =
        { s with strands := (l.foldl (fun s k => modStrand k (fun t => { t with flight := none }) s) u).strands } :=
    List.foldlRecOn (motive := fun (v : State) => v = { s with strands := v.strands }) l _ hu fun v hv k _ => by rw [hv]; rfl
  unfold abandonLoom
  dsimp only
  rw [hfold _ s rfl]

/-- The state in which the pager looks at a freeze that has begun. -/
def freezeLook (ts : List Nat) (s : State) : State := pagerTakes (abandonAll ts s)

theorem freezeLook_frame (ts : List Nat) (s : State) : freezeLook ts s = { s with
    strands := (freezeLook ts s).strands, looms := (freezeLook ts s).looms, sema := (freezeLook ts s).sema,
    pagerSema := (freezeLook ts s).pagerSema } := by
  unfold freezeLook pagerTakes
  have h : abandonAll ts s = { s with strands := (abandonAll ts s).strands, looms := (abandonAll ts s).looms } := by
    unfold abandonAll
    dsimp only
    rw [abandonLoom_frame]
  rw [h]
  split <;> rfl

/-! ### What a freeze takes (R372 step 6) -/

/-- A user strand that is not OFF is PARKED. -/
def parkStrand (s : State) (k : Nat) : State :=
  if (getStrand s k).run = .off then s else setStrand s k { Strand.blank k with run := .parked }

theorem parkTile_eq (s : State) (site : Nat) : parkTile s site = freeTile ((userStrands [site]).foldl parkStrand s) site := rfl

theorem parkStrand_frame (s : State) (k : Nat) : parkStrand s k = { s with strands := (parkStrand s k).strands } := by
  unfold parkStrand
  split <;> rfl

theorem parkTile_jobsStay (s : State) (site : Nat) : JobsStay s (parkTile s site) := by
  have hpark (u : State) (k : Nat) : JobsStay u (parkStrand u k) := by
    rw [parkStrand_frame]
    exact jobsStay_of_eq rfl rfl rfl
  have hfree (u : State) : JobsStay u (freeTile u site) := jobsStay_of_eq rfl rfl rfl
  exact jobsStay_trans (jobsStay_foldl hpark _ s) (hfree _)

theorem getTile_freeTile_job (s : State) (site t : Nat) :
    (getTile (freeTile s site) t).job = if t = site then 0 else (getTile s t).job := by
  have hblocks (u : State) : getTile (assignBlocks site none u) t = getTile u t := rfl
  rw [freeTile, hblocks]
  split
  · next h => rw [h, getTile_modTile_same]; rfl
  · next h => rw [getTile_modTile_other _ _ h]

theorem parkTile_tile (s : State) (site t : Nat) :
    (getTile (parkTile s site) t).job = if t = site then 0 else (getTile s t).job := by
  rw [parkTile_eq, getTile_freeTile_job,
    getTile_of_tiles (foldl_keeps State.tiles (fun u k => by rw [parkStrand_frame]) (userStrands [site]) s)]

theorem parkTiles_free (l : List Nat) (s : State) {t : Nat} (h : t ∈ l) : (getTile (l.foldl parkTile s) t).job = 0 := by
  refine (foldl_establishes (I := fun _ => True) (P := fun t u => (getTile u t).job = 0) (fun _ _ _ => trivial)
    (fun u a _ => ?_) (fun u a b _ ha => ?_) l (s := s) trivial).2 t h
  · rw [parkTile_tile, if_pos rfl]
  · rw [parkTile_tile]
    split
    · rfl
    · exact ha

/-- What the engines and queues keep of a job that is parked. -/
def parkEngines (ts : List Nat) (job : BitVec 16) (s : State) : State :=
  { s with
    looms := s.looms.map fun p => (p.1, loomRest job ts p.1 p.2)
    carters := s.carters.map fun p => (p.1, carterRest job p.2)
    cellars := s.cellars.map fun p => (p.1, cellarRest job p.2)
    slots := s.slots.map fun p => if p.2.job = job then (p.1, { p.2 with full := false, ctx := none }) else p
    queues := s.queues.map fun p =>
      if p.2.job = job ∧ p.2.st = .open_ then (p.1, { p.2 with st := .held }) else p }

theorem parkJob_eq (s : State) (job : BitVec 16) :
    parkJob s job = wakeUnits ((heldTiles s job).foldl parkTile (parkEngines (heldTiles s job) job s)) := rfl

theorem parkJob_jobsStay (s : State) (job : BitVec 16) : JobsStay s (parkJob s job) := by
  rw [parkJob_eq]
  refine jobsStay_trans (t := parkEngines (heldTiles s job) job s) (jobsStay_of_eq rfl rfl rfl) ?_
  exact jobsStay_trans (jobsStay_foldl parkTile_jobsStay _ _) (wakeUnits_jobsStay _)

theorem parkJob_free {s : State} {job : BitVec 16} {t : Nat} (h : t ∈ heldTiles s job) :
    (getTile (parkJob s job) t).job = 0 := by
  have htiles : (parkJob s job).tiles = ((heldTiles s job).foldl parkTile (parkEngines (heldTiles s job) job s)).tiles := by
    rw [parkJob_eq, wakeUnits_unitsFrame]
  rw [getTile_of_tiles htiles]
  exact parkTiles_free _ _ h

/-! ### What a freeze writes (R372, R373) -/

theorem backSlots_frame (f : Nat → Slot → Bool) (s : State) : backSlots f s =
    { s with mem := (backSlots f s).mem, poison := (backSlots f s).poison, olds := (backSlots f s).olds } := by
  unfold backSlots
  exact List.foldlRecOn (motive := fun (v : State) => v = { s with mem := v.mem, poison := v.poison, olds := v.olds }) _ _ rfl
    fun v hv p _ => by rw [hv]; rfl

/-- The context slots of the jobs of a freeze in their backing. -/
def freezeBacked (js : List (BitVec 16)) (s : State) : State :=
  backSlots (fun _ v => js.contains v.job) { s with fresh := s.fresh + 1 }

/-- The job saved and its tiles gone to urgent work. -/
def freezeParked (r : HostReq) (j : BitVec 16) (s : State) : State :=
  let u := freezeBacked [j] s
  parkJob { u with frozen := u.frozen ++ [saveJob (freezeArea r s.fresh).length u j] } j

theorem pagerReleases_frame (s : State) : pagerReleases s = { s with
    sema := (pagerReleases s).sema, pagerSema := (pagerReleases s).pagerSema } := by
  unfold pagerReleases freeSema
  split
  · split <;> rfl
  · rfl

/-- What a freeze does last: it writes the freeze area and the record, and the pager's semaphore goes. -/
theorem writeFreeze_eq (r : HostReq) (j : BitVec 16) (s : State) :
    ∃ l rs, writeFreeze r [j] s = pagerReleases (logTo 0 rs (writeBytes l (freezeParked r j s))) := ⟨_, _, rfl⟩

theorem writeFreeze_jobsStay (r : HostReq) (j : BitVec 16) (s : State) :
    JobsStay (freezeParked r j s) (writeFreeze r [j] s) ∧ (writeFreeze r [j] s).tiles = (freezeParked r j s).tiles := by
  obtain ⟨l, rs, h⟩ := writeFreeze_eq r j s
  generalize freezeParked r j s = u at h ⊢
  have hf : writeFreeze r [j] s = { writeBytes l u with
      dies := (writeFreeze r [j] s).dies, mem := (writeFreeze r [j] s).mem, poison := (writeFreeze r [j] s).poison,
      olds := (writeFreeze r [j] s).olds, sema := (writeFreeze r [j] s).sema, pagerSema := (writeFreeze r [j] s).pagerSema } := by
    rw [h, pagerReleases_frame, logTo_frame]
  rw [writeBytes_frame] at hf
  exact ⟨jobsStay_of_eq (by rw [hf]) (by rw [hf]) (by rw [hf]), by rw [hf]⟩

theorem heldTiles_congr {s t : State} {j : BitVec 16} (hj : t.jobs = s.jobs) (ht : t.tiles = s.tiles) :
    heldTiles t j = heldTiles s j := by
  rw [heldTiles, heldTiles, getJob_of_jobs hj]
  exact List.filter_congr fun site _ => by rw [getTile_of_tiles ht]

/-- After a freeze of one job the job is still known, its image is the last one, and its tiles do urgent work. -/
theorem writeFreeze_spec (r : HostReq) {j : BitVec 16} {s : State} (hk : jobKnown s j = true) :
    jobKnown (writeFreeze r [j] s) j = true ∧ isSaved (writeFreeze r [j] s) j = true ∧
      ∀ t, t ∈ heldTiles s j → (getTile (writeFreeze r [j] s) t).job = 0 := by
  obtain ⟨hstay, htiles⟩ := writeFreeze_jobsStay r j s
  have hb : freezeBacked [j] s = { s with
      mem := (freezeBacked [j] s).mem, poison := (freezeBacked [j] s).poison, olds := (freezeBacked [j] s).olds,
      fresh := (freezeBacked [j] s).fresh } := by
    unfold freezeBacked
    rw [backSlots_frame]
  have hpark (v : Saved) := parkJob_jobsStay { freezeBacked [j] s with frozen := (freezeBacked [j] s).frozen ++ [v] } j
  refine ⟨hstay.known j ((hpark _).known j ?_), ?_, fun t ht => ?_⟩
  · exact (jobKnown_of_jobs (by rw [hb]) j).trans hk
  · rw [isSaved, hstay.frozen, freezeParked, (hpark _).frozen, List.any_append]
    simp [saveJob]
  · rw [getTile_of_tiles htiles]
    refine parkJob_free ?_
    rw [heldTiles_congr (s := s) (by rw [hb]) (by rw [hb])]
    exact ht

/-! ### The requests -/

theorem hostDown_of_ports {s t : State} (h : t.ports = s.ports) : hostDown t = hostDown s := by
  rw [hostDown, hostDown, getPort, getPort, getPort, getPort, h]

/-- A freeze of one frozen job that has stopped everything saves it. -/
theorem freezeTurn_saves (i : Instr) {r : HostReq} {s : State} (h0 : r.job ≠ 0) (hk : jobKnown s r.job = true)
    (hs : isSaved s r.job = false) (hf : (getJob s r.job).frozen = true)
    (hstop : stopping [r.job] (heldTiles s r.job) (freezeLook (heldTiles s r.job) s) = false) (hdown : hostDown s = false) :
    freezeTurn i r s = (some (writeFreeze r [r.job] (freezeLook (heldTiles s r.job) s)),
      writeFreeze r [r.job] (freezeLook (heldTiles s r.job) s)) := by
  have hd : hostDown (freezeLook (heldTiles s r.job) s) = false := (hostDown_of_ports (by rw [freezeLook_frame])).trans hdown
  have hnone : ¬(stopping [r.job] (heldTiles s r.job) (freezeLook (heldTiles s r.job) s) = true ∨
      hostDown (freezeLook (heldTiles s r.job) s) = true) := by simp [hstop, hd]
  unfold freezeTurn
  simp only [namedJobs_of_known h0 hk, List.filter_cons, List.filter_nil, hs, Bool.not_false, if_true, List.all_cons, List.all_nil,
    hf, Bool.and_self, List.flatMap_cons, List.flatMap_nil, List.append_nil, List.cons_ne_nil, if_false]
  exact if_neg hnone

/-- A freeze of a job that is saved already does nothing. -/
theorem freezeTurn_saved (i : Instr) {r : HostReq} {s : State} (h0 : r.job ≠ 0) (hk : jobKnown s r.job = true)
    (hs : isSaved s r.job = true) : freezeTurn i r s = (some s, s) := by
  unfold freezeTurn
  simp only [namedJobs_of_known h0 hk, List.filter_cons, List.filter_nil, hs, Bool.not_true, Bool.false_eq_true, if_false, if_true]

theorem freezeReq_unknown {r : HostReq} {s : State} (h0 : r.job ≠ 0) (hk : jobKnown s r.job = false) :
    freezeReq r s = doneFail' 1 r 1 s := if_pos ⟨h0, by rw [hk]; rfl⟩

theorem freezeReq_complete {r : HostReq} {s w u : State} (hk : jobKnown s r.job = true)
    (h : freezeTurn (.urgentFreeze r) r s = (some w, u)) :
    freezeReq r s = doneOk 1 r (freezeCount w (namedJobs r w)) w := by
  rw [freezeReq, if_neg (by simp [hk]), h]

/-- The images of one job that a freeze has saved. -/
def savedOf (j : BitVec 16) (s : State) : List Saved := s.frozen.filter fun v => [j].contains v.job

theorem mem_savedOf {j : BitVec 16} {s : State} {v : Saved} : v ∈ savedOf j s ↔ v ∈ s.frozen ∧ v.job = j := by
  simp [savedOf]

theorem exists_savedOf {j : BitVec 16} {s : State} (h : isSaved s j = true) : ∃ v, v ∈ savedOf j s ∧ v.job = j := by
  obtain ⟨v, hv, hj⟩ := List.any_eq_true.mp h
  exact ⟨v, mem_savedOf.mpr ⟨hv, eq_of_beq hj⟩, eq_of_beq hj⟩

theorem checkpointReq_complete {r : HostReq} {s w u : State} (h0 : r.job ≠ 0) (hk : jobKnown s r.job = true)
    (hs : isSaved s r.job = false) (h : freezeTurn (.checkpoint r) r s = (some w, u)) (hkw : jobKnown w r.job = true)
    (hsw : isSaved w r.job = true) :
    checkpointReq r s = doneOk 1 r (freezeCount w [r.job])
      (resumeLog r (savedOf r.job w).length (resumeSaved (savedOf r.job w) (keepImages (savedOf r.job w) w))) := by
  have hjs : ((namedJobs r s).filter fun j => !isSaved s j) = [r.job] := by simp [namedJobs_of_known h0 hk, hs]
  have hne : ¬(savedOf r.job w = []) := by
    obtain ⟨v, hv, -⟩ := exists_savedOf hsw
    exact List.ne_nil_of_mem hv
  rw [checkpointReq, hjs, if_neg (by simp [hk]), h]
  dsimp only
  rw [namedJobs_of_known h0 hkw]
  exact congrArg (doneOk 1 r _) (if_neg hne)

theorem resumeReq_taken {r : HostReq} {s : State} (h0 : r.job ≠ 0) (hk : jobKnown s r.job = true)
    (h : (savedOf r.job s).all (fun v => tilesFree v s) = false) : resumeReq r s = doneFail' 1 r 1 s := by
  rw [resumeReq, namedJobs_of_known h0 hk]
  exact if_pos (.inr (by rw [show (s.frozen.filter fun v => [r.job].contains v.job) = savedOf r.job s from rfl, h]; rfl))

theorem resumeReq_complete {r : HostReq} {s : State} (h0 : r.job ≠ 0) (hk : jobKnown s r.job = true)
    (hs : isSaved s r.job = true) (ht : (savedOf r.job s).all (fun v => tilesFree v s) = true)
    (he : (savedOf r.job s).all (fun v => enginesFree v s) = true) (hdown : hostDown s = false) :
    resumeReq r s = doneOk 1 r 0 (resumeLog r (savedOf r.job s).length (resumeSaved (savedOf r.job s) s)) := by
  have hne : ¬(savedOf r.job s = []) := by
    obtain ⟨v, hv, -⟩ := exists_savedOf hs
    exact List.ne_nil_of_mem hv
  have hvs : (s.frozen.filter fun v => [r.job].contains v.job) = savedOf r.job s := rfl
  rw [resumeReq, namedJobs_of_known h0 hk, hvs, if_neg (by simp only [hk, ht]; simp), if_neg (by simp [hdown, hs, he]), if_neg hne]

/-- R374: the job that has resumed is neither saved nor frozen. -/
theorem resumeSaved_savedOf {j : BitVec 16} {s : State} (hs : isSaved s j = true) :
    isSaved (resumeSaved (savedOf j s) s) j = false ∧ (getJob (resumeSaved (savedOf j s) s) j).frozen = false := by
  obtain ⟨v, hv, hj⟩ := exists_savedOf hs
  refine ⟨?_, hj ▸ getJob_resumeSaved_frozen hv s⟩
  rw [isSaved, resumeSaved_frozen, List.any_eq_false]
  intro w hw he
  obtain ⟨-, hno⟩ := List.mem_filter.mp hw
  rw [List.any_eq_true.mpr ⟨v, hv, by rw [hj, eq_of_beq he]; exact beq_self_eq_true j⟩] at hno
  cases hno

end Sys2Proof.Machine
end

section
/-!
PROOFS. The urgent line's RUN (R371), and the host requests as a whole (O58).
-/

namespace Sys2Proof.Machine

open Sys2Proof.Safety

/-! ### RUN in the urgent line (R371) -/

theorem and_offsets {n : Nat} (h : n < 2 ^ 18) : n &&& 0x3FFFC = n / 4 * 4 := by
  refine Nat.eq_of_testBit_eq fun i => ?_
  rw [show 0x3FFFC = (2 ^ 16 - 1) * 2 ^ 2 by rfl, show n / 4 * 4 = n / 2 ^ 2 * 2 ^ 2 by rfl, Nat.testBit_and,
    Nat.testBit_mul_two_pow, Nat.testBit_mul_two_pow, Nat.testBit_two_pow_sub_one, Nat.testBit_div_two_pow]
  by_cases h2 : 2 ≤ i
  · rw [Nat.sub_add_cancel h2]
    by_cases h18 : i < 18
    · simp [h2, show i - 2 < 16 by omega]
    · simp [Nat.testBit_lt_two_pow (lt_of_lt_of_le h (Nat.pow_le_pow_right (by decide) (by omega : 18 ≤ i)))]
  · simp [h2]

/-- R58: the offset that a PC keeps of a number of 18 bits is the multiple of 4 in it. -/
theorem offsetBits_ofNat {n : Nat} (h : n < 2 ^ 18) : offsetBits (BitVec.ofNat 64 n) = BitVec.ofNat 64 (n / 4 * 4) := by
  refine BitVec.eq_of_toNat_eq ?_
  rw [offsetBits, BitVec.toNat_and, BitVec.toNat_ofNat, BitVec.toNat_ofNat, Nat.mod_eq_of_lt (by omega), Nat.mod_eq_of_lt (by omega)]
  exact and_offsets h

/-- A write changes no register of a strand. -/
theorem touchStrand_x (ks : List Nat) (t : Strand) : (touchStrand ks t).x = t.x := by
  unfold touchStrand endMwait
  dsimp only
  split
  · split <;> rfl
  · rfl

/-- The first 16 bytes of the urgent line. -/
def urgentWord (site : Nat) (s : State) : BitVec 128 := BitVec.ofNat 128 (readNat s (keysFrom (urgentKey site) 16))

/-- The urgent line with KIND cleared. -/
def urgentTaken (site : Nat) (s : State) : State :=
  writeNat (keysFrom (urgentKey site) 1) ((readByte s (urgentKey site)).toNat / 16 * 16) s

theorem execUrgentRun_eq (site : Nat) (s : State) : execUrgentRun site s =
    if fld (urgentWord site s) 0 4 = 2 ∧ isGood s site then
      .next (startStrand ⟨site, 7⟩ (offsetBits (BitVec.ofNat 64 (fld (urgentWord site s) 32 18)))
        ((urgentWord site s).extractLsb' 64 64) false [] [] (urgentTaken site s))
    else .next s := rfl

theorem execUrgentRun_idle {site : Nat} {s : State} (h : fld (urgentWord site s) 0 4 ≠ 2) : execUrgentRun site s = .next s := by
  rw [execUrgentRun_eq, if_neg fun h' => h h'.1]

theorem execUrgentRun_run {site : Nat} {s : State} (h : fld (urgentWord site s) 0 4 = 2) (hg : isGood s site = true) :
    execUrgentRun site s = .next (startStrand ⟨site, 7⟩ (offsetBits (BitVec.ofNat 64 (fld (urgentWord site s) 32 18)))
      ((urgentWord site s).extractLsb' 64 64) false [] [] (urgentTaken site s)) := by
  rw [execUrgentRun_eq, if_pos ⟨h, hg⟩]

/-- KIND is 0 once the strand runs. -/
theorem readByte_urgentTaken {site : Nat} {s : State} (hm : MemInv s) :
    (readByte (urgentTaken site s) (urgentKey site)).toNat % 16 = 0 := by
  have hread := readNat_writeNat (ks := keysFrom (urgentKey site) 1) ((readByte s (urgentKey site)).toNat / 16 * 16)
    (keysFrom_nodup ..) hm
  have hone (u : State) (k : Nat) : readNat u (keysFrom k 1) = (readByte u k).toNat := by
    simp [readNat, readKeys, keysFrom, bytesNat]
  rw [hone, length_keysFrom] at hread
  rw [urgentTaken, hread]
  have := (readByte s (urgentKey site)).isLt
  omega

/-- The reserve strand starts at the offset that ENTRY names; the registers of the other strands stay. -/
theorem urgentStarted_spec {site : Nat} {s : State} (pc x1 : Word) (hm : MemInv s) :
    let t := startStrand ⟨site, 7⟩ pc x1 false [] [] (urgentTaken site s)
    (getStrand t (8 * site + 7)).run = .run ∧ (getStrand t (8 * site + 7)).pc = pc ∧
      (getStrand t (8 * site + 7)).x.get 1 = x1 ∧ (getStrand t (8 * site + 7)).priv = true ∧
      (readByte t (urgentKey site)).toNat % 16 = 0 ∧
      ∀ k, k ≠ 8 * site + 7 → (getStrand t k).x = (getStrand s k).x := by
  obtain ⟨hrun, hpc, hx, -, hpriv⟩ := getStrand_startStrand_same ⟨site, 7⟩ pc x1 false [] [] (urgentTaken site s)
  refine ⟨hrun, hpc, ?_, hpriv, ?_, fun k hk => ?_⟩
  · refine (congrArg (·.get 1) hx).trans ?_
    exact Vector.getElem_set_self _
  · exact readByte_urgentTaken hm
  · rw [getStrand_startStrand_other _ _ _ _ _ _ hk, urgentTaken, writeNat, getStrand_writeBytes, touchStrand_x]

/-- RUN in the urgent line as R371 says. -/
theorem execUrgentRun_spec {site : Nat} {s : State} (h : fld (urgentWord site s) 0 4 = 2) (hg : isGood s site = true)
    (hm : MemInv s) : ∃ t, execUrgentRun site s = .next t ∧
      (getStrand t (8 * site + 7)).run = .run ∧
      (getStrand t (8 * site + 7)).pc = BitVec.ofNat 64 (fld (urgentWord site s) 32 18 / 4 * 4) ∧
      (getStrand t (8 * site + 7)).x.get 1 = (urgentWord site s).extractLsb' 64 64 ∧
      (getStrand t (8 * site + 7)).priv = true ∧ (readByte t (urgentKey site)).toNat % 16 = 0 ∧
      ∀ k, k ≠ 8 * site + 7 → (getStrand t k).x = (getStrand s k).x := by
  refine ⟨_, execUrgentRun_run h hg, ?_⟩
  rw [← offsetBits_ofNat (BitVec.isLt _)]
  exact urgentStarted_spec _ _ hm

/-! ### The grants, the firmware and the versions -/

theorem grantTurn_open {r : HostReq} {s : State} (hk : jobKnown s r.job = true)
    (hh : handleFail s r.job (r.arg0.extractLsb' 0 32) = none)
    (ho : (getQueue s (qkeyOf (r.arg0.extractLsb' 0 32))).st = .open_)
    (hp : (getQueue s (qkeyOf (r.arg0.extractLsb' 0 32))).pbooth = 0) : grantTurn r s =
      if entryBytes (getQueue s (qkeyOf (r.arg0.extractLsb' 0 32))) ≠ 64 then doneFail' 2 r 11 s
      else doneOk 2 r ((r.arg0.extractLsb' 0 32).zeroExtend 64)
        (modJob r.job (fun j => { j with hostq := j.hostq ++ [r.arg0.extractLsb' 0 32] }) s) :=
  if_neg (by simp [hk, hh, ho, hp])

/-- What a firmware request stages. -/
def stagedBytes (r : HostReq) (s : State) : List Byte :=
  readKeys s ((List.range r.arg1.toNat).map fun i => hostKey (r.arg0.toNat + i))

theorem freeSema_frame (s : State) : freeSema s = { s with sema := (freeSema s).sema, pagerSema := (freeSema s).pagerSema } := by
  unfold freeSema
  split <;> rfl

theorem slotOk_freeSema (s : State) (bs : List Byte) : slotOk (freeSema s) bs = slotOk s bs := by
  rw [freeSema_frame]
  rfl

theorem stageFirmwareTurn_unheld {r : HostReq} {s : State} (h : s.sema ≠ portOwner r.port) :
    stageFirmwareTurn r s = doneFail' 0 r 1 s := if_pos (by simp [holdsSema, h])

theorem stageFirmwareTurn_held {r : HostReq} {s : State} (h : s.sema = portOwner r.port) : stageFirmwareTurn r s =
    if slotOk (freeSema s) (stagedBytes r s) then
      doneOk 0 r 0 { freeSema s with flash := (freeSema s).flash.set 2 (stagedBytes r s) }
    else doneFail' 0 r (1 + Config.firmwareClass.val) (freeSema s) := if_neg (by simp [holdsSema, h])

theorem stageFirmwareTurn_valid {r : HostReq} {s : State} (h : s.sema = portOwner r.port)
    (hok : slotOk s (stagedBytes r s) = true) :
    stageFirmwareTurn r s = doneOk 0 r 0 { freeSema s with flash := s.flash.set 2 (stagedBytes r s) } := by
  have hflash : (freeSema s).flash = s.flash := by rw [freeSema_frame]
  rw [stageFirmwareTurn_held h, if_pos ((slotOk_freeSema s _).trans hok), hflash]

theorem stageFirmwareTurn_invalid {r : HostReq} {s : State} (h : s.sema = portOwner r.port)
    (hbad : slotOk s (stagedBytes r s) = false) :
    stageFirmwareTurn r s = doneFail' 0 r (1 + Config.firmwareClass.val) (freeSema s) := by
  rw [stageFirmwareTurn_held h, slotOk_freeSema, hbad, if_neg Bool.false_ne_true]

theorem stageVersionTurn_refused {r : HostReq} {place : Bool} {s : State} (h : jobKnown s r.job = false ∨
    (getBooth s (bkey r.job (fld r.arg2 0 16))).tiles = [] ∨ (getBooth s (bkey r.job (fld r.arg2 0 16))).finished = true) :
    stageVersionTurn r place s = doneFail' 0 r 1 s := if_pos (by simpa using h)

theorem stageVersionTurn_taken {r : HostReq} {place : Bool} {s : State} (hk : jobKnown s r.job = true)
    (ht : (getBooth s (bkey r.job (fld r.arg2 0 16))).tiles ≠ [])
    (hf : (getBooth s (bkey r.job (fld r.arg2 0 16))).finished = false) (hz : (getJob s r.job).frozen = false) :
    (parseImage (stagedBytes r s) = none → stageVersionTurn r place s = doneFail' 0 r 11 s) ∧
      ∀ rs, parseImage (stagedBytes r s) = some rs → imageOk rs = true →
        (declOf rs).isPerm (getBooth s (bkey r.job (fld r.arg2 0 16))).decl = true → fld r.arg2 16 16 ≠ 0 →
        fld r.arg2 16 16 ≠ (getBooth s (bkey r.job (fld r.arg2 0 16))).version →
        versionFits (bkey r.job (fld r.arg2 0 16)) rs s = true →
        stageVersionTurn r place s = keepVersion (bkey r.job (fld r.arg2 0 16)) (fld r.arg2 16 16) place rs r s := by
  have hgo : stageVersionTurn r place s = match parseImage (stagedBytes r s) with
      | none => doneFail' 0 r 11 s
      | some rs =>
        if !imageOk rs ∨ !(declOf rs).isPerm (getBooth s (bkey r.job (fld r.arg2 0 16))).decl ∨ fld r.arg2 16 16 = 0 ∨
          fld r.arg2 16 16 = (getBooth s (bkey r.job (fld r.arg2 0 16))).version ∨
          !versionFits (bkey r.job (fld r.arg2 0 16)) rs s then doneFail' 0 r 11 s
        else keepVersion (bkey r.job (fld r.arg2 0 16)) (fld r.arg2 16 16) place rs r s :=
    (if_neg (by simp only [hk, ht, hf, Bool.not_true, Bool.false_eq_true, or_self, not_false_eq_true])).trans (if_neg (by simp [hz]))
  refine ⟨fun hn => ?_, fun rs hs hi hperm h0 hv hfits => ?_⟩
  · rw [hgo, hn]
  · rw [hgo, hs]
    exact if_neg (by simp only [hi, hperm, h0, hv, hfits, Bool.not_true, Bool.false_eq_true, or_self, not_false_eq_true])

/-! ### The events of requests -/

/-- An event of a request that its steward has not reached, or at which it stalls, or of a malformed one, does nothing. -/
theorem requests_idle (r : HostReq) (gr : Grants) (place : Bool) (s : State) :
    (¬Served 0 0x01 r s → execStartJob r gr s = .next s) ∧ (¬Served 0 0x02 r s → execKillJob r s = .next s) ∧
    (¬Served 1 0x03 r s → execUrgentFreeze r s = .next s) ∧ (¬Served 1 0x04 r s → execResumeJobs r s = .next s) ∧
    (¬Served 1 0x05 r s → execCheckpoint r s = .next s) ∧ (¬Served 2 0x06 r s → execGrantHostQueue r s = .next s) ∧
    (¬Served 3 0x07 r s → execReadLog r s = .next s) ∧ (¬Served 0 0x08 r s → execStageFirmware r s = .next s) ∧
    (¬Served 0 0x09 r s → execStageVersion r place s = .next s) ∧ (¬Served 3 0x0A r s → execReadLogCount r s = .next s) :=
  ⟨fun h => serve_idle h _, fun h => serve_idle h _, fun h => serve_idle h _, fun h => serve_idle h _, fun h => serve_idle h _,
    fun h => serve_idle h _, fun h => serve_idle h _, fun h => serve_idle h _, fun h => serve_idle h _, fun h => serve_idle h _⟩

theorem execStartJob_served {r : HostReq} {gr : Grants} {s t : State} (h : Served 0 0x01 r s) (ht : startTurn r gr s = t) :
    execStartJob r gr s = .next t := ht ▸ serve_served h (startTurn r gr)
theorem execKillJob_served {r : HostReq} {s t : State} (h : Served 0 0x02 r s) (ht : killTurn r s = t) :
    execKillJob r s = .next t := ht ▸ serve_served h (killTurn r)
theorem execUrgentFreeze_served {r : HostReq} {s t : State} (h : Served 1 0x03 r s) (ht : freezeReq r s = t) :
    execUrgentFreeze r s = .next t := ht ▸ serve_served h (freezeReq r)
theorem execResumeJobs_served {r : HostReq} {s t : State} (h : Served 1 0x04 r s) (ht : resumeReq r s = t) :
    execResumeJobs r s = .next t := ht ▸ serve_served h (resumeReq r)
theorem execCheckpoint_served {r : HostReq} {s t : State} (h : Served 1 0x05 r s) (ht : checkpointReq r s = t) :
    execCheckpoint r s = .next t := ht ▸ serve_served h (checkpointReq r)
theorem execGrantHostQueue_served {r : HostReq} {s t : State} (h : Served 2 0x06 r s) (ht : grantTurn r s = t) :
    execGrantHostQueue r s = .next t := ht ▸ serve_served h (grantTurn r)
theorem execReadLog_served {r : HostReq} {s : State} (h : Served 3 0x07 r s) : execReadLog r s = .next (readLogTurn r s) :=
  serve_served h (readLogTurn r)
theorem execReadLogCount_served {r : HostReq} {s : State} (h : Served 3 0x0A r s) : execReadLogCount r s =
    .next (doneOk 3 r (BitVec.ofNat 64 (getDie s (fld r.arg0 0 2)).logged) s) := by
  unfold execReadLogCount
  exact serve_served h _
theorem execStageFirmware_served {r : HostReq} {s t : State} (h : Served 0 0x08 r s) (ht : stageFirmwareTurn r s = t) :
    execStageFirmware r s = .next t := ht ▸ serve_served h (stageFirmwareTurn r)
theorem execStageVersion_served {r : HostReq} {place : Bool} {s t : State} (h : Served 0 0x09 r s)
    (ht : stageVersionTurn r place s = t) : execStageVersion r place s = .next t := ht ▸ serve_served h (stageVersionTurn r place)

/-- A freeze or a checkpoint of one frozen job that has stopped everything. -/
theorem freeze_complete {r : HostReq} {s : State} (h0 : r.job ≠ 0) (hk : jobKnown s r.job = true)
    (hs : isSaved s r.job = false) (hf : (getJob s r.job).frozen = true)
    (hstop : stopping [r.job] (heldTiles s r.job) (freezeLook (heldTiles s r.job) s) = false) (hdown : hostDown s = false) :
    let w := writeFreeze r [r.job] (freezeLook (heldTiles s r.job) s)
    freezeReq r s = doneOk 1 r (freezeCount w [r.job]) w ∧ isSaved w r.job = true ∧
      (∀ t, t ∈ heldTiles s r.job → (getTile w t).job = 0) ∧
      checkpointReq r s = doneOk 1 r (freezeCount w [r.job])
        (resumeLog r (savedOf r.job w).length (resumeSaved (savedOf r.job w) (keepImages (savedOf r.job w) w))) := by
  have hlook := freezeLook_frame (heldTiles s r.job) s
  have hku : jobKnown (freezeLook (heldTiles s r.job) s) r.job = true :=
    (jobKnown_of_jobs (by rw [hlook]) r.job).trans hk
  have hts := heldTiles_congr (j := r.job) (show (freezeLook (heldTiles s r.job) s).jobs = s.jobs by rw [hlook]) (by rw [hlook])
  obtain ⟨hkw, hsw, hfree⟩ := writeFreeze_spec r hku
  have hnamed := namedJobs_of_known h0 hkw
  exact ⟨(freezeReq_complete hk (freezeTurn_saves _ h0 hk hs hf hstop hdown)).trans (by rw [hnamed]), hsw,
    fun t ht => hfree t (hts.symm ▸ ht), checkpointReq_complete h0 hk hs (freezeTurn_saves _ h0 hk hs hf hstop hdown) hkw hsw⟩

end Sys2Proof.Machine
end
section
open Sys2Proof Sys2Proof.Machine Sys2Proof.Safety

/-- Settles O58: a served request runs its turn, whose branches complete it; a job known, saved or frozen stays so through
what the freeze and the resumption do to the rest of the state. -/
theorem hostRequests : Obligations.HostRequests := by
  unfold Obligations.HostRequests
  refine ⟨requests_idle,
    fun r gr s hs => ⟨fun hd => ?_, fun d hd => ⟨fun hbad => ?_, fun hdesc hok hgrants hformat hpages htables t hrun => ?_⟩⟩,
    fun r s hs => ⟨fun hk => ?_, fun hk hkill => ⟨fun hb => ?_, fun hb => ?_⟩⟩,
    fun r s h0 => ⟨fun hs hk => ?_, fun hs hk hsaved => ?_, fun hk hsaved hfrozen hstop hdown => ⟨fun hs => ?_, fun hs => ?_⟩,
      fun hs hk hsaved => ⟨fun ht => ?_, fun ht he hdown => ?_⟩⟩,
    fun r s => ⟨fun hs hk hh ho hp => ⟨fun h64 => ?_, fun h64 => ?_⟩, fun hs => execReadLog_served hs,
      fun hs => execReadLogCount_served hs,
      fun hs => ⟨fun hsema => ?_, fun hsema hok => ?_, fun hsema hbad => ⟨1 + Config.firmwareClass.val, ?_⟩⟩,
      fun place rs hs => ⟨fun h => ?_, fun hk ht hf hz => ⟨fun hn => ?_, fun him hok hperm h0 hv hfits => ?_⟩⟩⟩,
    fun site s => ⟨fun h => ?_, fun h hg hm => ?_⟩⟩
  · exact execStartJob_served hs (startTurn_undescribed gr hd)
  · exact execStartJob_served hs (startTurn_badDescriptor hd hbad)
  · have hsome : (Plan.mapAll ⟨r, gr, d⟩ s).isSome = true := by
      cases hm : Plan.mapAll ⟨r, gr, d⟩ s with
      | none => rw [hm] at htables; cases htables
      | some u => rfl
    have hjob := Plan.run_job hsome hrun
    exact ⟨execStartJob_served hs (startTurn_run hd hdesc hok hgrants hformat hpages htables hrun),
      congrArg Job.seed hjob, congrArg Job.tag hjob, congrArg Job.hcq hjob⟩
  · exact execKillJob_served hs (killTurn_unknown hk)
  · exact execKillJob_served hs (killTurn_busy hk hkill hb)
  · exact ⟨_, execKillJob_served hs rfl, jobKnown_killTurn hk hkill hb⟩
  · exact execUrgentFreeze_served hs (freezeReq_unknown h0 hk)
  · refine execUrgentFreeze_served hs ((freezeReq_complete hk (freezeTurn_saved _ h0 hk hsaved)).trans ?_)
    rw [namedJobs_of_known h0 hk]
  · obtain ⟨hfreeze, hsw, hfree, -⟩ := freeze_complete h0 hk hsaved hfrozen hstop hdown
    exact ⟨execUrgentFreeze_served hs hfreeze, hsw, hfree⟩
  · exact execCheckpoint_served hs (freeze_complete h0 hk hsaved hfrozen hstop hdown).2.2.2
  · exact execResumeJobs_served hs (resumeReq_taken h0 hk ht)
  · exact ⟨execResumeJobs_served hs (resumeReq_complete h0 hk hsaved ht he hdown), resumeSaved_savedOf hsaved⟩
  · exact execGrantHostQueue_served hs ((grantTurn_open hk hh ho hp).trans (if_neg (not_not.mpr h64)))
  · exact execGrantHostQueue_served hs ((grantTurn_open hk hh ho hp).trans (if_pos h64))
  · exact execStageFirmware_served hs (stageFirmwareTurn_unheld hsema)
  · exact execStageFirmware_served hs (stageFirmwareTurn_valid hsema hok)
  · exact execStageFirmware_served hs (stageFirmwareTurn_invalid hsema hbad)
  · exact execStageVersion_served hs (stageVersionTurn_refused h)
  · exact execStageVersion_served hs ((stageVersionTurn_taken hk ht hf hz).1 hn)
  · exact execStageVersion_served hs ((stageVersionTurn_taken hk ht hf hz).2 rs him hok hperm h0 hv hfits)
  · exact execUrgentRun_idle (site := site) (s := s) h
  · exact execUrgentRun_spec (site := site) (s := s) h hg hm

end

section
/-!
PROOFS. TIMER and the pager's answers to strands and engines (R91, R171, R175, R412), for O56.
-/

namespace Sys2Proof.Machine

open Sys2Proof.Safety

/-! ### TIMER (R91, R360) -/

theorem takePending_timer (route : Word) {t : Strand} (hd : t.timerDue = true) (hh : t.handler = false) :
    takePending route t = { enterTrap route .timer t.pc 0 (latchDue t) with readyAt := t.readyAt + 1 } := by
  have hp : (latchDue t).pending.getLsbD 13 = true := by
    simp [latchDue, hd]
  have hl : lowestPending (latchDue t) = some .timer := if_pos hp
  have hn : (latchDue t).handler = false := hh
  unfold takePending
  dsimp only
  rw [hn, if_neg Bool.false_ne_true, hl]
  rfl

/-- A TIMER that is due at a boundary outside a handler is taken, and nothing but its strand changes. -/
theorem boundary_timer {e : SRef} {s : State} (hd : (getStrand s (skey e)).timerDue = true)
    (hh : (getStrand s (skey e)).handler = false) (hn : (getStrand s (skey e)).halting = false) :
    let t := getStrand s (skey e)
    let u := boundary e s
    (getStrand u (skey e)).cause = 13 ∧ (getStrand u (skey e)).handler = true ∧
      (getStrand u (skey e)).trappc = offsetBits t.pc ∧ (getStrand u (skey e)).trapaddr = 0 ∧
      (getStrand u (skey e)).x = t.x ∧ SameBut e s u := by
  have hb : boundary e s = modStrand (skey e) (takePending (routeOf s e)) s := by rw [boundary, if_neg (by simp [hn])]
  have hs : getStrand (boundary e s) (skey e) = _ := (congrArg (getStrand · (skey e)) hb).trans
    ((getStrand_modStrand_same ..).trans (takePending_timer (routeOf s e) hd hh))
  refine ⟨by rw [hs]; rfl, by rw [hs]; rfl, by rw [hs]; rfl, by rw [hs]; rfl, by rw [hs]; rfl, by rw [hb]; rfl, fun k hk => ?_⟩
  rw [hb, getStrand_modStrand_other _ _ hk]

theorem execQuantumExpiry_idle {e : SRef} {s : State} (h : (getStrand s (skey e)).timerDue = false) :
    execQuantumExpiry e s = .next s := if_neg fun h' => by rw [h] at h'; exact absurd h'.1 Bool.false_ne_true

theorem execQuantumExpiry_due {e : SRef} {s : State} (hd : (getStrand s (skey e)).timerDue = true)
    (hr : (getStrand s (skey e)).run = .run) (hf : (getStrand s (skey e)).flight = none)
    (ha : (getStrand s (skey e)).readyAt ≤ (getTile s e.site).cycle + 1) : execQuantumExpiry e s = .next (boundary e s) :=
  if_pos ⟨hd, by simp [atBoundary, hr, hf], by rw [uncompleted_eq_false hf ha]; rfl⟩

/-! ### The pager's answers to a strand (R171, R412) -/

theorem unlessHeld_free {die r : Nat} {i : Instr} {s : State} (k : Res) (h : roleHeld s die r = false) :
    unlessHeld die r i s k = k := if_neg (by rw [h]; exact Bool.false_ne_true)

theorem execPagerReissue_page {e : SRef} {s : State} {va kind : Nat} {i : Instr} {n m : Nat}
    (hh : roleHeld s (dieOf e.site) 1 = false) (hr : (getStrand s (skey e)).run = .paged)
    (hw : (getStrand s (skey e)).wait = some ⟨.page va kind, i, n, m⟩) : execPagerReissue e s =
      if recordSent e s ∧ reissueOk s (dieOf e.site) (getTile s e.site).job va kind then
        .next (reissue e (takeStrandFault e s)) else .next s := by
  unfold execPagerReissue
  dsimp only
  rw [unlessHeld_free _ hh, hr, hw]

theorem execPagerReissue_other {e : SRef} {s : State} (hh : roleHeld s (dieOf e.site) 1 = false)
    (hr : (getStrand s (skey e)).run ≠ .paged) : execPagerReissue e s = .next s := by
  unfold execPagerReissue
  dsimp only
  rw [unlessHeld_free _ hh]
  split
  · next h _ => exact absurd h hr
  · rfl

theorem execPagerDeliver_page {e : SRef} {s : State} {va kind : Nat} {i : Instr} {n m : Nat} (c : Cause)
    (hh : roleHeld s (dieOf e.site) 1 = false) (hr : (getStrand s (skey e)).run = .paged)
    (hw : (getStrand s (skey e)).wait = some ⟨.page va kind, i, n, m⟩) : execPagerDeliver e c s =
      if recordSent e s ∧ deliverOk s (dieOf e.site) (getTile s e.site).job va kind c then
        .next (raiseLate c (BitVec.ofNat 64 va) (asStrand e (takeStrandFault e
          (if kind = 3 then pagerLog (dieOf e.site) (getTile s e.site).logical (getTile s e.site).job (endpoint s e)
            (malformedEntry s (dieOf e.site) (getTile s e.site).job va) 0xFE s else s))))
      else .next s := by
  unfold execPagerDeliver
  dsimp only
  rw [unlessHeld_free _ hh, hr, hw]

theorem execPagerDeliver_other {e : SRef} {s : State} (c : Cause) (hh : roleHeld s (dieOf e.site) 1 = false)
    (hr : (getStrand s (skey e)).run ≠ .paged) : execPagerDeliver e c s = .next s := by
  unfold execPagerDeliver
  dsimp only
  rw [unlessHeld_free _ hh]
  split
  · next h _ => exact absurd h hr
  · rfl

/-- The strand that leaves its wait to enter its vector. -/
def raised (s : State) : State := modMe (fun t => { t with wait := none, flight := none, run := .run }) s
/-- The strand at its vector. -/
def vectored (c : Cause) (pc addr : Word) (lat : Nat) (s : State) : State :=
  modMe (fun t => { enterTrap (routeOf s s.cur) c pc addr (latchDue t) with readyAt := (getTile s s.cur.site).cycle + lat }) s

/-- Outside a handler, not halting, a strand that raises a cause enters its vector. -/
theorem raiseAt_vectored {c : Cause} {pc addr : Word} {lat : Nat} {s : State} (hh : (me s).handler = false)
    (hn : (me s).halting = false) : raiseAt c pc addr lat s = if c = .uncorr then
      enqueue (recoveryOf (vectored c pc addr lat (raised s)) s.cur.site) (vectored c pc addr lat (raised s))
      else vectored c pc addr lat (raised s) := by
  have hme : me (raised s) = { me s with wait := none, flight := none, run := .run } := me_modMe ..
  have hh' : ¬((me (raised s)).handler = true ∧ c ≠ .uncorr) := fun h => by rw [hme, hh] at h; exact Bool.false_ne_true h.1
  have hn' : ¬(me (raised s)).halting = true := fun h => by rw [hme, hn] at h; exact Bool.false_ne_true h
  exact (if_neg hh').trans (if_neg hn')

theorem raiseAt_taken {c : Cause} {pc addr : Word} {lat : Nat} {s : State} (hh : (me s).handler = false)
    (hn : (me s).halting = false) :
    let t := getStrand (raiseAt c pc addr lat s) (skey s.cur)
    t.run = .run ∧ t.cause = BitVec.ofNat 4 (causeCode c) ∧ t.trapaddr = addr ∧ t.trappc = offsetBits pc ∧ t.handler = true ∧
      t.wait = none ∧ t.x = (me s).x := by
  have hme : me (raised s) = { me s with wait := none, flight := none, run := .run } := me_modMe ..
  have hv : me (vectored c pc addr lat (raised s)) = _ := me_modMe ..
  have ht : getStrand (raiseAt c pc addr lat s) (skey s.cur) = me (vectored c pc addr lat (raised s)) := by
    rw [raiseAt_vectored hh hn]
    split <;> rfl
  dsimp only
  rw [ht, hv, hme]
  exact ⟨rfl, rfl, rfl, rfl, rfl, rfl, rfl⟩

theorem raiseLate_taken {c : Cause} {addr : Word} {s : State} (hh : (me s).handler = false) (hn : (me s).halting = false) :
    let t := getStrand (raiseLate c addr s) (skey s.cur)
    t.run = .run ∧ t.cause = BitVec.ofNat 4 (causeCode c) ∧ t.trapaddr = addr ∧ t.trappc = offsetBits (me s).pc ∧
      t.handler = true ∧ t.wait = none ∧ t.x = (me s).x := raiseAt_taken hh hn

theorem takeStrandFault_frame (e : SRef) (s : State) : takeStrandFault e s =
    { s with dies := (takeStrandFault e s).dies, internal := (takeStrandFault e s).internal } := takeFault_frame ..

/-- A strand that issues its instruction again keeps its PC and registers. -/
theorem reissue_taken (e : SRef) (s : State) :
    let u := reissue e (takeStrandFault e s)
    (getStrand u (skey e)).run = .run ∧ (getStrand u (skey e)).wait = none ∧ (getStrand u (skey e)).pc = (getStrand s (skey e)).pc ∧
      (getStrand u (skey e)).x = (getStrand s (skey e)).x ∧ u.mem = s.mem := by
  have hs : getStrand (takeStrandFault e s) (skey e) = getStrand s (skey e) :=
    getStrand_of_strands (by rw [takeStrandFault_frame]) _
  have hr : getStrand (reissue e (takeStrandFault e s)) (skey e) = _ := getStrand_modStrand_same ..
  have hm : (reissue e (takeStrandFault e s)).mem = s.mem := by
    show (takeStrandFault e s).mem = s.mem
    rw [takeStrandFault_frame]
  dsimp only
  rw [hr, hs]
  exact ⟨rfl, rfl, rfl, rfl, hm⟩

theorem pagerLog_strands (die unit : Nat) (job : BitVec 16) (ep : BitVec 32) (addr : Word) (req : Nat) (s : State) :
    (pagerLog die unit job ep addr req s).strands = s.strands := logTo_strands ..

/-- The cause that the pager delivers to a strand outside a handler: it enters its vector with the VA. -/
theorem deliver_taken {e : SRef} {c : Cause} {va : Nat} {s u : State} (hu : u.strands = s.strands)
    (hh : (getStrand s (skey e)).handler = false) (hn : (getStrand s (skey e)).halting = false) :
    let t := getStrand (raiseLate c (BitVec.ofNat 64 va) (asStrand e (takeStrandFault e u))) (skey e)
    t.run = .run ∧ t.cause = BitVec.ofNat 4 (causeCode c) ∧ t.trapaddr = BitVec.ofNat 64 va ∧
      t.trappc = offsetBits (getStrand s (skey e)).pc ∧ t.handler = true ∧ t.wait = none ∧ t.x = (getStrand s (skey e)).x := by
  have hs : me (asStrand e (takeStrandFault e u)) = getStrand s (skey e) :=
    getStrand_of_strands (show (takeStrandFault e u).strands = s.strands by rw [takeStrandFault_frame]; exact hu) _
  have h := raiseLate_taken (c := c) (addr := BitVec.ofNat 64 va) (s := asStrand e (takeStrandFault e u))
    (by rw [hs]; exact hh) (by rw [hs]; exact hn)
  rw [hs] at h
  exact h

/-! ### The pager's answers to an engine (R175) -/

theorem takeEngineFault_frame (e : Engine) (s : State) : takeEngineFault e s =
    { s with dies := (takeEngineFault e s).dies, internal := (takeEngineFault e s).internal } := takeFault_frame ..

theorem getLoom_of_looms {s t : State} (h : t.looms = s.looms) (y : Nat) : getLoom t y = getLoom s y := by
  rw [getLoom, getLoom, h]
theorem getCarter_of_carters {s t : State} (h : t.carters = s.carters) (n : Nat) : getCarter t n = getCarter s n := by
  rw [getCarter, getCarter, h]

theorem engineStall_loom {s : State} {y t : Nat} {c : LoomCmd} {r : List LoomCmd}
    (hq : tget [] (getLoom s y).queues t = c :: r) (hs : c.stalled = true) :
    engineStall s (.loom y t) = some (y / 64, c.job, c.va, c.skind) := by
  unfold engineStall
  dsimp only
  rw [hq]
  exact if_pos hs

theorem engineStall_carter {s : State} {n : Nat} {c : CarterCmd} {r : List CarterCmd}
    (hs : (getCarter s n).stalled = true) (hq : (getCarter s n).queue = c :: r) :
    engineStall s (.carter n) = some (n / 128, c.job, (getCarter s n).va.toNat, (getCarter s n).skind) := by
  unfold engineStall
  dsimp only
  rw [hq]
  exact if_pos hs

theorem execPagerResume_stalled {e : Engine} {s : State} {die va kind : Nat} {job : BitVec 16}
    (hh : roleHeld s (engineUnit e).1 1 = false) (hs : engineStall s e = some (die, job, va, kind)) (hsent : engineSent e s = true) :
    execPagerResume e s = if reissueOk s die job va kind then .next (engineAnswer e false (takeEngineFault e s)) else .next s := by
  rw [execPagerResume, unlessHeld_free _ hh, hs]
  simp only [hsent, true_and]

/-- The pager's causes are SEG, ADDR and UNCORR. -/
theorem deliverOk_any {s : State} {die va kind : Nat} {job : BitVec 16} (h : ∃ k, deliverOk s die job va kind k = true) :
    [Cause.seg, .addr, .uncorr].any (deliverOk s die job va kind) = true := by
  obtain ⟨k, hk⟩ := h
  refine List.any_eq_true.mpr ⟨k, ?_, hk⟩
  cases k with
  | seg | addr | uncorr => decide
  | _ => cases hk

/-- The state in which the pager aborts a command: a malformed entry is logged. -/
def abortLogged (e : Engine) (die va kind : Nat) (job : BitVec 16) (s : State) : State :=
  if kind = 3 then pagerLog (engineUnit e).1 (engineUnit e).2 job 0 (malformedEntry s die job va) 0xFE s else s

theorem abortLogged_frame (e : Engine) (die va kind : Nat) (job : BitVec 16) (s : State) :
    (takeEngineFault e (abortLogged e die va kind job s)).looms = s.looms ∧
      (takeEngineFault e (abortLogged e die va kind job s)).carters = s.carters := by
  have h : (abortLogged e die va kind job s).looms = s.looms ∧ (abortLogged e die va kind job s).carters = s.carters := by
    unfold abortLogged
    split
    · unfold pagerLog
      rw [logTo_frame]
      exact ⟨rfl, rfl⟩
    · exact ⟨rfl, rfl⟩
  rw [takeEngineFault_frame]
  exact h

theorem execPagerAbort_stalled {e : Engine} {s : State} {die va kind : Nat} {job : BitVec 16}
    (hh : roleHeld s (engineUnit e).1 1 = false) (hs : engineStall s e = some (die, job, va, kind)) (hsent : engineSent e s = true)
    (hk : ∃ k, deliverOk s die job va kind k = true) :
    execPagerAbort e s = .next (engineAnswer e true (takeEngineFault e (abortLogged e die va kind job s))) := by
  unfold execPagerAbort
  rw [unlessHeld_free _ hh, hs]
  exact if_pos ⟨hsent, deliverOk_any hk⟩

/-- The loom's command goes on, or ends with TRANSLATE. -/
theorem loomAnswer_queue {s u : State} {y t : Nat} {c : LoomCmd} {r : List LoomCmd} (abort : Bool) (hu : u.looms = s.looms)
    (hq : tget [] (getLoom s y).queues t = c :: r) (hs : c.stalled = true) :
    tget [] (getLoom (loomAnswer y t abort u) y).queues t =
      { c with stalled := false, fclass := if abort then some 2 else none } :: r := by
  have h : tget [] (getLoom u y).queues t = c :: r := by rw [getLoom_of_looms hu, hq]
  have ha : loomAnswer y t abort u = enqueue (.loomCommandComplete y t) (enqueue (.loomTurn y) (modLoom y (fun l => { l with
      queues := tset l.queues t ({ c with stalled := false, fclass := if abort then some 2 else none } :: r) }) u)) := by
    unfold loomAnswer
    rw [h]
    exact if_pos hs
  rw [ha, getLoom_of_looms (enqueue_looms ..), getLoom_of_looms (enqueue_looms ..), getLoom_modLoom_same, tget_tset_same]

/-- The carter's command goes on from the chunk at which it stalled. -/
theorem carterAnswer_resume {s u : State} {n : Nat} (hu : u.carters = s.carters) (hs : (getCarter s n).stalled = true) :
    (getCarter (carterAnswer n false u) n).stalled = false ∧ (getCarter (carterAnswer n false u) n).cls = (getCarter s n).cls ∧
      Instr.carterChunk n ∈ (carterAnswer n false u).internal := by
  have hc := getCarter_of_carters hu n
  have ha : carterAnswer n false u = enqueue (.carterChunk n) (modCarter n (fun q => { q with
      stalled := false, lines := q.lines.filter fun y => !([] : List LineByte).contains y }) u) := by
    unfold carterAnswer
    dsimp only
    rw [if_pos (by rw [hc]; exact hs)]
    rfl
  have hg : getCarter (carterAnswer n false u) n = _ := (congrArg (getCarter · n) ha).trans
    ((getCarter_of_carters (enqueue_carters ..) n).trans (getCarter_modCarter_same ..))
  refine ⟨by rw [hg], by rw [hg, hc], ?_⟩
  rw [ha, enqueue_internal]
  exact List.mem_append_right _ (List.mem_singleton_self _)

/-- The carter's command ends with TRANSLATE. -/
theorem carterAnswer_abort {s u : State} {n : Nat} (hu : u.carters = s.carters) (hs : (getCarter s n).stalled = true) :
    (getCarter (carterAnswer n true u) n).stalled = false ∧
      (getCarter (carterAnswer n true u) n).cls = some (2, (getCarter s n).va) := by
  have hc := getCarter_of_carters hu n
  have ha : carterAnswer n true u = carterDecide n 2 (getCarter u n).va (modCarter n (fun q => { q with
      stalled := false, lines := q.lines.filter fun y => !(hostLines u (getCarter u n).lines).contains y }) u) := by
    unfold carterAnswer
    dsimp only
    rw [if_pos (by rw [hc]; exact hs)]
    rfl
  have hg : getCarter (carterAnswer n true u) n = _ :=
    (congrArg (getCarter · n) ha).trans (getCarter_modCarter_same n (fun q => { q with cls := some (2, (getCarter u n).va) }) _)
  exact ⟨by rw [hg, getCarter_modCarter_same], by rw [hg, hc]⟩

end Sys2Proof.Machine
end

section
/-!
PROOFS. Fault records, invalidations, the detector and the watchdog (R33, R34, R170, R174), for O56.
-/

namespace Sys2Proof.Machine

open Sys2Proof.Safety

/-! ### Fault records (R174) -/

theorem execAccepted_same (r : BitVec 256) (die : Nat) (s : State) :
    (execAccepted r die s).dies = s.dies ∧ (execAccepted r die s).tiles = s.tiles := by
  have hdecide (n cls : Nat) (a : Word) (u : State) :
      (carterDecide n cls a u).dies = u.dies ∧ (carterDecide n cls a u).tiles = u.tiles := ⟨rfl, rfl⟩
  unfold execAccepted
  dsimp only
  split
  · exact hdecide _ _ _ _
  · exact ⟨rfl, rfl⟩

/-- The fault queue has room: the record enters it, and its tile holds the rest. -/
theorem faultRecordSend_sent {die site : Nat} {t : Tile} {r : BitVec 256} {rest : List (BitVec 256)} {s : State} (hd : die < 4)
    (hf : (s.tiles.find? fun t => t.1 / 1024 == die && t.2.heldFaults != []) = some (site, t)) (ht : t.heldFaults = r :: rest)
    (hl : (getDie s die).faultQ.length < 4096) : ∃ u, execFaultRecordSend die s = .next u ∧
      (getDie u die).faultQ = (getDie s die).faultQ ++ [r] ∧ (getTile u site).heldFaults = rest := by
  have hx : execFaultRecordSend die s = .next (execAccepted r die (enqueue (.faultRecordSend die)
      (modTile site (fun u => { u with heldFaults := rest }) (modDie die (fun d => { d with faultQ := d.faultQ ++ [r] }) s)))) := by
    simp only [execFaultRecordSend, hf, ht, sendFault, hl, if_true]
  refine ⟨_, hx, ?_, ?_⟩
  · rw [getDie_of_dies (execAccepted_same ..).1, getDie_of_dies (enqueue_dies ..), getDie_of_dies (modTile_dies ..),
      getDie_modDie_same _ _ hd]
  · rw [getTile_of_tiles (execAccepted_same ..).2, getTile_enqueue, getTile_modTile_same]

theorem faultRecordSend_full {die site : Nat} {t : Tile} {r : BitVec 256} {rest : List (BitVec 256)} {s : State}
    (hf : (s.tiles.find? fun t => t.1 / 1024 == die && t.2.heldFaults != []) = some (site, t)) (ht : t.heldFaults = r :: rest)
    (hl : 4096 ≤ (getDie s die).faultQ.length) : execFaultRecordSend die s = .next s := by
  simp only [execFaultRecordSend, hf, ht, sendFault, Nat.not_lt.mpr hl, if_false]

theorem faultRecordSend_none {die : Nat} {s : State}
    (hf : (s.tiles.find? fun t => t.1 / 1024 == die && t.2.heldFaults != []) = none) : execFaultRecordSend die s = .next s := by
  simp only [execFaultRecordSend, hf]

/-! ### Invalidations (R170) -/

theorem dropTlb_frame (i : BitVec 128) (s : State) : dropTlb i s = { s with
    tlbs := s.tlbs.map fun t => (t.1, t.2.filter fun x => !invalHits i x), dies := (dropTlb i s).dies } := by
  unfold dropTlb
  dsimp only
  exact List.foldlRecOn (motive := fun (v : State) => v = { s with
    tlbs := s.tlbs.map fun t => (t.1, t.2.filter fun x => !invalHits i x), dies := v.dies }) _ _ rfl
    fun v hv d _ => by rw [modDie_frame, hv]

theorem getDie_dropTlb (i : BitVec 128) (s : State) {d : Nat} (hd : d < 4) :
    getDie (dropTlb i s) d = { getDie s d with ltlb := (getDie s d).ltlb.filter fun x => !invalHits i x } := by
  have hbase : getDie { s with tlbs := s.tlbs.map fun t => (t.1, t.2.filter fun x => !invalHits i x) } d = getDie s d := rfl
  unfold dropTlb
  simp only [List.foldl_cons, List.foldl_nil]
  interval_cases d <;>
    simp only [getDie_modDie_same, getDie_modDie_other, hbase, Nat.reduceLT, ne_eq, OfNat.ofNat_ne_zero, OfNat.zero_ne_ofNat,
      Nat.reduceEqDiff, not_false_eq_true, one_ne_zero, zero_ne_one, OfNat.ofNat_ne_one, OfNat.one_ne_ofNat]

/-- A die that no number below 4 names has no translation queue. -/
theorem lt_of_transQ {s : State} {die : Nat} {i : BitVec 128} {r : List (BitVec 128)} (h : (getDie s die).transQ = i :: r) :
    die < 4 := by
  by_contra hge
  have hl : s.dies.toList.length ≤ die := by rw [Vector.length_toList]; omega
  rw [getDie, List.getD_eq_default _ _ hl] at h
  cases h

theorem jobInFlight_dropTlb (i : BitVec 128) (job : BitVec 16) (s : State) :
    jobInFlight (dropTlb i s) job = jobInFlight s job := by
  rw [dropTlb_frame]
  rfl

/-- The walker takes an invalidation of a job with nothing in flight: exactly the entries that it names go. -/
theorem tlbInvalidate_taken {die : Nat} {i : BitVec 128} {r : List (BitVec 128)} {s : State}
    (hq : (getDie s die).transQ = i :: r) (hp : s.pend = []) (hj : jobInFlight s (i.extractLsb' 64 16) = false) :
    ∃ u, execTlbInvalidate die s = .next u ∧ (getDie u die).transQ = r ∧
      (∀ cl, tget [] u.tlbs cl = (tget [] s.tlbs cl).filter fun x => !invalHits i x) ∧
      (∀ d, d < 4 → (getDie u d).ltlb = (getDie s d).ltlb.filter fun x => !invalHits i x) ∧ u.mem = s.mem := by
  have hd := lt_of_transQ hq
  have hdrain (f : Pend → Bool) : drain f (dropTlb i s) = dropTlb i s :=
    drain_none fun p hp' => by rw [dropTlb_frame, hp] at hp'; cases hp'
  have hx : execTlbInvalidate die s = .next (modDie die (fun d => { d with transQ := r }) (wakeFences (dropTlb i s))) := by
    unfold execTlbInvalidate
    rw [hq]
    dsimp only
    rw [hdrain, jobInFlight_dropTlb, hj, if_neg Bool.false_ne_true]
  have hwake (d : Nat) : getDie (wakeFences (dropTlb i s)) d = getDie (dropTlb i s) d := rfl
  refine ⟨_, hx, by rw [getDie_modDie_same _ _ hd], fun cl => ?_, fun d hd' => ?_, ?_⟩
  · have ht : (modDie die (fun d => { d with transQ := r }) (wakeFences (dropTlb i s))).tlbs =
        s.tlbs.map fun t => (t.1, t.2.filter fun x => !invalHits i x) := by
      rw [modDie_frame]
      show (dropTlb i s).tlbs = _
      rw [dropTlb_frame]
    rw [ht, tget, tget, lookup_map s.tlbs (fun t => t.2.filter fun x => !invalHits i x)]
    cases lookup s.tlbs cl <;> rfl
  · by_cases hdd : d = die
    · rw [hdd, getDie_modDie_same _ _ hd, hwake, getDie_dropTlb i s hd]
    · rw [getDie_modDie_other _ _ hdd, hwake, getDie_dropTlb i s hd']
  · rw [modDie_mem]
    show (dropTlb i s).mem = s.mem
    rw [dropTlb_frame]

/-! ### Reports to the host leave the strands (R351) -/

theorem touchStrand_nil (t : Strand) : touchStrand [] t = t := by
  have hhit (m : Mon) : monHit [] m = false := by
    unfold monHit
    split <;> rfl
  have hmons : map4 (fun _ => touchMon []) t.mons = t.mons := by
    refine Vector.ext fun i hi => ?_
    rw [getElem_map4]
    exact if_neg (by rw [hhit]; exact Bool.false_ne_true)
  unfold touchStrand
  dsimp only
  rw [hmons, List.any_eq_false.mpr fun m _ => by rw [hhit]; exact Bool.false_ne_true, if_neg Bool.false_ne_true]

theorem isLocalKey_hostKey (a i : Nat) (h : i < 2 ^ 50) : isLocalKey (hostKey a + i) = false := by
  exact decide_eq_false (by unfold hostKey; omega)

/-- A write to host memory touches no monitor. -/
theorem writeNat_host_strands (a v : Nat) {n : Nat} (s : State) (hn : n ≤ 2 ^ 50) :
    (writeNat (keysFrom (hostKey a) n) v s).strands = s.strands := by
  have hkeys : ((((keysFrom (hostKey a) n).zip (natBytes (keysFrom (hostKey a) n).length v)).map (·.1)).filter isLocalKey) = [] := by
    refine List.filter_eq_nil_iff.mpr fun k hk => ?_
    obtain ⟨p, hp, rfl⟩ := List.mem_map.mp hk
    obtain ⟨i, hi, he⟩ := List.mem_map.mp (List.of_mem_zip hp).1
    rw [← he, isLocalKey_hostKey a i (lt_of_lt_of_le (List.mem_range.mp hi) hn)]
    exact Bool.false_ne_true
  show (touch _ _).strands = _
  rw [hkeys]
  show s.strands.map (fun p => (p.1, touchStrand [] p.2)) = s.strands
  simp only [touchStrand_nil, Prod.mk.eta, List.map_id']

theorem sendMsix_strands (p v : Nat) (s : State) : (sendMsix p v s).strands = s.strands := by rw [sendMsix_frame]
theorem modHcq_strands (p m : Nat) (f : HostCq → HostCq) (s : State) : (modHcq p m f s).strands = s.strands := by
  rw [modHcq_frame]

theorem hcqPut_strands (p m : Nat) (en : BitVec 256) (s : State) : (hcqPut p m en s).strands = s.strands := by
  unfold hcqPut
  dsimp only
  split
  · split
    · rw [sendMsix_strands, modHcq_strands, writeNat_host_strands _ _ s (by norm_num)]
    · rw [modHcq_strands, writeNat_host_strands _ _ s (by norm_num)]
  · rw [modHcq_strands]

theorem hostPost_strands (job : BitVec 16) (en : BitVec 256) (s : State) : (hostPost job en s).strands = s.strands := by
  unfold hostPost
  dsimp only
  split
  · rfl
  · exact hcqPut_strands ..

/-! ### The detector and the watchdog (R33, R34) -/

/-- Two states that agree in strands, queues and booths. -/
def SameBooths (s t : State) : Prop := t.strands = s.strands ∧ t.queues = s.queues ∧ t.booths = s.booths

theorem getBooth_of_booths {s t : State} (h : t.booths = s.booths) (k : Nat) : getBooth t k = getBooth s k := by
  rw [getBooth, getBooth, h]

theorem sameBooths_trans {s t u : State} (h : SameBooths s t) (h' : SameBooths t u) : SameBooths s u :=
  ⟨h'.1.trans h.1, h'.2.1.trans h.2.1, h'.2.2.trans h.2.2⟩

theorem logTo_sameBooths (die : Nat) (rs : List (BitVec 512)) (s : State) : SameBooths s (logTo die rs s) := by
  rw [logTo_frame]
  exact ⟨rfl, rfl, rfl⟩

theorem hostPost_sameBooths (job : BitVec 16) (en : BitVec 256) (s : State) : SameBooths s (hostPost job en s) := by
  refine ⟨hostPost_strands job en s, ?_⟩
  unfold hostPost
  dsimp only
  split
  · exact ⟨rfl, rfl⟩
  · rw [hcqPut_frame]
    exact ⟨rfl, rfl⟩

theorem declareBooth_sameBooths (bk kind : Nat) (es : List SRef) (s : State) : SameBooths s (declareBooth bk kind es s) :=
  sameBooths_trans (sameBooths_trans (logTo_sameBooths ..) (logTo_sameBooths ..)) (hostPost_sameBooths ..)

/-- One sample: what it leaves of the detector, and whether it declares. -/
theorem execDeadlockSample_looks {job booth : Nat} {s : State} (h0 : booth ≠ 0)
    (ht : (getBooth s (65536 * job + booth)).tiles ≠ []) (hh : detectorHeld s (65536 * job + booth) = false) :
    let bk := 65536 * job + booth
    let b := getBooth s bk
    let declared := b.declared && quiescent s bk && !b.moved
    let now := quiescent s bk && b.lastQuiet && !b.moved && !declared
    let u := modBooth bk (fun b => { b with lastQuiet := quiescent s bk, moved := false, declared := declared || now }) s
    execDeadlockSample job booth s = .next (if now then declareBooth bk 1 (boothStrands b) u else u) := by
  refine if_neg ?_
  rintro (h | h | h)
  · exact h0 h
  · exact ht h
  · rw [hh] at h; cases h

theorem execWatchdogExpiry_early {job booth : Nat} {s : State}
    (hw : (getBooth s (65536 * job + booth)).watch < (getBooth s (65536 * job + booth)).period) :
    execWatchdogExpiry job booth s = .next s := if_pos (.inr (.inr (.inl hw)))

/-- The watchdog declares and restarts; strands and queues stay. -/
theorem execWatchdogExpiry_due {job booth : Nat} {s : State} (h0 : booth ≠ 0)
    (ht : (getBooth s (65536 * job + booth)).tiles ≠ []) (hh : detectorHeld s (65536 * job + booth) = false)
    (hw : (getBooth s (65536 * job + booth)).period ≤ (getBooth s (65536 * job + booth)).watch) :
    ∃ u, execWatchdogExpiry job booth s = .next u ∧ (getBooth u (65536 * job + booth)).watch = 0 ∧
      u.strands = s.strands ∧ u.queues = s.queues := by
  refine ⟨_, if_neg ?_, ?_⟩
  · rintro (h | h | h | h)
    · exact h0 h
    · exact ht h
    · omega
    · rw [hh] at h; cases h
  · obtain ⟨hs, hq, hb⟩ := declareBooth_sameBooths (65536 * job + booth) 2
      ((boothStrands (getBooth s (65536 * job + booth))).filter fun e => blocked (getStrand s (skey e)))
      (modBooth (65536 * job + booth) (fun b => { b with watch := 0 }) s)
    refine ⟨?_, hs, hq⟩
    exact congrArg Booth.watch ((getBooth_of_booths hb _).trans
      (getBooth_modBooth_same (65536 * job + booth) (fun b => { b with watch := 0 }) s))

end Sys2Proof.Machine
end

section
/-!
PROOFS. The recovery of a booth (R284, R376, R377), for O56.
-/

namespace Sys2Proof.Machine

open Sys2Proof.Safety

/-! ### Step 1: everything has stopped -/

/-- A booth whose strands are all OFF has nothing to halt. -/
theorem haltBooth_off {b : Booth} {s : State} (h : boothOff s b = true) : haltBooth b s = s := by
  have hall := List.all_eq_true.mp h
  have hone (e : SRef) (he : e ∈ boothStrands b) : haltStrand e s = s := by
    have hr : (getStrand s (skey e)).run = .off := eq_of_beq (hall e he)
    rw [haltStrand]
    simp only [hr]
  exact List.foldlRecOn (motive := (· = s)) (boothStrands b) _ rfl fun u hu e he => by rw [hu]; exact hone e he

theorem boothOff_of_strands {s t : State} (h : t.strands = s.strands) (b : Booth) : boothOff t b = boothOff s b := by
  unfold boothOff
  exact congrArg _ (funext fun e => by rw [getStrand_of_strands h])

/-- Is this a record in transit to one of these tiles? -/
def arrivesAt (ts : List Nat) : Instr → Bool
  | .recordMigrationArrival n _ _ _ => ts.contains n
  | _ => false

theorem arrivesAt_of_inTransit {ts : List Nat} {i : Instr} (h : inTransit ts i = false) : arrivesAt ts i = false := by
  unfold arrivesAt
  split
  · exact (Bool.or_eq_false_iff.mp h).1
  · rfl

/-- No record in transit to these tiles returns. -/
theorem returnRecords_none {ts : List Nat} {s : State} (h : ∀ i, i ∈ s.internal → inTransit ts i = false) :
    returnRecords ts s = s := by
  have hnone : s.internal.filter (arrivesAt ts) = [] :=
    List.filter_eq_nil_iff.mpr fun i hi => ne_true_of_eq_false (arrivesAt_of_inTransit (h i hi))
  have hall : (s.internal.filter fun i => !arrivesAt ts i) = s.internal :=
    List.filter_eq_self.mpr fun i hi => by rw [arrivesAt_of_inTransit (h i hi)]; rfl
  have heq : returnRecords ts s = (s.internal.filter (arrivesAt ts)).foldl (fun s i => match i with
      | .recordMigrationArrival n f p r => landRecord f n f p r s
      | _ => s) { s with internal := s.internal.filter fun i => !arrivesAt ts i } := rfl
  rw [heq, hnone, hall]
  rfl

theorem boothBusy_congr {s t : State} (b : Booth) (hc : t.carters = s.carters) (hu : t.cellars = s.cellars)
    (hl : t.looms = s.looms) (hp : t.pend = s.pend) : boothBusy t b = boothBusy s b := by
  rw [boothBusy, boothBusy, hc, hu, hl, hp]

/-- A booth that recovers: the loom commands into its blocks are marked. -/
def recoveryMarked (bk : Nat) (s : State) : State := discardLoom bk (modBooth bk (fun b => { b with recovering := true }) s)

/-- The event of a recovery is served. -/
def recoveryServed (job booth : Nat) (s : State) : State :=
  { s with internal := s.internal.filter (· != .boothRecovery job booth) }

theorem inTransit_recoveryServed {job booth bk : Nat} {ts : List Nat} {s : State}
    (h : ∀ i, i ∈ s.internal → inTransit ts i = false) :
    ∀ i, i ∈ (recoveryServed job booth (recoveryMarked bk s)).internal → inTransit ts i = false := by
  intro i hi
  rcases List.mem_append.mp (List.mem_filter.mp hi).1 with hi | hi
  · exact h i hi
  · obtain ⟨y, -, rfl⟩ := List.mem_map.mp hi
    rfl

/-- The state from which a booth is rewound, once its strands are OFF and the engines are done. -/
def recoveryReady (job booth : Nat) (s : State) : State :=
  resetBlocks (65536 * job + booth) (freeSlots (getBooth s (65536 * job + booth))
    (recoveryServed job booth (recoveryMarked (65536 * job + booth) s)))

theorem recoveryReady_same (job booth : Nat) (s : State) :
    (recoveryReady job booth s).strands = s.strands ∧ (recoveryReady job booth s).queues = s.queues ∧
      getBooth (recoveryReady job booth s) (65536 * job + booth) =
        { getBooth s (65536 * job + booth) with recovering := true } :=
  ⟨rfl, rfl, (getBooth_of_booths (s := modBooth (65536 * job + booth) (fun b => { b with recovering := true }) s) rfl _).trans
    (getBooth_modBooth_same ..)⟩

theorem execBoothRecovery_past {job booth : Nat} {s : State} (h0 : booth < 65536)
    (h : pastRecovery s (65536 * job + booth) = true) : execBoothRecovery job booth s = .next s :=
  (if_neg fun h' => by omega).trans (if_pos (.inr h))

theorem execBoothRecovery_waits {job booth : Nat} {s : State} (h0 : booth ≠ 0) (h1 : booth < 65536)
    (hp : pastRecovery s (65536 * job + booth) = false) (hw : (getJob s (BitVec.ofNat 16 job)).frozen = true ∨
      roleHeld s (dieOf ((getBooth s (65536 * job + booth)).tiles.headD 0)) 4 = true) :
    execBoothRecovery job booth s = .next (enqueueOnce (.boothRecovery job booth) s) :=
  (if_neg fun h' => by omega).trans ((if_neg (by simp [h0, hp])).trans (if_pos hw))

theorem mem_enqueueOnce (i : Instr) (s : State) : i ∈ (enqueueOnce i s).internal := by
  unfold enqueueOnce
  split
  · next h => exact List.contains_iff_mem.mp h
  · exact List.mem_append_right _ (List.mem_singleton_self i)

theorem enqueueOnce_same (i : Instr) (s : State) :
    (enqueueOnce i s).strands = s.strands ∧ (enqueueOnce i s).queues = s.queues := by
  unfold enqueueOnce
  split <;> exact ⟨rfl, rfl⟩

/-- The state in which the loader looks whether the booth has stopped. -/
def recoveryLook (job booth : Nat) (s : State) : State :=
  let b := getBooth s (65536 * job + booth)
  drain (fun p => b.tiles.contains p.e.site) (returnRecords b.tiles (recoveryServed job booth
    (haltBooth b (recoveryMarked (65536 * job + booth) s))))

theorem execBoothRecovery_looks {job booth : Nat} {s : State} (h0 : booth ≠ 0) (h1 : booth < 65536)
    (hp : pastRecovery s (65536 * job + booth) = false) (hf : (getJob s (BitVec.ofNat 16 job)).frozen = false)
    (hh : roleHeld s (dieOf ((getBooth s (65536 * job + booth)).tiles.headD 0)) 4 = false) :
    let bk := 65536 * job + booth
    let b := getBooth s bk
    let u := recoveryLook job booth s
    execBoothRecovery job booth s =
      if !boothOff u b ∨ boothBusy u b then .next (enqueue (.boothRecovery job booth) u)
      else if b.recovered ∧ !b.byTwin then .next (failBooth bk (resetBlocks bk (freeSlots b u)))
      else .next (restartBooth bk (resetBlocks bk (freeSlots b u))) :=
  (if_neg fun h' => by omega).trans ((if_neg (by simp only [h0, hp, false_or, Bool.false_eq_true, not_false_eq_true])).trans
    (if_neg (by simp only [hf, hh, Bool.false_eq_true, or_self, not_false_eq_true])))

/-- With every strand OFF, no record in transit and nothing handed off, the loader finds the booth as it is. -/
theorem recoveryLook_stopped {job booth : Nat} {s : State}
    (hoff : boothOff s (getBooth s (65536 * job + booth)) = true) (hpend : s.pend = [])
    (ht : ∀ i, i ∈ s.internal → inTransit (getBooth s (65536 * job + booth)).tiles i = false) :
    recoveryLook job booth s = recoveryServed job booth (recoveryMarked (65536 * job + booth) s) := by
  have hmark : haltBooth (getBooth s (65536 * job + booth)) (recoveryMarked (65536 * job + booth) s) =
      recoveryMarked (65536 * job + booth) s :=
    haltBooth_off ((boothOff_of_strands (s := s) rfl _).trans hoff)
  have hpend' : (recoveryServed job booth (recoveryMarked (65536 * job + booth) s)).pend = [] := hpend
  rw [recoveryLook, hmark, returnRecords_none (inTransit_recoveryServed ht),
    drain_none fun p hp => by rw [hpend'] at hp; cases hp]

theorem execBoothRecovery_ready {job booth : Nat} {s : State} (h0 : booth ≠ 0) (h1 : booth < 65536)
    (hp : pastRecovery s (65536 * job + booth) = false) (hf : (getJob s (BitVec.ofNat 16 job)).frozen = false)
    (hh : roleHeld s (dieOf ((getBooth s (65536 * job + booth)).tiles.headD 0)) 4 = false)
    (hoff : boothOff s (getBooth s (65536 * job + booth)) = true) (hpend : s.pend = [])
    (ht : ∀ i, i ∈ s.internal → inTransit (getBooth s (65536 * job + booth)).tiles i = false)
    (hbusy : boothBusy (discardLoom (65536 * job + booth) s) (getBooth s (65536 * job + booth)) = false) :
    execBoothRecovery job booth s =
      if (getBooth s (65536 * job + booth)).recovered ∧ !(getBooth s (65536 * job + booth)).byTwin then
        .next (failBooth (65536 * job + booth) (recoveryReady job booth s))
      else .next (restartBooth (65536 * job + booth) (recoveryReady job booth s)) := by
  have hoff' : boothOff (recoveryServed job booth (recoveryMarked (65536 * job + booth) s))
      (getBooth s (65536 * job + booth)) = true := (boothOff_of_strands (s := s) rfl _).trans hoff
  have hbusy' : boothBusy (recoveryServed job booth (recoveryMarked (65536 * job + booth) s))
      (getBooth s (65536 * job + booth)) = false := (boothBusy_congr _ rfl rfl rfl rfl).trans hbusy
  rw [execBoothRecovery_looks h0 h1 hp hf hh, recoveryLook_stopped hoff hpend ht]
  exact if_neg (by simp only [hoff', hbusy', Bool.not_true, Bool.false_eq_true, or_self, not_false_eq_true])

/-! ### After a second UNCORR (R284) -/

theorem setYards_sameBooths (ys : List Nat) (s : State) : SameBooths s (setYards ys s) := by
  rw [setYards_frame]
  exact ⟨rfl, rfl, rfl⟩

theorem boothLog_sameBooths (bk kind cls : Nat) (s : State) : SameBooths s (boothLog bk kind cls s) := by
  unfold boothLog
  exact logTo_sameBooths _ _ s

theorem boothReport_sameBooths (bk cls : Nat) (s : State) : SameBooths s (boothReport bk cls s) := by
  unfold boothReport
  exact hostPost_sameBooths _ _ s

/-- The booth stays halted and reported; strands and queues stay. -/
theorem failBooth_spec (bk : Nat) (s : State) :
    (getBooth (failBooth bk s) bk).halted = true ∧ (getBooth (failBooth bk s) bk).reported = true ∧
      (failBooth bk s).strands = s.strands ∧ (failBooth bk s).queues = s.queues := by
  have hsame (u : State) (ys : List Nat) : SameBooths u (boothReport bk 5 (boothLog bk 0x0B 5 (setYards ys u))) :=
    sameBooths_trans (setYards_sameBooths ys u) (sameBooths_trans (boothLog_sameBooths ..) (boothReport_sameBooths ..))
  obtain ⟨ys, hfail⟩ : ∃ ys, failBooth bk s = boothReport bk 5 (boothLog bk 0x0B 5 (setYards ys
      (modBooth bk (fun b => { b with halted := true, finished := true, reported := true, recovering := false }) s))) :=
    ⟨_, rfl⟩
  rw [hfail]
  generalize hu : modBooth bk (fun b => { b with halted := true, finished := true, reported := true, recovering := false }) s = u
  obtain ⟨hs, hq, hb⟩ := hsame u ys
  have hg := getBooth_of_booths hb bk
  refine ⟨?_, ?_, hs.trans (by rw [← hu]; rfl), hq.trans (by rw [← hu]; rfl)⟩
  · rw [hg, ← hu, getBooth_modBooth_same]
  · rw [hg, ← hu, getBooth_modBooth_same]

/-! ### Rewind and restart (R284, R377) -/

/-- The part of a rewind that concerns a queue's consumer. -/
def rewindInput (bk : Nat) (q : Queue) : Queue := if isInput bk q then { q with head := q.keep, inSt := q.edgeSt } else q

/-- The part that concerns its producers. -/
def rewindOutput (bk : Nat) (heads : List Nat) (k : Nat) (q : Queue) : Queue :=
  if isOutA bk q || isOutB bk q || heads.contains k then
    let d := q.tail - q.commit
    let q := { q with
      tail := q.commit
      spilled := q.spilled - d
      marks := if isOutB bk q && !isOutA bk q then q.marks else []
      marksB := if isOutA bk q && !isOutB bk q then q.marksB else []
      twinA := if isOutA bk q then [] else q.twinA
      twinB := if isOutB bk q then [] else q.twinB }
    { q with pushers := keptPushers q }
  else q

theorem rewindQueue_eq (bk : Nat) (heads : List Nat) (k : Nat) (q : Queue) :
    rewindQueue bk heads k q = rewindOutput bk heads k (rewindInput bk q) := rfl

theorem rewindOutput_input (bk : Nat) (heads : List Nat) (k : Nat) (q : Queue) :
    (rewindOutput bk heads k q).head = q.head ∧ (rewindOutput bk heads k q).inSt = q.inSt := by
  unfold rewindOutput
  split <;> exact ⟨rfl, rfl⟩

/-- An input rewinds to KEEP. -/
theorem rewindQueue_input {bk : Nat} (heads : List Nat) (k : Nat) {q : Queue} (h : isInput bk q = true) :
    (rewindQueue bk heads k q).head = q.keep ∧ (rewindQueue bk heads k q).inSt = q.edgeSt := by
  obtain ⟨hh, hi⟩ := rewindOutput_input bk heads k (rewindInput bk q)
  rw [rewindQueue_eq, hh, hi, rewindInput, if_pos h]
  exact ⟨rfl, rfl⟩

/-- An output rewinds to COMMIT. -/
theorem rewindQueue_output {bk : Nat} (heads : List Nat) (k : Nat) {q : Queue} (h : isOutA bk q = true) :
    (rewindQueue bk heads k q).tail = q.commit ∧ (rewindQueue bk heads k q).marks = [] := by
  have hin : isOutA bk (rewindInput bk q) = true ∧ (rewindInput bk q).commit = q.commit := by
    unfold rewindInput
    split <;> exact ⟨h, rfl⟩
  rw [rewindQueue_eq, rewindOutput, if_pos (by rw [hin.1]; rfl)]
  exact ⟨hin.2, if_neg (by rw [hin.1, Bool.not_true, Bool.and_false]; exact Bool.false_ne_true)⟩

theorem rewindBooth_frame (bk : Nat) (s : State) :
    ∃ heads, AgendaFrame { s with queues := s.queues.map fun p => (p.1, rewindQueue bk heads p.1 p.2) } (rewindBooth bk s) :=
  ⟨_, agendaFrame_foldl (f := fun s k => wakeQueue k s) (fun u k => wakeQueue_frame k u) _ _⟩

/-- A queue that the device lists rewinds as its booth's. -/
theorem getQueue_rewound {s t : State} {bk k : Nat} {heads : List Nat}
    (h : t.queues = s.queues.map fun p => (p.1, rewindQueue bk heads p.1 p.2)) (hst : (getQueue s k).st ≠ .free) :
    getQueue t k = rewindQueue bk heads k (getQueue s k) := by
  have hl := lookup_map s.queues (fun p => rewindQueue bk heads p.1 p.2) k
  rw [getQueue, tget] at hst
  rw [getQueue, tget, h, hl, getQueue, tget]
  cases hq : lookup s.queues k with
  | none => rw [hq] at hst; exact absurd rfl hst
  | some q => rfl

theorem st_of_isInput {bk : Nat} {q : Queue} (h : isInput bk q = true) : q.st ≠ .free := fun he => by
  rw [isInput, he, Bool.and_eq_true] at h
  exact absurd h.2 (by decide)

theorem st_of_isOutA {bk : Nat} {q : Queue} (h : isOutA bk q = true) : q.st ≠ .free := fun he => by
  rw [isOutA, he, Bool.and_eq_true] at h
  exact absurd h.2 (by decide)

/-- The tiles and the image of a booth as its restart needs them. -/
def restartLoaded (bk : Nat) (s : State) : State :=
  (getBooth s bk).tiles.foldl (fun s t => modTile t clearReady s) (loadImage (getBooth s bk) (rewindBooth bk s))

theorem restartBooth_eq (bk : Nat) (s : State) : restartBooth bk s = boothLog bk 0x0A 5 (modBooth bk (fun b =>
    { b with recovered := b.recovered || !b.byTwin, recovering := false, byTwin := false })
    (startBooth (getBooth s bk) (restartLoaded bk s))) := rfl

theorem restartLoaded_same (bk : Nat) (s : State) : (restartLoaded bk s).booths = s.booths ∧
    (restartLoaded bk s).queues = (rewindBooth bk s).queues := by
  obtain ⟨heads, hr⟩ := rewindBooth_frame bk s
  have hload (u : State) : (loadImage (getBooth s bk) u).booths = u.booths ∧ (loadImage (getBooth s bk) u).queues = u.queues :=
    ⟨foldl_keeps State.booths (f := fun s (p : Nat × List Byte) => writeBytes ((keysFrom p.1 p.2.length).zip p.2) s) (fun _ _ => rfl) _ u,
      foldl_keeps State.queues (f := fun s (p : Nat × List Byte) => writeBytes ((keysFrom p.1 p.2.length).zip p.2) s) (fun _ _ => rfl) _ u⟩
  have htiles (l : List Nat) (u : State) : (l.foldl (fun s t => modTile t clearReady s) u).booths = u.booths ∧
      (l.foldl (fun s t => modTile t clearReady s) u).queues = u.queues :=
    ⟨foldl_keeps State.booths (f := fun s t => modTile t clearReady s) (fun _ _ => rfl) l u,
      foldl_keeps State.queues (f := fun s t => modTile t clearReady s) (fun _ _ => rfl) l u⟩
  refine ⟨(htiles _ _).1.trans ((hload _).1.trans (by rw [hr])), (htiles _ _).2.trans (hload _).2⟩

/-- The tolerance registers of a booth's tiles at their reset values. -/
def startTols (b : Booth) (s : State) : State := b.tiles.foldl (fun s t => modTile t (fun u => { u with tol := Tile.atReset.tol }) s) s

/-- One strand that the manifest names. -/
def startOne (s : State) (st : Start) : State := startStrand ⟨st.site, st.k⟩ (BitVec.ofNat 64 st.pc) 0 st.task st.segs st.binds s

theorem startBooth_eq (b : Booth) (s : State) : startBooth b s = (b.starts.filter (·.on)).foldl startOne (startTols b s) := rfl

theorem startBooth_same (b : Booth) (s : State) : (startBooth b s).booths = s.booths ∧ (startBooth b s).queues = s.queues := by
  have htols : (startTols b s).booths = s.booths ∧ (startTols b s).queues = s.queues :=
    ⟨foldl_keeps State.booths (f := fun s t => modTile t (fun u => { u with tol := Tile.atReset.tol }) s) (fun _ _ => rfl) _ s,
      foldl_keeps State.queues (f := fun s t => modTile t (fun u => { u with tol := Tile.atReset.tol }) s) (fun _ _ => rfl) _ s⟩
  rw [startBooth_eq]
  exact ⟨(foldl_keeps State.booths (fun u st => by rw [startOne, startStrand_frame]) _ _).trans htols.1,
    (foldl_keeps State.queues (fun u st => by rw [startOne, startStrand_frame]) _ _).trans htols.2⟩

/-- The strand of a booth's one start runs. -/
theorem startBooth_one {b : Booth} {st : Start} (s : State) (h : b.starts = [st]) (hon : st.on = true) :
    (getStrand (startBooth b s) (8 * st.site + st.k)).run = .run ∧
      (getStrand (startBooth b s) (8 * st.site + st.k)).pc = BitVec.ofNat 64 st.pc := by
  have hone : startBooth b s = startOne (startTols b s) st := by
    rw [startBooth_eq, h, List.filter_cons, if_pos hon, List.filter_nil]
    rfl
  obtain ⟨hrun, hpc, -⟩ := getStrand_startStrand_same ⟨st.site, st.k⟩ (BitVec.ofNat 64 st.pc) 0 st.task st.segs st.binds (startTols b s)
  rw [hone]
  exact ⟨hrun, hpc⟩

/-- A booth restarted as R377 says: its queues rewound, its one strand running. -/
theorem restartBooth_spec (bk : Nat) (s : State) :
    let b := getBooth s bk
    let t := restartBooth bk s
    (getBooth t bk).recovered = (b.recovered || !b.byTwin) ∧ (getBooth t bk).recovering = false ∧
      (∀ k, isInput bk (getQueue s k) = true → (getQueue t k).head = (getQueue s k).keep ∧
        (getQueue t k).inSt = (getQueue s k).edgeSt) ∧
      (∀ k, isOutA bk (getQueue s k) = true → (getQueue t k).tail = (getQueue s k).commit ∧ (getQueue t k).marks = []) ∧
      ∀ st, b.starts = [st] → st.on = true → (getStrand t (8 * st.site + st.k)).run = .run ∧
        (getStrand t (8 * st.site + st.k)).pc = BitVec.ofNat 64 st.pc := by
  obtain ⟨heads, hr⟩ := rewindBooth_frame bk s
  obtain ⟨hlb, hlq⟩ := restartLoaded_same bk s
  obtain ⟨hsb, hsq⟩ := startBooth_same (getBooth s bk) (restartLoaded bk s)
  obtain ⟨hs, hq, hb⟩ := boothLog_sameBooths bk 0x0A 5 (modBooth bk (fun b =>
    { b with recovered := b.recovered || !b.byTwin, recovering := false, byTwin := false })
    (startBooth (getBooth s bk) (restartLoaded bk s)))
  rw [← restartBooth_eq] at hs hq hb
  have hbooth : getBooth (restartBooth bk s) bk = _ := (getBooth_of_booths hb bk).trans (getBooth_modBooth_same ..)
  have hold : getBooth (startBooth (getBooth s bk) (restartLoaded bk s)) bk = getBooth s bk :=
    getBooth_of_booths (hsb.trans hlb) bk
  have hqueues : (restartBooth bk s).queues = s.queues.map fun p => (p.1, rewindQueue bk heads p.1 p.2) :=
    hq.trans (hsq.trans (hlq.trans (by rw [hr])))
  dsimp only
  rw [hbooth, hold]
  refine ⟨rfl, rfl, fun k hk => ?_, fun k hk => ?_, fun st hst hon => ?_⟩
  · rw [getQueue_rewound hqueues (st_of_isInput hk)]
    exact rewindQueue_input heads k hk
  · rw [getQueue_rewound hqueues (st_of_isOutA hk)]
    exact rewindQueue_output heads k hk
  · rw [getStrand_of_strands hs]
    exact startBooth_one (restartLoaded bk s) hst hon

end Sys2Proof.Machine
end

section
/-!
PROOFS. The pager, the timers and the booths as a whole (O56).
-/

namespace Sys2Proof.Machine

open Sys2Proof.Safety

/-- TIMER and the pager's answers to one strand. -/
theorem strand_answers (e : SRef) (s : State) :
    let t := getStrand s (skey e)
    let job := (getTile s e.site).job
    let die := dieOf e.site
    (t.timerDue = false → execQuantumExpiry e s = .next s) ∧
    (t.timerDue = true → t.run = .run → t.flight = none → t.readyAt ≤ (getTile s e.site).cycle + 1 →
      t.handler = false → t.halting = false →
      ∃ u, execQuantumExpiry e s = .next u ∧ (getStrand u (skey e)).cause = 13 ∧
        (getStrand u (skey e)).handler = true ∧ (getStrand u (skey e)).trappc = t.pc &&& 0x3FFFC ∧
        (getStrand u (skey e)).trapaddr = 0 ∧ (getStrand u (skey e)).x = t.x ∧ SameBut e s u) ∧
    (roleHeld s die 1 = false → t.run ≠ .paged →
      execPagerReissue e s = .next s ∧ ∀ c, execPagerDeliver e c s = .next s) ∧
    (∀ va kind i n m, roleHeld s die 1 = false → t.run = .paged → t.wait = some ⟨.page va kind, i, n, m⟩ →
      (recordSent e s = false ∨ reissueOk s die job va kind = false → execPagerReissue e s = .next s) ∧
      (recordSent e s = true → reissueOk s die job va kind = true → ∃ u, execPagerReissue e s = .next u ∧
        (getStrand u (skey e)).run = .run ∧ (getStrand u (skey e)).wait = none ∧ (getStrand u (skey e)).pc = t.pc ∧
        (getStrand u (skey e)).x = t.x ∧ u.mem = s.mem) ∧
      (∀ c, recordSent e s = false ∨ deliverOk s die job va kind c = false → execPagerDeliver e c s = .next s) ∧
      (∀ c, recordSent e s = true → deliverOk s die job va kind c = true → t.handler = false → t.halting = false →
        ∃ u, execPagerDeliver e c s = .next u ∧ (getStrand u (skey e)).run = .run ∧
          (getStrand u (skey e)).cause = BitVec.ofNat 4 (causeCode c) ∧
          (getStrand u (skey e)).trapaddr = BitVec.ofNat 64 va ∧ (getStrand u (skey e)).trappc = t.pc &&& 0x3FFFC ∧
          (getStrand u (skey e)).handler = true ∧ (getStrand u (skey e)).wait = none ∧
          (getStrand u (skey e)).x = t.x)) := by
  refine ⟨execQuantumExpiry_idle, fun hd hr hf ha hh hn => ⟨_, execQuantumExpiry_due hd hr hf ha, boundary_timer hd hh hn⟩,
    fun hrole hr => ⟨execPagerReissue_other hrole hr, fun c => execPagerDeliver_other c hrole hr⟩,
    fun va kind i n m hrole hr hw => ⟨fun hno => ?_, fun hsent hok => ?_, fun c hno => ?_, fun c hsent hok hh hn => ?_⟩⟩
  · rw [execPagerReissue_page hrole hr hw, if_neg]
    rintro ⟨h1, h2⟩
    rcases hno with hno | hno
    · exact Bool.false_ne_true (hno.symm.trans h1)
    · exact Bool.false_ne_true (hno.symm.trans h2)
  · exact ⟨_, (execPagerReissue_page hrole hr hw).trans (if_pos ⟨hsent, hok⟩), reissue_taken e s⟩
  · rw [execPagerDeliver_page c hrole hr hw, if_neg]
    rintro ⟨h1, h2⟩
    rcases hno with hno | hno
    · exact Bool.false_ne_true (hno.symm.trans h1)
    · exact Bool.false_ne_true (hno.symm.trans h2)
  · refine ⟨_, (execPagerDeliver_page c hrole hr hw).trans (if_pos ⟨hsent, hok⟩), deliver_taken ?_ hh hn⟩
    split
    · exact pagerLog_strands ..
    · rfl

/-- One sample of the detector. -/
theorem deadlockSample_spec {job booth : Nat} {s : State} (h0 : booth ≠ 0)
    (ht : (getBooth s (65536 * job + booth)).tiles ≠ []) (hh : detectorHeld s (65536 * job + booth) = false) :
    let bk := 65536 * job + booth
    let b := getBooth s bk
    let q := quiescent s bk
    let still := q && b.lastQuiet && !b.moved
    (still = true → b.declared = false → execDeadlockSample job booth s =
      .next (declareBooth bk 1 (boothStrands b) (modBooth bk (fun b => { b with
        lastQuiet := true, moved := false, declared := true }) s))) ∧
    (still = false ∨ b.declared = true → execDeadlockSample job booth s =
      .next (modBooth bk (fun b => { b with
        lastQuiet := q, moved := false, declared := b.declared && q && !b.moved }) s)) := by
  have hx := execDeadlockSample_looks h0 ht hh
  dsimp only at hx ⊢
  refine ⟨fun hstill hd => ?_, fun hno => ?_⟩
  · simp only [Bool.and_eq_true, Bool.not_eq_true'] at hstill
    obtain ⟨⟨hq, hl⟩, hm⟩ := hstill
    rw [hx]
    simp only [hq, hl, hm, hd, Bool.and_true, Bool.not_false, Bool.false_or, if_true]
  · have hnow : (quiescent s (65536 * job + booth) && (getBooth s (65536 * job + booth)).lastQuiet &&
        !(getBooth s (65536 * job + booth)).moved && !((getBooth s (65536 * job + booth)).declared &&
        quiescent s (65536 * job + booth) && !(getBooth s (65536 * job + booth)).moved)) = false := by
      rcases hno with hno | hno
      · rw [hno, Bool.false_and]
      · rw [hno]
        exact (by decide : ∀ q l m : Bool, (q && l && !m && !(true && q && !m)) = false) _ _ _
    rw [hx, hnow, if_neg Bool.false_ne_true]
    simp only [Bool.or_false]
    rfl

/-- The restart of a booth that has stopped. -/
theorem restartBooth_ready (job booth : Nat) (s : State) :
    let bk := 65536 * job + booth
    let b := getBooth s bk
    let t := restartBooth bk (recoveryReady job booth s)
    (getBooth t bk).recovered = (b.recovered || !b.byTwin) ∧ (getBooth t bk).recovering = false ∧
      (∀ k, isInput bk (getQueue s k) = true → (getQueue t k).head = (getQueue s k).keep ∧
        (getQueue t k).inSt = (getQueue s k).edgeSt) ∧
      (∀ k, isOutA bk (getQueue s k) = true → (getQueue t k).tail = (getQueue s k).commit ∧ (getQueue t k).marks = []) ∧
      ∀ st, b.starts = [st] → st.on = true → st.k < 7 → (getStrand t (8 * st.site + st.k)).run = .run ∧
        (getStrand t (8 * st.site + st.k)).pc = BitVec.ofNat 64 st.pc := by
  obtain ⟨-, hq, hb⟩ := recoveryReady_same job booth s
  have hqueue (k : Nat) : getQueue (recoveryReady job booth s) k = getQueue s k := by rw [getQueue, getQueue, hq]
  obtain ⟨hrec, hing, hin, hout, hstart⟩ := restartBooth_spec (65536 * job + booth) (recoveryReady job booth s)
  rw [hb] at hrec hstart
  simp only [hqueue] at hin hout
  exact ⟨hrec, hing, hin, hout, fun st h hon _ => hstart st h hon⟩

end Sys2Proof.Machine
end
section
open Sys2Proof Sys2Proof.Machine Sys2Proof.Safety

/-- Settles O56: each event by the equation of its outcome, the other parts of the state by frames; a report to the host
touches no strand, and a rewind changes the queues alone. -/
theorem pagerTimerAndBoothEvents : Obligations.PagerTimerAndBoothEvents := by
  unfold Obligations.PagerTimerAndBoothEvents
  refine ⟨strand_answers, fun s y t n c r => ⟨fun hh hq hs hsent => ⟨fun hok => ?_, fun hno => ?_, fun hk => ?_⟩,
      fun c r hh hs hq hsent => ⟨fun hok => ?_, fun hno => ?_, fun hk => ?_⟩⟩,
    fun die site t r rest s hd => ⟨faultRecordSend_none, fun hf ht => ⟨faultRecordSend_sent hd hf ht, faultRecordSend_full hf ht⟩⟩,
    fun die i r s hq hp hj => tlbInvalidate_taken hq hp hj,
    fun job booth s h0 ht hh => ⟨deadlockSample_spec h0 ht hh, execWatchdogExpiry_early, execWatchdogExpiry_due h0 ht hh⟩,
    fun job booth s h0 h1 => ⟨execBoothRecovery_past h1, fun hp => ⟨fun hw => ?_, fun hf hh hoff hpend hin hbusy =>
      ⟨fun hr ht => ?_, fun hno => ?_⟩⟩⟩⟩
  · exact ⟨_, (execPagerResume_stalled (e := .loom y t) hh (engineStall_loom hq hs) hsent).trans (if_pos hok),
      loomAnswer_queue false (by rw [takeEngineFault_frame]) hq hs⟩
  · exact (execPagerResume_stalled (e := .loom y t) hh (engineStall_loom hq hs) hsent).trans (if_neg (by rw [hno]; exact Bool.false_ne_true))
  · exact ⟨_, execPagerAbort_stalled (e := .loom y t) hh (engineStall_loom hq hs) hsent hk, loomAnswer_queue true (abortLogged_frame ..).1 hq hs⟩
  · exact ⟨_, (execPagerResume_stalled (e := .carter n) hh (engineStall_carter hs hq) hsent).trans (if_pos hok),
      carterAnswer_resume (by rw [takeEngineFault_frame]) hs⟩
  · exact (execPagerResume_stalled (e := .carter n) hh (engineStall_carter hs hq) hsent).trans (if_neg (by rw [hno]; exact Bool.false_ne_true))
  · exact ⟨_, execPagerAbort_stalled (e := .carter n) hh (engineStall_carter hs hq) hsent hk, carterAnswer_abort (abortLogged_frame ..).2 hs⟩
  · exact ⟨_, execBoothRecovery_waits h0 h1 hp hw, mem_enqueueOnce _ s, enqueueOnce_same _ s⟩
  · obtain ⟨hs, hq, -⟩ := recoveryReady_same job booth s
    obtain ⟨hhalt, hrep, hs', hq'⟩ := failBooth_spec (65536 * job + booth) (recoveryReady job booth s)
    exact ⟨_, (execBoothRecovery_ready h0 h1 hp hf hh hoff hpend hin hbusy).trans (if_pos ⟨hr, by rw [ht]; rfl⟩), hhalt, hrep,
      hs'.trans hs, hq'.trans hq⟩
  · refine ⟨_, (execBoothRecovery_ready h0 h1 hp hf hh hoff hpend hin hbusy).trans (if_neg fun ⟨hr, ht⟩ => ?_),
      restartBooth_ready job booth s⟩
    rcases hno with hno | hno
    · exact Bool.false_ne_true (hno.symm.trans hr)
    · rw [hno] at ht
      exact Bool.false_ne_true ht

end

section
/-!
PROOFS. Scalar floating point (O21): what a form with a rounding draw completes with, the draw itself, and the integer results
of a conversion.
-/

namespace Sys2Proof.Machine

open Sys2Proof.Safety

/-- A rounding form of two sources whose ports are ready takes its draw and completes. -/
theorem alu2r_ready {i : Instr} {g : Guard} {r : Rnd} {d : Dst} {a : Src} {b : Opnd} {v : PortVals} {s s' : State}
    (f : Nat → Word → Word → Word) (hg : guardVal g s = true)
    (hp : Ports s (srcPorts a ++ opndPorts b) (dstPorts d) v s') :
    alu2r i g r d a b f s = .next (retire d (f ((takeDraws r 1 s').1.headD 0) (srcVal v s' a) (opndVal v s' b))
      (takeDraws r 1 s').2) :=
  (guarded_true _ hg).trans (gate_ready _ hp)

/-- A form of two sources whose ports are ready completes with its function of the operands. -/
theorem alu2_ready {i : Instr} {g : Guard} {d : Dst} {a : Src} {b : Opnd} {v : PortVals} {s s' : State}
    (f : Word → Word → Word) (hg : guardVal g s = true)
    (hp : Ports s (srcPorts a ++ opndPorts b) (dstPorts d) v s') :
    alu2 i g d a b f s = .next (retire d (f (srcVal v s' a) (opndVal v s' b)) s') :=
  (guarded_true _ hg).trans (gate_ready _ hp)

/-- R51: a mode other than RST takes no draw. -/
theorem takeDraws_other {r : Rnd} (n : Nat) (s : State) (h : r ≠ .rst) : takeDraws r n s = ([], s) := if_neg h

/-- R51: under RST each draw is one Step of the strand's generator. -/
theorem takeDraws_rst (n : Nat) (s : State) : takeDraws .rst n s =
    (draws16 (rngSteps n (me s).rnga (me s).rngb).1, modMe (fun t => { t with
      rnga := (rngSteps n (me s).rnga (me s).rngb).2.1, rngb := (rngSteps n (me s).rnga (me s).rngb).2.2 }) s) := rfl

theorem length_rngSteps (n : Nat) (a b : Word) : (rngSteps n a b).1.length = n := by
  induction n generalizing a b with
  | zero => rfl
  | succ n ih => exact congrArg (· + 1) (ih ..)

/-- A change of a strand's generator that reads the strand's own words is one of those words. -/
theorem modMe_rng (n : Nat) (s : State) :
    modMe (fun t => { t with
      rnga := (rngSteps n (me s).rnga (me s).rngb).2.1, rngb := (rngSteps n (me s).rnga (me s).rngb).2.2 }) s =
    modMe (fun t => { t with
      rnga := (rngSteps n t.rnga t.rngb).2.1, rngb := (rngSteps n t.rnga t.rngb).2.2 }) s := rfl

/-- R51: a scalar form takes one draw. -/
theorem takeDraws_one (s : State) : (takeDraws .rst 1 s).1.length = 1 ∧ (takeDraws .rst 1 s).2 =
    modMe (fun t => { t with
      rnga := (rngSteps 1 t.rnga t.rngb).2.1, rngb := (rngSteps 1 t.rnga t.rngb).2.2 }) s := by
  rw [takeDraws_rst]
  exact ⟨(List.length_map ..).trans (length_rngSteps ..), modMe_rng 1 s⟩

/-- R47: INT32 to UINT8 saturates and is zero-extended. -/
theorem fcvtVal_u8_i32 (r : Rnd) (sat : Bool) (dr : Nat) (x : Word) :
    ((fcvtVal .u8 .i32 r sat false dr x).toNat : Int) = max 0 (min 255 (x.extractLsb' 0 32).toInt) := by
  have hdec : decInt .i32 (lowBits .i32 x) = (x.extractLsb' 0 32).toInt := by
    have hlow : lowBits .i32 x = (x.extractLsb' 0 32).toNat := by
      rw [BitVec.extractLsb'_toNat, Nat.shiftRight_zero]; rfl
    rw [hlow, decInt, BitVec.toInt_eq_msb_cond, BitVec.msb_eq_getLsbD_last, BitVec.getLsbD]
    simp [Fmt.width]
  have hval : fcvtVal .u8 .i32 r sat false dr x =
      BitVec.ofNat 64 (encInt .u8 (clampInt .u8 (decInt .i32 (lowBits .i32 x)))) := rfl
  rw [hval, hdec]
  have hclamp : clampInt .u8 (x.extractLsb' 0 32).toInt = max 0 (min 255 (x.extractLsb' 0 32).toInt) := rfl
  rw [hclamp, encInt, BitVec.toNat_ofNat, show Fmt.u8.width = 8 from rfl]
  omega

/-- R112: a NaN gives 0 under .L. -/
theorem fcvtVal_nan {f : Fmt} {x : Word} (r : Rnd) (sat : Bool) (dr : Nat) (hf : f.isFloat = true) (hx : fval f x = .nan) :
    fcvtVal .i32 f r sat true dr x = 0 := by
  have hi : f ≠ .i32 := fun h => by rw [h] at hf; cases hf
  rw [fcvtVal, if_pos rfl, if_neg hi, hx]
  rfl

end Sys2Proof.Machine
end

section
open Sys2Proof Sys2Proof.Machine Sys2Proof.Safety

/-- Settles O21: each form by its shape with the ports ready, the draw by the generator's Step. -/
theorem scalarFloatResults : Obligations.ScalarFloatResults := by
  unfold Obligations.ScalarFloatResults
  refine ⟨⟨?_, ?_, ?_, ?_, ?_, fun f => ?_, fun f => ?_, fun r n s h => takeDraws_other n s h, takeDraws_one⟩,
    ?_, ?_, fcvtVal_u8_i32, fun f r sat dr x hf hx => fcvtVal_nan r sat dr hf hx⟩
  · intro g f r sat d a b v s s' hg hp
    show execFadd g f r sat d a b s = _
    rw [execFadd, alu2r_ready _ hg hp]
  · intro g f r sat d a b v s s' hg hp
    show execFsub g f r sat d a b s = _
    rw [execFsub, alu2r_ready _ hg hp]
    rfl
  · intro g f r sat d a b v s s' hg hp
    show execFmul g f r sat d a b s = _
    rw [execFmul, alu2r_ready _ hg hp]
  · intro g f r sat d a b v s s' hg hp
    show execFdiv g f r sat d a b s = _
    rw [execFdiv, alu2r_ready _ hg hp]
  · intro g f r sat d a b c v s s' hg hp
    show execFfma g f r sat d a b c s = _
    rw [execFfma, guarded_true _ hg, gate_ready _ hp]
  · intro g d a b v s s' hg hp
    refine ⟨_, ?_, BitVec.toNat_ofNat ..⟩
    show execFmin g f d a b s = _
    rw [execFmin, alu2_ready _ hg hp]
    rfl
  · intro g d a b v s s' hg hp
    refine ⟨_, ?_, BitVec.toNat_ofNat ..⟩
    show execFmax g f d a b s = _
    rw [execFmax, alu2_ready _ hg hp]
    rfl
  · intro g t f r sat l d a v s s' hg hp
    show execFcvt g t f r sat l d a s = _
    rw [execFcvt, guarded_true _ hg, gate_ready _ hp]
  · rintro t f ⟨ht, hf⟩
    rw [convDraws, ht, hf]
    rfl

end

section
/-!
PROOFS. Vector instructions lane by lane (R126, R131, R51): what a masked write leaves in each lane, what the draws change, and
the shape that every lane-wise form has.
-/

namespace Sys2Proof.Machine

open Sys2Proof.Safety

/-! ### States that differ in one strand -/

theorem sameBut_modMe (f : Strand → Strand) (s : State) : SameBut s.cur s (modMe f s) :=
  ⟨rfl, fun _ hk => getStrand_modMe_other f s hk⟩

theorem sameBut_refl (e : SRef) (s : State) : SameBut e s s := ⟨rfl, fun _ _ => rfl⟩

theorem sameBut_trans {e : SRef} {s t u : State} (h : SameBut e s t) (h' : SameBut e t u) : SameBut e s u := by
  obtain ⟨hst, hs⟩ := h
  obtain ⟨htu, ht⟩ := h'
  refine ⟨?_, fun k hk => (ht k hk).trans (hs k hk)⟩
  rw [htu, hst]

/-- Changing the executing strand once more keeps the difference to that strand. -/
theorem sameBut_modMe_of {s t : State} (f : Strand → Strand) (h : SameBut s.cur s t) : SameBut s.cur s (modMe f t) := by
  have hcur : t.cur = s.cur := by rw [h.1]
  exact sameBut_trans h (hcur ▸ sameBut_modMe f t)

/-! ### Draws -/

/-- R51: the draw of element position `j` of `n`: none, read as 0, in a mode other than RST. -/
def drawAt (r : Rnd) (n : Nat) (t : Strand) (j : Nat) : Nat :=
  if r = .rst then (draws16 (rngSteps n t.rnga t.rngb).1).getD j 0 else 0

/-- R51: the draws change the executing strand's generator alone. -/
theorem takeDraws_spec (r : Rnd) (n : Nat) (s : State) :
    SameBut s.cur s (takeDraws r n s).2 ∧ (takeDraws r n s).2.cur = s.cur ∧
    me (takeDraws r n s).2 = { me s with
      rnga := (if r = .rst then (rngSteps n (me s).rnga (me s).rngb).2 else ((me s).rnga, (me s).rngb)).1
      rngb := (if r = .rst then (rngSteps n (me s).rnga (me s).rngb).2 else ((me s).rnga, (me s).rngb)).2 } ∧
    (takeDraws r n s).1 = (if r = .rst then draws16 (rngSteps n (me s).rnga (me s).rngb).1 else []) := by
  by_cases h : r = .rst
  · subst h
    rw [takeDraws_rst]
    dsimp only
    exact ⟨sameBut_modMe .., rfl, me_modMe .., rfl⟩
  · rw [takeDraws_other n s h, if_neg h, if_neg h]
    exact ⟨sameBut_refl .., rfl, rfl, rfl⟩

theorem getD_takeDraws (r : Rnd) (n : Nat) (s : State) (j : Nat) : (takeDraws r n s).1.getD j 0 = drawAt r n (me s) j := by
  obtain ⟨-, -, -, h⟩ := takeDraws_spec r n s
  rw [h, drawAt]
  split <;> rfl

/-! ### Lanes -/

/-- A list of lanes fits the register. -/
theorem width_mul_laneCount (w : Nat) : w * laneCount w ≤ 512 := Nat.mul_div_le 512 w

theorem laneGet_ofLanes_range {w n : Nat} (f : Nat → Nat) {j : Nat} (hn : n ≤ laneCount w) (hj : j < n) :
    laneGet w (ofLanes w ((List.range n).map f)) j = f j % 2 ^ w := by
  rw [laneGet_ofLanes]
  · rw [List.getElem_map, List.getElem_range]
  · rw [List.length_map, List.length_range]
    exact (Nat.mul_le_mul_left w hn).trans (width_mul_laneCount w)
  · simpa using hj

/-- R131: a lane after a masked write. -/
theorem laneGet_mergeLanes {w : Nat} (mask : Word) (new : List Nat) (old : VWord) {j : Nat} (hj : j < laneCount w) :
    laneGet w (mergeLanes w mask new old) j = if mask.getLsbD j then new.getD j 0 % 2 ^ w else laneGet w old j := by
  rw [mergeLanes, laneGet_ofLanes_range _ le_rfl hj]
  split
  · rfl
  · exact laneGet_mod w old j

/-- A v register written after the draws: the lanes written, and nothing else but the generator. -/
theorem lanesDo_of_next {i : Instr} {s : State} {w : Nat} {r : Rnd} {mk : KReg} {d : VReg} {op : Nat → Nat → Nat} {v : VWord}
    (he : exec i s = .next (next (wv d v (takeDraws r (laneCount w) s).2)))
    (hv : ∀ j, j < laneCount w → laneGet w v j =
      if (kGet (me s) mk).getLsbD j then op (drawAt r (laneCount w) (me s) j) j % 2 ^ w else laneGet w (vGet (me s) d) j) :
    LanesDo i s w r mk d op := by
  obtain ⟨hsame, -, hme, -⟩ := takeDraws_spec r (laneCount w) s
  refine ⟨_, he, sameBut_modMe_of _ hsame, fun j hj => ?_, fun q hq => ?_, ?_⟩
  · rw [me_wv, vGet_vSet, if_pos rfl, hv j hj]
    rfl
  · rw [me_wv, vGet_vSet, if_neg hq, hme]
    rfl
  · rw [me_wv, hme]
    exact ⟨rfl, rfl, rfl, rfl, rfl, rfl⟩

/-- R131: the lane-wise shape, up to the bits above the lane. -/
theorem lanesDo_of_lanewise {i : Instr} {g : Guard} {s : State} {w : Nat} {r : Rnd} {mk : KReg} {d : VReg}
    {op op' : Nat → Nat → Nat} (hg : guardVal g s = true) (he : exec i s = lanewise g w r mk d op' s)
    (hop : ∀ x j, op' x j % 2 ^ w = op x j % 2 ^ w) : LanesDo i s w r mk d op := by
  rw [lanewise, guarded_true _ hg] at he
  refine lanesDo_of_next he fun j hj => ?_
  rw [laneGet_mergeLanes _ _ _ hj, List.getD_eq_getElem?_getD, List.getElem?_map, List.getElem?_range hj]
  dsimp only [Option.map_some, Option.getD_some]
  rw [getD_takeDraws, hop]
  rfl

end Sys2Proof.Machine
end

section
/-!
PROOFS. Vector arithmetic (O46, R133 to R137): what one lane of each operation is in a floating-point and in an integer format.
-/

namespace Sys2Proof.Machine

open Sys2Proof.Safety

/-! ### One lane -/

theorem not_isFloat_of_isInt {f : Fmt} (h : f.isInt = true) : ¬f.isFloat = true := by revert h; cases f <;> decide

variable {f : Fmt} {r : Rnd} {sat : Bool}

theorem arithLane_float (hf : f.isFloat = true) (x : Nat) (fl : Ex → Ex → Ex) (int : Int → Int → Int) (a b : Nat) :
    arithLane f r sat x fl int a b = roundFloat f r sat x (fl (decFloat f a) (decFloat f b)) := if_pos hf
theorem arithLane_int (hf : f.isInt = true) (x : Nat) (fl : Ex → Ex → Ex) (int : Int → Int → Int) (a b : Nat) :
    arithLane f r sat x fl int a b = fitInt f sat (int (decInt f a) (decInt f b)) :=
  if_neg (not_isFloat_of_isInt hf)

theorem minmaxLane_float (hf : f.isFloat = true) (mx : Bool) (a b : Nat) : minmaxLane f mx a b = fminmax f mx a b := if_pos hf
theorem minmaxLane_int (hf : f.isInt = true) (mx : Bool) (a b : Nat) : minmaxLane f mx a b =
    if (if mx then decInt f a < decInt f b else decInt f b < decInt f a) then b else a :=
  if_neg (not_isFloat_of_isInt hf)

theorem absLane_float (hf : f.isFloat = true) (a : Nat) : absLane f sat a =
    if decFloat f a = .nan then canonNaN f else a % 2 ^ (f.width - 1) := by
  rw [absLane, if_pos hf]
  cases decFloat f a <;> rfl
theorem absLane_int (hf : f.isInt = true) (a : Nat) : absLane f sat a = fitInt f sat (decInt f a).natAbs :=
  if_neg (not_isFloat_of_isInt hf)

theorem negLane_float (hf : f.isFloat = true) (a : Nat) : negLane f sat a =
    if decFloat f a = .nan then canonNaN f else a ^^^ 2 ^ (f.width - 1) := by
  rw [negLane, if_pos hf]
  cases decFloat f a <;> rfl
theorem negLane_int (hf : f.isInt = true) (a : Nat) : negLane f sat a = fitInt f sat (-(decInt f a)) :=
  if_neg (not_isFloat_of_isInt hf)

theorem dotLane_float (hf : f.isFloat = true) (x c : Nat) (n : Nat) (a b : Nat → Nat) :
    dotLane f r sat x c ((List.range n).map fun j => (a j, b j)) = roundFloat .f32 r sat x
      ((List.range n).foldl (fun e j => addEx (r == .rni) e (mulEx (decFloat f (a j)) (decFloat f (b j)))) (decFloat .f32 c)) := by
  rw [dotLane, if_pos hf, List.foldl_map]
theorem dotLane_int (hf : f.isInt = true) (x c : Nat) (n : Nat) (a b : Nat → Nat) :
    dotLane f r sat x c ((List.range n).map fun j => (a j, b j)) = fitInt .i32 sat
      ((List.range n).foldl (fun e j => e + decInt f (a j) * decInt f (b j)) (decInt .i32 c)) := by
  rw [dotLane, if_neg (not_isFloat_of_isInt hf), List.foldl_map]

/-! ### The shapes that several instructions share -/

variable {g : Guard} {mk : KReg} {d a : VReg} {b : VOpnd} {s : State} {i : Instr}

theorem vArith_float (hg : guardVal g s = true) (hf : f.isFloat = true) {fl : Ex → Ex → Ex} {int : Int → Int → Int}
    (he : exec i s = vArith g f r sat mk d a b fl int s) :
    LanesDo i s f.width r mk d fun x j =>
      roundFloat f r sat x (fl (decFloat f (laneGet f.width (vGet (me s) a) j)) (decFloat f (vopLane f.width s b j))) :=
  lanesDo_of_lanewise hg he fun _ _ => congrArg (· % _) (arithLane_float hf ..)

theorem vArith_int (hg : guardVal g s = true) (hf : f.isInt = true) {fl : Ex → Ex → Ex} {int : Int → Int → Int}
    (he : exec i s = vArith g f r sat mk d a b fl int s) :
    LanesDo i s f.width r mk d fun _ j =>
      fitInt f sat (int (decInt f (laneGet f.width (vGet (me s) a) j)) (decInt f (vopLane f.width s b j))) :=
  lanesDo_of_lanewise hg he fun _ _ => congrArg (· % _) (arithLane_int hf ..)

theorem vFunc_lanes (hg : guardVal g s = true) {fn : Ex → Ex} (he : exec i s = vFunc g f r sat mk d a fn s) :
    LanesDo i s f.width r mk d fun x j => roundFloat f r sat x (fn (decFloat f (laneGet f.width (vGet (me s) a) j))) :=
  lanesDo_of_lanewise hg he fun _ _ => rfl

theorem vFused_float (hg : guardVal g s = true) (hf : f.isFloat = true) {neg : Bool} {q c : VReg}
    (he : exec i s = vFused g f r sat neg mk d a q c s) :
    LanesDo i s f.width r mk d fun x j => roundFloat f r sat x (addEx (r == .rni)
      (mulEx (decFloat f (laneGet f.width (vGet (me s) a) j)) (decFloat f (laneGet f.width (vGet (me s) q) j)))
      (if neg then negEx (decFloat f (laneGet f.width (vGet (me s) c) j)) else decFloat f (laneGet f.width (vGet (me s) c) j))) :=
  lanesDo_of_lanewise hg he fun _ _ => congrArg (· % _) (if_pos hf)

theorem vFused_int (hg : guardVal g s = true) (hf : f.isInt = true) {neg : Bool} {q c : VReg}
    (he : exec i s = vFused g f r sat neg mk d a q c s) :
    LanesDo i s f.width r mk d fun _ j =>
      let p := decInt f (laneGet f.width (vGet (me s) a) j) * decInt f (laneGet f.width (vGet (me s) q) j)
      let z := decInt f (laneGet f.width (vGet (me s) c) j)
      fitInt f sat (if neg then p - z else p + z) :=
  lanesDo_of_lanewise hg he fun _ _ => congrArg (· % _) (if_neg (not_isFloat_of_isInt hf))

theorem minmax_float (hg : guardVal g s = true) (hf : f.isFloat = true) {mx : Bool}
    (he : exec i s = lanewise g f.width .rne mk d
      (fun _ j => minmaxLane f mx (vLane f.width s a j) (vopLane f.width s b j)) s) :
    LanesDo i s f.width .rne mk d fun _ j => fminmax f mx (laneGet f.width (vGet (me s) a) j) (vopLane f.width s b j) :=
  lanesDo_of_lanewise hg he fun _ _ => congrArg (· % _) (minmaxLane_float hf ..)

theorem minmax_int (hg : guardVal g s = true) (hf : f.isInt = true) {mx : Bool}
    (he : exec i s = lanewise g f.width .rne mk d
      (fun _ j => minmaxLane f mx (vLane f.width s a j) (vopLane f.width s b j)) s) :
    LanesDo i s f.width .rne mk d fun _ j =>
      let x := laneGet f.width (vGet (me s) a) j
      let y := vopLane f.width s b j
      if (if mx then decInt f x < decInt f y else decInt f y < decInt f x) then y else x :=
  lanesDo_of_lanewise hg he fun _ _ => congrArg (· % _) (minmaxLane_int hf ..)

/-- VDOT by what its lane is. -/
theorem vdot_lanes {c : VReg} {op : Nat → Nat → Nat} (hg : guardVal g s = true)
    (h : ∀ x i, dotLane f r sat x (laneGet 32 (vGet (me s) d) i) ((List.range (32 / f.width)).map fun j =>
      (laneGet f.width (vGet (me s) a) (32 / f.width * i + j), laneGet f.width (vGet (me s) c) (32 / f.width * i + j))) = op x i) :
    LanesDo (.vdot g f r sat mk d a c) s 32 r mk d op :=
  lanesDo_of_lanewise (op' := fun x i => dotLane f r sat x (vLane 32 s d i) ((List.range (32 / f.width)).map fun j =>
    (vLane f.width s a (32 / f.width * i + j), vLane f.width s c (32 / f.width * i + j)))) hg rfl fun x i =>
      congrArg (· % _) (h x i)

end Sys2Proof.Machine
end

section
open Sys2Proof Sys2Proof.Machine Sys2Proof.Safety

/-- Settles O46: each instruction by its lane-wise shape, each lane by the kind of its format. -/
theorem vectorArithmeticResults : Obligations.VectorArithmeticResults := by
  unfold Obligations.VectorArithmeticResults
  intro g f r sat mk d a c b s hg
  refine ⟨fun hf => ⟨?_, ?_, ?_, ?_, fun q => ?_, fun q => ?_, ?_, ?_, ?_, ?_, ?_, ?_, ?_, ?_, ?_⟩,
    fun hf => ⟨?_, ?_, ?_, fun q => ?_, fun q => ?_, ?_, ?_, ?_, ?_⟩, fun hf => ?_, fun hf => ?_⟩
  · exact vArith_float (fl := addEx (r == .rni)) (int := (· + ·)) hg hf rfl
  · exact vArith_float (fl := fun x y => addEx (r == .rni) x (negEx y)) (int := (· - ·)) hg hf rfl
  · exact vArith_float (fl := mulEx) (int := (· * ·)) hg hf rfl
  · exact vArith_float (fl := divEx) (int := fun x _ => x) hg hf rfl
  · exact vFused_float (neg := false) hg hf rfl
  · exact vFused_float (neg := true) hg hf rfl
  · exact minmax_float (mx := false) hg hf rfl
  · exact minmax_float (mx := true) hg hf rfl
  · exact lanesDo_of_lanewise (op' := fun _ j => absLane f sat (vLane f.width s a j)) hg rfl fun _ _ =>
      congrArg (· % _) (absLane_float hf _)
  · exact lanesDo_of_lanewise (op' := fun _ j => negLane f sat (vLane f.width s a j)) hg rfl fun _ _ =>
      congrArg (· % _) (negLane_float hf _)
  · exact vFunc_lanes (fn := sqrtEx) hg rfl
  · exact vFunc_lanes (fn := divEx (intEx 1)) hg rfl
  · exact vFunc_lanes (fn := rsqEx) hg rfl
  · exact vFunc_lanes (fn := exp2Ex) hg rfl
  · exact vFunc_lanes (fn := log2Ex) hg rfl
  · exact vArith_int (fl := addEx (r == .rni)) (int := (· + ·)) hg hf rfl
  · exact vArith_int (fl := fun x y => addEx (r == .rni) x (negEx y)) (int := (· - ·)) hg hf rfl
  · exact vArith_int (fl := mulEx) (int := (· * ·)) hg hf rfl
  · exact vFused_int (neg := false) hg hf rfl
  · exact vFused_int (neg := true) hg hf rfl
  · exact minmax_int (mx := false) hg hf rfl
  · exact minmax_int (mx := true) hg hf rfl
  · exact lanesDo_of_lanewise (op' := fun _ j => absLane f sat (vLane f.width s a j)) hg rfl fun _ _ =>
      congrArg (· % _) (absLane_int hf _)
  · exact lanesDo_of_lanewise (op' := fun _ j => negLane f sat (vLane f.width s a j)) hg rfl fun _ _ =>
      congrArg (· % _) (negLane_int hf _)
  · exact vdot_lanes hg fun x i => dotLane_float hf x _ _ _ _
  · exact vdot_lanes hg fun x i => dotLane_int hf x _ _ _ _

end

section
/-!
PROOFS. Vector data (O47, R138 to R146, R150): masks of compares, lanes taken out, reductions, scans and compression.
-/

namespace Sys2Proof.Machine

open Sys2Proof.Safety

variable {g : Guard} {f : Fmt} {mk : KReg} {d a : VReg} {b : VOpnd} {s : State} {i : Instr}

/-! ### Masks and lanes -/

/-- R138: bit `j` of a mask of compares. -/
theorem getLsbD_laneMask {n : Nat} (act : Word) (c : Nat → Bool) (j : Nat) (hn : n ≤ 64) :
    (laneMask n act c).getLsbD j = (decide (j < n) && act.getLsbD j && c j) := by
  induction n with
  | zero => simp [laneMask]
  | succ n ih =>
    have hstep : laneMask (n + 1) act c =
        if act.getLsbD n && c n then laneMask n act c ||| 1#64 <<< n else laneMask n act c := by
      rw [laneMask, List.range_succ, List.foldl_append]
      rfl
    have hbit : (1#64 <<< n).getLsbD j = decide (j = n) := by
      rw [BitVec.getLsbD_shiftLeft, BitVec.getLsbD_one, Bool.eq_iff_iff]
      simp only [Bool.and_eq_true, Bool.not_eq_true', decide_eq_true_eq, decide_eq_false_iff_not]
      omega
    rw [hstep]
    by_cases hj : j = n
    · subst hj
      split
      · next hc => simp [hbit, hc]
      · next hc => simpa [ih (by omega)] using hc
    · have hlt : decide (j < n + 1) = decide (j < n) := decide_eq_decide.mpr (by omega)
      split
      · rw [BitVec.getLsbD_or, hbit, decide_eq_false hj, Bool.or_false, ih (by omega), hlt]
      · rw [ih (by omega), hlt]

/-- Lanes beyond those written are zero. -/
theorem laneGet_ofLanes_getD {w : Nat} {l : List Nat} (j : Nat) (hl : w * l.length ≤ 512) :
    laneGet w (ofLanes w l) j = l.getD j 0 % 2 ^ w := by
  by_cases hj : j < l.length
  · rw [laneGet_ofLanes hl hj, List.getD_eq_getElem _ _ hj]
  · have hlt : packLanes w l < 2 ^ (w * j) :=
      (packLanes_lt w l).trans_le (Nat.pow_le_pow_right Nat.two_pos (Nat.mul_le_mul_left w (Nat.le_of_not_lt hj)))
    have hval : (ofLanes w l).toNat = packLanes w l := toNat_packLanes hl
    rw [laneGet, fld, BitVec.extractLsb'_toNat, hval, Nat.shiftRight_eq_div_pow, Nat.div_eq_of_lt hlt,
      List.getD_eq_default _ _ (Nat.le_of_not_lt hj)]

theorem laneCount_le {f : Fmt} (h : (f.isFloat || f.isInt) = true) : laneCount f.width ≤ 64 := by
  revert h; cases f <;> decide

theorem laneGet_lt (w : Nat) (v : VWord) (j : Nat) : laneGet w v j < 2 ^ w := BitVec.isLt _

/-- R144: a lane extended to 64 bits. -/
theorem laneExt_laneGet (f : Fmt) (v : VWord) (j : Nat) : laneExt f (laneGet f.width v j) =
    if f.isInt && f != .u8 then (BitVec.ofNat f.width (laneGet f.width v j)).signExtend 64
    else BitVec.ofNat 64 (laneGet f.width v j) := by
  rw [laneExt, sextNat_eq (laneGet_lt ..)]

/-! ### The instructions -/

theorem vBits_lanes {op : Nat → Nat → Nat} (hg : guardVal g s = true) (he : exec i s = vBits g f mk d a b op s) :
    LanesDo i s f.width .rne mk d fun _ j => op (laneGet f.width (vGet (me s) a) j) (vopLane f.width s b j) :=
  lanesDo_of_lanewise hg he fun _ _ => rfl

theorem vcmp_spec (cc : FCond) (kd : KReg) (hg : guardVal g s = true) : ∃ t, exec (.vcmp g f cc mk kd a b) s = .next (next t) ∧
    SameBut s.cur s t ∧ (me t).x = (me s).x ∧ (me t).v = (me s).v ∧
    (kd ≠ 0 → (f.isFloat || f.isInt) = true → ∀ j, (kGet (me t) kd).getLsbD j =
      (decide (j < 512 / f.width) && (kGet (me s) mk).getLsbD j &&
        fcond cc (decFmt f (laneGet f.width (vGet (me s) a) j)) (decFmt f (vopLane f.width s b j)))) := by
  have he : exec (.vcmp g f cc mk kd a b) s = .next (next (wk kd (laneMask (laneCount f.width) (kMask s mk) fun i =>
      cmpLane f cc (vLane f.width s a i) (vopLane f.width s b i)) s)) := by
    show execVcmp g f cc mk kd a b s = _
    rw [execVcmp, guarded_true _ hg]
  refine ⟨_, he, sameBut_modMe .., ?_, ?_, fun hk hf j => ?_⟩
  · rw [me_wk, kSet]; split <;> rfl
  · rw [me_wk, kSet]; split <;> rfl
  · rw [me_wk, kGet_kSet, if_pos ⟨rfl, hk⟩, getLsbD_laneMask _ _ _ (laneCount_le hf)]
    rfl

theorem vred_tree (op : RedOp) (r : Rnd) (x : XReg) (hg : guardVal g s = true) (hop : ¬(op = .sum ∧ f.isInt = true)) :
    ∃ t, exec (.vred g f op r mk x a) s = .next (next t) ∧ SameBut s.cur s t ∧
      (x ≠ 0 → rx t x = laneExt f ((reduceTree (redOp f op r false) (Nat.log2 (512 / f.width))
        ((List.range (512 / f.width)).map fun j =>
          if (kGet (me s) mk).getLsbD j then some (laneGet f.width (vGet (me s) a) j) else none)
        (if r = .rst then draws16 (rngSteps (512 / f.width - 1) (me s).rnga (me s).rngb).1 else [])).getD (redIdentity f op))) := by
  obtain ⟨hsame, -, -, hdraws⟩ := takeDraws_spec r (512 / f.width - 1) s
  have he : exec (.vred g f op r mk x a) s = .next (next (wx x (laneExt f ((reduceTree (redOp f op r false)
      (Nat.log2 (512 / f.width)) ((List.range (512 / f.width)).map fun j =>
        if (kGet (me s) mk).getLsbD j then some (laneGet f.width (vGet (me s) a) j) else none)
      (takeDraws r (512 / f.width - 1) s).1).getD (redIdentity f op))) (takeDraws r (512 / f.width - 1) s).2)) := by
    show execVred g f op r mk x a s = _
    rw [execVred, guarded_true _ hg]
    exact if_neg hop
  refine ⟨_, he, sameBut_modMe_of _ hsame, fun hx => ?_⟩
  rw [rx_wx_same hx, hdraws]

theorem vscan_lanes (op : RedOp) (r : Rnd) (sat : Bool) (hg : guardVal g s = true) :
    LanesDo (.vscan g f op r sat mk d a) s f.width r mk d fun _ j =>
      (scanLanes f op r sat ((List.range (512 / f.width)).map fun j =>
          if (kGet (me s) mk).getLsbD j then some (laneGet f.width (vGet (me s) a) j) else none)
        (if r = .rst then draws16 (rngSteps (512 / f.width) (me s).rnga (me s).rngb).1 else []) none).getD j 0 := by
  obtain ⟨-, -, -, hdraws⟩ := takeDraws_spec r (laneCount f.width) s
  have he : exec (.vscan g f op r sat mk d a) s = .next (next (wv d (mergeLanes f.width (kMask s mk)
      (scanLanes f op r sat ((List.range (laneCount f.width)).map fun j =>
        if (kMask s mk).getLsbD j then some (vLane f.width s a j) else none) (takeDraws r (laneCount f.width) s).1 none)
      (vGet (me s) d)) (takeDraws r (laneCount f.width) s).2)) := by
    show execVscan g f op r sat mk d a s = _
    rw [execVscan, guarded_true _ hg]
  refine lanesDo_of_next he fun j hj => ?_
  rw [laneGet_mergeLanes _ _ _ hj, hdraws]
  rfl

theorem vcomp_lane {j : Nat} (hg : guardVal g s = true) :
    ∃ t, exec (.vcomp g f mk d a) s = .next (next t) ∧
      laneGet f.width (vGet (me t) d) j = (((List.range (512 / f.width)).filter fun j => (kGet (me s) mk).getLsbD j).map
        (laneGet f.width (vGet (me s) a))).getD j 0 ∧ (me t).x = (me s).x := by
  have he : exec (.vcomp g f mk d a) s = .next (next (wv d (ofLanes f.width
      (((List.range (512 / f.width)).filter fun j => (kGet (me s) mk).getLsbD j).map (laneGet f.width (vGet (me s) a)))) s)) := by
    show execVcomp g f mk d a s = _
    rw [execVcomp, guarded_true _ hg]
    rfl
  have hlen : f.width * (((List.range (512 / f.width)).filter fun j => (kGet (me s) mk).getLsbD j).map
      (laneGet f.width (vGet (me s) a))).length ≤ 512 := by
    rw [List.length_map]
    refine (Nat.mul_le_mul_left _ ((List.length_filter_le ..).trans_eq List.length_range)).trans (Nat.mul_div_le 512 _)
  refine ⟨_, he, ?_, by rw [me_wv]; rfl⟩
  rw [me_wv, vGet_vSet, if_pos rfl, laneGet_ofLanes_getD _ hlen, List.getD_eq_getElem?_getD, List.getElem?_map]
  generalize ((List.range (512 / f.width)).filter fun j => (kGet (me s) mk).getLsbD j)[j]? = o
  cases o with
  | none => exact Nat.zero_mod _
  | some q => exact laneGet_mod ..

end Sys2Proof.Machine
end

section
open Sys2Proof Sys2Proof.Machine Sys2Proof.Safety

/-- Settles O47: each instruction by its shape; a mask bit by bit, a reduction and a scan by the draws that it takes. -/
theorem vectorDataResults : Obligations.VectorDataResults := by
  unfold Obligations.VectorDataResults
  intro g f mk d a b s hg
  refine ⟨?_, ?_, ?_, ?_, ?_, ?_, fun kd cc => vcmp_spec cc kd hg, ?_, fun kd x => ⟨?_, ?_⟩, fun kd ka => ?_, fun x => ⟨?_, ?_⟩,
    fun q => ⟨?_, ?_⟩, fun x y => ?_, fun x y => ?_,
    fun op r sat x => ⟨fun hf => ?_, vred_tree op r x hg, vscan_lanes op r sat hg⟩, fun _ _ => vcomp_lane hg⟩
  · exact vBits_lanes (op := (· &&& ·)) hg rfl
  · exact vBits_lanes (op := (· ||| ·)) hg rfl
  · exact vBits_lanes (op := (· ^^^ ·)) hg rfl
  · exact lanesDo_of_lanewise (op' := fun _ j => vLane f.width s a j * 2 ^ (vopLane f.width s b j % f.width) % 2 ^ f.width)
      hg rfl fun _ _ => Nat.mod_mod ..
  · exact vBits_lanes (op := fun x y => x / 2 ^ (y % f.width)) hg rfl
  · exact vBits_lanes (op := fun x y => encInt f (decInt f x / 2 ^ (y % f.width))) hg rfl
  · exact lanesDo_of_lanewise (op' := fun _ j => vLane f.width s a j) hg rfl fun _ _ => rfl
  · show execVmov g (.kx kd x) s = _
    rw [execVmov, guarded_true _ hg]
  · show execVmov g (.xk x kd) s = _
    rw [execVmov, guarded_true _ hg, kMask]
  · show execVmov g (.kk kd ka) s = _
    rw [execVmov, guarded_true _ hg, kMask]
  · exact lanesDo_of_lanewise (op' := fun _ _ => (rxo s x).toNat % 2 ^ f.width) hg rfl fun _ _ => Nat.mod_mod ..
  · exact lanesDo_of_lanewise (op' := fun _ _ => vLane f.width s a ((rxo s x).toNat % laneCount f.width)) hg rfl fun _ _ => rfl
  · exact lanesDo_of_lanewise (op' := fun _ j => vLane f.width s a (vLane f.width s q j % laneCount f.width)) hg rfl fun _ _ => rfl
  · exact lanesDo_of_lanewise (op' := fun _ j => if (kMask s mk).getLsbD j then vLane f.width s a j else vLane f.width s q j)
      hg rfl fun _ _ => rfl
  · show execVextr g f x a y s = _
    rw [execVextr, guarded_true _ hg, vLane, laneExt_laneGet]
    rfl
  · refine ⟨laneSet f.width (vGet (me s) d) ((rxo s y).toNat % laneCount f.width) (rx s x).toNat, ?_,
      fun j hj => laneGet_laneSet _ _ _ hj⟩
    show execVins g f d x y s = _
    rw [execVins, guarded_true _ hg]
  · show execVred g f .sum r mk x a s = _
    rw [execVred, guarded_true _ hg]
    exact if_pos ⟨rfl, hf⟩

end

section
/-!
PROOFS. Conversions between vector formats and the N4 family (O48, R47, R147 to R149).
-/

namespace Sys2Proof.Machine

open Sys2Proof.Safety

variable {g : Guard} {f u : Fmt} {r : Rnd} {sat : Bool} {mk : KReg} {d a : VReg} {s : State}

theorem vGet_xSet (q : XReg) (v : Word) (t : Strand) (r : VReg) : vGet (xSet q v t) r = vGet t r := by
  rw [xSet]; split <;> rfl

/-! ### VCVT -/

/-- R51: a conversion that rounds with RST takes its draws as an RST form; any other takes none. -/
theorem convDraws_takeDraws (f u : Fmt) (r : Rnd) (m : Nat) (s : State) :
    (if convDraws f u r then takeDraws r m s else ([], s)) = takeDraws (if convDraws f u r then .rst else .rne) m s := by
  cases h : convDraws f u r
  · rfl
  · have hr : r = .rst := by
      simp only [convDraws, Bool.and_eq_true, beq_iff_eq] at h
      exact h.1.1
    rw [hr]
    rfl

/-- R147: the first lane of D that a conversion into a part writes, and the source element of its `j`-th element. -/
def cvtBase (f u : Fmt) (part : Fin 4) : Nat :=
  if laneCount u.width < laneCount f.width then part.val * laneCount u.width else 0
def cvtSrc (f u : Fmt) (part : Fin 4) (j : Nat) : Nat :=
  if laneCount f.width < laneCount u.width then part.val * laneCount f.width + j else j

/-- R147: lane `i` of the D that VCVT writes. -/
def cvtLane (f u : Fmt) (r : Rnd) (sat : Bool) (part : Fin 4) (mk : KReg) (d a : VReg) (s : State) (i : Nat) : Nat :=
  let m := min (laneCount f.width) (laneCount u.width)
  let base := cvtBase f u part
  if base ≤ i ∧ i < base + m ∧ (kMask s mk).getLsbD (i - base) then
    convFmt f u r sat (drawAt (if convDraws f u r then .rst else .rne) m (me s) (i - base))
      (vLane u.width s a (cvtSrc f u part (i - base)))
  else laneGet f.width (vGet (me s) d) i

theorem exec_vcvt (part : Fin 4) (hg : guardVal g s = true) : exec (.vcvt g f u r sat part mk d a) s = .next (next (wv d
    (ofLanes f.width ((List.range (laneCount f.width)).map (cvtLane f u r sat part mk d a s)))
    (takeDraws (if convDraws f u r then .rst else .rne) (min (laneCount f.width) (laneCount u.width)) s).2)) := by
  show execVcvt g f u r sat part mk d a s = _
  rw [execVcvt, guarded_true _ hg]
  dsimp only
  rw [convDraws_takeDraws]
  simp only [getD_takeDraws]
  rfl

theorem vcvt_lane (part : Fin 4) {j : Nat} (hj : j < laneCount f.width) :
    laneGet f.width (ofLanes f.width ((List.range (laneCount f.width)).map (cvtLane f u r sat part mk d a s))) j =
      if cvtBase f u part ≤ j ∧ j < cvtBase f u part + min (laneCount f.width) (laneCount u.width) ∧
          (kGet (me s) mk).getLsbD (j - cvtBase f u part) then
        convFmt f u r sat (drawAt (if convDraws f u r then .rst else .rne) (min (laneCount f.width) (laneCount u.width)) (me s)
          (j - cvtBase f u part)) (laneGet u.width (vGet (me s) a) (cvtSrc f u part (j - cvtBase f u part))) % 2 ^ f.width
      else laneGet f.width (vGet (me s) d) j := by
  rw [laneGet_ofLanes_range _ le_rfl hj, cvtLane, apply_ite (· % 2 ^ f.width), laneGet_mod]
  rfl

/-- VCVT in each relation of the two widths. -/
theorem vcvt_spec (part : Fin 4) (hg : guardVal g s = true) :
    ∃ t, exec (.vcvt g f u r sat part mk d a) s = .next (next t) ∧ SameBut s.cur s t ∧ (me t).x = (me s).x ∧
      (let n := 512 / f.width
       let m := 512 / u.width
       let dr := if convDraws f u r then draws16 (rngSteps (min n m) (me s).rnga (me s).rngb).1 else []
       (n = m → LanesDo (.vcvt g f u r sat part mk d a) s f.width (if convDraws f u r then .rst else .rne) mk d
         (fun x j => convFmt f u r sat x (laneGet u.width (vGet (me s) a) j))) ∧
       (n < m → ∀ j, j < n → laneGet f.width (vGet (me t) d) j = if (kGet (me s) mk).getLsbD j then
         convFmt f u r sat (dr.getD j 0) (laneGet u.width (vGet (me s) a) (part.val * n + j)) % 2 ^ f.width
         else laneGet f.width (vGet (me s) d) j) ∧
       (m < n → ∀ j, j < n → laneGet f.width (vGet (me t) d) j =
         if part.val * m ≤ j ∧ j < part.val * m + m ∧ (kGet (me s) mk).getLsbD (j - part.val * m) then
           convFmt f u r sat (dr.getD (j - part.val * m) 0) (laneGet u.width (vGet (me s) a) (j - part.val * m)) % 2 ^ f.width
         else laneGet f.width (vGet (me s) d) j)) := by
  have he := exec_vcvt (f := f) (u := u) (r := r) (sat := sat) (mk := mk) (d := d) (a := a) part hg
  obtain ⟨hsame, -, hme, -⟩ := takeDraws_spec (if convDraws f u r then .rst else .rne)
    (min (laneCount f.width) (laneCount u.width)) s
  have hdraw (j : Nat) : drawAt (if convDraws f u r then .rst else .rne) (min (laneCount f.width) (laneCount u.width)) (me s) j =
      (if convDraws f u r then draws16 (rngSteps (min (512 / f.width) (512 / u.width)) (me s).rnga (me s).rngb).1
        else []).getD j 0 := by
    cases convDraws f u r <;> rfl
  refine ⟨_, he, sameBut_modMe_of _ hsame, by rw [me_wv, hme]; rfl, fun hnm => ?_, fun hnm j hj => ?_, fun hnm j hj => ?_⟩
  · have hn : laneCount f.width = laneCount u.width := hnm
    have hb : cvtBase f u part = 0 := if_neg (by omega)
    have hs (j : Nat) : cvtSrc f u part j = j := if_neg (by omega)
    have hm : min (laneCount f.width) (laneCount u.width) = laneCount f.width := by omega
    refine lanesDo_of_next (hm ▸ he) fun j hj => ?_
    rw [vcvt_lane part hj, hb, hs, hm]
    simp only [Nat.zero_le, Nat.sub_zero, Nat.zero_add, hj, true_and]
  · have hn : laneCount f.width < laneCount u.width := hnm
    have hb : cvtBase f u part = 0 := if_neg (by omega)
    have hs (j : Nat) : cvtSrc f u part j = part.val * laneCount f.width + j := if_pos hn
    have hjm : j < min (laneCount f.width) (laneCount u.width) := lt_min hj (hn.trans' hj)
    rw [me_wv, vGet_vSet, if_pos rfl, vcvt_lane part hj, ← hdraw, hb, hs]
    simp only [Nat.zero_le, Nat.sub_zero, Nat.zero_add, hjm, true_and]
    rfl
  · have hn : laneCount u.width < laneCount f.width := hnm
    have hb : cvtBase f u part = part.val * laneCount u.width := if_pos hn
    have hs (j : Nat) : cvtSrc f u part j = j := if_neg (by omega)
    have hm : min (laneCount f.width) (laneCount u.width) = laneCount u.width := by omega
    rw [me_wv, vGet_vSet, if_pos rfl, vcvt_lane part hj, ← hdraw, hb, hs, hm]
    rfl

/-! ### VPACK -/

/-- A lane of 4 bits within its quarter of the register. -/
theorem laneGet_quarter (v : VWord) (j : Nat) : laneGet 4 v j = laneGet 128 v (j / 32) / 2 ^ (4 * (j % 32)) % 2 ^ 4 := by
  have hpow : 2 ^ 128 = 2 ^ (4 * (j % 32)) * 2 ^ (128 - 4 * (j % 32)) := by rw [← Nat.pow_add]; congr 1; omega
  have hdvd : 2 ^ 4 ∣ 2 ^ (128 - 4 * (j % 32)) := Nat.pow_dvd_pow 2 (by omega)
  have hexp : 4 * j = 128 * (j / 32) + 4 * (j % 32) := by omega
  rw [laneGet, laneGet, fld, fld, BitVec.extractLsb'_toNat, BitVec.extractLsb'_toNat, Nat.shiftRight_eq_div_pow,
    Nat.shiftRight_eq_div_pow, hpow, Nat.mod_mul_right_div_self, Nat.mod_mod_of_dvd _ hdvd, Nat.div_div_eq_div_mul,
    ← Nat.pow_add, hexp]

/-- One quarter replaced by 32 codes. -/
theorem laneGet_packed (v : VWord) (part : Fin 4) (f : Nat → Nat) {j : Nat} (hj : j < 128) :
    laneGet 4 (ofLanes 128 ((List.range 4).map fun q =>
      if q = part.val then packLanes 4 ((List.range 32).map f) else laneGet 128 v q)) j =
      if j / 32 = part.val then f (j % 32) % 16 else laneGet 4 v j := by
  have hr : j % 32 < 32 := Nat.mod_lt _ (by decide)
  rw [laneGet_quarter, laneGet_ofLanes_range _ (n := 4) le_rfl (by omega)]
  split
  · have hlt : packLanes 4 ((List.range 32).map f) < 2 ^ 128 := packLanes_lt 4 ((List.range 32).map f)
    rw [Nat.mod_eq_of_lt hlt, packLanes_lane (by simpa using hr), List.getElem_map, List.getElem_range]
    rfl
  · rw [laneGet_mod, ← laneGet_quarter]

theorem packExp_lt (ty : NType) (xs : List Ex) : packExp ty xs < 64 := by
  unfold packExp
  dsimp only
  cases h : (List.range 64).find? _ with
  | none => decide
  | some e => exact List.mem_range.mp (List.mem_of_find?_eq_some h)

theorem n4TypeCode_lt (ty : NType) : n4TypeCode ty < 4 := by cases ty <;> decide

/-- R148: VPACK by its 32 source elements `zs`. -/
theorem vpack_spec (ty : NType) (part : Fin 4) (b : Option VReg) (c : XReg) (hg : guardVal g s = true) :
    ∃ t, exec (.vpack g f r ty part d a b c) s = .next (next t) ∧ SameBut s.cur s t ∧
      (let zs := (packElems f s a b).map (decFloat f)
       let dr := if r = .rst then draws16 (rngSteps 32 (me s).rnga (me s).rngb).1 else []
       (c ≠ 0 → (rx t c).toNat = n4TypeCode ty * 64 + packExp ty (zs.filterMap finiteEx)) ∧
       (∀ j, j < 128 → laneGet 4 (vGet (me t) d) j = if j / 32 = part.val then
         encN4 ty (packExp ty (zs.filterMap finiteEx)) r (dr.getD (j % 32) 0) (zs.getD (j % 32) .nan) % 16
         else laneGet 4 (vGet (me s) d) j)) := by
  obtain ⟨hsame, -, hme, hdraws⟩ := takeDraws_spec r 32 s
  generalize hzs : (packElems f s a b).map (decFloat f) = zs
  have he : exec (.vpack g f r ty part d a b c) s = .next (next (wx c
      (BitVec.ofNat 64 (n4TypeCode ty * 64 + packExp ty (zs.filterMap finiteEx)))
      (wv d (ofLanes 128 ((List.range 4).map fun q => if q = part.val then packLanes 4 ((List.range 32).map fun j =>
        encN4 ty (packExp ty (zs.filterMap finiteEx)) r ((takeDraws r 32 s).1.getD j 0) (zs.getD j .nan))
        else laneGet 128 (vGet (me s) d) q)) (takeDraws r 32 s).2))) := by
    show execVpack g f r ty part d a b c s = _
    rw [execVpack, guarded_true _ hg, hzs]
  have hcode := n4TypeCode_lt ty
  have hexp := packExp_lt ty (zs.filterMap finiteEx)
  refine ⟨_, he, sameBut_modMe_of _ (sameBut_modMe_of _ hsame), fun hc => ?_, fun j hj => ?_⟩
  · rw [rx_wx_same hc, BitVec.toNat_ofNat, Nat.mod_eq_of_lt (by omega)]
  · rw [me_wx, vGet_xSet, me_wv, vGet_vSet, if_pos rfl, laneGet_packed _ _ _ hj, hdraws]

end Sys2Proof.Machine
end

section
/-!
PROOFS. VPRUNE (O48, R151): the lanes of a group have distinct ranks, so that a bound on the rank keeps exactly that many.
-/

namespace Sys2Proof.Machine

open Sys2Proof.Safety

/-! ### Ranks under a strict order -/

section Ranks

variable {n : Nat} {R : Nat → Nat → Bool}

/-- How many of the first `n` numbers stand before `i`. -/
def rankOf (R : Nat → Nat → Bool) (n i : Nat) : Nat := ((List.range n).filter fun j => R j i).length

theorem length_filter_range (p : Nat → Bool) (n : Nat) :
    ((List.range n).filter p).length = ((Finset.range n).filter fun j => p j = true).card := by
  rw [← List.countP_eq_length_filter, ← Nat.count_eq_card_filter_range, Nat.count]
  exact congrArg (List.countP · _) (funext fun j => Bool.decide_eq_true.symm)

theorem rankOf_eq_card (R : Nat → Nat → Bool) (n i : Nat) : rankOf R n i = ((Finset.range n).filter fun j => R j i = true).card :=
  length_filter_range ..

variable (hirr : ∀ i, R i i = false) (htrans : ∀ i j k, R i j = true → R j k = true → R i k = true)
  (htot : ∀ i j, i ≠ j → R i j = true ∨ R j i = true)

include hirr htrans

/-- What stands before another has a lower rank. -/
theorem rankOf_lt {i j : Nat} (hi : i < n) (h : R i j = true) : rankOf R n i < rankOf R n j := by
  rw [rankOf_eq_card, rankOf_eq_card]
  refine Finset.card_lt_card (Finset.ssubset_iff_of_subset (fun k hk => ?_) |>.mpr ⟨i, ?_, ?_⟩)
  · rw [Finset.mem_filter] at hk ⊢
    exact ⟨hk.1, htrans _ _ _ hk.2 h⟩
  · exact Finset.mem_filter.mpr ⟨Finset.mem_range.mpr hi, h⟩
  · rw [Finset.mem_filter, hirr]
    exact fun hc => Bool.false_ne_true hc.2

omit htrans in
theorem rankOf_lt_card {i : Nat} (hi : i < n) : rankOf R n i < n := by
  rw [rankOf_eq_card]
  refine (Finset.card_lt_card (Finset.filter_ssubset.mpr ⟨i, Finset.mem_range.mpr hi, ?_⟩)).trans_eq (Finset.card_range n)
  rw [hirr]
  exact Bool.false_ne_true

include htot

/-- Exactly `k` of the first `n` numbers have a rank below `k`. -/
theorem length_filter_rankOf {k : Nat} (hk : k ≤ n) :
    ((List.range n).filter fun i => decide (rankOf R n i < k)).length = k := by
  have hinj : Set.InjOn (rankOf R n) (Finset.range n) := by
    intro i hi j hj h
    by_contra hne
    have hi := Finset.mem_range.mp hi
    have hj := Finset.mem_range.mp hj
    rcases htot i j hne with hr | hr
    · exact (rankOf_lt hirr htrans hi hr).ne h
    · exact (rankOf_lt hirr htrans hj hr).ne' h
  have himage : (Finset.range n).image (rankOf R n) = Finset.range n := by
    refine Finset.eq_of_subset_of_card_le (fun m hm => ?_) (Finset.card_image_of_injOn hinj).ge
    obtain ⟨i, hi, rfl⟩ := Finset.mem_image.mp hm
    exact Finset.mem_range.mpr (rankOf_lt_card hirr (Finset.mem_range.mp hi))
  have hbelow : (Finset.range n).filter (· < k) = Finset.range k := by
    ext m
    rw [Finset.mem_filter, Finset.mem_range, Finset.mem_range]
    omega
  rw [length_filter_range, ← Finset.card_image_of_injOn (hinj.mono (Finset.coe_subset.mpr (Finset.filter_subset ..)))]
  calc _ = (((Finset.range n).image (rankOf R n)).filter (· < k)).card := by
        rw [Finset.filter_image]
        simp only [decide_eq_true_eq]
    _ = k := by rw [himage, hbelow, Finset.card_range]

end Ranks

/-! ### The order of magnitudes -/

/-- R151: the magnitude by which lanes rank; a NaN ranks above every number. -/
def magnitude (f : Fmt) (a : Nat) : Nat :=
  if f.isFloat then (if decFloat f a = .nan then 2 ^ f.width else a % 2 ^ (f.width - 1)) else (decInt f a).natAbs

theorem magAbove_eq (f : Fmt) (a b : Nat) : magAbove f a b = decide (magnitude f b < magnitude f a) := by
  have hlt (c : Nat) : c % 2 ^ (f.width - 1) < 2 ^ f.width :=
    (Nat.mod_lt _ (Nat.two_pow_pos _)).trans_le (Nat.pow_le_pow_right Nat.two_pos (Nat.sub_le ..))
  unfold magAbove magnitude
  cases f.isFloat
  · rfl
  · cases ha : decFloat f a <;> cases hb : decFloat f b <;> simp [hlt, (hlt _).le]

/-- R151: lane `j` of a group ranks before lane `i`: it is of greater magnitude, or of the same and earlier. -/
def rankBefore (f : Fmt) (v : List Nat) (j i : Nat) : Bool :=
  magAbove f (v.getD j 0) (v.getD i 0) || (decide (j < i) && !magAbove f (v.getD i 0) (v.getD j 0))

theorem rankBefore_iff {f : Fmt} {v : List Nat} {j i : Nat} : rankBefore f v j i = true ↔
    magnitude f (v.getD i 0) < magnitude f (v.getD j 0) ∨
      (j < i ∧ magnitude f (v.getD i 0) = magnitude f (v.getD j 0)) := by
  rw [rankBefore, magAbove_eq, magAbove_eq]
  simp only [Bool.or_eq_true, Bool.and_eq_true, decide_eq_true_eq, Bool.not_eq_true', decide_eq_false_iff_not]
  omega

theorem rankBefore_irrefl (f : Fmt) (v : List Nat) (i : Nat) : rankBefore f v i i = false := by
  rw [← Bool.not_eq_true, rankBefore_iff]
  omega
theorem rankBefore_trans (f : Fmt) (v : List Nat) (i j k : Nat) (h : rankBefore f v i j = true) (h' : rankBefore f v j k = true) :
    rankBefore f v i k = true := by
  rw [rankBefore_iff] at *
  omega
theorem rankBefore_total (f : Fmt) (v : List Nat) (i j : Nat) (h : i ≠ j) :
    rankBefore f v i j = true ∨ rankBefore f v j i = true := by
  rw [rankBefore_iff, rankBefore_iff]
  omega

theorem keptIn_eq (f : Fmt) (n : Nat) (v : List Nat) (i : Nat) :
    keptIn f n v i = decide (rankOf (rankBefore f v) v.length i < n) := rfl

/-- R151: exactly `n` lanes of a group are kept. -/
theorem length_kept {f : Fmt} {n : Nat} {v : List Nat} (hn : n ≤ v.length) :
    ((List.range v.length).filter (keptIn f n v)).length = n :=
  length_filter_rankOf (rankBefore_irrefl f v) (rankBefore_trans f v) (rankBefore_total f v) hn

/-- R151: no lane dropped is of greater magnitude than one kept. -/
theorem kept_not_below {f : Fmt} {n : Nat} {v : List Nat} {i j : Nat} (hj : j < v.length)
    (hkept : keptIn f n v i = true) (hdrop : keptIn f n v j = false) : magAbove f (v.getD j 0) (v.getD i 0) = false := by
  rw [keptIn_eq, decide_eq_true_eq] at hkept
  rw [keptIn_eq, decide_eq_false_iff_not] at hdrop
  by_contra h
  rw [Bool.not_eq_false, magAbove_eq, decide_eq_true_eq] at h
  have := rankOf_lt (rankBefore_irrefl f v) (rankBefore_trans f v) hj (rankBefore_iff.mpr (.inl h))
  omega

/-! ### Masks and packed groups -/

/-- The number whose bits are a list of positions. -/
def bitsOf (l : List Nat) : Nat := l.foldl (fun m i => m + 2 ^ i) 0

theorem bitsOf_filter_succ (p : Nat → Bool) (n : Nat) : bitsOf ((List.range (n + 1)).filter p) =
    bitsOf ((List.range n).filter p) + if p n then 2 ^ n else 0 := by
  rw [List.range_succ, List.filter_append]
  cases h : p n <;> simp [bitsOf, List.filter, h]

theorem bitsOf_filter_lt (p : Nat → Bool) (n : Nat) : bitsOf ((List.range n).filter p) < 2 ^ n := by
  induction n with
  | zero => exact Nat.one_pos
  | succ n ih =>
    rw [bitsOf_filter_succ, Nat.pow_succ]
    split <;> omega

theorem testBit_bitsOf (p : Nat → Bool) {n i : Nat} (hi : i < n) : (bitsOf ((List.range n).filter p)).testBit i = p i := by
  induction n with
  | zero => cases hi
  | succ n ih =>
    have hlt := bitsOf_filter_lt p n
    rw [bitsOf_filter_succ, Nat.add_comm]
    rcases Nat.lt_succ_iff_lt_or_eq.mp hi with h | rfl
    · rw [← ih h]
      split
      · exact Nat.testBit_two_pow_add_gt h _
      · rw [Nat.zero_add]
    · cases hp : p i
      · simpa using Nat.testBit_lt_two_pow hlt
      · simp [Nat.testBit_two_pow_add_eq, Nat.testBit_lt_two_pow hlt]

/-- Element `m` of block `q` in a row of blocks of `k` elements. -/
theorem getD_flatMap_range {α : Type} {n k q m : Nat} {f : Nat → List α} (d : α) (hf : ∀ q, (f q).length = k) (hq : q < n)
    (hm : m < k) : ((List.range n).flatMap f).getD (k * q + m) d = (f q).getD m d := by
  have hlen (n : Nat) : ((List.range n).flatMap f).length = k * n := by
    rw [List.length_flatMap, List.map_congr_left fun q _ => hf q]
    simp [Nat.mul_comm]
  induction n with
  | zero => cases hq
  | succ n ih =>
    rw [List.range_succ, List.flatMap_append]
    rcases Nat.lt_succ_iff_lt_or_eq.mp hq with h | rfl
    · have hin : k * q + m < k * n := by
        calc k * q + m < k * (q + 1) := by rw [Nat.mul_succ]; omega
          _ ≤ k * n := Nat.mul_le_mul_left k h
      rw [List.getD_append _ _ _ _ (by rw [hlen]; exact hin), ih h]
    · rw [List.getD_append_right _ _ _ _ (by rw [hlen]; omega), hlen, Nat.add_sub_cancel_left, List.flatMap_singleton]

/-! ### VPRUNE -/

variable {g : Guard} {f : Fmt} {d a : VReg} {c : XReg} {s : State}

/-- R151: the lanes of group `q`, and the positions kept of it. -/
def pruneGroup (f : Fmt) (a : VReg) (s : State) (q : Nat) : List Nat := (List.range 24).map fun i => vLane f.width s a (24 * q + i)
def pruneKept (f : Fmt) (k : Nat) (a : VReg) (s : State) (q : Nat) : List Nat :=
  (List.range 24).filter (keptIn f k (pruneGroup f a s q))

/-- R151: the mask in C, and the lanes of D. -/
def pruneMask (f : Fmt) (k : Nat) (a : VReg) (s : State) (q : Nat) : Nat :=
  if (List.range (laneCount f.width / 24)).contains q then bitsOf (pruneKept f k a s q) else 0
def pruneLanes (f : Fmt) (k : Nat) (a : VReg) (s : State) : List Nat :=
  (List.range (laneCount f.width / 24)).flatMap fun q => (pruneKept f k a s q).map fun i => (pruneGroup f a s q).getD i 0

theorem exec_vprune (n : Fin 3) (hg : guardVal g s = true) : exec (.vprune g f n d a c) s = .next (next (wx c
    (BitVec.ofNat 64 (pruneMask f (pruneN n) a s 0 + 2 ^ 32 * pruneMask f (pruneN n) a s 1))
    (wv d (ofLanes f.width (pruneLanes f (pruneN n) a s)) s))) := by
  show execVprune g f n d a c s = _
  rw [execVprune, guarded_true _ hg]
  rfl

theorem pruneN_le (n : Fin 3) : pruneN n ≤ 12 := by revert n; decide

theorem length_pruneGroup (q : Nat) : (pruneGroup f a s q).length = 24 := by rw [pruneGroup, List.length_map, List.length_range]
theorem getD_pruneGroup {q i : Nat} (hi : i < 24) : (pruneGroup f a s q).getD i 0 = laneGet f.width (vGet (me s) a) (24 * q + i) := by
  rw [pruneGroup, List.getD_eq_getElem?_getD, List.getElem?_map, List.getElem?_range hi]
  rfl
theorem length_pruneKept {k : Nat} (q : Nat) (hk : k ≤ 24) : (pruneKept f k a s q).length = k := by
  have h := length_kept (f := f) (v := pruneGroup f a s q) (n := k) (by rw [length_pruneGroup]; exact hk)
  rwa [length_pruneGroup] at h
theorem pruneMask_lt (k q : Nat) : pruneMask f k a s q < 2 ^ 24 := by
  rw [pruneMask]
  split
  · exact bitsOf_filter_lt _ 24
  · decide

/-- The two masks lie in the two halves of C. -/
theorem getLsbD_halves {x y q i : Nat} (hx : x < 2 ^ 24) (hq : q < 2) (hi : i < 24) :
    (BitVec.ofNat 64 (x + 2 ^ 32 * y)).getLsbD (32 * q + i) = (if q = 0 then x else y).testBit i := by
  rw [BitVec.getLsbD_ofNat, decide_eq_true (by omega : 32 * q + i < 64), Bool.true_and, Nat.add_comm,
    Nat.testBit_two_pow_mul_add _ (by omega)]
  obtain rfl | rfl : q = 0 ∨ q = 1 := by omega
  · rw [if_pos (by omega), if_pos rfl, Nat.mul_zero, Nat.zero_add]
  · rw [if_neg (by omega), if_neg (by decide), show 32 * 1 + i - 32 = i by omega]

/-- R151: bit `i` of a group's half of the mask says whether its lane `i` is kept. -/
theorem getLsbD_pruneMask {k q i : Nat} (hq : q < laneCount f.width / 24) (hq2 : q < 2) (hi : i < 24) :
    (BitVec.ofNat 64 (pruneMask f k a s 0 + 2 ^ 32 * pruneMask f k a s 1)).getLsbD (32 * q + i) =
      keptIn f k (pruneGroup f a s q) i := by
  have hmask : (if q = 0 then pruneMask f k a s 0 else pruneMask f k a s 1) = bitsOf (pruneKept f k a s q) := by
    have hin : (List.range (laneCount f.width / 24)).contains q = true :=
      List.contains_iff_mem.mpr (List.mem_range.mpr hq)
    obtain rfl | rfl : q = 0 ∨ q = 1 := by omega
    · rw [if_pos rfl, pruneMask, if_pos hin]
    · rw [if_neg (by decide), pruneMask, if_pos hin]
  rw [getLsbD_halves (pruneMask_lt ..) hq2 hi, hmask]
  exact testBit_bitsOf _ hi

/-- R151: lane `m` of a group of D. -/
theorem laneGet_pruneLanes {k q m : Nat} (hk : k ≤ 12) (hw : f.width = 8 ∨ f.width = 16) (hq : q < laneCount f.width / 24)
    (hm : m < k) : laneGet f.width (ofLanes f.width (pruneLanes f k a s)) (k * q + m) =
      laneGet f.width (vGet (me s) a) (24 * q + (pruneKept f k a s q).getD m 0) := by
  have hlen (q : Nat) : ((pruneKept f k a s q).map fun i => (pruneGroup f a s q).getD i 0).length = k := by
    rw [List.length_map, length_pruneKept q (hk.trans (by decide))]
  have htotal : f.width * (pruneLanes f k a s).length ≤ 512 := by
    have hsum : (pruneLanes f k a s).length = laneCount f.width / 24 * k := by
      rw [pruneLanes, List.length_flatMap, List.map_congr_left fun q _ => hlen q]
      simp
    rw [hsum]
    rcases hw with hw | hw <;> rw [hw] <;> norm_num [laneCount] <;> omega
  have hmk : m < (pruneKept f k a s q).length := by rwa [length_pruneKept q (hk.trans (by decide))]
  have hin : (pruneKept f k a s q).getD m 0 < 24 := by
    rw [List.getD_eq_getElem _ _ hmk]
    exact List.mem_range.mp (List.mem_of_mem_filter (List.getElem_mem hmk))
  rw [laneGet_ofLanes_getD _ htotal, pruneLanes, getD_flatMap_range 0 hlen hq hm, List.getD_eq_getElem _ _ (by rwa [List.length_map]),
    List.getElem_map, ← List.getD_eq_getElem (d := 0), getD_pruneGroup hin, laneGet_mod]

end Sys2Proof.Machine
end

section
open Sys2Proof Sys2Proof.Machine Sys2Proof.Safety

/-- Settles O48: the conversions lane by lane, the packed quarter code by code, and the lanes kept by their ranks. -/
theorem vectorFormatConversions : Obligations.VectorFormatConversions := by
  unfold Obligations.VectorFormatConversions
  refine ⟨fun g f u r sat part mk d a s hg => vcvt_spec part hg, fun g f r ty part d a b c s hg => ⟨?_, ?_⟩,
    fun g f r sat hi part mk d a b s hg => ?_, fun g f n d a c s hg hw => ?_⟩
  · have h := vpack_spec (f := .f32) (r := r) (d := d) (a := a) ty part (some b) c hg
    exact h
  · exact vpack_spec ty part none c hg
  · exact lanesDo_of_lanewise (op' := fun x j => roundFloat f r sat x (decN4 ((rx s b).toNat % 256)
      (vLane 4 s a (32 * part.val + (16 * b2n hi + j))))) hg rfl fun x j => by cases hi <;> simp [b2n, vLane, Nat.add_assoc]
  · have hk : (if n = 0 then 6 else if n = 1 then 8 else 12) = pruneN n := rfl
    have hlanes : laneCount f.width / 24 ≤ 2 := by rcases hw with hw | hw <;> rw [hw] <;> decide
    dsimp only
    rw [hk]
    refine ⟨_, exec_vprune n hg, sameBut_modMe_of _ (sameBut_modMe ..), fun q hq hc => ?_⟩
    rw [rx_wx_same hc]
    have hbit (i : Nat) (hi : i < 24) := getLsbD_pruneMask (f := f) (k := pruneN n) (a := a) (s := s) hq (hq.trans_le hlanes) hi
    rw [List.filter_congr fun i hi => hbit i (List.mem_range.mp hi)]
    refine ⟨?_, fun i j hi hj hki hkj => ?_, fun m hm => ?_⟩
    · exact length_pruneKept q ((pruneN_le n).trans (by decide))
    · rw [hbit i hi] at hki
      rw [hbit j hj] at hkj
      rw [← getD_pruneGroup hi, ← getD_pruneGroup hj]
      exact kept_not_below (by rw [length_pruneGroup]; exact hj) hki hkj
    · rw [me_wx, vGet_xSet, me_wv, vGet_vSet, if_pos rfl]
      exact laneGet_pruneLanes (pruneN_le n) hw hq hm

end

section
/-! PROOFS. O45: a landing word in a memory that lists one byte twice. -/
namespace Sys2Proof.Machine
open Sys2Proof.Safety

/-- The bytes of the landing word at offset 0x100 of the own store after reset. -/
def landKeys : List Nat := keysFrom (localKey 0 0x100) 16

/-- After reset, with a landing word of TARGET 1 and COUNT 1 whose second count byte is listed twice, a byte list that no
step leaves behind but that the statement admits. -/
def twiceListed : State :=
  wx 1 1 { State.reset with mem := [(localKey 0 0x100, 1), (localKey 0 0x104, 1), (localKey 0 0x104, 2)] }

/-- The x register after a result that goes on. -/
def xAfter (d : XReg) : Res → Word
  | .next t => rx t d
  | _ => 0

theorem ownLocal_twiceListed : OwnLocal twiceListed ⟨0, 0, 0x100⟩ 16 .atomic landKeys :=
  ⟨0xC000000000000100, by decide, by decide, ⟨_, rfl⟩, by decide⟩

/-- LANDADD writes COUNT 0, which uncovers the second entry of that byte, and reads COUNT 2 back. -/
theorem landadd_twiceListed :
    xAfter 5 (exec (.landadd .always .plain (some 5) ⟨0, 0, 0x100⟩ 1) twiceListed) = 0x0000000200000002 := by decide

end Sys2Proof.Machine
end

section
open Sys2Proof Sys2Proof.Machine Sys2Proof.Safety

/-- Refutes O45: the clause of LANDADD asks no canonical memory. LANDADD hands D the word that it reads back, and where the
byte list names a byte twice a write of that byte's reset value drops only the first entry, so that the second is read back. -/
theorem not_landingWordsMonitorsAndGenerators : ¬ Obligations.LandingWordsMonitorsAndGenerators := by
  intro h
  obtain ⟨-, land, -⟩ := h
  obtain ⟨-, hadd⟩ := land .always 5 1 ⟨0, 0, 0x100⟩ twiceListed landKeys (by decide) ownLocal_twiceListed
  obtain ⟨u, hu, hbut⟩ := hadd .plain (some 5) (.inl rfl)
  have hme := me_of_butFound hbut
  have hclaimed : rx (next u) 5 = 0x0000000000000002 := by
    rw [rx_next (by rw [hme]; decide), rx, hme]
    decide
  have hread := landadd_twiceListed
  rw [hu, xAfter, hclaimed] at hread
  exact absurd hread (by decide)
end

section
/-! PROOFS. Lines of results that the engines write (R204). -/
namespace Sys2Proof.Machine
open Sys2Proof.Safety

theorem getCellar_of_cellars {s t : State} (h : t.cellars = s.cellars) (u : Nat) : getCellar t u = getCellar s u := by
  rw [getCellar, getCellar, h]

@[simp] theorem engineWrite_mem (cls at_ : Nat) (l : List (Nat × Byte)) (bad : List Nat) (s : State) :
    (engineWrite cls at_ l bad s).mem = pokeBytes l s.mem := rfl

theorem engineWrite_cellars (cls at_ : Nat) (l : List (Nat × Byte)) (bad : List Nat) (s : State) :
    (engineWrite cls at_ l bad s).cellars = s.cellars := rfl

theorem writeLineOf_cellars (cls at_ : Nat) (l : List LineByte) (s : State) :
    (writeLineOf cls at_ l s).cellars = s.cellars := by
  cases l with
  | nil => rfl
  | cons x r => exact engineWrite_cellars ..

/-- A line written leaves every byte of another 64-byte line as it was. -/
theorem readByte_writeLineOf {x : LineByte} {r : List LineByte} (cls at_ : Nat) {s : State} {k : Nat} (hm : MemInv s)
    (hk : k / 64 ≠ x.key / 64) : readByte (writeLineOf cls at_ (x :: r) s) k = readByte s k := by
  refine cellGet_pokeBytes_other _ _ _ hm fun p hp hpk => ?_
  obtain ⟨y, hy, rfl⟩ := List.mem_map.mp hp
  rcases List.mem_cons.mp hy with rfl | hy
  · exact hk (hpk ▸ rfl)
  · have hsame := (List.mem_filter.mp hy).2
    rw [sameLine, beq_iff_eq] at hsame
    exact hk (hpk ▸ hsame.symm)

theorem lineRest_cons (x : LineByte) (r : List LineByte) :
    lineRest (x :: r) = r.filter fun y => y.key / 64 != x.key / 64 := by
  refine List.filter_congr fun y _ => ?_
  rw [sameLine, bne, Bool.beq_comm]

theorem drainAll_none {s : State} (h : s.pend = []) (e : SRef) : drainAll e s = s :=
  drain_none (by simp [h])

/-- With nothing handed off, an instruction that asks for all of it does its work at once. -/
theorem afterAll_none {s : State} (h : s.pend = []) (i : Instr) (k : State → Res) : afterAll i k s = k s := by
  rw [afterAll, drainAll_none h]
  simp [unperformed, h]

end Sys2Proof.Machine
end

section
/-! PROOFS. O49: the cellar commands. -/
namespace Sys2Proof.Machine
open Sys2Proof.Safety

theorem cellarTakes_of_issue {i : Instr} {g : Guard} {d : XReg} {m : MemOp} {alpha : BitVec 32} {s : State}
    (hi : exec i s = cellarIssue i g d m alpha s) : CellarTakes i g d m alpha s := by
  intro a hg ha hp
  rw [hi, cellarIssue, guarded_true _ hg, ha]
  refine ⟨fun k hk => by simp only [hk], fun hd hpoison => ?_⟩
  simp only [hd, afterAll_none hp, hpoison]
  refine ⟨fun hroom hwait => ?_, fun hroom => ?_⟩
  · rw [if_pos]
    · rfl
    · refine ⟨hroom, ?_⟩
      rw [Bool.not_eq_true', List.any_eq_false]
      intro p hps
      split
      next v c i n lim hw =>
        rw [beq_iff_eq]
        rintro rfl
        exact hwait p hps _ hw c rfl
      next => simp
  · rw [if_neg fun h => by rw [hroom] at h; exact absurd h.1 (by simp)]

theorem cellarStep1_badShape {c : CellarCmd} (h : cdM c.desc = 0 ∨ cdN c.desc % 32 ≠ 0) :
    cellarStep1 c = some (11, c.daddr) := by
  unfold cellarStep1
  dsimp only
  split
  · refine if_pos (.inr ?_)
    rcases h with h | h
    · exact .inl h
    · exact .inr (.inr (.inl h))
  · rfl

/-- An operand that crosses a 2 MiB boundary is the failure found, before any walk. -/
theorem cellarCheck_straddle {u : Nat} {c : CellarCmd} {s : State} {f t : Fmt} {x : Word × Nat}
    (hf : cdFmts c.desc = some (f, t)) (h1 : cellarStep1 c = none)
    (hx : (cellarOperands (cellarOp c.instr) c.desc f t).find?
      (fun o => o.1.toNat / 2 ^ 21 != (o.1.toNat + o.2 - 1) / 2 ^ 21) = some x) :
    cellarCheck u c s = (.inl (12, x.1), s) := by
  have h2 : cellarStep2 u c (cellarOperands (cellarOp c.instr) c.desc f t) s = some (12, x.1) := by
    rw [cellarStep2, hx]
  unfold cellarCheck
  simp only [h1, hf, h2, cellarWalked]

/-- Whole stripe rows: with N a multiple of 32 the offset is that of 32-element group `i * w + j / 32`. -/
theorem stripedOff_group {w e i j q : Nat} (hq : q = i * w + j / 32) :
    stripedOff (32 * w) e i j = e * q / 256 * 8192 + j % 32 * 256 + e * q % 256 := by
  have hg : i * (32 * w) / 32 = i * w := by rw [Nat.mul_left_comm]; omega
  rw [stripedOff, hg, hq]

theorem stripedOff_le_extent {w m e i j : Nat} (he : e = 1 ∨ e = 2 ∨ e = 4) (hi : i < m) (hj : j < 32 * w) :
    stripedOff (32 * w) e i j + e ≤ stripedExtent m (32 * w) e := by
  obtain ⟨q, hq⟩ : ∃ q, q = i * w + j / 32 := ⟨_, rfl⟩
  have hrow : i * w + w ≤ m * w := by simpa [Nat.succ_mul] using Nat.mul_le_mul_right w hi
  obtain ⟨z, hz⟩ : ∃ z, z = m * w := ⟨_, rfl⟩
  have htotal : e * m * (32 * w) = e * (32 * z) := by rw [hz]; ring
  rw [stripedOff_group hq, stripedExtent, htotal]
  rcases he with rfl | rfl | rfl <;> omega

/-- Two elements that share a byte lie in the same group and at the same place of it. -/
theorem stripedOff_inj {w e i j i' j' : Nat} (he : e = 1 ∨ e = 2 ∨ e = 4) (hj : j < 32 * w) (hj' : j' < 32 * w)
    (h : stripedOff (32 * w) e i j < stripedOff (32 * w) e i' j' + e)
    (h' : stripedOff (32 * w) e i' j' < stripedOff (32 * w) e i j + e) : i = i' ∧ j = j' := by
  obtain ⟨q, hq⟩ : ∃ q, q = i * w + j / 32 := ⟨_, rfl⟩
  obtain ⟨q', hq'⟩ : ∃ q, q = i' * w + j' / 32 := ⟨_, rfl⟩
  rw [stripedOff_group hq, stripedOff_group hq'] at h h'
  have hplace : q = q' ∧ j % 32 = j' % 32 := by rcases he with rfl | rfl | rfl <;> omega
  have hrow : ∀ {a b : Nat}, b < 32 * w → (a * w + b / 32) / w = a := fun {a b} hb => by
    rw [Nat.mul_comm, Nat.mul_add_div (by omega), Nat.div_eq_of_lt (by omega), Nat.add_zero]
  have hii : i = i' := by rw [← hrow (a := i) hj, ← hrow (a := i') hj', ← hq, ← hq', hplace.1]
  subst hii
  omega

/-- A row of a list kept row by row. -/
theorem take_drop_eq_map {α : Type} (l : List α) (d : α) {a n : Nat} (h : a + n ≤ l.length) :
    (l.drop a).take n = (List.range n).map fun j => l.getD (a + j) d := by
  refine List.ext_getElem (by simp; omega) fun j h1 h2 => ?_
  have hj : a + j < l.length := by simp at h2; omega
  simp [List.getD_eq_getElem?_getD, hj]

section
variable {c : CellarCmd} {f t : Fmt} {r : Rnd} {dst : Nat} {xs : List (Nat × Nat × Bool)}

theorem reduceCell_sum_float (hf : f.isFloat = true) (sat : Bool) (ys : List (Nat × Nat)) :
    reduceCell .sum f t r sat ys = reduceExact t r sat (ys.map fun p => decFloat f p.1) := if_pos hf

/-- NSUM down the columns. -/
theorem denseResults_columns (hop : cellarOp c.instr = .sum) (hf : f.isFloat = true) (hax : cdAxis c.desc = false) :
    denseResults c f t r dst xs = (List.range (cdN c.desc)).flatMap fun k =>
      resultBytes dst (k * fmtBytes t) (fmtBytes t)
        (reduceExact t r (cdSat c.desc)
          ((List.range (cdM c.desc)).map fun i => decFloat f (xs.getD (i * cdN c.desc + k) (0, 0, false)).1))
        ((List.range (cdM c.desc)).any fun i => (xs.getD (i * cdN c.desc + k) (0, 0, false)).2.2) := by
  unfold denseResults
  simp only [hop, hax, Bool.false_eq_true, if_false, reduceCell_sum_float hf, List.map_map, List.any_map]
  rfl

/-- NSUM along the rows. -/
theorem denseResults_rows (hop : cellarOp c.instr = .sum) (hf : f.isFloat = true) (hax : cdAxis c.desc = true)
    (hlen : xs.length = cdM c.desc * cdN c.desc) :
    denseResults c f t r dst xs = (List.range (cdM c.desc)).flatMap fun k =>
      resultBytes dst (k * fmtBytes t) (fmtBytes t)
        (reduceExact t r (cdSat c.desc)
          ((List.range (cdN c.desc)).map fun j => decFloat f (xs.getD (k * cdN c.desc + j) (0, 0, false)).1))
        ((List.range (cdN c.desc)).any fun j => (xs.getD (k * cdN c.desc + j) (0, 0, false)).2.2) := by
  unfold denseResults
  simp only [hop, hax, if_true, reduceCell_sum_float hf]
  refine List.flatMap_congr fun k hk => ?_
  have hrow : k * cdN c.desc + cdN c.desc ≤ xs.length := by
    rw [hlen, ← Nat.succ_mul]
    exact Nat.mul_le_mul_right _ (List.mem_range.mp hk)
  rw [take_drop_eq_map xs (0, 0, false) hrow, List.map_map, List.map_map, List.any_map]
  rfl
end

section
variable {u : Nat} {s : State} {c : CellarCmd} {r : List CellarCmd}

/-- R204: a line of results that a unit writes. -/
theorem cellarLine_writes {x : LineByte} {l : List LineByte} (hm : MemInv s) (hl : (getCellar s u).lines = x :: l) :
    (∀ k, k / 64 ≠ x.key / 64 → readByte (cellarLine u s) k = readByte s k) ∧
    (getCellar (cellarLine u s) u).lines = l.filter fun y => y.key / 64 != x.key / 64 := by
  unfold cellarLine
  rw [hl]
  refine ⟨fun k hk => readByte_writeLineOf 3 0 (modCellar_wf hm) hk, ?_⟩
  rw [getCellar_of_cellars (writeLineOf_cellars ..), getCellar_modCellar_same, lineRest_cons]

/-! What a look of the unit does, by the state of its oldest command (R222, R223, R369). -/

theorem cellarLook_entry (hq : (getCellar s u).queue = c :: r) (he : (getCellar s u).entry.isSome = true) :
    execCellarCommandComplete u s = .next (cellarFinish u s) := by
  obtain ⟨e, he⟩ := Option.isSome_iff_exists.mp he
  unfold execCellarCommandComplete
  simp only [hq, he]

theorem cellarLook_lines (hq : (getCellar s u).queue = c :: r) (he : (getCellar s u).entry = none)
    (hl : (getCellar s u).lines ≠ []) :
    execCellarCommandComplete u s = .next (enqueue (.cellarCommandComplete u) (cellarLine u s)) := by
  unfold execCellarCommandComplete
  simp only [hq, he]
  exact if_pos hl

theorem cellarLook_frozen (hq : (getCellar s u).queue = c :: r) (he : (getCellar s u).entry = none)
    (hl : (getCellar s u).lines = []) (hz : (getJob s c.job).frozen = true) :
    execCellarCommandComplete u s = .next s := by
  unfold execCellarCommandComplete
  simp [hq, he, hl, hz]

/-! A command whose job runs and that has no line to write is checked first, and then goes on row by row. -/

section
variable (hq : (getCellar s u).queue = c :: r) (he : (getCellar s u).entry = none) (hl : (getCellar s u).lines = [])
  (hz : (getJob s c.job).frozen = false)
include hq he hl hz

theorem cellarLook_fails {f : Fail} {t : State} (hpas : (getCellar s u).pas = none)
    (hc : cellarCheck u c s = (.inl f, t)) : execCellarCommandComplete u s = .next (cellarEnd u c f t) := by
  unfold execCellarCommandComplete
  simp only [hq, he, hl, hz, hpas, hc, ne_eq, not_true_eq_false, if_false, Bool.false_eq_true]

theorem cellarLook_passes {pas : List Nat} {t : State} (hpas : (getCellar s u).pas = none)
    (hc : cellarCheck u c s = (.inr pas, t)) (hhole : cellarHole c pas = false) :
    execCellarCommandComplete u s = .next (enqueue (.cellarCommandComplete u) (modCellar u (fun k =>
      { k with pas := some pas, rnga := (seedEngine c.step).1, rngb := (seedEngine c.step).2 }) t)) := by
  unfold execCellarCommandComplete
  simp only [hq, he, hl, hz, hpas, hc, hhole, ne_eq, not_true_eq_false, if_false, Bool.false_eq_true]

variable {pas : List Nat} {f t : Fmt} {rnd : Rnd} (hpas : (getCellar s u).pas = some pas)
  (hf : cdFmts c.desc = some (f, t)) (hr : Rnd.ofCode (cdRnd c.desc) = some rnd)
include hpas hf hr

theorem cellarLook_row (hpos : (getCellar s u).pos < cdM c.desc * cdN c.desc) :
    execCellarCommandComplete u s =
      .next (enqueue (.cellarCommandComplete u) (cellarRow u c f t rnd pas s)) := by
  unfold execCellarCommandComplete
  simp only [hq, he, hl, hz, hpas, hf, hr, hpos, ne_eq, not_true_eq_false, if_false, if_true, Bool.false_eq_true]

theorem cellarLook_done (hpos : cdM c.desc * cdN c.desc ≤ (getCellar s u).pos) (hbad : (getCellar s u).bad = none) :
    execCellarCommandComplete u s = .next (cellarEnd u c (0, cdDst c.desc) s) := by
  unfold execCellarCommandComplete
  simp only [hq, he, hl, hz, hpas, hf, hr, hbad, if_neg (Nat.not_lt.mpr hpos), ne_eq, not_true_eq_false, if_false,
    Bool.false_eq_true]

theorem cellarLook_poisoned {a : Word} (hpos : cdM c.desc * cdN c.desc ≤ (getCellar s u).pos)
    (hbad : (getCellar s u).bad = some a) : execCellarCommandComplete u s = .next (cellarEnd u c (5, a) s) := by
  unfold execCellarCommandComplete
  simp only [hq, he, hl, hz, hpas, hf, hr, hbad, if_neg (Nat.not_lt.mpr hpos), ne_eq, not_true_eq_false, if_false,
    Bool.false_eq_true]
end
end

/-! A waiting command is tried (R280). -/

section
variable {e : SRef} {s : State}

theorem engineAcceptance_cellar {u c i n k} (hw : (getStrand s (skey e)).wait = some ⟨.accept u c, i, n, k⟩) :
    execEngineAcceptance e s =
      .next (if cellarRoom s u then cellarAccept u { c with e := e } (endWait e (asStrand e s)) else s) := by
  unfold execEngineAcceptance
  simp only [hw]

theorem engineAcceptance_carter {n c k} (hw : (getStrand s (skey e)).wait = none)
    (hf : (getStrand s (skey e)).flight = some (.acceptC n c k)) :
    execEngineAcceptance e s =
      .next (if carterRoom s n then carterAccept n { c with e := e } (readyIn 1 (asStrand e s)) else s) := by
  unfold execEngineAcceptance
  simp only [hw, hf]

theorem engineAcceptance_loom {c k} (hw : (getStrand s (skey e)).wait = none)
    (hf : (getStrand s (skey e)).flight = some (.acceptL c k)) :
    execEngineAcceptance e s =
      .next (if loomRoom s e.site then loomAccept { c with e := e } (readyIn 1 (asStrand e s)) else s) := by
  unfold execEngineAcceptance
  simp only [hw, hf]
end

end Sys2Proof.Machine
end

section
open Sys2Proof Sys2Proof.Machine Sys2Proof.Safety

/-- Settles O49: issue by `cellarTakes_of_issue`, the looks of the unit by the state of its oldest command, the striped
layout by arithmetic on 32-element groups. -/
theorem cellarCommandsAreAcceptedAndRun : Obligations.CellarCommandsAreAcceptedAndRun := by
  unfold Obligations.CellarCommandsAreAcceptedAndRun
  refine ⟨fun g h d b m s => ⟨cellarTakes_of_issue rfl, cellarTakes_of_issue rfl, cellarTakes_of_issue rfl,
    cellarTakes_of_issue rfl, cellarTakes_of_issue rfl, cellarTakes_of_issue rfl⟩, ?looks, ?check, ?striped, ?results,
    fun u s x r hm hl => cellarLine_writes hm hl, ?acceptance⟩
  case looks =>
    intro u s c r hq
    exact ⟨fun he => cellarLook_entry hq he, fun he hl => cellarLook_lines hq he hl,
      fun he hl hz => cellarLook_frozen hq he hl hz, fun he hl hz =>
      ⟨fun hpas => ⟨fun f t hc => cellarLook_fails hq he hl hz hpas hc,
        fun pas t hc hhole => cellarLook_passes hq he hl hz hpas hc hhole⟩,
      fun pas f t rnd hpas hf hr => ⟨fun hp => cellarLook_row hq he hl hz hpas hf hr hp,
        fun hp hb => cellarLook_done hq he hl hz hpas hf hr hp hb,
        fun a hp hb => cellarLook_poisoned hq he hl hz hpas hf hr hp hb⟩⟩⟩
  case check =>
    refine fun u c s => ⟨fun h => ?_, fun f t hf h1 x hx => cellarCheck_straddle hf h1 hx⟩
    unfold cellarCheck
    rw [cellarStep1_badShape h]
  case striped =>
    intro m n e i j i' j' he hn hi hj hi' hj'
    obtain ⟨w, rfl⟩ := Nat.dvd_of_mod_eq_zero hn
    exact ⟨stripedOff_le_extent he hi hj, stripedOff_inj he hj hj'⟩
  case results =>
    intro c f t r dst xs hf
    refine ⟨fun g h d mo hi => ?_, fun g h d mo b draw x y hi => ?_⟩
    · have hop : cellarOp c.instr = .sum := by rw [hi]; rfl
      exact ⟨denseResults_columns hop hf, denseResults_rows hop hf⟩
    · rw [mapCell, hi]
      rfl
  case acceptance =>
    refine fun e s => ⟨fun u c i n k hw => ⟨fun h => ?_, fun h => ?_⟩, fun n c k hw hf => ⟨fun h => ?_, fun h => ?_⟩,
      fun c k hw hf => ⟨fun h => ?_, fun h => ?_⟩⟩
    · exact (engineAcceptance_cellar hw).trans (by simp [h])
    · exact (engineAcceptance_cellar hw).trans (by simp [h])
    · exact (engineAcceptance_carter hw hf).trans (by simp [h])
    · exact (engineAcceptance_carter hw hf).trans (by simp [h])
    · exact (engineAcceptance_loom hw hf).trans (by simp [h])
    · exact (engineAcceptance_loom hw hf).trans (by simp [h])
end

section
/-! PROOFS. O51: the loom's turns, drains and blocks. -/
namespace Sys2Proof.Machine
open Sys2Proof.Safety

theorem getBlock_modBlock (y n : Nat) (f : Block → Block) (s : State) :
    getBlock (modBlock y n f s) y n = f (getBlock s y n) := by
  rw [getBlock, modBlock, getLoom_modLoom_same, tget_tset_same]
  rfl

/-! ### Turns (R226) -/

section
variable {y t : Nat} {s : State} {c : LoomCmd}

/-- An island that is dark or paused, or a loom without a command that may take a turn, does nothing. -/
theorem loomTurn_idle (h : loomPick s (getLoom s y) = none) : execLoomTurn y s = .next s := by
  unfold execLoomTurn
  simp only [h, ite_self]

/-- A turn that ends its command. -/
theorem loomTurn_fin (hpow : (getIsland s y).powered = true) (hpause : (getIsland s y).paused = false)
    (hpick : loomPick s (getLoom s y) = some (t, c)) (hcls : c.fclass = none) {cls : Option Nat} {c' : LoomCmd} {u : State}
    (hturn : loomCmdTurn y t { c with started := true } (modLoom y (fun l => { l with rr := (t + 1) % 16 }) s) = .fin cls c' u) :
    execLoomTurn y s = .next (asStrand s.cur (loomEnd y t cls c'
      (modLoom y (fun l => { l with queues := tset l.queues t (c' :: (tget [] l.queues t).tail) }) u))) := by
  simp only [hcls] at hturn
  unfold execLoomTurn
  simp only [hpow, hpause, hpick, hcls, hturn, Bool.not_true, Bool.false_eq_true, or_self, if_false]

theorem mcfgTurn_eq {g b} (hi : c.instr = .mcfg g b) :
    loomCmdTurn y t c s = .fin none c (modLoom y (fun l => { l with ctxs := tset l.ctxs t c.value }) s) := by
  unfold loomCmdTurn
  simp only [hi]

theorem loomReply_inFlight (hf : (getStrand s (skey c.e)).flight = some (.loom c.instr)) (f : State → State) :
    loomReply c f s = f (readyIn 1 (asStrand c.e s)) := by
  rw [loomReply, hf]
  exact if_pos rfl

/-- The status that a reply carries may be read before or in the reply. -/
theorem blockStatus_readyIn (n : Nat) (e : SRef) (b : Block) :
    blockStatus (readyIn n (asStrand e s)) b = blockStatus s b := rfl

theorem loomReply_congr {f f' : State → State} (h : f (readyIn 1 (asStrand c.e s)) = f' (readyIn 1 (asStrand c.e s))) :
    loomReply c f s = loomReply c f' s := by
  unfold loomReply
  rw [h]

theorem mstatTurn_eq {g sel d b} (hi : c.instr = .mstat g sel d b) :
    loomCmdTurn y t c s = .fin none c (loomReply c (fun u => next (wx d
      (if sel = 0 then blockStatus s (getBlock s y (fld c.value 0 6))
        else if sel = 1 then (getBlock s y (fld c.value 0 6)).rowmask else (getBlock s y (fld c.value 0 6)).colmask) u)) s) := by
  unfold loomCmdTurn mstatTurn
  simp only [hi, syncDest]

theorem mstatTurn_replies {g sel d b} (hi : c.instr = .mstat g sel d b)
    (hf : (getStrand s (skey c.e)).flight = some (.loom c.instr)) :
    loomCmdTurn y t c s = .fin none c (next (wx d
      (if sel = 0 then blockStatus s (getBlock s y (fld c.value 0 6))
        else if sel = 1 then (getBlock s y (fld c.value 0 6)).rowmask else (getBlock s y (fld c.value 0 6)).colmask)
      (readyIn 1 (asStrand c.e s)))) := by
  rw [mstatTurn_eq hi, loomReply_inFlight hf]

/-- The round robin names no block. -/
theorem getBlock_rr (n blk : Nat) : getBlock (modLoom y (fun l => { l with rr := n }) s) y blk = getBlock s y blk := by
  rw [getBlock, getLoom_modLoom_same]
  rfl

theorem blockStatus_modLoom (f : Loom → Loom) (b : Block) : blockStatus (modLoom y f s) b = blockStatus s b := rfl

/-! MZERO (R249). -/

theorem openRecord_keeps (blk : Nat) (base : Bool) :
    (getBlock (openRecord y blk c base s) y blk).st = (getBlock s y blk).st ∧
    (getBlock (openRecord y blk c base s) y blk).int = (getBlock s y blk).int ∧
    (getBlock (openRecord y blk c base s) y blk).cells = (getBlock s y blk).cells := by
  unfold openRecord
  dsimp only
  split
  · rw [getBlock_modBlock]
    exact ⟨rfl, rfl, rfl⟩
  · rw [getBlock_modBlock, getBlock, getLoom_modLoom_same]
    exact ⟨rfl, rfl, rfl⟩

theorem mzeroTurn_eq {g int nort o} (hi : c.instr = .mzero g int nort o) (hname : mayName s y c (fld c.value 0 6) = true) :
    loomCmdTurn y t c s = .fin none c
      (if nort then modBlock y (fld c.value 0 6) (fun b => { b with noretry := true })
          (modBlock y (fld c.value 0 6) (zeroedBlock int) s)
        else openRecord y (fld c.value 0 6) c false (modBlock y (fld c.value 0 6) (zeroedBlock int) s)) := by
  unfold loomCmdTurn mzeroTurn
  simp only [hi, hname, Bool.not_true, Bool.false_eq_true, if_false]

theorem cellAt_of_noCells {b : Block} (h : b.cells = []) (i j : Nat) : cellAt b i j = 0 := by
  rw [cellAt, h]
  rfl

theorem mzeroTurn_opens {g int nort o} (hi : c.instr = .mzero g int nort o)
    (hname : mayName s y c (fld c.value 0 6) = true) :
    ∃ u, loomCmdTurn y t c s = .fin none c u ∧ (getBlock u y (fld c.value 0 6)).st = .open_ ∧
      (getBlock u y (fld c.value 0 6)).int = int ∧ (∀ i j, cellAt (getBlock u y (fld c.value 0 6)) i j = 0) ∧
      (nort = true → (getBlock u y (fld c.value 0 6)).record = none ∧ (getBlock u y (fld c.value 0 6)).noretry = true) := by
  refine ⟨_, mzeroTurn_eq hi hname, ?_⟩
  cases nort with
  | true =>
    rw [if_pos rfl, getBlock_modBlock, getBlock_modBlock]
    exact ⟨rfl, rfl, cellAt_of_noCells rfl, fun _ => ⟨rfl, rfl⟩⟩
  | false =>
    rw [if_neg Bool.false_ne_true]
    obtain ⟨hst, hint, hcells⟩ := openRecord_keeps (s := modBlock y (fld c.value 0 6) (zeroedBlock int) s)
      (c := c) (y := y) (fld c.value 0 6) false
    rw [getBlock_modBlock] at hst hint hcells
    exact ⟨hst, hint, cellAt_of_noCells hcells, fun h => absurd h Bool.false_ne_true⟩

/-! MCHK (R241). -/

theorem applyAssay_clean {r : Word × Word × Bool} {sticky : Bool} {b : Block} (hr : r.1 = 0 ∧ r.2.1 = 0)
    (hb : b.st ≠ .mismatch) : (applyAssay r sticky b).st = .clean := by
  simp [applyAssay, hr.1, hr.2, hb]

theorem applyAssay_mismatch {r : Word × Word × Bool} {sticky : Bool} {b : Block} (hr : ¬(r.1 = 0 ∧ r.2.1 = 0)) :
    (applyAssay r sticky b).st = .mismatch := by
  have hbad : (r.1 != 0 || r.2.1 != 0) = true := by
    rw [Bool.or_eq_true, bne_iff_ne, bne_iff_ne]
    tauto
  simp only [applyAssay, hbad, if_true]

/-- A mismatch stays one in a sticky assay. -/
theorem applyAssay_sticky {r : Word × Word × Bool} {b : Block} (hb : b.st = .mismatch) :
    (applyAssay r true b).st = .mismatch := by
  simp only [applyAssay, hb, and_self, if_true, ite_self]

section
variable {g : Guard} {d : XReg} {o : XOpnd} (hi : c.instr = .mchk g d o)
include hi

theorem mchkTurn_eq : loomCmdTurn y t c s = mchkTurn y c s := by
  unfold loomCmdTurn
  simp only [hi]

/-- A block that holds no result to assay. -/
theorem mchkTurn_empty (hb : (getBlock s y (fld c.value 0 6)).st = .empty) :
    loomCmdTurn y t c s =
      .fin none c (loomReply c (fun u => next (wx d (blockStatus s (getBlock s y (fld c.value 0 6))) u)) s) := by
  rw [mchkTurn_eq hi]
  unfold mchkTurn
  simp only [hb, hi, syncDest]
  rw [loomReply_congr]
  rw [blockStatus_readyIn]

theorem mchkTurn_failed (hb : (getBlock s y (fld c.value 0 6)).st = .failed) :
    loomCmdTurn y t c s = .fin none c (loomReply c (fun u => raiseLate .assay (BitVec.ofNat 64 (fld c.value 0 6))
      (wx d (blockStatus s (getBlock s y (fld c.value 0 6))) u)) s) := by
  rw [mchkTurn_eq hi]
  unfold mchkTurn
  simp only [hb, hi, syncDest]

theorem mchkTurn_poisoned (hb : (getBlock s y (fld c.value 0 6)).st = .poisoned) :
    loomCmdTurn y t c s = .fin none c (loomReply c (fun u => raiseLate .uncorr (BitVec.ofNat 64 (fld c.value 0 6))
      (wx d (blockStatus s (getBlock s y (fld c.value 0 6))) u)) s) := by
  rw [mchkTurn_eq hi]
  unfold mchkTurn
  simp only [hb, hi, syncDest]

/-- A block with a result is assayed; the reply depends on what the assay leaves. -/
theorem mchkTurn_assays {b1 : Block} {u : State} (hb : (getBlock s y (fld c.value 0 6)).st = .open_ ∨
      (getBlock s y (fld c.value 0 6)).st = .clean ∨ (getBlock s y (fld c.value 0 6)).st = .mismatch)
    (hb1 : b1 = applyAssay (assay (tolFor c.tol (getBlock s y (fld c.value 0 6))) (getBlock s y (fld c.value 0 6))) true
      (getBlock s y (fld c.value 0 6)))
    (hu : u = modBlock y (fld c.value 0 6) (fun _ => b1) s) :
    loomCmdTurn y t c s = if b1.st = .mismatch then
        .fin none c (loomReply c (fun w => raiseLate .assay (BitVec.ofNat 64 (fld c.value 0 6)) (wx d (blockStatus u b1) w)) u)
      else .fin none c (loomReply c (fun w => next (wx d (blockStatus u b1) w)) u) := by
  subst hu hb1
  rw [mchkTurn_eq hi]
  unfold mchkTurn
  rw [loomReply_congr (f := fun w => next (wx d (blockStatus (modBlock _ _ _ s) _) w))
    (f' := fun w => next (wx d (blockStatus w _) w)) (by rw [blockStatus_readyIn])]
  rcases hb with hb | hb | hb <;> simp only [hb, hi, syncDest]
end

/-! MRETRY (R246). -/

theorem mretryTurn_refused {g d o} (hi : c.instr = .mretry g d o) (hr : c.replay = none) :
    (mayName s y c (fld c.value 0 6) = false → loomCmdTurn y t c s = .fin (some 1) c s) ∧
    (mayName s y c (fld c.value 0 6) = true → (getBlock s y (fld c.value 0 6)).record = none →
      loomCmdTurn y t c s = .fin (some 4) c s) := by
  unfold loomCmdTurn mretryTurn
  simp only [hi, hr]
  refine ⟨fun h => ?_, fun h hrec => ?_⟩
  · simp only [h, Bool.not_false, if_true]
  · simp only [h, hrec, Bool.not_true, Bool.false_eq_true, if_false]

/-! ### Drains and completion (R239, R279) -/

theorem loomComplete_pushed {r : List LoomCmd} {en : BitVec 256} (hq : tget [] (getLoom s y).queues t = c :: r)
    (hl : tget [] (getLoom s y).lines t = [])
    (hp : (getLoom s y).pushing.find? (fun p => p.1 == t) = some (t, 0, en)) :
    execLoomCommandComplete y t s = .next (loomPop y t s) := by
  unfold execLoomCommandComplete
  simp only [hl, ne_eq, not_true_eq_false, if_false, hq, hp, pushEntry, if_true]

theorem loomComplete_line {l : LineByte} {ls : List LineByte} (hl : tget [] (getLoom s y).lines t = l :: ls) :
    execLoomCommandComplete y t s = .next (drainLine y t s) := by
  unfold execLoomCommandComplete
  simp only [hl, ne_eq, reduceCtorEq, not_false_eq_true, if_true]

theorem loomComplete_formed {r : List LoomCmd} (hq : tget [] (getLoom s y).queues t = c :: r)
    (hl : tget [] (getLoom s y).lines t = []) (hp : (getLoom s y).pushing.find? (fun p => p.1 == t) = none)
    (hd : drainFormed c = true) (hs : c.stalled = false) (hf : c.fclass = none) :
    execLoomCommandComplete y t s = .next (loomEnd y t (some 0) c (drainEnd y c s)) := by
  unfold execLoomCommandComplete
  simp only [hl, ne_eq, not_true_eq_false, if_false, hq, hp, hd, hs, hf, Bool.not_false, Option.isNone_none, and_self,
    if_true]

/-- A line that no missing link stops is written. -/
theorem drainLine_eq (h : lineStop s (tget [] (getLoom s y).lines t) = none) :
    drainLine y t s =
      (let l := tget [] (getLoom s y).lines t
       let u := enqueue (.loomCommandComplete y t) (setLines y t (lineRest l) (writeLineOf 2 y l s))
       if lineRest l = [] then wakeFences u else u) := by
  unfold drainLine
  simp only [h]

theorem tget_setLines (l : List LineByte) : tget [] (getLoom (setLines y t l s) y).lines t = l := by
  rw [setLines, getLoom_modLoom_same]
  dsimp only
  split
  · next h => rw [tget, lookup_terase, if_pos rfl, h, Option.getD_none]
  · exact tget_tset_same ..

theorem drainLine_writes {l : LineByte} {ls : List LineByte} (hl : tget [] (getLoom s y).lines t = l :: ls)
    (hstop : lineStop s (l :: ls) = none) (hm : MemInv s) :
    (∀ k, k / 64 ≠ l.key / 64 → readByte (drainLine y t s) k = readByte s k) ∧
    tget [] (getLoom (drainLine y t s) y).lines t = ls.filter (fun x => x.key / 64 != l.key / 64) ∧
    .loomCommandComplete y t ∈ (drainLine y t s).internal := by
  have hline := drainLine_eq (hl ▸ hstop)
  simp only [hl] at hline
  have hlines := tget_setLines (y := y) (t := t) (s := writeLineOf 2 y (l :: ls) s) (lineRest (l :: ls))
  rw [lineRest_cons] at hlines hline
  rw [hline]
  split
  · exact ⟨fun k hk => readByte_writeLineOf 2 y hm hk, hlines, by simp [wakeFences, enqueue]⟩
  · exact ⟨fun k hk => readByte_writeLineOf 2 y hm hk, hlines, by simp [enqueue]⟩
end

/-! ### Blocks (R56, R234, R238) -/

theorem foldl_cells {chunk : Block → Nat → Block} (h : ∀ b q, (chunk b q).cells = b.cells) (l : List Nat) (b : Block) :
    (l.foldl chunk b).cells = b.cells := by
  induction l generalizing b with
  | nil => rfl
  | cons q l ih => rw [List.foldl_cons, ih, h]

/-- The checksum lanes of a group leave the cells alone. -/
theorem productGroup_cells (int : Bool) (n : Nat) (a : List (List Ex)) (kept : List (List (Nat × Ex)))
    (dense : List (List Ex)) (b : Block) : (productGroup int n a kept dense b).cells =
      a.zipIdx.flatMap fun r => kept.zipIdx.map fun c =>
        laneAdd int (cellAt b r.2 c.2) (c.1.map fun p => mulEx (r.1.getD p.1 .nan) p.2) := by
  unfold productGroup
  dsimp only
  rw [foldl_cells]
  exact fun _ _ => rfl

theorem zipIdx_eq_map_range {α : Type} (l : List α) (d : α) :
    l.zipIdx = (List.range l.length).map fun i => (l.getD i d, i) := by
  refine List.ext_getElem (by simp) fun i h1 h2 => ?_
  have hi : i < l.length := by simpa using h1
  simp [List.getD_eq_getElem?_getD, hi]

theorem cellAt_productGroup (int : Bool) (n : Nat) {a : List (List Ex)} {kept : List (List (Nat × Ex))}
    (dense : List (List Ex)) (b : Block) {i j : Nat} (ha : a.length = 64) (hk : kept.length = 64) (hi : i < 64) (hj : j < 64) :
    cellAt (productGroup int n a kept dense b) i j = laneAdd int (cellAt b i j)
      ((kept.getD j []).map fun p => mulEx ((a.getD i []).getD p.1 .nan) p.2) := by
  rw [cellAt, productGroup_cells, zipIdx_eq_map_range a [], zipIdx_eq_map_range kept [], ha, hk, List.flatMap_map,
    getD_flatMap_range 0 (fun q => by simp) hi hj, List.map_map, List.getD_eq_getElem _ _ (by simpa using hj),
    List.getElem_map, List.getElem_range]
  rfl

theorem loadedBlock_lanes (int : Bool) (cells : List (BitVec 32)) (b : Block) :
    (loadedBlock int cells b).pr = lanes64 (fun i => actual int (rowOf (loadedBlock int cells b) i)) ∧
    (loadedBlock int cells b).pc = lanes64 (fun j => actual int (colOf (loadedBlock int cells b) j)) := ⟨rfl, rfl⟩

theorem getD_lanes64 (f : Nat → BitVec 32) {i : Nat} (hi : i < 64) : (lanes64 f).getD i 0 = f i := by
  rw [lanes64, List.getD_eq_getElem _ _ (by simpa using hi), List.getElem_map, List.getElem_range]

end Sys2Proof.Machine
end

section
open Sys2Proof Sys2Proof.Machine Sys2Proof.Safety

/-- Settles O51: each command's turn by its own equation, a drain line by line, and the cells of a block as a 64 by 64 list. -/
theorem loomTurnsDoTheirCommands : Obligations.LoomTurnsDoTheirCommands := by
  unfold Obligations.LoomTurnsDoTheirCommands
  refine ⟨?turns, fun y s h => loomTurn_idle h, ?complete, ?commands,
    fun int n a kept dense b i j ha hk hi hj => cellAt_productGroup int n dense b ha hk hi hj, ?loaded⟩
  case turns =>
    intro y t s c hpow hpause hpick hcls
    refine ⟨fun g b hi => ?_, fun g sel d b hi hf => ?_⟩
    · exact (loomTurn_fin hpow hpause hpick hcls (mcfgTurn_eq hi)).trans rfl
    · refine (loomTurn_fin hpow hpause hpick hcls (mstatTurn_replies hi hf)).trans ?_
      simp only [getBlock_rr, blockStatus_modLoom]
      rfl
  case complete =>
    intro y t s c r en hq
    exact ⟨fun hl hp => loomComplete_pushed hq hl hp,
      fun l ls hl => ⟨loomComplete_line hl, fun hstop hm => drainLine_writes hl hstop hm⟩,
      fun hl hp hd hs hf => loomComplete_formed hq hl hp hd hs hf⟩
  case commands =>
    intro y t s c
    refine ⟨fun g int nort o hi hname => mzeroTurn_opens hi hname, fun g d o hi => ?_,
      fun g d o hi hr => mretryTurn_refused hi hr⟩
    refine ⟨fun hb => ?_, fun hb => ?_, fun hb => ?_, fun hb hz => ?_, fun hb hz => ?_, fun hb => ?_⟩
    · exact mchkTurn_empty hi hb
    · exact mchkTurn_failed hi hb
    · exact mchkTurn_poisoned hi hb
    · have hclean := applyAssay_clean (sticky := true) hz
        (by rcases hb with hb | hb <;> rw [hb] <;> decide : (getBlock s y (fld c.value 0 6)).st ≠ .mismatch)
      refine ⟨hclean, (mchkTurn_assays hi (hb.imp_right .inl) rfl rfl).trans (if_neg ?_)⟩
      rw [hclean]
      decide
    · have hmis := applyAssay_mismatch (sticky := true) (b := getBlock s y (fld c.value 0 6)) hz
      exact ⟨hmis, (mchkTurn_assays hi (hb.imp_right .inl) rfl rfl).trans (if_pos hmis)⟩
    · have hmis := applyAssay_sticky (r := assay (tolFor c.tol (getBlock s y (fld c.value 0 6))) (getBlock s y (fld c.value 0 6))) hb
      exact ⟨hmis, (mchkTurn_assays hi (.inr (.inr hb)) rfl rfl).trans (if_pos hmis)⟩
  case loaded =>
    intro int cells b i j hi hj
    obtain ⟨hpr, hpc⟩ := loadedBlock_lanes int cells b
    exact ⟨rfl, rfl, by rw [hpr, getD_lanes64 _ hi], by rw [hpc, getD_lanes64 _ hj]⟩
end

section
/-! PROOFS. O53: the carter commands. -/
namespace Sys2Proof.Machine
open Sys2Proof.Safety

/-! ### Issue (R303) -/

theorem takeStep_fresh (e : SRef) (s : State) : (takeStep e s).2.fresh = s.fresh := rfl

/-- Acceptance: the command at the tail of the queue, with its number and its generator. -/
theorem carterAccept_eq (n : Nat) (c : CarterCmd) (s : State) :
    carterAccept n c s =
      (let x := if carterOp c.instr = .conv ∧ kdRnd c.desc = 4 then takeStep c.e s else (0, s)
       let sd := seedEngine x.1
       next (enqueue (.carterChunk n)
         { (modCarter n (fun q => { q with queue := q.queue ++ [{ c with rnga := sd.1, rngb := sd.2, id := s.fresh }] }) x.2)
           with fresh := s.fresh + 1 })) := by
  unfold carterAccept
  dsimp only
  split
  · rw [show ∀ f, (modCarter n f (takeStep c.e s).2).fresh = s.fresh from fun _ => takeStep_fresh c.e s]
  · rfl

theorem carterTakes_of_issue {i : Instr} {g : Guard} {d : XReg} {m : MemOp} {s : State}
    (hi : exec i s = carterIssue i g d m s) : CarterTakes i g d m s := by
  intro a hg ha hp
  rw [hi, carterIssue, guarded_true _ hg, ha]
  have hpass (hks : localKeys s a 64 ≠ []) (hown : ownTile s (localKeys s a 64) = true) :
      ¬((!ownTile s (localKeys s a 64)) = true ∨ localKeys s a 64 = []) := by simp [hks, hown]
  refine ⟨fun h => if_pos ?_, fun k hks hown hd => ?_, fun hks hown hd hpoison => ?_⟩
  · exact h.symm.imp_left fun h => by rw [h]; rfl
  · refine (if_neg (hpass hks hown)).trans ?_
    rw [hd]
  · refine ⟨fun hroom hflight => (if_neg (hpass hks hown)).trans ?_, fun hroom => (if_neg (hpass hks hown)).trans ?_⟩
    · simp only [hd, afterAll_none hp, hpoison]
      refine (if_pos ⟨hroom, ?_⟩).trans (by rw [carterAccept_eq]; rfl)
      rw [Bool.not_eq_true', List.any_eq_false]
      intro p hps
      rw [hflight p hps]
      exact Bool.false_ne_true
    · simp only [hd, afterAll_none hp, hpoison]
      exact if_neg fun h => Bool.false_ne_true (hroom.symm.trans h.1)

theorem cstat_eq {g : Guard} {s : State} (hg : guardVal g s = true) (h : Hint) (c : Bool) (d : XReg) :
    execCstat g h c d s = .next (next (wx d (carterWord s (2 * yardOf s.cur.site + b2n c)) s)) := by
  rw [execCstat, guarded_true _ hg]

/-! ### Completion (R279, R306, R311) -/

theorem getCarter_carterDecide (n cls : Nat) (a : Word) (s : State) :
    getCarter (carterDecide n cls a s) n = { getCarter s n with cls := some (cls, a) } :=
  getCarter_modCarter_same n (fun q => { q with cls := some (cls, a) }) s

theorem carterDecide_mem (n cls : Nat) (a : Word) (s : State) : (carterDecide n cls a s).mem = s.mem := rfl

theorem logTo_carters (die : Nat) (rs : List (BitVec 512)) (s : State) : (logTo die rs s).carters = s.carters := by
  rw [logTo_frame]

theorem engineLog_carters (job : BitVec 16) (en : BitVec 256) (s : State) : (engineLog job en s).carters = s.carters := by
  unfold engineLog
  split
  · rfl
  · exact logTo_carters ..

theorem kickWatch_carters (bk : Nat) (s : State) : (kickWatch bk s).carters = s.carters := by
  unfold kickWatch
  split <;> rfl

theorem releaseQueue_carters (qk : Nat) (s : State) : (releaseQueue qk s).carters = s.carters := by
  unfold releaseQueue
  dsimp only
  split <;> rfl

theorem releaseKilled_carters (s : State) : (releaseKilled s).carters = s.carters := by
  unfold releaseKilled
  generalize List.map Prod.fst _ = ks
  induction ks generalizing s with
  | nil => rfl
  | cons k ks ih => rw [List.foldl_cons, ih, releaseQueue_carters]

theorem wakeEngine_carters (s : State) : (wakeEngine s).carters = s.carters := releaseKilled_carters s

theorem carterSeen_carters (n : Nat) (c : CarterCmd) (s : State) : (carterSeen n c s).carters = s.carters := by
  unfold carterSeen
  dsimp only
  split <;> rfl

section
variable {n : Nat} {s : State} {c : CarterCmd} {r : List CarterCmd}

/-- R280: the head command leaves the queue. -/
theorem getCarter_carterPop (hq : (getCarter s n).queue = c :: r) :
    getCarter (carterPop n s) n = { Carter.idle with queue := r, done := (getCarter s n).done + 1 } := by
  have hpop : (carterPop n s).carters =
      (modCarter n (fun q => { Carter.idle with queue := r, done := q.done + 1 }) (carterSeen n c s)).carters := by
    unfold carterPop
    simp only [hq]
    rw [enqueue_carters, wakeEngine_carters, kickWatch_carters]
  rw [getCarter_of_carters hpop, getCarter_modCarter_same, getCarter_of_carters (carterSeen_carters n c s)]

theorem carterPush_noHandle {en : BitVec 256} (hq : (getCarter s n).queue = c :: r)
    (he : (getCarter s n).entry = some (0, en)) : carterPush n s = carterPop n s := by
  unfold carterPush
  simp only [hq, he, pushEntry, if_true]

/-- Without a handle the entry is dropped and the command leaves. -/
theorem carterForm_noHandle {x : Nat × Word} (hq : (getCarter s n).queue = c :: r) (hh : c.handle = 0) :
    getCarter (carterForm n (getCarter s n) c x s) n =
      { Carter.idle with queue := r, done := (getCarter s n).done + 1 } := by
  unfold carterForm
  dsimp only
  rw [hh]
  generalize hlog : (if List.filter _ (cmdStores s n c) = [] then s else logTo _ _ s) = t
  have ht : t.carters = s.carters := by
    rw [← hlog]
    split
    · rfl
    · exact logTo_carters ..
  generalize mkEntry _ _ _ _ _ _ _ _ = en
  have hcarter := getCarter_modCarter_same n (fun q => { q with entry := some (0, en) }) (engineLog c.job en t)
  rw [getCarter_of_carters ((engineLog_carters ..).trans ht)] at hcarter
  rw [carterPush_noHandle (c := c) (r := r) (en := en) (by rw [hcarter, hq]) (by rw [hcarter]),
    getCarter_carterPop (c := c) (r := r) (by rw [hcarter, hq]), hcarter]

theorem carterComplete_forms {cls : Nat} {a : Word} (hq : (getCarter s n).queue = c :: r)
    (hc : (getCarter s n).cls = some (cls, a)) (he : (getCarter s n).entry = none) (hl : (getCarter s n).lines = [])
    (hw : (cmdStores s n c).any (·.st == 0) = false)
    (hx : (carterClass s n (getCarter s n) c cls a).1 ≠ 0 ∨ carterFollow c.instr = false ∨ (getCarter s n).handed = true) :
    execCarterCommandComplete n s =
      .next (carterForm n (getCarter s n) c (carterClass s n (getCarter s n) c cls a) s) := by
  unfold execCarterCommandComplete
  simp only [hq, hc, he, hl, hw, Option.isSome_none, Bool.false_eq_true, if_false, ne_eq, not_true_eq_false, or_self]
  exact if_neg (by rintro ⟨h0, hf, hh⟩; rcases hx with h | h | h <;> simp_all)

theorem carterComplete_hands {cls : Nat} {a : Word} {f : LoomCmd} (hq : (getCarter s n).queue = c :: r)
    (hc : (getCarter s n).cls = some (cls, a)) (he : (getCarter s n).entry = none) (hl : (getCarter s n).lines = [])
    (hw : (cmdStores s n c).any (·.st == 0) = false)
    (hx : (carterClass s n (getCarter s n) c cls a).1 = 0) (hfollow : carterFollow c.instr = true)
    (hh : (getCarter s n).handed = false) (hf : followOn s c = some f) (hroom : loomRoom s c.e.site = true) :
    execCarterCommandComplete n s = .next (carterForm n (getCarter s n) c (carterClass s n (getCarter s n) c cls a)
      (modCarter n (fun q => { q with handed := true }) (loomEnqueue f s))) := by
  unfold execCarterCommandComplete
  simp only [hq, hc, he, hl, hw, Option.isSome_none, Bool.false_eq_true, if_false, ne_eq, not_true_eq_false, or_self]
  rw [if_pos ⟨hx, hfollow, by rw [hh]; rfl⟩, hf]
  exact if_pos hroom

/-- With every window store performed the class is that of what the carter met. -/
theorem carterClass_cases (q : Carter) (cls : Nat) (a : Word) :
    (cls ≠ 0 → carterClass s n q c cls a = (cls, a)) ∧
    (q.drop = true → (carterClass s n q c 0 a).1 = 1) ∧
    (q.drop = false → q.poison = true → (carterClass s n q c 0 a).1 = 5) ∧
    (q.drop = false → q.poison = false → (∀ w, w ∈ cmdStores s n c → w.st = 1) → carterClass s n q c 0 a = (0, c.daddr)) := by
  unfold carterClass
  refine ⟨fun h => if_pos h, fun h => by simp [h], fun hd h => by simp [hd, h], fun hd hp hw => ?_⟩
  have hst (k : Nat) (hk : k ≠ 1) : ((cmdStores s n c).any (·.st == k)) = false := by
    refine List.any_eq_false.mpr fun w hin => ?_
    rw [hw w hin, beq_iff_eq]
    exact hk.symm
  simp [hd, hp, hst]

/-! ### A look of the carter (R280, R306) -/

/-- A look that starts a command whose checks fail decides it. -/
theorem carterChunk_fails {cls : Nat} {a : Word} {t : State} (hq : (getCarter s n).queue = c :: r)
    (hpow : (getIsland s (n / 2)).powered = true) (hheld : unitHeld s 3 (0x440 + n % 128) (n / 128) = false)
    (hl : (getCarter s n).lines = []) (hc : (getCarter s n).cls = none) (hs : (getCarter s n).stalled = false)
    (hz : (getJob s c.job).frozen = false) (hst : (getCarter s n).started = false)
    (hcheck : carterCheck s n c = (.fail cls a, t)) :
    execCarterChunk n s =
      .next (carterDecide n cls a (modCarter n (fun q => { q with started := true }) t)) := by
  have hstart : carterStart n c s = carterDecide n cls a (modCarter n (fun q => { q with started := true }) t) := by
    rw [carterStart, hcheck]
  unfold execCarterChunk
  simp only [hq, hpow, hheld, hl, hc, hs, hz, hst, hstart, getCarter_carterDecide, Option.isSome_none, Option.isSome_some,
    Bool.not_true, Bool.false_eq_true, or_self, and_false, if_false, ne_eq, not_true_eq_false, true_or, if_true]

theorem carterCheck_badFields (hy : yardLive s (n / 2) = true) (hf : carterFieldsOk c.instr c.desc = false) :
    carterCheck s n c = (.fail 11 c.daddr, s) := by
  unfold carterCheck
  simp [hy, hf]
end

/-! ### A line between local stores (R307)

A one-line command takes two looks: the first reads and writes the line, the second finds the last row behind it. -/

theorem addrAt_zero (a : Word) : addrAt a 0 = a := by simp [addrAt]

theorem rowOffset_zero (d : BitVec 512) (f : Nat → Int) : rowOffset d f 0 = 0 := by simp [rowOffset]

theorem addrPlus_zero (a : Word) : addrPlus a 0 = a := by simp [addrPlus]

theorem carterWidths_bytes {i : Instr} (h : carterOp i = .copy ∨ carterOp i = .fill) (d : BitVec 512) :
    carterWidths i d = (1, 1) := by
  unfold carterWidths
  rcases h with h | h <;> simp only [h]

section
variable {c : CarterCmd} (hop : carterOp c.instr = .copy ∨ carterOp c.instr = .fill)
include hop

theorem srcRow_bytes : srcRow c = kdLen c.desc := by rw [srcRow, carterWidths_bytes hop, Nat.mul_one]
theorem dstRow_bytes : dstRow c = kdLen c.desc := by rw [dstRow, carterWidths_bytes hop, Nat.mul_one]
theorem carterOp_ne_gath : carterOp c.instr ≠ .gath := by rcases hop with h | h <;> rw [h] <;> decide
theorem rowDst_zero : rowDst c 0 = kdDst c.desc := by
  rw [rowDst, if_neg (carterOp_ne_gath hop), rowOffset_zero, addrPlus_zero]
theorem rowSrc_zero (q : Carter) : rowSrc q c 0 = kdSrc c.desc := by
  rw [rowSrc, if_neg (carterOp_ne_gath hop), rowOffset_zero, addrPlus_zero]
end

/-- A local address of a tile is no mesh address of boot mode (R395): its upper bits are 0. -/
theorem isMesh_of_localSite {s : State} {site : Nat} {a : Word} {t : Nat} (h : localSite s site a = some t) :
    isMesh s site a = false := by
  have hfld : fld a 25 37 = 0 := by
    by_contra hne
    rw [localSite_reserved hne] at h
    cases h
  have hbit : a.getLsbD 61 = false := by
    rw [BitVec.getLsbD, Nat.testBit_eq_decide_div_mod_eq, decide_eq_false_iff_not]
    rw [fld, BitVec.extractLsb'_toNat, Nat.shiftRight_eq_div_pow] at hfld
    omega
  rw [isMesh, hbit, Bool.and_false]

/-- The bytes that an engine finds at a local address. -/
theorem engineBytes_local {s : State} {site t m : Nat} {a : Word} (job : BitVec 16) (store : Bool) (htag : 2 ≤ tagOf a)
    (ht : localSite s site a = some t) (hm : m ≠ 0) :
    engineBytes site job a m store s = .ok ⟨.bytes (keysFrom (localKey t (fld a 0 18)) m), 1, s⟩ := by
  unfold engineBytes resolve
  rw [if_neg hm, if_neg (by omega), if_neg (by rw [isMesh_of_localSite ht]; exact Bool.false_ne_true)]
  split
  next h => omega
  next h => omega
  next => rw [ht]

end Sys2Proof.Machine
end

section
/-! PROOFS. O53: a command of one line (R307), in two looks: the first reads and writes the line, the second finds the last
row behind it. -/
namespace Sys2Proof.Machine
open Sys2Proof.Safety

/-! ### What the write of a line leaves alone -/

theorem writeLineOf_carters (cls at_ : Nat) (l : List LineByte) (s : State) :
    (writeLineOf cls at_ l s).carters = s.carters := by cases l <;> rfl
theorem writeLineOf_islands (cls at_ : Nat) (l : List LineByte) (s : State) :
    (writeLineOf cls at_ l s).islands = s.islands := by cases l <;> rfl
theorem writeLineOf_ports (cls at_ : Nat) (l : List LineByte) (s : State) :
    (writeLineOf cls at_ l s).ports = s.ports := by cases l <;> rfl

theorem getIsland_of_islands {s t : State} (h : t.islands = s.islands) (y : Nat) : getIsland t y = getIsland s y := by
  rw [getIsland, getIsland, h]
theorem unitHeld_of_ports {s t : State} (h : t.ports = s.ports) (src unit die : Nat) :
    unitHeld t src unit die = unitHeld s src unit die := by
  have hp (p : Nat) : getPort t p = getPort s p := by rw [getPort, getPort, h]
  simp only [unitHeld, hp]

theorem writeLineOf_mem_congr {s u : State} (h : u.mem = s.mem) (cls at_ : Nat) (l : List LineByte) :
    (writeLineOf cls at_ l u).mem = (writeLineOf cls at_ l s).mem := by
  cases l with
  | nil => exact h
  | cons x r =>
    unfold writeLineOf
    rw [engineWrite_mem, engineWrite_mem, h]

/-- Bytes of one line are written all at once. -/
theorem writeLineOf_mem {l : List LineByte} (cls at_ : Nat) (s : State) (h : ∀ x ∈ l, ∀ y ∈ l, x.key / 64 = y.key / 64) :
    (writeLineOf cls at_ l s).mem = pokeBytes (l.map fun y => (y.key, y.value)) s.mem := by
  cases l with
  | nil => rfl
  | cons x r =>
    have hall : r.filter (sameLine x) = r := by
      refine List.filter_eq_self.mpr fun y hy => ?_
      rw [sameLine, beq_iff_eq]
      exact h x (List.mem_cons_self ..) y (List.mem_cons_of_mem _ hy)
    unfold writeLineOf
    rw [engineWrite_mem, hall]

/-- The bytes of a line that lie at ascending keys, with their poison. -/
def lineOf (ks : List Nat) (va : Nat) (l : List (Byte × Bool)) : List LineByte :=
  (ks.zip l).zipIdx.map fun p => ⟨p.1.1, va + p.2, p.1.2.1, p.1.2.2⟩

theorem lineOf_pairs (ks : List Nat) (va : Nat) (l : List (Byte × Bool)) :
    (lineOf ks va l).map (fun y => (y.key, y.value)) = ks.zip (l.map (·.1)) := by
  rw [lineOf, List.map_map]
  refine Eq.trans (List.map_congr_left (g := (fun p => (p.1, p.2.1)) ∘ Prod.fst) fun p _ => rfl) ?_
  rw [← List.map_map, List.zipIdx_map_fst, List.zip_map_right]
  rfl

theorem mem_lineOf {ks : List Nat} {va : Nat} {l : List (Byte × Bool)} {y : LineByte} (h : y ∈ lineOf ks va l) :
    y.key ∈ ks := by
  have hp : (y.key, y.value) ∈ ks.zip (l.map (·.1)) := by
    rw [← lineOf_pairs ks va]
    exact List.mem_map_of_mem (f := fun y : LineByte => (y.key, y.value)) h
  exact (List.of_mem_zip hp).1

/-- A line in a local store after it is written: the bytes read back, and every other byte as it was. -/
theorem readByte_lineWritten {s t : State} {k va len cls at_ : Nat} {l : List (Byte × Bool)} (hm : MemInv s)
    (hlen : l.length = len) (hline : k % 64 + len ≤ 64)
    (ht : t.mem = (writeLineOf cls at_ (lineOf (keysFrom k len) va l) s).mem) :
    (∀ i, i < len → readByte t (k + i) = (l.getD i (0, false)).1) ∧
      ∀ j, j ∉ keysFrom k len → readByte t j = readByte s j := by
  have hsame : ∀ x ∈ lineOf (keysFrom k len) va l, ∀ y ∈ lineOf (keysFrom k len) va l, x.key / 64 = y.key / 64 := by
    have hkey {x : LineByte} (hx : x ∈ lineOf (keysFrom k len) va l) : x.key / 64 = k / 64 := by
      obtain ⟨i, hi, he⟩ := List.mem_map.mp (mem_lineOf hx)
      have := List.mem_range.mp hi
      omega
    exact fun x hx y hy => (hkey hx).trans (hkey hy).symm
  rw [writeLineOf_mem cls at_ s hsame, lineOf_pairs] at ht
  have hl : (l.map (·.1)).length = len := by rw [List.length_map, hlen]
  obtain ⟨hin, hout⟩ := readByte_placed (k := k) (l := l.map (·.1)) hm
  rw [hl] at hin hout
  refine ⟨fun i hi => ?_, fun j hj => ?_⟩
  · rw [readByte, ht, hin i hi]
    have hi' : i < l.length := by omega
    simp [List.getD_eq_getElem?_getD, hi']
  · rw [readByte, ht, readByte]
    refine hout j ?_
    by_contra hjk
    refine hj (List.mem_map.mpr ⟨j - k, List.mem_range.mpr (by omega), by omega⟩)

/-! ### Bytes into the buffer -/

section
variable {n : Nat} {s : State} {c : CarterCmd} {r : List CarterCmd} {q : Carter}

theorem modCarter_congr {f f' : Carter → Carter} (h : f (getCarter s n) = f' (getCarter s n)) :
    modCarter n f s = modCarter n f' s := by rw [modCarter, modCarter, h]

/-- Where nothing is converted the bytes are taken as they are. -/
theorem formBytes_plain (hq : (getCarter s n).queue = c :: r) (hop : carterOp c.instr = .copy) (l : List (Byte × Bool)) :
    formBytes n l s = modCarter n (fun q => { q with outb := q.outb ++ l }) s := by
  unfold formBytes
  refine modCarter_congr ?_
  simp only [hq, hop]

theorem badKeys_clean {ks : List Nat} (h : poisonRead s ks = none) : (badKeys s ks).any id = false := by
  rw [poisonRead, Option.map_eq_none_iff, List.find?_eq_none] at h
  rw [badKeys, List.any_map, List.any_eq_false]
  exact h

theorem readLines_formed (hq : (getCarter s n).queue = c :: r) {row m : Nat} (h : m ≤ (getCarter s n).outb.length)
    (f : Nat) : readLines n row m f s = .go s := by
  cases f with
  | zero => rfl
  | succ f =>
    unfold readLines
    simp only [hq]
    exact if_pos h

/-- The bytes that a one-line CCOPY takes from its source. -/
def copiedBytes (s : State) (ks : List Nat) : List (Byte × Bool) := (readKeys s ks).zip (badKeys s ks)

theorem length_copiedBytes (s : State) (ks : List Nat) : (copiedBytes s ks).length = ks.length := by
  simp [copiedBytes, readKeys, badKeys]

/-- A source row within one line, none of it poisoned, is read at once. -/
theorem readLines_oneLine {src : Nat} (hc : getCarter s n = q) (hq : q.queue = c :: r) (hpos : q.rpos = 0) (hout : q.outb = [])
    (hop : carterOp c.instr = .copy) (hlen : 0 < kdLen c.desc) (htag : 2 ≤ tagOf (kdSrc c.desc))
    (hsrc : localSite s c.e.site (kdSrc c.desc) = some src) (hline : (kdSrc c.desc).toNat % 64 + kdLen c.desc ≤ 64)
    (hclean : poisonRead s (keysFrom (localKey src (fld (kdSrc c.desc) 0 18)) (kdLen c.desc)) = none) (f : Nat) :
    ∃ u, readLines n 0 (kdLen c.desc) (f + 1) s = .go u ∧ u = { s with carters := u.carters } ∧
      getCarter u n = { q with
        rpos := kdLen c.desc
        outb := copiedBytes s (keysFrom (localKey src (fld (kdSrc c.desc) 0 18)) (kdLen c.desc)) } := by
  have hk : min (srcRow c - 0) (64 - (kdSrc c.desc).toNat % 64) = kdLen c.desc := by
    rw [srcRow_bytes (.inl hop)]
    omega
  have hread := engineBytes_local c.job false htag hsrc hlen.ne'
  have hbad := badKeys_clean hclean
  generalize hks : keysFrom (localKey src (fld (kdSrc c.desc) 0 18)) (kdLen c.desc) = ks at *
  have hformed : getCarter (modCarter n (fun q => { q with rpos := q.rpos + kdLen c.desc })
      (formBytes n (copiedBytes s ks) s)) n = { q with rpos := kdLen c.desc, outb := copiedBytes s ks } := by
    rw [getCarter_modCarter_same, formBytes_plain (by rw [hc, hq]) hop, getCarter_modCarter_same, hc, hpos, hout]
    simp
  refine ⟨_, ?_, rfl, hformed⟩
  unfold readLines
  simp only [hc, hq, hpos, hout, rowSrc_zero (.inl hop), addrAt_zero, hk, hread, List.length_nil, Nat.le_zero, hlen.ne',
    if_false, hbad, Bool.false_eq_true]
  refine readLines_formed (c := c) (r := r) ((congrArg Carter.queue hformed).trans hq) ?_ f
  refine le_of_le_of_eq ?_ (congrArg (fun q => q.outb.length) hformed).symm
  rw [length_copiedBytes, ← hks, length_keysFrom]

/-- A byte of a local store has the place in its line that its address gives. -/
theorem localKey_place (t : Nat) (a : Word) : localKey t (fld a 0 18) % 64 = a.toNat % 64 := by
  rw [localKey, fld, BitVec.extractLsb'_toNat, Nat.shiftRight_zero]
  omega

/-! ### A unit of the command -/

/-- The bytes at a local destination are written at once. -/
theorem writeLine_local {dst m : Nat} {t : Word} (hq : (getCarter s n).queue = c :: r) (htag : 2 ≤ tagOf t)
    (hdst : localSite s c.e.site t = some dst) (hm : m ≠ 0) (row : Nat) :
    writeLine n row m t false s = .go (modCarter n (carterMoved m t false true row) (writeLineOf 1 (n / 2)
      (lineOf (keysFrom (localKey dst (fld t 0 18)) m) (fld t 0 57) ((getCarter s n).outb.take m)) s)) := by
  have hwrite := engineBytes_local c.job true htag hdst hm
  unfold writeLine
  simp only [hq, hwrite, if_neg (by omega : ¬tagOf t = 1), Bool.false_eq_true, if_false]
  rfl

/-- What the move of bytes out of the buffer keeps of a carter, and what it counts. -/
theorem carterMoved_keeps (m : Nat) (t : Word) (row : Nat) (q : Carter) :
    (carterMoved m t false true row q).queue = q.queue ∧ (carterMoved m t false true row q).started = q.started ∧
    (carterMoved m t false true row q).lines = q.lines ∧ (carterMoved m t false true row q).cls = q.cls ∧
    (carterMoved m t false true row q).stalled = q.stalled ∧ (carterMoved m t false true row q).poison = q.poison ∧
    (carterMoved m t false true row q).pos = q.pos + m ∧ (carterMoved m t false true row q).bytes = q.bytes + m ∧
    (carterMoved m t false true row q).chunk = q.chunk + m := by
  unfold carterMoved
  dsimp only
  split
  · split <;> exact ⟨rfl, rfl, rfl, rfl, rfl, rfl, rfl, rfl, rfl⟩
  · exact ⟨rfl, rfl, rfl, rfl, rfl, rfl, rfl, rfl, rfl⟩

/-- The bytes that a one-line command writes. -/
def movedBytes (s : State) (c : CarterCmd) (src : Nat) : List (Byte × Bool) :=
  if carterOp c.instr = .fill then fillBytes c.desc (kdDst c.desc) (kdLen c.desc)
  else copiedBytes s (keysFrom (localKey src (fld (kdSrc c.desc) 0 18)) (kdLen c.desc))

theorem length_movedBytes (s : State) (c : CarterCmd) (src : Nat) : (movedBytes s c src).length = kdLen c.desc := by
  unfold movedBytes
  split
  · simp [fillBytes]
  · rw [length_copiedBytes, length_keysFrom]

theorem getD_movedBytes (s : State) (c : CarterCmd) (src : Nat) {i : Nat} (hi : i < kdLen c.desc)
    (hop : carterOp c.instr = .copy ∨ carterOp c.instr = .fill) :
    ((movedBytes s c src).getD i (0, false)).1 = if carterOp c.instr = .copy
      then readByte s (localKey src (fld (kdSrc c.desc) 0 18) + i)
      else (kdSrc c.desc).extractLsb' (8 * (((kdDst c.desc).toNat + i) % 8)) 8 := by
  rcases hop with h | h
  · simp [movedBytes, copiedBytes, readKeys, badKeys, keysFrom, h, hi, List.getD_eq_getElem?_getD]
  · simp [movedBytes, fillBytes, h, hi, List.getD_eq_getElem?_getD]

/-- The shape of a command of one row within one line at each end: what `OneLine` says of the descriptor. -/
structure LineShape (s : State) (c : CarterCmd) (src dst : Nat) : Prop where
  op : carterOp c.instr = .copy ∨ carterOp c.instr = .fill
  unstriped : carterStripe c.instr = false
  noWord : kdLwen c.desc = false
  nonempty : 0 < kdLen c.desc
  oneRow : carterRows c = 1
  dstTag : 2 ≤ tagOf (kdDst c.desc)
  dstSite : localSite s c.e.site (kdDst c.desc) = some dst
  dstLine : (kdDst c.desc).toNat % 64 + kdLen c.desc ≤ 64
  source : carterOp c.instr = .copy → 2 ≤ tagOf (kdSrc c.desc) ∧ localSite s c.e.site (kdSrc c.desc) = some src ∧
    (kdSrc c.desc).toNat % 64 + kdLen c.desc ≤ 64 ∧
    poisonRead s (keysFrom (localKey src (fld (kdSrc c.desc) 0 18)) (kdLen c.desc)) = none

theorem lineShape_modCarter {src dst : Nat} (h : LineShape s c src dst) (f : Carter → Carter) :
    LineShape (modCarter n f s) c src dst :=
  ⟨h.op, h.unstriped, h.noWord, h.nonempty, h.oneRow, h.dstTag, h.dstSite, h.dstLine, h.source⟩

/-- The carter's head command has begun and has moved nothing yet. -/
def begunCarter (c : CarterCmd) (r : List CarterCmd) (d : BitVec 32) : Carter :=
  { Carter.idle with queue := c :: r, done := d, started := true }

/-- The bytes of the line come into the buffer, from the source or from the descriptor. -/
theorem buffer_oneLine {src dst : Nat} {d : BitVec 32} (hc : getCarter s n = begunCarter c r d) (h : LineShape s c src dst) :
    ∃ u p, (if carterOp c.instr = .fill then
        CStep.go (modCarter n (fun q => { q with outb := fillBytes c.desc (kdDst c.desc) (kdLen c.desc) }) s)
      else readLines n 0 (kdLen c.desc) 16 s) = .go u ∧ u = { s with carters := u.carters } ∧
      getCarter u n = { begunCarter c r d with rpos := p, outb := movedBytes s c src } := by
  rcases h.op with hop | hop
  · obtain ⟨htag, hsrc, hline, hclean⟩ := h.source hop
    obtain ⟨u, hu, hframe, hbuf⟩ := readLines_oneLine hc rfl rfl rfl hop h.nonempty htag hsrc hline hclean 15
    have hne : ¬carterOp c.instr = .fill := by rw [hop]; decide
    exact ⟨u, _, by rw [if_neg hne, hu], hframe, by rw [hbuf, movedBytes, if_neg hne]⟩
  · exact ⟨_, 0, if_pos hop, rfl, by rw [getCarter_modCarter_same, hc, movedBytes, if_pos hop]; rfl⟩

/-- The line of a one-line command. -/
def destLine (c : CarterCmd) (dst : Nat) (l : List (Byte × Bool)) : List LineByte :=
  lineOf (keysFrom (localKey dst (fld (kdDst c.desc) 0 18)) (kdLen c.desc)) (fld (kdDst c.desc) 0 57) l

/-- The line is written and has left the buffer. -/
def lineMoved (n : Nat) (c : CarterCmd) (l : List LineByte) (u : State) : State :=
  modCarter n (carterMoved (kdLen c.desc) (kdDst c.desc) false true 0) (writeLineOf 1 (n / 2) l u)

/-- The unit of the first look moves the line. -/
theorem carterUnit_oneLine {src dst : Nat} {d : BitVec 32} (hc : getCarter s n = begunCarter c r d) (h : LineShape s c src dst) :
    ∃ u p, carterUnit n s = .go (lineMoved n c (destLine c dst (movedBytes s c src)) u) ∧
      u = { s with carters := u.carters } ∧
      getCarter u n = { begunCarter c r d with rpos := p, outb := movedBytes s c src } := by
  obtain ⟨u, p, hbuf, hframe, hu⟩ := buffer_oneLine hc h
  refine ⟨u, p, ?_, hframe, hu⟩
  have hm : min (kdLen c.desc - 0) (64 - (kdDst c.desc).toNat % 64) = kdLen c.desc := by
    have := h.dstLine
    omega
  have hwrite := writeLine_local (s := u) (row := 0) (congrArg Carter.queue hu) h.dstTag
    (by rw [hframe]; exact h.dstSite) h.nonempty.ne'
  rw [hu, List.take_of_length_le (length_movedBytes s c src).le] at hwrite
  have hgath : gathFail s (begunCarter c r d) c 0 = none := if_pos (carterOp_ne_gath h.op)
  have hrow : (begunCarter c r d).pos = 0 := rfl
  have hchunk : (begunCarter c r d).chunk + (begunCarter c r d).chunk2 = 0 := rfl
  have hqueue : (begunCarter c r d).queue = c :: r := rfl
  unfold carterUnit
  simp only [hc, hqueue, hrow, hchunk, dstRow_bytes h.op, Nat.zero_div, Nat.zero_mod, h.oneRow, h.unstriped,
    rowDst_zero h.op, addrAt_zero, hm, hbuf, hgath, Bool.false_eq_true, if_false, if_true, ne_eq, not_true_eq_false,
    false_and]
  exact (if_neg (by decide)).trans hwrite

/-- The unit of the second look finds the last row behind it. -/
theorem carterUnit_over (hq : (getCarter s n).queue = c :: r) (hl : (getCarter s n).lines = [])
    (hpos : carterRows c ≤ (getCarter s n).pos / dstRow c) :
    carterUnit n s = .wait (carterDecide n 0 c.daddr (flushChunk n s)) := by
  unfold carterUnit
  simp only [hq, hl, hpos, if_true]

theorem landChunk_noWord (hq : (getCarter s n).queue = c :: r) (hw : kdLwen c.desc = false) (b : Nat) :
    landChunk n b s = s := by
  unfold landChunk
  simp [hq, hw]

/-- Without a landing word the end of a chunk counts nothing. -/
theorem flushChunk_noWord (hq : (getCarter s n).queue = c :: r) (hw : kdLwen c.desc = false) :
    flushChunk n s = modCarter n (fun q => { q with chunk := 0, chunk2 := 0 }) s := by
  unfold flushChunk
  simp only [hq, List.head?_cons, Option.any_some, hw, Bool.false_eq_true, if_false, landChunk_noWord hq hw]

/-! ### The two looks -/

/-- A look of a carter that nothing holds: the units of the command, after its start where it has not begun. -/
theorem carterChunk_waits {t u : State} (hq : (getCarter s n).queue = c :: r) (hpow : (getIsland s (n / 2)).powered = true)
    (hheld : unitHeld s 3 (0x440 + n % 128) (n / 128) = false) (hl : (getCarter s n).lines = [])
    (hc : (getCarter s n).cls = none) (hs : (getCarter s n).stalled = false)
    (hz : (getCarter s n).chunk + (getCarter s n).chunk2 ≠ 0 ∨ (getJob s c.job).frozen = false)
    (ht : t = if (getCarter s n).started then s else carterStart n c s) (htc : (getCarter t n).cls = none)
    (hts : (getCarter t n).stalled = false) (hu : carterUnits n (carterStride c.instr) t = .wait u) :
    execCarterChunk n s = .next u := by
  have hgo : ¬((getCarter s n).cls.isSome = true ∨ (getCarter s n).stalled = true ∨
      (getCarter s n).chunk + (getCarter s n).chunk2 = 0 ∧ (getJob s c.job).frozen = true) := by
    rw [hc, hs]
    rintro (h | h | ⟨hchunk, hfrozen⟩)
    · cases h
    · cases h
    · exact hz.elim (· hchunk) fun h => Bool.false_ne_true (h.symm.trans hfrozen)
  have hlive : ¬((!(getIsland s (n / 2)).powered) = true ∨ unitHeld s 3 (0x440 + n % 128) (n / 128) = true) := by
    rw [hpow, hheld]
    simp
  have hgo' : ¬((getCarter t n).cls.isSome = true ∨ (getCarter t n).stalled = true) := by
    rw [htc, hts]
    simp
  unfold execCarterChunk
  simp only [hq, if_neg hlive, hl, ne_eq, not_true_eq_false, if_false, if_neg hgo, ← ht, if_neg hgo', hu]

theorem carterStart_pass (hcheck : carterCheck s n c = (.pass, s)) (hop : carterOp c.instr ≠ .gath) :
    carterStart n c s = modCarter n (fun q => { q with started := true }) s := by
  unfold carterStart
  simp only [hcheck, if_neg hop]

/-- One unit that goes on ends the look of an unstriped command. -/
theorem carterUnits_go {u : State} (h : carterUnit n s = .go u) :
    carterUnits n 1 s = .wait (enqueue (.carterChunk n) u) := by simp only [carterUnits, h]
theorem carterUnits_wait {u : State} (h : carterUnit n s = .wait u) : carterUnits n 1 s = .wait u := by
  simp only [carterUnits, h]

theorem carterStride_plain {i : Instr} (h : carterStripe i = false) : carterStride i = 1 := by rw [carterStride, h]; rfl

/-- The descriptor of `OneLine` has that shape. -/
theorem oneLine_shape {src dst : Nat} (h : OneLine s n c src dst) (hop : carterOp c.instr = .copy ∨ carterOp c.instr = .fill) :
    LineShape s c src dst := by
  obtain ⟨-, -, -, -, -, hst, hlw, hlen, h0, h1, h2, htag, hdst, hline, hsrc⟩ := h
  exact ⟨hop, hst, hlw, hlen, by rw [carterRows, h0, h1, h2], htag, hdst, hline, hsrc⟩

theorem getCarter_lineMoved (l : List LineByte) (u : State) :
    getCarter (lineMoved n c l u) n = carterMoved (kdLen c.desc) (kdDst c.desc) false true 0 (getCarter u n) := by
  rw [lineMoved, getCarter_modCarter_same, getCarter_of_carters (writeLineOf_carters ..)]

theorem lineMoved_islands (l : List LineByte) (u : State) : (lineMoved n c l u).islands = u.islands :=
  writeLineOf_islands ..
theorem lineMoved_ports (l : List LineByte) (u : State) : (lineMoved n c l u).ports = u.ports := writeLineOf_ports ..
theorem lineMoved_mem (l : List LineByte) (u : State) : (lineMoved n c l u).mem = (writeLineOf 1 (n / 2) l u).mem := rfl

/-- What the first look leaves: the carter has moved the whole row, the line is written, and nothing holds the second. -/
structure RowMoved (s v : State) (n : Nat) (c : CarterCmd) (src dst : Nat) : Prop where
  queue : ∃ r, (getCarter v n).queue = c :: r
  started : (getCarter v n).started = true
  lines : (getCarter v n).lines = []
  cls : (getCarter v n).cls = none
  stalled : (getCarter v n).stalled = false
  poison : (getCarter v n).poison = false
  pos : (getCarter v n).pos = kdLen c.desc
  bytes : (getCarter v n).bytes = kdLen c.desc
  chunk : (getCarter v n).chunk = kdLen c.desc
  islands : v.islands = s.islands
  ports : v.ports = s.ports
  mem : v.mem = (writeLineOf 1 (n / 2) (destLine c dst (movedBytes s c src)) s).mem

theorem rowMoved_lineMoved {u : State} {src dst p : Nat} {d : BitVec 32} (hframe : u = { s with carters := u.carters })
    (hu : getCarter u n = { begunCarter c r d with rpos := p, outb := movedBytes s c src }) :
    RowMoved s (enqueue (.carterChunk n) (lineMoved n c (destLine c dst (movedBytes s c src)) u)) n c src dst := by
  have hv : getCarter (enqueue (.carterChunk n) (lineMoved n c (destLine c dst (movedBytes s c src)) u)) n =
      carterMoved (kdLen c.desc) (kdDst c.desc) false true 0 (getCarter u n) := by
    rw [getCarter_of_carters (enqueue_carters ..), getCarter_lineMoved]
  obtain ⟨hq, hst, hl, hc, hs, hp, hpos, hbytes, hchunk⟩ :=
    carterMoved_keeps (kdLen c.desc) (kdDst c.desc) 0 (getCarter u n)
  rw [← hv, hu] at hq hst hl hc hs hp hpos hbytes hchunk
  have hnone : (begunCarter c r d).pos + kdLen c.desc = kdLen c.desc := Nat.zero_add _
  constructor
  case queue => exact ⟨r, hq⟩
  case started => exact hst
  case lines => exact hl
  case cls => exact hc
  case stalled => exact hs
  case poison => exact hp
  case pos => exact hpos.trans hnone
  case bytes => exact hbytes.trans hnone
  case chunk => exact hchunk.trans hnone
  case islands => rw [enqueue_islands, lineMoved_islands, hframe]
  case ports => rw [enqueue_ports, lineMoved_ports, hframe]
  case mem => rw [enqueue_mem, lineMoved_mem, writeLineOf_mem_congr (s := s) (by rw [hframe])]

/-- The first look. -/
theorem firstLook {src dst : Nat} (h : OneLine s n c src dst) (hop : carterOp c.instr = .copy ∨ carterOp c.instr = .fill) :
    ∃ v, execCarterChunk n s = .next v ∧ RowMoved s v n c src dst := by
  have hshape := oneLine_shape h hop
  obtain ⟨⟨r, d, hidle⟩, hpow, hz, hheld, hcheck, -⟩ := h
  have hbegun : getCarter (modCarter n (fun q => { q with started := true }) s) n = begunCarter c r d := by
    rw [getCarter_modCarter_same, hidle]
    rfl
  obtain ⟨u, p, hunit, hframe, hu⟩ := carterUnit_oneLine hbegun (lineShape_modCarter hshape _)
  refine ⟨_, ?_, rowMoved_lineMoved (s := s) hframe hu⟩
  refine carterChunk_waits (t := modCarter n (fun q => { q with started := true }) s) (c := c) (r := r)
    (by rw [hidle]) hpow hheld (by rw [hidle]; rfl) (by rw [hidle]; rfl) (by rw [hidle]; rfl) (.inr hz) ?_
    (by rw [hbegun]; rfl) (by rw [hbegun]; rfl) ?_
  · rw [hidle]
    exact (carterStart_pass hcheck (carterOp_ne_gath hop)).symm
  · rw [carterStride_plain hshape.unstriped]
    exact carterUnits_go hunit

/-- The second look. -/
theorem secondLook {v : State} {src dst : Nat} (hm : RowMoved s v n c src dst) (h : LineShape s c src dst)
    (hpow : (getIsland s (n / 2)).powered = true) (hheld : unitHeld s 3 (0x440 + n % 128) (n / 128) = false) :
    ∃ u, execCarterChunk n v = .next u ∧
      getCarter u n = { getCarter v n with chunk := 0, chunk2 := 0, cls := some (0, c.daddr) } ∧ u.mem = v.mem := by
  obtain ⟨r, hq⟩ := hm.queue
  have hrow : carterRows c ≤ (getCarter v n).pos / dstRow c := by
    rw [hm.pos, dstRow_bytes h.op, Nat.div_self h.nonempty, h.oneRow]
  refine ⟨carterDecide n 0 c.daddr (flushChunk n v), ?_, ?_, ?_⟩
  · refine carterChunk_waits (t := v) hq (by rwa [getIsland_of_islands hm.islands]) (by rwa [unitHeld_of_ports hm.ports])
      hm.lines hm.cls hm.stalled (.inl ?_) (by rw [hm.started, if_pos rfl]) hm.cls hm.stalled ?_
    · rw [hm.chunk]
      have := h.nonempty
      omega
    · rw [carterStride_plain h.unstriped]
      exact carterUnits_wait (carterUnit_over hq hm.lines hrow)
  · rw [getCarter_carterDecide, flushChunk_noWord hq h.noWord, getCarter_modCarter_same]
  · rw [carterDecide_mem, flushChunk_noWord hq h.noWord]
    rfl

end

end Sys2Proof.Machine
end

section
open Sys2Proof Sys2Proof.Machine Sys2Proof.Safety

/-- Settles O53: issue by `carterTakes_of_issue`, a one-line command by its two looks, and completion by what forms the
entry. -/
theorem carterCommandsAreAcceptedAndRun : Obligations.CarterCommandsAreAcceptedAndRun := by
  unfold Obligations.CarterCommandsAreAcceptedAndRun
  refine ⟨fun g h c st f d m s => ⟨carterTakes_of_issue rfl, carterTakes_of_issue rfl, carterTakes_of_issue rfl,
    carterTakes_of_issue rfl, fun hg => ?cstat⟩, ?oneLine, ?malformed, ?complete, fun s n q c cls a => carterClass_cases q cls a⟩
  case cstat => exact cstat_eq hg h c d
  case oneLine =>
    intro s n c src dst hm h hop
    have hshape := oneLine_shape h hop
    obtain ⟨v, hv, hmoved⟩ := firstLook h hop
    obtain ⟨-, hpow, -, hheld, -⟩ := h
    obtain ⟨u, hu, hcarter, hmem⟩ := secondLook hmoved hshape hpow hheld
    have hline : localKey dst (fld (kdDst c.desc) 0 18) % 64 + kdLen c.desc ≤ 64 := by
      rw [localKey_place]
      exact hshape.dstLine
    obtain ⟨hin, hout⟩ := readByte_lineWritten hm (length_movedBytes s c src) hline (hmem.trans hmoved.mem)
    exact ⟨v, u, hv, hu, by rw [hcarter], by rw [hcarter]; exact hmoved.bytes, by rw [hcarter]; exact hmoved.poison,
      hout, fun i hi => (hin i hi).trans (getD_movedBytes s c src hi hop)⟩
  case malformed =>
    intro s n c r hq hpow hheld hl hc hs hz hst hf hy
    refine ⟨_, carterChunk_fails hq hpow hheld hl hc hs hz hst (carterCheck_badFields hy hf), ?_, ?_⟩
    · rw [getCarter_carterDecide]
    · rw [carterDecide_mem]
      rfl
  case complete =>
    intro s n c r cls a hq hc he hl hw
    exact ⟨fun hx => ⟨carterComplete_forms hq hc he hl hw hx, fun hh => by
        rw [carterForm_noHandle hq hh]; exact ⟨rfl, rfl⟩⟩,
      fun hx hfollow hh f hf hroom => carterComplete_hands hq hc he hl hw hx hfollow hh hf hroom⟩
end

section
/-!
PROOFS. Decoding the encoded word (O5): the law of each constructor holds, so the statement holds of every instruction.
-/

namespace Sys2Proof

/-- The statement of the round trip by the law of each constructor, in the order of `Instr`. -/
theorem Laws.RoundTrip.all (i : Instr) : Statement i :=
  i.casesOn (motive := Statement)
    -- class 0: system and strand (05_scalar.md)
    nop fork stop yield yieldPauseEnd wake wakeEventDelivery trap eret sysrd syswr segld halt
    -- class 1: control
    br brl brx brxl ret loop
    -- class 2: integer
    add sub mul mulh mulhu div divu rem remu and or xor andn shl shr sar rol min max minu maxu clz ctz popc brev mov
    movi ext extu ins sel lea caddr crel
    -- class 3: scalar floating point
    fadd fsub fmul ffma fmin fmax fcmp fcvt fdiv
    -- class 4: compare and predicate
    cmp pand por pxor pnot pmov
    -- class 5: memory (09_memory_instr.md)
    ld st ldv stv gath scat stn
    -- class 6: atomics and fences; `d = none` is the .NR form
    aadd aand aor axor amin amax aminu amaxu axch acas afadd afmin afmax fence fenceComplete memoryReply
    poisonReport
    -- class E: cellar commands
    nsum nmax naxpy nscale ncvt ndot cellarCommandComplete
    -- class 7: counters (14_counters.md)
    landset landadd marm mwait mwaitWake mwaitLimitExpiry mclr rng vrng
    -- class 8: queues (12_queue_instr.md)
    qdef qkill qbind qpush qpop qpeek qmark qstat queueWaitResume queueHeldEnd roundEdge twinCompare
    -- class 9: tasks and futures
    tspawn tend readyQueueHeldEnd tnext readyRecordArrival tjoin balanceTick balanceSnapshotArrival
    recordMigrationArrival fnew fset fget waiterNodeFree ffree fpoison
    -- class A: vector arithmetic (06_vector.md)
    vadd vsub vmul vfma vfms vmin vmax vabs vneg vdiv vsqrt vrcp vrsq vexp2 vlog2 vdot vcmp vand vor vxor vshl vshr
    vsar
    -- class B: vector data
    vmov vbcast vperm vsel vred vscan vcvt vpack vunpk vextr vins vcomp vprune
    -- class C: loom (10_loom.md)
    mcfg mzero mmul mmuls mloada mdrain mchk mloc mcorr mretry minj mstat engineAcceptance loomTurn
    loomCommandComplete
    -- class D: carter
    ccopy cfill cconv cgath cstat carterChunk carterCommandComplete
    -- class E: windows and contexts (13_tables.md)
    wmap wunmap wstat rfence rfenceComplete ctxsv ctxld
    -- events of strands, pager, walker, detector and watchdog
    quantumExpiry pagerReissue pagerDeliver pagerResume pagerAbort faultRecordSend tlbInvalidate deadlockSample
    watchdogExpiry
    -- events of reflection
    reflectedWriteArrival reflectionAck retransmitRequest retransmitTimeout spaheLinkDown pendingWindowValid
    -- events of the host ports
    hostLinkUp hostLinkDown functionLevelReset hostAccessTimeout completionHoldTimeout hqkick hostEntryReread
    hqctlWrite hcrel devctlFwact barRegisterWrite
    -- host requests
    startJob killJob urgentFreeze resumeJobs checkpoint grantHostQueue readLog stageFirmware stageVersion
    readLogCount urgentRun boothRecovery
    -- boot and power
    bootEnd stewardStart setFrequency frequencyPauseEnd powerDown powerUp
    -- attestation
    getVersion getCapabilities negotiateAlgorithms getDigests getCertificate challenge getMeasurements
    spdmUnsupportedRequest
    -- events that only ever come from outside the device
    deviceReset hsemaRead hsemaWrite devctlReset powerCheck thermalLimit futureQuarantineEnd junctionCooled
    deviceFailure

end Sys2Proof
end

section
open Sys2Proof

/-- Settles O5: the round trip, constructor by constructor. -/
theorem decodeOfEncodeIsIdentity : Obligations.DecodeOfEncodeIsIdentity := Laws.RoundTrip.all

/-- Settles O7: each word decoded. -/
theorem decoderReadsTheTables : Obligations.DecoderReadsTheTables := by
  unfold Obligations.DecoderReadsTheTables
  exact ⟨by decide, by decide, by decide, by decide, by decide, by decide⟩

end

section
/-!
PROOFS. The guard of an instruction (R65): which constructors have one, and that the encoder writes it.
-/

namespace Sys2Proof

open Fields Safety

/-- R65: the guard of an instruction, constructor by constructor; an event has none. -/
def Instr.guard? : Instr → Option Guard
  | .nop g | .fork g .. | .stop g | .yield g _ | .wake g .. | .trap g _ | .eret g | .sysrd g .. | .syswr g ..
  | .segld g .. | .halt g | .br g _ | .brl g _ | .brx g _ | .brxl g _ | .ret g | .loop g ..
  | .add g .. | .sub g .. | .mul g .. | .mulh g .. | .mulhu g .. | .div g .. | .divu g .. | .rem g .. | .remu g ..
  | .and g .. | .or g .. | .xor g .. | .andn g .. | .shl g .. | .shr g .. | .sar g .. | .rol g ..
  | .min g .. | .max g .. | .minu g .. | .maxu g .. | .clz g .. | .ctz g .. | .popc g .. | .brev g .. | .mov g ..
  | .movi g .. | .ext g .. | .extu g .. | .ins g .. | .sel g .. | .lea g .. | .caddr g .. | .crel g ..
  | .fadd g .. | .fsub g .. | .fmul g .. | .ffma g .. | .fmin g .. | .fmax g .. | .fcmp g .. | .fcvt g .. | .fdiv g ..
  | .cmp g .. | .pand g .. | .por g .. | .pxor g .. | .pnot g .. | .pmov g _
  | .ld g .. | .st g .. | .ldv g .. | .stv g .. | .gath g .. | .scat g .. | .stn g ..
  | .aadd g .. | .aand g .. | .aor g .. | .axor g .. | .amin g .. | .amax g .. | .aminu g .. | .amaxu g .. | .axch g ..
  | .acas g .. | .afadd g .. | .afmin g .. | .afmax g .. | .fence g ..
  | .nsum g .. | .nmax g .. | .naxpy g .. | .nscale g .. | .ncvt g .. | .ndot g ..
  | .landset g .. | .landadd g .. | .marm g .. | .mwait g .. | .mclr g _ | .rng g _ | .vrng g ..
  | .qdef g .. | .qkill g _ | .qbind g .. | .qpush g .. | .qpop g .. | .qpeek g .. | .qmark g .. | .qstat g ..
  | .tspawn g .. | .tend g | .tnext g _ | .tjoin g _ | .fnew g _ | .fset g .. | .fget g .. | .ffree g _ | .fpoison g ..
  | .vadd g .. | .vsub g .. | .vmul g .. | .vfma g .. | .vfms g .. | .vmin g .. | .vmax g .. | .vabs g .. | .vneg g ..
  | .vdiv g .. | .vsqrt g .. | .vrcp g .. | .vrsq g .. | .vexp2 g .. | .vlog2 g .. | .vdot g .. | .vcmp g ..
  | .vand g .. | .vor g .. | .vxor g .. | .vshl g .. | .vshr g .. | .vsar g ..
  | .vmov g _ | .vbcast g .. | .vperm g .. | .vsel g .. | .vred g .. | .vscan g .. | .vcvt g .. | .vpack g ..
  | .vunpk g .. | .vextr g .. | .vins g .. | .vcomp g .. | .vprune g ..
  | .mcfg g _ | .mzero g .. | .mmul g .. | .mmuls g .. | .mloada g .. | .mdrain g .. | .mchk g .. | .mloc g ..
  | .mcorr g .. | .mretry g .. | .minj g _ | .mstat g ..
  | .ccopy g .. | .cfill g .. | .cconv g .. | .cgath g .. | .cstat g ..
  | .wmap g .. | .wunmap g .. | .wstat g .. | .rfence g .. | .ctxsv g .. | .ctxld g .. => some g
  | _ => none

theorem Fields.guard_setB (f : Fields) (b : Opnd) : (f.setB b).guard = f.guard := by cases b <;> rfl
theorem Fields.guard_setX (f : Fields) (b : XOpnd) : (f.setX b).guard = f.guard := by cases b <;> rfl
theorem Fields.guard_setV (f : Fields) (b : VOpnd) : (f.setV b).guard = f.guard := by cases b <;> rfl

/-- The guard that the encoder writes: the B operand leaves it as it is. -/
theorem guardOf_eq (i : Instr) : guardOf i = i.guard? := by
  cases i with
  | add g d a b | sub g d a b | mul g d a b | mulh g d a b | mulhu g d a b | div g d a b | divu g d a b | rem g d a b
  | remu g d a b | and g d a b | or g d a b | xor g d a b | andn g d a b | shl g d a b | shr g d a b | sar g d a b
  | rol g d a b | min g d a b | max g d a b | minu g d a b | maxu g d a b | ext g d a b | extu g d a b | ins g d a b
  | sel _ _ _ _ b | fadd _ _ _ _ _ _ b | fsub _ _ _ _ _ _ b | fmul _ _ _ _ _ _ b | fdiv _ _ _ _ _ _ b
  | fmin _ _ _ _ b | fmax _ _ _ _ b | fcmp _ _ _ _ _ b | cmp _ _ _ _ b => exact congrArg some (guard_setB _ b)
  | yield _ b | segld _ _ b | mwait _ _ b | mclr _ b | qbind _ _ _ b | qmark _ _ _ b | fset _ _ b | fpoison _ _ b
  | vbcast _ _ _ _ _ b | vextr _ _ _ _ b | vins _ _ _ _ b | mcfg _ b | mzero _ _ _ b | mchk _ _ b | mcorr _ _ b
  | mretry _ _ b | mstat _ _ _ b | wunmap _ _ b | wstat _ _ _ b | ctxsv _ _ _ b | ctxld _ _ _ b =>
    exact congrArg some (guard_setX _ b)
  | vadd _ _ _ _ _ _ _ b | vsub _ _ _ _ _ _ _ b | vmul _ _ _ _ _ _ _ b | vdiv _ _ _ _ _ _ _ b | vmin _ _ _ _ _ b
  | vmax _ _ _ _ _ b | vcmp _ _ _ _ _ _ b | vand _ _ _ _ _ b | vor _ _ _ _ _ b | vxor _ _ _ _ _ b | vshl _ _ _ _ _ b
  | vshr _ _ _ _ _ b | vsar _ _ _ _ _ b => exact congrArg some (guard_setV _ b)
  | pmov g f => cases f <;> rfl
  | vmov g f => cases f <;> rfl
  | rfence g d w =>
    cases w with
    | none => rfl
    | some b => exact congrArg some (guard_setX _ b)
  | _ => rfl

/-- The events are the constructors without a guard. -/
theorem Instr.isEvent_eq (i : Instr) : i.isEvent = i.guard?.isNone := by cases i <;> rfl

/-- R65: with the guard pair GP = 7, GN = 1 no instruction is legal. -/
theorem Instr.wf_of_guard {i : Instr} (h : i.guard? = some ⟨true, 7⟩) : i.wf = false := by
  cases i with
  | vmov g f => cases h; cases f <;> rfl
  | _ => cases h <;> rfl

end Sys2Proof
end

section
/-!
PROOFS. What the decoder answers (O6): the guard and the HINT of the word in every class, and the reserved encodings.
-/

namespace Sys2Proof

open Fields

/-! ### What a decoder answers -/

/-- Whatever a decoder answers satisfies `P`. -/
def Answers (P : Instr → Prop) (e : Except Reject Instr) : Prop := ∀ i, e = .ok i → P i

theorem answers_ok {P : Instr → Prop} {i : Instr} (h : P i) : Answers P (.ok i) := fun _ e => Except.ok.inj e ▸ h
theorem answers_error {P : Instr → Prop} (r : Reject) : Answers P (.error r) := fun _ e => nomatch e

/-- A check or an operand before the answer. -/
theorem answers_bind {β : Type} {P : Instr → Prop} {x : Except Reject β} {k : β → Except Reject Instr}
    (h : ∀ b, x = .ok b → Answers P (k b)) : Answers P (x >>= k) := by
  cases x with
  | error r => exact answers_error r
  | ok b => exact h b rfl

theorem answers_ite {P : Instr → Prop} {c : Prop} [Decidable c] {x y : Except Reject Instr} (hx : Answers P x)
    (hy : Answers P y) : Answers P (if c then x else y) := by
  split
  · exact hx
  · exact hy

/-- R65, R67: the instruction has the guard of the word, whose HINT names a policy. -/
def OfWord (f : Fields) (i : Instr) : Prop := i.guard? = some f.guard ∧ f.hint.toNat < 3

variable {f : Fields}

theorem hint_of_noHint {u : Unit} (h : noHint f = .ok u) : f.hint.toNat < 3 := by
  unfold noHint need at h
  split at h
  · next h0 => rw [eq_of_beq h0]; decide
  · cases h

theorem hint_of_hintOf {p : Hint} (h : hintOf f = .ok p) : f.hint.toNat < 3 := by
  unfold hintOf Hint.ofCode at h
  split at h
  · next hc =>
    split at hc
    · omega
    · omega
    · omega
    · cases hc
  · cases h

/-- R60: the word of an instruction without a cache policy. -/
theorem ofWord_noHint {k : Unit → Except Reject Instr} (h : ∀ u, Answers (·.guard? = some f.guard) (k u)) :
    Answers (OfWord f) (noHint f >>= k) :=
  answers_bind fun u hu i hi => ⟨h u i hi, hint_of_noHint hu⟩

/-- R67: the word of an instruction with a cache policy. -/
theorem ofWord_hintOf {k : Hint → Except Reject Instr} (h : ∀ p, Answers (·.guard? = some f.guard) (k p)) :
    Answers (OfWord f) (hintOf f >>= k) :=
  answers_bind fun p hp i hi => ⟨h p i hi, hint_of_hintOf hp⟩

/-! ### The classes (R69) -/

/-- The classes in which every entry refuses a HINT and no entry has two shapes. -/
theorem ofWord_plainClasses (op : Nat) :
    Answers (OfWord f) (decClass0 op f) ∧ Answers (OfWord f) (decClass1 op f) ∧ Answers (OfWord f) (decClass2 op f) ∧
    Answers (OfWord f) (decClass3 op f) ∧ Answers (OfWord f) (decClass7 op f) ∧ Answers (OfWord f) (decClass8 op f) ∧
    Answers (OfWord f) (decClassA op f) ∧ Answers (OfWord f) (decClassC op f) := by
  unfold decClass0 decClass1 decClass2 decClass3 decClass7 decClass8 decClassA decClassC
  refine ⟨?_, ?_, ?_, ?_, ?_, ?_, ?_, ?_⟩
  all_goals
    split
    any_goals exact answers_error _
    all_goals
      refine ofWord_noHint fun _ => ?_
      repeat refine answers_bind fun _ _ => ?_
      exact answers_ok rfl

/-- The classes in which every entry takes a cache policy. -/
theorem ofWord_policyClasses (op : Nat) :
    Answers (OfWord f) (decClass5 op f) ∧ Answers (OfWord f) (decClassD op f) := by
  unfold decClass5 decClassD
  refine ⟨?_, ?_⟩
  all_goals
    split
    any_goals exact answers_error _
    all_goals
      refine ofWord_hintOf fun _ => ?_
      repeat refine answers_bind fun _ _ => ?_
      exact answers_ok rfl

/-- R114: each of the three forms of PMOV. -/
theorem ofWord_decPMov : Answers (OfWord f) (decPMov f) := by
  refine ofWord_noHint fun _ => ?_
  repeat refine answers_bind fun _ _ => ?_
  split
  · exact answers_ok rfl
  · exact answers_bind fun _ _ => answers_ok rfl
  · exact answers_bind fun _ _ => answers_ok rfl
  · exact answers_error _

theorem ofWord_decClass4 (op : Nat) : Answers (OfWord f) (decClass4 op f) := by
  unfold decClass4
  split
  any_goals exact answers_error _
  any_goals exact ofWord_decPMov
  all_goals
    refine ofWord_noHint fun _ => ?_
    repeat refine answers_bind fun _ _ => ?_
    exact answers_ok rfl

theorem ofWord_decClass6 (op : Nat) : Answers (OfWord f) (decClass6 op f) := by
  unfold decClass6
  split
  any_goals exact answers_error _
  any_goals refine ofWord_noHint fun _ => ?_
  any_goals refine ofWord_hintOf fun _ => ?_
  all_goals
    repeat refine answers_bind fun _ _ => ?_
    exact answers_ok rfl

theorem ofWord_decClass9 (op : Nat) : Answers (OfWord f) (decClass9 op f) := by
  unfold decClass9
  split
  any_goals exact answers_error _
  all_goals
    refine ofWord_noHint fun _ => ?_
    repeat refine answers_bind fun _ _ => ?_
  case h_3 => exact answers_ite (answers_bind fun _ _ => answers_ok rfl) (answers_bind fun _ _ => answers_ok rfl)
  all_goals exact answers_ok rfl

/-- R140: each of the four forms of VMOV. -/
theorem ofWord_decVMov : Answers (OfWord f) (decVMov f) := by
  refine ofWord_noHint fun _ => ?_
  repeat refine answers_bind fun _ _ => ?_
  split
  · repeat refine answers_bind fun _ _ => ?_
    exact answers_ok rfl
  · refine answers_bind fun _ _ => ?_
    split
    · exact answers_ok rfl
    · exact answers_bind fun _ _ => answers_ok rfl
  · repeat refine answers_bind fun _ _ => ?_
    exact answers_ok rfl

theorem ofWord_decClassB (op : Nat) : Answers (OfWord f) (decClassB op f) := by
  unfold decClassB
  split
  any_goals exact answers_error _
  any_goals exact ofWord_decVMov
  all_goals
    refine ofWord_noHint fun _ => ?_
    repeat refine answers_bind fun _ _ => ?_
  case h_2 | h_8 => exact answers_ite (answers_ok rfl) (answers_bind fun _ _ => answers_ok rfl)
  all_goals exact answers_ok rfl

theorem ofWord_decClassE (op : Nat) : Answers (OfWord f) (decClassE op f) := by
  unfold decClassE
  split
  any_goals exact answers_error _
  case h_9 =>
    refine answers_bind fun _ _ => ofWord_noHint fun _ => ?_
    repeat refine answers_bind fun _ _ => ?_
    exact answers_ok rfl
  case h_10 =>
    refine answers_ite (ofWord_noHint fun _ => ?_) (ofWord_noHint fun _ => ?_)
    all_goals
      repeat refine answers_bind fun _ _ => ?_
      exact answers_ok rfl
  any_goals refine ofWord_noHint fun _ => ?_
  any_goals refine ofWord_hintOf fun _ => ?_
  all_goals
    repeat refine answers_bind fun _ _ => ?_
    exact answers_ok rfl

/-- R65, R67, R69: what the decoder answers has the guard of the word, whose HINT names a policy. -/
theorem ofWord_decodeFields (f : Fields) : Answers (OfWord f) (decodeFields f) := by
  obtain ⟨h0, h1, h2, h3, h7, h8, hA, hC⟩ := ofWord_plainClasses (f := f) (fld f.opc 0 8)
  obtain ⟨h5, hD⟩ := ofWord_policyClasses (f := f) (fld f.opc 0 8)
  unfold decodeFields
  dsimp only
  split
  · exact h0
  · exact h1
  · exact h2
  · exact h3
  · exact ofWord_decClass4 _
  · exact h5
  · exact ofWord_decClass6 _
  · exact h7
  · exact h8
  · exact ofWord_decClass9 _
  · exact hA
  · exact ofWord_decClassB _
  · exact answers_ite (answers_error _) hC
  · exact hD
  · exact ofWord_decClassE _
  · exact answers_error _

/-! ### Reserved encodings -/

/-- R69: class 0xF is unassigned. -/
theorem decodeFields_classF {f : Fields} (h : f.opc.extractLsb' 8 4 = 0xF) : decodeFields f = .error .unassignedOpcode := by
  have hc : fld f.opc 8 4 = 15 := congrArg BitVec.toNat h
  unfold decodeFields
  rw [hc]
  rfl

/-- R59: a code past the registers of a kind. -/
theorem regOf_past {base n : Nat} [NeZero n] {c : BitVec 8} (h : base + n ≤ c.toNat) :
    regOf base n c = .error .operandCode := if_neg fun hc => Nat.not_lt.mpr h hc.2

/-- R59: the codes from 0x4C on name no register of any kind. -/
theorem operandCode_reserved {c : BitVec 8} (h : 0x4C ≤ c.toNat) :
    xOf c = .error .operandCode ∧ vOf c = .error .operandCode ∧ pOf c = .error .operandCode ∧
    kOf c = .error .operandCode ∧ sOf c = .error .operandCode ∧ srcOf c = .error .operandCode ∧
    dstOf c = .error .operandCode := by
  have hx : ¬c.toNat < 0x20 := by omega
  refine ⟨regOf_past (by omega), regOf_past (by omega), regOf_past (by omega), regOf_past (by omega),
    regOf_past (by omega), ?_, ?_⟩
  · rw [srcOf, if_neg hx, regOf_past (by omega)]
    rfl
  · rw [dstOf, if_neg hx, regOf_past (by omega)]
    rfl

/-- What `decode` answers, it decoded from the word that the first 12 bytes hold. -/
theorem decode_ok {bs rest : List Byte} {i : Instr} (h : decode bs = .ok (i, rest)) :
    12 ≤ bs.length ∧ decodeFields (Fields.ofBits (wordOfBytes (bs.take 12))) = .ok i := by
  simp only [decode, bind, Except.bind, pure, Except.pure] at h
  split at h
  · cases h
  · next hlen =>
    refine ⟨Nat.not_lt.mp hlen, ?_⟩
    split at h
    · cases h
    · next hw =>
      cases h
      simp only [decodeWord, bind, Except.bind] at hw
      split at hw
      · cases hw
      · next hf =>
        split at hw
        · cases hw
          exact hf
        · cases hw

end Sys2Proof
end

section
open Sys2Proof

/-- Settles O6: an answer has the guard of its word, and no event has one. -/
theorem decoderAnswersOnlyLegalInstructions : Obligations.DecoderAnswersOnlyLegalInstructions := by
  unfold Obligations.DecoderAnswersOnlyLegalInstructions
  refine ⟨fun bs i rest h => ?_, fun f h => decodeFields_classF h, fun f i hn hp h => ?_,
    fun f i h => (ofWord_decodeFields f i h).2, fun c h => operandCode_reserved h⟩
  · obtain ⟨hwf, hrest⟩ := decode_wf h
    obtain ⟨hlen, hfields⟩ := decode_ok h
    obtain ⟨hguard, -⟩ := ofWord_decodeFields _ i hfields
    exact ⟨hwf, by rw [Instr.isEvent_eq, hguard]; rfl, hlen, hrest⟩
  · obtain ⟨hguard, -⟩ := ofWord_decodeFields f i h
    exact Instr.wf_of_guard (hguard.trans (by rw [Fields.guard, hn, hp]))

end

section
/-!
PROOFS. Privilege and guard (O10, R66): the forms of the steward, and what a false guard leaves.
-/

namespace Sys2Proof

open Machine

theorem StewardForm.halt (g : Guard) (s : State) : StewardForm s (.halt g) := .inl ⟨g, rfl⟩
theorem StewardForm.fork (g : Guard) (d a : XReg) (t : BitVec 48) (s : State) : StewardForm s (.fork g 7 d a t) :=
  .inr (.inl ⟨g, d, a, t, rfl⟩)
theorem StewardForm.minj (g : Guard) (a : XReg) (s : State) : StewardForm s (.minj g a) := .inr (.inr (.inl ⟨g, a, rfl⟩))
theorem StewardForm.wake {g : Guard} {a b : XReg} {s : State} {e : SRef} (h : wakeTarget s (rx s a) = some e)
    (h7 : e.k = 7) : StewardForm s (.wake g a b) := .inr (.inr (.inr (.inl ⟨g, a, b, e, rfl, h, h7⟩)))
theorem StewardForm.wmap (g : Guard) (r : Bool) (d : XReg) (m : MemOp) (b : XReg) (s : State) :
    StewardForm s (.wmap g r d m b) := .inr (.inr (.inr (.inr (.inl ⟨g, r, d, m, b, rfl⟩))))
theorem StewardForm.wunmap (g : Guard) (r : Bool) (b : XOpnd) (s : State) : StewardForm s (.wunmap g r b) :=
  .inr (.inr (.inr (.inr (.inr (.inl ⟨g, r, b, rfl⟩)))))
theorem StewardForm.syswr {r : SysReg} (g : Guard) (a : XReg) (s : State)
    (h : r = .trapbase ∨ r = .routemask ∨ r = .segtab ∨ r = .sema) : StewardForm s (.syswr g r a) :=
  .inr (.inr (.inr (.inr (.inr (.inr ⟨g, r, a, rfl, h⟩)))))

/-- R87: the system registers that only a steward writes. -/
theorem SysReg.steward_iff (r : SysReg) :
    r.steward = true ↔ r = .trapbase ∨ r = .routemask ∨ r = .segtab ∨ r = .sema := by cases r <;> decide

end Sys2Proof

namespace Sys2Proof.Machine

open Safety

/-- R69, R118: in user privilege WAKE raises PRIV where it names a reserve strand. -/
theorem wakeReserve_iff {s : State} {a : Word} :
    wakeReserve s a = true ↔ (me s).priv = false ∧ ∃ e, wakeTarget s a = some e ∧ e.k = 7 := by
  simp [wakeReserve, Option.any_eq_true]

/-- R66: a false guard ends every instruction that no check before the guard stops. -/
theorem exec_guardFalse {i : Instr} {g : Guard} {s : State} (h : i.guard? = some g) (hg : guardVal g s = false)
    (hp : (me s).priv = true ∨ ¬StewardForm s i)
    (hf : ∀ h t d a b, i = .fget h t d a b → awaits t s = true → a = 1) : exec i s = .next (next s) := by
  have hg' : ¬guardVal g s = true := ne_true_of_eq_false hg
  have hpriv (hi : StewardForm s i) : (me s).priv = true := hp.resolve_right (not_not_intro hi)
  cases i with
  | fork g' n d a t =>
    cases h
    have hn : ¬(n = 7 ∧ (!(me s).priv) = true) := by
      rintro ⟨rfl, hu⟩
      rw [hpriv (.fork ..)] at hu
      cases hu
    exact (if_neg hn).trans (if_neg hg')
  | halt => cases h; exact (if_pos (hpriv (.halt ..))).trans (if_neg hg')
  | minj => cases h; exact (if_pos (hpriv (.minj ..))).trans (if_neg hg')
  | wmap => cases h; exact (if_pos (hpriv (.wmap ..))).trans (if_neg hg')
  | wunmap => cases h; exact (if_pos (hpriv (.wunmap ..))).trans (if_neg hg')
  | wake g' a b =>
    cases h
    have hr : ¬wakeReserve s (rx s a) = true := by
      rw [wakeReserve_iff]
      rintro ⟨hu, e, he, h7⟩
      rw [hpriv (.wake he h7)] at hu
      cases hu
    exact (if_neg hr).trans (if_neg hg')
  | syswr g' r a =>
    cases h
    have hr : ¬(r.steward = true ∧ (!(me s).priv) = true) := by
      rintro ⟨hr, hu⟩
      rw [hpriv (.syswr _ _ _ ((SysReg.steward_iff r).mp hr))] at hu
      cases hu
    exact (if_neg hr).trans (if_neg hg')
  | fget g' t d a b =>
    cases h
    have ha : ¬(awaits t s = true ∧ a ≠ 1) := fun ⟨hw, ha⟩ => ha (hf _ _ _ _ _ rfl hw)
    exact (if_neg ha).trans (if_neg hg')
  | stn g' p hi o d m =>
    cases h
    exact (if_neg fun hw => hg' hw.1).trans (if_neg hg')
  | vmov g' f => cases h; cases f <;> exact if_neg hg'
  | _ => cases h <;> exact if_neg hg'

end Sys2Proof.Machine
end

section
open Sys2Proof Sys2Proof.Machine Sys2Proof.Safety

/-- Settles O10: each instruction by the checks before its guard; the forms of the steward by the first of them. -/
theorem privilegeThenGuard : Obligations.PrivilegeThenGuard := by
  unfold Obligations.PrivilegeThenGuard
  refine ⟨fun i g s h hg hp hf => exec_guardFalse ((guardOf_eq i).symm.trans h) hg hp hf, fun s hu => ?_⟩
  have hu' : (!(me s).priv) = true := by rw [hu]; rfl
  have hu0 : ¬(me s).priv = true := ne_true_of_eq_false hu
  refine ⟨fun g => if_neg hu0, fun g d a t => if_pos ⟨rfl, hu'⟩, fun g a => if_neg hu0,
    fun g a b e he h7 => if_pos (wakeReserve_iff.mpr ⟨hu, e, he, h7⟩), fun g r d m b => if_neg hu0,
    fun g r b => if_neg hu0, fun g r a hr => if_pos ⟨(SysReg.steward_iff r).mpr hr, hu'⟩⟩

end

section
/-!
PROOFS. Integer arithmetic and logic (O15, R102): each operation as the table gives it.
-/

namespace Sys2Proof.Machine

open Safety

/-- An instruction of two sources whose meaning is a function of their values. -/
theorem completes2_of_alu2 {mk : Guard → Dst → Src → Opnd → Instr} {P : Word → Word → Word → Prop}
    (f : Word → Word → Word) (hP : ∀ x y, P x y (f x y))
    (he : ∀ g d a b s, exec (mk g d a b) s = alu2 (mk g d a b) g d a b f s := by intros; rfl) : Completes2 mk P :=
  fun _ _ _ _ _ _ _ hg hp => ⟨_, (he ..).trans (alu2_ready f hg hp), hP ..⟩

theorem shAmt_eq (b : Word) : shAmt b = b.toNat % 64 := by
  rw [shAmt, fld, BitVec.extractLsb'_toNat, Nat.shiftRight_zero]

/-- R102: the high half of the signed product. -/
theorem mulHighS_eq (a b : Word) :
    mulHighS a b = (a.signExtend 128 * b.signExtend 128).extractLsb' 64 64 := by
  have hs (x : Word) : x.signExtend 128 = BitVec.ofInt 128 x.toInt := rfl
  rw [hs, hs, ← BitVec.ofInt_mul]
  apply BitVec.eq_of_toNat_eq
  rw [mulHighS, BitVec.extractLsb'_toNat, Nat.shiftRight_eq_div_pow, BitVec.toNat_ofInt, BitVec.toNat_ofInt]
  omega

theorem mulHighU_eq (a b : Word) :
    mulHighU a b = (a.zeroExtend 128 * b.zeroExtend 128).extractLsb' 64 64 := by
  have ha := a.isLt
  have hb := b.isLt
  have hab : a.toNat * b.toNat < 2 ^ 128 := (Nat.mul_lt_mul'' ha hb).trans_eq (by decide)
  apply BitVec.eq_of_toNat_eq
  rw [mulHighU, BitVec.extractLsb'_toNat, Nat.shiftRight_eq_div_pow, BitVec.toNat_mul, BitVec.toNat_setWidth,
    BitVec.toNat_setWidth, BitVec.toNat_ofNat]
  rw [Nat.mod_eq_of_lt (a := a.toNat) (by omega), Nat.mod_eq_of_lt (a := b.toNat) (by omega), Nat.mod_eq_of_lt hab]

theorem getLsbD_andn (a b : Word) (i : Nat) : (a &&& ~~~b).getLsbD i = (a.getLsbD i && !b.getLsbD i) := by
  rw [BitVec.getLsbD_and, BitVec.getLsbD_not]
  by_cases hi : i < 64
  · rw [decide_eq_true hi, Bool.true_and]
  · rw [BitVec.getLsbD_of_ge a i (by omega), Bool.false_and, Bool.false_and]

theorem getLsbD_rol (a b : Word) {i : Nat} (hi : i < 64) :
    (a.rotateLeft (shAmt b)).getLsbD ((i + b.toNat) % 64) = a.getLsbD i := by
  rw [shAmt_eq, BitVec.getLsbD_rotateLeft]
  have hn : b.toNat % 64 < 64 := Nat.mod_lt _ (by decide)
  rw [Nat.mod_mod]
  by_cases h : (i + b.toNat) % 64 < b.toNat % 64
  · rw [cond_eq_ite, if_pos (decide_eq_true h)]
    congr 1
    omega
  · rw [cond_eq_ite, if_neg (by simpa using h), decide_eq_true (Nat.mod_lt _ (by decide)), Bool.true_and]
    congr 1
    omega

theorem toInt_min_of_slt (x y : Word) : (if y.slt x then y else x).toInt = min x.toInt y.toInt := by
  rw [min_comm, min_def, BitVec.slt_eq_decide]
  simp only [decide_eq_true_eq]
  split <;> split <;> omega
theorem toInt_max_of_slt (x y : Word) : (if x.slt y then y else x).toInt = max x.toInt y.toInt := by
  rw [max_def, BitVec.slt_eq_decide]
  simp only [decide_eq_true_eq]
  split <;> split <;> omega
theorem toNat_min_of_ult (x y : Word) : (if y.ult x then y else x).toNat = min x.toNat y.toNat := by
  rw [BitVec.ult_eq_decide]
  simp only [decide_eq_true_eq]
  split <;> omega
theorem toNat_max_of_ult (x y : Word) : (if x.ult y then y else x).toNat = max x.toNat y.toNat := by
  rw [BitVec.ult_eq_decide]
  simp only [decide_eq_true_eq]
  split <;> omega

theorem toNat_shl (x y : Word) : (x <<< shAmt y).toNat = x.toNat * 2 ^ (y.toNat % 64) % 2 ^ 64 := by
  rw [BitVec.toNat_shiftLeft, Nat.shiftLeft_eq, shAmt_eq]
theorem toNat_shr (x y : Word) : (x >>> shAmt y).toNat = x.toNat / 2 ^ (y.toNat % 64) := by
  rw [BitVec.toNat_ushiftRight, Nat.shiftRight_eq_div_pow, shAmt_eq]
theorem toInt_sar (x y : Word) : (x.sshiftRight (shAmt y)).toInt = x.toInt / 2 ^ (y.toNat % 64) := by
  rw [BitVec.toInt_sshiftRight, Int.shiftRight_eq_div_pow, shAmt_eq]
  push_cast
  rfl

end Sys2Proof.Machine
end

section
open Sys2Proof Sys2Proof.Machine Sys2Proof.Safety

/-- Settles O15: each instruction by its function of the two values. -/
theorem integerArithmeticResults : Obligations.IntegerArithmeticResults := by
  unfold Obligations.IntegerArithmeticResults
  refine ⟨?add, ?sub, ?mul, ?mulh, ?mulhu, ?and, ?or, ?xor, ?andn, ?shl, ?shr, ?sar, ?rol, ?min, ?max, ?minu, ?maxu⟩
  case add => exact completes2_of_alu2 (fun x y => x + y) BitVec.toNat_add
  case sub => exact completes2_of_alu2 (fun x y => x - y) fun x y => BitVec.toInt_sub
  case mul => exact completes2_of_alu2 (fun x y => x * y) BitVec.toNat_mul
  case mulh => exact completes2_of_alu2 mulHighS mulHighS_eq
  case mulhu => exact completes2_of_alu2 mulHighU mulHighU_eq
  case and => exact completes2_of_alu2 (fun x y => x &&& y) fun x y i => BitVec.getLsbD_and
  case or => exact completes2_of_alu2 (fun x y => x ||| y) fun x y i => BitVec.getLsbD_or
  case xor => exact completes2_of_alu2 (fun x y => x ^^^ y) fun x y i => BitVec.getLsbD_xor
  case andn => exact completes2_of_alu2 (fun x y => x &&& ~~~y) getLsbD_andn
  case shl => exact completes2_of_alu2 (fun x y => x <<< shAmt y) toNat_shl
  case shr => exact completes2_of_alu2 (fun x y => x >>> shAmt y) toNat_shr
  case sar => exact completes2_of_alu2 (fun x y => x.sshiftRight (shAmt y)) toInt_sar
  case rol => exact completes2_of_alu2 (fun x y => x.rotateLeft (shAmt y)) fun x y i hi => getLsbD_rol x y hi
  case min => exact completes2_of_alu2 (fun x y => if y.slt x then y else x) toInt_min_of_slt
  case max => exact completes2_of_alu2 (fun x y => if x.slt y then y else x) toInt_max_of_slt
  case minu => exact completes2_of_alu2 (fun x y => if y.ult x then y else x) toNat_min_of_ult
  case maxu => exact completes2_of_alu2 (fun x y => if x.ult y then y else x) toNat_max_of_ult

end

section
/-!
PROOFS. Bits and fields (O17, R104, R106): counts, and each bit of a field extracted or inserted.
-/

namespace Sys2Proof.Machine

open Safety

theorem alu1_ready {i : Instr} {g : Guard} {d : Dst} {a : Src} {v : PortVals} {s s' : State} (f : Word → Word)
    (hg : guardVal g s = true) (hp : Ports s (srcPorts a) (dstPorts d) v s') :
    alu1 i g d a f s = .next (retire d (f (srcVal v s' a)) s') :=
  (guarded_true _ hg).trans (gate_ready _ hp)

/-- An instruction of one source whose meaning is a function of its value. -/
theorem completes1_of_alu1 {mk : Guard → Dst → Src → Instr} {P : Word → Word → Prop} (f : Word → Word)
    (hP : ∀ x, P x (f x)) (he : ∀ g d a s, exec (mk g d a) s = alu1 (mk g d a) g d a f s := by intros; rfl) :
    Completes1 mk P :=
  fun _ _ _ _ _ _ hg hp => ⟨_, (he ..).trans (alu1_ready f hg hp), hP _⟩

theorem countLead_lt {a : Word} (h : a ≠ 0) : countLead a < 64 := by
  rw [countLead, if_neg h]; omega

theorem countLead_bounds {a : Word} (h : a ≠ 0) :
    2 ^ 63 ≤ a.toNat * 2 ^ countLead a ∧ a.toNat * 2 ^ countLead a < 2 ^ 64 := by
  have h0 : a.toNat ≠ 0 := fun e => h (BitVec.eq_of_toNat_eq e)
  have hlog : a.toNat.log2 < 64 := (Nat.log2_lt h0).mpr a.isLt
  have hlo : 2 ^ a.toNat.log2 ≤ a.toNat := Nat.log2_self_le h0
  have hhi : a.toNat < 2 ^ (a.toNat.log2 + 1) := Nat.lt_log2_self
  rw [countLead, if_neg h]
  constructor
  · calc 2 ^ 63 = 2 ^ a.toNat.log2 * 2 ^ (63 - a.toNat.log2) := by rw [← Nat.pow_add]; congr 1; omega
      _ ≤ _ := Nat.mul_le_mul_right _ hlo
  · calc _ < 2 ^ (a.toNat.log2 + 1) * 2 ^ (63 - a.toNat.log2) := Nat.mul_lt_mul_of_pos_right hhi (Nat.two_pow_pos _)
      _ = 2 ^ 64 := by rw [← Nat.pow_add]; congr 1; omega

theorem countTrail_spec {a : Word} (h : a ≠ 0) :
    countTrail a < 64 ∧ a.getLsbD (countTrail a) = true ∧ ∀ i, i < countTrail a → a.getLsbD i = false := by
  obtain ⟨n, hn⟩ : ∃ n, (List.range 64).find? (fun i => a.getLsbD i) = some n := by
    rw [← Option.isSome_iff_exists, List.find?_isSome]
    by_contra hall
    refine h (BitVec.eq_of_getLsbD_eq fun i hi => ?_)
    push Not at hall
    refine Eq.trans ?_ BitVec.getLsbD_zero.symm
    exact Bool.eq_false_iff.mpr (hall i (List.mem_range.mpr hi))
  have hc : countTrail a = n := by rw [countTrail, hn]; rfl
  rw [List.find?_range_eq_some] at hn
  obtain ⟨hbit, hmem, hbelow⟩ := hn
  rw [hc]
  exact ⟨List.mem_range.mp hmem, hbit, fun i hi => by simpa using hbelow i hi⟩

theorem countOnes_eq (a : Word) : countOnes a = ((List.range 64).map fun i => b2n (a.getLsbD i)).sum := by
  rw [countOnes, ← List.countP_eq_length_filter]
  induction List.range 64 with
  | nil => rfl
  | cons i l ih => rw [List.countP_cons, ih, List.map_cons, List.sum_cons, Nat.add_comm]

theorem countOnes_lt (a : Word) : countOnes a < 2 ^ 64 := (List.length_filter_le ..).trans_lt (by decide)

theorem getLsbD_brev (a : Word) {i : Nat} (hi : i < 64) : a.reverse.getLsbD i = a.getLsbD (63 - i) := by
  rw [BitVec.getLsbD_reverse, BitVec.getMsbD_eq_getLsbD, decide_eq_true hi, Bool.true_and]

theorem fieldOf_eq (b : Word) : fieldOf b =
    (b.toNat % 64, min (b.toNat % 64 + (b.toNat / 64 % 64 + 1)) 64 - b.toNat % 64) := by
  simp only [fieldOf, fld, BitVec.extractLsb'_toNat, Nat.shiftRight_eq_div_pow, Nat.pow_zero, Nat.div_one, Nat.reducePow]

theorem getLsbD_extractU (a b : Word) {j : Nat} (hj : j < 64) : (extractU a b).getLsbD j =
    (decide (j < (fieldOf b).2) && a.getLsbD ((fieldOf b).1 + j)) := by
  rw [extractU, BitVec.getLsbD_ofNat, decide_eq_true hj, Bool.true_and, fld, ← BitVec.getLsbD, BitVec.getLsbD_extractLsb']

/-- The bits of a sign-extended pattern of `w` bits. -/
theorem getLsbD_sextNat {w v j : Nat} (hw : 0 < w) (hv : v < 2 ^ w) (hw64 : w ≤ 64) (hj : j < 64) :
    (sextNat w v).getLsbD j = v.testBit (min j (w - 1)) := by
  rw [sextNat_eq hv, BitVec.getLsbD_signExtend, decide_eq_true hj, Bool.true_and, BitVec.msb_eq_getLsbD_last]
  simp only [BitVec.getLsbD_ofNat]
  split
  · next h => rw [decide_eq_true h, Bool.true_and, Nat.min_eq_left (by omega)]
  · rw [decide_eq_true (Nat.sub_lt hw Nat.one_pos), Bool.true_and, Nat.min_eq_right (by omega)]

theorem getLsbD_extractS (a b : Word) {j : Nat} (hj : j < 64) : (extractS a b).getLsbD j =
    a.getLsbD ((fieldOf b).1 + min j ((fieldOf b).2 - 1)) := by
  have hpos : 0 < (fieldOf b).2 ∧ (fieldOf b).2 ≤ 64 := by rw [fieldOf_eq]; dsimp only; omega
  rw [extractS, getLsbD_sextNat hpos.1 (BitVec.isLt _) hpos.2 hj, ← BitVec.getLsbD, BitVec.getLsbD_extractLsb',
    decide_eq_true (by omega), Bool.true_and]

theorem testBit_mask {w lsb j : Nat} : ((2 ^ w - 1) * 2 ^ lsb).testBit j = (decide (lsb ≤ j) && decide (j - lsb < w)) := by
  rw [Nat.testBit_mul_two_pow, Nat.testBit_two_pow_sub_one]

theorem getLsbD_insertField (d a b : Word) {j : Nat} (hj : j < 64) : (insertField d a b).getLsbD j =
    if (fieldOf b).1 ≤ j ∧ j - (fieldOf b).1 < (fieldOf b).2 then a.getLsbD (j - (fieldOf b).1) else d.getLsbD j := by
  have hm : (BitVec.ofNat 64 ((2 ^ (fieldOf b).2 - 1) * 2 ^ (fieldOf b).1)).getLsbD j =
      decide ((fieldOf b).1 ≤ j ∧ j - (fieldOf b).1 < (fieldOf b).2) := by
    rw [BitVec.getLsbD_ofNat, decide_eq_true hj, Bool.true_and, testBit_mask, Bool.decide_and]
  rw [insertField]
  dsimp only
  rw [BitVec.getLsbD_or, getLsbD_andn, BitVec.getLsbD_and, hm, BitVec.getLsbD_shiftLeft]
  split
  · next h => simp [h, hj]
  · next h => simp [h]

end Sys2Proof.Machine
end

section
open Sys2Proof Sys2Proof.Machine Sys2Proof.Safety

/-- Settles O17: each instruction by its function of the values, bit by bit. -/
theorem bitAndFieldResults : Obligations.BitAndFieldResults := by
  unfold Obligations.BitAndFieldResults
  refine ⟨?clz, ?ctz, ?popc, ?brev, ?mov, ?extu, ?ext, ?ins⟩
  case clz =>
    refine completes1_of_alu1 (fun x => BitVec.ofNat 64 (countLead x)) fun a => ⟨?_, fun h => ?_⟩
    · rintro rfl
      decide
    · have hlt := countLead_lt h
      rw [BitVec.toNat_ofNat, Nat.mod_eq_of_lt (by omega)]
      exact ⟨hlt, countLead_bounds h⟩
  case ctz =>
    refine completes1_of_alu1 (fun x => BitVec.ofNat 64 (countTrail x)) fun a => ⟨?_, fun h => ?_⟩
    · rintro rfl
      decide
    · obtain ⟨hlt, hbit⟩ := countTrail_spec h
      rw [BitVec.toNat_ofNat, Nat.mod_eq_of_lt (by omega)]
      exact hbit
  case popc =>
    refine completes1_of_alu1 (fun x => BitVec.ofNat 64 (countOnes x)) fun a => ?_
    rw [BitVec.toNat_ofNat, Nat.mod_eq_of_lt (countOnes_lt a), countOnes_eq]
  case brev => exact completes1_of_alu1 BitVec.reverse fun a i hi => getLsbD_brev a hi
  case mov => exact completes1_of_alu1 (fun x => x) fun a => rfl
  case extu =>
    refine completes2_of_alu2 extractU fun a b j hj => ?_
    rw [getLsbD_extractU a b hj, fieldOf_eq]
    congr 2
    dsimp only
    rw [eq_iff_iff]
    omega
  case ext =>
    refine completes2_of_alu2 extractS fun a b j hj => ?_
    rw [getLsbD_extractS a b hj, fieldOf_eq]
    congr 1
    dsimp only
    omega
  case ins =>
    intro g d a b v s s' hg hp
    refine ⟨_, alu2_ready (d := .x d) (insertField (rx s d)) hg hp, fun j hj => ?_⟩
    rw [getLsbD_insertField _ _ _ hj, fieldOf_eq]
    dsimp only
    congr 1
    rw [eq_iff_iff]
    omega

end

section
/-!
PROOFS. Compare and predicates (O22, R111, R113): the order of exact values is that of the numbers they are.
-/

namespace Sys2Proof.Machine

open Safety

theorem cmp2_ready {i : Instr} {g : Guard} {pd : PReg} {a : Src} {b : Opnd} {v : PortVals} {s s' : State}
    (f : Word → Word → Bool) (hg : guardVal g s = true) (hp : Ports s (srcPorts a ++ opndPorts b) [] v s') :
    cmp2 i g pd a b f s = .next (next (wp pd (f (srcVal v s' a) (opndVal v s' b)) s')) :=
  (guarded_true _ hg).trans (gate_ready _ hp)

theorem bne_eq_decide_ne (x y : Word) : (x != y) = decide (x ≠ y) := by rw [bne, beq_eq_decide, decide_not]

/-! ### The order of exact values (R111) -/

/-- The integer that a magnitude `m * 2^e` with its sign is in units of `2^q`. -/
def inUnits (neg : Bool) (m : Nat) (e q : Int) : Int :=
  if neg then -((m : Int) * 2 ^ (e - q).toNat) else (m : Int) * 2 ^ (e - q).toNat

theorem exNumber_inUnits (neg : Bool) (m : Nat) {e q : Int} (st : Bool) (h : q ≤ e) :
    exNumber (.num neg m e st) = some ((inUnits neg m e q : ℚ) * 2 ^ q) := by
  obtain ⟨n, rfl⟩ := Int.exists_add_of_le h
  have hn : (q + (n : Int) - q).toNat = n := by omega
  have hpow : (2 : ℚ) ^ (q + (n : Int)) = 2 ^ n * 2 ^ q := by
    rw [zpow_add₀ two_ne_zero, zpow_natCast, mul_comm]
  rw [exNumber, inUnits, hn, hpow]
  cases neg
  · rw [if_neg Bool.false_ne_true, if_neg Bool.false_ne_true]
    push_cast
    ring_nf
  · rw [if_pos rfl, if_pos rfl]
    push_cast
    ring_nf

theorem cmpEx_num (a b : Bool) (m n : Nat) (e e' : Int) (st st' : Bool) : cmpEx (.num a m e st) (.num b n e' st') =
    some (compare (inUnits a m e (min e e')) (inUnits b n e' (min e e'))) := rfl

/-- R111: two values that are no NaN are ordered as the numbers they are. -/
theorem cmpEx_spec {x y : Ex} (hx : x ≠ .nan) (hy : y ≠ .nan) : (cmpEx x y).isSome = true ∧
    (cmpEx x y = some .lt ↔ FloatLess x y) ∧ (cmpEx x y = some .eq ↔ FloatSame x y) := by
  cases x with
  | nan => exact absurd rfl hx
  | inf a =>
    cases y with
    | nan => exact absurd rfl hy
    | inf b => cases a <;> cases b <;> simp [cmpEx, FloatLess, FloatSame, exNumber]
    | num b n e' st' => cases a <;> simp [cmpEx, FloatLess, FloatSame, exNumber]
  | num a m e st =>
    cases y with
    | nan => exact absurd rfl hy
    | inf b => cases b <;> simp [cmpEx, FloatLess, FloatSame, exNumber]
    | num b n e' st' =>
      rw [cmpEx_num, FloatLess, FloatSame, exNumber_inUnits a m st (min_le_left e e'),
        exNumber_inUnits b n st' (min_le_right e e'), Option.some_inj, Option.some_inj, compare_lt_iff_lt, compare_eq_iff_eq]
      dsimp only
      rw [mul_lt_mul_iff_left₀ (by positivity), Int.cast_lt, mul_left_inj' (by positivity), Int.cast_inj]
      exact ⟨rfl, Iff.rfl, Iff.rfl⟩

theorem cmpEx_nan {x y : Ex} (h : x = .nan ∨ y = .nan) : cmpEx x y = none := by
  obtain rfl | rfl := h
  · rfl
  · cases x <;> rfl

/-- R111: with a NaN only NE and UN hold. -/
theorem fcond_nan (cc : FCond) {x y : Ex} (h : x = .nan ∨ y = .nan) : fcond cc x y = true ↔ cc = .ne ∨ cc = .un := by
  unfold fcond
  rw [cmpEx_nan h]
  cases cc <;> decide

/-- R111: the conditions of two values that are no NaN. -/
theorem fcond_numbers (cc : FCond) {x y : Ex} (hx : x ≠ .nan) (hy : y ≠ .nan) :
    (cc = .un → fcond cc x y = false) ∧ (cc = .or → fcond cc x y = true) ∧
    (cc = .eq → (fcond cc x y = true ↔ FloatSame x y)) ∧ (cc = .ne → (fcond cc x y = true ↔ ¬FloatSame x y)) ∧
    (cc = .lt → (fcond cc x y = true ↔ FloatLess x y)) ∧
    (cc = .le → (fcond cc x y = true ↔ FloatLess x y ∨ FloatSame x y)) := by
  obtain ⟨hsome, hless, hsame⟩ := cmpEx_spec hx hy
  rw [← hless, ← hsame]
  refine ⟨?_, ?_, ?_, ?_, ?_, ?_⟩ <;> rintro rfl
  · show (cmpEx x y).isNone = false
    rw [← Option.not_isSome, hsome]
    rfl
  · exact hsome
  · exact beq_iff_eq
  · exact bne_iff_ne
  · exact beq_iff_eq
  · exact (Bool.or_eq_true ..).to_iff.trans (or_congr beq_iff_eq beq_iff_eq)

theorem me_wp_of_ne {pd : PReg} (h : pd ≠ 7) (r : Bool) (s : State) : (me (wp pd r s)).p = (me s).p.set pd r := by
  rw [me_wp, pSet, if_neg h]

end Sys2Proof.Machine
end

section
open Sys2Proof Sys2Proof.Machine Sys2Proof.Safety

/-- Settles O22: the compares by their condition on the values, FCMP by the order of exact values. -/
theorem predicateResults : Obligations.PredicateResults := by
  unfold Obligations.PredicateResults
  refine ⟨⟨?cmp, ?fcmp, fun pd r s h => me_wp_of_ne h r s, fun r s => rfl⟩,
    fun g na nb pd pa pb s hg => ⟨if_pos hg, if_pos hg, if_pos hg⟩, fun g pd pa s hg => ⟨if_pos hg, if_pos hg⟩,
    ?px, ?xp, fun t => rfl⟩
  case cmp =>
    intro g cc pd a b v s s' hg hp
    refine (cmp2_ready (condHolds cc) hg hp).trans (congrArg (fun r => Host.Outcome.next (next (wp pd r s'))) ?_)
    cases cc with
    | eq => exact beq_eq_decide ..
    | ne => exact bne_eq_decide_ne ..
    | lt => exact BitVec.slt_eq_decide
    | le => exact BitVec.sle_eq_decide
    | ltu => exact BitVec.ult_eq_decide
    | leu => exact BitVec.ule_eq_decide
  case fcmp =>
    intro g f cc pd a b v s s' hg hp
    exact ⟨_, cmp2_ready (fun x y => fcond cc (fval f x) (fval f y)) hg hp, fcond_nan cc, fcond_numbers cc⟩
  case px =>
    intro g pd a v s s' hg hp
    rw [← bne_eq_decide_ne]
    exact (if_pos hg).trans (gate_ready _ hp)
  case xp =>
    intro g d pa v s s' hg hp
    exact (if_pos hg).trans (gate_ready _ hp)

end

section
/-!
PROOFS. What a register form changes (O23, R97, R98): a register written and the instruction ended at a quiet boundary are one
change of the executing strand.
-/

namespace Sys2Proof.Machine

open Safety

/-! ### The end of an instruction at a quiet boundary (R97) -/

theorem finish_quiet {s : State} (npc : Word) (h : Quiet (me s)) : finish npc s = advanced npc id s := by
  obtain ⟨hh, -⟩ := id h
  rw [finish_running npc s hh]
  exact congrArg (setStrand _ _) (takePending_quiet _ h)

/-- A change of the executing strand that leaves it quiet, and then the end of the instruction, are one change. -/
theorem finish_modMe_quiet {s : State} {f : Strand → Strand} (npc : Word) (h : Quiet (f (me s))) :
    finish npc (modMe f s) = advanced npc f s := by
  rw [finish_quiet npc (by rwa [me_modMe])]
  exact modMe_modMe ..

theorem xSet_quiet {d : XReg} {v : Word} {t : Strand} (h : Quiet t) : Quiet (xSet d v t) := by
  unfold xSet
  split <;> exact h
theorem pSet_quiet {d : PReg} {v : Bool} {t : Strand} (h : Quiet t) : Quiet (pSet d v t) := by
  unfold pSet
  split <;> exact h
theorem xSet_pc (d : XReg) (v : Word) (t : Strand) : (xSet d v t).pc = t.pc := by
  unfold xSet
  split <;> rfl
theorem pSet_pc (d : PReg) (v : Bool) (t : Strand) : (pSet d v t).pc = t.pc := by
  unfold pSet
  split <;> rfl

/-- R98: an x register written at a quiet boundary. -/
theorem retire_x_quiet {s : State} (d : XReg) (v : Word) (h : Quiet (me s)) :
    retire (.x d) v s = advanced ((me s).pc + 12) (xSet d v) s := by
  rw [retire, next, me_wx, xSet_pc]
  exact finish_modMe_quiet _ (xSet_quiet h)

/-- R98: a predicate written at a quiet boundary. -/
theorem next_wp_quiet {s : State} (d : PReg) (v : Bool) (h : Quiet (me s)) :
    next (wp d v s) = advanced ((me s).pc + 12) (pSet d v) s := by
  rw [next, me_wp, pSet_pc]
  exact finish_modMe_quiet _ (pSet_quiet h)

theorem ports_none (s : State) : Ports s [] [] (0, 0) s := ⟨by simp [portFail], by simp [inputStop], rfl, rfl⟩

/-- R59: a write of an x register other than x0 changes that register alone. -/
theorem get_xSet {d : XReg} (h : d ≠ 0) (v : Word) (t : Strand) :
    (xSet d v t).x.get d = v ∧ ∀ r, r ≠ d → (xSet d v t).x.get r = t.x.get r := by
  rw [xSet, if_neg h]
  exact ⟨Vector.getElem_set_self d.isLt, fun r hr => Vector.getElem_set_ne d.isLt r.isLt fun e => hr (Fin.ext e.symm)⟩

end Sys2Proof.Machine
end

section
open Sys2Proof Sys2Proof.Machine Sys2Proof.Safety

/-- Settles O23: the frame of one change of the executing strand. -/
theorem registerFormsChangeOnlyTheirDestination : Obligations.RegisterFormsChangeOnlyTheirDestination := by
  unfold Obligations.RegisterFormsChangeOnlyTheirDestination
  intro s h
  refine ⟨fun a b => ?_, fun d v => retire_x_quiet d v h, fun d v => next_wp_quiet d v h, fun d v t hd => get_xSet hd v t,
    fun v t => rfl, fun t => rfl, fun npc f => sameBut_modMe _ s⟩
  cases b with
  | x r => exact ports_none s
  | imm i => exact ports_none s

end

section
/-!
PROOFS. Control transfer (O24, R115): each instruction as a jump, and what a jump does with a target.
-/

namespace Sys2Proof.Machine

theorem jump_ok {t : Word} (k : State → State) (s : State) (h : t.toNat % 4 = 0 ∧ t.toNat ≤ 0x3FFF4) :
    jump t k s = .next (finish t (k s)) := if_pos ((targetOk_iff t).mpr h)
theorem jump_bad {t : Word} (k : State → State) (s : State) (h : ¬(t.toNat % 4 = 0 ∧ t.toNat ≤ 0x3FFF4)) :
    jump t k s = .next (raise .addr t s) := if_neg (mt (targetOk_iff t).mp h)

variable {g : Guard} {s : State} (hg : guardVal g s = true)
include hg

theorem exec_br (tgt : BitVec 48) : exec (.br g tgt) s = jump (relTarget s tgt) id s := if_pos hg
theorem exec_brl (tgt : BitVec 48) : exec (.brl g tgt) s = jump (relTarget s tgt) link s := if_pos hg
theorem exec_brx (a : XReg) : exec (.brx g a) s = jump (rx s a) id s := if_pos hg
theorem exec_brxl (a : XReg) : exec (.brxl g a) s = jump (rx s a) link s := if_pos hg
theorem exec_ret : exec (.ret g) s = jump (rx s 31) id s := if_pos hg

/-- R115: LOOP falls through when its counter becomes 0. -/
theorem exec_loop_last {a : XReg} (tgt : BitVec 48) (h : rx s a = 1) :
    exec (.loop g a tgt) s = .next (next (wx a 0 s)) := by
  have hn : rx s a - 1 = 0 := by rw [h]; rfl
  refine (if_pos hg).trans ((if_neg (not_not_intro hn)).trans ?_)
  rw [hn]

/-- R115: LOOP branches otherwise. -/
theorem exec_loop_more {a : XReg} (tgt : BitVec 48) (h : rx s a ≠ 1) :
    exec (.loop g a tgt) s = jump (relTarget s tgt) (wx a (rx s a - 1)) s :=
  (if_pos hg).trans (if_pos fun hn => h (eq_of_sub_eq_zero hn))

end Sys2Proof.Machine
end

section
open Sys2Proof Sys2Proof.Machine Sys2Proof.Safety

/-- Settles O24: each instruction by its jump, the target in range or not. -/
theorem controlTransfers : Obligations.ControlTransfers := by
  unfold Obligations.ControlTransfers
  refine ⟨fun g tgt a s hg => ⟨fun hr => ⟨?_, ?_⟩, fun hr => ⟨?_, ?_⟩, fun hr => ?_, exec_loop_last hg tgt, fun ha hr => ?_⟩,
    fun g tgt a s hg => ⟨fun hr => ⟨?_, ?_, fun ha => ?_⟩, fun hr => ⟨?_, ?_⟩, fun hr => ?_⟩⟩
  · exact (exec_br hg tgt).trans (jump_ok id s hr)
  · exact (exec_brl hg tgt).trans (jump_ok link s hr)
  · exact (exec_brx hg a).trans (jump_ok id s hr)
  · exact (exec_brxl hg a).trans (jump_ok link s hr)
  · exact (exec_ret hg).trans (jump_ok id s hr)
  · exact (exec_loop_more hg tgt ha).trans (jump_ok _ s hr)
  · exact (exec_br hg tgt).trans (jump_bad id s hr)
  · exact (exec_brl hg tgt).trans (jump_bad link s hr)
  · exact (exec_loop_more hg tgt ha).trans (jump_bad _ s hr)
  · exact (exec_brx hg a).trans (jump_bad id s hr)
  · exact (exec_brxl hg a).trans (jump_bad link s hr)
  · exact (exec_ret hg).trans (jump_bad id s hr)

end

section
/-!
PROOFS. The boundary of an instruction with causes due (O11, R97, R359 to R361).
-/

namespace Sys2Proof.Machine

open Safety

theorem modMe_congr_me {f g : Strand → Strand} {s : State} (h : f (me s) = g (me s)) : modMe f s = modMe g s :=
  congrArg (setStrand s _) h

theorem lowestPending_timer {t : Strand} (h : t.pending.getLsbD 13 = true) : lowestPending t = some .timer := if_pos h

theorem lowestPending_wake {t : Strand} (ht : t.pending.getLsbD 13 = false) (hw : t.pending.getLsbD 14 = true) :
    lowestPending t = some .wake := (if_neg (Bool.eq_false_iff.mp ht)).trans (if_pos hw)

/-- R360: outside a handler the lowest pending cause is taken. -/
theorem takePending_cause (route : Word) {c : Cause} {t : Strand} (hh : t.handler = false)
    (hc : lowestPending (latchDue t) = some c) :
    takePending route t = { enterTrap route c t.pc 0 (latchDue t) with readyAt := t.readyAt + 1 } := by
  have hn : (latchDue t).handler = false := hh
  unfold takePending
  dsimp only
  rw [hn, if_neg Bool.false_ne_true, hc]
  rfl

/-- The executing strand as its instruction ends, before its boundary. -/
def ended (npc : Word) (t : Strand) : Strand := { t with pc := npc, wait := none, flight := none }

section
variable (npc : Word) {s : State} (hn : (me s).halting = false)
include hn

/-- R360: in a handler the causes due are latched and none is taken. -/
theorem finish_handler (hh : (me s).handler = true) : finish npc s = advanced npc latchDue s :=
  (finish_running npc s hn).trans (modMe_congr_me (takePending_handler _ (ended npc (me s)) hh))

/-- R361: outside one, the lowest pending cause is taken with the next PC in TRAPPC. -/
theorem finish_cause {c : Cause} (hh : (me s).handler = false) (hc : lowestPending (latchDue (me s)) = some c) :
    finish npc s = modMe (fun t =>
      { enterTrap (routeOf s s.cur) c npc 0 (latchDue (ended npc t)) with readyAt := t.readyAt + 1 }) s :=
  (finish_running npc s hn).trans (modMe_congr_me (takePending_cause _ (t := ended npc (me s)) hh hc))

end

end Sys2Proof.Machine
end

section
open Sys2Proof Sys2Proof.Machine Sys2Proof.Safety

/-- Settles O11: the boundary by what is pending once the causes due are latched. -/
theorem instructionBoundary : Obligations.InstructionBoundary := by
  unfold Obligations.InstructionBoundary
  refine ⟨fun npc s h => finish_quiet npc h,
    fun npc s hn => ⟨fun hh => ?_, fun hh ht => ?_, fun hh ht hw => ?_⟩⟩
  · exact (finish_handler npc hn hh).trans (modMe_congr_me rfl)
  · exact (finish_cause npc hn hh (lowestPending_timer ht)).trans (modMe_congr_me rfl)
  · exact (finish_cause npc hn hh (lowestPending_wake ht hw)).trans (modMe_congr_me rfl)

end

section
/-!
PROOFS. FORK (O27, R83, R117): the state in which the strand that it starts stands, and how the instruction ends.
-/

namespace Sys2Proof.Machine

open Safety

theorem getStrand_advanced_other {npc : Word} {f : Strand → Strand} {s : State} {k : Nat} (h : k ≠ skey s.cur) :
    getStrand (advanced npc f s) k = getStrand s k := getStrand_modMe_other _ s h

/-! ### The strand that FORK starts -/

/-- Strand `e` of the issuing tile started at `pc` with x1 = `x1`; its first instruction issues 3 cycles from now. -/
def forked (e : SRef) (pc x1 : Word) (s : State) : State :=
  modStrand (skey e) (fun u => { u with readyAt := (myTile s).cycle + 3 }) (startByManifest e pc x1 s)

section
variable (e : SRef) (pc x1 : Word) (s : State)

theorem forked_frame : forked e pc x1 s =
    { s with strands := (forked e pc x1 s).strands, olds := (forked e pc x1 s).olds } := rfl

/-- R83: the strand that has been started. -/
theorem getStrand_forked_same :
    let t := getStrand (forked e pc x1 s) (skey e)
    t.run = .run ∧ t.pc = pc ∧ t.x.get 1 = x1 ∧ t.task = false ∧ t.priv = stewardId s e := by
  obtain ⟨hrun, hpc, hx, htask, hpriv⟩ :=
    getStrand_startStrand_same e pc x1 false (manifestOf s e).1 (manifestOf s e).2 s
  dsimp only
  rw [forked, getStrand_modStrand_same]
  exact ⟨hrun, hpc, (congrArg (Vector.get · 1) hx).trans (Vector.getElem_set_self _), htask, hpriv⟩

theorem getStrand_forked_other {k : Nat} (h : k ≠ skey e) : getStrand (forked e pc x1 s) k = getStrand s k :=
  (getStrand_modStrand_other _ _ h).trans (getStrand_startStrand_other _ _ _ _ _ _ h)

theorem me_forked (h : skey e ≠ skey s.cur) : me (forked e pc x1 s) = me s := getStrand_forked_other e pc x1 s h.symm

/-- R97: at a quiet boundary the end of the instruction writes 0 to D and advances the issuing strand. -/
theorem next_wx_forked (d : XReg) (h : skey e ≠ skey s.cur) (hq : Quiet (me s)) :
    next (wx d 0 (forked e pc x1 s)) = advanced ((me s).pc + 12) (xSet d 0) (forked e pc x1 s) := by
  have hend := retire_x_quiet (s := forked e pc x1 s) d 0 (by rwa [me_forked e pc x1 s h])
  rwa [me_forked e pc x1 s h] at hend

end

/-! ### The instruction -/

section
variable {g : Guard} {n : Fin 8} (d a : XReg) {tgt : BitVec 48} {s : State}
  (hg : guardVal g s = true) (hp : n = 7 → (me s).priv = true)
include hg hp

theorem execFork_guarded : execFork g n d a tgt s =
    if !targetOk (relTarget s tgt) then .next (raise .addr (relTarget s tgt) s)
    else if (getStrand s (skey ⟨s.cur.site, n.val⟩)).run = .off then
      .next (next (wx d 0 (forked ⟨s.cur.site, n.val⟩ (relTarget s tgt) (rx s a) (drainAll s.cur s))))
    else .next (next (wx d 1 s)) :=
  (if_neg fun h => by simp [hp h.1] at h).trans (guarded_true _ hg)

theorem execFork_bad (h : ¬((relTarget s tgt).toNat % 4 = 0 ∧ (relTarget s tgt).toNat ≤ 0x3FFF4)) :
    execFork g n d a tgt s = .next (raise .addr (relTarget s tgt) s) := by
  have ht : targetOk (relTarget s tgt) = false := Bool.eq_false_iff.mpr (mt (targetOk_iff _).mp h)
  rw [execFork_guarded d a hg hp, ht]
  rfl

variable (h : (relTarget s tgt).toNat % 4 = 0 ∧ (relTarget s tgt).toNat ≤ 0x3FFF4)
include h

theorem execFork_running (hr : (getStrand s (skey ⟨s.cur.site, n.val⟩)).run ≠ .off) :
    execFork g n d a tgt s = .next (next (wx d 1 s)) := by
  rw [execFork_guarded d a hg hp, (targetOk_iff _).mpr h]
  exact if_neg hr

theorem execFork_off (hr : (getStrand s (skey ⟨s.cur.site, n.val⟩)).run = .off) (hpend : s.pend = []) :
    execFork g n d a tgt s =
      .next (next (wx d 0 (forked ⟨s.cur.site, n.val⟩ (relTarget s tgt) (rx s a) s))) := by
  rw [execFork_guarded d a hg hp, (targetOk_iff _).mpr h, drainAll_none hpend]
  exact if_pos hr

end

end Sys2Proof.Machine
end

section
open Sys2Proof Sys2Proof.Machine Sys2Proof.Safety

/-- Settles O27: the target first, then whether the strand is OFF; the end of the instruction leaves the strand started. -/
theorem forkStartsAnOffStrand : Obligations.ForkStartsAnOffStrand := by
  unfold Obligations.ForkStartsAnOffStrand
  intro g n d a tgt s hg hp
  refine ⟨fun ht => ⟨execFork_running d a hg hp ht, fun hr hne hq hpend => ?_⟩, execFork_bad d a hg hp⟩
  obtain ⟨hrun, hpc, hx, htask, hpriv⟩ := getStrand_forked_same ⟨s.cur.site, n.val⟩ (relTarget s tgt) (rx s a) s
  refine ⟨_, (execFork_off d a hg hp ht hr hpend).trans (congrArg _ (next_wx_forked _ _ _ s d hne hq)), fun hd => ?_, ?_, ?_⟩
  · rw [rx, advanced, me_modMe]
    exact (xGet_xSet d d 0 _).trans (if_pos ⟨rfl, hd⟩)
  · rw [advanced, me_modMe]
  · rw [getStrand_advanced_other (s := forked _ _ _ s) hne]
    exact ⟨hrun, hpc, hx, htask, hpriv, rfl, rfl⟩

end

section
/-!
PROOFS. Segment registers (O30, R85, R86, R125): a segment register read after a write, what a strand that performs its accesses
keeps, and SEGLD by what it finds.
-/

namespace Sys2Proof.Machine

open Sys2Proof.Safety

theorem sGet_sSet (r q : SReg) (v : BitVec 128) (t : Strand) :
    sGet (sSet r v t) q = if q = r then v else sGet t q := by
  unfold sGet sSet
  by_cases h : q = r
  · subst h
    rw [if_pos rfl]
    exact Vector.getElem_set_self _
  · rw [if_neg h]
    exact Vector.getElem_set_ne r.isLt q.isLt fun e => h (Fin.ext e.symm)

/-! ### Accesses that are performed leave the strand that acts -/

theorem performLane_cur (i : Instr) (data c : Word) (v : VWord) (ln : Lane) (a : State × List Word) :
    (if ln.keys = [] then a
      else if isRmw i then
        match poisonRead a.1 ln.keys with
        | some w => (a.1, a.2 ++ [poisonAddr ln w])
        | none => match rmwNew i ln.keys.length (readNat a.1 ln.keys) data c with
          | some n => (writeNat ln.keys n a.1, a.2)
          | none => a
      else match poisonPart a.1 ln.keys with
        | some w => (a.1, a.2 ++ [poisonAddr ln w])
        | none => (writeBytes (storeLane i data v ln) a.1, a.2)).1.cur = a.1.cur := by
  split
  · rfl
  · split
    · split
      · rfl
      · split <;> rfl
    · split <;> rfl

theorem performStore_cur (i : Instr) (data c : Word) (v : VWord) (lanes : List Lane) (s : State) :
    (performStore i data c v lanes s).1.cur = s.cur := by
  unfold performStore
  dsimp only
  split
  · split <;> rfl
  · exact List.foldlRecOn lanes _ (motive := fun a : State × List Word => a.1.cur = s.cur) rfl
      fun a ha ln _ => (performLane_cur i data c v ln a).trans ha

theorem reportPoison_cur (e : SRef) (l : List Word) (s : State) : (reportPoison e l s).cur = s.cur :=
  List.foldlRecOn l _ (motive := fun u : State => u.cur = s.cur) rfl fun _ hu _ _ => hu

theorem performPend_cur (p : Pend) (s : State) : (performPend p s).cur = s.cur := by
  have hs := performStore_cur p.instr p.data 0 p.vdata p.lanes s
  unfold performPend
  dsimp only
  split <;> (refine (reportPoison_cur ..).trans ?_; split <;> exact hs)

theorem drain_cur (f : Pend → Bool) (s : State) : (drain f s).cur = s.cur :=
  List.foldlRecOn _ _ (motive := fun u : State => u.cur = s.cur) rfl fun _ hu p _ => (performPend_cur p _).trans hu

theorem drainFor_cur (e : SRef) (ks : List Nat) (so : Bool) (s : State) : (drainFor e ks so s).cur = s.cur :=
  drain_cur _ s

theorem sameBut_modMe_of_cur {e : SRef} {s : State} (f : Strand → Strand) (h : s.cur = e) : SameBut e s (modMe f s) :=
  h ▸ sameBut_modMe f s

/-! ### SEGLD -/

/-- R86: where entry `n` of the executing strand's segment table lies in its local store. -/
def segEntry (s : State) (n : Word) : Nat := 16 * fld (myTile s).segtab 4 14 + 16 * n.toNat

/-- The bytes of that entry. -/
def segEntryKeys (s : State) (n : Word) : List Nat := keysFrom (localKey s.cur.site (segEntry s n)) 16

section
variable {g : Guard} (sd : SReg) {b : XOpnd} {s : State} (hg : guardVal g s = true)
include hg

theorem execSegld_outside (h : fld (myTile s).segtab 32 8 ≤ (rxo s b).toNat ∨ 0x3E000 < segEntry s (rxo s b) + 16) :
    execSegld g sd b s = .next (raise .seg (rxo s b) s) := by
  rw [execSegld, guarded_true _ hg]
  exact if_pos h

/-- With no poison in the entry, its value goes to the segment register or raises SEG. -/
theorem execSegld_inside
    (h : ¬(fld (myTile s).segtab 32 8 ≤ (rxo s b).toNat ∨ 0x3E000 < segEntry s (rxo s b) + 16)) {u : State}
    (hu : drainFor s.cur (segEntryKeys s (rxo s b)) false s = u)
    (hp : poisonRead u (segEntryKeys s (rxo s b)) = none) :
    execSegld g sd b s =
      if segValid (BitVec.ofNat 128 (readNat u (segEntryKeys s (rxo s b)))) then
        .next (next (modMe (sSet sd (BitVec.ofNat 128 (readNat u (segEntryKeys s (rxo s b))))) u))
      else .next (raise .seg (rxo s b) u) := by
  subst hu
  unfold segEntryKeys segEntry at *
  refine (guarded_true _ hg).trans ((if_neg h).trans ?_)
  simp only [hp]

end

end Sys2Proof.Machine
end

section
open Sys2Proof Sys2Proof.Machine Sys2Proof.Safety

/-- Settles O30: the index and the place of the entry, then its value. -/
theorem segldLoadsAValidEntry : Obligations.SegldLoadsAValidEntry := by
  unfold Obligations.SegldLoadsAValidEntry
  intro g sd b s hg
  refine ⟨execSegld_outside sd hg, fun hn hoff hp => ?_⟩
  have hin : ¬(fld (myTile s).segtab 32 8 ≤ (rxo s b).toNat ∨ 0x3E000 < segEntry s (rxo s b) + 16) :=
    not_or.mpr ⟨not_le.mpr hn, not_lt.mpr hoff⟩
  have hexec := execSegld_inside sd hg hin rfl hp
  refine ⟨fun hv => hexec.trans (if_neg (Bool.eq_false_iff.mp hv)),
    fun hv => ⟨_, hexec.trans (if_pos hv), ?_, fun r hr => ?_, ?_⟩⟩
  · rw [me_modMe, sGet_sSet, if_pos rfl]
    rfl
  · rw [me_modMe, sGet_sSet, if_neg hr]
    rfl
  · exact sameBut_modMe_of_cur _ (drainFor_cur ..)

end

section
/-!
PROOFS. The segment check (O31, R84, R158, R159): what each of its tests answers, what an access that passes has met, and the
address that Form gives.
-/

namespace Sys2Proof.Machine

variable {s : State} {g : BitVec 128} {off : Word} {size align : Nat} {kind : AKind}

/-! ### Check (R158) -/

theorem check_null (h : segLimit g = 0) : check s g off size align kind = .error (.trap .seg off) := if_pos h

theorem check_window (h : segLimit g ≠ 0) (hw : tagOf (segBase g) = 1) (hk : kind ≠ .store) :
    check s g off size align kind = .error (.trap .window (segBase g + off)) := by
  simp [check, h, hw, hk]

/-- The right that an access through a segment needs (R158): T in window space; R, W or all of R, W and A elsewhere. -/
def rightHeld (g : BitVec 128) : AKind → Bool
  | .load => segR g
  | .store => if tagOf (segBase g) = 1 then segT g else segW g
  | .atomic => segR g && segW g && segA g

/-- A load or atomic in window space has its own cause. -/
theorem check_right (h : kind = .store ∨ tagOf (segBase g) ≠ 1) (hr : rightHeld g kind = false) :
    check s g off size align kind = .error (.trap .seg off) := by
  by_cases h0 : segLimit g = 0
  · exact check_null h0
  cases kind with
  | load =>
    have hw : tagOf (segBase g) ≠ 1 := h.resolve_left (by decide)
    have hr : segR g = false := hr
    simp [check, h0, hw, hr]
  | store => by_cases hw : tagOf (segBase g) = 1 <;> simp_all [check, rightHeld]
  | atomic =>
    have hw : tagOf (segBase g) ≠ 1 := h.resolve_left (by decide)
    have hr : (segR g && segW g && segA g) = false := hr
    simp [check, h0, hw, hr]

/-- What the answer of Form leads to. -/
def formed (align : Nat) (addr : Word) : Option Word → Except Stop Word
  | none => .error (.trap .addr addr)
  | some a => if a.toNat % align ≠ 0 then .error (.trap .align a) else .ok a

/-- With its right held, the answer of an access that is no load or atomic in window space turns on the limit, on Form and on
the alignment. -/
theorem check_held (h0 : segLimit g ≠ 0) (h : kind = .store ∨ tagOf (segBase g) ≠ 1) (hr : rightHeld g kind = true) :
    check s g off size align kind =
      if segLimit g < off.toNat + size then .error (.trap .seg off)
      else formed align (segBase g + off) (form s s.cur.site (me s).priv (segBase g) off.toNat size) := by
  cases hf : form s s.cur.site (me s).priv (segBase g) off.toNat size with
  | none | some a =>
    cases kind with
    | load =>
      have hw : tagOf (segBase g) ≠ 1 := h.resolve_left (by decide)
      have hr : segR g = true := hr
      simp [check, h0, hw, hr, hf, formed]
    | store => by_cases hw : tagOf (segBase g) = 1 <;> simp_all [check, rightHeld, formed]
    | atomic =>
      have hw : tagOf (segBase g) ≠ 1 := h.resolve_left (by decide)
      have hr : (segR g && segW g && segA g) = true := hr
      simp [check, h0, hw, hr, hf, formed]

theorem check_beyond (h : kind = .store ∨ tagOf (segBase g) ≠ 1) (hl : segLimit g < off.toNat + size) :
    check s g off size align kind = .error (.trap .seg off) := by
  by_cases h0 : segLimit g = 0
  · exact check_null h0
  cases hr : rightHeld g kind with
  | false => exact check_right h hr
  | true => rw [check_held h0 h hr, if_pos hl]

/-- What an access that passes has met. -/
theorem check_passed {a : Word} (h : check s g off size align kind = .ok a) :
    a.toNat % align = 0 ∧ off.toNat + size ≤ segLimit g ∧
      form s s.cur.site (me s).priv (segBase g) off.toNat size = some a := by
  by_cases h0 : segLimit g = 0
  · rw [check_null h0] at h; cases h
  by_cases hw : kind = .store ∨ tagOf (segBase g) ≠ 1
  swap
  · rw [not_or, not_not] at hw
    rw [check_window h0 hw.2 hw.1] at h; cases h
  cases hr : rightHeld g kind with
  | false => rw [check_right hw hr] at h; cases h
  | true =>
    rw [check_held h0 hw hr] at h
    split at h
    · cases h
    next hl =>
    cases hf : form s s.cur.site (me s).priv (segBase g) off.toNat size with
    | none => rw [hf] at h; cases h
    | some b =>
      rw [hf, formed] at h
      split at h
      · cases h
      next hal =>
      cases h
      exact ⟨not_not.mp hal, not_lt.mp hl, rfl⟩

/-! ### Form (R159) outside boot mode's mesh -/

section
variable {site : Nat} {priv : Bool} {base : Word} {o n : Nat} (hm : isMesh s site base = false)
include hm

theorem form_virtual (ht : tagOf base = 0) : form s site priv base o n =
    if fld base 57 5 = 0 ∧ fld base 0 57 + o + n ≤ 2 ^ 57 then some (base + BitVec.ofNat 64 o) else none := by
  simp [form, hm, ht]

theorem form_window (ht : tagOf base = 1) : form s site priv base o n =
    if fld base 56 6 = 0 ∧ fld base 0 44 + o + n ≤ 2 ^ 44 then some (base + BitVec.ofNat 64 o) else none := by
  simp [form, hm, ht]

theorem form_nowhere (ht : tagOf base = 2 ∨ tagOf base = 3) (hs : localSite s site base = none) :
    form s site priv base o n = none := by
  rcases ht with ht | ht <;> simp [form, hm, ht, hs]

theorem form_local {t : Nat} (ht : tagOf base = 2 ∨ tagOf base = 3) (hs : localSite s site base = some t) :
    form s site priv base o n =
      if fld base 0 18 + o + n ≤ 0x40000 ∧ (priv = true ∨ (getTile s t).job = (getTile s site).job) then
        some (base + BitVec.ofNat 64 o) else none := by
  rcases ht with ht | ht <;> simp [form, hm, ht, hs]

end

theorem localSite_good {site t : Nat} {a : Word} (h : localSite s site a = some t) : isGood s t = true := by
  unfold localSite at h
  split at h
  · cases h
  dsimp only at h
  split at h
  · split at h
    · cases h; assumption
    · cases h
  · cases h

end Sys2Proof.Machine
end

section
open Sys2Proof Sys2Proof.Machine Sys2Proof.Safety

/-- Settles O31: the tests of Check in their order, and Form by the tag of the base. -/
theorem segmentCheckFaults : Obligations.SegmentCheckFaults := by
  unfold Obligations.SegmentCheckFaults
  intro s g off size align kind
  refine ⟨check_null, fun h0 hw hk => check_window h0 hw hk, fun hw hr => check_right (.inr hw) ?_,
    fun hw hk ht => check_right (.inl hk) ?_, fun hl h => check_beyond h hl, fun a h => check_passed h,
    fun h0 hl hwin hother => ?_,
    fun hm => ⟨fun ht => ?_, fun ht => ?_, fun ht => ⟨fun hf => ?_, fun hs => ?_, fun t hs => ?_⟩⟩⟩
  · rcases hr with ⟨rfl, hr⟩ | ⟨rfl, hr⟩ | ⟨rfl, hr⟩
    · exact hr
    · exact (if_neg hw).trans hr
    · exact hr
  · subst hk
    exact (if_pos hw).trans ht
  · have hstore : kind = .store ∨ tagOf (segBase g) ≠ 1 := or_iff_not_imp_right.mpr fun hw => (hwin (not_not.mp hw)).1
    have hr : rightHeld g kind = true := by
      by_cases hw : tagOf (segBase g) = 1
      · obtain ⟨rfl, ht⟩ := hwin hw
        exact (if_pos hw).trans ht
      · obtain ⟨hload, hst, hat⟩ := hother hw
        cases kind with
        | load => exact hload rfl
        | store => exact (if_neg hw).trans (hst rfl)
        | atomic => exact hat rfl
    rw [check_held h0 hstore hr, if_neg (not_lt.mpr hl)]
    refine ⟨fun hf => by rw [hf, formed], fun a hf => ?_⟩
    rw [hf, formed]
    exact ite_not ..
  · rw [form_virtual hm ht, BitVec.ofNat_toNat, BitVec.setWidth_eq]
  · rw [form_window hm ht, BitVec.ofNat_toNat, BitVec.setWidth_eq]
  · exact form_nowhere hm ht (localSite_reserved hf)
  · exact form_nowhere hm ht hs
  · exact ⟨localSite_good hs, by rw [form_local hm ht hs, BitVec.ofNat_toNat, BitVec.setWidth_eq]⟩

end

section
/-!
PROOFS. Window table entries (O54, R327, R328, R336 to R338): what WMAP does with an image, that WUNMAP clears V, and the
instructions by what they find.
-/

namespace Sys2Proof.Machine

open Sys2Proof.Safety

theorem fld_zero {n : Nat} (v : BitVec n) (len : Nat) : fld v 0 len = v.toNat % 2 ^ len := by
  rw [fld, BitVec.extractLsb'_toNat, Nat.shiftRight_zero]

theorem winOf_eq (s : State) (b : XOpnd) : winOf s b = (rxo s b).toNat % 2 ^ 12 := fld_zero ..

/-! ### The image that WMAP has read (R336) -/

theorem rxValid_of_not_bad {e : BitVec 256} (h : rxBad e = false) : rxValid e = true := by
  cases hv : rxValid e with
  | true => rfl
  | false => simp [rxBad, hv] at h

theorem txValid_of_not_bad {e : BitVec 640} (h : txBad e = false) : txValid e = true := by
  cases hv : txValid e with
  | true => rfl
  | false => simp [txBad, hv] at h

/-- An image of a receive entry is refused with nothing changed, or is well formed and becomes the entry. -/
theorem wmapRx_cases (w image : Nat) (s : State) :
    ((wmapWith true w image s).1 ≠ 0 ∧ (wmapWith true w image s).2 = s) ∨
    (rxBad (BitVec.ofNat 256 image) = false ∧
      wmapWith true w image s = (0, { s with rxwin := tset s.rxwin w (BitVec.ofNat 256 image) })) := by
  rw [wmapWith, if_pos rfl]
  dsimp only
  split
  · exact .inl ⟨Nat.succ_ne_zero _, rfl⟩
  split
  · exact .inl ⟨Nat.succ_ne_zero _, rfl⟩
  next hb =>
  split
  · exact .inl ⟨Nat.succ_ne_zero _, rfl⟩
  · exact .inr ⟨Bool.eq_false_iff.mpr hb, rfl⟩

theorem wmapTx_cases (w image : Nat) (s : State) :
    ((wmapWith false w image s).1 ≠ 0 ∧ (wmapWith false w image s).2 = s) ∨
    (txBad (BitVec.ofNat 640 image) = false ∧
      wmapWith false w image s = (0, mapTx w (BitVec.ofNat 640 image) s)) := by
  rw [wmapWith, if_neg Bool.false_ne_true]
  dsimp only
  split
  · exact .inl ⟨Nat.succ_ne_zero _, rfl⟩
  split
  · exact .inl ⟨Nat.succ_ne_zero _, rfl⟩
  next hb =>
  split
  · exact .inl ⟨Nat.succ_ne_zero _, rfl⟩
  · exact .inr ⟨Bool.eq_false_iff.mpr hb, rfl⟩

section
variable {w image : Nat} {s : State}

theorem wmapWith_refused {rx_ : Bool} (h : (wmapWith rx_ w image s).1 ≠ 0) : (wmapWith rx_ w image s).2 = s := by
  cases rx_ with
  | true =>
    rcases wmapRx_cases w image s with ⟨-, hs⟩ | ⟨-, hm⟩
    · exact hs
    · exact absurd (congrArg Prod.fst hm) h
  | false =>
    rcases wmapTx_cases w image s with ⟨-, hs⟩ | ⟨-, hm⟩
    · exact hs
    · exact absurd (congrArg Prod.fst hm) h

/-- R328: a receive image that is mapped is the entry of its window, with V set, and no other entry changes. -/
theorem rxEntry_wmapWith (h : (wmapWith true w image s).1 = 0) :
    rxEntry (wmapWith true w image s).2 w = BitVec.ofNat 256 image ∧
      rxValid (rxEntry (wmapWith true w image s).2 w) = true ∧
      ∀ v, v ≠ w → rxEntry (wmapWith true w image s).2 v = rxEntry s v := by
  rcases wmapRx_cases w image s with ⟨hn, -⟩ | ⟨hb, hm⟩
  · exact absurd h hn
  have hw : rxEntry (wmapWith true w image s).2 w = BitVec.ofNat 256 image := by
    rw [hm]
    exact tget_tset_same ..
  refine ⟨hw, by rw [hw]; exact rxValid_of_not_bad hb, fun v hv => ?_⟩
  rw [hm]
  exact tget_tset_other _ _ _ hv

/-- R327: a transmit image likewise. -/
theorem txEntry_wmapWith (h : (wmapWith false w image s).1 = 0) :
    txEntry (wmapWith false w image s).2 w = BitVec.ofNat 640 image ∧
      txValid (txEntry (wmapWith false w image s).2 w) = true ∧
      ∀ v, v ≠ w → txEntry (wmapWith false w image s).2 v = txEntry s v := by
  rcases wmapTx_cases w image s with ⟨hn, -⟩ | ⟨hb, hm⟩
  · exact absurd h hn
  have hw : txEntry (wmapWith false w image s).2 w = BitVec.ofNat 640 image := by
    rw [hm]
    exact tget_tset_same ..
  refine ⟨hw, by rw [hw]; exact txValid_of_not_bad hb, fun v hv => ?_⟩
  rw [hm]
  exact tget_tset_other _ _ _ hv

end

theorem drainFor_none {s : State} (h : s.pend = []) (e : SRef) (ks : List Nat) (so : Bool) : drainFor e ks so s = s :=
  drain_none fun p hp => by rw [h] at hp; cases hp

theorem execWmap_user {s : State} (hp : (me s).priv = false) (g : Guard) (rx_ : Bool) (d : XReg) (m : MemOp) (b : XReg) :
    execWmap g rx_ d m b s = .next (raise .priv (me s).pc s) := by
  unfold execWmap
  exact stewardOnly_false _ hp

/-- In steward privilege WMAP hands the image that it reads to the window tables. -/
theorem execWmap_image {g : Guard} {rx_ : Bool} (d : XReg) {m : MemOp} (b : XReg) {s : State} {a : Word}
    (hp : (me s).priv = true) (hg : guardVal g s = true)
    (hc : checkLocal s m (if rx_ then 32 else 80) 16 .load = .ok a) (hpend : s.pend = [])
    (hpoison : poisonRead s (localKeys s a (if rx_ then 32 else 80)) = none) :
    let r := wmapWith rx_ ((rx s b).toNat % 2 ^ 12) (readNat s (localKeys s a (if rx_ then 32 else 80))) s
    execWmap g rx_ d m b s = .next (next (wx d (BitVec.ofNat 64 r.1) (wakeWindows r.2))) := by
  unfold execWmap
  dsimp only
  rw [stewardOnly_true _ hp, guarded_true _ hg, hc]
  dsimp only
  rw [drainFor_none hpend, hpoison, fld_zero]

/-! ### WUNMAP (R337) -/

theorem execWunmap_user {s : State} (hp : (me s).priv = false) (g : Guard) (rx_ : Bool) (b : XOpnd) :
    execWunmap g rx_ b s = .next (raise .priv (me s).pc s) := stewardOnly_false _ hp

theorem rxValid_clearRx (w : Nat) (s : State) : rxValid (rxEntry (clearRx w s) w) = false := by
  unfold clearRx
  split
  · have hw : rxEntry { s with rxwin := tset s.rxwin w (rxEntry s w &&& ~~~(1 : BitVec 256)) } w =
        rxEntry s w &&& ~~~(1 : BitVec 256) := tget_tset_same ..
    rw [hw]
    simp [rxValid]
  · next h => exact Bool.eq_false_iff.mpr h

theorem txValid_clearTx (w : Nat) (s : State) : txValid (txEntry (clearTx w s) w) = false := by
  unfold clearTx
  split
  · have hw : txEntry { s with txwin := tset s.txwin w (txEntry s w &&& ~~~(1 : BitVec 640)) } w =
        txEntry s w &&& ~~~(1 : BitVec 640) := tget_tset_same ..
    rw [hw]
    simp [txValid]
  · next h => exact Bool.eq_false_iff.mpr h

section
variable {g : Guard} {b : XOpnd} {s : State} (hp : (me s).priv = true) (hg : guardVal g s = true)
include hp hg

theorem execWunmap_rx : execWunmap g true b s = .next (next (clearRx ((rxo s b).toNat % 2 ^ 12) s)) := by
  rw [execWunmap, stewardOnly_true _ hp, guarded_true _ hg, winOf_eq]
  rfl

theorem execWunmap_busy (h : windowBusy s ((rxo s b).toNat % 2 ^ 12) s.wstores.length = true) :
    execWunmap g false b s = .next (inFlight (.unmap ((rxo s b).toNat % 2 ^ 12) s.wstores.length) s) := by
  rw [execWunmap, stewardOnly_true _ hp, guarded_true _ hg, winOf_eq]
  exact if_pos h

theorem execWunmap_settled (h : windowBusy s ((rxo s b).toNat % 2 ^ 12) s.wstores.length = false) :
    execWunmap g false b s = .next (next (clearTx ((rxo s b).toNat % 2 ^ 12) s)) := by
  rw [execWunmap, stewardOnly_true _ hp, guarded_true _ hg, winOf_eq]
  exact if_neg (Bool.eq_false_iff.mp h)

end

/-! ### WSTAT (R338) -/

theorem execWstat_reads {g : Guard} {s : State} (hg : guardVal g s = true) (sel : Fin 3) (d : XReg) (b : XOpnd) :
    execWstat g sel d b s = .next (next (wx d (wstatValue s sel (rxo s b)) s)) := guarded_true _ hg

theorem wstatValue_hidden {s : State} {n : Word} (hp : (me s).priv = false)
    (hj : txJob (txEntry s (n.toNat % 2 ^ 12)) ≠ (myTile s).job) : wstatValue s 0 n = 0 := by
  rw [← fld_zero] at hj
  exact if_pos ⟨by rw [hp]; rfl, hj⟩

end Sys2Proof.Machine
end

section
/-!
PROOFS. RFENCE (O54, R200, R339, R378): when it waits, what it writes, and how a wait for settled window stores ends.
-/

namespace Sys2Proof.Machine

open Sys2Proof.Safety

/-- The window of an RFENCE.W, as a number. -/
theorem rfenceWin_eq (s : State) (w : Option XOpnd) : rfenceWin s w = w.map fun b => (rxo s b).toNat % 2 ^ 12 :=
  congrArg (Option.map · w) (funext (winOf_eq s))

/-- An RFENCE at its issue waits while a covered store is unsettled. -/
theorem rfencePending_issued {s : State} {e : SRef} {win : Option Nat} :
    rfencePending s e win s.wstores.length = true ↔ ∃ x, x ∈ s.wstores.filter (covered e win) ∧ x.st = 0 := by
  simp only [rfencePending, List.take_length, List.any_eq_true, Bool.and_eq_true, List.mem_filter, beq_iff_eq, and_assoc]

/-- R339: the status over stores that were all performed. -/
theorem rfenceStatus_performed {ws : List WStore} (h : ∀ x, x ∈ ws → x.st = 1) : rfenceStatus ws = 0 :=
  if_pos (List.filter_eq_nil_iff.mpr fun x hx => by simp [h x hx])

/-- R200: what an RFENCE that ends orders changes only what plain loads may still find. -/
theorem rfenceEnd_completes (d : XReg) (win : Option Nat) (s : State) :
    CompletesFrom (.next (rfenceEnd s.cur d win s.wstores.length s))
      (wx d (rfenceStatus (s.wstores.filter (covered s.cur win))) (rfenceMark s.cur win s.wstores.length s)) := by
  refine ⟨_, rfl, ?_⟩
  rw [List.take_length]
  rfl

section
variable {g : Guard} (d : XReg) (w : Option XOpnd) {s : State} (hg : guardVal g s = true)
include hg

theorem execRfence_waits (h : rfencePending s s.cur (rfenceWin s w) s.wstores.length = true) :
    execRfence g d w s = .next (waitFor .waitf (.rfence s.cur) (.rfence g d w) s.wstores.length s) :=
  (guarded_true _ hg).trans (if_pos h)

theorem execRfence_ends (h : rfencePending s s.cur (rfenceWin s w) s.wstores.length = false) :
    execRfence g d w s = .next (rfenceEnd s.cur d (rfenceWin s w) s.wstores.length s) :=
  (guarded_true _ hg).trans (if_neg (Bool.eq_false_iff.mp h))

end

/-! ### The end of the wait -/

/-- R339, R378: an RFENCE that waits ends once its stores have settled and its job is not frozen. -/
theorem execRfenceComplete_rfence {e f : SRef} {s : State} {g : Guard} {d : XReg} {w : Option XOpnd} {k n : Nat}
    (h : (getStrand s (skey e)).wait = some ⟨.rfence f, .rfence g d w, k, n⟩) : execRfenceComplete e s =
      if rfencePending s f (rfenceWin (asStrand e s) w) n = true ∨ (getJob s (getTile s e.site).job).frozen = true then .next s
      else .next (rfenceEnd f d (rfenceWin (asStrand e s) w) n (endWait e (asStrand e s))) := by
  simp only [execRfenceComplete, rfenceGo, h]
  split <;> rfl

/-- R337: a WUNMAP.TX in flight ends once its stores have settled. -/
theorem execRfenceComplete_unmap {e : SRef} {s : State} {w n : Nat} (hw : (getStrand s (skey e)).wait = none)
    (hf : (getStrand s (skey e)).flight = some (.unmap w n)) (h : windowBusy s w n = false) :
    execRfenceComplete e s = .next (next (clearTx w (readyIn 1 (asStrand e s)))) := by
  simp only [execRfenceComplete, hw, hf, unmapEnd, h, Bool.false_eq_true, if_false]

end Sys2Proof.Machine
end

section
/-!
PROOFS. Thread contexts (O54, R95, R96, R341 to R343, R355): CTXSV and CTXLD by what they find, and a context that is saved and
loaded again.
-/

namespace Sys2Proof.Machine

open Sys2Proof.Safety

/-! ### CTXSV and CTXLD (R342) -/

theorem slotKey_eq (s : State) (b : XOpnd) : slotKey s b = 64 * yardOf s.cur.site + (rxo s b).toNat % 64 :=
  congrArg (64 * yardOf s.cur.site + ·) (fld_zero ..)

section
variable {g : Guard} {n : Fin 8} {b : XOpnd} {s : State} (k : Nat → State → State) (hg : guardVal g s = true)
include hg

theorem ctxChecked_reserve (h : n = 7) : ctxChecked g n b s k = .next (raise .illegal (me s).pc s) :=
  (guarded_true _ hg).trans (if_pos h)

theorem ctxChecked_foreign (h : n ≠ 7)
    (hs : (getSlot s (slotKey s b)).grant = false ∨ (getSlot s (slotKey s b)).job ≠ (myTile s).job) :
    ctxChecked g n b s k = .next (raise .addr (rxo s b) s) :=
  (guarded_true _ hg).trans ((if_neg h).trans (if_pos (hs.imp_left fun h => by rw [h]; rfl)))

theorem ctxChecked_granted (h : n ≠ 7) (hs : (getSlot s (slotKey s b)).grant = true)
    (hj : (getSlot s (slotKey s b)).job = (myTile s).job) : ctxChecked g n b s k = .next (k (slotKey s b) s) :=
  (guarded_true _ hg).trans ((if_neg h).trans (if_neg (not_or.mpr ⟨by rw [hs]; decide, not_not.mpr hj⟩)))

end

/-- The strand of the issuing tile that the instruction names. -/
def ctxStrand (s : State) (n : Fin 8) : Strand := getStrand s (skey ⟨s.cur.site, n.val⟩)

section
variable {i : Instr} {n : Fin 8} {k : Nat} {s : State} (d : XReg)

theorem ctxSave_full (h : (getSlot s k).full = true) : ctxSave i n d k s = next (wx d 1 s) := if_pos h

theorem ctxLoad_empty (h : (getSlot s k).full = false) : ctxLoad n d k s = next (wx d 1 s) := if_pos (by rw [h]; rfl)

theorem ctxSave_idle (h : (getSlot s k).full = false)
    (hr : (ctxStrand s n).run = .off ∨ (ctxStrand s n).run = .parked) :
    ctxSave i n d k s = next (wx d 2 s) := (if_neg (Bool.eq_false_iff.mp h)).trans (if_pos hr)

theorem ctxLoad_live (h : (getSlot s k).full = true) (ho : (ctxStrand s n).run ≠ .off)
    (hp : (ctxStrand s n).run ≠ .parked) : ctxLoad n d k s = next (wx d 2 s) :=
  (if_neg (by rw [h]; decide)).trans (if_pos ⟨ho, hp⟩)

theorem ctxLoad_loads (h : (getSlot s k).full = true)
    (hr : (ctxStrand s n).run = .off ∨ (ctxStrand s n).run = .parked) :
    ctxLoad n d k s = next (readyIn 73 (wx d 0 (loadFrom k ⟨s.cur.site, n.val⟩ s))) :=
  (if_neg (by rw [h]; decide)).trans (if_neg fun ⟨ho, hp⟩ => hr.elim ho hp)

/-- Another strand that is between two instructions is saved at once, if the two have nothing handed off. -/
theorem ctxSave_saves (h : (getSlot s k).full = false) (ho : (ctxStrand s n).run ≠ .off)
    (hp : (ctxStrand s n).run ≠ .parked) (he : (⟨s.cur.site, n.val⟩ : SRef) ≠ s.cur)
    (hf : (ctxStrand s n).flight = none) (hpend : s.pend = []) :
    ctxSave i n d k s = next (wx d 0 (parkIn k ⟨s.cur.site, n.val⟩ (readyIn 73 s))) := by
  have hidle : ∀ e, unperformed s e = false := fun e => by rw [unperformed, hpend]; rfl
  have hcompleted : ¬((⟨s.cur.site, n.val⟩ : SRef) ≠ s.cur ∧ (ctxStrand s n).flight.isSome = true) := fun h => by
    rw [hf] at h
    exact Bool.false_ne_true h.2
  refine (if_neg (Bool.eq_false_iff.mp h)).trans ((if_neg (not_or.mpr ⟨ho, hp⟩)).trans ((if_neg hcompleted).trans ?_))
  rw [drainAll_none hpend, drainAll_none hpend]
  exact (if_neg (by rw [hidle, hidle]; decide)).trans (if_neg he)

end

/-! ### A context in a slot (R342, R343) -/

theorem getStrand_parkIn_same (n : Nat) (e : SRef) (s : State) : getStrand (parkIn n e s) (skey e) =
    { Strand.blank (skey e) with run := .parked, readyAt := (getStrand s (skey e)).readyAt, slot := n } :=
  getStrand_setStrand_same ..

theorem getSlot_parkIn_same (n : Nat) (e : SRef) (s : State) : getSlot (parkIn n e s) n =
    { getSlot s n with
      full := true, from_ := endpoint s e, ctx := some (saveStrand (getStrand s (skey e)), recordsOf s e) } :=
  getSlot_setSlot_same ..

theorem adoptRecords_frame (e : SRef) (rs : List (Nat × Retry)) (s : State) :
    adoptRecords e rs s = { s with looms := (adoptRecords e rs s).looms } :=
  List.foldlRecOn rs _ (motive := fun u : State => u = { s with looms := u.looms }) rfl fun u hu p _ => by
    rw [hu]
    rfl

/-- A saved strand as it stands when its tile's clock shows `cyc`, before what it waited for is looked at again. -/
def restored (cyc ticket : Nat) (t : Strand) : Strand :=
  { t with
    reserve := false, wait := t.wait.map fun w => { w with ticket := ticket }, readyAt := cyc + 1, halting := false }

/-- The state in which strand `e` has taken the context `t` of a slot, with the records that it owns. -/
def unslotted (n : Nat) (e : SRef) (t : Strand) (rs : List (Nat × Retry)) (s : State) : State :=
  adoptRecords e rs (acquireAll e (setStrand
    { setSlot s n { getSlot s n with full := false, ctx := none } with ticket := s.ticket + 1 } (skey e)
    (restored (getTile s e.site).cycle s.ticket t)))

theorem getStrand_unslotted_same (n : Nat) (e : SRef) (t : Strand) (rs : List (Nat × Retry)) (s : State) :
    getStrand (unslotted n e t rs s) (skey e) = restored (getTile s e.site).cycle s.ticket t := by
  have h : (unslotted n e t rs s).strands = (setStrand
      { setSlot s n { getSlot s n with full := false, ctx := none } with ticket := s.ticket + 1 } (skey e)
      (restored (getTile s e.site).cycle s.ticket t)).strands := by
    rw [unslotted, adoptRecords_frame]
    rfl
  exact (getStrand_of_strands h _).trans (getStrand_setStrand_same ..)

theorem getSlot_unslotted_same (n : Nat) (e : SRef) (t : Strand) (rs : List (Nat × Retry)) (s : State) :
    getSlot (unslotted n e t rs s) n = { getSlot s n with full := false, ctx := none } := by
  rw [unslotted, adoptRecords_frame]
  exact getSlot_setSlot_same ..

/-- R96: a strand that resumes in a wait looks again at what it awaits. -/
def looking (e : SRef) (s : State) : State :=
  match (getStrand s (skey e)).wait with
  | some w => { s with internal := s.internal ++ lookAgain e w }
  | none => s

theorem loadFrom_some {n : Nat} (e : SRef) {s : State} {t : Strand} {rs : List (Nat × Retry)}
    (hc : (getSlot s n).ctx = some (t, rs)) :
    let u := reissuePaged e (unslotted n e t rs s)
    loadFrom n e s = looking e (wakeWait e (asStrand u.cur (lostWait e u))) := by
  unfold loadFrom
  rw [hc]
  rfl

section
variable {e : SRef} {s : State} (hw : (getStrand s (skey e)).wait = none)
include hw

theorem lostWait_running (hr : (getStrand s (skey e)).run = .run) :
    lostWait e s = modStrand (skey e) (fun t => { t with lostMons := 0 }) s := by
  simp only [lostWait, hr, hw]

theorem wakeWait_none : wakeWait e s = s := by
  simp only [wakeWait, hw]

theorem looking_none : looking e s = s := by
  simp only [looking, hw]

end

/-- R96: a strand that ran when it was saved runs on. -/
theorem loadFrom_running {n : Nat} (e : SRef) {s : State} {t : Strand} {rs : List (Nat × Retry)}
    (hc : (getSlot s n).ctx = some (t, rs)) (hr : t.run = .run) (hw : t.wait = none) :
    loadFrom n e s = modStrand (skey e) (fun u => { u with lostMons := 0 }) (unslotted n e t rs s) := by
  have hu := getStrand_unslotted_same n e t rs s
  have hrun : (getStrand (unslotted n e t rs s) (skey e)).run = .run := by rw [hu]; exact hr
  have hwait : (getStrand (unslotted n e t rs s) (skey e)).wait = none := by rw [hu, restored, hw]; rfl
  have hpaged : reissuePaged e (unslotted n e t rs s) = unslotted n e t rs s := if_neg (by rw [hrun]; decide)
  have hend : (getStrand (modStrand (skey e) (fun u => { u with lostMons := 0 }) (unslotted n e t rs s)) (skey e)).wait = none :=
    (congrArg Strand.wait (getStrand_modStrand_same ..)).trans hwait
  rw [loadFrom_some e hc, hpaged, lostWait_running hwait hrun]
  exact (congrArg (looking e) (wakeWait_none hend)).trans (looking_none hend)

/-- R355: a strand that runs and waits for nothing, saved in a slot and loaded again: the slot is empty, and the strand stands
as it was saved. -/
theorem loadFrom_parkIn (n : Nat) {e : SRef} {s : State} (hr : (getStrand s (skey e)).run = .run)
    (hw : (getStrand s (skey e)).wait = none) :
    let u := parkIn n e s
    getStrand (loadFrom n e u) (skey e) =
      { restored (getTile u e.site).cycle u.ticket (saveStrand (getStrand s (skey e))) with lostMons := 0 } ∧
    (getSlot (loadFrom n e u) n).full = false := by
  have hload := loadFrom_running e (congrArg Slot.ctx (getSlot_parkIn_same n e s)) hr hw
  dsimp only
  rw [hload, getStrand_modStrand_same, getStrand_unslotted_same]
  exact ⟨rfl, congrArg Slot.full (getSlot_unslotted_same ..)⟩

end Sys2Proof.Machine
end

section
open Sys2Proof Sys2Proof.Machine Sys2Proof.Safety

/-- Settles O54: the window tables, RFENCE by its covered stores, and the contexts by slot and strand. -/
theorem windowsFencesAndContexts : Obligations.WindowsFencesAndContexts := by
  unfold Obligations.WindowsFencesAndContexts
  refine ⟨fun g rx_ d b m s a => ⟨fun hp => execWmap_user hp .., fun hp hg hc hpend hpoison =>
      ⟨execWmap_image d b hp hg hc hpend hpoison, wmapWith_refused, fun h0 hrx => ?_, fun h0 hrx => ?_⟩⟩,
    fun g b s => ⟨fun hp r => execWunmap_user hp .., fun hp hg => ⟨⟨execWunmap_rx hp hg, rxValid_clearRx ..⟩,
      execWunmap_busy hp hg, fun h => ⟨execWunmap_settled hp hg h, txValid_clearTx ..⟩⟩⟩,
    fun g d b sel s hg => ⟨execWstat_reads hg .., wstatValue_hidden⟩,
    fun g d w s hg => ?_,
    fun e s => ⟨fun f g d w k n hw => ?_, fun w n => execRfenceComplete_unmap⟩,
    fun g n d b s hg hpend => ?_,
    fun k e s hr hw => ?_⟩
  · subst hrx
    exact rxEntry_wmapWith h0
  · subst hrx
    exact txEntry_wmapWith h0
  · rw [← rfenceWin_eq]
    refine ⟨fun h => execRfence_waits d w hg (rfencePending_issued.mpr h), fun h => ?_, rfenceStatus_performed⟩
    have hidle : rfencePending s s.cur (rfenceWin s w) s.wstores.length = false :=
      Bool.eq_false_iff.mpr fun hpend => by
        obtain ⟨x, hx, h0⟩ := rfencePending_issued.mp hpend
        exact h x hx h0
    exact completesFrom_of_eq (execRfence_ends d w hg hidle) (rfenceEnd_completes d _ s)
  · rw [← rfenceWin_eq]
    have hgo := execRfenceComplete_rfence hw
    exact ⟨fun h => hgo.trans (if_pos h), fun hp hf => hgo.trans (if_neg (by simp [hp, hf]))⟩
  · rw [← slotKey_eq]
    refine ⟨fun h => ⟨ctxChecked_reserve _ hg h, ctxChecked_reserve _ hg h⟩,
      fun h hs => ⟨ctxChecked_foreign _ hg h hs, ctxChecked_foreign _ hg h hs⟩,
      fun h hgrant hj => ?_⟩
    have hsave : exec (.ctxsv g n d b) s = .next (ctxSave (.ctxsv g n d b) n d (slotKey s b) s) :=
      ctxChecked_granted _ hg h hgrant hj
    have hload : exec (.ctxld g n d b) s = .next (ctxLoad n d (slotKey s b) s) := ctxChecked_granted _ hg h hgrant hj
    rw [hsave, hload]
    exact ⟨fun hfull => ⟨congrArg _ (ctxSave_full d hfull), fun ho hp => congrArg _ (ctxLoad_live d hfull ho hp),
        fun hr => congrArg _ (ctxLoad_loads d hfull hr)⟩,
      fun hempty => ⟨congrArg _ (ctxLoad_empty d hempty), fun hr => congrArg _ (ctxSave_idle d hempty hr),
        fun ho hp he hf => congrArg _ (ctxSave_saves d hempty ho hp he hf hpend)⟩⟩
  · obtain ⟨hv, hfull⟩ := loadFrom_parkIn k hr hw
    dsimp only
    rw [hv, getSlot_parkIn_same, getStrand_parkIn_same]
    exact ⟨rfl, rfl, rfl, hr, rfl, rfl, rfl, rfl, rfl, rfl, rfl, rfl, rfl, rfl, rfl, rfl, rfl, rfl,
      fun i => Vector.getElem_replicate i.isLt, hfull⟩

end

section
/-!
PROOFS. Division, MOVI, SEL and NOP (O16, O18, O19, O25): the corner cases of the quotients, and what the words of MOVI and SEL
hold.
-/

namespace Sys2Proof.Machine

open Safety

/-! ### Quotients and remainders (R103) -/

/-- R103: −2^63 by −1 gives the dividend, by the wrap of the quotient 2^63. -/
theorem divS_spec (a b : Word) : divS a b = if b = 0 then 0xFFFFFFFFFFFFFFFF
    else if a.toInt = -(2 ^ 63) ∧ b.toInt = -1 then a else BitVec.ofInt 64 (a.toInt.tdiv b.toInt) := by
  unfold divS
  split
  · rfl
  · split
    · next h =>
      have ha : a = BitVec.ofInt 64 (-(2 ^ 63)) := by rw [← h.1, BitVec.ofInt_toInt]
      rw [h.1, h.2, ha]
      rfl
    · rfl

/-- R103: −2^63 by −1 leaves 0; otherwise the remainder is what the truncated quotient leaves. -/
theorem remS_spec (a b : Word) : remS a b = if b = 0 then a
    else if a.toInt = -(2 ^ 63) ∧ b.toInt = -1 then 0
    else BitVec.ofInt 64 (a.toInt - b.toInt * a.toInt.tdiv b.toInt) := by
  unfold remS
  split
  · rfl
  · split
    · next h => rw [h.1, h.2]; rfl
    · rw [Int.tmod_def]

theorem toNat_divU (a b : Word) :
    (divU a b).toNat = if b = 0 then 0xFFFFFFFFFFFFFFFF else a.toNat / b.toNat := by
  unfold divU
  split
  · rfl
  · rw [BitVec.toNat_ofNat, Nat.mod_eq_of_lt ((Nat.div_le_self ..).trans_lt a.isLt)]

theorem toNat_remU (a b : Word) : (remU a b).toNat = if b = 0 then a.toNat else a.toNat % b.toNat := by
  unfold remU
  split
  · rfl
  · rw [BitVec.toNat_ofNat, Nat.mod_eq_of_lt ((Nat.mod_le ..).trans_lt a.isLt)]

/-! ### MOVI and SEL (R105, R107) -/

/-- R107: the predicate that a word names, whatever its I bit holds. -/
theorem selMod_fields : ∀ n : PReg, ∀ i : BitVec 12, i = 0 ∨ i = 0x800 →
    (BitVec.ofNat 12 n.val ||| i).extractLsb' 0 3 = BitVec.ofNat 3 n.val ∧
      (BitVec.ofNat 12 n.val ||| i).extractLsb' 3 8 = 0 := by
  rintro n i (rfl | rfl) <;> revert n <;> decide

theorem pGet_true {t : Strand} {n : PReg} (h : n = 7 ∨ t.p.get n = true) : pGet t n = true := by
  unfold pGet
  split
  · rfl
  · next h7 => exact h.resolve_left h7
theorem pGet_false {t : Strand} {n : PReg} (h7 : n ≠ 7) (h : t.p.get n = false) : pGet t n = false :=
  (if_neg h7).trans h

end Sys2Proof.Machine
end

section
open Sys2Proof Sys2Proof.Machine Sys2Proof.Safety

/-- Settles O16: each division by its function of the two values. -/
theorem divisionTruncatesAndNeverTraps : Obligations.DivisionTruncatesAndNeverTraps := by
  unfold Obligations.DivisionTruncatesAndNeverTraps
  refine ⟨?div, ?rem, ?divu, ?remu⟩
  case div => exact completes2_of_alu2 divS divS_spec
  case rem => exact completes2_of_alu2 remS remS_spec
  case divu => exact completes2_of_alu2 divU toNat_divU
  case remu => exact completes2_of_alu2 remU toNat_remU

/-- Settles O18: the gate with D alone, and the 48 bits as the word holds them. -/
theorem moviWritesTheSignExtendedImmediate : Obligations.MoviWritesTheSignExtendedImmediate := by
  unfold Obligations.MoviWritesTheSignExtendedImmediate
  exact fun g d imm s hg => ⟨fun v s' hp => (if_pos hg).trans (gate_ready _ hp),
    _, rfl, rfl, Fields.imm48_set48 _ imm, rfl, rfl⟩

/-- Settles O19: the predicate as the strand holds it at the guard, and the word by its I bit. -/
theorem selectTakesAOnTrueAndBOnFalse : Obligations.SelectTakesAOnTrueAndBOnFalse := by
  unfold Obligations.SelectTakesAOnTrueAndBOnFalse
  intro g n d a b v s s' hg hp
  have hsel : exec (.sel g n d a b) s =
      .next (retire d (if pGet (me s) n then srcVal v s' a else opndVal v s' b) s') := alu2_ready _ hg hp
  refine ⟨fun h => ?_, fun ⟨h7, h⟩ => ?_, fun s'' hg' => if_neg (Bool.eq_false_iff.mp hg'), _, rfl, Fields.setB_opc .., ?_⟩
  · rw [hsel, if_pos (pGet_true h)]
  · rw [hsel, if_neg (Bool.eq_false_iff.mp (pGet_false h7 h))]
  · rw [Fields.setB_mod]
    exact selMod_fields n _ (Fields.iOf_cases b)

/-- Settles O25: either branch of the guard is the end of the instruction. -/
theorem nopHasNoEffectBeyondThePc : Obligations.NopHasNoEffectBeyondThePc := by
  unfold Obligations.NopHasNoEffectBeyondThePc
  exact ⟨fun g s => ite_self _, fun g => rfl, by decide⟩

end

section
/-!
PROOFS. A strand that stops (R119, R363), for O13 and O26: the strand that STOP, HALT or a fault in a handler leaves, and the others.
-/

namespace Sys2Proof.Machine

open Sys2Proof.Safety

/-- Two strands of tiles have two keys. -/
theorem skey_ne {e f : SRef} (h : e ≠ f) (he : e.k < 8) (hf : f.k < 8) : skey e ≠ skey f := by
  obtain ⟨i, k⟩ := e
  obtain ⟨j, n⟩ := f
  intro hkey
  simp only [skey] at hkey he hf
  refine h ?_
  congr 1 <;> omega

/-! ### STOP of one strand (R119) -/

theorem dropRecords_strands (e : SRef) (s : State) : (dropRecords e s).strands = s.strands := by
  unfold dropRecords
  dsimp only
  split <;> rfl

theorem reportDone_strands (bk : Nat) (s : State) : (reportDone bk s).strands = s.strands := by
  unfold reportDone
  dsimp only
  split
  · rw [hostPost_strands, setYards_frame]
    rfl
  · rfl

/-- Of the strands, only the one that stops changes. -/
theorem stopStrand_strands (e : SRef) (s : State) :
    (stopStrand e s).strands = (setStrand s (skey e) (Strand.blank (skey e))).strands := by
  have h : (reportDone (boothOf s e.site) (dropRecords e (setStrand s (skey e) (Strand.blank (skey e))))).strands =
      (setStrand s (skey e) (Strand.blank (skey e))).strands := by rw [reportDone_strands, dropRecords_strands]
  unfold stopStrand
  dsimp only
  split <;> exact h

theorem getStrand_stopStrand_same (e : SRef) (s : State) :
    getStrand (stopStrand e s) (skey e) = Strand.blank (skey e) :=
  (getStrand_of_strands (stopStrand_strands e s) _).trans (getStrand_setStrand_same ..)
theorem getStrand_stopStrand_other {e : SRef} {k : Nat} (s : State) (h : k ≠ skey e) :
    getStrand (stopStrand e s) k = getStrand s k :=
  (getStrand_of_strands (stopStrand_strands e s) _).trans (getStrand_setStrand_other _ _ h)

/-! ### A fault in a handler (R363) -/

/-- R363: the fault is logged and reported, which leaves strands, queues and futures, and the strand stops. -/
theorem handlerFault_stops (c : Cause) (s : State) : ∃ u, handlerFault c s = stopStrand s.cur u ∧
    u.strands = s.strands ∧ u.queues = s.queues ∧ u.futures = s.futures := by
  refine ⟨_, rfl, ?_, ?_, ?_⟩
  · rw [hostPost_strands, logTile, logTo_strands]
  · rw [hostPost_stopFrame, logTile, logTo_queues]
  · rw [hostPost_stopFrame, logTile, logTo_frame]

theorem raiseAt_handler {c : Cause} (pc addr : Word) (lat : Nat) {s : State} (hh : (me s).handler = true) (hc : c ≠ .uncorr) :
    raiseAt c pc addr lat s = handlerFault c (raised s) := by
  have hme : (me (raised s)).handler = true := (congrArg Strand.handler (me_modMe ..)).trans hh
  exact if_pos ⟨hme, hc⟩

end Sys2Proof.Machine
end

section
open Sys2Proof Sys2Proof.Machine Sys2Proof.Safety

/-- Settles O13: the fault is logged and reported, and the strand stops. -/
theorem faultInAHandlerStopsTheStrand : Obligations.FaultInAHandlerStopsTheStrand := by
  unfold Obligations.FaultInAHandlerStopsTheStrand
  intro c addr s hh hc
  obtain ⟨u, hstop, hstrands, hqueues, hfutures⟩ := handlerFault_stops c (raised s)
  have hraise : raise c addr s = stopStrand s.cur u := (raiseAt_handler _ addr 3 hh hc).trans hstop
  have hblank : getStrand (raise c addr s) (skey s.cur) = Strand.blank (skey s.cur) := by
    rw [hraise, getStrand_stopStrand_same]
  refine ⟨by rw [hblank]; rfl, by rw [hblank]; rfl, ?_, ?_, fun e hne he hcur => ?_⟩
  · rw [hraise, stopStrand_stopFrame, hqueues]
    rfl
  · rw [hraise, stopStrand_stopFrame, hfutures]
    rfl
  · have hk : skey e ≠ skey s.cur := skey_ne hne he hcur
    rw [hraise, getStrand_stopStrand_other _ hk, getStrand_of_strands hstrands]
    exact getStrand_modMe_other _ s hk

end

section
/-!
PROOFS. TRAP and ERET (O14, R122, R123, R362): the return from a handler at a quiet boundary, and the entry that TRAP makes.
-/

namespace Sys2Proof.Machine

open Sys2Proof.Safety

/-- R97: a change of the executing strand that leaves it quiet is all that its boundary sees. -/
theorem boundary_modMe_quiet {s : State} {f : Strand → Strand} (h : Quiet (f (me s))) :
    boundary s.cur (modMe f s) = modMe f s := by
  have hme : getStrand (modMe f s) (skey s.cur) = f (me s) := me_modMe f s
  have hquiet : takePending (routeOf (modMe f s) s.cur) (f (me s)) = f (me s) := takePending_quiet _ h
  obtain ⟨hhalting, -⟩ := id h
  rw [boundary, hme, hhalting, if_neg Bool.false_ne_true]
  exact (modStrand_modStrand ..).trans (modMe_congr_me hquiet)

/-- R362: with no cause latched and no HALT, the strand that ERET leaves is quiet. -/
theorem returned_quiet {t : Strand} {priv : Bool} (hn : t.halting = false) (ht : t.timerDue = false) (hw : t.wakeDue = false)
    (hl : lowestPending t = none) :
    Quiet { t with handler := false, uvec := false, priv := priv, wait := none, flight := none, pc := t.trappc } :=
  ⟨hn, ht, hw, .inr hl⟩

/-- R271: with no edge due the boundary is that of the strand alone. -/
theorem boundaryEdge_none {bk : Nat} {s : State} (h : edgeOf s bk = none) : boundaryEdge bk s = boundary s.cur s := by
  rw [boundaryEdge, h]

section
variable {g : Guard} {s : State} (hg : guardVal g s = true)
include hg

theorem exec_eret_handler (hh : (me s).handler = true) :
    exec (.eret g) s = .next (boundaryEdge (boothOf s s.cur.site) (returnFrom s)) :=
  (if_pos hg).trans (if_neg (by rw [hh]; decide))

theorem exec_eret_thread (hh : (me s).handler = false) : exec (.eret g) s = .next (raise .illegal (me s).pc s) :=
  (if_pos hg).trans (if_pos (by rw [hh]; rfl))

/-- R122: outside a handler TRAP enters its vector with the next PC in TRAPPC. -/
theorem exec_trap (n : BitVec 32) (hh : (me s).handler = false) (hn : (me s).halting = false) :
    exec (.trap g n) s = .next (vectored .break_ ((me s).pc + 12) (n.zeroExtend 64) 4 (raised s)) :=
  (if_pos hg).trans (congrArg _ ((raiseAt_vectored hh hn).trans (if_neg (by decide))))

end

end Sys2Proof.Machine
end

section
open Sys2Proof Sys2Proof.Machine Sys2Proof.Safety

/-- Settles O14: ERET by the boundary after the return, TRAP by the one change of its strand. -/
theorem trapAndEret : Obligations.TrapAndEret := by
  unfold Obligations.TrapAndEret
  refine ⟨fun g s hg => ⟨fun hh => exec_eret_handler hg hh, fun hh => exec_eret_thread hg hh,
    fun hh hn ht hw hl he => ?_⟩, fun g n s hg hh hn => ?_⟩
  · rw [exec_eret_handler hg hh, boundaryEdge_none he]
    exact congrArg _ (boundary_modMe_quiet (returned_quiet hn ht hw hl))
  · have hme : me (vectored .break_ ((me s).pc + 12) (n.zeroExtend 64) 4 (raised s)) = _ :=
      (me_modMe ..).trans (by rw [raised, me_modMe])
    refine ⟨_, exec_trap hg n hh hn, sameBut_modMe_of _ (sameBut_modMe _ s), ?_⟩
    rw [hme]
    exact ⟨rfl, rfl, rfl, rfl, rfl, rfl, rfl, rfl, rfl, rfl, rfl⟩

end

section
/-!
PROOFS. What the queue hardware and the completions of other strands leave of a strand that is to stop (O26): a write of local store
can end only an MWAIT, and a landing SYSWR touches only its own strand.
-/

namespace Sys2Proof.Machine

open Sys2Proof.Safety

/-! ### Whether and when a strand runs -/

/-- Two contexts of a strand agree in whether it runs, waits, has an instruction in flight or is to stop, and in when it issues. -/
structure SameRun (t u : Strand) : Prop where
  run : u.run = t.run
  wait : u.wait = t.wait
  flight : u.flight = t.flight
  readyAt : u.readyAt = t.readyAt
  halting : u.halting = t.halting

theorem sameRun_refl (t : Strand) : SameRun t t := ⟨rfl, rfl, rfl, rfl, rfl⟩
theorem sameRun_trans {t u v : Strand} (h : SameRun t u) (h' : SameRun u v) : SameRun t v :=
  ⟨h'.run.trans h.run, h'.wait.trans h.wait, h'.flight.trans h.flight, h'.readyAt.trans h.readyAt, h'.halting.trans h.halting⟩

/-- A strand that waits for nothing and has no instruction in flight but a STOP. -/
def Steady (t : Strand) : Prop := t.wait = none ∧ (t.flight = none ∨ t.flight = some .stop)

theorem steady_of_sameRun {t u : Strand} (h : SameRun t u) (ht : Steady t) : Steady u := by
  rwa [Steady, h.wait, h.flight]

/-- Strand `k`, if it is steady, goes on as before. -/
def RunStays (k : Nat) (s t : State) : Prop := Steady (getStrand s k) → SameRun (getStrand s k) (getStrand t k)

theorem runStays_of_eq {k : Nat} {s t : State} (h : getStrand t k = getStrand s k) : RunStays k s t :=
  fun _ => by rw [h]; exact sameRun_refl _
theorem runStays_trans {k : Nat} {s t u : State} (h : RunStays k s t) (h' : RunStays k t u) : RunStays k s u :=
  fun hs => sameRun_trans (h hs) (h' (steady_of_sameRun (h hs) hs))

/-- The same strand acts, and every steady strand goes on as before. -/
def RunsStay (s t : State) : Prop := t.cur = s.cur ∧ ∀ k, RunStays k s t

theorem runsStay_of_strands {s t : State} (hc : t.cur = s.cur) (h : t.strands = s.strands) : RunsStay s t :=
  ⟨hc, fun k => runStays_of_eq (getStrand_of_strands h k)⟩
theorem runsStay_refl (s : State) : RunsStay s s := runsStay_of_strands rfl rfl
theorem runsStay_trans {s t u : State} (h : RunsStay s t) (h' : RunsStay t u) : RunsStay s u :=
  ⟨h'.1.trans h.1, fun k => runStays_trans (h.2 k) (h'.2 k)⟩
theorem runsStay_foldl {α : Type} {f : State → α → State} (hf : ∀ s a, RunsStay s (f s a)) (l : List α) (s : State) :
    RunsStay s (l.foldl f s) := by
  induction l generalizing s with
  | nil => exact runsStay_refl s
  | cons a r ih => exact runsStay_trans (hf s a) (ih _)

theorem sameRun_endMwait {t u : Strand} (h : SameRun t u) (ht : t.wait = none) : SameRun t (endMwait u) := by
  unfold endMwait
  split
  · next hw =>
    rw [h.wait, ht] at hw
    cases hw
  · exact h

/-- R353: a write touches monitors, and ends no wait but an MWAIT. -/
theorem sameRun_touchStrand (ks : List Nat) {t : Strand} (h : t.wait = none) : SameRun t (touchStrand ks t) := by
  have hmons : SameRun t { t with mons := map4 (fun _ => touchMon ks) t.mons } := ⟨rfl, rfl, rfl, rfl, rfl⟩
  unfold touchStrand
  dsimp only
  split
  · exact sameRun_endMwait hmons h
  · exact hmons

theorem runsStay_writeBytes (l : List (Nat × Byte)) (s : State) : RunsStay s (writeBytes l s) :=
  ⟨rfl, fun k h => by rw [getStrand_writeBytes]; exact sameRun_touchStrand _ h.1⟩

/-! ### The queue hardware (R264, R275, R276, R286) -/

theorem runsStay_of_walk {s t : State} (h : WalkFrame s t) : RunsStay s t := by
  rw [h]
  exact runsStay_of_strands rfl rfl
theorem runsStay_of_agenda {s t : State} (h : AgendaFrame s t) : RunsStay s t := by
  rw [h]
  exact runsStay_of_strands rfl rfl

theorem runsStay_sendFault {die : Nat} {r : BitVec 256} {s t : State} (h : sendFault die r s = some t) : RunsStay s t := by
  unfold sendFault at h
  split at h
  · cases h
    exact runsStay_of_strands (modDie_cur ..) (modDie_strands ..)
  · cases h

theorem runsStay_holdQueue (qk : Nat) (ep : BitVec 32) (va kind : Nat) (store : Bool) (s : State) :
    RunsStay s (holdQueue qk ep va kind store s) := by
  unfold holdQueue
  dsimp only
  cases h : sendFault _ _ _ with
  | none => exact runsStay_of_strands rfl rfl
  | some t => exact runsStay_trans (t := modQueue qk _ s) (runsStay_of_strands rfl rfl) (runsStay_sendFault h)

theorem runsStay_holds {qk : Nat} {by_ : Pusher} {s t : State} (h : holds qk by_ s = some t) : RunsStay s t := by
  unfold holds at h
  dsimp only at h
  split at h
  · cases h
  · split at h
    · cases h
      exact runsStay_holdQueue ..
    · split at h
      · cases h
        exact runsStay_trans (runsStay_of_walk (virtWalked_frame ..)) (runsStay_holdQueue ..)
      · cases h

theorem runsStay_stall (qk : Nat) (by_ : Pusher) (s : State) : RunsStay s (stall qk by_ s) := by
  unfold stall
  split <;> exact runsStay_of_strands rfl rfl
theorem runsStay_unstall (qk : Nat) (by_ : Pusher) (s : State) : RunsStay s (unstall qk by_ s) := by
  unfold unstall
  split <;> exact runsStay_of_strands rfl rfl
theorem runsStay_noteMove (bk : Nat) (s : State) : RunsStay s (noteMove bk s) := by
  unfold noteMove
  split <;> exact runsStay_of_strands rfl rfl
theorem runsStay_kickWatch (bk : Nat) (s : State) : RunsStay s (kickWatch bk s) := by
  unfold kickWatch
  split <;> exact runsStay_of_strands rfl rfl
theorem runsStay_modQueue (qk : Nat) (f : Queue → Queue) (s : State) : RunsStay s (modQueue qk f s) :=
  runsStay_of_strands rfl rfl
theorem runsStay_wakeQueue (qk : Nat) (s : State) : RunsStay s (wakeQueue qk s) := runsStay_of_agenda (wakeQueue_frame ..)

theorem runsStay_pushReady (s : State) (qk : Nat) (kind : QKind) (by_ : Pusher) (booth : Nat) :
    RunsStay s (pushReady s qk kind by_ booth).2 := by
  unfold pushReady
  dsimp only
  split
  · exact runsStay_stall ..
  · split
    · next hx =>
      obtain ⟨k, -, hk⟩ := List.exists_of_findSome?_eq_some hx
      exact runsStay_trans (runsStay_holds hk) (runsStay_stall ..)
    · exact runsStay_unstall ..

theorem runsStay_place (qk : Nat) (kind : QKind) (bs : List Byte) (by_ : List Nat) (s : State) :
    RunsStay s (place qk kind bs by_ s) := by
  have ha : OkFrame s Access.st (spillAccess qk (getQueue s qk) (getQueue s qk).tail true s) := virtBytes_frame ..
  unfold place
  dsimp only
  split
  · exact runsStay_trans (runsStay_writeBytes ..) (runsStay_modQueue ..)
  · split
    · exact runsStay_refl s
    · next hx =>
      rw [hx] at ha
      split
      · exact runsStay_trans (runsStay_of_walk ha) (runsStay_trans (runsStay_writeBytes ..) (runsStay_modQueue ..))
      · exact runsStay_refl s

theorem runsStay_placePair (qk key : Nat) (s : State) : RunsStay s (placePair qk key s) := by
  unfold placePair
  dsimp only
  split
  · split
    · exact runsStay_refl s
    · split
      · next hz => exact runsStay_holds hz
      · exact runsStay_trans (runsStay_modQueue qk _ s) (runsStay_trans (runsStay_place ..)
          (runsStay_trans (runsStay_modQueue ..) (runsStay_wakeQueue ..)))
  · exact runsStay_refl s

theorem runsStay_pushTwin (qk : Nat) (kind : QKind) (bs : List Byte) (key booth : Nat) (s : State) :
    RunsStay s (pushTwin qk kind bs key booth s) := by
  have hpair (f : Queue → Queue) : RunsStay s (placePair qk key (modQueue qk f s)) :=
    runsStay_trans (runsStay_modQueue ..) (runsStay_placePair ..)
  unfold pushTwin
  dsimp only
  split
  · exact runsStay_trans (hpair _) (runsStay_of_strands rfl rfl)
  · exact hpair _

/-- R98: a push changes the monitors of strands, and neither their waits nor their instructions. -/
theorem runsStay_push (qk : Nat) (kind : QKind) (bs : List Byte) (by_ : Pusher) (booth : Nat) (s : State) :
    RunsStay s (push qk kind bs by_ booth s) := by
  unfold push
  dsimp only
  refine runsStay_trans ?_ (runsStay_trans (runsStay_wakeQueue ..) (runsStay_trans (runsStay_noteMove ..)
    (runsStay_kickWatch ..)))
  split
  · exact runsStay_trans (runsStay_modQueue ..) (runsStay_pushTwin ..)
  · split
    · exact runsStay_trans (runsStay_modQueue ..) (runsStay_foldl (fun u h =>
        runsStay_trans (runsStay_place ..) (runsStay_trans (runsStay_wakeQueue ..) (runsStay_noteMove ..))) _ _)
    · exact runsStay_trans (runsStay_place ..) (runsStay_modQueue ..)

/-! ### System registers (R124) -/

theorem runsStay_modMe {f : Strand → Strand} {s : State} (h : SameRun (me s) (f (me s))) : RunsStay s (modMe f s) := by
  refine ⟨rfl, fun k _ => ?_⟩
  by_cases hk : k = skey s.cur
  · subst hk
    rw [modMe, getStrand_modStrand_same]
    exact h
  · rw [getStrand_modMe_other _ s hk]
    exact sameRun_refl _

theorem runsStay_semaWrite (v : Word) (s : State) : RunsStay s (semaWrite v s) := by
  unfold semaWrite
  dsimp only
  split
  · exact runsStay_of_strands rfl rfl
  · split
    · rw [freeSema_frame]
      exact runsStay_of_strands rfl rfl
    · exact runsStay_refl s

/-- R124: a write of a system register starts, stops and delays no strand. -/
theorem runsStay_writeSys (r : SysReg) (v : Word) (s : State) : RunsStay s (writeSys r v s) := by
  cases r with
  | trapbase | utrapbase | trapaddr | trappc | quantum | rngsta | rngstb =>
    exact runsStay_modMe ⟨rfl, rfl, rfl, rfl, rfl⟩
  | sema => exact runsStay_semaWrite v s
  | _ => exact runsStay_of_strands rfl rfl

/-- R124: the earlier writes that land leave a steady strand, which has no SYSWR in flight. -/
theorem runStays_landEarlier (k : Nat) (e : SRef) (r : SysReg) (n : Nat) (s : State) : RunStays k s (landEarlier e r n s) := by
  unfold landEarlier
  dsimp only
  generalize List.filter (samePlace s r e) _ = fs
  induction fs generalizing s with
  | nil => exact runStays_of_eq rfl
  | cons f l ih =>
    refine runStays_trans (fun hs => ?_) (ih _)
    dsimp only
    split
    · next q v m due hf =>
      have hk : k ≠ skey f := by
        rintro rfl
        obtain ⟨-, h | h⟩ := hs <;> rw [hf] at h <;> cases h
      have hother : getStrand (inFlight (.sys q v m false) (asStrand f s)) k = getStrand s k :=
        getStrand_modMe_other _ (asStrand f s) hk
      exact runStays_trans (runStays_of_eq hother) ((runsStay_writeSys ..).2 k) hs
    · exact sameRun_refl _

end Sys2Proof.Machine
end

section
/-!
PROOFS. STOP, YIELD and HALT (O26, R119 to R121): the strands that HALT reaches, and the cycle of the tile's clock in which a strand
that is to stop is OFF.
-/

namespace Sys2Proof.Machine

open Sys2Proof.Safety

/-- A fold of which the step for `a` turns `P` into `Q`, while the steps for the others keep each, turns `P` into `Q`. -/
theorem foldl_reaches {σ α : Type} {f : σ → α → σ} {P Q : σ → Prop} {a : α} (hP : ∀ u b, b ≠ a → P u → P (f u b))
    (hat : ∀ u, P u → Q (f u a)) (hQ : ∀ u b, b ≠ a → Q u → Q (f u b)) {l : List α} (hl : l.Nodup) (ha : a ∈ l) {s : σ}
    (hs : P s) : Q (l.foldl f s) := by
  induction l generalizing s with
  | nil => cases ha
  | cons b l ih =>
    obtain ⟨hb, hl⟩ := List.nodup_cons.mp hl
    obtain rfl | ha := List.mem_cons.mp ha
    · exact List.foldlRecOn (motive := Q) l f (hat s hs) fun u hu c hc => hQ u c (fun h => hb (h ▸ hc)) hu
    · exact ih hl ha (hP s b (fun h => hb (h ▸ ha)) hs)

/-- The strands of a tile by their numbers. -/
theorem skey_site_ne {site j k : Nat} (h : j ≠ k) : skey ⟨site, k⟩ ≠ skey ⟨site, j⟩ := by
  simp only [skey]
  omega

/-! ### HALT of the strands of a tile (R120) -/

/-- What HALT does to a strand: it leaves one that is OFF, marks one whose instruction has not completed, and stops any other, of
which a PARKED one leaves its slot. -/
theorem haltStrand_cases (e : SRef) (s : State) :
    ((getStrand s (skey e)).run = .off ∧ haltStrand e s = s) ∨
    ((getStrand s (skey e)).run = .run ∧ uncompleted s e = true ∧
      haltStrand e s = modStrand (skey e) (fun t => { t with halting := true }) s) ∨
    (¬((getStrand s (skey e)).run = .run ∧ uncompleted s e = true) ∧
      ∃ u, haltStrand e s = stopStrand e u ∧ u.strands = s.strands ∧ u.tiles = s.tiles) := by
  unfold haltStrand
  dsimp only
  split
  · next hr => exact .inl ⟨hr, rfl⟩
  · next hr => exact .inr (.inr ⟨by simp [hr], _, rfl, rfl, rfl⟩)
  · next hr =>
    split
    · next hu => exact .inr (.inl ⟨hr, hu, rfl⟩)
    · next hu => exact .inr (.inr ⟨fun h => hu h.2, _, rfl, rfl, rfl⟩)
  · next hr => exact .inr (.inr ⟨fun h => hr h.1, _, rfl, rfl, rfl⟩)

theorem getStrand_haltStrand_other {e : SRef} {k : Nat} (s : State) (h : k ≠ skey e) :
    getStrand (haltStrand e s) k = getStrand s k := by
  obtain ⟨-, hx⟩ | ⟨-, -, hx⟩ | ⟨-, u, hx, hu, -⟩ := haltStrand_cases e s <;> rw [hx]
  · exact getStrand_modStrand_other _ _ h
  · rw [getStrand_stopStrand_other _ h, getStrand_of_strands hu]

theorem haltStrand_tiles (e : SRef) (s : State) : (haltStrand e s).tiles = s.tiles := by
  obtain ⟨-, hx⟩ | ⟨-, -, hx⟩ | ⟨-, u, hx, -, hu⟩ := haltStrand_cases e s <;> rw [hx]
  · rfl
  · rw [stopStrand_stopFrame, hu]

/-- R120: a strand whose tile's clock stands at `c`, before and after a HALT. -/
def HaltReaches (c : Nat) (t t' : Strand) : Prop :=
  (t.run = .run ∧ (t.flight.isSome = true ∨ c + 1 < t.readyAt) → t' = { t with halting := true }) ∧
  (¬(t.run = .run ∧ (t.flight.isSome = true ∨ c + 1 < t.readyAt)) → t'.run = .off)

theorem uncompleted_iff {s : State} {e : SRef} : uncompleted s e = true ↔
    (getStrand s (skey e)).flight.isSome = true ∨ (getTile s e.site).cycle + 1 < (getStrand s (skey e)).readyAt := by
  rw [uncompleted, Bool.or_eq_true, decide_eq_true_iff]

theorem haltStrand_reaches (e : SRef) (s : State) :
    HaltReaches (getTile s e.site).cycle (getStrand s (skey e)) (getStrand (haltStrand e s) (skey e)) := by
  rw [HaltReaches, ← uncompleted_iff]
  obtain ⟨hr, hx⟩ | ⟨hr, hu, hx⟩ | ⟨hn, u, hx, -, -⟩ := haltStrand_cases e s <;> rw [hx]
  · exact ⟨by simp [hr], fun _ => hr⟩
  · exact ⟨fun _ => getStrand_modStrand_same .., fun h => absurd ⟨hr, hu⟩ h⟩
  · exact ⟨fun h => absurd h hn, fun _ => by rw [getStrand_stopStrand_same]; rfl⟩

/-- R120: the HALT of strands 0 to 6 of a tile reaches each of them as it stands. -/
theorem haltTile_reaches (site : Nat) (s : State) {k : Nat} (h : k < 7) :
    HaltReaches (getTile s site).cycle (getStrand s (skey ⟨site, k⟩))
      (getStrand ((List.range 7).foldl (fun u k => haltStrand ⟨site, k⟩ u) s) (skey ⟨site, k⟩)) := by
  refine foldl_reaches (a := k) (f := fun u k => haltStrand ⟨site, k⟩ u)
    (P := fun u => u.tiles = s.tiles ∧ getStrand u (skey ⟨site, k⟩) = getStrand s (skey ⟨site, k⟩))
    (Q := fun u => HaltReaches (getTile s site).cycle (getStrand s (skey ⟨site, k⟩)) (getStrand u (skey ⟨site, k⟩)))
    (fun u j hj hu => ?_) (fun u hu => ?_) (fun u j hj hu => ?_) List.nodup_range (List.mem_range.mpr h) ⟨rfl, rfl⟩
  · obtain ⟨htiles, hstrand⟩ := hu
    exact ⟨(haltStrand_tiles ..).trans htiles, (getStrand_haltStrand_other u (skey_site_ne hj)).trans hstrand⟩
  · obtain ⟨htiles, hstrand⟩ := hu
    have hx := haltStrand_reaches ⟨site, k⟩ u
    rwa [hstrand, getTile_of_tiles htiles] at hx
  · rwa [getStrand_haltStrand_other u (skey_site_ne hj)]

/-! ### The clock of a tile (R14, R119, R120) -/

theorem getStrand_boundary_other {e : SRef} {k : Nat} (s : State) (h : k ≠ skey e) :
    getStrand (boundary e s) k = getStrand s k := by
  obtain ⟨-, hx⟩ | ⟨-, hx⟩ := boundary_cases e s <;> rw [hx]
  · exact getStrand_stopStrand_other _ h
  · exact getStrand_modStrand_other _ _ h

theorem getStrand_next_other {k : Nat} {s : State} (h : k ≠ skey s.cur) : getStrand (next s) k = getStrand s k :=
  (getStrand_boundary_other (e := s.cur) _ h).trans (getStrand_modMe_other _ s h)

section
variable {e : SRef} {k : Nat} (h : k ≠ skey e)
include h

/-- Strand `e` ends its instruction after changes that leave the steady strands. -/
theorem runStays_next {s t : State} (ht : RunsStay (asStrand e s) t) : RunStays k s (next t) :=
  runStays_trans (ht.2 k) (runStays_of_eq (getStrand_next_other (by rw [ht.1]; exact h)))

theorem runStays_completePush (n : Fin 2) (v : Word) (s : State) : RunStays k s (completePush n v (asStrand e s)) := by
  have hready := runsStay_pushReady (asStrand e s) (oqKey (asStrand e s) n) .data (.strand (skey e))
    (myTile (asStrand e s)).booth
  unfold completePush
  dsimp only
  split
  · exact runStays_next h (runsStay_refl _)
  · split
    · exact runStays_next h (runsStay_trans hready (runsStay_push ..))
    · exact hready.2 k

theorem runStays_completeSys (r : SysReg) (v : Word) (n : Nat) (due : Bool) (s : State) :
    RunStays k s (completeSys e r v n due s) := by
  cases due with
  | false => exact runStays_next h (runsStay_refl _)
  | true => exact runStays_trans (runStays_landEarlier k e r n s) (runStays_next h (runsStay_writeSys ..))

theorem runStays_mwaitTouched (s : State) : RunStays k s (mwaitTouched e s) := by
  unfold mwaitTouched
  split
  · refine runStays_of_eq ((getStrand_next_other h).trans ?_)
    rw [wx, getStrand_modMe_other _ _ h, readyIn, getStrand_modMe_other _ _ h]
    rfl
  · exact runStays_of_eq rfl

theorem runStays_mwaitEnd (extra : Nat) (s : State) : RunStays k s (mwaitEnd e extra s) := by
  unfold mwaitEnd mwaitDone
  split
  · refine runStays_of_eq ((getStrand_next_other h).trans ?_)
    rw [wx, getStrand_modMe_other _ _ h, endWait, getStrand_modStrand_other _ _ h]
    rfl
  · exact runStays_of_eq rfl

/-- R14: the completion of one strand's instruction leaves whether and when another steady strand runs. -/
theorem runStays_completeFlight (c : Nat) (s : State) : RunStays k s (completeFlight e c s) := by
  unfold completeFlight
  dsimp only
  split
  · unfold enqueueOnce
    split <;> exact runStays_of_eq rfl
  · exact runStays_of_eq (getStrand_stopStrand_other s h)
  · exact runStays_completePush h _ _ s
  · exact runStays_completeSys h _ _ _ _ s
  · exact runStays_mwaitTouched h s
  · exact runStays_of_eq rfl
  · split
    · exact runStays_of_eq (getStrand_boundary_other s h)
    · exact runStays_of_eq rfl

end

/-- R14: what the clock of a tile, at cycle `c`, does about strand `k`. -/
def strandTimer (site c : Nat) (s : State) (k : Nat) : State :=
  let e : SRef := ⟨site, k⟩
  let t := getStrand s (skey e)
  let s := if t.readyAt ≤ c + 1 then completeFlight e c s else s
  match t.wait with
  | some ⟨.mons, _, _, n⟩ => if t.run = .waitm ∧ limitDue n c then mwaitEnd e (2 ^ 5) s else s
  | _ => s

theorem strandTimers_eq (site : Nat) (s : State) :
    strandTimers site s = (List.range 8).foldl (strandTimer site (getTile s site).cycle) s := rfl

theorem runStays_strandTimer {site j k : Nat} (c : Nat) (s : State) (h : j ≠ k) :
    RunStays (skey ⟨site, k⟩) s (strandTimer site c s j) := by
  have hk : skey ⟨site, k⟩ ≠ skey ⟨site, j⟩ := skey_site_ne h
  have hflight : RunStays (skey ⟨site, k⟩) s
      (if (getStrand s (skey ⟨site, j⟩)).readyAt ≤ c + 1 then completeFlight ⟨site, j⟩ c s else s) := by
    split
    · exact runStays_completeFlight hk c s
    · exact runStays_of_eq rfl
  unfold strandTimer
  dsimp only
  split
  · split
    · exact runStays_trans hflight (runStays_mwaitEnd hk _ _)
    · exact hflight
  · exact hflight

/-- R119, R120: a strand that stops when its tile's clock stands at `c`: its STOP completes, or HALT has reached it and its
instruction does. -/
structure StopsAt (c : Nat) (t : Strand) : Prop where
  run : t.run = .run
  wait : t.wait = none
  due : t.flight = some .stop ∧ t.readyAt ≤ c + 1 ∨ t.flight = none ∧ t.halting = true ∧ t.readyAt = c + 1

theorem StopsAt.steady {c : Nat} {t : Strand} (h : StopsAt c t) : Steady t :=
  ⟨h.wait, h.due.elim (fun hd => .inr hd.1) (fun hd => .inl hd.1)⟩

theorem StopsAt.of_sameRun {c : Nat} {t u : Strand} (ht : StopsAt c t) (h : SameRun t u) : StopsAt c u :=
  ⟨h.run.trans ht.run, h.wait.trans ht.wait, by rw [h.flight, h.readyAt, h.halting]; exact ht.due⟩

theorem completeFlight_stops {e : SRef} {c : Nat} {s : State} (h : StopsAt c (getStrand s (skey e))) :
    completeFlight e c s = stopStrand e s := by
  obtain ⟨hf, -⟩ | ⟨hf, hh, ha⟩ := h.due
  · simp only [completeFlight, hf]
  · have hstop : boundary e s = stopStrand e s := if_pos hh
    simp only [completeFlight, hf, h.run, ha, hh, hstop, true_or, and_self, if_true]

theorem strandTimer_stops {site c k : Nat} {s : State} (h : StopsAt c (getStrand s (skey ⟨site, k⟩))) :
    strandTimer site c s k = stopStrand ⟨site, k⟩ s := by
  have hready : (getStrand s (skey ⟨site, k⟩)).readyAt ≤ c + 1 := h.due.elim (·.2) (·.2.2.le)
  simp only [strandTimer, h.wait, if_pos hready, completeFlight_stops h]

/-- R14: the clock of the tile stops the strand, and no completion of another strand starts it. -/
theorem strandTimers_stops {e : SRef} {s : State} (he : e.k < 8)
    (h : StopsAt (getTile s e.site).cycle (getStrand s (skey e))) :
    (getStrand (strandTimers e.site s) (skey e)).run = .off := by
  rw [strandTimers_eq]
  refine (foldl_reaches (a := e.k) (f := strandTimer e.site (getTile s e.site).cycle)
    (P := fun u => StopsAt (getTile s e.site).cycle (getStrand u (skey e)))
    (Q := fun u => (getStrand u (skey e)).run = .off ∧ Steady (getStrand u (skey e)))
    (fun u j hj hu => ?_) (fun u hu => ?_) (fun u j hj hu => ?_) List.nodup_range (List.mem_range.mpr he) h).1
  · exact hu.of_sameRun (runStays_strandTimer _ u hj hu.steady)
  · have hblank : getStrand (strandTimer e.site (getTile s e.site).cycle u e.k) (skey e) = Strand.blank (skey e) := by
      rw [strandTimer_stops hu, getStrand_stopStrand_same]
    rw [hblank]
    exact ⟨rfl, rfl, .inl rfl⟩
  · obtain ⟨hoff, hsteady⟩ := hu
    have hsame := runStays_strandTimer (site := e.site) (getTile s e.site).cycle u hj hsteady
    exact ⟨hsame.run.trans hoff, steady_of_sameRun hsame hsteady⟩

/-! ### The instructions -/

section
variable {g : Guard} {s : State} (hg : guardVal g s = true)
include hg

theorem exec_stop (hk : s.cur.k ≠ 7) : exec (.stop g) s = .next (inFlight .stop s) := (if_pos hg).trans (if_neg hk)
theorem exec_stop_reserve (hk : s.cur.k = 7) : exec (.stop g) s = .next (raise .illegal (me s).pc s) :=
  (if_pos hg).trans (if_pos hk)

theorem exec_yield_short {b : XOpnd} (h : (rxo s b).toNat ≤ 1) : exec (.yield g b) s = .next (next s) :=
  (if_pos hg).trans (if_pos ((Nat.min_le_left ..).trans h))
theorem exec_yield_pause {b : XOpnd} (h : 1 < (rxo s b).toNat) :
    exec (.yield g b) s = .next (inFlight .pause (readyIn (min (rxo s b).toNat 65535 + 1) s)) :=
  (if_pos hg).trans (if_neg (by omega))

theorem exec_halt (hp : (me s).priv = true) : exec (.halt g) s =
    let s' := (List.range 7).foldl (fun u k => haltStrand ⟨s.cur.site, k⟩ u) s
    if s.cur.k = 7 then .next (next s') else .next s' := (if_pos hp).trans (if_pos hg)

end

end Sys2Proof.Machine
end

section
open Sys2Proof Sys2Proof.Machine Sys2Proof.Safety

/-- Settles O26: the instructions by their cases; the strands that stop by the HALT of the tile and the tile's clock. -/
theorem stopYieldAndHalt : Obligations.StopYieldAndHalt := by
  unfold Obligations.StopYieldAndHalt
  refine ⟨⟨fun g s hg hk => exec_stop hg hk, fun g s hg hk => exec_stop_reserve hg hk,
      fun e s _ => getStrand_stopStrand_same e s,
      fun e s he hr hf ha hw => strandTimers_stops he ⟨hr, hw, .inl ⟨hf, ha⟩⟩⟩,
    ⟨fun g b s hg h => exec_yield_short hg h, fun g b s hg h => ?_, fun e s hf ha => if_pos ⟨hf, ha⟩⟩,
    fun g s hg hp _ => ⟨fun hk => (exec_halt hg hp).trans (if_pos hk), fun hk => (exec_halt hg hp).trans (if_neg hk),
      fun k hk => haltTile_reaches s.cur.site s hk⟩,
    fun e s he hr hf hh ha hw => strandTimers_stops he ⟨hr, hw, .inr ⟨hf, hh, ha⟩⟩⟩
  exact (exec_yield_pause hg h).trans (congrArg _ (modMe_modMe ..))

end

section
/-!
PROOFS. O38: poison (R178): what a load of it raises, what its report leaves, and which writes clear it.
-/

namespace Sys2Proof.Machine

open Sys2Proof.Safety

/-- A load through a lane that holds a poisoned word raises UNCORR with its address. -/
theorem completeMem_poisoned {i : Instr} {ln : Lane} {s : State} {w : Nat} (ord : Nat) (hi : isLoad i = true)
    (hp : NothingHandedOff s) (hw : poisonRead s ln.keys = some w) :
    completeMem i [ln] ord s = raiseLate .uncorr (poisonAddr ln w) s := by
  have hmet : ([ln].findSome? fun l => (poisonRead s l.keys).map (poisonAddr l)) = some (poisonAddr ln w) := by
    rw [List.findSome?_singleton, hw, Option.map_some]
  unfold completeMem
  dsimp only
  rw [drainFor_own _ _ hp]
  cases i with
  | ld | ldv | gath => simp only [isLoad, hmet, if_true]
  | _ => cases hi

/-- R178: a write clears the poison of the words all of whose bytes it writes, and of no other. -/
theorem mem_poison_writeBytes {l : List (Nat × Byte)} {s : State} {w : Nat} :
    w ∈ (writeBytes l s).poison ↔ w ∈ s.poison ∧ ¬∀ k ∈ keysFrom w 8, k ∈ l.map (·.1) := by
  show w ∈ s.poison.filter _ ↔ _
  rw [List.mem_filter, Bool.not_eq_true', ← Bool.not_eq_true, List.all_eq_true]
  simp only [List.contains_iff_mem]

/-- R376: the recovery of a tile's booth names its job and booth. -/
theorem recoveryOf_booth {s : State} {site : Nat} (h : (getTile s site).booth ≠ 0) :
    recoveryOf s site = .boothRecovery (getTile s site).job.toNat (getTile s site).booth := by
  rw [recoveryOf, if_neg fun h' => h h'.2]

theorem logTo_internal (die : Nat) (rs : List (BitVec 512)) (s : State) : (logTo die rs s).internal = s.internal := by
  rw [logTo_frame]

/-- R178: the report of poison is a record of the log, and the recovery of the strand's booth on its way. -/
theorem execPoisonReport_logs (e : SRef) (addr : Nat) (s : State) : ∃ rs,
    execPoisonReport e addr s = .next (enqueue (recoveryOf s e.site) (logTo (dieOf e.site) rs s)) := ⟨_, rfl⟩

end Sys2Proof.Machine
end

section
open Sys2Proof Sys2Proof.Machine Sys2Proof.Safety

/-- Settles O38: the load and the write by what `completeMem` and `writeBytes` do, the report by what a record of the log
leaves. -/
theorem poisonStopsLoadsAndIsReported : Obligations.PoisonStopsLoadsAndIsReported := by
  unfold Obligations.PoisonStopsLoadsAndIsReported
  refine ⟨fun g h sz sgn o d m a ks so w s hp hw => completeMem_poisoned (ln := ⟨0, a, ks⟩) so rfl hp hw,
    fun e addr s => ?_, fun l s w => mem_poison_writeBytes⟩
  obtain ⟨rs, hr⟩ := execPoisonReport_logs e addr s
  have hagenda : (logTo (dieOf e.site) rs s).internal ++ [recoveryOf s e.site] = s.internal ++ [recoveryOf s e.site] := by
    rw [logTo_internal]
  exact ⟨_, hr, hagenda, fun hb => recoveryOf_booth hb ▸ hagenda, logTo_strands _ rs s,
    fun hm k hk => cellGet_logTo _ rs s k hm hk⟩

end

section
/-!
PROOFS. O57: the host ports, their queues and their completion queues, and the entries that a completion queue takes or
holds (R283, R383).
-/

namespace Sys2Proof.Machine

open Sys2Proof.Safety

/-! ### Ports and their queues -/

theorem getPort_of_ports {s t : State} (h : t.ports = s.ports) (p : Nat) : getPort t p = getPort s p := by
  rw [getPort, getPort, h]
theorem getHq_of_hqs {s t : State} {p : Nat} (h : (getPort t p).hqs = (getPort s p).hqs) (q : Nat) :
    getHq t p q = getHq s p q := by rw [getHq, getHq, h]
theorem getHcq_of_hcqs {s t : State} {p : Nat} (h : (getPort t p).hcqs = (getPort s p).hcqs) (m : Nat) :
    getHcq t p m = getHcq s p m := by rw [getHcq, getHcq, h]
theorem getHq_of_ports {s t : State} (h : t.ports = s.ports) (p q : Nat) : getHq t p q = getHq s p q :=
  getHq_of_hqs (congrArg Port.hqs (getPort_of_ports h p)) q
theorem getHcq_of_ports {s t : State} (h : t.ports = s.ports) (p m : Nat) : getHcq t p m = getHcq s p m :=
  getHcq_of_hcqs (congrArg Port.hcqs (getPort_of_ports h p)) m

/-- A relation that every port has to itself and to what `f` makes of it holds after `f` has changed a port. -/
theorem portRel_modPort {R : Port → Port → Prop} (hrefl : ∀ t, R t t) {f : Port → Port} (hf : ∀ t, R t (f t))
    (p n : Nat) (s : State) : R (getPort s n) (getPort (modPort p f s) n) := by
  by_cases hn : n = p
  · subst hn
    by_cases hp : n < 2
    · rw [getPort_modPort_same f s hp]
      exact hf _
    · rw [modPort, dif_neg hp]
      exact hrefl _
  · rw [getPort_modPort_other f s hn]
    exact hrefl _

theorem modPort_field {β : Type} (g : Port → β) {f : Port → Port} (hf : ∀ t, g (f t) = g t) (p n : Nat) (s : State) :
    g (getPort (modPort p f s) n) = g (getPort s n) :=
  portRel_modPort (R := fun t u => g u = g t) (fun _ => rfl) hf p n s

theorem getHq_modHq_same {p : Nat} (hp : p < 2) (q : Nat) (f : HostQueue → HostQueue) (s : State) :
    getHq (modHq p q f s) p q = f (getHq s p q) := by
  rw [getHq, modHq, getPort_modPort_same _ _ hp]
  exact tget_tset_same ..
theorem getHcq_modHcq_same {p : Nat} (hp : p < 2) (m : Nat) (f : HostCq → HostCq) (s : State) :
    getHcq (modHcq p m f s) p m = f (getHcq s p m) := by
  rw [getHcq, modHcq, getPort_modPort_same _ _ hp]
  exact tget_tset_same ..

theorem modHq_frame (p q : Nat) (f : HostQueue → HostQueue) (s : State) :
    modHq p q f s = { s with ports := (modHq p q f s).ports } := modPort_frame ..
theorem modHq_hcqs (p q n : Nat) (f : HostQueue → HostQueue) (s : State) :
    (getPort (modHq p q f s) n).hcqs = (getPort s n).hcqs := modPort_field Port.hcqs (fun _ => by rfl) ..
theorem modHq_up (p q n : Nat) (f : HostQueue → HostQueue) (s : State) :
    (getPort (modHq p q f s) n).up = (getPort s n).up := modPort_field Port.up (fun _ => by rfl) ..

/-- A relation that every completion queue has to itself and to what `f` makes of it holds after `f` has changed a queue. -/
theorem hcqRel_modHcq {R : HostCq → HostCq → Prop} (hrefl : ∀ q, R q q) {f : HostCq → HostCq} (hf : ∀ q, R q (f q))
    (p m n k : Nat) (s : State) : R (getHcq s n k) (getHcq (modHcq p m f s) n k) := by
  refine portRel_modPort (R := fun t u => R (tget HostCq.off t.hcqs k) (tget HostCq.off u.hcqs k)) (fun _ => hrefl _)
    (fun t => ?_) p n s
  show R _ (tget HostCq.off (tset t.hcqs m (f (tget HostCq.off t.hcqs m))) k)
  rw [tget_tset]
  split
  · next h => exact h ▸ hf _
  · exact hrefl _

/-- A field of an entry of a table whose every value `f` changes. -/
theorem tget_map_field {α β : Type} (g : α → β) {f : α → α} {d : α} (hd : g (f d) = g d) (t : Tab α) (k : Nat) :
    g (tget d (t.map fun p => (p.1, f p.2)) k) = g (f (tget d t k)) := by
  rw [tget, tget, lookup_map t (fun p => f p.2) k]
  cases lookup t k with
  | none => exact hd.symm
  | some v => rfl

/-! ### What an entry leaves of the ports -/

/-- The link, the host queues and the released positions stay. -/
structure PortStay (t u : Port) : Prop where
  up : u.up = t.up
  hqs : u.hqs = t.hqs
  rel : ∀ m, (tget HostCq.off u.hcqs m).rel = (tget HostCq.off t.hcqs m).rel

theorem portStay_refl (t : Port) : PortStay t t := ⟨rfl, rfl, fun _ => rfl⟩
theorem portStay_trans {t u v : Port} (h : PortStay t u) (h' : PortStay u v) : PortStay t v :=
  ⟨h'.up.trans h.up, h'.hqs.trans h.hqs, fun m => (h'.rel m).trans (h.rel m)⟩

/-- They do of every port. -/
def PortsStay (s t : State) : Prop := ∀ n, PortStay (getPort s n) (getPort t n)

theorem portsStay_refl (s : State) : PortsStay s s := fun _ => portStay_refl _
theorem portsStay_trans {s t u : State} (h : PortsStay s t) (h' : PortsStay t u) : PortsStay s u :=
  fun n => portStay_trans (h n) (h' n)
theorem portsStay_of_ports {s t : State} (h : t.ports = s.ports) : PortsStay s t :=
  fun n => by rw [getPort_of_ports h]; exact portStay_refl _

theorem portsStay_modHcq {f : HostCq → HostCq} (hf : ∀ q, (f q).rel = q.rel) (p m : Nat) (s : State) :
    PortsStay s (modHcq p m f s) := fun n =>
  ⟨modPort_field Port.up (fun _ => by rfl) .., modPort_field Port.hqs (fun _ => by rfl) ..,
    fun k => hcqRel_modHcq (R := fun q r => r.rel = q.rel) (fun _ => rfl) hf p m n k s⟩

/-- A completion queue holds, first, the entries that it held. -/
def HoldsMore (q r : HostCq) : Prop := ∃ more, r.held = q.held ++ more

theorem holdsMore_of_eq {q r : HostCq} (h : r.held = q.held) : HoldsMore q r := ⟨[], by rw [h, List.append_nil]⟩
theorem holdsMore_trans {q r u : HostCq} (h : HoldsMore q r) (h' : HoldsMore r u) : HoldsMore q u := by
  obtain ⟨l, hl⟩ := h
  obtain ⟨l', hl'⟩ := h'
  exact ⟨l ++ l', by rw [hl', hl, List.append_assoc]⟩

/-- Every completion queue does. -/
def HeldGrows (s t : State) : Prop := ∀ n m, HoldsMore (getHcq s n m) (getHcq t n m)

theorem heldGrows_refl (s : State) : HeldGrows s s := fun _ _ => holdsMore_of_eq rfl
theorem heldGrows_trans {s t u : State} (h : HeldGrows s t) (h' : HeldGrows t u) : HeldGrows s u :=
  fun n m => holdsMore_trans (h n m) (h' n m)
theorem heldGrows_of_ports {s t : State} (h : t.ports = s.ports) : HeldGrows s t :=
  fun n m => holdsMore_of_eq (by rw [getHcq_of_ports h])
theorem heldGrows_modHcq {f : HostCq → HostCq} (hf : ∀ q, HoldsMore q (f q)) (p m : Nat) (s : State) :
    HeldGrows s (modHcq p m f s) := fun n k => hcqRel_modHcq (fun _ => holdsMore_of_eq rfl) hf p m n k s

theorem logTo_ports (die : Nat) (rs : List (BitVec 512)) (s : State) : (logTo die rs s).ports = s.ports := by
  rw [logTo_frame]

/-! ### An entry (R283, R383) -/

/-- R283, R383: the queue takes an entry at once. -/
def HcqTakes (s : State) (p m : Nat) : Prop :=
  (getPort s p).up = true ∧ (getHcq s p m).en = true ∧ (getHcq s p m).held = [] ∧
    (BitVec.ofNat 32 (getHcq s p m).pos - (getHcq s p m).rel).toNat < 2 ^ (getHcq s p m).logsize

/-- R383: the place of the next entry. -/
def hcqKeys (q : HostCq) : List Nat := keysFrom (hostKey (q.base.toNat + 32 * (q.pos % 2 ^ q.logsize))) 32

/-- R277: an entry with its sequence tag. -/
def withTag (en : BitVec 256) (seq : Nat) : BitVec 256 := (en &&& ~~~(0xFF000000#256)) ||| (BitVec.ofNat 256 seq <<< 24)

/-- The entry at its place, and the position moved on. -/
def hcqWritten (p m : Nat) (en : BitVec 256) (s : State) : State :=
  modHcq p m (fun q => { q with pos := q.pos + 1 })
    (writeNat (hcqKeys (getHcq s p m)) (withTag en ((getHcq s p m).pos % 255 + 1)).toNat s)

theorem hcqPut_taken {p m : Nat} {s : State} (h : HcqTakes s p m) (en : BitVec 256) : hcqPut p m en s =
    if (getHcq s p m).ien then sendMsix p (getHcq s p m).vector (hcqWritten p m en s) else hcqWritten p m en s := if_pos h
theorem hcqPut_held {p m : Nat} {s : State} (h : ¬HcqTakes s p m) (en : BitVec 256) :
    hcqPut p m en s = modHcq p m (fun q => { q with held := q.held ++ [en] }) s := if_neg h

theorem writeNat_ports (ks : List Nat) (v : Nat) (s : State) : (writeNat ks v s).ports = s.ports := rfl

theorem sendMsix_hcqs (p v n : Nat) (s : State) : (getPort (sendMsix p v s) n).hcqs = (getPort s n).hcqs := by
  unfold sendMsix
  split
  · exact modPort_field Port.hcqs (fun _ => by rfl) ..
  · rfl

theorem sendMsix_portsStay (p v : Nat) (s : State) : PortsStay s (sendMsix p v s) := by
  unfold sendMsix
  split
  · exact fun n => portRel_modPort portStay_refl (fun _ => by exact ⟨rfl, rfl, fun _ => rfl⟩) p n s
  · exact portsStay_of_ports rfl

theorem hcqPut_portsStay (p m : Nat) (en : BitVec 256) (s : State) : PortsStay s (hcqPut p m en s) := by
  by_cases h : HcqTakes s p m
  · have hw : PortsStay s (hcqWritten p m en s) := by
      rw [hcqWritten]
      exact portsStay_trans (portsStay_of_ports (writeNat_ports ..)) (portsStay_modHcq (fun _ => by rfl) p m _)
    rw [hcqPut_taken h]
    split
    · exact portsStay_trans hw (sendMsix_portsStay _ _ _)
    · exact hw
  · rw [hcqPut_held h]
    exact portsStay_modHcq (fun _ => by rfl) p m s

theorem hcqPut_heldGrows (p m : Nat) (en : BitVec 256) (s : State) : HeldGrows s (hcqPut p m en s) := by
  by_cases h : HcqTakes s p m
  · have hw : HeldGrows s (hcqWritten p m en s) := by
      rw [hcqWritten]
      exact heldGrows_trans (heldGrows_of_ports (writeNat_ports ..))
        (heldGrows_modHcq (fun _ => by exact holdsMore_of_eq rfl) p m _)
    rw [hcqPut_taken h]
    split
    · exact heldGrows_trans hw fun n k => holdsMore_of_eq (by rw [getHcq_of_hcqs (sendMsix_hcqs ..)])
    · exact hw
  · rw [hcqPut_held h]
    exact heldGrows_modHcq (fun _ => by exact ⟨[en], rfl⟩) p m s

theorem hcqPut_pos {p m : Nat} (hp : p < 2) {s : State} (h : HcqTakes s p m) (en : BitVec 256) :
    (getHcq (hcqPut p m en s) p m).pos = (getHcq s p m).pos + 1 := by
  have hw : (getHcq (hcqWritten p m en s) p m).pos = (getHcq s p m).pos + 1 := by
    rw [hcqWritten, getHcq_modHcq_same hp, getHcq_of_ports (writeNat_ports ..)]
  rw [hcqPut_taken h]
  split
  · rw [getHcq_of_hcqs (sendMsix_hcqs ..), hw]
  · exact hw

/-- An entry that the queue takes is read back at its place, with its tag. -/
theorem readNat_hcqPut {p m : Nat} {s : State} (h : HcqTakes s p m) (en : BitVec 256) (hm : MemInv s) :
    readNat (hcqPut p m en s) (hcqKeys (getHcq s p m)) = (withTag en ((getHcq s p m).pos % 255 + 1)).toNat := by
  have hmem : (hcqPut p m en s).mem =
      (writeNat (hcqKeys (getHcq s p m)) (withTag en ((getHcq s p m).pos % 255 + 1)).toNat s).mem := by
    rw [hcqPut_taken h]
    split
    · rw [sendMsix_mem, hcqWritten, modHcq_frame]
    · rw [hcqWritten, modHcq_frame]
  rw [readNat_of_mem hmem, readNat_writeNat _ (by exact keysFrom_nodup ..) hm, hcqKeys, length_keysFrom]
  exact Nat.mod_eq_of_lt (BitVec.isLt _)

/-! ### The tag (R277, R383) -/

theorem withTag_tag (en : BitVec 256) {seq : Nat} (h : seq < 2 ^ 8) : (withTag en seq).toNat / 2 ^ 24 % 2 ^ 8 = seq := by
  have hf : (withTag en seq).extractLsb' 24 8 = BitVec.ofNat 8 seq := by
    rw [withTag, BitVec.extractLsb'_or, BitVec.extractLsb'_and,
      show (~~~(0xFF000000#256)).extractLsb' 24 8 = 0#8 by decide, BitVec.and_zero, BitVec.zero_or]
    refine BitVec.eq_of_getLsbD_eq fun i hi => ?_
    simp only [BitVec.getLsbD_extractLsb', BitVec.getLsbD_shiftLeft, BitVec.getLsbD_ofNat, hi,
      show 24 + i < 256 by omega, show i < 256 by omega, show ¬24 + i < 24 by omega, Nat.add_sub_cancel_left, decide_true,
      decide_false, Bool.not_false, Bool.true_and]
  have ht := congrArg BitVec.toNat hf
  rwa [BitVec.extractLsb'_toNat, Nat.shiftRight_eq_div_pow, BitVec.toNat_ofNat, Nat.mod_eq_of_lt h] at ht

theorem withTag_below (en : BitVec 256) (seq : Nat) : (withTag en seq).toNat % 2 ^ 24 = en.toNat % 2 ^ 24 := by
  have hf : (withTag en seq).extractLsb' 0 24 = en.extractLsb' 0 24 := by
    rw [withTag, BitVec.extractLsb'_or, BitVec.extractLsb'_and,
      show (~~~(0xFF000000#256)).extractLsb' 0 24 = BitVec.allOnes 24 by decide, BitVec.and_allOnes]
    ext i hi
    simp [hi]
  have ht := congrArg BitVec.toNat hf
  rwa [BitVec.extractLsb'_toNat, BitVec.extractLsb'_toNat, Nat.shiftRight_zero, Nat.shiftRight_zero] at ht

theorem withTag_above (en : BitVec 256) {seq : Nat} (h : seq < 2 ^ 8) :
    (withTag en seq).toNat / 2 ^ 32 = en.toNat / 2 ^ 32 := by
  have hf : (withTag en seq).extractLsb' 32 224 = en.extractLsb' 32 224 := by
    rw [withTag, BitVec.extractLsb'_or, BitVec.extractLsb'_and,
      show (~~~(0xFF000000#256)).extractLsb' 32 224 = BitVec.allOnes 224 by decide, BitVec.and_allOnes]
    ext i hi
    have hbit : seq.testBit (32 + i - 24) = false :=
      Nat.testBit_lt_two_pow (h.trans_le (Nat.pow_le_pow_right (by decide) (by omega)))
    simp only [BitVec.getElem_or, BitVec.getElem_extractLsb', BitVec.getLsbD_shiftLeft, BitVec.getLsbD_ofNat, hbit,
      Bool.and_false, Bool.or_false]
  have ht := congrArg BitVec.toNat hf
  have hlt (x : BitVec 256) : x.toNat / 2 ^ 32 % 2 ^ 224 = x.toNat / 2 ^ 32 :=
    Nat.mod_eq_of_lt (Nat.div_lt_of_lt_mul x.isLt)
  rwa [BitVec.extractLsb'_toNat, BitVec.extractLsb'_toNat, Nat.shiftRight_eq_div_pow, Nat.shiftRight_eq_div_pow, hlt, hlt] at ht

end Sys2Proof.Machine
end

section
/-!
PROOFS. O57: what the units that go on after an entry leave (R283, R385): nothing they do changes a port but for the
entries that they write.
-/

namespace Sys2Proof.Machine

open Sys2Proof.Safety

/-! ### What entries keep -/

/-- A fact that concerns the ports alone and that every entry keeps. -/
structure KeptByEntries (I : State → Prop) : Prop where
  put : ∀ p m en {s : State}, I s → I (hcqPut p m en s)
  of_ports : ∀ {s t : State}, t.ports = s.ports → I s → I t

theorem keptByEntries_portsStay (s : State) : KeptByEntries (PortsStay s) :=
  ⟨fun p m en t h => portsStay_trans h (hcqPut_portsStay p m en t), fun hp h => portsStay_trans h (portsStay_of_ports hp)⟩
theorem keptByEntries_heldGrows (s : State) : KeptByEntries (HeldGrows s) :=
  ⟨fun p m en t h => heldGrows_trans h (hcqPut_heldGrows p m en t), fun hp h => heldGrows_trans h (heldGrows_of_ports hp)⟩

theorem enqueueOnce_agenda (i : Instr) (s : State) : AgendaFrame s (enqueueOnce i s) := by
  unfold enqueueOnce
  split <;> rfl
theorem ports_of_agenda {s t : State} (h : AgendaFrame s t) : t.ports = s.ports := by rw [h]
theorem enqueueOnce_ports (i : Instr) (s : State) : (enqueueOnce i s).ports = s.ports :=
  ports_of_agenda (enqueueOnce_agenda i s)
theorem dropRecords_ports (e : SRef) (s : State) : (dropRecords e s).ports = s.ports := by
  unfold dropRecords
  dsimp only
  split <;> rfl
theorem loadImage_ports (b : Booth) (s : State) : (loadImage b s).ports = s.ports :=
  foldl_keeps State.ports (fun _ _ => by rfl) _ s
theorem startBooth_ports (b : Booth) (s : State) : (startBooth b s).ports = s.ports :=
  (foldl_keeps State.ports (fun _ _ => by rfl) _ _).trans (foldl_keeps State.ports (fun _ _ => by rfl) _ s)

section
variable {I : State → Prop} (hI : KeptByEntries I)
include hI

theorem hostPost_keeps (job : BitVec 16) (en : BitVec 256) {s : State} (h : I s) : I (hostPost job en s) := by
  unfold hostPost
  dsimp only
  split
  · exact h
  · exact hI.put _ _ _ h

theorem reportDone_keeps (bk : Nat) {s : State} (h : I s) : I (reportDone bk s) := by
  unfold reportDone
  dsimp only
  split
  · refine hostPost_keeps hI _ _ (hI.of_ports (ports_of_agenda (setYards_frame ..)) ?_)
    exact hI.of_ports (s := s) rfl h
  · exact h

theorem stopStrand_keeps (e : SRef) {s : State} (h : I s) : I (stopStrand e s) := by
  have hr : I (reportDone (boothOf s e.site) (dropRecords e (setStrand s (skey e) (Strand.blank (skey e))))) :=
    reportDone_keeps hI _ (hI.of_ports ((dropRecords_ports ..).trans (setStrand_ports ..)) h)
  unfold stopStrand
  dsimp only
  split
  · exact hI.of_ports (enqueue_ports ..) hr
  · exact hr

theorem flushBooth_keeps (bk : Nat) {s : State} (h : I s) : I (flushBooth bk s) := by
  have hs : I ((boothStrands (getBooth s bk)).foldl (fun s e => stopStrand e s) (freeSlots (getBooth s bk) s)) :=
    List.foldlRecOn _ _ (hI.of_ports (s := s) rfl h) fun _ hu e _ => stopStrand_keeps hI e hu
  refine hI.of_ports (t := flushBooth bk s) ?_ hs
  exact foldl_keeps State.ports (fun _ _ => by rfl) _ _

theorem installVersion_keeps (bk : Nat) {s : State} (h : I s) : I (installVersion bk s) := by
  unfold installVersion
  dsimp only
  split
  · exact h
  · refine hI.put _ _ _ (hI.of_ports (startBooth_ports ..) (hI.of_ports (s := loadImage _ _) rfl
      (hI.of_ports (loadImage_ports ..) (flushBooth_keeps hI bk ?_))))
    exact hI.of_ports (s := s) rfl h

theorem enqueueOnce_keeps (i : Instr) {s : State} (h : I s) : I (enqueueOnce i s) :=
  hI.of_ports (enqueueOnce_ports i s) h

theorem serveNext_keeps (n q : Nat) (r : HostReq) {s : State} (h : I s) : I (serveNext n q r s) := by
  induction n generalizing s with
  | zero => exact h
  | succ n ih =>
    rw [serveNext]
    split
    · exact h
    · split
      · exact h
      · split
        · exact ih (hI.put _ _ _ (hI.of_ports (s := s) rfl h))
        · split
          · exact enqueueOnce_keeps hI _ h
          · exact h

theorem deliverReq_keeps (q : Nat) (r : HostReq) {s : State} (h : I s) : I (deliverReq q r s) := by
  have hs : I { s with requests := s.requests ++ [(q, r)] } := hI.of_ports (s := s) rfl h
  unfold deliverReq
  dsimp only
  split
  · exact serveNext_keeps hI _ q r hs
  · exact hs

end

/-! ### The units that go on (R283, R385) -/

/-- The stewards go on with their requests. -/
def stewardsGoOn (s : State) : State := s.requests.foldl (fun s t => serveNext s.requests.length t.1 t.2 s) s

/-- The carters go on with their commands and host queues. -/
def cartersGoOn (s : State) : State :=
  let s := { s with internal := s.internal ++ (s.carters.filter fun c => c.2.queue != []).flatMap fun c =>
    [Instr.carterChunk c.1, Instr.carterCommandComplete c.1] }
  [0, 1].foldl (fun s p => ((getPort s p).hqs.filter fun q => q.2.en && q.2.pos != q.2.kick).foldl (fun s q =>
    enqueueOnce (.hostEntryReread p q.1) s) s) s

theorem wakeWriters_eq (s : State) : wakeWriters s = cartersGoOn
    (((stewardsGoOn s).booths.filter fun b => b.2.halted).foldl (fun s b => installVersion b.1 s) (stewardsGoOn s)) := rfl

theorem cartersGoOn_frame (s : State) : AgendaFrame s (cartersGoOn s) := by
  unfold cartersGoOn
  refine agendaFrame_trans ?_ (agendaFrame_foldl (fun u p => agendaFrame_foldl (fun v q => enqueueOnce_agenda _ v) _ u) _ _)
  rfl

theorem wakeWriters_keeps {I : State → Prop} (hI : KeptByEntries I) {s : State} (h : I s) : I (wakeWriters s) := by
  have hs : I (stewardsGoOn s) := List.foldlRecOn _ _ h fun _ hu t _ => serveNext_keeps hI _ t.1 t.2 hu
  rw [wakeWriters_eq]
  exact hI.of_ports (ports_of_agenda (cartersGoOn_frame _))
    (List.foldlRecOn _ _ hs fun _ hu b _ => installVersion_keeps hI b.1 hu)

/-- A fact that entries keep, and the emptying of a completion queue, holds after the queue has written what it held. -/
theorem flushHeld_keeps {I : State → Prop} (hI : KeptByEntries I) {p m : Nat} {s : State}
    (hempty : I (modHcq p m (fun q => { q with held := [] }) s)) (h : I s) : I (flushHeld p m s) := by
  unfold flushHeld
  dsimp only
  split
  · exact h
  · exact wakeWriters_keeps hI (List.foldlRecOn _ _ hempty fun _ hu e _ => hI.put p m e hu)

theorem flushHeld_portsStay (p m : Nat) (s : State) : PortsStay s (flushHeld p m s) :=
  flushHeld_keeps (keptByEntries_portsStay s) (portsStay_modHcq (fun _ => by rfl) p m s) (portsStay_refl s)

/-! ### With no booth that waits for its version -/

/-- No booth has halted for the version that its SHUTTER names. -/
def NoneHalted (s : State) : Prop := ∀ b, b ∈ s.booths → b.2.halted = false

theorem noneHalted_of_booths {s t : State} (h : SameBooths s t) (hs : NoneHalted s) : NoneHalted t := by
  obtain ⟨-, -, hb⟩ := h
  rwa [NoneHalted, hb]

theorem sameBooths_refl (s : State) : SameBooths s s := ⟨rfl, rfl, rfl⟩
theorem sameBooths_of_agenda {s t : State} (h : AgendaFrame s t) : SameBooths s t := by
  rw [h]
  exact ⟨rfl, rfl, rfl⟩

theorem hcqPut_sameBooths (p m : Nat) (en : BitVec 256) (s : State) : SameBooths s (hcqPut p m en s) := by
  refine ⟨hcqPut_strands p m en s, ?_⟩
  rw [hcqPut_frame]
  exact ⟨rfl, rfl⟩

theorem modHcq_sameBooths (p m : Nat) (f : HostCq → HostCq) (s : State) : SameBooths s (modHcq p m f s) := by
  rw [modHcq_frame]
  exact ⟨rfl, rfl, rfl⟩

theorem serveNext_sameBooths (n q : Nat) (r : HostReq) (s : State) : SameBooths s (serveNext n q r s) := by
  induction n generalizing s with
  | zero => exact sameBooths_refl s
  | succ n ih =>
    rw [serveNext]
    split
    · exact sameBooths_refl s
    · split
      · exact sameBooths_refl s
      · split
        · refine sameBooths_trans (sameBooths_trans ?_ (hcqPut_sameBooths ..)) (ih _)
          exact ⟨rfl, rfl, rfl⟩
        · split
          · exact sameBooths_of_agenda (enqueueOnce_agenda _ s)
          · exact sameBooths_refl s

theorem stewardsGoOn_sameBooths (s : State) : SameBooths s (stewardsGoOn s) :=
  List.foldlRecOn _ _ (sameBooths_refl s) fun _ hu t _ => sameBooths_trans hu (serveNext_sameBooths _ t.1 t.2 _)

theorem wakeWriters_noneHalted {s : State} (h : NoneHalted s) : wakeWriters s = cartersGoOn (stewardsGoOn s) := by
  have hnone : (stewardsGoOn s).booths.filter (fun b => b.2.halted) = [] :=
    List.filter_eq_nil_iff.mpr fun b hb =>
      Bool.eq_false_iff.mp (noneHalted_of_booths (stewardsGoOn_sameBooths s) h b hb)
  rw [wakeWriters_eq, hnone, List.foldl_nil]

theorem wakeWriters_sameBooths {s : State} (h : NoneHalted s) : SameBooths s (wakeWriters s) := by
  rw [wakeWriters_noneHalted h]
  exact sameBooths_trans (stewardsGoOn_sameBooths s) (sameBooths_of_agenda (cartersGoOn_frame _))

/-- With no request either, the units that go on are the carters. -/
theorem wakeWriters_idle {s : State} (hr : s.requests = []) (h : NoneHalted s) : AgendaFrame s (wakeWriters s) := by
  have hs : stewardsGoOn s = s := by rw [stewardsGoOn, hr, List.foldl_nil]
  rw [wakeWriters_noneHalted h, hs]
  exact cartersGoOn_frame s

theorem flushHeld_sameBooths (p m : Nat) {s : State} (h : NoneHalted s) : SameBooths s (flushHeld p m s) := by
  unfold flushHeld
  dsimp only
  split
  · exact sameBooths_refl s
  · have hput : SameBooths s ((getHcq s p m).held.foldl (fun s e => hcqPut p m e s)
        (modHcq p m (fun q => { q with held := [] }) s)) :=
      List.foldlRecOn _ _ (modHcq_sameBooths ..) fun _ hu e _ => sameBooths_trans hu (hcqPut_sameBooths p m e _)
    exact sameBooths_trans hput (wakeWriters_sameBooths (noneHalted_of_booths hput h))

end Sys2Proof.Machine
end

section
/-!
PROOFS. O57: the semaphore and the registers of a host port, its link, and the time-outs (R162, R380 to R382, R387).
-/

namespace Sys2Proof.Machine

open Sys2Proof.Safety

/-! ### The semaphore (R381) -/

theorem holdsSema_of_owner {s : State} {p : Nat} (h : s.sema = portOwner p) : holdsSema s p = true := beq_iff_eq.mpr h
theorem holdsSema_of_other {s : State} {p : Nat} (h : s.sema ≠ portOwner p) : holdsSema s p = false :=
  beq_eq_false_iff_ne.mpr h

theorem freeSema_eq (s : State) :
    freeSema s = { s with sema := if freezing s then 3 else 0, pagerSema := freezing s } := by
  unfold freeSema
  split
  · next h => rw [h]
  · next h => rw [Bool.eq_false_iff.mpr h]

theorem hostWrite_owner {s : State} {p : Nat} (h : s.sema = portOwner p) (off : Nat) (f : State → State) :
    hostWrite p off f s = f s := if_pos (holdsSema_of_owner h)
theorem hostWrite_other {s : State} {p : Nat} (h : s.sema ≠ portOwner p) (off : Nat) (f : State → State) :
    hostWrite p off f s = refuseLog (portDie p) (portUnit p) off 0 s :=
  if_neg (by rw [holdsSema_of_other h]; exact Bool.false_ne_true)

theorem execHsemaRead_grants (p : Nat) (s : State) : ∃ t, execHsemaRead p s = .next t ∧
    t.out = s.out ++ [.read p (s.sema.zeroExtend 64)] ∧ (s.sema = 0 → t.sema = portOwner p) ∧
    (s.sema ≠ 0 → t.sema = s.sema) ∧ t.mem = s.mem := by
  refine ⟨_, rfl, ?_⟩
  unfold semaRead
  dsimp only
  split
  · next h => exact ⟨rfl, fun _ => rfl, fun hn => absurd h hn, rfl⟩
  · next h => exact ⟨rfl, fun h0 => absurd h0 h, fun _ => rfl, rfl⟩

theorem execHsemaWrite_owner {p : Nat} {v : Word} {s : State} (hv : v = 0) (h : s.sema = portOwner p) :
    execHsemaWrite p v s = .next { s with sema := if freezing s then 3 else 0, pagerSema := freezing s } := by
  rw [execHsemaWrite, if_pos ⟨hv, holdsSema_of_owner h⟩, freeSema_eq]

theorem execHsemaWrite_other {p : Nat} {v : Word} {s : State} (h : v ≠ 0 ∨ s.sema ≠ portOwner p) :
    execHsemaWrite p v s = .next s := by
  refine congrArg _ (if_neg ?_)
  rintro ⟨hv, hs⟩
  rcases h with h | h
  · exact h hv
  · rw [holdsSema_of_other h] at hs
    cases hs

theorem loseSema_owner {s : State} {p : Nat} (h : s.sema = portOwner p) :
    loseSema p s = refuseLog (portDie p) (portUnit p) 0x10 0 (freeSema s) := if_pos (holdsSema_of_owner h)
theorem loseSema_other {s : State} {p : Nat} (h : s.sema ≠ portOwner p) : loseSema p s = s :=
  if_neg (by rw [holdsSema_of_other h]; exact Bool.false_ne_true)

theorem loseSema_ports (p : Nat) (s : State) : (loseSema p s).ports = s.ports := by
  unfold loseSema
  split
  · rw [refuseLog, logTo_ports, freeSema_eq]
  · rfl

/-- R381: the owner loses the semaphore to the pager while an urgent freeze is in progress. -/
theorem loseSema_sema {s : State} {p : Nat} (h : s.sema = portOwner p) :
    (loseSema p s).sema = if freezing s then 3 else 0 := by
  rw [loseSema_owner h, refuseLog, logTo_frame, freeSema_eq]

/-! ### Registers (R380, R382) -/

theorem execDevctlFwact_other {p : Nat} {s : State} (h : s.sema ≠ portOwner p) : ∃ t, execDevctlFwact p s = .next t ∧
    t.fwact = s.fwact ∧ (MemInv s → ∀ k, logKey s (portDie p) k = false → readByte t k = readByte s k) := by
  refine ⟨_, congrArg Host.Outcome.next (hostWrite_other h _ _), ?_, fun hm k hk => cellGet_logTo _ _ s k hm hk⟩
  rw [refuseLog, logTo_frame]

theorem execBarRegisterWrite_powercap (p : Nat) (v : Word) (s : State) :
    execBarRegisterWrite p 0x40 v s = .next (hostWrite p 0x40 (writePowercap v) s) := rfl

theorem execBarRegisterWrite_powercap_owner {p : Nat} (v : Word) {s : State} (h : s.sema = portOwner p) :
    execBarRegisterWrite p 0x40 v s = .next { s with powercap := BitVec.ofNat 12 (min (v.toNat % 4096) 2400) } := by
  have hfld : fld v 0 12 = v.toNat % 4096 := fld_zero v 12
  rw [execBarRegisterWrite_powercap, hostWrite_owner h, writePowercap, hfld]

theorem execBarRegisterWrite_powercap_other {p : Nat} (v : Word) {s : State} (h : s.sema ≠ portOwner p) :
    ∃ t, execBarRegisterWrite p 0x40 v s = .next t ∧ t.powercap = s.powercap := by
  refine ⟨_, congrArg Host.Outcome.next (hostWrite_other h _ _), ?_⟩
  rw [refuseLog, logTo_frame]

theorem execBarRegisterWrite_hqbase (p : Nat) {q : Nat} (hq : q < 16) (v : Word) (s : State) :
    execBarRegisterWrite p (0x10000 + 0x40 * q) v s = .next (writeHqbase p q v s) := by
  have hindex : (0x10000 + 0x40 * q - 0x10000) / 0x40 = q := by omega
  rw [execBarRegisterWrite, if_neg (by omega), if_neg (by omega), if_pos (by omega), hindex]

theorem getHq_writeHqbase {p q : Nat} (hp : p < 2) (v : Word) {s : State} (he : (getHq s p q).en = false) :
    getHq (writeHqbase p q v s) p q = { getHq s p q with base := pageAligned v } := by
  rw [writeHqbase, he, if_neg Bool.false_ne_true, getHq_modHq_same hp]

theorem writeHqbase_enabled {p q : Nat} (v : Word) {s : State} (he : (getHq s p q).en = true) : writeHqbase p q v s = s :=
  if_pos he

/-- R382: an enabled queue is one whose size is allowed, and it starts at position 0. -/
theorem execHqctlWrite_disabled {p q : Nat} (hp : p < 2) (v : Word) {s : State} (he : (getHq s p q).en = false) :
    ∃ t, execHqctlWrite p q v s = .next t ∧ (getHq t p q).logsize = v.toNat % 32 ∧
      ((getHq t p q).en = true → v.getLsbD 8 = true ∧ 4 ≤ v.toNat % 32 ∧ v.toNat % 32 ≤ 16 ∧
        (getHq t p q).pos = 0) := by
  refine ⟨_, if_neg (by rw [he]; exact Bool.false_ne_true), ?_⟩
  have hfld : fld v 0 5 = v.toNat % 32 := fld_zero v 5
  rw [getHq_modHq_same hp, hfld]
  dsimp only
  generalize (if q < 4 then (getHq s p q).target else v.extractLsb' 32 32) = target
  split
  · next hon =>
    rw [mayEnable] at hon
    simp only [Bool.and_eq_true, decide_eq_true_eq] at hon
    obtain ⟨hbit, ⟨hlow, hhigh⟩, -⟩ := hon
    exact ⟨rfl, fun _ => ⟨hbit, hlow, hhigh, rfl⟩⟩
  · next hoff => exact ⟨rfl, fun h => absurd h hoff⟩

theorem execHqctlWrite_stays {p q : Nat} {v : Word} {s : State} (he : (getHq s p q).en = true) (hv : v.getLsbD 8 = true) :
    execHqctlWrite p q v s = .next s := (if_pos he).trans (congrArg _ (if_pos hv))

theorem execHqctlWrite_clears {p q : Nat} (hp : p < 2) {v : Word} {s : State} (he : (getHq s p q).en = true)
    (hv : v.getLsbD 8 = false) : ∃ t, execHqctlWrite p q v s = .next t ∧ (getHq t p q).en = false ∧
      (getHq t p q).logsize = (getHq s p q).logsize := by
  refine ⟨_, (if_pos he).trans (congrArg _ (if_neg (by rw [hv]; exact Bool.false_ne_true))), ?_⟩
  rw [getHq_modHq_same hp]
  exact ⟨rfl, rfl⟩

/-! ### A port that stops (R387) -/

/-- A host queue and a completion queue of a port that stops, and the port. -/
def hqStopped (q : HostQueue) : HostQueue := { q with en := false }
def hcqStopped (q : HostCq) : HostCq := { q with en := false, lost := true }
def portStopped (t : Port) : Port :=
  { t with hqs := t.hqs.map fun q => (q.1, hqStopped q.2), hcqs := t.hcqs.map fun q => (q.1, hcqStopped q.2) }

theorem stopPort_eq (p : Nat) (s : State) : stopPort p s = loseSema p (modPort p portStopped s) := rfl

theorem getPort_stopPort {p : Nat} (hp : p < 2) (s : State) : getPort (stopPort p s) p = portStopped (getPort s p) := by
  rw [stopPort_eq, getPort_of_ports (loseSema_ports p _), getPort_modPort_same _ _ hp]

theorem stopPort_queues {p : Nat} (hp : p < 2) (s : State) (q : Nat) :
    (getHq (stopPort p s) p q).en = false ∧ (getHq (stopPort p s) p q).pos = (getHq s p q).pos ∧
      (getHcq (stopPort p s) p q).en = false ∧ (getHcq (stopPort p s) p q).pos = (getHcq s p q).pos := by
  rw [getHq, getHcq, getPort_stopPort hp]
  exact ⟨tget_map_field (f := hqStopped) HostQueue.en rfl _ q, tget_map_field (f := hqStopped) HostQueue.pos rfl _ q,
    tget_map_field (f := hcqStopped) HostCq.en rfl _ q, tget_map_field (f := hcqStopped) HostCq.pos rfl _ q⟩

theorem stopPort_up {p : Nat} (hp : p < 2) (s : State) : (getPort (stopPort p s) p).up = (getPort s p).up := by
  rw [getPort_stopPort hp]
  rfl

theorem stopPort_sema_owner {s : State} {p : Nat} (h : s.sema = portOwner p) :
    (stopPort p s).sema = if freezing s then 3 else 0 := by
  rw [stopPort_eq, loseSema_sema (by rwa [modPort_sema]), modPort_frame]
  rfl
theorem stopPort_sema_other {s : State} {p : Nat} (h : s.sema ≠ portOwner p) : (stopPort p s).sema = s.sema := by
  rw [stopPort_eq, loseSema_other (by rwa [modPort_sema]), modPort_sema]

/-- The link of a port is down, and its queues are as they were. -/
theorem linkDown_up {p : Nat} (hp : p < 2) (s : State) :
    (getPort (modPort p (fun t => { t with up := false }) s) p).up = false := by rw [getPort_modPort_same _ _ hp]
theorem linkDown_hqs (p : Nat) (s : State) :
    (getPort (modPort p (fun t => { t with up := false }) s) p).hqs = (getPort s p).hqs :=
  modPort_field Port.hqs (fun _ => by rfl) ..
theorem linkDown_hcqs (p : Nat) (s : State) :
    (getPort (modPort p (fun t => { t with up := false }) s) p).hcqs = (getPort s p).hcqs :=
  modPort_field Port.hcqs (fun _ => by rfl) ..

theorem execHostLinkDown_stops {p : Nat} (hp : p < 2) (s : State) : ∃ t, execHostLinkDown p s = .next t ∧
    (getPort t p).up = false ∧
    (∀ q, (getHq t p q).en = false ∧ (getHq t p q).pos = (getHq s p q).pos ∧ (getHcq t p q).en = false ∧
      (getHcq t p q).pos = (getHcq s p q).pos) ∧
    (s.sema = portOwner p → t.sema = if freezing s then 3 else 0) ∧ (s.sema ≠ portOwner p → t.sema = s.sema) := by
  refine ⟨_, rfl, linkDown_up hp _, fun q => ?_, fun h => (modPort_sema ..).trans (stopPort_sema_owner h),
    fun h => (modPort_sema ..).trans (stopPort_sema_other h)⟩
  rw [getHq_of_hqs (linkDown_hqs ..), getHcq_of_hcqs (linkDown_hcqs ..)]
  exact stopPort_queues hp s q

theorem execFunctionLevelReset_stops {p : Nat} (hp : p < 2) (s : State) : ∃ t, execFunctionLevelReset p s = .next t ∧
    (getPort t p).up = (getPort s p).up ∧ (∀ q, (getHq t p q).en = false ∧ (getHcq t p q).en = false) ∧
    (s.sema = portOwner p → t.sema = if freezing s then 3 else 0) := by
  refine ⟨_, rfl, stopPort_up hp s, fun q => ?_, stopPort_sema_owner⟩
  obtain ⟨hhq, -, hhcq, -⟩ := stopPort_queues hp s q
  exact ⟨hhq, hhcq⟩

/-! ### A link that comes up (R162) -/

/-- What waits for a link has its events. -/
def linkAwaited (s : State) : State :=
  let s := (hostStrands s).foldl (fun s e => enqueueOnce (.pagerReissue e) s) s
  let s := (hostEngines s).foldl (fun s e => enqueueOnce (.pagerResume e) s) s
  { s with internal := s.internal ++ hostReplies s }

theorem linkAwaited_frame (s : State) : AgendaFrame s (linkAwaited s) := by
  have hstrands (u : State) := agendaFrame_foldl (fun v e => enqueueOnce_agenda (.pagerReissue e) v) (hostStrands u) u
  have hengines (u : State) := agendaFrame_foldl (fun v e => enqueueOnce_agenda (.pagerResume e) v) (hostEngines u) u
  refine agendaFrame_trans (agendaFrame_trans (hstrands s) (hengines _)) ?_
  rfl

/-- The state in which the queues of a port whose link is up write what they held. -/
def linkUp (p : Nat) (s : State) : State := linkAwaited (modPort p (fun t => { t with up := true }) s)

theorem execHostLinkUp_eq (p : Nat) (s : State) :
    execHostLinkUp p s = .next (wakeWriters ((List.range 16).foldl (fun s m => flushHeld p m s) (linkUp p s))) := rfl

theorem linkUp_up {p : Nat} (hp : p < 2) (s : State) : (getPort (linkUp p s) p).up = true := by
  rw [linkUp, getPort_of_ports (ports_of_agenda (linkAwaited_frame _)), getPort_modPort_same _ _ hp]

theorem linkUp_sameBooths (p : Nat) (s : State) : SameBooths s (linkUp p s) := by
  refine sameBooths_trans ?_ (sameBooths_of_agenda (linkAwaited_frame _))
  exact ⟨modPort_strands .., modPort_queues .., modPort_booths ..⟩

theorem execHostLinkUp_up {p : Nat} (hp : p < 2) (s : State) : ∃ t, execHostLinkUp p s = .next t ∧
    (getPort t p).up = true ∧ (NoneHalted s → t.strands = s.strands) := by
  refine ⟨_, execHostLinkUp_eq p s, ?_, fun h => ?_⟩
  · have hflush : PortsStay (linkUp p s) ((List.range 16).foldl (fun s m => flushHeld p m s) (linkUp p s)) :=
      List.foldlRecOn _ _ (portsStay_refl _) fun _ hu m _ => portsStay_trans hu (flushHeld_portsStay p m _)
    exact (wakeWriters_keeps (keptByEntries_portsStay _) hflush p).up.trans (linkUp_up hp s)
  · have hflush : SameBooths s ((List.range 16).foldl (fun s m => flushHeld p m s) (linkUp p s)) :=
      List.foldlRecOn _ _ (linkUp_sameBooths p s) fun _ hu m _ =>
        sameBooths_trans hu (flushHeld_sameBooths p m (noneHalted_of_booths hu h))
    obtain ⟨hstrands, -, -⟩ := sameBooths_trans hflush (wakeWriters_sameBooths (noneHalted_of_booths hflush h))
    exact hstrands

/-! ### No link within the time (R162) -/

/-- What logs and events on their way leave of the strands and engines; the agenda keeps what it lists. -/
structure Notified (s t : State) : Prop where
  strands : t.strands = s.strands
  carters : t.carters = s.carters
  looms : t.looms = s.looms
  agenda : s.internal ⊆ t.internal

theorem notified_refl (s : State) : Notified s s := ⟨rfl, rfl, rfl, List.Subset.refl _⟩
theorem notified_trans {s t u : State} (h : Notified s t) (h' : Notified t u) : Notified s u :=
  ⟨h'.strands.trans h.strands, h'.carters.trans h.carters, h'.looms.trans h.looms, fun _ hi => h'.agenda (h.agenda hi)⟩

theorem logTo_notified (die : Nat) (rs : List (BitVec 512)) (s : State) : Notified s (logTo die rs s) := by
  rw [logTo_frame]
  exact ⟨rfl, rfl, rfl, List.Subset.refl _⟩

theorem enqueueOnce_notified (i : Instr) (s : State) : Notified s (enqueueOnce i s) := by
  unfold enqueueOnce
  split
  · exact notified_refl s
  · exact ⟨rfl, rfl, rfl, List.subset_append_left ..⟩

/-- A step that logs and then puts the event of its element on the agenda. -/
def Notifies {α : Type} (i : α → Instr) (f : State → α → State) : Prop :=
  ∀ s a, ∃ u, Notified s u ∧ f s a = enqueueOnce (i a) u

/-- A fold of such steps puts every element's event on the agenda. -/
theorem foldl_notifies {α : Type} {i : α → Instr} {f : State → α → State} (hf : Notifies i f) (l : List α)
    (s : State) :
    Notified s (l.foldl f s) ∧ ∀ a ∈ l, i a ∈ (l.foldl f s).internal := by
  have hstep (u : State) (a : α) : Notified u (f u a) ∧ i a ∈ (f u a).internal := by
    obtain ⟨v, hv, he⟩ := hf u a
    rw [he]
    exact ⟨notified_trans hv (enqueueOnce_notified _ v), mem_enqueueOnce _ v⟩
  exact foldl_establishes (I := Notified s) (P := fun a u => i a ∈ u.internal) (fun u a hu => notified_trans hu (hstep u a).1)
    (fun u a _ => (hstep u a).2) (fun u a b _ ha => (hstep u b).1.agenda ha) l (notified_refl s)

theorem hostEngines_of_notified {s t : State} (h : Notified s t) : hostEngines t = hostEngines s := by
  rw [hostEngines, hostEngines, h.carters, h.looms]

/-- What waits for host memory is told: the strands with one event, the engines with another. -/
theorem foldl_notifies_waiting {i : SRef → Instr} {j : Engine → Instr} {f : State → SRef → State}
    {g : State → Engine → State}
    (hf : Notifies i f) (hg : Notifies j g) (s : State) :
    let u := (hostStrands s).foldl f s
    let t := (hostEngines u).foldl g u
    t.strands = s.strands ∧ (∀ e, e ∈ hostStrands s → i e ∈ t.internal) ∧
      ∀ e, e ∈ hostEngines s → j e ∈ t.internal := by
  obtain ⟨hu, hstrands⟩ := foldl_notifies hf (hostStrands s) s
  rw [← hostEngines_of_notified hu]
  obtain ⟨ht, hengines⟩ := foldl_notifies hg (hostEngines ((hostStrands s).foldl f s)) ((hostStrands s).foldl f s)
  exact ⟨ht.strands.trans hu.strands, fun e he => ht.agenda (hstrands e he), hengines⟩

theorem execHostAccessTimeout_up {s : State} (h : hostDown s = false) : execHostAccessTimeout s = .next s :=
  if_pos (by rw [h]; rfl)

theorem execHostAccessTimeout_down {s : State} (h : hostDown s = true) : ∃ t, execHostAccessTimeout s = .next t ∧
    t.strands = s.strands ∧ (∀ e, e ∈ hostStrands s → Instr.pagerDeliver e .seg ∈ t.internal) ∧
    (∀ e, e ∈ hostEngines s → Instr.pagerAbort e ∈ t.internal) := by
  refine ⟨_, if_neg (by rw [h]; exact Bool.false_ne_true), ?_⟩
  exact foldl_notifies_waiting (i := fun e => .pagerDeliver e .seg) (j := fun e => .pagerAbort e)
    (fun u e => ⟨_, logTo_notified .., rfl⟩) (fun u e => ⟨_, logTo_notified .., rfl⟩) s

end Sys2Proof.Machine
end

section
/-!
PROOFS. O57: the positions of the completion queues (R283, R383, R385) and the host queues (R281, R282, R382).
-/

namespace Sys2Proof.Machine

open Sys2Proof.Safety

/-! ### HCREL and entries held too long (R383, R385) -/

theorem execHcrel_forward {p m : Nat} (hp : p < 2) {v : BitVec 32} {s : State}
    (h : (v - (getHcq s p m).rel).toNat < 2 ^ 31) : ∃ t, execHcrel p m v s = .next t ∧ (getHcq t p m).rel = v := by
  refine ⟨_, if_pos h, (((flushHeld_portsStay p m (modHcq p m (fun q => { q with rel := v }) s)) p).rel m).trans ?_⟩
  exact congrArg HostCq.rel (getHcq_modHcq_same hp m _ s)

theorem execHcrel_backward {p m : Nat} {v : BitVec 32} {s : State} (h : 2 ^ 31 ≤ (v - (getHcq s p m).rel).toNat) :
    execHcrel p m v s = .next s := if_neg (Nat.not_lt.mpr h)

theorem execCompletionHoldTimeout_idle {p m : Nat} {s : State}
    (h : (getHcq s p m).held = [] ∨ ((getPort s p).up = true ∧ (getHcq s p m).en = true)) :
    execCompletionHoldTimeout p m s = .next s := by
  unfold execCompletionHoldTimeout
  dsimp only
  split
  · rfl
  · next hheld =>
    rcases h with h | h
    · rw [h] at hheld
      cases hheld
    · exact if_pos (.inl h)

/-- The state that a dropped entry and its record of the log leave. -/
def entryDropped (p m : Nat) (r : List (BitVec 256)) (rs : List (BitVec 512)) (s : State) : State :=
  logTo (portDie p) rs (modHcq p m (fun q => { q with held := r }) s)

theorem entryDropped_held {p : Nat} (hp : p < 2) (m : Nat) (r : List (BitVec 256)) (rs : List (BitVec 512)) (s : State) :
    (getHcq (entryDropped p m r rs s) p m).held = r := by
  rw [entryDropped, getHcq_of_ports (logTo_ports ..), getHcq_modHcq_same hp]

theorem entryDropped_requests (p m : Nat) (r : List (BitVec 256)) (rs : List (BitVec 512)) (s : State) :
    (entryDropped p m r rs s).requests = s.requests := by
  rw [entryDropped, logTo_frame, modHcq_frame]

theorem entryDropped_sameBooths (p m : Nat) (r : List (BitVec 256)) (rs : List (BitVec 512)) (s : State) :
    SameBooths s (entryDropped p m r rs s) := sameBooths_trans (modHcq_sameBooths ..) (logTo_sameBooths ..)

theorem readByte_entryDropped (p m : Nat) (r : List (BitVec 256)) (rs : List (BitVec 512)) {s : State} {k : Nat}
    (hm : MemInv s) (hk : logKey s (portDie p) k = false) : readByte (entryDropped p m r rs s) k = readByte s k := by
  obtain ⟨ports, hports⟩ : ∃ ports, modHcq p m (fun q => { q with held := r }) s = { s with ports := ports } :=
    ⟨_, modHcq_frame ..⟩
  rw [entryDropped, hports]
  exact cellGet_logTo (portDie p) rs _ k hm hk

/-- R385: the first entry that a queue holds is dropped and logged. -/
theorem execCompletionHoldTimeout_drops {p m : Nat} {s : State} {e : BitVec 256} {r : List (BitVec 256)}
    (he : (getHcq s p m).held = e :: r) (hup : (getPort s p).up = false)
    (hd : 10 ^ 9 ≤ (s.devtime - e.extractLsb' 128 64).toNat) : ∃ rs,
    execCompletionHoldTimeout p m s = .next (wakeWriters (entryDropped p m r rs s)) := by
  unfold execCompletionHoldTimeout
  dsimp only
  rw [he]
  refine ⟨_, if_neg ?_⟩
  rintro (⟨h, -⟩ | h)
  · rw [hup] at h
    cases h
  · omega

theorem wakeWriters_held (p m : Nat) (s : State) : ∃ more, (getHcq (wakeWriters s) p m).held = (getHcq s p m).held ++ more :=
  wakeWriters_keeps (keptByEntries_heldGrows s) (heldGrows_refl s) p m

/-- With no unit to go on, a dropped entry leaves the others and the bytes outside the log. -/
theorem wakeWriters_entryDropped {p : Nat} (hp : p < 2) (m : Nat) (r : List (BitVec 256)) (rs : List (BitVec 512)) {s : State}
    (hr : s.requests = []) (hb : NoneHalted s) : (getHcq (wakeWriters (entryDropped p m r rs s)) p m).held = r ∧
      (MemInv s → ∀ k, logKey s (portDie p) k = false →
        readByte (wakeWriters (entryDropped p m r rs s)) k = readByte s k) := by
  have hidle := wakeWriters_idle ((entryDropped_requests p m r rs s).trans hr)
    (noneHalted_of_booths (entryDropped_sameBooths p m r rs s) hb)
  have hmem : (wakeWriters (entryDropped p m r rs s)).mem = (entryDropped p m r rs s).mem := by rw [hidle]
  refine ⟨?_, fun hm k hk => ?_⟩
  · rw [getHcq_of_ports (ports_of_agenda hidle), entryDropped_held hp]
  · rw [readByte_of_mem hmem]
    exact readByte_entryDropped p m r rs hm hk

/-- R283, R383: an entry that the queue takes goes to its place with its tag. -/
theorem hcqPut_taken_spec {p m : Nat} (hp : p < 2) {s : State} (h : HcqTakes s p m) (en : BitVec 256) (hm : MemInv s) :
    let ks := hcqKeys (getHcq s p m)
    (getHcq (hcqPut p m en s) p m).pos = (getHcq s p m).pos + 1 ∧
      readNat (hcqPut p m en s) ks / 2 ^ 24 % 2 ^ 8 = (getHcq s p m).pos % 255 + 1 ∧
      readNat (hcqPut p m en s) ks % 2 ^ 24 = en.toNat % 2 ^ 24 ∧
      readNat (hcqPut p m en s) ks / 2 ^ 32 = en.toNat / 2 ^ 32 := by
  have htag : (getHcq s p m).pos % 255 + 1 < 2 ^ 8 := by omega
  intro ks
  rw [readNat_hcqPut h en hm]
  exact ⟨hcqPut_pos hp h en, withTag_tag en htag, withTag_below .., withTag_above en htag⟩

/-- R283: another entry is held. -/
theorem hcqPut_held_spec {p m : Nat} (hp : p < 2) {s : State} (h : ¬HcqTakes s p m) (en : BitVec 256) :
    (getHcq (hcqPut p m en s) p m).held = (getHcq s p m).held ++ [en] ∧ (hcqPut p m en s).mem = s.mem := by
  rw [hcqPut_held h, getHcq_modHcq_same hp, modHcq_frame]
  exact ⟨rfl, rfl⟩

theorem not_hcqTakes {s : State} {p m : Nat} (h : (getPort s p).up = false ∨ (getHcq s p m).en = false ∨
    2 ^ (getHcq s p m).logsize ≤ (BitVec.ofNat 32 (getHcq s p m).pos - (getHcq s p m).rel).toNat) : ¬HcqTakes s p m := by
  rintro ⟨hup, hen, -, hroom⟩
  rcases h with h | h | h
  · simp [hup] at h
  · simp [hen] at h
  · omega

/-! ### The serving carter (R282) -/

/-- R281: the entry at the position carries its tag. -/
def TagFits (s : State) (p q : Nat) : Prop :=
  ((readKeys s (keysFrom (hostKey (hqAddr (getHq s p q))) 64)).getD 63 0).toNat = hqTag (getHq s p q)

theorem hqEntry_fits {p q : Nat} {s : State} (h : TagFits s p q) (hq : q < 4) :
    ∃ r, hqEntry p q s = (true, deliverReq q r (hqAccept p q s)) := ⟨_, (if_neg (not_not.mpr h)).trans (if_pos hq)⟩
theorem hqEntry_again {p q : Nat} {s : State} (h : ¬TagFits s p q) (hr : (getHq s p q).rereads < 64) :
    hqEntry p q s = (false, enqueueOnce (.hostEntryReread p q)
      (modHq p q (fun h => { h with rereads := h.rereads + 1, since := s.devtime.toNat }) s)) := (if_pos h).trans (if_pos hr)
theorem hqEntry_stale {p q : Nat} {s : State} (h : ¬TagFits s p q) (hr : 64 ≤ (getHq s p q).rereads) :
    hqEntry p q s = (false, hqStale p q s) := (if_pos h).trans (if_neg (Nat.not_lt.mpr hr))

theorem hqServe_one (p q : Nat) (s : State) : hqServe p q 1 s = (hqEntry p q s).2 := by
  rw [hqServe]
  split <;> rfl

theorem getHq_of_portsStay {s t : State} (h : PortsStay s t) (p q : Nat) : getHq t p q = getHq s p q :=
  getHq_of_hqs (h p).hqs q

/-- R282: a fitting entry is accepted. -/
theorem hqServe_fits {p q : Nat} (hp : p < 2) {s : State} (h : TagFits s p q) (hq : q < 4) :
    (getHq (hqServe p q 1 s) p q).pos = (getHq s p q).pos + 1 := by
  obtain ⟨r, he⟩ := hqEntry_fits h hq
  have hstay : PortsStay (hqAccept p q s) (deliverReq q r (hqAccept p q s)) :=
    deliverReq_keeps (keptByEntries_portsStay _) q r (portsStay_refl _)
  rw [hqServe_one, he, getHq_of_portsStay hstay, hqAccept, getHq_modHq_same hp]

/-- R282: another entry is read again. -/
theorem hqServe_again {p q : Nat} (hp : p < 2) {s : State} (h : ¬TagFits s p q) (hr : (getHq s p q).rereads < 64) :
    (getHq (hqServe p q 1 s) p q).pos = (getHq s p q).pos ∧ (getHq (hqServe p q 1 s) p q).kick = (getHq s p q).kick ∧
      Instr.hostEntryReread p q ∈ (hqServe p q 1 s).internal := by
  rw [hqServe_one, hqEntry_again h hr, getHq_of_ports (enqueueOnce_ports ..), getHq_modHq_same hp]
  exact ⟨rfl, rfl, mem_enqueueOnce ..⟩

/-- R282: after 64 readings again the queue stops at its position. -/
theorem hqServe_stale {p q : Nat} (hp : p < 2) {s : State} (h : ¬TagFits s p q) (hr : 64 ≤ (getHq s p q).rereads) :
    (getHq (hqServe p q 1 s) p q).pos = (getHq s p q).pos ∧ (getHq (hqServe p q 1 s) p q).kick = (getHq s p q).pos := by
  rw [hqServe_one, hqEntry_stale h hr, hqStale, getHq_of_portsStay (hcqPut_portsStay _ _ _ _), getHq_modHq_same hp]
  exact ⟨rfl, rfl⟩

theorem unitHeld_modHq (p q : Nat) (f : HostQueue → HostQueue) (s : State) (src unit die : Nat) :
    unitHeld (modHq p q f s) src unit die = unitHeld s src unit die := by
  simp only [unitHeld, modHq_hcqs]

theorem hqLive_iff {s : State} {p q : Nat} : hqLive s p q = true ↔
    ((getPort s p).up = true ∧ (getHq s p q).en = true) ∧ unitHeld s 3 (hqUnit s p) (portDie p) = false := by
  rw [hqLive, Bool.and_eq_true, Bool.and_eq_true, Bool.not_eq_true']

theorem hqUnit_modHq (p q : Nat) (f : HostQueue → HostQueue) (s : State) (n : Nat) :
    hqUnit (modHq p q f s) n = hqUnit s n := by
  rw [modHq_frame]
  rfl

/-! ### HQKICK (R282, R382) -/

/-- The queue as a kick to `n` entries ahead leaves it. -/
def hqKicked (p q n : Nat) (s : State) : State :=
  modHq p q (fun h => { h with kick := (getHq s p q).pos + n, rereads := 0, accepted := 0 }) s

theorem execHqkick_ignored {p q : Nat} {pos : BitVec 32} {s : State}
    (h : ¬((getPort s p).up = true ∧ (getHq s p q).en = true) ∨
      2 ^ 31 ≤ (pos - BitVec.ofNat 32 (getHq s p q).pos).toNat) :
    execHqkick p q pos s = .next s := by
  refine if_pos (h.imp_left fun hlive => ?_)
  rw [Bool.not_eq_true', ← Bool.not_eq_true, Bool.and_eq_true]
  exact hlive

theorem execHqkick_next {p q : Nat} {pos : BitVec 32} {s : State} (hlive : (getPort s p).up = true ∧ (getHq s p q).en = true)
    (ha : pos = BitVec.ofNat 32 (getHq s p q).pos + 1) :
    execHqkick p q pos s =
      .next (if hqLive (hqKicked p q 1 s) p q then hqServe p q 1 (hqKicked p q 1 s) else hqKicked p q 1 s) := by
  have hn : (pos - BitVec.ofNat 32 (getHq s p q).pos).toNat = 1 := by
    rw [ha, add_sub_cancel_left]
    rfl
  unfold execHqkick
  dsimp only
  rw [hn, if_neg (by simp [hlive])]
  rfl

theorem getHq_hqKicked {p q : Nat} (hp : p < 2) (n : Nat) (s : State) : getHq (hqKicked p q n s) p q =
    { getHq s p q with kick := (getHq s p q).pos + n, rereads := 0, accepted := 0 } := getHq_modHq_same hp ..

theorem hqLive_hqKicked {p q : Nat} (hp : p < 2) (n : Nat) {s : State}
    (hlive : (getPort s p).up = true ∧ (getHq s p q).en = true) :
    hqLive (hqKicked p q n s) p q = true ↔ unitHeld s 3 (hqUnit s p) (portDie p) = false := by
  rw [hqLive_iff, getHq_hqKicked hp, hqKicked, modHq_up, hqUnit_modHq, unitHeld_modHq]
  exact and_iff_right hlive

theorem tagFits_hqKicked {p q : Nat} (hp : p < 2) (n : Nat) (s : State) : TagFits (hqKicked p q n s) p q ↔ TagFits s p q := by
  have hread (ks : List Nat) : readKeys (hqKicked p q n s) ks = readKeys s ks := by
    rw [hqKicked, modHq_frame]
    rfl
  rw [TagFits, TagFits, hread, getHq_hqKicked hp]
  rfl

section
variable {p q : Nat} (hp : p < 2) {pos : BitVec 32} {s : State} (hlive : (getPort s p).up = true ∧ (getHq s p q).en = true)
  (ha : pos = BitVec.ofNat 32 (getHq s p q).pos + 1)
include hp hlive ha

/-- R283: while the serving carter stalls the kick is only recorded. -/
theorem execHqkick_recorded (hheld : unitHeld s 3 (hqUnit s p) (portDie p) = true) : ∃ t, execHqkick p q pos s = .next t ∧
    (getHq t p q).pos = (getHq s p q).pos ∧ (getHq t p q).kick = (getHq s p q).pos + 1 ∧ t.requests = s.requests := by
  have hidle : ¬hqLive (hqKicked p q 1 s) p q = true := by
    rw [hqLive_hqKicked hp 1 hlive, hheld]
    exact nofun
  refine ⟨_, execHqkick_next hlive ha, ?_⟩
  rw [if_neg hidle, getHq_hqKicked hp]
  exact ⟨rfl, rfl, modPort_requests ..⟩

theorem execHqkick_served (hheld : unitHeld s 3 (hqUnit s p) (portDie p) = false) :
    execHqkick p q pos s = .next (hqServe p q 1 (hqKicked p q 1 s)) := by
  rw [execHqkick_next hlive ha, if_pos ((hqLive_hqKicked hp 1 hlive).mpr hheld)]

theorem execHqkick_accepts (hheld : unitHeld s 3 (hqUnit s p) (portDie p) = false) (hgood : TagFits s p q) (hq : q < 4) :
    ∃ t, execHqkick p q pos s = .next t ∧ (getHq t p q).pos = (getHq s p q).pos + 1 := by
  refine ⟨_, execHqkick_served hp hlive ha hheld, ?_⟩
  rw [hqServe_fits hp ((tagFits_hqKicked hp 1 s).mpr hgood) hq, getHq_hqKicked hp]

theorem execHqkick_rereads (hheld : unitHeld s 3 (hqUnit s p) (portDie p) = false) (hbad : ¬TagFits s p q) :
    ∃ t, execHqkick p q pos s = .next t ∧ (getHq t p q).pos = (getHq s p q).pos ∧
      (getHq t p q).kick = (getHq s p q).pos + 1 ∧ Instr.hostEntryReread p q ∈ t.internal := by
  have hk := getHq_hqKicked (q := q) hp 1 s
  obtain ⟨hpos, hkick, hagenda⟩ := hqServe_again hp (mt (tagFits_hqKicked hp 1 s).mp hbad)
    (by rw [hk]; exact Nat.zero_lt_succ _)
  rw [hk] at hpos hkick
  exact ⟨_, execHqkick_served hp hlive ha hheld, hpos, hkick, hagenda⟩

end

/-! ### HOST_ENTRY_REREAD (R282) -/

theorem execHostEntryReread_off {p q : Nat} {s : State} (h : ¬((getPort s p).up = true ∧ (getHq s p q).en = true)) :
    execHostEntryReread p q s = .next s := by
  refine if_pos (.inl ?_)
  rw [Bool.not_eq_true', ← Bool.not_eq_true, hqLive_iff]
  exact fun h' => h h'.1

theorem execHostEntryReread_reads {p q : Nat} {s : State} (hlive : (getPort s p).up = true ∧ (getHq s p q).en = true)
    (hheld : unitHeld s 3 (hqUnit s p) (portDie p) = false) (hk : (getHq s p q).kick = (getHq s p q).pos + 1)
    (hdue : (getHq s p q).rereads = 0 ∨ (getHq s p q).since + 128 ≤ s.devtime.toNat) :
    execHostEntryReread p q s = .next (hqServe p q 1 s) := by
  have hl : hqLive s p q = true := hqLive_iff.mpr ⟨hlive, hheld⟩
  unfold execHostEntryReread
  dsimp only
  rw [hl, hk, if_neg (by simp), if_neg (by omega), Nat.add_sub_cancel_left]

end Sys2Proof.Machine
end

section
open Sys2Proof Sys2Proof.Machine Sys2Proof.Safety

/-- Settles O57: the semaphore, the registers and the links by their cases; a completion queue by whether it takes the entry;
a kick by whether the carter serves the queue and whether the entry's tag fits. -/
theorem hostPortEvents : Obligations.HostPortEvents := by
  unfold Obligations.HostPortEvents
  refine ⟨fun p v s hp => ?_, fun p s hp => ?_, fun p m v s hp => ?_, fun p m en s hp hm => ?_, fun p q pos v s hp => ?_⟩
  · refine ⟨execHsemaRead_grants p s, execHsemaWrite_owner, execHsemaWrite_other,
      fun h => congrArg Host.Outcome.next (hostWrite_owner h _ _), execDevctlFwact_other,
      execBarRegisterWrite_powercap_owner v, execBarRegisterWrite_powercap_other v, fun q hq he => ?_, fun q hq he => ?_⟩
    · refine ⟨_, execBarRegisterWrite_hqbase p hq v s, ?_⟩
      rw [getHq_writeHqbase hp v he]
      exact ⟨rfl, rfl⟩
    · exact (execBarRegisterWrite_hqbase p hq v s).trans (congrArg _ (writeHqbase_enabled v he))
  · refine ⟨execHostLinkUp_up hp s, execHostLinkDown_stops hp s, execFunctionLevelReset_stops hp s,
      fun h => execHostAccessTimeout_up ?_, fun h0 h1 => execHostAccessTimeout_down ?_⟩
    · rcases h with h | h <;> simp [hostDown, h]
    · simp [hostDown, h0, h1]
  · refine ⟨execHcrel_forward hp, execHcrel_backward, execCompletionHoldTimeout_idle, fun e r he hup hd => ?_⟩
    obtain ⟨rs, hrs⟩ := execCompletionHoldTimeout_drops he hup hd
    obtain ⟨more, hmore⟩ := wakeWriters_held p m (entryDropped p m r rs s)
    rw [entryDropped_held hp] at hmore
    exact ⟨_, hrs, ⟨more, hmore⟩, wakeWriters_entryDropped hp m r rs⟩
  · exact ⟨fun hup hen hheld hroom => hcqPut_taken_spec hp ⟨hup, hen, hheld, hroom⟩ en hm,
      fun h => hcqPut_held_spec hp (not_hcqTakes h) en⟩
  · refine ⟨fun h => ⟨execHqkick_ignored (.inl h), execHostEntryReread_off h⟩, fun h => execHqkick_ignored (.inr h),
      fun hlive hheld ha => execHqkick_recorded hp hlive ha hheld,
      fun hlive hheld ha hgood hq => execHqkick_accepts hp hlive ha hheld hgood hq,
      fun hlive hheld ha hbad => execHqkick_rereads hp hlive ha hheld hbad,
      fun hlive hheld hk hdue => ⟨fun hgood hq => ?_, fun hbad hr => ?_⟩,
      execHqctlWrite_stays, execHqctlWrite_clears hp, execHqctlWrite_disabled hp v⟩
    · exact ⟨_, execHostEntryReread_reads hlive hheld hk hdue, hqServe_fits hp hgood hq⟩
    · exact ⟨_, execHostEntryReread_reads hlive hheld hk hdue, hqServe_stale hp hbad hr⟩

end
